-- ==== Sys2Proof/Word.lean ====
section
/-! DEFINITION. The word types of the Druom 4016 and the small name types that instructions and steps carry.
Names of agents (dies, tiles, queues, …) are plain numbers: the manual numbers them and never adds them. -/

set_option Elab.async false

namespace Sys2Proof

/-- A 64-bit scalar register or register-file word (R231). -/
abbrev Word := BitVec 64
/-- One byte of storage (R5). -/
abbrev Byte := BitVec 8
/-- One 40-bit lane word (R46). -/
abbrev Lane := BitVec 40
/-- A 128-bit stream command, composed by software as one word (R116). -/
abbrev Cmd128 := BitVec 128
/-- A scalar register name s0–s31 (R119). -/
abbrev Reg := BitVec 5
/-- A predicate name p0–p7 (R119). -/
abbrev Pred := BitVec 3
/-- A plane seed register name g0–g15 (R119). -/
abbrev SeedReg := BitVec 4

/-- The relations of `pset`: the cond codes 0 to 5 (R119). -/
inductive Cond where
  | eq | ne | lt | ge | ltu | geu
deriving DecidableEq, Repr

/-- The functions of `plog`: the fn codes 0 to 4 (R119). -/
inductive LogFn where
  | and | or | xor | andn | not
deriving DecidableEq, Repr

/-- A unit, by the number it takes when it is bound. -/
abbrev UnitId := Nat
/-- A block instance, by the number it takes when it begins (R31). -/
abbrev InstId := Nat
/-- An engine operation, by the number it takes when it is issued (R85). -/
abbrev OpId := Nat

/-- A tile-plane: die 0–3, tile index 8·ty + tx, plane 0–4 (R9, R10). -/
structure Tp where
  die : Nat
  tile : Nat
  plane : Nat
deriving DecidableEq, Repr

/-- An operator or router of a loaded image: the tile-plane the image was loaded onto, the block index,
whether it is a router word, and its slot or router number; slot 32·k + i is copy k of the triplicated operator in slot i (R362). -/
structure Site where
  tp : Tp
  blk : Nat
  rtr : Bool
  slot : Nat
deriving DecidableEq, Repr

/-- A sheave stream: die, sheave 0–15, stream 0–15 (R199). -/
structure StreamId where
  die : Nat
  shv : Nat
  strm : Nat
deriving DecidableEq, Repr

/-- A BTE channel: die, channel 0–31 (R208). -/
structure ChanId where
  die : Nat
  ch : Nat
deriving DecidableEq, Repr

/-- The kinds of chain and queue, in the order of the WAIT word's kind field (Table 8.4). -/
inductive ChainKind where
  | gre | qe | nmc | mxq
deriving DecidableEq, Repr

/-- A command chain or task queue of a die (R193). -/
structure ChainId where
  kind : ChainKind
  die : Nat
  num : Nat
deriving DecidableEq, Repr

/-- A user queue: die, queue 0–1023 (R282). -/
structure QueueId where
  die : Nat
  q : Nat
deriving DecidableEq, Repr

/-- Who issues a stream command: a tile sequencer by `cmd`, or a chain or task queue by its entry number (R116). -/
inductive Issuer where
  | seq (u : UnitId)
  | chain (k : ChainId) (entry : Nat)
deriving DecidableEq, Repr

/-- A PCI Express function: the physical function or virtual function v (R278). -/
inductive PcieFn where
  | pf
  | vf (v : Nat)
deriving DecidableEq, Repr

/-- The PCI Express AtomicOps the device completes (Table 13.1). -/
inductive PcieAtomic where
  | fetchAdd | swap | cas
deriving DecidableEq, Repr

/-- What a withheld translation belongs to (R332): a unit's sequencer, a block instance's issued operation,
an engine operation, or the reading of a chain. -/
inductive Withheld where
  | seq (u : UnitId)
  | inst (n : InstId)
  | eng (n : OpId)
  | chain (k : ChainId)
deriving DecidableEq, Repr

/-- How the training of a link's retrain went (R376, R379): the lanes that failed it, whether the
requested rate failed, and the peer a halyard found. -/
structure TrainOutcome where
  failedLanes : Nat
  halfTrains : Bool
  rateFails : Bool
  peer : BitVec 16
deriving DecidableEq, Repr

/-- An access that another device makes through a kind-6 page (R380): a read of some bytes, or a write. -/
inductive RemoteAccess where
  | read (dpa len : Nat)
  | write (dpa : Nat) (bytes : List Byte)
deriving DecidableEq, Repr

end Sys2Proof
end

