-- ==== Sys2Proof/Syntax.lean ====
section
/-! DEFINITION. The instructions: one constructor for each row of spec/opcode_table.json.
The scalar rows carry the decoded fields of Table 4.12. The rows without bits of their own are steps of the
device: each carries the names of what it acts on (the operator that fires, the command and its issuer,
the queue, the chain, …), and everything else it needs it reads from the state.
The order is the table's, but for two things: the illegal instruction stands among the scalar instructions, and the steps that compiled code
has least need to build stand last, since Lean compiles no constructor with fields beyond the 244th. -/

namespace Sys2Proof

/-- The instructions and steps of the Druom 4016: one constructor per row of spec/opcode_table.json. -/
inductive Instr where
  /-- ADD (R237): Sets rd to the 64-bit wrapping sum of rs1 and rs2. -/
  | add (rd rs1 rs2 : Reg)
  /-- SUB (R237): Sets rd to the 64-bit wrapping difference of rs1 and rs2. -/
  | sub (rd rs1 rs2 : Reg)
  /-- AND (R237): Sets rd to the bitwise AND of rs1 and rs2. -/
  | and (rd rs1 rs2 : Reg)
  /-- OR (R237): Sets rd to the bitwise OR of rs1 and rs2. -/
  | or (rd rs1 rs2 : Reg)
  /-- XOR (R237): Sets rd to the bitwise XOR of rs1 and rs2. -/
  | xor (rd rs1 rs2 : Reg)
  /-- SLL (R237): Shifts rs1 left by rs2[5:0] into rd. -/
  | sll (rd rs1 rs2 : Reg)
  /-- SRL (R237): Shifts rs1 logically right by rs2[5:0] into rd. -/
  | srl (rd rs1 rs2 : Reg)
  /-- SRA (R237): Shifts rs1 arithmetically right by rs2[5:0] into rd. -/
  | sra (rd rs1 rs2 : Reg)
  /-- MUL (R237): Sets rd to the low 64 bits of the product of rs1 and rs2. -/
  | mul (rd rs1 rs2 : Reg)
  /-- MULH (R237): Sets rd to the high 64 bits of the signed 128-bit product. -/
  | mulh (rd rs1 rs2 : Reg)
  /-- DIV (R237): Sets rd to the signed quotient rounded toward zero, with fixed results for division by zero and overflow. -/
  | div (rd rs1 rs2 : Reg)
  /-- REM (R237): Sets rd to the signed remainder, taking the sign of rs1. -/
  | rem (rd rs1 rs2 : Reg)
  /-- SLT (R237): Sets rd to 1 when rs1 is less than rs2 signed, else 0. -/
  | slt (rd rs1 rs2 : Reg)
  /-- SLTU (R237): Sets rd to 1 when rs1 is less than rs2 unsigned, else 0. -/
  | sltu (rd rs1 rs2 : Reg)
  /-- MIN (R237): Sets rd to the signed lesser of rs1 and rs2. -/
  | min (rd rs1 rs2 : Reg)
  /-- MAX (R237): Sets rd to the signed greater of rs1 and rs2. -/
  | max (rd rs1 rs2 : Reg)
  /-- ADDI (R238): Sets rd to rs1 plus the sign-extended 15-bit immediate. -/
  | addi (rd rs1 : Reg) (imm : BitVec 15)
  /-- ANDI (R238): Sets rd to rs1 AND the sign-extended immediate. -/
  | andi (rd rs1 : Reg) (imm : BitVec 15)
  /-- ORI (R238): Sets rd to rs1 OR the sign-extended immediate. -/
  | ori (rd rs1 : Reg) (imm : BitVec 15)
  /-- XORI (R238): Sets rd to rs1 XOR the sign-extended immediate. -/
  | xori (rd rs1 : Reg) (imm : BitVec 15)
  /-- SLLI (R238): Shifts rs1 left by a 6-bit immediate amount into rd. -/
  | slli (rd rs1 : Reg) (sh : BitVec 6)
  /-- SRLI (R238): Shifts rs1 logically right by a 6-bit immediate amount into rd. -/
  | srli (rd rs1 : Reg) (sh : BitVec 6)
  /-- SRAI (R238): Shifts rs1 arithmetically right by a 6-bit immediate amount into rd. -/
  | srai (rd rs1 : Reg) (sh : BitVec 6)
  /-- LUI (R238): Sets rd to the signed 20-bit immediate shifted left by 15. -/
  | lui (rd : Reg) (imm : BitVec 20)
  /-- LD (R241): Loads 8 bytes at rs1 plus offset into rd as a relaxed sequencer load. -/
  | ld (rd rs1 : Reg) (imm : BitVec 15)
  /-- LW (R241): Loads 4 bytes sign-extended into rd. -/
  | lw (rd rs1 : Reg) (imm : BitVec 15)
  /-- LWU (R241): Loads 4 bytes zero-extended into rd. -/
  | lwu (rd rs1 : Reg) (imm : BitVec 15)
  /-- LH (R241): Loads 2 bytes sign-extended into rd. -/
  | lh (rd rs1 : Reg) (imm : BitVec 15)
  /-- LHU (R241): Loads 2 bytes zero-extended into rd. -/
  | lhu (rd rs1 : Reg) (imm : BitVec 15)
  /-- LB (R241): Loads 1 byte sign-extended into rd. -/
  | lb (rd rs1 : Reg) (imm : BitVec 15)
  /-- LBU (R241): Loads 1 byte zero-extended into rd. -/
  | lbu (rd rs1 : Reg) (imm : BitVec 15)
  /-- SD (R241): Stores the 8 bytes of rs2 at rs1 plus offset, performed at once. -/
  | sd (rs2 rs1 : Reg) (imm : BitVec 15)
  /-- SW (R241): Stores the low 4 bytes of rs2. -/
  | sw (rs2 rs1 : Reg) (imm : BitVec 15)
  /-- SH (R241): Stores the low 2 bytes of rs2. -/
  | sh (rs2 rs1 : Reg) (imm : BitVec 15)
  /-- SB (R241): Stores the low byte of rs2. -/
  | sb (rs2 rs1 : Reg) (imm : BitVec 15)
  /-- PSET (R239): Sets predicate pd to the relation cond between rs1 and rs2. -/
  | pset (pd : Pred) (cond : Cond) (rs1 rs2 : Reg)
  /-- PLOG (R239): Sets predicate pd to a logic function of predicates pa and pb. -/
  | plog (pd : Pred) (fn : LogFn) (pa pb : Pred)
  /-- BR (R240): Branches to the PC-relative target when p XOR NEG is 1. -/
  | br (p : Pred) (neg : Bool) (off : BitVec 21)
  /-- JAL (R240): Jumps PC-relative and writes the next fetch-block address to rd. -/
  | jal (rd : Reg) (off : BitVec 20)
  /-- JALR (R240): Jumps to rs1 plus offset and writes the next fetch-block address to rd. -/
  | jalr (rd rs1 : Reg) (imm : BitVec 15)
  /-- CSRRW (R236): Reads a CSR into rd and writes rs1 to its writable fields. -/
  | csrrw (rd rs1 : Reg) (csr : BitVec 12)
  /-- CSRRS (R236): Reads a CSR into rd and sets the RW bits given by rs1. -/
  | csrrs (rd rs1 : Reg) (csr : BitVec 12)
  /-- CSRRC (R236): Reads a CSR into rd and clears the RW bits given by rs1. -/
  | csrrc (rd rs1 : Reg) (csr : BitVec 12)
  /-- GSET (R243): Sets plane seed register g to the value of an s register. -/
  | gset (rs : Reg) (g : SeedReg)
  /-- GGET (R243): Copies plane seed register g into an s register. -/
  | gget (rs : Reg) (g : SeedReg)
  /-- CFGLD (R245): Loads a configuration image onto a tile-plane and returns the load status. -/
  | cfgld (rd rs1 rs2 : Reg)
  /-- CMD (R247): Issues a 128-bit stream command to an engine of the die and returns its issue status. -/
  | cmd (rd rs1 rs2 : Reg)
  /-- LAUNCH (R248): Posts a launch packet to the pool or spill queue, waiting while both are full. -/
  | launch (rd rs1 : Reg)
  /-- LAUNCH_NB (R248): Posts a launch packet, returning FULL instead of waiting. -/
  | launchNb (rd rs1 : Reg)
  /-- YIELD (R249): Reads prq.REQ and, when set, saves the whole unit cooperatively. -/
  | yield (rd : Reg)
  /-- WAIT_NTF (R250): Waits until the notification count reaches rs1. -/
  | waitNtf (rd rs1 : Reg)
  /-- WAIT_LVL (R250): Waits until the work level named by the handle in rs1 completes. -/
  | waitLvl (rd rs1 : Reg)
  /-- WAIT_GEU (R250): Waits with acquire until the word at rs1 is unsigned at least rs2. -/
  | waitGeu (rd rs1 rs2 : Reg)
  /-- WAIT_EQ (R250): Waits with acquire until the word at rs1 equals rs2. -/
  | waitEq (rd rs1 rs2 : Reg)
  /-- TRAP (R253): Raises sw.trap with rs1 as hval and a 10-bit code. -/
  | trap (rs1 : Reg) (code : BitVec 10)
  /-- ERET (R254): Leaves handler mode and resumes at hepc. -/
  | eret
  /-- FENCE (R252): Sequencer fence completing under R81 at the coded scope. -/
  | fence (scope : BitVec 3)
  /-- END (R255): Retires the unit's final instruction. -/
  | endUnit
  /-- ILLEGAL_INSTRUCTION (R120): The sequencer executes a word with an unassigned opcode, a non-zero zero field, or a bad cond or fn code, and raises ill.instr. -/
  | illegalInstruction (w : BitVec 32)
  /-- WAITING_INSTRUCTION_RESUME (R233): A waiting sequencer instruction (cmd, launch, cfgld, wait) proceeds once its condition holds. -/
  | waitingInstructionResume (u : UnitId)
  /-- WAIT_TIMEOUT (R250): The wto timeout of a waiting wait expires and it returns 1. -/
  | waitTimeout (u : UnitId)
  /-- OP_ADD (R147): Fabric firing: lane-wise 40-bit wrapping add. -/
  | opAdd (e : Site)
  /-- OP_SUB (R147): Fabric firing: lane-wise 40-bit wrapping subtract. -/
  | opSub (e : Site)
  /-- OP_ADDS (R147): Fabric firing: saturating add. -/
  | opAdds (e : Site)
  /-- OP_SUBS (R147): Fabric firing: saturating subtract. -/
  | opSubs (e : Site)
  /-- OP_MUL (R147): Fabric firing: low 40 bits of the product. -/
  | opMul (e : Site)
  /-- OP_MULH (R147): Fabric firing: high 40 bits of the signed product. -/
  | opMulh (e : Site)
  /-- OP_MULHU (R147): Fabric firing: high 40 bits of the unsigned product. -/
  | opMulhu (e : Site)
  /-- OP_DIV (R148): Fabric firing: signed quotient with fixed boundary cases. -/
  | opDiv (e : Site)
  /-- OP_DIVU (R148): Fabric firing: unsigned quotient. -/
  | opDivu (e : Site)
  /-- OP_REM (R148): Fabric firing: signed remainder. -/
  | opRem (e : Site)
  /-- OP_REMU (R148): Fabric firing: unsigned remainder. -/
  | opRemu (e : Site)
  /-- OP_NEG (R147): Fabric firing: wrapping negation. -/
  | opNeg (e : Site)
  /-- OP_ABS (R147): Fabric firing: wrapping absolute value. -/
  | opAbs (e : Site)
  /-- OP_MIN (R147): Fabric firing: lesser value, signed or unsigned. -/
  | opMin (e : Site)
  /-- OP_MAX (R147): Fabric firing: greater value, signed or unsigned. -/
  | opMax (e : Site)
  /-- OP_AND (R149): Fabric firing: bitwise AND. -/
  | opAnd (e : Site)
  /-- OP_OR (R149): Fabric firing: bitwise OR. -/
  | opOr (e : Site)
  /-- OP_XOR (R149): Fabric firing: bitwise XOR. -/
  | opXor (e : Site)
  /-- OP_ANDN (R149): Fabric firing: a AND NOT b. -/
  | opAndn (e : Site)
  /-- OP_NOT (R149): Fabric firing: bitwise NOT. -/
  | opNot (e : Site)
  /-- OP_SHL (R149): Fabric firing: shift left. -/
  | opShl (e : Site)
  /-- OP_SHR (R149): Fabric firing: logical shift right. -/
  | opShr (e : Site)
  /-- OP_SAR (R149): Fabric firing: arithmetic shift right. -/
  | opSar (e : Site)
  /-- OP_ROL (R149): Fabric firing: rotate left by n mod 40. -/
  | opRol (e : Site)
  /-- OP_ROR (R149): Fabric firing: rotate right by n mod 40. -/
  | opRor (e : Site)
  /-- OP_CLZ (R149): Fabric firing: count leading zeros. -/
  | opClz (e : Site)
  /-- OP_POPC (R149): Fabric firing: population count. -/
  | opPopc (e : Site)
  /-- OP_BEXT (R150): Fabric firing: bit-field extract. -/
  | opBext (e : Site)
  /-- OP_BINS (R150): Fabric firing: bit-field insert. -/
  | opBins (e : Site)
  /-- OP_BREV (R149): Fabric firing: bit reverse. -/
  | opBrev (e : Site)
  /-- OP_BSWAP (R149): Fabric firing: byte reverse of the 5-byte word. -/
  | opBswap (e : Site)
  /-- OP_CEQ (R151): Fabric firing: integer equality compare, control token out. -/
  | opCeq (e : Site)
  /-- OP_CNE (R151): Fabric firing: integer inequality compare. -/
  | opCne (e : Site)
  /-- OP_CLT (R151): Fabric firing: signed less-than compare. -/
  | opClt (e : Site)
  /-- OP_CLE (R151): Fabric firing: signed less-or-equal compare. -/
  | opCle (e : Site)
  /-- OP_CLTU (R151): Fabric firing: unsigned less-than compare. -/
  | opCltu (e : Site)
  /-- OP_CLEU (R151): Fabric firing: unsigned less-or-equal compare. -/
  | opCleu (e : Site)
  /-- OP_FCEQ (R151): Fabric firing: FW40 equality compare. -/
  | opFceq (e : Site)
  /-- OP_FCLT (R151): Fabric firing: FW40 less-than compare. -/
  | opFclt (e : Site)
  /-- OP_FCLE (R151): Fabric firing: FW40 less-or-equal compare. -/
  | opFcle (e : Site)
  /-- OP_FCUN (R151): Fabric firing: FW40 unordered test. -/
  | opFcun (e : Site)
  /-- OP_SEL (R151): Fabric firing: per-lane select of b or c by a[0]. -/
  | opSel (e : Site)
  /-- OP_MOV (R151): Fabric firing: copy a, optionally as control class. -/
  | opMov (e : Site)
  /-- OP_FADD (R152): Fabric firing: FW40 add rounded once. -/
  | opFadd (e : Site)
  /-- OP_FSUB (R152): Fabric firing: FW40 subtract. -/
  | opFsub (e : Site)
  /-- OP_FMUL (R152): Fabric firing: FW40 multiply, optionally with the approximation predictor. -/
  | opFmul (e : Site)
  /-- OP_FMA (R153): Fabric firing: fused a×b+c. -/
  | opFma (e : Site)
  /-- OP_FMS (R153): Fabric firing: fused a×b−c. -/
  | opFms (e : Site)
  /-- OP_FNMA (R153): Fabric firing: fused −(a×b)+c. -/
  | opFnma (e : Site)
  /-- OP_FNMS (R153): Fabric firing: fused −(a×b)−c. -/
  | opFnms (e : Site)
  /-- OP_FMIN (R67): Fabric firing: FW40 minimum under .num or .nan. -/
  | opFmin (e : Site)
  /-- OP_FMAX (R67): Fabric firing: FW40 maximum under .num or .nan. -/
  | opFmax (e : Site)
  /-- OP_FABS (R152): Fabric firing: clear the sign bit. -/
  | opFabs (e : Site)
  /-- OP_FNEG (R152): Fabric firing: invert the sign bit. -/
  | opFneg (e : Site)
  /-- OP_FCPSGN (R152): Fabric firing: copy or XOR the sign from b. -/
  | opFcpsgn (e : Site)
  /-- OP_FRCPS (R155): Fabric firing: reciprocal Newton step 2 − a×b. -/
  | opFrcps (e : Site)
  /-- OP_FRCPI (R154): Fabric firing: table reciprocal estimate. -/
  | opFrcpi (e : Site)
  /-- OP_FRSQS (R155): Fabric firing: square-root Newton step (3 − a×b)/2. -/
  | opFrsqs (e : Site)
  /-- OP_FRSQI (R154): Fabric firing: table reciprocal square-root estimate. -/
  | opFrsqi (e : Site)
  /-- OP_FEXPR (R156): Fabric firing: exponential argument reduction. -/
  | opFexpr (e : Site)
  /-- OP_FEXPP (R156): Fabric firing: exponential reconstruction. -/
  | opFexpp (e : Site)
  /-- OP_FLOGR (R156): Fabric firing: logarithm argument reduction. -/
  | opFlogr (e : Site)
  /-- OP_FLOGP (R156): Fabric firing: logarithm reconstruction. -/
  | opFlogp (e : Site)
  /-- OP_FSINR (R156): Fabric firing: sine argument reduction. -/
  | opFsinr (e : Site)
  /-- OP_FSINP (R156): Fabric firing: sine sign reconstruction. -/
  | opFsinp (e : Site)
  /-- OP_FCLASS (R157): Fabric firing: one-hot FW40 class. -/
  | opFclass (e : Site)
  /-- OP_FROUND (R157): Fabric firing: round to integer, ties to even. -/
  | opFround (e : Site)
  /-- OP_FSCALE (R157): Fabric firing: multiply by a power of two. -/
  | opFscale (e : Site)
  /-- OP_FMANT (R157): Fabric firing: mantissa in [1, 2). -/
  | opFmant (e : Site)
  /-- OP_FEXPO (R157): Fabric firing: exponent as s40. -/
  | opFexpo (e : Site)
  /-- OP_LGMUL (R158): Fabric firing: LG6 product by code addition. -/
  | opLgmul (e : Site)
  /-- OP_LGSUM (R158): Fabric firing: LG6 product added to c. -/
  | opLgsum (e : Site)
  /-- OP_LGENC (R158): Fabric firing: LG6 encode, as value or code. -/
  | opLgenc (e : Site)
  /-- OP_BSAPPLY (R159): Fabric firing: latch a header or scale data by the latched scale. -/
  | opBsapply (e : Site)
  /-- OP_BSFIND (R159): Fabric firing: compute a shared block exponent. -/
  | opBsfind (e : Site)
  /-- OP_BSHDR (R159): Fabric firing: emit a burst-header token. -/
  | opBshdr (e : Site)
  /-- OP_BSSTRIP (R159): Fabric firing: pass data, consume headers. -/
  | opBsstrip (e : Site)
  /-- OP_AMAXR (R159): Fabric firing: greatest magnitude over lanes. -/
  | opAmaxr (e : Site)
  /-- OP_CVTFI (R160): Fabric firing: FW40 to integer. -/
  | opCvtfi (e : Site)
  /-- OP_CVTIF (R160): Fabric firing: integer to FW40. -/
  | opCvtif (e : Site)
  /-- OP_CVTFR (R160): Fabric firing: round FW40 through a storage format. -/
  | opCvtfr (e : Site)
  /-- OP_CVTSAT (R160): Fabric firing: clamp or wrap s40 to an integer format. -/
  | opCvtsat (e : Site)
  /-- OP_LFLD (R161): Fabric firing: per-lane lane-file read. -/
  | opLfld (e : Site)
  /-- OP_LFST (R161): Fabric firing: per-lane lane-file write returning old contents. -/
  | opLfst (e : Site)
  /-- OP_LFLDI (R161): Fabric firing: lane-file read at one common index. -/
  | opLfldi (e : Site)
  /-- OP_LFSTI (R161): Fabric firing: lane-file write at one common index. -/
  | opLfsti (e : Site)
  /-- OP_PERM (R164): Fabric firing: lane permute by b. -/
  | opPerm (e : Site)
  /-- OP_PERMI (R164): Fabric firing: fixed flip or rotate permute. -/
  | opPermi (e : Site)
  /-- OP_BCAST (R164): Fabric firing: broadcast one lane. -/
  | opBcast (e : Site)
  /-- OP_LSUM (R165): Fabric firing: fixed-tree lane sum. -/
  | opLsum (e : Site)
  /-- OP_STEER (R26): Router firing: split a data token onto true and false arcs by control. -/
  | opSteer (e : Site)
  /-- OP_MERGE_ORD (R27): Router firing: merge true and false tokens in control order. -/
  | opMergeOrd (e : Site)
  /-- OP_MERGE_ARR (R28): Router firing: pass tokens in arrival order, alternating on ties. -/
  | opMergeArr (e : Site)
  /-- OP_CARRY (R167): Router firing: admit, iterate or end a loop thread. -/
  | opCarry (e : Site)
  /-- OP_JOIN (R170): Fabric firing: join inputs into one control token. -/
  | opJoin (e : Site)
  /-- OP_GATE (R169): Fabric firing: pass data lanes selected by control. -/
  | opGate (e : Site)
  /-- OP_SINK (R169): Fabric firing: discard a token. -/
  | opSink (e : Site)
  /-- OP_CTOK (R169): Fabric firing: make a control token from non-zero lanes. -/
  | opCtok (e : Site)
  /-- OP_CONST (R169): Fabric firing: broadcast b.lane0 on a trigger. -/
  | opConst (e : Site)
  /-- OP_IOTA (R169): Fabric firing: lane-index sequence. -/
  | opIota (e : Site)
  /-- OP_VLD (R174): Memory operator firing: contiguous load entering the wave chain. -/
  | opVld (e : Site)
  /-- OP_VST (R175): Memory operator firing: contiguous store deferred to commit. -/
  | opVst (e : Site)
  /-- OP_MEMNOP (R176): Memory operator firing: wave-chain placeholder. -/
  | opMemnop (e : Site)
  /-- OP_LDFE (R177): Memory operator firing: full/empty granule load, optionally clearing. -/
  | opLdfe (e : Site)
  /-- OP_VLDX (R174): Memory operator firing: indexed load. -/
  | opVldx (e : Site)
  /-- OP_VSTX (R175): Memory operator firing: indexed store. -/
  | opVstx (e : Site)
  /-- OP_APST (R178): Memory operator firing: aperture store that starts a BTE copy at commit. -/
  | opApst (e : Site)
  /-- OP_FENCE (R179): Memory operator firing: fabric fence at MOD.SCOPE. -/
  | opFence (e : Site)
  /-- OP_MONWAIT (R180): Memory operator firing: wait until a location meets a condition. -/
  | opMonwait (e : Site)
  /-- OP_RED_FX (R181): Memory operator firing: FX128 additions at per-lane cells. -/
  | opRedFx (e : Site)
  /-- OP_AMO_ADD (R182): Atomic add per lane. -/
  | opAmoAdd (e : Site)
  /-- OP_AMO_AND (R182): Atomic AND per lane. -/
  | opAmoAnd (e : Site)
  /-- OP_AMO_OR (R182): Atomic OR per lane. -/
  | opAmoOr (e : Site)
  /-- OP_AMO_XOR (R182): Atomic XOR per lane. -/
  | opAmoXor (e : Site)
  /-- OP_AMO_MIN (R182): Atomic signed minimum. -/
  | opAmoMin (e : Site)
  /-- OP_AMO_MAX (R182): Atomic signed maximum. -/
  | opAmoMax (e : Site)
  /-- OP_AMO_MINU (R182): Atomic unsigned minimum. -/
  | opAmoMinu (e : Site)
  /-- OP_AMO_MAXU (R182): Atomic unsigned maximum. -/
  | opAmoMaxu (e : Site)
  /-- OP_AMO_SWAP (R182): Atomic swap. -/
  | opAmoSwap (e : Site)
  /-- OP_AMO_CAS (R182): Atomic compare-and-swap. -/
  | opAmoCas (e : Site)
  /-- OP_AMO_FADD (R181): FX128 additions into a row of 16 cells. -/
  | opAmoFadd (e : Site)
  /-- OP_VOTE3 (R183): Fabric firing: majority vote of three tokens with disagreement record. -/
  | opVote3 (e : Site)
  /-- OP_CSUM_ROW (R185): Fabric firing: lane checksum. -/
  | opCsumRow (e : Site)
  /-- OP_CSUM_COL (R185): Fabric firing: accumulate and emit every n firings. -/
  | opCsumCol (e : Site)
  /-- OP_CSUM_CHK (R185): Fabric firing: compare checksums, optionally trapping. -/
  | opCsumChk (e : Site)
  /-- OP_EMIT (R186): Fabric firing: form and send a journal entry for a symbol. -/
  | opEmit (e : Site)
  /-- OP_TBREAD (R169): Fabric firing: read the timebase. -/
  | opTbread (e : Site)
  /-- OP_CHKR (R169): Fabric firing: range check, trapping chk.range on failure. -/
  | opChkr (e : Site)
  /-- EMIT_ACK (R186): An emit takes its journal acknowledgement and enters its store in the wave chain. -/
  | emitAck (e : Site)
  /-- WAVE_ISSUE (R76): The memory interface issues the next memory operation of a block instance in wave order. -/
  | waveIssue (n : InstId)
  /-- BLOCK_COMMIT (R31): A block instance ends and its deferred stores and copy starts become visible together. -/
  | blockCommit (n : InstId)
  /-- MONWAIT_TIMEOUT (R180): A waiting monwait's timeout elapses and it returns timed out. -/
  | monwaitTimeout (n : InstId)
  /-- FAULTED_UNIT_END (R331): The MC ends a faulted unit once nothing outside its frozen region can progress. -/
  | faultedUnitEnd (u : UnitId)
  /-- SYNC_WRITE (R197): The sync value is written once every earlier command of the issuer has completed. -/
  | syncWrite (n : OpId)
  /-- SHEAVE_RECORD_START (R199): A queued sheave record starts when its stream becomes free. -/
  | sheaveRecordStart (k : StreamId)
  /-- SHEAVE_LOAD_EMIT (R201): A sheave emits the next header or data token of a load record when the arc has room. -/
  | sheaveLoadEmit (k : StreamId)
  /-- SHEAVE_STORE_FILL (R202): A sheave consumes a token and writes positions of a store record. -/
  | sheaveStoreFill (k : StreamId)
  /-- PERMIT_PORT_TOKEN (R189): A token reaching a KIND 2 port acts as one permit on its channel. -/
  | permitPortToken (tp : Tp) (port : Nat)
  /-- BTE_LANDING (R209): A BTE channel lands bytes of its tile and advances the watermark, releasing waiting loads. -/
  | bteLanding (k : ChanId) (n : Nat)
  /-- GRE_ROW (R216): The GRE lands or reduces one row and sets full/empty bits. -/
  | greRow (n : OpId) (j : Nat)
  /-- QE_BLOCK (R218): The QE converts and writes one block. -/
  | qeBlock (n : OpId)
  /-- LDSTAT_COMPLETE (R220): A shadow-plane load completes. -/
  | ldstatComplete (die mxe : Nat)
  /-- MXSWAP_EXCHANGE (R221): An MXE exchanges its planes once its ldstat and barrier tasks are done. -/
  | mxswapExchange (die mxe : Nat)
  /-- MXE_TASK_START (R223): A task starts on an MXE once its dependences are published. -/
  | mxeTaskStart (n : OpId) (mxe : Nat)
  /-- MXE_TASK_END (R225): A task ends, applies the checksum check and stores its outputs. -/
  | mxeTaskEnd (n : OpId)
  /-- NMC_ELEMENT_UPDATE (R227): A base die performs one element update as one coherence event. -/
  | nmcElementUpdate (n : OpId) (i : Nat)
  /-- CHAIN_TAIL_POLL (R195): The POLLT interval elapses and an engine re-reads a chain's tail. -/
  | chainTailPoll (k : ChainId)
  /-- CHAIN_DOORBELL (R195): A host write to a chain doorbell makes the chain re-read its tail. -/
  | chainDoorbell (k : ChainId)
  /-- CHAIN_ENTRY_START (R195): A chain entry or task record starts once its WAIT is satisfied. -/
  | chainEntryStart (k : ChainId)
  /-- CHAIN_ENTRY_FINISH (R195): An entry finishes, its status word is written and the sequence word advances. -/
  | chainEntryFinish (n : OpId)
  /-- ENGINE_OP_COMPLETE (R192): A cmd-issued operation writes its completion object and counts its notification. -/
  | engineOpComplete (n : OpId)
  /-- HOST_BAR2_WRITE (R280): A host write through the BAR2 window reaches device memory. -/
  | hostBar2Write (off : Nat) (bytes : List Byte)
  /-- HOST_BAR2_READ (R74): A host or peer read through BAR2, a relaxed load at system scope. -/
  | hostBar2Read (off len : Nat)
  /-- HOST_ATOMICOP (R278): The device completes a PCI Express AtomicOp. -/
  | hostAtomicop (off size : Nat) (op : PcieAtomic) (opnd cmp : Nat)
  /-- REGISTER_WRITE (R6): A write to a register with no behaviour of its own stores or clears its fields. -/
  | registerWrite (f : PcieFn) (off : Nat) (val : Word)
  /-- DRST (R283): Writing 0xD5 to DRST causes a device reset. -/
  | drst (val : Word)
  /-- VF_FLR (R283): A VF function-level reset kills its jobs and destroys its queues and grants. -/
  | vfFlr (vf : Nat)
  /-- MBDB (R288): A write to MBDB submits the mailbox request buffer. -/
  | mbdb (f : PcieFn)
  /-- QCREATE (R289): Creates a user queue. -/
  | qcreate (f : PcieFn)
  /-- JOBOPEN (R315): Opens a job, its node range and its pinned save area. -/
  | jobopen (f : PcieFn)
  /-- JOBCLOSE (R289): Closes a job. -/
  | jobclose (f : PcieFn)
  /-- PHASEBND (R349): Requests the end of the job's phase at the next interval boundary. -/
  | phasebnd (f : PcieFn)
  /-- GRANT (R289): Grants a resource to an ASID. -/
  | grant (f : PcieFn)
  /-- ATS_INVALIDATION (R340): An ATS invalidation completes once old translations have drained. -/
  | atsInvalidation (asid : BitVec 12) (va len : Nat)
  /-- NOTIFY (R290): A host write announcing packets up to a count. -/
  | notify (k : QueueId) (val : Word)
  /-- PACKET_ACCEPT (R293): The packet processor reads, checks and accepts one packet into the pool. -/
  | packetAccept (k : QueueId)
  /-- CANCEL (R308): A handle written to CANCEL cancels that level. -/
  | cancel (k : QueueId) (handle : Word)
  /-- LQRY (R306): A handle written to LQRY updates LQRES with that level's state. -/
  | lqry (k : QueueId) (handle : Word)
  /-- BIND_RECORD (R302): The MC writes a bind record and dispatch binds or refuses the unit. -/
  | bindRecord (die : Nat) (rec : Word)
  /-- UNIT_COMPLETE (R39): A unit meets its completion conditions and decrements its launch counter. -/
  | unitComplete (u : UnitId)
  /-- PREEMPT_REQUEST (R310): The MC raises prq.REQ with a deadline on a unit. -/
  | preemptRequest (u : UnitId) (deadline : Nat)
  /-- PREEMPT_DEADLINE (R310): The deadline expires and the unit is saved by force. -/
  | preemptDeadline (u : UnitId)
  /-- UNIT_SAVE_COMPLETE (R312): A unit save record is complete and its tile-planes are unbound. -/
  | unitSaveComplete (u : UnitId)
  /-- UNIT_RESTORE (R314): The MC restores a saved unit onto a tile-plane. -/
  | unitRestore (u : UnitId) (tp : Tp)
  /-- WDCFG_WRITE (R334): A write to WDCFG configures the watchdog and resets its count. -/
  | wdcfgWrite (k : QueueId) (val : Word)
  /-- WDCTL_KICK (R334): A kick resets the watchdog count. -/
  | wdctlKick (k : QueueId)
  /-- WDCTL_PARTITION_RESET (R335): A WDCTL write of 0x5A resets the queue's partition. -/
  | wdctlPartitionReset (k : QueueId)
  /-- WATCHDOG_EXPIRY (R334): The watchdog count reaches TICKS and expires. -/
  | watchdogExpiry (k : QueueId)
  /-- PARTITION_RESET_DONE (R335): The reset job's counter reaches zero and RESET is set. -/
  | partitionResetDone (k : QueueId)
  /-- XLAT_REWALK (R332): The 10 µs re-walk of a withheld translation fault. -/
  | xlatRewalk (w : Withheld)
  /-- AHALT_WRITE (R274): A write to ahalt halts or releases one arc. -/
  | ahaltWrite (die : Nat) (val : Word)
  /-- ROLLBACK (R354): An uncorrectable stored-data error rolls the device back to the last instant. -/
  | rollback (dpa : Nat)
  /-- SCRUB (R359): The scrubber reads and corrects a stored granule. -/
  | scrub (dpa : Nat)
  /-- ELEMENT_REPLAY (R360): A failed element check discards and replays unchecked firings. -/
  | elementReplay (e : Site) (copy : Nat)
  /-- FATAL_ERROR (R365): A firmware exception or MC loss stops the device and writes the dump. -/
  | fatalError (cause : BitVec 16) (val : Word)
  /-- JOURNAL_LOST_EXPIRY (R385): A lost stream not rebound within 1,000,000 ticks poisons its unacknowledged entries. -/
  | journalLostExpiry (die j : Nat)
  /-- JOURNAL_ENTRY_RECEIVE (R383): The backstay stores, compares or holds a received journal entry and acknowledges it. -/
  | journalEntryReceive (w0 w1 w2 w3 : Word)
  /-- JOURNAL_END_RECORD (R388): The backstay receives an emit.seq end record and truncates the partition. -/
  | journalEndRecord (gseq : BitVec 32) (lastn : BitVec 40)
  /-- JOURNAL_TRUNCATE (R388): The backstay receives a checkpoint truncation and raises TRUNC. -/
  | journalTruncate (gseq : BitVec 32) (n : BitVec 40)
  /-- JOURNAL_ACK_RECEIVE (R186): A journal acknowledgement, or a poison acknowledgement, arrives from the backstay; the stream advances ACKN and PEND and places the acknowledgement token on the KIND 5 port. -/
  | journalAckReceive (die j : Nat) (n : BitVec 40) (poison : Bool)
  /-- SNOP (R197): No-operation command completing OK at issue. -/
  | snop (iss : Issuer) (c : Cmd128)
  /-- SYNC (R197): Arranges a release write of VAL once earlier commands complete. -/
  | sync (iss : Issuer) (c : Cmd128)
  /-- FXREGION (R198): Defines or deletes an FX128 region with its window exponent. -/
  | fxregion (iss : Issuer) (c : Cmd128)
  /-- APR_LOAD (R199): Opens a sheave load address-pattern record. -/
  | aprLoad (iss : Issuer) (c : Cmd128)
  /-- APR_STORE (R199): Opens a sheave store address-pattern record. -/
  | aprStore (iss : Issuer) (c : Cmd128)
  /-- APR_DIM (R199): Sets one dimension of the open record. -/
  | aprDim (iss : Issuer) (c : Cmd128)
  /-- APR_PAD (R199): Sets the pad value of the open record. -/
  | aprPad (iss : Issuer) (c : Cmd128)
  /-- APR_END (R199): Closes the record and starts it when the stream is free. -/
  | aprEnd (iss : Issuer) (c : Cmd128)
  /-- CPT_DEF (R205): Defines or resets a copy template. -/
  | cptDef (iss : Issuer) (c : Cmd128)
  /-- CPT_DIM (R206): Sets a dimension, destination, stamp, tiling or validity of a template. -/
  | cptDim (iss : Issuer) (c : Cmd128)
  /-- CPT_GO (R208): Starts a BTE copy on a channel from a template. -/
  | cptGo (iss : Issuer) (c : Cmd128)
  /-- CPT_CANCEL (R212): Cancels a channel's tiles up to a sequence number. -/
  | cptCancel (iss : Issuer) (c : Cmd128)
  /-- MC_PERMIT (R213): Adds N permits to a BTE channel. -/
  | mcPermit (iss : Issuer) (c : Cmd128)
  /-- GATH_ROW (R216): Gathers table rows raw into destination rows. -/
  | gathRow (iss : Issuer) (c : Cmd128)
  /-- GATH_RED (R216): Gathers and reduces rows into FX128 cells by bag. -/
  | gathRed (iss : Issuer) (c : Cmd128)
  /-- GATH_IDX_LIST (R214): Sets the index list and clears the bag list. -/
  | gathIdxList (iss : Issuer) (c : Cmd128)
  /-- GATH_IDX_BAG (R214): Sets the bag offsets. -/
  | gathIdxBag (iss : Issuer) (c : Cmd128)
  /-- GATH_CHAIN_BIND (R196): Binds a GRE chain to a descriptor. -/
  | gathChainBind (iss : Issuer) (c : Cmd128)
  /-- GATH_CHAIN_UNBIND (R196): Unbinds a GRE chain. -/
  | gathChainUnbind (iss : Issuer) (c : Cmd128)
  /-- GATH_TAIL (R196): Makes a GRE chain re-read its tail. -/
  | gathTail (iss : Issuer) (c : Cmd128)
  /-- QNT_BLK (R218): Quantises an array into scaled blocks. -/
  | qntBlk (iss : Issuer) (c : Cmd128)
  /-- QNT_DQ (R218): Dequantises scaled blocks into a wide array. -/
  | qntDq (iss : Issuer) (c : Cmd128)
  /-- QNT_CHAIN_BIND (R196): Binds a QE chain. -/
  | qntChainBind (iss : Issuer) (c : Cmd128)
  /-- QNT_CHAIN_UNBIND (R196): Unbinds a QE chain. -/
  | qntChainUnbind (iss : Issuer) (c : Cmd128)
  /-- QNT_TAIL (R196): Makes a QE chain re-read its tail. -/
  | qntTail (iss : Issuer) (c : Cmd128)
  /-- MXTASK (R222): Issues a matrix tile-task outside the queue numbering. -/
  | mxtask (iss : Issuer) (c : Cmd128)
  /-- MXQ_SET_BIND (R219): Binds a task queue to a set of MXEs. -/
  | mxqSetBind (iss : Issuer) (c : Cmd128)
  /-- MXQ_SET_UNBIND (R219): Unbinds a task queue. -/
  | mxqSetUnbind (iss : Issuer) (c : Cmd128)
  /-- MXQ_SET_TAIL (R219): Makes the scheduler re-read a task queue's tail. -/
  | mxqSetTail (iss : Issuer) (c : Cmd128)
  /-- LDSTAT (R220): Loads a weight tile into MXE shadow planes. -/
  | ldstat (iss : Issuer) (c : Cmd128)
  /-- MXSWAP (R221): Arranges shadow/stationary exchange after a barrier task. -/
  | mxswap (iss : Issuer) (c : Cmd128)
  /-- NMC_SGD (R226): Near-memory gradient step with weight fade. -/
  | nmcSgd (iss : Issuer) (c : Cmd128)
  /-- NMC_DECAY (R226): Near-memory decay update. -/
  | nmcDecay (iss : Issuer) (c : Cmd128)
  /-- NMC_RED (R226): Near-memory FX128 reduction. -/
  | nmcRed (iss : Issuer) (c : Cmd128)
  /-- NMC_CHAIN_BIND (R196): Binds a near-memory chain. -/
  | nmcChainBind (iss : Issuer) (c : Cmd128)
  /-- NMC_CHAIN_UNBIND (R196): Unbinds a near-memory chain. -/
  | nmcChainUnbind (iss : Issuer) (c : Cmd128)
  /-- NMC_TAIL (R196): Makes a near-memory chain re-read its tail. -/
  | nmcTail (iss : Issuer) (c : Cmd128)
  /-- DEAD_SET (R228): Zeroes and marks HBM units dead. -/
  | deadSet (iss : Issuer) (c : Cmd128)
  /-- DEAD_CLR (R228): Revives dead units with zero content. -/
  | deadClr (iss : Issuer) (c : Cmd128)
  /-- EMIT_JNL (R381): Binds or reassigns a journal stream to a backstay. -/
  | emitJnl (iss : Issuer) (c : Cmd128)
  /-- EMIT_SEQ (R229): Records the end of a generation sequence on a journal stream. -/
  | emitSeq (iss : Issuer) (c : Cmd128)
  /-- PEER_BAR2_WRITE (R346): A peer's posted write to BAR2 is performed at its home. -/
  | peerBar2Write (off : Nat) (bytes : List Byte) (relaxed : Bool)
  /-- PERST (R283): PERST# resets every device state except tb. -/
  | perst
  /-- PF_FLR (R283): A PF function-level reset causes a device reset. -/
  | pfFlr
  /-- STANDBY_POWER_UP (R283): The standby supply comes up, resetting all state including tb. -/
  | standbyPowerUp
  /-- QDESTROY (R289): Destroys a user queue. -/
  | qdestroy (f : PcieFn)
  /-- REVOKE (R289): Revokes a resource from an ASID. -/
  | revoke (f : PcieFn)
  /-- CTMODE (R309): Starts a capacity-tier stack mode change. -/
  | ctmode (f : PcieFn)
  /-- CTMODE_COMPLETE (R309): A mode change completes after draining and writeback. -/
  | ctmodeComplete (stack : Nat)
  /-- SHARE (R289): Sets a VF's resource share. -/
  | share (f : PcieFn)
  /-- RESYNC (R367): Writes the resynchronisation summary. -/
  | resync (f : PcieFn)
  /-- FWUPD_FIRMWARE (R370): Verifies and installs new firmware MC by MC. -/
  | fwupdFirmware (f : PcieFn)
  /-- FWUPD_FABRIC_OUT (R369): Takes a die's fabric out of service. -/
  | fwupdFabricOut (f : PcieFn)
  /-- FWUPD_FABRIC_IN (R369): Returns a die's fabric to service. -/
  | fwupdFabricIn (f : PcieFn)
  /-- FWUPD_SAIL_OUT (R368): Takes one sail out of service. -/
  | fwupdSailOut (f : PcieFn)
  /-- FWUPD_SAIL_IN (R368): Returns one sail to service. -/
  | fwupdSailIn (f : PcieFn)
  /-- FWUPD_LINK_OUT (R368): Takes a die-to-die link out of service. -/
  | fwupdLinkOut (f : PcieFn)
  /-- FWUPD_LINK_IN (R379): Returns a link to service, retraining it with all lanes. -/
  | fwupdLinkIn (f : PcieFn)
  /-- FWUPD_POWER_CLASS (R371): Sets the power class. -/
  | fwupdPowerClass (f : PcieFn)
  /-- GET_VERSION (R286): SPDM request for supported versions. -/
  | getVersion
  /-- GET_CAPABILITIES (R286): SPDM request for capabilities. -/
  | getCapabilities
  /-- NEGOTIATE_ALGORITHMS (R286): SPDM algorithm negotiation. -/
  | negotiateAlgorithms (sm2 sm3 : Bool)
  /-- GET_DIGESTS (R286): SPDM request for certificate digests. -/
  | getDigests
  /-- GET_CERTIFICATE (R286): SPDM request for the certificate chain. -/
  | getCertificate (slot off len : Nat)
  /-- CHALLENGE (R286): SPDM challenge signed by the identity key. -/
  | challenge (slot : Nat) (nonce : List Byte)
  /-- GET_MEASUREMENTS (R286): SPDM request for measurement blocks. -/
  | getMeasurements (index : Nat)
  /-- FRAME_ENTRY_END (R319): A frame-table entry's ticks elapse and the next entry's sail becomes active. -/
  | frameEntryEnd (die : Nat)
  /-- GANG_READY_SEND (R323): A gang member becomes ready and sends READY to the leader. -/
  | gangReadySend (die : Nat)
  /-- GANG_READY_RECEIVE (R323): The leader receives READY and sends GO when all are in. -/
  | gangReadyReceive (die : Nat) (dev : Nat)
  /-- GANG_GRACE_EXPIRY (R323): The leader's grace expires without all READY and it sends SKIP. -/
  | gangGraceExpiry (die : Nat)
  /-- GANG_GO_RECEIVE (R323): A member receives GO and activates the gang sail. -/
  | gangGoReceive (die : Nat)
  /-- GANG_SKIP_RECEIVE (R323): A member receives SKIP and runs FILL. -/
  | gangSkipReceive (die : Nat)
  /-- GANG_DECISION_TIMEOUT (R323): A member holds no decision 20 µs after grace and skips, marked LOST. -/
  | gangDecisionTimeout (die : Nat)
  /-- BPER_EXPIRY (R349): The BPER period elapses and a boundary is requested. -/
  | bperExpiry
  /-- BOUNDARY_START (R350): The MC starts an interval boundary, stopping binding and raising REQ on sail units. -/
  | boundaryStart
  /-- BOUNDARY_INSTANT (R350): Once saves complete, the boundary's instant is taken and units resume. -/
  | boundaryInstant
  /-- FULL_CHECKPOINT_DONE (R357): A full checkpoint completes, setting FCNUM and sending journal truncations. -/
  | fullCheckpointDone
  /-- THERMAL_LIMIT (R371): A die reaches 100 °C and lowers its rates. -/
  | thermalLimit (die : Nat)
  /-- THERMAL_TRIP (R371): A die reaches 110 °C and trips to a fatal error. -/
  | thermalTrip (die : Nat) (val : Word)
  /-- FLIT_CRC_FAIL (R377): A UCIe flit fails CRC and is replayed, retraining after four resends. -/
  | flitCrcFail (link : Nat)
  /-- LINK_TRAINING_LOSS (R377): A link loses training and retrains itself. -/
  | linkTrainingLoss (link : Nat)
  /-- LNKCTL_RATE_WRITE (R376): A change of LNKCTL.RATE starts a retrain at the new rate. -/
  | lnkctlRateWrite (link : Nat) (rate : BitVec 3)
  /-- LNKCTL_RETRAIN (R376): Writing RETRAIN starts a retrain of the link. -/
  | lnkctlRetrain (link : Nat)
  /-- LINK_RETRAIN_DONE (R377): A retrain completes and the replay buffer is resent. -/
  | linkRetrainDone (link : Nat) (o : TrainOutcome)
  /-- HALYARD_FRAME_CRC_FAIL (R380): A halyard frame fails CRC and is resent go-back-N. -/
  | halyardFrameCrcFail (port : Nat)
  /-- HALYARD_DOWN (R380): A halyard untrained for 100 µs goes down. -/
  | halyardDown (port : Nat)
  /-- HALYARD_REMOTE_ACCESS (R380): A memory access from another device through a kind-6 page arrives over a halyard and is performed on this device's memory. -/
  | halyardRemoteAccess (port : Nat) (a : RemoteAccess)
  /-- DOE_DISCOVERY (R278): A DOE discovery request arrives at the PF's DOE mailbox and is answered. -/
  | doeDiscovery (index : Nat)
  /-- MXE_RESIDUE_FAIL (R359): An MXE cell's residue-modulo-7 check fails and the task reruns from its start, or a CONT task from its saved start state. -/
  | mxeResidueFail (die mxe : Nat)
  /-- THERMAL_LIMIT_END (R371): A die's junction temperature falls below 95 °C and the die restores its rates, ending the limited time that the summary counts. -/
  | thermalLimitEnd (die : Nat)
deriving DecidableEq, Repr

end Sys2Proof
end

