-- ==== Sys2Proof/Words.lean ====
section
/-! DEFINITION. The words that configuration images, stream commands and the scalar stream are made of
(04_encodings_and_opcode_maps.md): the operator opcodes, targets and operator words, the stream opcodes and
the engines they go to. These are data that a loaded image or a command holds; `Instr` is a step. -/

namespace Sys2Proof

/-- The operators and routers, in the order of Table 4.9. -/
inductive Opc where
  | add | sub | adds | subs | mul | mulh | mulhu | div | divu
  | rem | remu | neg | abs | min | max | and | or | xor
  | andn | not | shl | shr | sar | rol | ror | clz | popc
  | bext | bins | brev | bswap | ceq | cne | clt | cle | cltu
  | cleu | fceq | fclt | fcle | fcun | sel | mov | fadd | fsub
  | fmul | fma | fms | fnma | fnms | fmin | fmax | fabs | fneg
  | fcpsgn | frcps | frcpi | frsqs | frsqi | fexpr | fexpp | flogr | flogp
  | fsinr | fsinp | fclass | fround | fscale | fmant | fexpo | lgmul | lgsum
  | lgenc | bsapply | bsfind | bshdr | bsstrip | amaxr | cvtfi | cvtif | cvtfr
  | cvtsat | lfld | lfst | lfldi | lfsti | perm | permi | bcast | lsum
  | steer | mergeOrd | mergeArr | carry | join | gate | sink | ctok | const
  | iota | vld | vst | memnop | ldfe | vldx | vstx | apst | fence
  | monwait | redFx | amoAdd | amoAnd | amoOr | amoXor | amoMin | amoMax | amoMinu
  | amoMaxu | amoSwap | amoCas | amoFadd | vote3 | csumRow | csumCol | csumChk | emit
  | tbread | chkr
deriving DecidableEq, Repr

/-- The body forms of Table 4.5. -/
inductive OpForm where
  | c | m | r
deriving DecidableEq, Repr

/-- A target of an operator or router word (Table 4.6): none, an operator input, an exit arc or a router input. -/
inductive Target where
  | none
  | op (slot : BitVec 5) (port : BitVec 2)
  | exit (n : BitVec 7)
  | rtr (r : BitVec 5) (port : BitVec 2)
deriving DecidableEq, Repr

/-- An operator or router word taken apart (Table 4.4, Table 4.5). A form C word has four targets, or one and an
immediate; a form M word has two targets and its wave numbers; a form R word has four targets. -/
structure OpWord where
  opc : Opc
  mod : BitVec 8
  ty : BitVec 4
  repl : BitVec 6
  imm : Option (BitVec 27)
  wp : BitVec 6
  ww : BitVec 6
  ws : BitVec 6
  t0 : Target
  t1 : Target
  t2 : Target
  t3 : Target
deriving DecidableEq, Repr

/-- The stream commands, in the order of Table 4.11. -/
inductive Sopc where
  | snop | sync | fxregion | aprLoad | aprStore | aprDim | aprPad | aprEnd | cptDef
  | cptDim | cptGo | cptCancel | mcPermit | gathRow | gathRed | gathIdx | gathChain | gathTail
  | qntBlk | qntDq | qntChain | qntTail | mxtask | mxqSet | ldstat | mxswap | nmcSgd
  | nmcDecay | nmcRed | nmcChain | nmcTail | deadSet | deadClr | emitJnl | emitSeq
deriving DecidableEq, Repr

/-- The engines, one for each row of Table 4.11 (R116). -/
inductive Engine where
  | any | sheave | bte | gre | qe | mxe | nmc | base | jnl
deriving DecidableEq, Repr

/-- The classes of a token (Table 1.1). The reserved codes stand in no token (R12). -/
inductive TokClass where
  | data | control | header | poison
deriving DecidableEq, Repr

/-- A token: sixteen lane words, the lane-valid mask and the class (R12). -/
structure Token where
  lanes : Vector Lane 16
  mask : BitVec 16
  cls : TokClass
deriving DecidableEq, Repr

end Sys2Proof
end

