-- ==== Sys2Proof/Config.lean ====
section
/-! DEFINITION. What an implementation decides, or the manual leaves open: constants without a body, so that no proof can
see their values. -/

namespace Sys2Proof

/-- The code that an MXE takes for an operand-stream lane word that is no value of the task's activation format (R223
names a token of type w40 and no conversion; log entry 20). -/
opaque Config.mxeOperand : BitVec 4 → Lane → BitVec 16

/-- The bytes of the certificate in an SPDM slot (R286). -/
opaque Config.certificate : Nat → List Byte

/-- A digest of some bytes under SM3 (R286). -/
opaque Config.digest : List Byte → List Byte

/-- A signature of some bytes by the device's identity key under SM2 (R286). -/
opaque Config.signature : List Byte → List Byte

/-- Measurement block `index` of the firmware and configuration in force, given the versions (R286). -/
opaque Config.measurement : Nat → BitVec 32 → BitVec 8 → List Byte

/-- The limit that the words w2–w4 of SHARE set for a kind of grant: the manual gives no layout of them (R289, Table 13.8; log entry 21). -/
opaque Config.shareLimit : List Word → Nat → Nat

/-- The VA that the MC sets as `bcsa` of a channel at its grant, given the save area of the job, the die and the channel: the manual says that the MC
sets it and not to what (R210, Table 13.9; log entry 100). -/
opaque Config.channelStamp : Nat → Nat → Nat → BitVec 57

/-- Does the completer of a host or peer address support PCI Express AtomicOps (Table 3.6; log entry 103)? -/
opaque Config.completesAtomics : Nat → Bool

/-- The sections of the dump at a `tb`, of type 1 + i: the manual gives their types and leaves their contents open (R366). What exceeds 1 GiB is cut off. -/
opaque Config.dumpSections : Word → List (Fin 8 × List Byte)

/-- The element bits of WHERE for an operator that the loader placed on a spare, by spare: spares carry no address (R9, R329; log entry 107). -/
opaque Config.spareWhere : Nat → BitVec 6

/-- The priority of a user queue, by its creation: QCREATE gives it none, and the policy firmware binds by it (R304, R311; log entry 109). -/
opaque Config.queuePriority : Nat → Nat

/-- The opaque sections of a unit save record, by draw: at most 512 MiB of them are taken (R317; log entry 69). -/
opaque Config.saveSections : Nat → List Byte

/-- The host line that an error in a cache-mode stack takes with it, by draw: none where the failing line is clean (R354; log entry 110). -/
opaque Config.dirtyLine : Nat → Option Nat

/-- Free numbers, drawn one after another (State.freeCount counts them): whether a failing flit is the one that failed last, how many flits are
resent after it, how many codewords were uncorrectable (R377, R380), and how many of some ticks power limited (R371; log entry 153). -/
opaque Config.freeNat : Nat → Nat

end Sys2Proof
end

