-- ==== Sys2Proof/Decode.lean ====
section
/-! DEFINITION. The decoder, total on any bytes, and after it the encoder, both from the encoding tables of
04_encodings_and_opcode_maps.md: 32-bit scalar instructions (R119, R120, R251), 64-bit operator and router words
(R105–R108), and the opcodes of operators and stream commands. Every encoding that is not assigned is
rejected by name. -/

namespace Sys2Proof

/-- Why bytes are not a scalar instruction. -/
inductive DecodeErr where
  /-- Fewer than four bytes. -/
  | tooShort
  /-- An opcode that Table 4.13 does not assign (R120). -/
  | unassignedOpcode
  /-- A field marked zero is not zero (R119, R251). -/
  | zeroField
  /-- A cond code of 6 or 7 (R119). -/
  | badCond
  /-- An fn code of 5 to 7 (R119). -/
  | badFn
deriving DecidableEq, Repr

/-- The answer of the scalar decoder. -/
inductive Decoded where
  | ok (i : Instr)
  | bad (e : DecodeErr)
deriving DecidableEq, Repr

/-- The cond codes 0 to 5 (R119). -/
def Cond.ofCode (c : BitVec 3) : Option Cond :=
  match c.toNat with
  | 0 => some .eq
  | 1 => some .ne
  | 2 => some .lt
  | 3 => some .ge
  | 4 => some .ltu
  | 5 => some .geu
  | _ => none

/-- The fn codes 0 to 4 (R119). -/
def LogFn.ofCode (c : BitVec 3) : Option LogFn :=
  match c.toNat with
  | 0 => some .and
  | 1 => some .or
  | 2 => some .xor
  | 3 => some .andn
  | 4 => some .not
  | _ => none

/-- Accept an instruction only where its fields marked zero are zero (R119). -/
def zeroThen (z : Bool) (i : Instr) : Decoded := if z then .ok i else .bad .zeroField

/-- Format R: rd [24:20], rs1 [19:15], rs2 [14:10], [9:0] zero (Table 4.12). -/
def decR (w : BitVec 32) (f : Reg → Reg → Reg → Instr) : Decoded :=
  zeroThen (w.extractLsb' 0 10 == 0) (f (w.extractLsb' 20 5) (w.extractLsb' 15 5) (w.extractLsb' 10 5))

/-- Formats I and S: register [24:20], register [19:15], imm15 [14:0] (Table 4.12). -/
def decI (w : BitVec 32) (f : Reg → Reg → BitVec 15 → Instr) : Decoded :=
  .ok (f (w.extractLsb' 20 5) (w.extractLsb' 15 5) (w.extractLsb' 0 15))

/-- The immediate shifts: format I with imm15[14:6] zero (R119). -/
def decShift (w : BitVec 32) (f : Reg → Reg → BitVec 6 → Instr) : Decoded :=
  zeroThen (w.extractLsb' 6 9 == 0) (f (w.extractLsb' 20 5) (w.extractLsb' 15 5) (w.extractLsb' 0 6))

/-- Format C: rd [24:20], rs1 [19:15], csr [14:3], [2:0] zero (Table 4.12). -/
def decC (w : BitVec 32) (f : Reg → Reg → BitVec 12 → Instr) : Decoded :=
  zeroThen (w.extractLsb' 0 3 == 0) (f (w.extractLsb' 20 5) (w.extractLsb' 15 5) (w.extractLsb' 3 12))

/-- Format G: s-register [24:20], g [19:16], the rest zero (Table 4.12). -/
def decG (w : BitVec 32) (f : Reg → SeedReg → Instr) : Decoded :=
  zeroThen (w.extractLsb' 0 16 == 0) (f (w.extractLsb' 20 5) (w.extractLsb' 16 4))

/-- Format P: pd [24:22], cond [21:19], rs1 [18:14], rs2 [13:9], [8:0] zero (Table 4.12). -/
def decP (w : BitVec 32) : Decoded :=
  match Cond.ofCode (w.extractLsb' 19 3) with
  | none => .bad .badCond
  | some c =>
    zeroThen (w.extractLsb' 0 9 == 0) (.pset (w.extractLsb' 22 3) c (w.extractLsb' 14 5) (w.extractLsb' 9 5))

/-- Format L: pd [24:22], pa [21:19], pb [18:16], fn [15:13], [12:0] zero; `not` holds pb zero (Table 4.12). -/
def decL (w : BitVec 32) : Decoded :=
  match LogFn.ofCode (w.extractLsb' 13 3) with
  | none => .bad .badFn
  | some f =>
    zeroThen (w.extractLsb' 0 13 == 0 && (f != .not || w.extractLsb' 16 3 == 0))
      (.plog (w.extractLsb' 22 3) f (w.extractLsb' 19 3) (w.extractLsb' 16 3))

/-- `wait`: fn10[1:0] chooses the kind, fn10[9:2] is zero, and the kinds 0 and 1 hold rs2 zero (R250, R251). -/
def decWait (w : BitVec 32) : Decoded :=
  let rd := w.extractLsb' 20 5
  let rs1 := w.extractLsb' 15 5
  let rs2 := w.extractLsb' 10 5
  match (w.extractLsb' 0 10).toNat with
  | 0 => zeroThen (rs2 == 0) (.waitNtf rd rs1)
  | 1 => zeroThen (rs2 == 0) (.waitLvl rd rs1)
  | 2 => .ok (.waitGeu rd rs1 rs2)
  | 3 => .ok (.waitEq rd rs1 rs2)
  | _ => .bad .zeroField

/-- The scalar instruction that a 32-bit word is (Table 4.12, Table 4.13). -/
def decodeWord (w : BitVec 32) : Decoded :=
  match (w.extractLsb' 25 7).toNat with
  | 0x01 => decR w .add
  | 0x02 => decR w .sub
  | 0x03 => decR w .and
  | 0x04 => decR w .or
  | 0x05 => decR w .xor
  | 0x06 => decR w .sll
  | 0x07 => decR w .srl
  | 0x08 => decR w .sra
  | 0x09 => decR w .mul
  | 0x0A => decR w .mulh
  | 0x0B => decR w .div
  | 0x0C => decR w .rem
  | 0x0D => decR w .slt
  | 0x0E => decR w .sltu
  | 0x0F => decR w .min
  | 0x10 => decR w .max
  | 0x11 => decI w .addi
  | 0x12 => decI w .andi
  | 0x13 => decI w .ori
  | 0x14 => decI w .xori
  | 0x15 => decShift w .slli
  | 0x16 => decShift w .srli
  | 0x17 => decShift w .srai
  | 0x18 => .ok (.lui (w.extractLsb' 20 5) (w.extractLsb' 0 20))
  | 0x20 => decI w .ld
  | 0x21 => decI w .lw
  | 0x22 => decI w .lwu
  | 0x23 => decI w .lh
  | 0x24 => decI w .lhu
  | 0x25 => decI w .lb
  | 0x26 => decI w .lbu
  | 0x28 => decI w .sd
  | 0x29 => decI w .sw
  | 0x2A => decI w .sh
  | 0x2B => decI w .sb
  | 0x30 => decP w
  | 0x31 => decL w
  | 0x38 => .ok (.br (w.extractLsb' 22 3) (w.getLsbD 21) (w.extractLsb' 0 21))
  | 0x39 => .ok (.jal (w.extractLsb' 20 5) (w.extractLsb' 0 20))
  | 0x3A => decI w .jalr
  | 0x40 => decC w .csrrw
  | 0x41 => decC w .csrrs
  | 0x42 => decC w .csrrc
  | 0x44 => decG w .gset
  | 0x45 => decG w .gget
  | 0x50 => decR w .cfgld
  | 0x51 => decR w .cmd
  | 0x52 => zeroThen (w.extractLsb' 0 15 == 0) (.launch (w.extractLsb' 20 5) (w.extractLsb' 15 5))
  | 0x53 => zeroThen (w.extractLsb' 0 15 == 0) (.launchNb (w.extractLsb' 20 5) (w.extractLsb' 15 5))
  | 0x54 => zeroThen (w.extractLsb' 0 20 == 0) (.yield (w.extractLsb' 20 5))
  | 0x55 => decWait w
  | 0x56 => zeroThen (w.extractLsb' 20 5 == 0 && w.extractLsb' 10 5 == 0)
      (.trap (w.extractLsb' 15 5) (w.extractLsb' 0 10))
  | 0x57 => zeroThen (w.extractLsb' 0 25 == 0) .eret
  | 0x58 => zeroThen (w.extractLsb' 3 22 == 0) (.fence (w.extractLsb' 0 3))
  | 0x59 => zeroThen (w.extractLsb' 0 25 == 0) .endUnit
  | _ => .bad .unassignedOpcode

/-- Four bytes as a little-endian word (R5). -/
def word32 (b0 b1 b2 b3 : Byte) : BitVec 32 := b3 ++ b2 ++ b1 ++ b0

/-- The scalar decoder on bytes: the instruction that the first four bytes are, little-endian (R5). -/
def decode : List Byte → Decoded
  | b0 :: b1 :: b2 :: b3 :: _ => decodeWord (word32 b0 b1 b2 b3)
  | _ => .bad .tooShort

/-- The bytes of a word of the scalar stream as the hardware stores them (R5). -/
def storedBytes (w : Nat) : List Byte :=
  [BitVec.ofNat 8 w, BitVec.ofNat 8 (w / 256), BitVec.ofNat 8 (w / 65536), BitVec.ofNat 8 (w / 16777216)]

/-- What the decoder reads from an instruction whose bits are `w` (bit 0 is the least significant bit of the word). -/
def decodeTableWord (nbits w : Nat) : Option Instr :=
  if 32 < nbits ∨ 2 ^ 32 ≤ w then none
  else
    match decode (storedBytes w) with
    | .ok i => some i
    | .bad _ => none

/-- The opcode of an operator (Table 4.9). -/
def Opc.code : Opc → BitVec 8
  | .add => 0x01
  | .sub => 0x02
  | .adds => 0x03
  | .subs => 0x04
  | .mul => 0x05
  | .mulh => 0x06
  | .mulhu => 0x07
  | .div => 0x08
  | .divu => 0x09
  | .rem => 0x0A
  | .remu => 0x0B
  | .neg => 0x0C
  | .abs => 0x0D
  | .min => 0x0E
  | .max => 0x0F
  | .and => 0x10
  | .or => 0x11
  | .xor => 0x12
  | .andn => 0x13
  | .not => 0x14
  | .shl => 0x15
  | .shr => 0x16
  | .sar => 0x17
  | .rol => 0x18
  | .ror => 0x19
  | .clz => 0x1A
  | .popc => 0x1B
  | .bext => 0x1C
  | .bins => 0x1D
  | .brev => 0x1E
  | .bswap => 0x1F
  | .ceq => 0x20
  | .cne => 0x21
  | .clt => 0x22
  | .cle => 0x23
  | .cltu => 0x24
  | .cleu => 0x25
  | .fceq => 0x26
  | .fclt => 0x27
  | .fcle => 0x28
  | .fcun => 0x29
  | .sel => 0x2A
  | .mov => 0x2B
  | .fadd => 0x30
  | .fsub => 0x31
  | .fmul => 0x32
  | .fma => 0x33
  | .fms => 0x34
  | .fnma => 0x35
  | .fnms => 0x36
  | .fmin => 0x37
  | .fmax => 0x38
  | .fabs => 0x39
  | .fneg => 0x3A
  | .fcpsgn => 0x3B
  | .frcps => 0x3C
  | .frcpi => 0x3D
  | .frsqs => 0x3E
  | .frsqi => 0x3F
  | .fexpr => 0x40
  | .fexpp => 0x41
  | .flogr => 0x42
  | .flogp => 0x43
  | .fsinr => 0x44
  | .fsinp => 0x45
  | .fclass => 0x46
  | .fround => 0x47
  | .fscale => 0x48
  | .fmant => 0x49
  | .fexpo => 0x4A
  | .lgmul => 0x50
  | .lgsum => 0x51
  | .lgenc => 0x52
  | .bsapply => 0x53
  | .bsfind => 0x54
  | .bshdr => 0x55
  | .bsstrip => 0x56
  | .amaxr => 0x57
  | .cvtfi => 0x58
  | .cvtif => 0x59
  | .cvtfr => 0x5A
  | .cvtsat => 0x5B
  | .lfld => 0x60
  | .lfst => 0x61
  | .lfldi => 0x62
  | .lfsti => 0x63
  | .perm => 0x64
  | .permi => 0x65
  | .bcast => 0x66
  | .lsum => 0x67
  | .steer => 0x80
  | .mergeOrd => 0x81
  | .mergeArr => 0x82
  | .carry => 0x83
  | .join => 0x84
  | .gate => 0x85
  | .sink => 0x86
  | .ctok => 0x87
  | .const => 0x88
  | .iota => 0x89
  | .vld => 0x90
  | .vst => 0x91
  | .memnop => 0x92
  | .ldfe => 0x93
  | .vldx => 0x94
  | .vstx => 0x95
  | .apst => 0x96
  | .fence => 0x97
  | .monwait => 0x98
  | .redFx => 0x99
  | .amoAdd => 0xA0
  | .amoAnd => 0xA1
  | .amoOr => 0xA2
  | .amoXor => 0xA3
  | .amoMin => 0xA4
  | .amoMax => 0xA5
  | .amoMinu => 0xA6
  | .amoMaxu => 0xA7
  | .amoSwap => 0xA8
  | .amoCas => 0xA9
  | .amoFadd => 0xAA
  | .vote3 => 0xB0
  | .csumRow => 0xB1
  | .csumCol => 0xB2
  | .csumChk => 0xB3
  | .emit => 0xB4
  | .tbread => 0xB5
  | .chkr => 0xB6

/-- The form of an operator's body (Table 4.9). -/
def Opc.form : Opc → OpForm
  | .steer | .mergeOrd | .mergeArr | .carry => .r
  | .vld | .vst | .memnop | .ldfe | .vldx | .vstx | .apst | .fence | .monwait | .redFx | .amoAdd | .amoAnd | .amoOr | .amoXor | .amoMin | .amoMax | .amoMinu | .amoMaxu | .amoSwap | .amoCas | .amoFadd | .emit => .m
  | _ => .c

/-- The step that a firing of the operator is. -/
def Opc.instr (e : Site) : Opc → Instr
  | .add => .opAdd e
  | .sub => .opSub e
  | .adds => .opAdds e
  | .subs => .opSubs e
  | .mul => .opMul e
  | .mulh => .opMulh e
  | .mulhu => .opMulhu e
  | .div => .opDiv e
  | .divu => .opDivu e
  | .rem => .opRem e
  | .remu => .opRemu e
  | .neg => .opNeg e
  | .abs => .opAbs e
  | .min => .opMin e
  | .max => .opMax e
  | .and => .opAnd e
  | .or => .opOr e
  | .xor => .opXor e
  | .andn => .opAndn e
  | .not => .opNot e
  | .shl => .opShl e
  | .shr => .opShr e
  | .sar => .opSar e
  | .rol => .opRol e
  | .ror => .opRor e
  | .clz => .opClz e
  | .popc => .opPopc e
  | .bext => .opBext e
  | .bins => .opBins e
  | .brev => .opBrev e
  | .bswap => .opBswap e
  | .ceq => .opCeq e
  | .cne => .opCne e
  | .clt => .opClt e
  | .cle => .opCle e
  | .cltu => .opCltu e
  | .cleu => .opCleu e
  | .fceq => .opFceq e
  | .fclt => .opFclt e
  | .fcle => .opFcle e
  | .fcun => .opFcun e
  | .sel => .opSel e
  | .mov => .opMov e
  | .fadd => .opFadd e
  | .fsub => .opFsub e
  | .fmul => .opFmul e
  | .fma => .opFma e
  | .fms => .opFms e
  | .fnma => .opFnma e
  | .fnms => .opFnms e
  | .fmin => .opFmin e
  | .fmax => .opFmax e
  | .fabs => .opFabs e
  | .fneg => .opFneg e
  | .fcpsgn => .opFcpsgn e
  | .frcps => .opFrcps e
  | .frcpi => .opFrcpi e
  | .frsqs => .opFrsqs e
  | .frsqi => .opFrsqi e
  | .fexpr => .opFexpr e
  | .fexpp => .opFexpp e
  | .flogr => .opFlogr e
  | .flogp => .opFlogp e
  | .fsinr => .opFsinr e
  | .fsinp => .opFsinp e
  | .fclass => .opFclass e
  | .fround => .opFround e
  | .fscale => .opFscale e
  | .fmant => .opFmant e
  | .fexpo => .opFexpo e
  | .lgmul => .opLgmul e
  | .lgsum => .opLgsum e
  | .lgenc => .opLgenc e
  | .bsapply => .opBsapply e
  | .bsfind => .opBsfind e
  | .bshdr => .opBshdr e
  | .bsstrip => .opBsstrip e
  | .amaxr => .opAmaxr e
  | .cvtfi => .opCvtfi e
  | .cvtif => .opCvtif e
  | .cvtfr => .opCvtfr e
  | .cvtsat => .opCvtsat e
  | .lfld => .opLfld e
  | .lfst => .opLfst e
  | .lfldi => .opLfldi e
  | .lfsti => .opLfsti e
  | .perm => .opPerm e
  | .permi => .opPermi e
  | .bcast => .opBcast e
  | .lsum => .opLsum e
  | .steer => .opSteer e
  | .mergeOrd => .opMergeOrd e
  | .mergeArr => .opMergeArr e
  | .carry => .opCarry e
  | .join => .opJoin e
  | .gate => .opGate e
  | .sink => .opSink e
  | .ctok => .opCtok e
  | .const => .opConst e
  | .iota => .opIota e
  | .vld => .opVld e
  | .vst => .opVst e
  | .memnop => .opMemnop e
  | .ldfe => .opLdfe e
  | .vldx => .opVldx e
  | .vstx => .opVstx e
  | .apst => .opApst e
  | .fence => .opFence e
  | .monwait => .opMonwait e
  | .redFx => .opRedFx e
  | .amoAdd => .opAmoAdd e
  | .amoAnd => .opAmoAnd e
  | .amoOr => .opAmoOr e
  | .amoXor => .opAmoXor e
  | .amoMin => .opAmoMin e
  | .amoMax => .opAmoMax e
  | .amoMinu => .opAmoMinu e
  | .amoMaxu => .opAmoMaxu e
  | .amoSwap => .opAmoSwap e
  | .amoCas => .opAmoCas e
  | .amoFadd => .opAmoFadd e
  | .vote3 => .opVote3 e
  | .csumRow => .opCsumRow e
  | .csumCol => .opCsumCol e
  | .csumChk => .opCsumChk e
  | .emit => .opEmit e
  | .tbread => .opTbread e
  | .chkr => .opChkr e

/-- The opcode of a stream command (Table 4.11). -/
def Sopc.code : Sopc → BitVec 8
  | .snop => 0x00
  | .sync => 0x01
  | .fxregion => 0x02
  | .aprLoad => 0x10
  | .aprStore => 0x11
  | .aprDim => 0x12
  | .aprPad => 0x13
  | .aprEnd => 0x14
  | .cptDef => 0x20
  | .cptDim => 0x21
  | .cptGo => 0x22
  | .cptCancel => 0x23
  | .mcPermit => 0x24
  | .gathRow => 0x30
  | .gathRed => 0x31
  | .gathIdx => 0x32
  | .gathChain => 0x33
  | .gathTail => 0x34
  | .qntBlk => 0x40
  | .qntDq => 0x41
  | .qntChain => 0x42
  | .qntTail => 0x43
  | .mxtask => 0x50
  | .mxqSet => 0x51
  | .ldstat => 0x52
  | .mxswap => 0x53
  | .nmcSgd => 0x60
  | .nmcDecay => 0x61
  | .nmcRed => 0x62
  | .nmcChain => 0x63
  | .nmcTail => 0x64
  | .deadSet => 0x70
  | .deadClr => 0x71
  | .emitJnl => 0x80
  | .emitSeq => 0x81

/-- The engine that a stream command goes to (Table 4.11). -/
def Sopc.engine : Sopc → Engine
  | .snop | .sync | .fxregion => .any
  | .aprLoad | .aprStore | .aprDim | .aprPad | .aprEnd => .sheave
  | .cptDef | .cptDim | .cptGo | .cptCancel | .mcPermit => .bte
  | .gathRow | .gathRed | .gathIdx | .gathChain | .gathTail => .gre
  | .qntBlk | .qntDq | .qntChain | .qntTail => .qe
  | .mxtask | .mxqSet | .ldstat | .mxswap => .mxe
  | .nmcSgd | .nmcDecay | .nmcRed | .nmcChain | .nmcTail => .nmc
  | .deadSet | .deadClr => .base
  | .emitJnl | .emitSeq => .jnl

/-- The operator of an opcode; none for the unassigned values (R115). -/
def Opc.ofCode (c : BitVec 8) : Option Opc :=
  match c.toNat with
  | 0x01 => some .add
  | 0x02 => some .sub
  | 0x03 => some .adds
  | 0x04 => some .subs
  | 0x05 => some .mul
  | 0x06 => some .mulh
  | 0x07 => some .mulhu
  | 0x08 => some .div
  | 0x09 => some .divu
  | 0x0A => some .rem
  | 0x0B => some .remu
  | 0x0C => some .neg
  | 0x0D => some .abs
  | 0x0E => some .min
  | 0x0F => some .max
  | 0x10 => some .and
  | 0x11 => some .or
  | 0x12 => some .xor
  | 0x13 => some .andn
  | 0x14 => some .not
  | 0x15 => some .shl
  | 0x16 => some .shr
  | 0x17 => some .sar
  | 0x18 => some .rol
  | 0x19 => some .ror
  | 0x1A => some .clz
  | 0x1B => some .popc
  | 0x1C => some .bext
  | 0x1D => some .bins
  | 0x1E => some .brev
  | 0x1F => some .bswap
  | 0x20 => some .ceq
  | 0x21 => some .cne
  | 0x22 => some .clt
  | 0x23 => some .cle
  | 0x24 => some .cltu
  | 0x25 => some .cleu
  | 0x26 => some .fceq
  | 0x27 => some .fclt
  | 0x28 => some .fcle
  | 0x29 => some .fcun
  | 0x2A => some .sel
  | 0x2B => some .mov
  | 0x30 => some .fadd
  | 0x31 => some .fsub
  | 0x32 => some .fmul
  | 0x33 => some .fma
  | 0x34 => some .fms
  | 0x35 => some .fnma
  | 0x36 => some .fnms
  | 0x37 => some .fmin
  | 0x38 => some .fmax
  | 0x39 => some .fabs
  | 0x3A => some .fneg
  | 0x3B => some .fcpsgn
  | 0x3C => some .frcps
  | 0x3D => some .frcpi
  | 0x3E => some .frsqs
  | 0x3F => some .frsqi
  | 0x40 => some .fexpr
  | 0x41 => some .fexpp
  | 0x42 => some .flogr
  | 0x43 => some .flogp
  | 0x44 => some .fsinr
  | 0x45 => some .fsinp
  | 0x46 => some .fclass
  | 0x47 => some .fround
  | 0x48 => some .fscale
  | 0x49 => some .fmant
  | 0x4A => some .fexpo
  | 0x50 => some .lgmul
  | 0x51 => some .lgsum
  | 0x52 => some .lgenc
  | 0x53 => some .bsapply
  | 0x54 => some .bsfind
  | 0x55 => some .bshdr
  | 0x56 => some .bsstrip
  | 0x57 => some .amaxr
  | 0x58 => some .cvtfi
  | 0x59 => some .cvtif
  | 0x5A => some .cvtfr
  | 0x5B => some .cvtsat
  | 0x60 => some .lfld
  | 0x61 => some .lfst
  | 0x62 => some .lfldi
  | 0x63 => some .lfsti
  | 0x64 => some .perm
  | 0x65 => some .permi
  | 0x66 => some .bcast
  | 0x67 => some .lsum
  | 0x80 => some .steer
  | 0x81 => some .mergeOrd
  | 0x82 => some .mergeArr
  | 0x83 => some .carry
  | 0x84 => some .join
  | 0x85 => some .gate
  | 0x86 => some .sink
  | 0x87 => some .ctok
  | 0x88 => some .const
  | 0x89 => some .iota
  | 0x90 => some .vld
  | 0x91 => some .vst
  | 0x92 => some .memnop
  | 0x93 => some .ldfe
  | 0x94 => some .vldx
  | 0x95 => some .vstx
  | 0x96 => some .apst
  | 0x97 => some .fence
  | 0x98 => some .monwait
  | 0x99 => some .redFx
  | 0xA0 => some .amoAdd
  | 0xA1 => some .amoAnd
  | 0xA2 => some .amoOr
  | 0xA3 => some .amoXor
  | 0xA4 => some .amoMin
  | 0xA5 => some .amoMax
  | 0xA6 => some .amoMinu
  | 0xA7 => some .amoMaxu
  | 0xA8 => some .amoSwap
  | 0xA9 => some .amoCas
  | 0xAA => some .amoFadd
  | 0xB0 => some .vote3
  | 0xB1 => some .csumRow
  | 0xB2 => some .csumCol
  | 0xB3 => some .csumChk
  | 0xB4 => some .emit
  | 0xB5 => some .tbread
  | 0xB6 => some .chkr
  | _ => none

/-- The stream command of an opcode; none for the unassigned values (R117). -/
def Sopc.ofCode (c : BitVec 8) : Option Sopc :=
  match c.toNat with
  | 0x00 => some .snop
  | 0x01 => some .sync
  | 0x02 => some .fxregion
  | 0x10 => some .aprLoad
  | 0x11 => some .aprStore
  | 0x12 => some .aprDim
  | 0x13 => some .aprPad
  | 0x14 => some .aprEnd
  | 0x20 => some .cptDef
  | 0x21 => some .cptDim
  | 0x22 => some .cptGo
  | 0x23 => some .cptCancel
  | 0x24 => some .mcPermit
  | 0x30 => some .gathRow
  | 0x31 => some .gathRed
  | 0x32 => some .gathIdx
  | 0x33 => some .gathChain
  | 0x34 => some .gathTail
  | 0x40 => some .qntBlk
  | 0x41 => some .qntDq
  | 0x42 => some .qntChain
  | 0x43 => some .qntTail
  | 0x50 => some .mxtask
  | 0x51 => some .mxqSet
  | 0x52 => some .ldstat
  | 0x53 => some .mxswap
  | 0x60 => some .nmcSgd
  | 0x61 => some .nmcDecay
  | 0x62 => some .nmcRed
  | 0x63 => some .nmcChain
  | 0x64 => some .nmcTail
  | 0x70 => some .deadSet
  | 0x71 => some .deadClr
  | 0x80 => some .emitJnl
  | 0x81 => some .emitSeq
  | _ => none

/-- A 9-bit target field (Table 4.6); none where a kind 00 target is not all zero. -/
def Target.ofBits (t : BitVec 9) : Option Target :=
  match (t.extractLsb' 7 2).toNat with
  | 0 => if t = 0 then some .none else none
  | 1 => some (.op (t.extractLsb' 2 5) (t.extractLsb' 0 2))
  | 2 => some (.exit (t.extractLsb' 0 7))
  | _ => some (.rtr (t.extractLsb' 2 5) (t.extractLsb' 0 2))

/-- Why a 64-bit word is not an operator or router word: the status of Table 4.8 that it earns. -/
inductive OpErr where
  /-- An unassigned opcode: status OPC (R115). -/
  | opc
  /-- A reserved field that is not zero: status FORM. -/
  | form
deriving DecidableEq, Repr

/-- The answer of the operator-word decoder. -/
inductive OpDecoded where
  | ok (w : OpWord)
  | bad (e : OpErr)
deriving DecidableEq, Repr

/-- Put the targets of a word in place, or find a reserved target field set. -/
def withTargets (z : Bool) (a b c d : BitVec 9) (f : Target → Target → Target → Target → OpWord) : OpDecoded :=
  match z, Target.ofBits a, Target.ofBits b, Target.ofBits c, Target.ofBits d with
  | true, some t0, some t1, some t2, some t3 => .ok (f t0 t1 t2 t3)
  | _, _, _, _, _ => .bad .form

/-- Take an operator or router word apart (R105, Table 4.4, Table 4.5). -/
def decodeOp (w : BitVec 64) : OpDecoded :=
  match Opc.ofCode (w.extractLsb' 56 8) with
  | none => .bad .opc
  | some o =>
    let md := w.extractLsb' 48 8
    let ty := w.extractLsb' 44 4
    let rp := w.extractLsb' 38 6
    match o.form with
    | .c =>
      if w.getLsbD 37 then
        withTargets (!w.getLsbD 36) (w.extractLsb' 27 9) 0 0 0
          (fun a b c d => { opc := o, mod := md, ty := ty, repl := rp, imm := some (w.extractLsb' 0 27),
                            wp := 0, ww := 0, ws := 0, t0 := a, t1 := b, t2 := c, t3 := d })
      else
        withTargets (!w.getLsbD 36) (w.extractLsb' 27 9) (w.extractLsb' 18 9) (w.extractLsb' 9 9) (w.extractLsb' 0 9)
          (fun a b c d => { opc := o, mod := md, ty := ty, repl := rp, imm := none,
                            wp := 0, ww := 0, ws := 0, t0 := a, t1 := b, t2 := c, t3 := d })
    | .m =>
      withTargets (w.extractLsb' 18 2 == 0) (w.extractLsb' 9 9) (w.extractLsb' 0 9) 0 0
        (fun a b c d => { opc := o, mod := md, ty := ty, repl := rp, imm := none, wp := w.extractLsb' 32 6,
                          ww := w.extractLsb' 26 6, ws := w.extractLsb' 20 6, t0 := a, t1 := b, t2 := c, t3 := d })
    | .r =>
      withTargets (w.extractLsb' 36 2 == 0) (w.extractLsb' 27 9) (w.extractLsb' 18 9) (w.extractLsb' 9 9) (w.extractLsb' 0 9)
        (fun a b c d => { opc := o, mod := md, ty := ty, repl := rp, imm := none,
                          wp := 0, ww := 0, ws := 0, t0 := a, t1 := b, t2 := c, t3 := d })

/-! ## The encoder -/

/-- The code of a cond (R119). -/
def Cond.code : Cond → BitVec 3
  | .eq => 0
  | .ne => 1
  | .lt => 2
  | .ge => 3
  | .ltu => 4
  | .geu => 5

/-- The code of an fn (R119). -/
def LogFn.code : LogFn → BitVec 3
  | .and => 0
  | .or => 1
  | .xor => 2
  | .andn => 3
  | .not => 4

/-- A word of format R or X. -/
def encR (op : BitVec 7) (rd rs1 rs2 : Reg) (fn : BitVec 10) : BitVec 32 := op ++ rd ++ rs1 ++ rs2 ++ fn
/-- A word of format I or S. -/
def encI (op : BitVec 7) (r rs1 : Reg) (imm : BitVec 15) : BitVec 32 := op ++ r ++ rs1 ++ imm
/-- A word of an immediate shift. -/
def encShift (op : BitVec 7) (rd rs1 : Reg) (sh : BitVec 6) : BitVec 32 := op ++ rd ++ rs1 ++ (0 : BitVec 9) ++ sh
/-- A word of format C. -/
def encC (op : BitVec 7) (rd rs1 : Reg) (csr : BitVec 12) : BitVec 32 := op ++ rd ++ rs1 ++ csr ++ (0 : BitVec 3)
/-- A word of format G. -/
def encG (op : BitVec 7) (rs : Reg) (g : SeedReg) : BitVec 32 := op ++ rs ++ g ++ (0 : BitVec 16)

/-- A word of format P. -/
def encP (pd : Pred) (c : BitVec 3) (rs1 rs2 : Reg) : BitVec 32 := (0x30 : BitVec 7) ++ pd ++ c ++ rs1 ++ rs2 ++ (0 : BitVec 9)
/-- A word of format L. -/
def encL (pd pa pb : Pred) (f : BitVec 3) : BitVec 32 := (0x31 : BitVec 7) ++ pd ++ pa ++ pb ++ f ++ (0 : BitVec 13)
/-- A word of format B. -/
def encB (p : Pred) (neg : BitVec 1) (off : BitVec 21) : BitVec 32 := (0x38 : BitVec 7) ++ p ++ neg ++ off
/-- A word of formats U and J. -/
def encU (op : BitVec 7) (rd : Reg) (imm : BitVec 20) : BitVec 32 := op ++ rd ++ imm

/-- The word of a scalar instruction; none for the steps that have no word of their own. -/
def encode : Instr → Option (BitVec 32)
  | .add rd rs1 rs2 => some (encR 0x01 rd rs1 rs2 0)
  | .sub rd rs1 rs2 => some (encR 0x02 rd rs1 rs2 0)
  | .and rd rs1 rs2 => some (encR 0x03 rd rs1 rs2 0)
  | .or rd rs1 rs2 => some (encR 0x04 rd rs1 rs2 0)
  | .xor rd rs1 rs2 => some (encR 0x05 rd rs1 rs2 0)
  | .sll rd rs1 rs2 => some (encR 0x06 rd rs1 rs2 0)
  | .srl rd rs1 rs2 => some (encR 0x07 rd rs1 rs2 0)
  | .sra rd rs1 rs2 => some (encR 0x08 rd rs1 rs2 0)
  | .mul rd rs1 rs2 => some (encR 0x09 rd rs1 rs2 0)
  | .mulh rd rs1 rs2 => some (encR 0x0A rd rs1 rs2 0)
  | .div rd rs1 rs2 => some (encR 0x0B rd rs1 rs2 0)
  | .rem rd rs1 rs2 => some (encR 0x0C rd rs1 rs2 0)
  | .slt rd rs1 rs2 => some (encR 0x0D rd rs1 rs2 0)
  | .sltu rd rs1 rs2 => some (encR 0x0E rd rs1 rs2 0)
  | .min rd rs1 rs2 => some (encR 0x0F rd rs1 rs2 0)
  | .max rd rs1 rs2 => some (encR 0x10 rd rs1 rs2 0)
  | .addi rd rs1 imm => some (encI 0x11 rd rs1 imm)
  | .andi rd rs1 imm => some (encI 0x12 rd rs1 imm)
  | .ori rd rs1 imm => some (encI 0x13 rd rs1 imm)
  | .xori rd rs1 imm => some (encI 0x14 rd rs1 imm)
  | .slli rd rs1 sh => some (encShift 0x15 rd rs1 sh)
  | .srli rd rs1 sh => some (encShift 0x16 rd rs1 sh)
  | .srai rd rs1 sh => some (encShift 0x17 rd rs1 sh)
  | .lui rd imm => some (encU 0x18 rd imm)
  | .ld rd rs1 imm => some (encI 0x20 rd rs1 imm)
  | .lw rd rs1 imm => some (encI 0x21 rd rs1 imm)
  | .lwu rd rs1 imm => some (encI 0x22 rd rs1 imm)
  | .lh rd rs1 imm => some (encI 0x23 rd rs1 imm)
  | .lhu rd rs1 imm => some (encI 0x24 rd rs1 imm)
  | .lb rd rs1 imm => some (encI 0x25 rd rs1 imm)
  | .lbu rd rs1 imm => some (encI 0x26 rd rs1 imm)
  | .sd rs2 rs1 imm => some (encI 0x28 rs2 rs1 imm)
  | .sw rs2 rs1 imm => some (encI 0x29 rs2 rs1 imm)
  | .sh rs2 rs1 imm => some (encI 0x2A rs2 rs1 imm)
  | .sb rs2 rs1 imm => some (encI 0x2B rs2 rs1 imm)
  | .pset pd c rs1 rs2 => some (encP pd c.code rs1 rs2)
  | .plog pd f pa pb => some (encL pd pa pb f.code)
  | .br p neg off => some (encB p (BitVec.ofBool neg) off)
  | .jal rd off => some (encU 0x39 rd off)
  | .jalr rd rs1 imm => some (encI 0x3A rd rs1 imm)
  | .csrrw rd rs1 csr => some (encC 0x40 rd rs1 csr)
  | .csrrs rd rs1 csr => some (encC 0x41 rd rs1 csr)
  | .csrrc rd rs1 csr => some (encC 0x42 rd rs1 csr)
  | .gset rs g => some (encG 0x44 rs g)
  | .gget rs g => some (encG 0x45 rs g)
  | .cfgld rd rs1 rs2 => some (encR 0x50 rd rs1 rs2 0)
  | .cmd rd rs1 rs2 => some (encR 0x51 rd rs1 rs2 0)
  | .launch rd rs1 => some (encR 0x52 rd rs1 0 0)
  | .launchNb rd rs1 => some (encR 0x53 rd rs1 0 0)
  | .yield rd => some (encR 0x54 rd 0 0 0)
  | .waitNtf rd rs1 => some (encR 0x55 rd rs1 0 0)
  | .waitLvl rd rs1 => some (encR 0x55 rd rs1 0 1)
  | .waitGeu rd rs1 rs2 => some (encR 0x55 rd rs1 rs2 2)
  | .waitEq rd rs1 rs2 => some (encR 0x55 rd rs1 rs2 3)
  | .trap rs1 code => some (encR 0x56 0 rs1 0 code)
  | .eret => some (encR 0x57 0 0 0 0)
  | .fence scope => some (encR 0x58 0 0 0 ((0 : BitVec 7) ++ scope))
  | .endUnit => some (encR 0x59 0 0 0 0)
  | _ => none

/-- The bits of a target (Table 4.6). -/
def Target.bits : Target → BitVec 9
  | .none => 0
  | .op s p => (1 : BitVec 2) ++ s ++ p
  | .exit n => (2 : BitVec 2) ++ n
  | .rtr r p => (3 : BitVec 2) ++ r ++ p

/-- The word of an operator or router (Table 4.4, Table 4.5). -/
def encodeOp (w : OpWord) : BitVec 64 :=
  let body : BitVec 38 :=
    match w.opc.form, w.imm with
    | .c, some i => (2 : BitVec 2) ++ w.t0.bits ++ i
    | .c, none => (0 : BitVec 2) ++ w.t0.bits ++ w.t1.bits ++ w.t2.bits ++ w.t3.bits
    | .m, _ => w.wp ++ w.ww ++ w.ws ++ (0 : BitVec 2) ++ w.t0.bits ++ w.t1.bits
    | .r, _ => (0 : BitVec 2) ++ w.t0.bits ++ w.t1.bits ++ w.t2.bits ++ w.t3.bits
  w.opc.code ++ w.mod ++ w.ty ++ w.repl ++ body

/-- A word taken apart whose fields its form has (Table 4.5): what `encodeOp` loses nothing of. -/
def OpWord.wf (w : OpWord) : Bool :=
  match w.opc.form with
  | .c => w.wp == 0 && w.ww == 0 && w.ws == 0 &&
      (w.imm == none || (w.t1 == .none && w.t2 == .none && w.t3 == .none))
  | .m => w.imm == none && w.t2 == .none && w.t3 == .none
  | .r => w.imm == none && w.wp == 0 && w.ww == 0 && w.ws == 0

end Sys2Proof
end

