-- ==== Sys2Proof/Machine/Maps.lean ====
section
/-! DEFINITION. Sparse data by number: a list of key and value pairs with strictly rising keys. A map with a
default value lists no entry equal to the default, so that equal maps are equal lists. -/

namespace Sys2Proof.Machine

/-- A sparse map: (key, value) pairs, keys strictly rising. -/
abbrev KMap (α : Type) := List (Nat × α)

/-- The entry of a key, if it has one. -/
def kget {α : Type} : KMap α → Nat → Option α
  | [], _ => none
  | (k, v) :: m, n => if k = n then some v else kget m n

/-- Set the entry of a key, keeping the keys in order. -/
def kput {α : Type} : KMap α → Nat → α → KMap α
  | [], n, x => [(n, x)]
  | (k, v) :: m, n, x =>
    if n < k then (n, x) :: (k, v) :: m
    else if k = n then (n, x) :: m
    else (k, v) :: kput m n x

/-- Remove the entry of a key. -/
def kdel {α : Type} : KMap α → Nat → KMap α
  | [], _ => []
  | (k, v) :: m, n => if k = n then m else (k, v) :: kdel m n

/-- Change the entry of a key, if it has one. -/
def kmod {α : Type} (m : KMap α) (n : Nat) (f : α → α) : KMap α := m.map fun p => if p.1 = n then (p.1, f p.2) else p

/-- Keys strictly rise. -/
def ksorted {α : Type} : KMap α → Bool
  | [] => true
  | [_] => true
  | (k, _) :: (k', v') :: m => k < k' && ksorted ((k', v') :: m)

/-- Read a map whose unlisted keys read as `d`. -/
def dget {α : Type} (d : α) (m : KMap α) (n : Nat) : α := (kget m n).getD d

/-- Write a map whose unlisted keys read as `d`: writing the default removes the entry. -/
def dset {α : Type} [DecidableEq α] (d : α) (m : KMap α) (n : Nat) (x : α) : KMap α :=
  if x = d then kdel m n else kput m n x

/-- The canonical form of a map with default `d`: keys strictly rise and no entry is the default. -/
def dwf {α : Type} [DecidableEq α] (d : α) (m : KMap α) : Bool := ksorted m && m.all fun p => p.2 ≠ d

end Sys2Proof.Machine
end

