-- ==== Sys2Proof/Machine/Flags.lean ====
section
/-! DEFINITION. The arithmetic flags: the five bits of `numst` (R51, Table 2.4) and the
saturated-or-wrapped bit that only edge conversions report (R55, R393). -/

namespace Sys2Proof.Machine

/-- The flags of one conversion or arithmetic operation (Table 2.4, R55). -/
structure Flags where
  nv : Bool := false
  dz : Bool := false
  ov : Bool := false
  uf : Bool := false
  nx : Bool := false
  sat : Bool := false
deriving DecidableEq, Repr

/-- No flag. -/
def Flags.none : Flags :=
  { nv := false, dz := false, ov := false, uf := false, nx := false, sat := false }

/-- Invalid only. -/
def Flags.invalid : Flags := { Flags.none with nv := true }

/-- The OR of two flag sets (R51, R55). -/
def Flags.or (a b : Flags) : Flags :=
  { nv := a.nv || b.nv, dz := a.dz || b.dz, ov := a.ov || b.ov, uf := a.uf || b.uf,
    nx := a.nx || b.nx, sat := a.sat || b.sat }

/-- The flags as `numst` bits: NV 0, DZ 1, OF 2, UF 3, NX 4 (Table 2.4). Saturated-or-wrapped has no bit (R393). -/
def Flags.toNumst (f : Flags) : BitVec 5 :=
  BitVec.ofBool f.nx ++ BitVec.ofBool f.uf ++ BitVec.ofBool f.ov ++ BitVec.ofBool f.dz ++ BitVec.ofBool f.nv

end Sys2Proof.Machine
end

