-- ==== Sys2Proof/Machine/Formats.lean ====
section
/-! DEFINITION. Number formats and the arithmetic of values (02_number_formats.md): FW40, the storage
formats and their edge conversions, LG6, burst-header scaling, FX128 cells, minimum and maximum, and the
approximation predictor. Every operation is computed exactly over the integers and rounded once (R49). -/

namespace Sys2Proof.Machine

/-- Round `m / 2^k` to the nearest integer, ties to even; the flag says the quotient was not exact (R49). -/
def rneShift (m k : Nat) : Nat × Bool :=
  let q := m >>> k
  let r := m - (q <<< k)
  let half := (1 <<< k) / 2
  if r = 0 then (q, false)
  else if k = 0 then (q, false)
  else if half < r ∨ (r = half ∧ q % 2 = 1) then (q + 1, true)
  else (q, true)

/-- `m × 2^e` (with `e` any integer) rounded to an integer, ties to even. -/
def rneInt (m : Nat) (e : Int) : Nat × Bool :=
  if 0 ≤ e then (m <<< e.toNat, false) else rneShift m (-e).toNat

/-- The number of significant bits of `m`. -/
def bitLen (m : Nat) : Nat := if m = 0 then 0 else Nat.log2 m + 1

/-- A magnitude rounded into a binary format: significand `n`, quantum exponent `q` (value `n × 2^q`),
whether rounding changed it, and whether it was tiny after rounding with the exponent unbounded. -/
structure Rounded where
  n : Nat
  q : Int
  nx : Bool
  tiny : Bool
deriving DecidableEq, Repr

/-- Round a magnitude to `p` significant bits with no lower bound on the exponent. -/
def roundUnbounded (p m : Nat) (e : Int) : Rounded :=
  let q : Int := e + bitLen m - p
  let r := rneInt m (e - q)
  if r.1 = 2 ^ p then { n := 2 ^ (p - 1), q := q + 1, nx := r.2, tiny := false }
  else { n := r.1, q := q, nx := r.2, tiny := false }

/-- Round a non-zero magnitude `m × 2^e` to `p` significant bits, with the least quantum `2^qmin`
(gradual underflow), to nearest with ties to even (R49). -/
def roundMag (p : Nat) (qmin : Int) (m : Nat) (e : Int) : Rounded :=
  let u := roundUnbounded p m e
  let tiny := u.q < qmin
  if tiny then
    let r := rneInt m (e - qmin)
    { n := r.1, q := qmin, nx := r.2, tiny := true }
  else u

/-! ## FW40 -/

/-- What an FW40 word stands for (Table 2.2): a NaN (signalling or not), an infinity of a sign, or the
number `(−1)^neg × m × 2^e`. -/
inductive FwVal where
  | nan (signalling : Bool)
  | inf (neg : Bool)
  | num (neg : Bool) (m : Nat) (e : Int)
deriving DecidableEq, Repr

/-- The canonical quiet NaN (R50). -/
def fwNaN : Lane := 0x7FF0000000

/-- Infinity of a sign (Table 2.3). -/
def fwInf (neg : Bool) : Lane := BitVec.ofBool neg ++ (0x3FF : BitVec 10) ++ (0 : BitVec 29)

/-- Zero of a sign (Table 2.3). -/
def fwZero (neg : Bool) : Lane := BitVec.ofBool neg ++ (0 : BitVec 39)

/-- The largest finite value of a sign (Table 2.3). -/
def fwMaxFinite (neg : Bool) : Lane := BitVec.ofBool neg ++ (0x3FE : BitVec 10) ++ (0x1FFFFFFF : BitVec 29)

/-- The sign bit of an FW40 word (Table 2.1). -/
def fwSign (x : Lane) : Bool := x.getLsbD 39
/-- The biased exponent (Table 2.1). -/
def fwExp (x : Lane) : Nat := (x.extractLsb' 29 10).toNat
/-- The fraction (Table 2.1). -/
def fwFrac (x : Lane) : Nat := (x.extractLsb' 0 29).toNat

/-- Read a lane word as FW40 (R48). -/
def fwUnpack (x : Lane) : FwVal :=
  if fwExp x = 1023 then
    if fwFrac x = 0 then .inf (fwSign x) else .nan (!x.getLsbD 28)
  else if fwExp x = 0 then .num (fwSign x) (fwFrac x) (-539)
  else .num (fwSign x) (2 ^ 29 + fwFrac x) ((fwExp x : Int) - 540)

/-- Round `(−1)^neg × m × 2^e` to FW40 (R49); a zero magnitude gives the zero of the sign. -/
def fwRound (neg : Bool) (m : Nat) (e : Int) : Lane × Flags :=
  if m = 0 then (fwZero neg, Flags.none)
  else
    let r := roundMag 30 (-539) m e
    if r.q > 482 then (fwInf neg, { Flags.none with ov := true, nx := true })
    else
      let body : BitVec 39 :=
        if r.n < 2 ^ 29 then BitVec.ofNat 39 r.n
        else BitVec.ofNat 39 ((r.q + 540).toNat * 2 ^ 29 + (r.n - 2 ^ 29))
      (BitVec.ofBool neg ++ body, { Flags.none with uf := r.tiny && r.nx, nx := r.nx })

/-- Round a signed exact value `v × 2^e`; an exact zero takes sign `zneg`. -/
def fwRoundInt (zneg : Bool) (v : Int) (e : Int) : Lane × Flags :=
  if v = 0 then (fwZero zneg, Flags.none) else fwRound (v < 0) v.natAbs e

/-- The signed significand of a number. -/
def signed (neg : Bool) (m : Nat) : Int := if neg then -(m : Int) else m

/-- The invalid flag that a signalling NaN among the operands sets (R50). -/
def FwVal.isSnan : FwVal → Bool
  | .nan s => s
  | _ => false

/-- Is the value a NaN? -/
def FwVal.isNan : FwVal → Bool
  | .nan _ => true
  | _ => false

/-- The canonical NaN, with invalid when `nv`. -/
def nanResult (nv : Bool) : Lane × Flags := (fwNaN, { Flags.none with nv := nv })

/-- The exact sum of two numbers, rounded once (R49). -/
def addNum (n1 : Bool) (m1 : Nat) (e1 : Int) (n2 : Bool) (m2 : Nat) (e2 : Int) : Lane × Flags :=
  let e := min e1 e2
  let v := signed n1 (m1 <<< (e1 - e).toNat) + signed n2 (m2 <<< (e2 - e).toNat)
  fwRoundInt (n1 && n2) v e

/-- FW40 addition of two read values (R49, R50). -/
def fwAddVal (a b : FwVal) : Lane × Flags :=
  match a, b with
  | .nan s, y => nanResult (s || y.isSnan)
  | x, .nan s => nanResult (s || x.isSnan)
  | .inf s, .inf t => if s = t then (fwInf s, Flags.none) else nanResult true
  | .inf s, .num _ _ _ => (fwInf s, Flags.none)
  | .num _ _ _, .inf t => (fwInf t, Flags.none)
  | .num s m e, .num t n f => addNum s m e t n f

/-- Negate a read value; a NaN keeps its kind. -/
def FwVal.neg : FwVal → FwVal
  | .nan s => .nan s
  | .inf s => .inf (!s)
  | .num s m e => .num (!s) m e

/-- FW40 addition (R49, R152). -/
def fwAdd (a b : Lane) : Lane × Flags := fwAddVal (fwUnpack a) (fwUnpack b)
/-- FW40 subtraction (R152). -/
def fwSub (a b : Lane) : Lane × Flags := fwAddVal (fwUnpack a) (fwUnpack b).neg

/-- The exact product of two read values, before rounding: a NaN with its invalid flag, or a value. -/
def mulExact (a b : FwVal) : FwVal × Bool :=
  match a, b with
  | .nan s, y => (.nan false, s || y.isSnan)
  | x, .nan s => (.nan false, s || x.isSnan)
  | .inf s, .inf t => (.inf (s != t), false)
  | .inf s, .num t n _ => if n = 0 then (.nan false, true) else (.inf (s != t), false)
  | .num s m _, .inf t => if m = 0 then (.nan false, true) else (.inf (s != t), false)
  | .num s m e, .num t n f => (.num (s != t) (m * n) (e + f), false)

/-- Round a read value to an FW40 word. -/
def fwRoundVal (v : FwVal) (nv : Bool) : Lane × Flags :=
  match v with
  | .nan _ => nanResult nv
  | .inf s => (fwInf s, Flags.none)
  | .num s m e => fwRound s m e

/-- FW40 multiplication (R49, R152). -/
def fwMul (a b : Lane) : Lane × Flags :=
  let p := mulExact (fwUnpack a) (fwUnpack b)
  fwRoundVal p.1 p.2

/-- `±(a × b) ± c` rounded once (R153): `np` negates the product, `nc` negates the addend. -/
def fwFma (np nc : Bool) (a b c : Lane) : Lane × Flags :=
  let p := mulExact (fwUnpack a) (fwUnpack b)
  let c' := if nc then (fwUnpack c).neg else fwUnpack c
  match p.1 with
  | .nan _ => nanResult (p.2 || c'.isSnan)
  | v => fwAddVal (if np then v.neg else v) c'

/-- `(−1)^neg × m × 2^e` as an exact value scaled by `2^k`, rounded: multiplication by a power of two (R60, R157). -/
def fwScale (x : Lane) (k : Int) : Lane × Flags :=
  match fwUnpack x with
  | .nan s => nanResult s
  | .inf s => (fwInf s, Flags.none)
  | .num s m e => fwRound s m (e + k)

/-- An integer as FW40, rounded once (R53, R160). -/
def fwOfInt (v : Int) : Lane × Flags := fwRoundInt false v 0

/-- Compare two numbers as reals: `(−1)^s × m × 2^e ≤ (−1)^t × n × 2^f`. -/
def leExact (s : Bool) (m : Nat) (e : Int) (t : Bool) (n : Nat) (f : Int) : Bool :=
  let q := min e f
  signed s (m <<< (e - q).toNat) ≤ signed t (n <<< (f - q).toNat)

/-- `x ≤ y` for values that are not NaN, the zeros being equal. -/
def FwVal.le : FwVal → FwVal → Bool
  | .nan _, _ => false
  | _, .nan _ => false
  | .inf true, _ => true
  | .inf false, .inf false => true
  | .inf false, _ => false
  | .num _ _ _, .inf s => !s
  | .num s m e, .num t n f => leExact s m e t n f

/-- The order of R67 for values that are not NaN: as reals, with −0 below +0. -/
def fwTotalLe (a b : Lane) : Bool :=
  let x := fwUnpack a
  let y := fwUnpack b
  if x.le y && y.le x then fwSign a || !fwSign b else x.le y

/-- FW40 minimum and maximum under `.num` or `.nan` (R67, Table 2.11). -/
def fwMinMax (isMax nanMode : Bool) (a b : Lane) : Lane × Flags :=
  let x := fwUnpack a
  let y := fwUnpack b
  if x.isSnan || y.isSnan then nanResult true
  else if x.isNan && y.isNan then nanResult false
  else if x.isNan then (if nanMode then fwNaN else b, Flags.none)
  else if y.isNan then (if nanMode then fwNaN else a, Flags.none)
  else if fwTotalLe a b then (if isMax then b else a, Flags.none)
  else (if isMax then a else b, Flags.none)

/-- Is the word finite and non-zero? (R68) -/
def fwFiniteNonzero (x : Lane) : Bool :=
  match fwUnpack x with
  | .num _ m _ => m ≠ 0
  | _ => false

/-- The operand b that the approximation predictor leaves to the multiplier (R68). -/
def apxB (a b : Lane) : Lane :=
  if fwFiniteNonzero b && fwFiniteNonzero a && !b.getLsbD 7 then (b >>> 8) <<< 8 else b

/-! ## Storage formats -/

/-- The storage formats (Table 0.5, Table 2.5). -/
inductive Fmt where
  | s8 | s16 | s32 | n8 | n16 | n32 | f32 | bf16 | f16 | e4m3 | e5m2 | lg6 | fx128
deriving DecidableEq, Repr

/-- The fabric view of a lane word at the edge (R53). -/
inductive View where
  | w40 | s40
deriving DecidableEq, Repr

/-- The bits that one value takes in storage (Table 0.5). -/
def Fmt.bits : Fmt → Nat
  | .s8 | .n8 | .e4m3 | .e5m2 => 8
  | .s16 | .n16 | .bf16 | .f16 => 16
  | .s32 | .n32 | .f32 => 32
  | .lg6 => 6
  | .fx128 => 128

/-- Is it an integer format? -/
def Fmt.isInt : Fmt → Bool
  | .s8 | .s16 | .s32 | .n8 | .n16 | .n32 => true
  | _ => false

/-- The least and greatest value of an integer format. -/
def Fmt.intRange : Fmt → Int × Int
  | .s8 => (-128, 127)
  | .s16 => (-32768, 32767)
  | .s32 => (-2147483648, 2147483647)
  | .n8 => (0, 255)
  | .n16 => (0, 65535)
  | .n32 => (0, 4294967295)
  | _ => (0, 0)

/-- The exponent bits, fraction bits and bias of a floating format (Table 2.5). -/
def Fmt.fltParams : Fmt → Nat × Nat × Nat
  | .f32 => (8, 23, 127)
  | .bf16 => (8, 7, 127)
  | .f16 => (5, 10, 15)
  | .e4m3 => (4, 3, 7)
  | .e5m2 => (5, 2, 15)
  | _ => (0, 0, 0)

/-- The largest finite code of a floating format, without its sign (Table 2.5). -/
def Fmt.maxFinite : Fmt → Nat
  | .f32 => 0x7F7FFFFF
  | .bf16 => 0x7F7F
  | .f16 => 0x7BFF
  | .e4m3 => 0x7E
  | .e5m2 => 0x7B
  | .lg6 => 0x1F
  | _ => 0

/-- What is stored for an infinity or an overflow in modes 0, 2 and 3, without its sign (Table 2.7). -/
def Fmt.infCode : Fmt → Nat
  | .f32 => 0x7F800000
  | .bf16 => 0x7F80
  | .f16 => 0x7C00
  | .e4m3 => 0x7F
  | .e5m2 => 0x7C
  | .lg6 => 0x1F
  | _ => 0

/-- The LG6 fraction table (Table 2.9). -/
def lg6Frac (f : Nat) : Nat :=
  if f = 0 then 0 else if f = 1 then 0x060DFC14 else if f = 2 then 0x0D413CCD else 0x15D13F33

/-- The FW40 image `(−1)^neg × 2^(s/4)` of a logarithm in quarter steps (R56, R57). -/
def lg6Image (neg : Bool) (s : Int) : Lane :=
  BitVec.ofBool neg ++ BitVec.ofNat 10 (511 + s / 4).toNat ++ BitVec.ofNat 29 (lg6Frac (s % 4).toNat)

/-- The FW40 image of an LG6 code (R56). -/
def lg6ToFw (c : BitVec 6) : Lane × Flags :=
  let e := (c.extractLsb' 0 5).toNat
  if e = 0 then (if c.getLsbD 5 then nanResult true else (fwZero false, Flags.none))
  else (lg6Image (c.getLsbD 5) ((e : Int) - 16), Flags.none)

/-- The product of two LG6 codes (R57). -/
def lg6Mul (a b : BitVec 6) : Lane × Flags :=
  let x := (a.extractLsb' 0 5).toNat
  let y := (b.extractLsb' 0 5).toNat
  if a = 0x20 ∨ b = 0x20 then nanResult true
  else if x = 0 ∨ y = 0 then (fwZero false, Flags.none)
  else (lg6Image (a.getLsbD 5 != b.getLsbD 5) ((x : Int) + y - 32), Flags.none)

/-- `v(e) × 2^33`, an integer: the magnitude of LG6 code e (R58), with v(0) = 0. -/
def lg6Mag (e : Nat) : Nat :=
  if e = 0 then 0 else (2 ^ 29 + lg6Frac (e % 4)) <<< (e / 4)

/-- Does the magnitude `x / (2^33 × 2^sh)` lie past the midpoint of codes e − 1 and e, a tie going to the even code (R58)? -/
def lg6Past (x sh e : Nat) : Bool :=
  let mid := (lg6Mag (e - 1) + lg6Mag e) <<< sh
  mid < 2 * x || (mid == 2 * x && e % 2 == 0)

/-- The nearest LG6 code: the magnitudes rise with the code, so it is the number of midpoints passed (R58). -/
def lg6Nearest (x sh : Nat) : Nat :=
  ((List.range 31).filter fun k => lg6Past x sh (k + 1)).length

/-- Encode a value as LG6 (R58): the code and its flags. -/
def lg6EncodeVal : FwVal → BitVec 6 × Flags
  | .nan _ => (0x20, Flags.invalid)
  | .inf s => (BitVec.ofBool s ++ (0x1F : BitVec 5), { Flags.none with ov := true })
  | .num s m e =>
    let sh := (-(e + 33)).toNat
    let scaled := m <<< (e + 33).toNat
    let c := lg6Nearest scaled sh
    let big := (lg6Mag 31 <<< sh) < scaled
    let exact := lg6Mag c <<< sh = scaled
    (if c = 0 then 0 else BitVec.ofBool s ++ BitVec.ofNat 5 c,
      { Flags.none with ov := big, nx := !exact })

/-- Encode an FW40 value as LG6 (R58). -/
def lg6Encode (x : Lane) : BitVec 6 × Flags := lg6EncodeVal (fwUnpack x)

/-- The number of a floating storage code that is not a NaN or an infinity. -/
def fltUnpack (f : Fmt) (w : Nat) : FwVal :=
  let (eb, fb, bias) := f.fltParams
  let s := (w >>> (eb + fb)) % 2 = 1
  let E := (w >>> fb) % 2 ^ eb
  let F := w % 2 ^ fb
  if f = .e4m3 then
    if E = 15 ∧ F = 7 then .nan false
    else if E = 0 then .num s F (1 - bias - fb) else .num s (2 ^ fb + F) ((E : Int) - bias - fb)
  else if E = 2 ^ eb - 1 then
    if F = 0 then .inf s else .nan (F < 2 ^ (fb - 1))
  else if E = 0 then .num s F (1 - bias - fb) else .num s (2 ^ fb + F) ((E : Int) - bias - fb)

/-- Load a floating storage code into the w40 view (Table 2.6): exact, a NaN carried as R53 says. -/
def fltToFw (f : Fmt) (w : Nat) : Lane :=
  let (eb, fb, _) := f.fltParams
  let s := (w >>> (eb + fb)) % 2 = 1
  match fltUnpack f w with
  | .nan _ =>
    let F := if f = .e4m3 then 0x10000000 else (w % 2 ^ fb) <<< (29 - fb)
    BitVec.ofBool s ++ (0x3FF : BitVec 10) ++ BitVec.ofNat 29 F
  | .inf t => fwInf t
  | .num t m e => (fwRound t m e).1

/-- Sign- or zero-extended value of an integer storage code. -/
def intOfCode (f : Fmt) (w : Nat) : Int :=
  let v := w % 2 ^ f.bits
  if f.intRange.1 < 0 ∧ 2 ^ (f.bits - 1) ≤ v then (v : Int) - 2 ^ f.bits else v

/-- An s40 lane word from an integer in range. -/
def s40OfInt (v : Int) : Lane := BitVec.ofInt 40 v

/-- Convert a value to an s40 by nearest-even, saturating (R53, R393). -/
def valToS40 : FwVal → Lane × Flags
  | .nan _ => (0, Flags.invalid)
  | .inf s => (if s then s40OfInt (-2 ^ 39) else s40OfInt (2 ^ 39 - 1), { Flags.none with sat := true })
  | .num s m e =>
    let r := rneInt m e
    let v := signed s r.1
    if v < -2 ^ 39 then (s40OfInt (-2 ^ 39), { Flags.none with sat := true })
    else if 2 ^ 39 - 1 < v then (s40OfInt (2 ^ 39 - 1), { Flags.none with sat := true })
    else (s40OfInt v, { Flags.none with nx := r.2 })

/-- Load one storage code into a lane word (Table 2.6, R393). FX128 cells are read by `fxRead`. -/
def loadConv (f : Fmt) (v : View) (w : Nat) : Lane × Flags :=
  match f, v with
  | .lg6, _ => lg6ToFw (BitVec.ofNat 6 w)
  | .fx128, _ => (0, Flags.none)
  | f, .w40 =>
    if f.isInt then
      let r := fwOfInt (intOfCode f w)
      (r.1, { Flags.none with nx := r.2.nx })
    else (fltToFw f w, Flags.none)
  | f, .s40 =>
    if f.isInt then (s40OfInt (intOfCode f w), Flags.none)
    else valToS40 (fltUnpack f w)

/-- Store an integer into an integer format under conversion mode `cvm` (Table 2.7). -/
def storeInt (f : Fmt) (cvm : BitVec 2) (v : Int) (nx : Bool) : Nat × Flags :=
  let (lo, hi) := f.intRange
  let code (x : Int) : Nat := (x % 2 ^ f.bits).toNat
  if lo ≤ v ∧ v ≤ hi then (code v, { Flags.none with nx := nx })
  else if cvm = 2 then (code v, { Flags.none with sat := true })
  else (code (if v < lo then lo else hi), { Flags.none with sat := true })

/-- The sign bit of a floating target. -/
def signCode (f : Fmt) (neg : Bool) : Nat := if neg then 2 ^ (f.bits - 1) else 0

/-- What an overflow stores: the largest finite value in mode 1, else an infinity of the sign; e4m3 stores the NaN 0x7F (Table 2.7). -/
def overflowCode (f : Fmt) (cvm : BitVec 2) (neg : Bool) : Nat :=
  if cvm = 1 then signCode f neg + f.maxFinite
  else if f = .e4m3 then 0x7F
  else signCode f neg + f.infCode

/-- Store a finite number to a floating format (R54, R393). -/
def storeFlt (f : Fmt) (cvm : BitVec 2) (neg : Bool) (m : Nat) (e : Int) : Nat × Flags :=
  let (_, fb, bias) := f.fltParams
  if m = 0 then (signCode f neg, Flags.none)
  else
    let r := roundMag (fb + 1) (1 - bias - fb) m e
    let code : Nat :=
      if r.n < 2 ^ fb then r.n else ((r.q + bias + fb).toNat) * 2 ^ fb + (r.n - 2 ^ fb)
    if f.maxFinite < code then
      (overflowCode f cvm neg, { Flags.none with ov := true, nx := true })
    else (signCode f neg + code, { Flags.none with uf := r.tiny && r.nx, nx := r.nx })

/-- Store a NaN lane word to a floating format (R54). -/
def storeNaN (f : Fmt) (x : Lane) : Nat :=
  let (_, fb, _) := f.fltParams
  match f with
  | .e4m3 => 0x7F
  | .e5m2 => 0x7E
  | .lg6 => 0x20
  | f =>
    let t := fwFrac x >>> (29 - fb)
    if t = 0 then f.infCode + 2 ^ (fb - 1) else signCode f (fwSign x) + f.infCode + t

/-- Store an infinity to a floating format (R393). -/
def storeInf (f : Fmt) (cvm : BitVec 2) (neg : Bool) : Nat × Flags :=
  (overflowCode f cvm neg, { Flags.none with ov := cvm = 1 || f = .e4m3 })

/-- Store one lane word to a storage format (Table 2.7, R54, R393). A store to fx128 writes no code here. -/
def storeConv (f : Fmt) (v : View) (cvm : BitVec 2) (x : Lane) : Nat × Flags :=
  match f, v with
  | .fx128, _ => (0, Flags.none)
  | .lg6, .w40 => let r := lg6Encode x; (r.1.toNat, { r.2 with nv := false })
  | .lg6, .s40 =>
    let r := lg6Encode (fwOfInt x.toInt).1
    (r.1.toNat, { r.2 with nx := r.2.nx || (fwOfInt x.toInt).2.nx })
  | f, .s40 =>
    if f.isInt then storeInt f cvm x.toInt false
    else storeFlt f cvm (x.toInt < 0) x.toInt.natAbs 0
  | f, .w40 =>
    match fwUnpack x with
    | .nan _ => if f.isInt then (0, Flags.invalid) else (storeNaN f x, Flags.none)
    | .inf s =>
      if f.isInt then
        storeInt f 0 (if s then f.intRange.1 - 1 else f.intRange.2 + 1) false
      else storeInf f cvm s
    | .num s m e =>
      if f.isInt then
        let r := rneInt m e
        storeInt f cvm (signed s r.1) r.2
      else storeFlt f cvm s m e

/-! ## Burst headers -/

/-- A latched burst header (R59, R60). -/
structure Hdr where
  scale : BitVec 8
  len : BitVec 8
  last : Bool
  clip : Bool
deriving DecidableEq, Repr

/-- The latched header before any header arrives (R60). -/
def Hdr.initial : Hdr := { scale := 127, len := 255, last := false, clip := false }

/-- The header that lane 0 of a burst-header token carries (Table 2.10). -/
def Hdr.ofLane (l0 : Lane) : Hdr :=
  { scale := l0.extractLsb' 0 8, len := l0.extractLsb' 8 8, last := l0.getLsbD 16, clip := l0.getLsbD 17 }

/-- Lane 0 of a burst-header token (Table 2.10). -/
def Hdr.toLane (h : Hdr) : Lane :=
  (0 : BitVec 22) ++ BitVec.ofBool h.clip ++ BitVec.ofBool h.last ++ h.len ++ h.scale

/-- Scale one value by a latched header (R60). -/
def hdrScale (h : Hdr) (x : Lane) : Lane × Flags :=
  if h.scale = 0xFF then nanResult true
  else fwScale x ((h.scale.toNat : Int) - 127)

/-! ## FX128 cells -/

/-- The poisoned cell (R61). -/
def fxPoison : BitVec 128 := 0x80000000000000000000000000000000

/-- The addend that an FW40 value contributes under window exponent W; none poisons the cell (R61). -/
def fxAddend (w : Int) (x : Lane) : Option Int :=
  match fwUnpack x with
  | .nan _ => none
  | .inf _ => none
  | .num s m e =>
    if leExact false 1 w false m e then none
    else
      let a := (rneInt m (e - (w - 104))).1
      if 2 ^ 104 ≤ a then none else some (signed s a)

/-- One FX128 addition (R62): a sum that lands on the poisoned pattern is the poisoned pattern. -/
def fxAdd (w : Int) (cell : BitVec 128) (x : Lane) : BitVec 128 :=
  if cell = fxPoison then fxPoison
  else
    match fxAddend w x with
    | none => fxPoison
    | some a => cell + BitVec.ofInt 128 a

/-- A cell read as FW40 (R63). -/
def fxRead (w : Int) (cell : BitVec 128) : Lane × Flags :=
  if cell = fxPoison then nanResult true
  else fwRoundInt false cell.toInt (w - 104)

/-- A cell read as s40: as FW40, then converted as a floating format is (Table 2.6). -/
def fxReadS40 (w : Int) (cell : BitVec 128) : Lane × Flags :=
  let r := fxRead w cell
  let s := valToS40 (fwUnpack r.1)
  (s.1, r.2.or s.2)

/-- A legal window exponent (R64). -/
def fxWLegal (w : Int) : Bool := -435 ≤ w ∧ w ≤ 512

end Sys2Proof.Machine
end

