-- ==== Sys2Proof/Machine/Operands.lean ====
section
/-! DEFINITION. The operand forms of operator words: the ports an opcode uses, the types and modifiers it
admits, its immediate, the fallbacks of Table 4.16, and the tokens that operators read and make. -/

namespace Sys2Proof

/-! ## Tokens -/

/-- Lane `i` of a token. -/
def Token.lane (t : Token) (i : Nat) : Lane := if h : i < 16 then t.lanes[i] else 0

/-- Is lane `i` of a token valid (R12)? -/
def Token.valid (t : Token) (i : Nat) : Bool := t.mask.getLsbD i

/-- The token with the lane words of `f` in the lanes of `m` and zero in the others (R13). -/
def Token.make (f : Nat → Lane) (m : BitVec 16) (c : TokClass) : Token :=
  { lanes := Vector.ofFn (fun i => if m.getLsbD i.val then f i.val else 0), mask := m, cls := c }

/-- A control token whose lanes of `m` hold 1 (R175, R178, R181). -/
def Token.control (m : BitVec 16) : Token := Token.make (fun _ => 1) m .control

/-- The poison token of a cause code (Table 1.1). -/
def Token.poison (cause : BitVec 16) : Token :=
  { lanes := Vector.ofFn (fun i => if i.val = 0 then cause.setWidth 40 else 0), mask := 0xFFFF, cls := .poison }

/-- The burst-header token of a header and its count of pads (Table 2.10). -/
def Token.ofHdr (h : Machine.Hdr) (clipn : BitVec 24) : Token :=
  { lanes := Vector.ofFn (fun i => if i.val = 0 then h.toLane else if i.val = 1 then clipn.setWidth 40 else 0),
    mask := 0x0003, cls := .header }

/-- The lane set T of a control token: the valid lanes whose control bit is 1 (R26). -/
def Token.tset (k : Token) : BitVec 16 :=
  BitVec.ofFnLE (fun i : Fin 16 => k.mask.getLsbD i.val && (k.lanes[i.val]).getLsbD 0)

/-- The mask whose bit `i` is `f i`. -/
def maskOf (f : Nat → Bool) : BitVec 16 := BitVec.ofFnLE (fun i : Fin 16 => f i.val)

/-- The lane numbers set in a mask, ascending. -/
def lanesOf (m : BitVec 16) : List Nat := (List.range 16).filter fun i => m.getLsbD i

/-- The OR of the flags of the lanes of a mask (R51). -/
def flagsOf (f : Nat → Machine.Flags) (m : BitVec 16) : Machine.Flags :=
  (lanesOf m).foldl (fun a i => a.or (f i)) Machine.Flags.none

namespace Machine

/-! ## Ports and types -/

/-- The number of input ports an opcode uses, in the order a, b, c, or in the router order of R107
(Tables 6.2–6.12, 7.3, 7.8, 1.3). `join` uses as many as MOD[1:0] says (R170). -/
def portCount (w : OpWord) : Nat :=
  match w.opc with
  | .neg | .abs | .not | .clz | .popc | .brev | .bswap | .mov | .fabs | .fneg | .frcpi | .frsqi | .fexpr
  | .flogr | .fsinr | .fclass | .fround | .fmant | .fexpo | .lgenc | .bsapply | .bsstrip | .cvtfi | .cvtif
  | .cvtfr | .cvtsat | .lfld | .permi | .lsum | .sink | .ctok | .iota | .vld | .memnop | .ldfe | .vldx
  | .fence | .csumRow | .tbread => 1
  | .bins | .sel | .fma | .fms | .fnma | .fnms | .lgsum | .vote3 | .amoCas | .emit | .mergeOrd | .carry => 3
  | .join => if w.mod.extractLsb' 0 2 = 0 then 1 else if w.mod.extractLsb' 0 2 = 1 then 2 else 3
  | _ => 2

/-- Does the reference of the opcode name a port b that may be the immediate (R106, R144, R169)? A `join` whose modifier uses no port b does not
(DESIGN CHOICE, log entry 117). -/
def admitsImm (w : OpWord) : Bool := w.opc.form == .c && 2 ≤ portCount w

/-- The ports that come from arcs: every used port but an immediate b. -/
def arcPorts (w : OpWord) : List Nat :=
  (List.range (portCount w)).filter fun p => !(p == 1 && w.imm.isSome)

/-- Is it a router opcode (Table 1.3)? -/
def isRouter (o : Opc) : Bool := o.form == .r

/-- Is it a memory operator, form M (R171)? -/
def isMemOp (o : Opc) : Bool := o.form == .m

/-- Is it a lane-file operator (R161)? -/
def isLaneFile : Opc → Bool
  | .lfld | .lfst | .lfldi | .lfsti => true
  | _ => false

/-- An FW40-group opcode, 0x30–0x4A (R108). -/
def isFw40Group (o : Opc) : Bool := 0x30 ≤ o.code ∧ o.code ≤ 0x4A

/-- The storage format of a type code; none for w40, s40 and the code never assigned (Table 4.1). -/
def fmtOfType (ty : BitVec 4) : Option Fmt :=
  match ty.toNat with
  | 2 => some .f32
  | 3 => some .bf16
  | 4 => some .f16
  | 5 => some .e4m3
  | 6 => some .e5m2
  | 7 => some .lg6
  | 8 => some .s8
  | 9 => some .s16
  | 10 => some .s32
  | 11 => some .n8
  | 12 => some .n16
  | 13 => some .n32
  | 14 => some .fx128
  | _ => none

/-- The type codes an operator admits (R147–R165, R166, R169, R172, R183, R185). -/
def admitsType (o : Opc) (ty : BitVec 4) : Bool :=
  match o with
  | .sel | .mov | .lfld | .lfst | .lfldi | .lfsti | .perm | .permi | .bcast | .lsum | .join | .gate | .sink
  | .ctok | .const | .iota | .tbread | .chkr | .vote3 | .csumRow | .csumCol | .csumChk => ty == 0 || ty == 1
  | .bshdr | .cvtfi => ty == 1
  | .cvtfr => 2 ≤ ty ∧ ty ≤ 7
  | .cvtsat => 8 ≤ ty ∧ ty ≤ 13
  | .vld | .vldx | .ldfe => ty != 7 && ty != 15
  | .vst | .vstx => ty != 7 && ty != 14 && ty != 15
  | .monwait => ty == 13 || ty == 1
  | .amoAdd | .amoAnd | .amoOr | .amoXor | .amoMin | .amoMax | .amoMinu | .amoMaxu | .amoSwap | .amoCas =>
    ty == 10 || ty == 13 || ty == 1
  | .emit => ty == 10 || ty == 13
  | o => if o.code ≤ 0x25 then ty == 1 else ty == 0

/-- The immediate as a lane word (R106, R144). -/
def immLane (w : OpWord) (i : BitVec 27) : Lane :=
  match w.opc with
  | .fscale | .bsfind | .bshdr | .lfldi | .lfsti | .bcast => i.signExtend 40
  | _ => if w.ty = 0 then i ++ (0 : BitVec 13) else i.signExtend 40

/-- The token that an immediate port b holds at each firing (R106). -/
def immToken (w : OpWord) (i : BitVec 27) : Token := Token.make (fun _ => immLane w i) 0xFFFF .data

/-! ## Modifiers and fallbacks -/

/-- The ordering qualifiers (R80, R108). -/
inductive Ord where
  | rlx | acq | rel | ar
deriving DecidableEq, Repr

/-- The scopes (R75, Table 3.3). -/
inductive Scope where
  | el | tile | die | dev | sys
deriving DecidableEq, Repr

/-- The scope of a scope code; 5–7 act as `.sys` (Table 4.16). -/
def Scope.ofCode (c : BitVec 3) : Scope :=
  match c.toNat with
  | 0 => .el
  | 1 => .tile
  | 2 => .die
  | 3 => .dev
  | _ => .sys

/-- A register or operator group's ordering behaviour: which qualifiers it admits (Table 7.5). -/
inductive OrdKind where
  | load | store | atomic | unordered | fence
deriving DecidableEq, Repr

/-- How a memory operator treats its ordering qualifier (Table 7.5). -/
def ordKind : Opc → OrdKind
  | .vld | .vldx | .ldfe | .monwait => .load
  | .vst | .vstx | .redFx | .amoFadd | .emit => .store
  | .fence => .fence
  | .memnop | .apst => .unordered
  | _ => .atomic

/-- The qualifier that an ORD code acts as, and whether that is a fallback (Table 4.16). -/
def ordEffect (k : OrdKind) (c : BitVec 2) : Ord × Bool :=
  match k, c.toNat with
  | _, 0 => (.rlx, false)
  | .load, 1 => (.acq, false)
  | .load, _ => (.acq, true)
  | .store, 2 => (.rel, false)
  | .store, _ => (.rel, true)
  | .atomic, 1 => (.acq, false)
  | .atomic, 2 => (.rel, false)
  | .atomic, _ => (.ar, false)
  | .unordered, _ => (.rlx, true)
  | .fence, _ => (.rlx, true)

/-- The classes of a fallback, as bits [6:0] of `warn` (Table 4.17). -/
structure WarnBits where
  ord : Bool := false
  scope : Bool := false
  cvm : Bool := false
  apx : Bool := false
  nan : Bool := false
  modb : Bool := false
  flag : Bool := false
deriving DecidableEq, Repr

/-- The bits as `warn` holds them (Table 4.17). -/
def WarnBits.toBits (b : WarnBits) : BitVec 7 :=
  BitVec.ofBool b.flag ++ BitVec.ofBool b.modb ++ BitVec.ofBool b.nan ++ BitVec.ofBool b.apx ++
    BitVec.ofBool b.cvm ++ BitVec.ofBool b.scope ++ BitVec.ofBool b.ord

/-- The modifier bits that an operator of form C or R defines (R146, Table 6.1, R166, R169, R170, R185). -/
def definedMod : Opc → BitVec 8
  | .adds | .subs | .min | .max | .cvtfi | .cvtif | .bext | .mov | .fcpsgn | .lgenc | .bsapply | .cvtfr
  | .cvtsat | .lfld | .lfst | .lfldi | .lfsti | .lsum | .csumChk => 0x01
  | .permi => 0x1F
  | .fmul | .fma | .fms | .fnma | .fnms => 0x80
  | .fmin | .fmax => 0x60
  | .join => 0x03
  | _ => 0

/-- The MOD[2:0] bits that a memory operator defines (Table 7.5). -/
def definedMem : Opc → BitVec 3
  | .vld | .vldx | .ldfe => 1
  | .vst | .vstx | .monwait => 7
  | _ => 0

/-- The modifier byte of a form C or R word after its fallbacks, and the classes it sets (R108, Table 4.16). -/
def fallbackC (w : OpWord) : BitVec 8 × WarnBits :=
  let d := definedMod w.opc
  let extra := w.mod &&& ~~~d
  let apx := isFw40Group w.opc && extra.getLsbD 7
  let other := if isFw40Group w.opc then extra &&& 0x7F else extra
  let kept := w.mod &&& d
  match w.opc with
  | .fmin | .fmax =>
    if kept = 0x60 then (0x20, { apx := apx, nan := true, modb := other != 0 })
    else (kept, { apx := apx, modb := other != 0 })
  | .join => if kept = 3 then (2, { modb := true }) else (kept, { modb := other != 0 })
  | _ => (kept, { apx := apx, modb := other != 0 })

/-- The modifier byte of a form M word after its fallbacks, and the classes it sets (R108, R172, Table 4.16). The fallback of SCOPE looks at ORD after
its own: an operator without an order whose ORD and SCOPE are not zero takes both (DESIGN CHOICE, log entry 118). -/
def fallbackM (w : OpWord) : BitVec 8 × WarnBits :=
  let k := ordKind w.opc
  let o := ordEffect k (w.mod.extractLsb' 6 2)
  let sc := w.mod.extractLsb' 3 3
  let lo := w.mod.extractLsb' 0 3
  let d := definedMem w.opc
  let lo1 := lo &&& d
  let cond67 := w.opc == .monwait && 6 ≤ lo1
  let cvm3 := (w.opc == .vst || w.opc == .vstx) && lo1.extractLsb' 0 2 == 3
  let lo2 := if cond67 then lo1 &&& 5 else if cvm3 then lo1 &&& 4 else lo1
  let relaxedScope := k != .fence && o.1 == .rlx && sc != 0
  let sc2 : BitVec 3 := if relaxedScope then 0 else if 5 ≤ sc then 4 else sc
  let oc : BitVec 2 := match o.1 with | .rlx => 0 | .acq => 1 | .rel => 2 | .ar => 3
  (oc ++ sc2 ++ lo2,
    { ord := o.2, scope := relaxedScope || 5 ≤ sc, cvm := cvm3, modb := lo &&& ~~~d != 0 || cond67 })

/-- The word that the loader places, its fallbacks applied, and the `warn` classes they set (R124). -/
def applyFallbacks (w : OpWord) : OpWord × WarnBits :=
  let r := if isMemOp w.opc then fallbackM w else fallbackC w
  ({ w with mod := r.1 }, r.2)

/-- The ordering qualifier of a placed form M word. -/
def memOrd (w : OpWord) : Ord := (ordEffect (ordKind w.opc) (w.mod.extractLsb' 6 2)).1
/-- The scope of a placed form M word. -/
def memScope (w : OpWord) : Scope := Scope.ofCode (w.mod.extractLsb' 3 3)

/-- The size of one element in memory (Table 7.4). -/
def elemSize (ty : BitVec 4) : Nat :=
  match ty.toNat with
  | 0 | 1 => 8
  | 2 | 10 | 13 => 4
  | 3 | 4 | 9 | 12 => 2
  | 5 | 6 | 8 | 11 => 1
  | 14 => 16
  | _ => 1

end Machine
end Sys2Proof
end

