-- ==== Sys2Proof/Machine/FabricState.lean ====
section
/-! DEFINITION. What the fabric holds: loaded images with their operators, routers, arcs and tokens
(01_execution_model.md, R103–R112), the memory operations and deferred stores of block instances (R31, R76, R173),
and the registers of a tile-plane (R51, R125, R184). -/

namespace Sys2Proof.Machine

/-- One end of an arc: an operator or router of a block with its target index or input port, or a stream port. Slot 32·k + i is copy k of the
triplicated operator in slot i (R362). -/
inductive ArcEnd where
  | op (blk slot idx : Nat)
  | rtr (blk r idx : Nat)
  | port (n : Nat)
deriving DecidableEq, Repr

/-- Where a token stands in its thread: the instance of the block that it is in, the earlier block instances that its thread has come through and
that issue memory operations, as (block, instance) (R31, R78), and the thread's last position at each block, or at each stream port (4,096 + port),
that it has come through (R15). -/
structure Tag where
  n : Option Nat
  pre : List (Nat × Nat)
  via : List (Nat × Nat)
deriving DecidableEq, Repr

/-- The tag of a token that has come from outside the image. -/
def Tag.none : Tag := { n := Option.none, pre := [], via := [] }

/-- What stands on an arc: a token, or the place that a memory operation under way has reserved for its result
(R17, R20). -/
inductive QEntry where
  | tok (t : Token) (tag : Tag)
  | pending (op : Nat) (tag : Tag)
deriving DecidableEq, Repr

/-- The tag of an entry. -/
def QEntry.tag : QEntry → Tag
  | .tok _ g => g
  | .pending _ g => g

/-- An arc: its ends, capacity and depth (R19, R20), whether it enters a block from outside (R31), whether it leaves a
block that holds memory operators, the numbers of other tokens and of burst headers that have entered it, and what it holds, oldest first. -/
structure Arc where
  src : ArcEnd
  dst : ArcEnd
  cap : Nat
  depth : Nat
  entry : Bool
  leavesMem : Bool
  count : Nat
  hcount : Nat
  q : List QEntry
deriving DecidableEq, Repr

/-- One copy of an operator on an element: the tile and element that hold it (elements 64–67 are the spares,
R9), and the operator's state there: the latch of `bsapply` (R60) and the accumulator and count of `csum.col` (R185). -/
structure OpCopy where
  tile : Nat
  elem : Nat
  hdr : Hdr
  acc : Vector Lane 16
  cnt : Nat
deriving DecidableEq, Repr

/-- An `emit` entry that is not yet acknowledged (R186): the tokens taken, their instance and the reserved result. -/
structure EmitPend where
  op : Nat
  tag : Tag
  a : Token
  b : Token
  seeds : Vector Word 16
deriving DecidableEq, Repr

/-- An operator slot of a loaded image (R17, R105, R110, R112): the word with its fallbacks applied, its marks,
its lane-file window, its copies in dealing order (R34), the tokens dealt so far, and the copies whose elements a trap has stopped (R44). -/
structure OpSlot where
  word : OpWord
  exact : Bool
  comm : Bool
  trip : Bool
  voter : Bool
  lfw : Option (Nat × Nat)
  copies : List OpCopy
  dealt : Nat
  stopped : List Nat
  pend : List EmitPend
deriving DecidableEq, Repr

/-- A router slot of a loaded image: its word, its own element (R25), the state of a `carry` (R167), whether
the last firing of a `merge.arr` took x (R28), and how many tokens it has passed on, where that numbers the block's threads (R31). -/
structure RtrSlot where
  word : OpWord
  tile : Nat
  elem : Nat
  loop : Bool
  tookX : Bool
  count : Nat
deriving DecidableEq, Repr

/-- A block of a loaded image (R104). -/
structure Block where
  tile : Nat
  bsel : Bool
  ops : List OpSlot
  rtrs : List RtrSlot
deriving DecidableEq, Repr

/-- A stream-port binding (R111), and the burst header latched at the port, for the consumers that are header-aware (R60). -/
structure PortBind where
  kind : Nat
  eng : Nat
  chan : Nat
  hdr : Hdr
  /-- A header has arrived at the port (R60). -/
  headed : Bool
deriving DecidableEq, Repr

/-- A loaded image: the unit it belongs to (R246), the tile-plane it was loaded onto, and its contents. -/
structure Image where
  unit : UnitId
  job : Nat
  die : Nat
  tile : Nat
  plane : Nat
  graphid : Word
  blocks : List Block
  arcs : List Arc
  ports : List PortBind
  /-- The image as loaded, and its address (R317, R329). -/
  src : List Byte
  va : Nat
deriving DecidableEq, Repr

/-- What an access asks of a page (R339). -/
inductive Access where
  | read | write | atomic | fetch
deriving DecidableEq, Repr

/-- Where a memory access goes after translation (R70, R338): device memory, a replicated page of a set of dies,
a system target, the BTE aperture of a die, or the queue pages of a group of a die. -/
inductive Phys where
  | dpa (a : Nat)
  | rep (a : Nat) (set : BitVec 4)
  | sys (a : Nat)
  | aperture (die off : Nat)
  | queue (die group off : Nat)
deriving DecidableEq, Repr

/-- A location that an agent waits on (R180, R250): where it lies, as seen from a die, its width in bytes, the condition
(0 eq, 1 ne, 2 lt, 3 ge, 4 ltu, 5 geu) and comparand, how many low bits are compared, and the first value that
satisfied it since the wait began: no write passes unexamined. -/
structure Watch where
  p : Phys
  die : Nat
  n : Nat
  cond : BitVec 3
  bits : Nat
  val : Word
  hit : Option Word
deriving DecidableEq, Repr

/-- An active destination window (R89, R92): the copy's operation and the tile, the places of its bytes as (offset from the tile's destination
base, place, length) for every destination, and how many bytes from the base the watermark has passed. -/
structure Win where
  op : Nat
  tile : Nat
  pieces : List (Nat × Phys × Nat)
  wm : Nat
deriving DecidableEq, Repr

/-- An FX128 region of a job (R198): its virtual base, the device addresses of its pieces as (start, bytes), and W. -/
structure FxRegion where
  job : Nat
  asid : BitVec 12
  vbase : Nat
  pieces : List (Nat × Nat)
  w : Int
deriving DecidableEq, Repr

/-- A deferred effect of a block instance (R173): bytes to store at an address and where it led, with `.fill` (R175), or a copy to start, and the
address of the aperture store that starts it (R178). -/
inductive Deferred where
  | store (va : Nat) (p : Phys) (bytes : List Byte) (fill : Bool)
  | copy (va die ch tmpl : Nat) (ds dd : Int)
deriving DecidableEq, Repr

/-- A memory operation that has fired and has not ended (R76, R173): its number, the operator and copy, and the tokens
it took. `started` is the `tb` at which a `monwait` first read; `fault` the
translation fault that withholds it: cause, address and the `tb` of the last walk (R332). `winWait` holds the bytes under
an active window that it waits on, and `poisoned` marks one whose copy was cancelled while it waited (R89, R91). `issued` marks one that waits
although its chain has moved on past it (R76), with how many deferred effects its instance held at its issue, and `queued` one that waits on an
empty granule: its place in the bank's order, and the granule (R93). -/
structure MemFire where
  op : Nat
  slot : Nat
  copy : Nat
  a : Token
  b : Token
  c : Token
  /-- g0 to g15 as the firing read them (R171, R244). -/
  seeds : Vector Word 16
  started : Option Word
  fault : Option (BitVec 16 × Word × Word)
  winWait : List (Phys × Nat)
  poisoned : Bool
  issued : Option Nat
  queued : Option (Nat × Nat)
  /-- The journal entry of an `emit`: its stream, 16 × die + number, and its number (R186). -/
  entry : Option (Nat × Nat)
  /-- A save has withdrawn it, and it has not yet been issued again (R100). -/
  again : Bool
deriving DecidableEq, Repr

/-- A block instance with memory operations (R31, R76): its unit, image, block and tag, the own number and successor of the
last operation issued, the operations that wait, and the deferred effects in wave order. `ended` marks one that a save or a cancel has found ended
and that commits although its image has gone (R32); `fenced` one in which a save found deferred stores (R100). `fault` is the translation fault of a copy's window that withholds the commit: cause, address and
the `tb` of the last walk (R208, R332). -/
structure Inst where
  unit : UnitId
  ended : Bool
  fenced : Bool
  img : Nat
  blk : Nat
  tag : Nat
  lastW : Nat
  lastS : Nat
  /-- The thread's earlier block instances (R78, R81), and its positions before this block. -/
  pre : List (Nat × Nat)
  via : List (Nat × Nat)
  waiting : List MemFire
  deferred : List Deferred
  fault : Option (BitVec 16 × Word × Word)
  /-- A deferred store is a release (R80). -/
  rel : Bool
  /-- The journal entries whose symbol stores are deferred (R388). -/
  entries : List (Nat × Nat)
deriving DecidableEq, Repr

/-- The registers of one tile-plane: `numst` (Table 2.4), `warn` (Table 4.17) and `vrec` (Table 7.7). -/
structure TpRegs where
  numst : BitVec 5
  warn : BitVec 7
  firstOp : BitVec 8
  firstLy : BitVec 2
  vcnt : BitVec 16
  vlanes : BitVec 16
  vslot : BitVec 5
  vbsel : Bool
  vcopy : BitVec 2
  vv : Bool
deriving DecidableEq, Repr

/-- The tile-plane registers after reset: every field 0 (Tables 2.4, 4.17, 7.7). -/
def TpRegs.initial : TpRegs :=
  { numst := 0, warn := 0, firstOp := 0, firstLy := 0, vcnt := 0, vlanes := 0, vslot := 0, vbsel := false,
    vcopy := 0, vv := false }

end Sys2Proof.Machine
end

