-- ==== Sys2Proof/Machine/EngineState.lean ====
section
/-! DEFINITION. What the engines of a die hold (08_stream_and_engine_commands.md, 17_links_and_backstay_journal.md): issued
operations, sheave streams, copy templates and channels, command chains and task queues, matrix engines and their
accumulators, journal streams, and the backstay's partitions. -/

namespace Sys2Proof.Machine

/-! ## Sheaves (R199–R203) -/

/-- A dimension of an address-pattern record (Table 8.7): COUNT, VALID and STRIDE. -/
structure AprDim where
  count : Nat
  valid : Nat
  stride : Int
deriving DecidableEq, Repr

/-- An address-pattern record (Table 8.7) and how far it has run: positions enumerated, pad positions and header
tokens met, the conversion flags so far, and the tokens of lg6 groups left to write. -/
structure AprRec where
  op : Nat
  unit : UnitId
  /-- The commands of it, as operations, that wait under SER: it starts after them (R116, R199). -/
  after : List Nat
  store : Bool
  fmt : BitVec 4
  vs40 : Bool
  cvm : BitVec 2
  hdr : Bool
  blen : Nat
  base : Nat
  dims : List AprDim
  pad : Lane
  recVa : Nat
  scales : Nat
  scv : Bool
  pos : Nat
  padn : Nat
  hdrs : Nat
  /-- The header of the block at `pos` has been emitted (R201). -/
  hdrSent : Bool
  conv : Flags
  /-- STATUS of a record that has ended and whose completion record is not yet written (R191). -/
  fin : Option Nat
  /-- A load that waited on a cancelled copy still owes its port the poison token (R91). -/
  owed : Bool
deriving DecidableEq, Repr

/-- A sheave stream (R199, R203): the unit that it last ran for, the open record, the running record, those queued behind it,
and the number of records ended since the unit was bound. -/
structure Stream where
  unit : UnitId
  opened : Option AprRec
  running : Option AprRec
  queued : List AprRec
  num : Nat
deriving DecidableEq, Repr

/-- A stream after reset. -/
def Stream.initial : Stream := { unit := 0, opened := none, running := none, queued := [], num := 0 }

/-! ## Block-transfer engine (R205–R213) -/

/-- The definition of a copy template (R205, Table 8.9). Dimension 0 counts bytes. -/
structure TmplDef where
  src : Nat
  dst : Nat
  counts : List Nat
  valids : List Nat
  sstr : List Int
  dstr : List Int
  extra : List (Option Nat)
  stamp : Option Nat
  perm : Bool
  npre : Nat
  ntile : Nat
  ststr : Int
  dtstr : Int
deriving DecidableEq, Repr

/-- A copy template (R205): the ASID that it is granted to, and its definition. -/
structure Tmpl where
  holder : Option (BitVec 12)
  def_ : Option TmplDef
deriving DecidableEq, Repr

/-- A template after reset. -/
def Tmpl.initial : Tmpl := { holder := none, def_ := none }

/-- A copy on a channel (R208): its operation, snapshot of the template, displacements, number of the first tile, the tile
that lands or will land next, the pattern bytes of it that have been passed, those landed, the permits it has used,
whether the landing tile has its permit, and what stood where it has landed (R209). -/
structure Copy where
  op : Nat
  asid : BitVec 12
  job : Nat
  def_ : TmplDef
  sdisp : Int
  ddisp : Int
  first : Nat
  tile : Nat
  at_ : Nat
  landed : Nat
  permits : Nat
  granted : Bool
  saved : KMap Byte
  /-- Tiles up to a number end with a STATUS in place of landing: the first entry that covers a tile gives it (R212, R213). -/
  cut : List (Nat × Nat)
deriving DecidableEq, Repr

/-- A BTE channel (R208, R210): the ASID that holds it, `bwm`, the fields of `bst` that are stored, `bcsa`, the tile counter, and
its queue of copies. -/
structure Chan where
  holder : Option (BitVec 12)
  bwm : BitVec 57
  pcnt : BitVec 16
  lstat : BitVec 4
  seq : BitVec 40
  bcsa : BitVec 57
  ctr : BitVec 40
  copies : List Copy
deriving DecidableEq, Repr

/-- A channel after reset (Tables 8.11, 8.12). -/
def Chan.initial : Chan :=
  { holder := none, bwm := 0, pcnt := 0, lstat := 0, seq := 0, bcsa := 0, ctr := 0, copies := [] }

/-! ## Gather-reduce engine (R214–R216) -/

/-- The index state of a unit or chain (R214): the list, and the bags. -/
structure IdxState where
  list : Option (Nat × BitVec 4 × Nat × Nat)
  bags : Option (Nat × Nat)
deriving DecidableEq, Repr

/-- An index state in which nothing is set. -/
def IdxState.initial : IdxState := { list := none, bags := none }

/-- A `gath.row` or `gath.red` (R215): whether the checks and the emptying that come before the first row are done, the rows
done, and the verdict of the checks where they ended it. -/
structure GathOp where
  red : Bool
  tab : Nat
  dst : Nat
  rown : Nat
  fmt : BitVec 4
  pol : Nat
  fe : Bool
  idx : Nat
  ifmt : BitVec 4
  nidx : Nat
  limit : Nat
  bags : Option (Nat × Nat)
  ready : Bool
  done : List Nat
deriving DecidableEq, Repr

/-! ## Quantisation engine and near-memory units (R217, R226) -/

/-- A `qnt.blk` or `qnt.dq` (R217) and the number of blocks done. -/
structure QntOp where
  dq : Bool
  a : Nat
  q : Nat
  wfmt : BitVec 4
  qfmt : BitVec 4
  blen : Nat
  cvm : BitVec 2
  nblk : Nat
  next : Nat
deriving DecidableEq, Repr

/-- The near-memory commands of Table 8.16. -/
inductive NmcKind where
  | sgd | decay | red
deriving DecidableEq, Repr

/-- A near-memory command (R226) and the elements that it has updated. -/
structure NmcOp where
  kind : NmcKind
  x : Nat
  y : Nat
  sa : Lane
  sb : Lane
  n : Nat
  yfmt : BitVec 4
  done : List Nat
deriving DecidableEq, Repr

/-! ## Matrix engines (R219–R225, R324) -/

/-- A stationary or shadow plane (R220): the format, rows and columns, the elements row by row, and the column scales. -/
structure MxPlane where
  fmt : BitVec 4
  k : Nat
  n : Nat
  elems : List Nat
  scales : List Nat
deriving DecidableEq, Repr

/-- The plane of an MXE that has held no `ldstat` tile (R222). -/
def MxPlane.empty : MxPlane := { fmt := 0, k := 0, n := 0, elems := [], scales := [] }

/-- How an accumulator is kept (R326): FW40, FX128, or 40-bit integers. -/
inductive MxMode where
  | fw40 | fx128 | int40
deriving DecidableEq, Repr

/-- A live accumulator (R223–R225, R324): its owner, mode and window exponent, the last task that accumulated, by its number and as an operation, its cells
row by row, and the row and column checks. -/
structure MxAcc where
  asid : BitVec 12
  job : Nat
  queue : Nat
  mode : MxMode
  wexp : Int
  last : Nat
  lastOp : Nat
  m : Nat
  n : Nat
  cells : List (BitVec 128)
  rowChk : List (BitVec 128)
  colChk : List (BitVec 128)
deriving DecidableEq, Repr

/-- An MXE (R220–R223): its planes, the operations whose load waits for it in order, the last load that has completed, the swaps that it
waits for, its live accumulator, and the task that runs on it. -/
structure Mxe where
  stat : MxPlane
  shadow : MxPlane
  loads : List Nat
  swaps : List Nat
  acc : Option MxAcc
  task : Option Nat
deriving DecidableEq, Repr

/-- An MXE after reset. -/
def Mxe.initial : Mxe := { stat := .empty, shadow := .empty, loads := [], swaps := [], acc := none, task := none }

/-- An `ldstat` (R220) and the MXEs that it has not yet completed on. -/
structure LdstatOp where
  waddr : Nat
  wfmt : BitVec 4
  k : Nat
  n : Nat
  wstr : Nat
  scl : Bool
  left : List Nat
deriving DecidableEq, Repr

/-- A swap (R221) and the MXEs that have not yet exchanged. -/
structure SwapOp where
  queue : Nat
  bseq : Nat
  left : List Nat
  /-- The queue was unbound with every task up to BSEQ published (R196, R221). -/
  met : Bool
deriving DecidableEq, Repr

/-- A dependence of a task (Table 8.15): a queue of the die and a task number. -/
structure MxDep where
  queue : Nat
  num : Nat
deriving DecidableEq, Repr

/-- A matrix task (Tables 8.14, 8.15). `num` is 0 outside the queue's numbering; `prev` is the queue's previous task, as an operation, or 0 (log entry 147). `mxe` is where it
runs; `rec_` is the record whose extension has not been read yet, and `bases` the base words of its addresses (R188, R222); `rows` holds the rows that have come from the operand stream with their scales, `cur` the tokens of the row that is arriving,
and `results` the tokens that the result stream has not yet taken. `start` is the accumulator as the task found it (R359). -/
structure TaskOp where
  queue : Nat
  num : Nat
  prev : Nat
  exact : Bool
  afmt : BitVec 4
  cont : Bool
  rel : Bool
  csum : Bool
  wexp : Int
  ofmt : BitVec 4
  cvm : BitVec 2
  act : Option Nat
  astr : Nat
  m : Nat
  k : Nat
  n : Nat
  ablk : Nat
  out : Option Nat
  ostr : Nat
  ascl : Option Nat
  deps : List MxDep
  rec_ : Option Nat
  bases : List Word
  mxe : Option Nat
  rows : List (List Lane × List Hdr)
  cur : List Token
  results : Option (List Token)
  cor : Bool
  start : Option MxAcc
deriving DecidableEq, Repr

/-! ## Operations (R85, R190–R192) -/

/-! ## Chains and task queues (R193–R196) -/

/-- A bound chain or queue (R193, R195): its owner and the unit that bound it, the descriptor, the number of the last entry read, the published number, the tail
as last read and when, the finished entries above the published number, the operations of entries under way, whether an illegal entry
stopped it (R118), the last task of a task queue's ring and the last of all, as operations or 0 (R222), the operation that unbinds it, the fault that withholds its reading, and its index state (R214). -/
structure Bound where
  asid : BitVec 12
  job : Nat
  unit : Option UnitId
  launch : Option Nat
  ring : Nat
  nent : Nat
  vec : Option Nat
  taila : Nat
  seqa : Nat
  basea : Nat
  ntfa : Nat
  pollt : Nat
  stata : Nat
  mask : BitVec 16
  head : Nat
  pub : Nat
  tail : Nat
  polled : Word
  finished : List Nat
  /-- Of those, the tasks whose results went to the queue's stream (R204). -/
  streamed : List Nat
  stopped : Bool
  lastRing : Nat
  lastTask : Nat
  unbinding : Option Nat
  fault : Option (BitVec 16 × Word × Word × Access)
  /-- A doorbell or poll has asked for the tail word, and it has not yet been read again (R195). -/
  tailDue : Bool
  /-- The bytes under active windows that a read of the chain waits on, and whether a copy that it waited on was cancelled (R89, R91). -/
  waitsOn : List (Phys × Nat)
  poisoned : Bool
  idx : IdxState
deriving DecidableEq, Repr

/-- A chain or task queue (Table 13.9): the ASID that it is granted to, the MXEs granted with a queue, and its binding. -/
structure Chain where
  holder : Option (BitVec 12)
  mxes : BitVec 16
  bound : Option Bound
deriving DecidableEq, Repr

/-- A chain after reset. -/
def Chain.initial : Chain := { holder := none, mxes := 0, bound := none }

/-! ## Operations (R85, R190–R192) -/

/-- What a command under SER still does, its checks and the accesses of its issue having been made (R116, R394): the change of an open record (which stands in
it, and which that record waits for), a region and the places to be zeroed, a binding, or the units of a dead-region command. -/
inductive Settled where
  | apr
  | region (r : FxRegion) (ps : List (Phys × Nat)) (zero : Bool)
  | bind (k : ChainId) (b : Bound)
  | dead (set : Bool) (ps : List (Nat × Phys × Nat))
deriving DecidableEq, Repr

/-- What an operation is. -/
inductive OpBody where
  /-- A command whose effect waits for earlier ones under SER (R116), with its base words (R188). -/
  | later (c : Cmd128) (bases : List Word)
  /-- One whose issue has made accesses, or changed an open record (R394, R199). -/
  | settled (e : Settled)
  /-- `sync` (R197): place and value. -/
  | sync (va : Nat) (val : Word)
  /-- A completion object that is not yet written (R191): the stamp of a refused copy (R208), or the record of a stream that ended while its unit was
  saved (R230); its place and bytes, and the number of its channel, or of its sheave and stream, that a record names (Table 14.6). -/
  | object (va : Nat) (bytes : List Byte) (num : Nat)
  /-- The run of an address-pattern record on a stream of the die (R199): sheave and stream. -/
  | record (shv strm : Nat)
  /-- A copy on a channel of the die (R208). -/
  | copy (ch : Nat)
  | gath (g : GathOp)
  | qnt (q : QntOp)
  | nmc (x : NmcOp)
  | ldstat (l : LdstatOp)
  | swap (x : SwapOp)
  | task (t : TaskOp)
  /-- An unbind that waits for the entries already read (R196): kind and number. -/
  | unbind (kind : ChainKind) (num : Nat)
deriving DecidableEq, Repr

/-- An issued operation (R85, R190–R192): who issued it, for which unit, launch and job, on which die and engine, and whether a fabric store issued it; the flags SER and NTF;
the fallbacks applied and the conversion flags so far; the fault that withholds it, with its address, the `tb` of the last walk and the kind of the access; and the status with which it ended. -/
structure EngOp where
  iss : Issuer
  unit : Option UnitId
  launch : Option Nat
  job : Nat
  asid : BitVec 12
  die : Nat
  row : Engine
  byFabric : Bool
  ser : Bool
  ntf : Bool
  body : OpBody
  warn : BitVec 7
  conv : Flags
  fault : Option (BitVec 16 × Word × Word × Access)
  /-- The bytes whose windows a read of the operation waits on (R89, R91). -/
  waitsOn : List (Phys × Nat)
  fin : Option Nat
deriving DecidableEq, Repr

/-! ## Journal streams and the backstay (R229, R381–R388) -/

/-- An entry that a stream has sent (Table 17.6): its four words, and the `emit` that waits for it, with its unit. -/
structure JEntry where
  words : List Word
  site : Site
  unit : UnitId
deriving DecidableEq, Repr

/-- An acknowledgement on its way to the `emit` that sent the entry (R186): entry number, status, and whether it is poison. -/
structure JAck where
  site : Site
  unit : UnitId
  num : Nat
  status : Nat
  poison : Bool
deriving DecidableEq, Repr

/-- A journal stream (Table 17.5): PEND is the number of entries sent and not acknowledged, oldest first. `lostAt` is the `tb` at which it
entered state 2, and `expired` marks that the 1,000,000 ticks have passed (R385). -/
structure JStream where
  holder : Option (BitVec 12)
  asid : BitVec 12
  job : Nat
  unit : Option UnitId
  state : BitVec 2
  port : BitVec 4
  bsdev : BitVec 16
  ackn : BitVec 40
  gseq : BitVec 32
  pend : List JEntry
  lostAt : Word
  expired : Bool
  /-- Acknowledgements that have not yet found room on the arc to their `emit`. -/
  acks : List JAck
deriving DecidableEq, Repr

/-- A journal stream after reset. -/
def JStream.initial : JStream :=
  { holder := none, asid := 0, job := 0, unit := none, state := 0, port := 0, bsdev := 0, ackn := 0, gseq := 0, pend := [], lostAt := 0,
    expired := false, acks := [] }

/-- An accumulator that lies in a spill slot (R324, R326): its owner, the last task that accumulated, as an operation, and how much of the slot it
fills. -/
structure SpilledAcc where
  asid : BitVec 12
  job : Nat
  die : Nat
  queue : Nat
  lastOp : Nat
  m : Nat
  n : Nat
deriving DecidableEq, Repr

/-- A storm-jib rectangle that a job holds (Table 13.9, KIND 6). -/
structure JibRect where
  asid : BitVec 12
  job : Nat
  die : Nat
  tx0 : Nat
  ty0 : Nat
  w : Nat
  h : Nat
  image : Nat
deriving DecidableEq, Repr

end Sys2Proof.Machine
end

