-- ==== Sys2Proof/Machine/HostState.lean ====
section
/-! DEFINITION. What the host interface, the scheduler and the management cores hold: sequencers of bound units
(09 R231–R235), launches, jobs and levels (R38, R289, R305), dependence nodes (R296), the slot table (R301),
user queues with their watchdogs (R282, R290, R333), frame tables and gangs (R319, R323), and the mailbox (R288). -/

namespace Sys2Proof.Machine

/-- How a level stands or ended (R40). -/
inductive LvlStatus where
  | running | done | cancelled | faulted
deriving DecidableEq, Repr

/-- The worse of two ended statuses: faulted, then cancelled, then done (R40). -/
def LvlStatus.worst : LvlStatus → LvlStatus → LvlStatus
  | .faulted, _ => .faulted
  | _, .faulted => .faulted
  | .cancelled, _ => .cancelled
  | _, .cancelled => .cancelled
  | .done, _ => .done
  | _, .done => .done
  | .running, .running => .running

/-- The code of a status in `LQRES`, completion records and `wait.lvl` (Tables 13.14, R307). -/
def LvlStatus.code : LvlStatus → Nat
  | .running => 0
  | .done => 1
  | .cancelled => 2
  | .faulted => 3

/-! ## Units and their sequencers -/

/-- What a sequencer is doing: running, waiting in an instruction since a `tb` (R233, R250) with the packet that a `launch` has read, stopped
by `end` (R255), or ended faulted (R256). -/
inductive SeqSt where
  | run
  | wait (start : Word) (i : Instr) (packet : List Word)
  | ended
  | dead
deriving DecidableEq, Repr

/-- A translation fault that withholds a sequencer's access (R332): its address and kind, and the `tb` of the last walk. -/
structure SeqFault where
  va : Nat
  acc : Access
  at_ : Word
deriving DecidableEq, Repr

/-- Where a unit stands: bound and running, saved in a record, or waiting to be restored (R312, R314, R322). -/
inductive UnitLife where
  | bound
  /-- A save is under way since a `tb`; the reason is 1 yield, 2 forced, 3 jib move (Table 14.2). -/
  | saving (reason : Nat) (start : Word)
  /-- Held in a save record at a virtual address of the job's save area, or in the reserved region. -/
  | saved (reason : Nat) (rec : Nat)
deriving DecidableEq, Repr

/-- A unit and its sequencer (R231–R235, R302). -/
structure WorkUnit where
  launch : Nat
  /-- The tile-plane on which it runs, or last ran. -/
  tp : Tp
  /-- The tile-plane of its original binding (Table 14.2). -/
  home : Tp
  asid : BitVec 12
  job : Nat
  cpath : Bool
  /-- Address of the next instruction, 57 bits (R231). -/
  pc : BitVec 57
  regs : Vector Word 32
  preds : BitVec 8
  seeds : Vector Word 16
  hmode : Bool
  ntfc : Word
  wto : BitVec 32
  /-- `prq.REQ` and the `tb` at which the deadline falls (R235, R310). -/
  req : Bool
  deadline : Word
  hvecVec : BitVec 51
  hvecEn : Bool
  hepc : BitVec 57
  hcause : BitVec 16
  hval : Word
  hscr : Word
  /-- The fetch block being run: its address and its sixteen instructions (R121, R123). -/
  fblock : Option (Nat × List (BitVec 32))
  seq : SeqSt
  held : Option SeqFault
  /-- The bytes under an active window that the instruction's load waits on, and whether a copy that it waited on was cancelled (R89, R91). -/
  winWait : List (Phys × Nat)
  poisoned : Bool
  /-- The faulted mark of R331 and the cause of the first fault (R307). -/
  faulted : Bool
  cause : BitVec 16
  /-- A cancel has reached the unit (R41). -/
  cancelled : Bool
  /-- A forced save at the next boundary between instructions returned 1 to a `yield` (R249). -/
  yieldRd : Option (BitVec 5)
  life : UnitLife
  /-- The save was asked for by an interval boundary, after which the unit resumes where it was (R350). -/
  forBoundary : Bool
  /-- The operation of a `cmd` with FE whose emptying has not been done, so that the `cmd` has not retired (R216, R275). -/
  feWait : Option Nat
deriving DecidableEq, Repr

/-- A read of the management cores that waits on active windows: the bytes, and whether a copy that it waited on was cancelled (R89, R91). -/
structure McRead where
  on : List (Phys × Nat)
  poisoned : Bool
deriving DecidableEq, Repr

/-! ## Launches, levels and nodes -/

/-- The fields of a launch packet (Tables 13.10, 13.11). -/
structure Packet where
  kind : Nat
  facq : Bool
  frel : Bool
  bar : Bool
  last : Bool
  cpath : Bool
  intr : Bool
  anyp : Bool
  plane : Nat
  die : Nat
  tx0 : Nat
  ty0 : Nat
  w : Nat
  h : Nat
  node : Nat
  nv : Bool
  npred : BitVec 16
  reserved : Bool
  job : Nat
  phase : Nat
  graph : Nat
  start : Word
  arg : Word
  seeds : Word
  hvec : Word
  crec : Word
  /-- The successors with V = 1: (die, node). -/
  succ : List (Nat × Nat)
deriving DecidableEq, Repr

/-- Where a launch came from: a queue and its packet number, a unit's `launch`, or a watchdog's handler packet (R334). -/
inductive LaunchSrc where
  | queue (q : Nat) (n : Nat)
  | unit (u : UnitId)
  | handler (q : Nat)
deriving DecidableEq, Repr

/-- A launch that has been accepted (R299): its packet, source and ASID, its pool entry while it holds one, the
tiles not yet written into the slot table, the sail that was chosen for it where its packet names none (R304), its counter (R38), its status
and first fault cause, and whether it has completed. `root` is the queue from which the root launch came (R330). -/
structure Launch where
  pkt : Packet
  src : LaunchSrc
  asid : BitVec 12
  root : Option Nat
  entry : Option Nat
  toBind : List Nat
  sail : Option Nat
  count : Nat
  closed : Bool
  status : LvlStatus
  cause : BitVec 16
  complete : Bool
  /-- The unit that posted it carries CPATH (R300). -/
  srcCpath : Bool
deriving DecidableEq, Repr

/-- A work-level counter (R38): children outstanding, closed, and the worst status of the children that ended. -/
structure Level where
  count : Nat
  closed : Bool
  status : LvlStatus
  complete : Bool
deriving DecidableEq, Repr

/-- A level that is not yet open. -/
def Level.fresh : Level := { count := 0, closed := false, status := .done, complete := false }

/-- An open or completed job (R289, R315): its operands, phase, counters and marks. -/
structure Job where
  asid : BitVec 12
  fn : PcieFn
  nbase : Nat
  ncount : Nat
  root : Nat
  savea : Nat
  size : Nat
  phase : Nat
  level : Level
  phases : KMap Level
  /-- Graph levels by phase × 2^32 + graph. -/
  graphs : KMap Level
  deperr : Bool
  /-- The job's mark that it has acted outside the device in the interval (R355). -/
  external : Bool
  fhead : Nat
  nunit : Nat
  /-- The statuses of the last units of the job that ended, by tile-plane, and the launches that last armed its nodes: what unit and launch handles
  name (R305, R345). -/
  ended : KMap LvlStatus
  armed : KMap Nat
  /-- A PHASEBND request waiting for a boundary: FULL, and the function whose mailbox waits (R349). -/
  phasebnd : Option (Bool × PcieFn)
  /-- A kill that has been decided and not yet carried out, with its cause (R101, R318, R356). -/
  doom : Option (BitVec 16)
  /-- The job has been killed (R101). -/
  killed : Bool
deriving DecidableEq, Repr

/-- The states of a dependence node (R296). -/
inductive NodeSt where
  | idle | armed | ready | running | complete
deriving DecidableEq, Repr

/-- A dependence node (R296). -/
structure Node where
  st : NodeSt
  count : BitVec 16
  launch : Option Nat
  /-- A predecessor of the next launch ended faulted or cancelled (R298). -/
  bad : Bool
deriving DecidableEq, Repr

/-- A node as JOBOPEN leaves it (R297). -/
def Node.initial : Node := { st := .idle, count := 0, launch := none, bad := false }

/-- A slot-table entry (Table 13.12) and the unit that the slot is bound to. -/
structure Slot where
  held : Bool
  bound : Bool
  entry : BitVec 11
  job : BitVec 16
  asid : BitVec 12
  unit : Option UnitId
deriving DecidableEq, Repr

/-- A slot after reset (Table 13.12). -/
def Slot.initial : Slot := { held := false, bound := false, entry := 0, job := 0, asid := 0, unit := none }

/-! ## User queues -/

/-- A user queue (Tables 13.4, 13.7, 13.8) with its watchdog (Table 14.7). -/
structure Queue where
  fn : PcieFn
  /-- When it was created, as a number that rises with each QCREATE (R281). -/
  made : Nat
  /-- The priority by which its launches are bound (R304; log entry 109). -/
  prio : Nat
  asid : BitVec 12
  job : Nat
  jib : Bool
  vec : Option Nat
  ring : Nat
  nent : Nat
  ridxa : Nat
  notify : Nat
  ridx : Nat
  qstState : BitVec 2
  badn : Bool
  badc : Bool
  errcode : BitVec 8
  erridx : BitVec 16
  lqres : Word
  /-- The next packet once its slot has been read (R290). -/
  head : Option (List Word)
  /-- The fault that keeps the next packet from being read, and when it was last tried (R332). -/
  fault : Option (BitVec 16 × Word × Word)
  wdEn : Bool
  wdHnd : Bool
  wdAuto : Bool
  wdTicks : BitVec 40
  wdCount : BitVec 40
  /-- Counting stopped by an expiry until the next kick or WDCFG write (R334). -/
  wdStopped : Bool
  wdPkt : BitVec 57
  wdSup : BitVec 12
  wdExpn : BitVec 16
  wdPkterr : Bool
  wdResetting : Bool
  wdReset : Bool
  wdExpired : Bool
  /-- The packet at WDPKT is still to be read (R343). -/
  wdPost : Bool
deriving DecidableEq, Repr

/-! ## Frame tables -/

/-- A frame-table entry (Table 14.4). -/
structure FrameEntry where
  v : Bool
  skip : Bool
  gang : Bool
  sail : BitVec 3
  fill : BitVec 3
  gid : BitVec 16
  grace : BitVec 19
  ticks : BitVec 20
deriving DecidableEq, Repr

/-- What a gang member holds about the entry that is running (R323). -/
structure GangSt where
  start : Word
  sentReady : Bool
  readyFrom : List Nat
  decision : Option Bool
  lost : Bool
deriving DecidableEq, Repr

/-- A die's frame table and sequencer (R36, R319): the eight entries, a table written for the next frame, the entry that runs (8 for none) and
its start or that of the next frame, the active sail, and the gang state. -/
structure Frame where
  entries : List FrameEntry
  next : Option (List FrameEntry)
  cur : Nat
  start : Word
  active : Nat
  gang : Option GangSt
deriving DecidableEq, Repr

/-- A frame table after reset: no valid entry, sail 0 active (R319). -/
def Frame.initial : Frame := { entries := [], next := none, cur := 8, start := 0, active := 0, gang := none }

/-! ## Mailbox -/

/-- The mailbox of a function (R288): MBADDR, the bits of MBST and the request under way. -/
structure Mailbox where
  addr : Word
  busy : Bool
  done : Bool
  ovr : Bool
  req : Option (List Word)
  /-- The buffer of the request under way (R288). -/
  buf : Nat
deriving DecidableEq, Repr

/-- A mailbox after reset. -/
def Mailbox.initial : Mailbox := { addr := 0, busy := false, done := false, ovr := false, req := none, buf := 0 }

end Sys2Proof.Machine
end

