-- ==== Sys2Proof/Machine/DeviceState.lean ====
section
/-! DEFINITION. What the device as a whole holds outside the part that a rollback restores: the configuration blob, firmware
state, links, the interval boundary and the full checkpoint, counters, service actions, the DOE mailbox, and what the device has
sent to the outside. -/

namespace Sys2Proof.Machine

/-! ## Configuration (R284, R279, R300, R349, R350, R357, R371, R376, R384, R323) -/

/-- A gang as the firmware knows it (R323): GID and its members' identifiers, the leader first. -/
structure Gang where
  gid : BitVec 16
  members : List Nat
deriving DecidableEq, Repr

/-- The configuration blob in force (R284): the fields that the manual says it sets. -/
structure Blob where
  form : BitVec 4
  step : BitVec 4
  dies : BitVec 4
  version : BitVec 8
  /-- The device identifier (R382, R384). -/
  devid : BitVec 16
  spill : Nat
  bper : Nat
  fper : Nat
  bdl : Nat
  ctMode : BitVec 8
  maxClass : Nat
  defClass : Nat
  linkRate : BitVec 3
  /-- The limits of single links; an unlisted link has `linkRate` (R376). -/
  linkLimits : KMap (BitVec 3)
  /-- What LNKCTL.RATE holds after bring-up (R7, Table 17.3); `linkRate` is the limit (R376). -/
  linkCtl : BitVec 3
  /-- Working spares of a tile, by tile number 64·die + tile; unlisted tiles have four (R9, R361). -/
  spares : KMap Nat
  jnlBase : Nat
  npart : Nat
  jlen : Nat
  gangs : List Gang
deriving DecidableEq, Repr

/-- A firmware image and blob that bring-up or an update is offered (R284): the versions, whether the SM2 signatures over the digests of the image
and of the blob check, whether the boot ROM holds the digest of the signing key, and whether the blob names the digest of the device's identity key. -/
structure Offer where
  fwver : BitVec 32
  blob : Blob
  imageSigned : Bool
  blobSigned : Bool
  keyKnown : Bool
  identity : Bool
deriving DecidableEq, Repr

/-- Does every check of R284 pass? -/
def Offer.valid (o : Offer) : Bool := o.imageSigned && o.blobSigned && o.keyKnown && o.identity

/-- The states of FWST (R287, Table 13.6). -/
inductive FwState where
  | rom | verifying | running | authfail | fatal
deriving DecidableEq, Repr

/-- The code of a firmware state. -/
def FwState.code : FwState → Nat
  | .rom => 0
  | .verifying => 1
  | .running => 2
  | .authfail => 3
  | .fatal => 4

/-! ## Links (R375–R380) -/

/-- How far a return of a link to service has come (R379): none asked for, asked for, its retrain under way, and that retrain done. -/
inductive LinkBack where
  | none | asked | running | over
deriving DecidableEq, Repr

/-- A link (Tables 17.2–17.4): its registers, the resends of one flit in succession, and the retrain under way, asked for, or asked for
while one is under way; `since` is the `tb` at which it lost training. -/
structure Link where
  state : BitVec 2
  width : BitVec 8
  rate : BitVec 8
  rqrate : BitVec 8
  peer : BitVec 16
  spare : BitVec 8
  fallbk : Bool
  deg : Bool
  rtd : Bool
  ctlRate : BitVec 3
  replay : BitVec 32
  crcerr : BitVec 32
  retrn : BitVec 16
  lanef : BitVec 16
  fallb : BitVec 16
  fecunc : BitVec 16
  streak : Nat
  /-- A requested retrain waits for saves (R378) or for the retrain under way. -/
  wanted : Bool
  /-- The code of the rate at which the retrain under way trains, latched where it began (R376), and whether a write has asked for a rate that no retrain has
  taken yet. -/
  target : BitVec 3
  rateDue : Bool
  /-- A return to service (R379). -/
  back : LinkBack
  /-- Lanes of a halyard have failed: 4 at most train until a device reset (R379, R380). -/
  half : Bool
  /-- The retrain under way has raised `link.degraded` while a service action waited to take the link out (Table 17.7). -/
  outTold : Bool
  since : Option Word
deriving DecidableEq, Repr

/-- A link after reset: every field of its registers 0 (Tables 17.2–17.4). -/
def Link.initial : Link :=
  { state := 0, width := 0, rate := 0, rqrate := 0, peer := 0, spare := 0, fallbk := false, deg := false, rtd := false, ctlRate := 0,
    replay := 0, crcerr := 0, retrn := 0, lanef := 0, fallb := 0, fecunc := 0, streak := 0, wanted := false, target := 0, rateDue := false, back := .none, half := false, outTold := false, since := none }

/-- The limit of a link (R376). -/
def Blob.limitOf (b : Blob) (l : Nat) : BitVec 3 := (kget b.linkLimits l).getD b.linkRate

/-- A UCIe link that bring-up has trained: 64 lanes, at the rate of a code in GT/s or of the limit (R7, R376). -/
def Link.trained (code limit : BitVec 3) : Link :=
  let gt : BitVec 8 := BitVec.ofNat 8 (32 + 4 * min code.toNat limit.toNat)
  { Link.initial with width := 64, rate := gt, rqrate := gt, ctlRate := code }

/-- A halyard port that trains since a `tb`. -/
def Link.training (tb : Word) : Link := { Link.initial with state := 1, since := some tb }

/-! ## Boundaries and checkpoints (R349–R357) -/

/-- How far a boundary has come (R350): none wanted, wanted, or its saves are under way. -/
inductive BndSt where
  | idle | wanted | saving
deriving DecidableEq, Repr

/-- A host action that the replay log holds (R355). -/
inductive LogItem where
  | bar2 (dpa : Nat) (bytes : List Byte)
  /-- The value, and RIDX when it was written. -/
  | notify (k : QueueId) (val : Word) (ridx : Nat)
  | cancel (k : QueueId) (handle : Word)
  | lqry (k : QueueId) (handle : Word)
  | wdctl (k : QueueId) (val : Word)
  | wdcfg (k : QueueId) (val : Word)
  /-- A packet that queue `k` accepted, as it was read. -/
  | packet (k : QueueId) (words : List Word)
deriving DecidableEq, Repr

/-- The full checkpoint image (R357): the bytes of its slots, whether they have been filled, the BNUM of a checkpoint under way, the pages whose slots it
has filled already, the pages written since their slot was filled,
those of them at the instant, and, while no checkpoint has completed, the pages whose slots abandoned ones have filled. -/
structure FullCkpt where
  have_ : Bool
  image : KMap Byte
  running : Option Word
  filled : List Nat
  stale : List Nat
  staleAt : List Nat
  kept : List Nat
deriving DecidableEq, Repr

/-- No full checkpoint has been taken. -/
def FullCkpt.none : FullCkpt := { have_ := false, image := [], running := Option.none, filled := [], stale := [], staleAt := [], kept := [] }

/-! ## Elements (R9, R360, R361) -/

/-- The health of an element: failed checks since the boundary, and whether it has been moved to a spare or retired. -/
structure Health where
  fails : Nat
  spare : Option Nat
  retired : Bool
deriving DecidableEq, Repr

/-- A sound element. -/
def Health.initial : Health := { fails := 0, spare := none, retired := false }

/-- Counters of the resynchronisation summary (Table 16.6). -/
structure Counters where
  rollbacks : Word
  replays : Word
  moves : BitVec 32
  retired : BitVec 32
  corrected : Vector Word 4
  limited : Word
deriving DecidableEq, Repr

/-- Counters after reset. -/
def Counters.initial : Counters :=
  { rollbacks := 0, replays := 0, moves := 0, retired := 0, corrected := Vector.replicate 4 0, limited := 0 }

/-! ## SPDM over DOE (R286) -/

/-- What the responder answers. Byte strings that an implementation decides come from `Config`. -/
inductive SpdmResp where
  /-- Versions as (major, minor). -/
  | version (vs : List (Nat × Nat))
  | capabilities
  /-- SM2 with P256 signatures and SM3 hashes. -/
  | algorithms
  | digests (ds : List (List Byte))
  | certificate (slot : Nat) (bytes : List Byte) (remaining : Nat)
  | challengeAuth (slot : Nat) (nonce : List Byte) (signature : List Byte)
  /-- The number of blocks, and those that were asked for. -/
  | measurements (count : Nat) (blocks : List (Nat × List Byte))
  | unsupportedRequest
  | invalidRequest
  | unexpectedRequest
  /-- A DOE discovery entry: vendor, data object type, next index. -/
  | discovery (vendor type next : Nat)
deriving DecidableEq, Repr

/-- How far the negotiation has come. -/
inductive SpdmSt where
  | start | versioned | capable | negotiated
deriving DecidableEq, Repr

/-! ## What the device sends -/

/-- A message over a halyard (R323, R381–R388). -/
inductive HalMsg where
  | entry (port : Nat) (words : List Word)
  | endRecord (port : Nat) (gseq : BitVec 32) (lastn : BitVec 40)
  | truncate (port : Nat) (gseq : BitVec 32) (n : BitVec 40)
  | ack (dev : Nat) (die j n : Nat) (poison : Bool)
  | ready (gid : BitVec 16) (start : Word)
  | go (gid : BitVec 16) (start : Word)
  | skip (gid : BitVec 16) (start : Word)
  | remoteData (port : Nat) (bytes : List Byte)
deriving DecidableEq, Repr

/-- A saved unit (R312, R317): where it ran and its slot's ENTRY, its images, held block instances, plane registers by tile-plane number, sheave
streams, the words of its lane-file windows by their old places, the bytes of its record, and the reason (Table 14.2). -/
structure SavedUnit where
  tp : Tp
  entry : BitVec 11
  images : List (Nat × Image)
  insts : List (Nat × Inst)
  regs : List (Nat × TpRegs)
  streams : List (Nat × Stream)
  words : List (Nat × Lane)
  bytes : List Byte
  reason : Nat
deriving DecidableEq, Repr

/-- What waits at a backstay: an entry, an end record, or a truncation. -/
inductive WaitKind where
  | entry | endRecord | truncation
deriving DecidableEq, Repr

/-- What a backstay partition holds back (R383, R388): an entry until those between arrive or a slot is free, an end record until its last
entry is stored, and any of them while its store waits (R353). -/
structure Waiting where
  gseq : BitVec 32
  n : Nat
  words : List Word
  kind : WaitKind
deriving DecidableEq, Repr

/-- A function-level reset of a VF that waits for the jobs it has killed (R283): its jobs, their page tables and its ASIDs. -/
structure Flr where
  jobs : List Nat
  roots : List Nat
  asids : List (BitVec 12)
deriving DecidableEq, Repr

end Sys2Proof.Machine
end

