-- ==== Sys2Proof/Machine/State.lean ====
section
/-! DEFINITION. The state of the machine: plain data holding everything the manual gives the device, what stands
outside it, and the model's own fields that say which agent moves next. -/

namespace Sys2Proof.Machine

/-- Why the machine stops with a fault. -/
inductive Fault where
  /-- A scalar instruction is executed while no sequencer is the current one. Raised by every scalar meaning. The
  manual gives an instruction an effect only on the sequencer that runs it (R231), so there is nothing to act on.
  Safe: no hardware state is passed over. -/
  | noUnit
deriving DecidableEq, Repr

/-- Why the model gives an instruction no meaning. -/
inductive Refusal where
  /-- The instruction has no meaning in this model yet. Raised by an arm of `exec` only. Safe. -/
  | notModelled (mnemonic : String)
deriving DecidableEq, Repr

/-- Storage by address (R69–R73). -/
structure MemState where
  /-- Device memory by DPA; an unlisted byte reads 0 (R72, R283). -/
  mem : KMap Byte
  /-- The full granules of the caddies, by DPA / 16; an unlisted granule is empty (R72). -/
  full : KMap Bool
  /-- The capacity-tier mode of each stack: 1 cache, 0 peer (R73, Table 13.15). -/
  ctMode : BitVec 8
  /-- A change of mode is in progress, by stack, to the mode given (R309). -/
  ctBusy : KMap Bool
  /-- Active destination windows (R89). -/
  wins : List Win
  /-- FX128 regions (R198). -/
  fxregs : List FxRegion
  /-- Lane files, by word number (R112, R161); an unlisted word is 0 (R163). -/
  lanes : KMap Lane
  /-- The dead 64 KiB units, by DPA / 65,536 (R228). -/
  dead : KMap Bool
  /-- Stores of the device into save areas that wait for a change of mode, oldest first: ASID, address and bytes (R309). -/
  owed : List (BitVec 12 × Nat × List Byte)
deriving DecidableEq, Repr

/-- The fabric (R12–R45, R103–R113). -/
structure FabState where
  /-- Registers of the tile-planes (R51, R125, R184), by tile-plane number. -/
  tps : KMap TpRegs
  /-- Loaded images, by the number of the tile-plane they were loaded onto (R246). -/
  images : KMap Image
  /-- Block instances with memory operations, by number (R31). -/
  insts : KMap Inst
  /-- Frame tables, by die (R319). -/
  frames : KMap Frame
  /-- `ahalt` of each die (R273). -/
  ahalt : KMap Word
  /-- The job whose image was loaded last on a tile-plane, by tile-plane number; none where that job's number has been opened again (R163). -/
  laneJobs : KMap Nat
deriving DecidableEq, Repr

/-- Units, launches, jobs, queues and grants (13_host_queues_and_launch.md). -/
structure HostState where
  units : KMap WorkUnit
  launches : KMap Launch
  jobs : KMap Job
  /-- Dependence nodes, by 8,192 × die + node (R296). -/
  nodes : KMap Node
  /-- The slot tables, by 320 × die + index (R301). -/
  slots : KMap Slot
  /-- User queues, by 1,024 × die + queue (R282). -/
  queues : KMap Queue
  /-- The root tables of the ASIDs that have open jobs, by ASID (R315, R337). -/
  roots : KMap Nat
  /-- The spill queue of each die, oldest first (R300). -/
  spills : KMap (List Nat)
  /-- What units that are saved hold, by unit (R312, R317). -/
  saves : KMap SavedUnit
  /-- Storm-jib rectangles (Table 13.9). -/
  jibs : List JibRect
  /-- The share of each VF: how many tile-planes, channels, templates, chains, queues, journal streams and storm jibs it may grant (R289). -/
  shares : KMap (List Nat)
  /-- The queue to which a pool entry of a die went last, and the queue of the last launch that a die's MC has bound (R300, R304). -/
  acceptRr : KMap Nat
  bindRr : KMap Nat
  /-- The reads of the management cores that wait on active windows: 3q of the ring of a queue, 3q + 1 of its handler packet, 3n + 2 of the SEEDS table of
  launch n (R89, R232, R290, R334). -/
  mcReads : KMap McRead
deriving DecidableEq, Repr

/-- The engines (08_stream_and_engine_commands.md, 17_links_and_backstay_journal.md). -/
structure EngState where
  /-- Issued operations that have not reached their completion object, by number. -/
  ops : KMap EngOp
  /-- Sheave streams, by 256 × die + 16 × sheave + stream (R199). -/
  streams : KMap Stream
  /-- Copy templates, by 256 × die + index (R205). -/
  tmpls : KMap Tmpl
  /-- BTE channels, by 32 × die + channel (R210). -/
  chans : KMap Chan
  /-- Chains and task queues, by 256 × kind + 64 × die + number (R193). -/
  chains : KMap Chain
  /-- The GRE index state of each unit (R214). -/
  idxs : KMap IdxState
  /-- The MXEs, by 16 × die + number (R219). -/
  mxes : KMap Mxe
  /-- Accumulators that lie in a spill slot (R324). -/
  spilled : List SpilledAcc
  /-- Journal streams, by 16 × die + stream (R381). -/
  journals : KMap JStream
  /-- Locations that agents wait on: 2u for the sequencer of unit u, 2n + 1 for memory operation n (R180, R250). -/
  watches : KMap Watch
deriving DecidableEq, Repr

/-- The part of the device that a phase rollback restores (R354). -/
structure Dev extends MemState, FabState, HostState, EngState where
deriving DecidableEq, Repr

/-- Who moves next in a run (a field of the model, not of the manual): the sequencer of a unit executes its next
instruction, a step of the device happens, time passes, an agent outside the device writes bytes of its own memory, the policy firmware
of a die writes the frame table (R319), or stored data decay (R354). -/
inductive Turn where
  | seq (u : UnitId)
  | ev (i : Instr)
  | tick (n : Nat)
  | outside (a : Nat) (bytes : List Byte)
  | table (die : Nat) (words : List Word)
  /-- An uncorrectable error arises in the stored data at a device address (R391). -/
  | decay (dpa : Nat)
deriving DecidableEq, Repr

/-- What the management cores and the package hold outside a rollback (13, 16, 17). -/
structure MgmtState where
  /-- The configuration blob in force (R284). -/
  blob : Blob
  /-- FWST (Table 13.6). -/
  fwState : FwState
  fwver : BitVec 32
  dump : Bool
  /-- What the board's flash offers at bring-up, and what stands in buffers of the host, by address (R284): inputs of the model. -/
  flash : Option Offer
  hostOffers : KMap Offer
  /-- WINBASE[41:36] (R280). -/
  winbase : BitVec 6
  /-- The mailboxes: 0 the PF, v + 1 VF v (R288). -/
  mboxes : KMap Mailbox
  /-- The dies whose fabric works and is in service (R279, R369). -/
  dies : BitVec 4
  /-- Sails out of service, by 4 × die + sail (Table 16.7). -/
  sailsOut : KMap Bool
  /-- The request of the service action that is running (R368). -/
  service : Option (List Word)
  /-- The power class in force, and the dies limited by temperature (R371). -/
  power : Nat
  hot : BitVec 4
  /-- Links 0–15 and halyard ports 16–27 (R372). -/
  links : KMap Link
  /-- BNUM, and how far a boundary has come (R349, R350). -/
  bnum : Word
  bnd : BndSt
  /-- The `tb` from which BPER counts. -/
  bperFrom : Word
  /-- A boundary is to take a full checkpoint (R357). -/
  bndFull : Bool
  /-- The state at the last instant (R350). -/
  snap : Option Dev
  /-- The pages that the undo logs hold, by DPA / 4,096 (R351). -/
  undo : KMap Bool
  /-- The replay log, oldest first (R355). -/
  log : List LogItem
  /-- The jobs that rollbacks to the last instant have killed as external (R355). -/
  extJobs : List Nat
  /-- The packets that replay accepts again, oldest first (R355). -/
  replay : List (QueueId × List Word)
  /-- Rollbacks to the last instant (R358). -/
  rollbacks : Nat
  counters : Counters
  /-- Elements that have failed, by 4,352 × die + 68 × tile + element (R361). -/
  health : KMap Health
  /-- Lost pages, by DPA / 4,096 (R356). -/
  lost : KMap Bool
  /-- Host lines whose data a dirty cache-mode line has lost, by address / 64 (R354). -/
  lostLines : KMap Bool
  /-- The code units that hold an uncorrectable error which a near-memory unit would read, by DPA / 32 (R391): an input of the model. -/
  uce : KMap Bool
  fc : FullCkpt
  /-- FCNUM (R357). -/
  fcnum : Word
  /-- The SPDM responder and its last answer (R286). -/
  spdm : SpdmSt
  doe : Option SpdmResp
  /-- The bytes that the last host or peer read through a BAR returned (R74, R280). -/
  barData : List Byte
  /-- MSI-X messages raised, newest first (R278). -/
  msix : List (PcieFn × Nat)
  /-- Messages sent over halyards, newest first (R380). -/
  halOut : List HalMsg
  /-- ATS invalidations that the device has completed, newest first: ASID, address and length (R340). -/
  ats : List (BitVec 12 × Nat × Nat)
  /-- Entries that the device holds as a backstay, oldest first (R383). -/
  held : List Waiting
  /-- Function-level resets that wait, by VF (R283). -/
  flrs : KMap Flr
deriving DecidableEq, Repr

/-- The machine. -/
structure State extends Dev, MgmtState where
  /-- The timebase (R3). -/
  tb : Word
  /-- System-target memory, outside the device (R69, R338). -/
  sysMem : KMap Byte
  /-- The turns that come next (model). -/
  turns : List Turn
  /-- The unit whose sequencer acts (model). -/
  cur : Option UnitId
  /-- The next number for a unit, launch, instance or operation (model). -/
  nextId : Nat
  /-- The counter that free values are drawn with (model). -/
  freeCount : Nat
deriving DecidableEq, Repr

/-- Memory right after reset: every byte 0, every granule empty, nothing dead or lost (R72, R283); peer mode. -/
def MemState.reset : MemState :=
  { mem := [], full := [], ctMode := 0, ctBusy := [], wins := [], fxregs := [], lanes := [], dead := [], owed := [] }

/-- The fabric right after reset: nothing loaded. -/
def FabState.reset : FabState := { tps := [], images := [], insts := [], frames := [], ahalt := [], laneJobs := [] }

/-- No unit, launch, job, queue or grant (R283). -/
def HostState.reset : HostState :=
  { units := [], launches := [], jobs := [], nodes := [], slots := [], queues := [], roots := [], spills := [], saves := [], jibs := [], shares := [], acceptRr := [], bindRr := [], mcReads := [] }

/-- Idle engines. -/
def EngState.reset : EngState :=
  { ops := [], streams := [], tmpls := [], chans := [], chains := [], idxs := [], mxes := [], spilled := [], journals := [], watches := [] }

/-- The state that a rollback restores, right after reset. -/
def Dev.reset : Dev :=
  { toMemState := .reset, toFabState := .reset, toHostState := .reset, toEngState := .reset }

/-- The blob that the model's board carries (DESIGN CHOICE, log entry 1). -/
def Blob.board : Blob :=
  { form := 2, step := 0, dies := 0xF, version := 1, devid := 0x41, spill := 256, bper := 0, fper := 0, bdl := 3000, ctMode := 0,
    maxClass := 6, defClass := 0, linkRate := 4, linkLimits := [], linkCtl := 0, spares := [], jnlBase := 0x400000000, npart := 16, jlen := 4096, gangs := [] }

/-- The management state right after reset: the boot ROM has not run (Tables 13.5, 13.6). -/
def MgmtState.reset : MgmtState :=
  { blob := .board, fwState := .rom, fwver := 0, dump := false, flash := some { fwver := 1, blob := .board, imageSigned := true, blobSigned := true, keyKnown := true, identity := true }, hostOffers := [],
    winbase := 0, mboxes := [], dies := 0xF, sailsOut := [], service := none, power := 0, hot := 0, links := [],
    bnum := 0, bnd := .idle, bperFrom := 0, bndFull := false, snap := none, undo := [], log := [], extJobs := [], replay := [], rollbacks := 0,
    counters := .initial, health := [], lost := [], lostLines := [], uce := [], fc := .none, fcnum := 0, spdm := .start, doe := none, barData := [], msix := [],
    halOut := [], ats := [], held := [], flrs := [] }

/-- The machine right after reset (R283, Table 13.5). -/
def State.reset : State :=
  { toDev := .reset, toMgmtState := .reset, tb := 0, sysMem := [], turns := [], cur := none, nextId := 0, freeCount := 0 }

end Sys2Proof.Machine
end

