-- ==== Sys2Proof/Machine/Ops.lean ====
section
/-! DEFINITION. The named operations over memory, translation, registers and tile-planes, and taking an exception at
a sequencer and returning from it. -/

namespace Sys2Proof

/-- The number of a tile-plane (R301): 320 × die + 5 × tile + plane. -/
def Tp.key (t : Tp) : Nat := 320 * t.die + 5 * t.tile + t.plane

namespace Machine

/-- The outcome of a meaning. -/
abbrev Res := Host.Outcome State Fault Refusal

/-! ## Bytes -/

/-- A number of `n` bytes as bytes, little-endian (R5). -/
def leBytes : Nat → Nat → List Byte
  | 0, _ => []
  | n + 1, x => BitVec.ofNat 8 x :: leBytes n (x / 256)

/-- The number that little-endian bytes hold (R5). -/
def leNat : List Byte → Nat
  | [] => 0
  | b :: bs => b.toNat + 256 * leNat bs

/-- Read `n` bytes of a byte map from `a`; unlisted bytes read 0. -/
def getBytes (m : KMap Byte) : Nat → Nat → List Byte
  | _, 0 => []
  | a, n + 1 => dget 0 m a :: getBytes m (a + 1) n

/-- Write bytes to a byte map from `a`. -/
def putBytes (m : KMap Byte) : Nat → List Byte → KMap Byte
  | _, [] => m
  | a, b :: bs => putBytes (dset 0 m a b) (a + 1) bs

/-- The canonical form of a memory: addresses strictly rise, and no listed byte is the 0 that an unlisted one reads as. -/
def Memory.wf (m : KMap Byte) : Bool := dwf 0 m

/-! ## The device physical address map (R70, Table 3.2) -/

/-- The regions of Table 3.2. -/
inductive Region where
  | hbm (stack : Nat)
  | caddy (c : Nat)
  | tier (stack : Nat)
  | tierReserved (stack : Nat)
  | hole
deriving DecidableEq, Repr

/-- The region of a device physical address. -/
def regionOf (a : Nat) : Region :=
  if a < 0x8000000000 then .hbm (a / 0x1000000000)
  else if a < 0x8200000000 then
    let o := a - 0x8000000000
    if o % 0x4000000 < 0x2800000 then .caddy (o / 0x4000000) else .hole
  else if a < 0x20000000000 then .hole
  else if a < 0x40000000000 then
    let o := a - 0x20000000000
    let st := o / 0x4000000000
    if o % 0x4000000000 < 0x2C00000000 then .tier st else .tierReserved st
  else .hole

/-- The home die of a device physical address (R69). -/
def homeDie (a : Nat) : Nat :=
  match regionOf a with
  | .hbm st => st / 2
  | .caddy c => c / 32
  | .tier st => st / 2
  | .tierReserved st => st / 2
  | .hole => 0

/-- The replica on die `d` of an address of a replicated page (R339): the same stack or caddy of the die, the same offset. An
address of the capacity tier is that of every replica (DESIGN CHOICE, log entry 137). -/
def replicaAddr (a d : Nat) : Nat :=
  match regionOf a with
  | .hbm st => (2 * d + st % 2) * 0x1000000000 + a % 0x1000000000
  | .caddy c => 0x8000000000 + (32 * d + c % 32) * 0x4000000 + (a - 0x8000000000) % 0x4000000
  | _ => a

/-- The dies of a replica set, ascending. -/
def diesOf (set : BitVec 4) : List Nat := (List.range 4).filter fun d => set.getLsbD d

/-- The replica that a load from die `d` reads (R98). -/
def replicaFor (set : BitVec 4) (d : Nat) : Nat := if set.getLsbD d then d else (diesOf set).headD 0

/-! ## Address translation (R337–R340) -/

/-- Cause codes of the memory traps (R327, R328, Table 14.5). -/
def cMemAlign : BitVec 16 := 0x10
/-- `mem.range`. -/
def cMemRange : BitVec 16 := 0x11
/-- `mem.attr`. -/
def cMemAttr : BitVec 16 := 0x12
/-- `xlat.miss`. -/
def cXlatMiss : BitVec 16 := 0x13
/-- `xlat.prot`. -/
def cXlatProt : BitVec 16 := 0x14

/-- The answer of a translation: where the access goes, or the cause it raises. -/
inductive Xlat where
  | ok (p : Phys)
  | bad (cause : BitVec 16)
deriving DecidableEq, Repr

/-- A leaf entry taken apart (Table 14.9), with the size of its page. -/
structure Leaf where
  pa : Nat
  repset : BitVec 4
  kind : Nat
  x : Bool
  w : Bool
  r : Bool
  size : Nat
deriving DecidableEq, Repr

/-- Read a leaf entry; none where it is malformed (R338). -/
def leafOf (e : BitVec 64) (size : Nat) : Option Leaf :=
  let pa := (e.extractLsb' 16 41).toNat * 65536
  let rep := e.extractLsb' 9 4
  let kind := (e.extractLsb' 6 3).toNat
  let popc := (diesOf rep).length
  if e.extractLsb' 57 7 ≠ 0 ∨ e.extractLsb' 13 3 ≠ 0 ∨ e.getLsbD 5 ∨ kind = 7 ∨ pa % size ≠ 0 then none
  else if kind = 4 ∧ popc < 2 then none
  else if kind ≠ 4 ∧ rep ≠ 0 then none
  else if (kind = 0 ∨ kind = 4) ∧ regionOf pa = .hole then none
  else if kind = 4 ∧ homeDie pa ≠ (diesOf rep).headD 0 then none
  else if kind = 2 ∧ (e.extractLsb' 18 39) ≠ 0 then none
  else some { pa := pa, repset := rep, kind := kind, x := e.getLsbD 4, w := e.getLsbD 3, r := e.getLsbD 2, size := size }

/-- What a walk finds: a leaf, no valid entry, or a malformed entry. -/
inductive Walk where
  | leaf (l : Leaf)
  | miss
  | malformed
deriving DecidableEq, Repr

/-- An 8-byte entry of a table in device memory. -/
def readEntry (m : KMap Byte) (a : Nat) : BitVec 64 := BitVec.ofNat 64 (leNat (getBytes m a 8))

/-- Walk the levels of Table 14.8 from a table: each level gives the index of its entry and, where a leaf may stand, the page size. -/
def walk (m : KMap Byte) (va : Nat) : List (Nat × Nat × Nat) → Nat → Walk
  | [], _ => .malformed
  | (lo, n, size) :: rest, table =>
    let e := readEntry m (table + 8 * ((va / 2 ^ lo) % n))
    if !e.getLsbD 0 then .miss
    else if rest.isEmpty ∨ (e.getLsbD 1 ∧ size ≠ 0) then
      match leafOf e size with
      | some l => .leaf l
      | none => .malformed
    else if e.getLsbD 1 ∨ e.extractLsb' 2 10 ≠ 0 ∨ e.extractLsb' 57 7 ≠ 0 then .malformed
    else walk m va rest ((e.extractLsb' 12 45).toNat * 4096)

/-- The levels of Table 14.8: the lowest VA bit of the index, the number of entries, and the page a leaf maps (0 where none may stand). -/
def levels : List (Nat × Nat × Nat) :=
  [(48, 512, 0), (39, 512, 0), (30, 512, 0x40000000), (21, 512, 0x200000), (16, 32, 0x10000)]

/-- Does the page grant the access (R339)? -/
def Leaf.allows (l : Leaf) : Access → Bool
  | .read => l.r
  | .write => l.w
  | .atomic => l.r && l.w
  | .fetch => l.x

/-- The entries that a walk of an address reads (R337). -/
def walkEntries (m : KMap Byte) (va : Nat) : List (Nat × Nat × Nat) → Nat → List Nat
  | [], _ => []
  | (lo, n, _) :: rest, table =>
    let a := table + 8 * ((va / 2 ^ lo) % n)
    let e := readEntry m a
    if !e.getLsbD 0 || rest.isEmpty || e.getLsbD 1 || e.extractLsb' 2 10 ≠ 0 || e.extractLsb' 57 7 ≠ 0 then [a]
    else a :: walkEntries m va rest ((e.extractLsb' 12 45).toNat * 4096)

/-- Where an address of a leaf's page lies (R70, R338, R339). System targets of kinds 1 and 5 are addresses of the PASID that equals the ASID, those
of kind 6 carry the device identifier in their upper bits. -/
def Leaf.phys (l : Leaf) (asid : BitVec 12) (va : Nat) : Phys :=
  let a := l.pa + va % l.size
  match l.kind with
  | 0 => .dpa a
  | 4 => .rep a l.repset
  | 2 => .aperture ((l.pa / 65536) % 4) (va % l.size)
  | 3 => .queue (a / 2 ^ 22 % 4) (a / 2 ^ 16 % 64) (a % 65536)
  | 6 => .sys (2 ^ 57 + a)
  | _ => .sys (asid.toNat * 2 ^ 58 + a)

/-- Is a device address one that programs reach: not a hole, not reserved, and not a stack's range in cache mode (R70, R73)? -/
def reachable (cacheMode : BitVec 8) (a : Nat) : Bool :=
  match regionOf a with
  | .hbm _ | .caddy _ => true
  | .tier st => !cacheMode.getLsbD st
  | _ => false

/-- The capacity-tier modes that an access meets: a stack whose mode changes counts as peer, since the access waits for the change (R309). -/
def openTiers (s : State) : BitVec 8 := s.ctBusy.foldl (fun m b => m &&& ~~~((1 : BitVec 8) <<< b.1)) s.ctMode

/-- Does one of `n` bytes of device memory lie in the journal store of the device as a backstay (R384)? -/
def inStore (s : State) (a n : Nat) : Bool :=
  0 < s.blob.npart && a < s.blob.jnlBase + 0x100000 + 32 * s.blob.jlen * s.blob.npart && s.blob.jnlBase < a + n

/-- Does an access that writes reach the journal store, which no context can write (R384)? It is refused with `mem.attr` (DESIGN CHOICE, log entry 148). -/
def storeBarred (s : State) (acc : Access) (p : Phys) (n : Nat) : Bool :=
  (acc = .write || acc = .atomic) && match p with
  | .dpa a => inStore s a n
  | .rep a set => (diesOf set).any fun d => inStore s (replicaAddr a d) n
  | _ => false

/-- `mem.uce` (Table 14.5). -/
def cMemUce : BitVec 16 := 0x15

/-- Does the walk of an address read an entry in a lost page (R356)? -/
def walkLost (s : State) (va root : Nat) : Bool :=
  !s.lost.isEmpty && (walkEntries s.mem va levels root).any fun a => (kget s.lost (a / 4096)).isSome

/-- Translate a virtual address of an ASID for an access (R70, R337–R339, R356). -/
def translate (s : State) (asid : BitVec 12) (va : Nat) (acc : Access) : Xlat :=
  match kget s.roots asid.toNat with
  | none => .bad cXlatMiss
  | some root =>
    if walkLost s (va % 2 ^ 57) root then .bad cMemUce
    else
    match walk s.mem (va % 2 ^ 57) levels root with
    | .miss => .bad cXlatMiss
    | .malformed => .bad cMemAttr
    | .leaf l =>
      if !l.allows acc then .bad cXlatProt
      else
        let p := l.phys asid (va % 2 ^ 57)
        let out : Bool := match p with
          | .dpa a | .rep a _ => !reachable (openTiers s) a
          | _ => false
        if out then .bad cMemRange else if storeBarred s acc p 1 then .bad cMemAttr else .ok p

/-! ## Reading and writing where a translation leads -/

/-- Read `n` bytes as seen from die `d` (R79, R98). The aperture and queue pages hold no bytes. -/
def readPhys (s : State) (d : Nat) (p : Phys) (n : Nat) : List Byte :=
  match p with
  | .dpa a => getBytes s.mem a n
  | .rep a set => getBytes s.mem (replicaAddr a (replicaFor set d)) n
  | .sys a => getBytes s.sysMem a n
  | _ => List.replicate n 0

/-- The word that bytes hold, zero-extended. -/
def wordOf (bs : List Byte) : Word := BitVec.ofNat 64 (leNat bs)

/-- Does a value meet a condition on its low bits (R180, R250): 0 eq, 1 ne, 2 lt, 3 ge signed, 4 ltu, 5 geu? -/
def condHolds (c : BitVec 3) (bits : Nat) (v x : Word) : Bool :=
  let a := v.setWidth bits
  let b := x.setWidth bits
  match c.toNat with
  | 0 => a == b
  | 1 => a != b
  | 2 => a.toInt < b.toInt
  | 3 => b.toInt ≤ a.toInt
  | 4 => a.toNat < b.toNat
  | _ => b.toNat ≤ a.toNat

/-- Move an address that a translation gave by some bytes within its page. -/
def Phys.plus : Phys → Nat → Phys
  | .dpa a, n => .dpa (a + n)
  | .rep a set, n => .rep (a + n) set
  | .sys a, n => .sys (a + n)
  | .aperture d o, n => .aperture d (o + n)
  | .queue d g o, n => .queue d g (o + n)

/-- Does one `tb` come before another? `tb` wraps: the half of its range that follows a value is after it (R3; log entry 108). -/
def earlier (a b : Word) : Bool := a ≠ b && (b - a).toNat < 2 ^ 63

/-- The device addresses at which a place lies: those of every replica of a replicated page (R98, R339). -/
def Phys.homes : Phys → List Nat
  | .dpa a => [a]
  | .rep a set => (diesOf set).map (replicaAddr a)
  | _ => []

/-- Do two places share a byte, their lengths given? Replicated ones do where any of their replicas does, whichever pages name them. -/
def overlaps (p : Phys) (n : Nat) (q : Phys) (m : Nat) : Bool :=
  match p, q with
  | .sys a, .sys b => a < b + m && b < a + n
  | _, _ => p.homes.any fun a => q.homes.any fun b => a < b + m && b < a + n

/-- Does an active window whose watermark has not passed them cover one of `n` bytes (R89)? Windows of the operation
`skip` itself do not count (R209). -/
def windowed (s : State) (skip : Option Nat) (p : Phys) (n : Nat) : Bool :=
  s.wins.any fun k => some k.op != skip && k.pieces.any fun pc =>
    let d := k.wm - pc.1
    d < pc.2.2 && overlaps p n (pc.2.1.plus d) (pc.2.2 - d)

/-- The block instances of an instance's image: those that stand, and those that a save of its unit holds (R100, R312). -/
def kinOf (s : State) (it : Inst) : List Inst :=
  ((s.insts ++ ((kget s.saves it.unit).map fun v => v.insts).getD []).filter fun ki => ki.2.unit = it.unit && ki.2.img = it.img).map fun ki => ki.2

/-- The image of an instance, where it is loaded or where a save of its unit holds it. -/
def instImage (s : State) (it : Inst) : Option Image :=
  match (kget s.images it.img).filter fun img => img.unit = it.unit with
  | some img => some img
  | none => (kget s.saves it.unit).bind fun v => kget v.images it.img

/-- The record of an earlier block instance of an instance's thread. -/
def recordOf (s : State) (it : Inst) (bn : Nat × Nat) : Option Inst := (kinOf s it).find? fun j => (j.blk, j.tag) == bn

/-- The deferred effects of a thread that come before an operation of an instance: those of its earlier instances, and of its own those deferred before the
operation was issued (R31, R78). -/
def ownDeferred (s : State) (it : Inst) (x : MemFire) : List Deferred :=
  (it.pre.flatMap fun bn => ((recordOf s it bn).map fun j => j.deferred).getD []) ++ it.deferred.take (x.issued.getD it.deferred.length)

/-- Does a deferred store of its own thread stand between a `monwait` and a location? What memory holds there comes before that store in the location's
order (R78, R79). -/
def ownStoreAt (s : State) (op : Nat) (p : Phys) (n : Nat) : Bool :=
  match s.insts.findSome? fun ki => (ki.2.waiting.find? fun x => x.op = op).map fun x => ownDeferred s ki.2 x with
  | none => false
  | some ds => ds.any fun d => match d with
    | .store _ q bs _ => overlaps p n q bs.length
    | .copy _ _ _ _ _ _ => false

/-- Examine every awaited location after a change of storage or of windows (R180, R250): the first value that satisfies a wait stands. A location
under an active window is not examined: the load of it waits (R89). Nor is one that a deferred store of the waiting thread covers (R78, R79). -/
def wake (s : State) : State :=
  { s with
    watches := s.watches.map fun kw =>
      let v := wordOf (readPhys s kw.2.die kw.2.p kw.2.n)
      if kw.2.hit.isNone && !windowed s none kw.2.p kw.2.n && !(kw.1 % 2 = 1 && ownStoreAt s (kw.1 / 2) kw.2.p kw.2.n) && condHolds kw.2.cond kw.2.bits v kw.2.val then (kw.1, { kw.2 with hit := some v }) else kw }

/-- The 4 KiB pages that bytes touch. -/
def pagesOf (a n : Nat) : List Nat := if n = 0 then [] else (List.range ((a + n - 1) / 4096 - a / 4096 + 1)).map fun i => a / 4096 + i

/-- Was the 64 KiB unit of a page dead at the last instant (R351)? -/
def deadAtInstant (s : State) (p : Nat) : Bool := (s.snap.map fun d => dget false d.dead (p / 16)).getD false

/-- The first write to a page since the instant copies it into the undo log (R351), and fills its slot of a full checkpoint that
is under way (R357). The slot no longer matches the page then. A page of a unit that was dead at the instant is not copied: it is recorded as dead. -/
def logPage (s : State) (p : Nat) : State :=
  let f := s.fc
  let f1 := if f.running.isSome && !f.filled.contains p then
      { f with image := putBytes f.image (4096 * p) (getBytes s.mem (4096 * p) 4096), filled := p :: f.filled }
    else f
  let f2 := if (f.have_ || f.running.isSome || f.kept.contains p) && !f1.stale.contains p then { f1 with stale := p :: f1.stale } else f1
  { s with undo := if deadAtInstant s p then s.undo else kput s.undo p true, fc := f2 }

/-- The code unit that holds a device address, as (address, length): 64 bytes in the capacity tier, 32 elsewhere (R359, Table 16.4). -/
def codeUnit (a : Nat) : Nat × Nat :=
  match regionOf a with
  | .tier _ => (64 * (a / 64), 64)
  | _ => (32 * (a / 32), 32)

/-- Do `n` bytes cover the code unit at 32 times `u`, so that an error in it is written over? -/
def coversUnit (a n u : Nat) : Bool := a ≤ (codeUnit (32 * u)).1 && (codeUnit (32 * u)).1 + (codeUnit (32 * u)).2 ≤ a + n

/-- Write bytes to device memory. The first write to a dead unit revives it with zero content (R228). -/
def writeDpa (s : State) (a : Nat) (bs : List Byte) : State :=
  let s1 := (pagesOf a bs.length).foldl logPage s
  { s1 with mem := putBytes s1.mem a bs, dead := s1.dead.filter fun d => !(d.1 * 65536 < a + bs.length && a < d.1 * 65536 + 65536),
            uce := s1.uce.filter fun e => !coversUnit a bs.length e.1 }

/-- Write bytes where a translation leads (R98: every replica), without waking the waits. -/
def writeRaw (s : State) (p : Phys) (bs : List Byte) : State :=
  match p with
  | .dpa a => writeDpa s a bs
  | .rep a set => (diesOf set).foldl (fun s d => writeDpa s (replicaAddr a d) bs) s
  | .sys a => { s with sysMem := putBytes s.sysMem a bs }
  | _ => s

/-- Write bytes where a translation leads; every wait examines the write. -/
def writePhys (s : State) (p : Phys) (bs : List Byte) : State := wake (writeRaw s p bs)

/-- The device address of the granule of a caddy that an address names, where it names one (R72). A granule of a replicated page has one full/empty
bit, at the replica of the lowest-numbered die (DESIGN CHOICE, log entry 112). -/
def caddyOf (p : Phys) : Option Nat :=
  match p with
  | .dpa a => match regionOf a with | .caddy _ => some a | _ => none
  | .rep a _ => match regionOf a with | .caddy _ => some a | _ => none
  | _ => none

/-- The full/empty bit of a granule (R72): unlisted granules are empty. -/
def isFull (s : State) (a : Nat) : Bool := dget false s.full (a / 16)

/-- Set the full/empty bit of a granule. -/
def setFull (s : State) (a : Nat) (b : Bool) : State := { s with full := dset false s.full (a / 16) b }

/-! ## Registers of a sequencer (R231) -/

/-- Read an s register; s0 reads zero. -/
def WorkUnit.reg (w : WorkUnit) (r : Reg) : Word := if r = 0 then 0 else w.regs[r.toNat]

/-- Write an s register; a write to s0 is discarded (R119). -/
def WorkUnit.setReg (w : WorkUnit) (r : Reg) (v : Word) : WorkUnit :=
  if r = 0 then w else { w with regs := w.regs.set r.toNat v }

/-- Read a predicate. -/
def WorkUnit.pred (w : WorkUnit) (p : Pred) : Bool := w.preds.getLsbD p.toNat

/-- Write a predicate. -/
def WorkUnit.setPred (w : WorkUnit) (p : Pred) (b : Bool) : WorkUnit :=
  let m : BitVec 8 := 1 <<< p.toNat
  { w with preds := if b then w.preds ||| m else w.preds &&& ~~~m }

/-- Read a plane seed register. -/
def WorkUnit.seed (w : WorkUnit) (g : SeedReg) : Word := w.seeds[g.toNat]

/-- Write a plane seed register. -/
def WorkUnit.setSeed (w : WorkUnit) (g : SeedReg) (v : Word) : WorkUnit := { w with seeds := w.seeds.set g.toNat v }

/-- Go on to the next instruction in address order (R121). -/
def WorkUnit.advance (w : WorkUnit) : WorkUnit := { w with pc := w.pc + 4 }

/-- Transfer control: the block of the target is fetched again (R121, R123). -/
def WorkUnit.goto (w : WorkUnit) (t : BitVec 57) : WorkUnit := { w with pc := t, fblock := none }

/-- Does the sequencer execute instructions now: bound, not waiting or ended, no translation withheld, not cancelled? -/
def WorkUnit.running (w : WorkUnit) : Bool :=
  w.life = .bound && w.seq = .run && w.held.isNone && !w.cancelled

/-- Put a unit back. -/
def putUnit (s : State) (u : UnitId) (w : WorkUnit) : State := { s with units := kput s.units u w }

/-- Run a meaning on the current unit's sequencer. A sequencer that waits, has ended or is saved executes nothing. -/
def onUnit (s : State) (f : UnitId → WorkUnit → Res) : Res :=
  match s.cur with
  | none => .fault .noUnit
  | some u =>
    match kget s.units u with
    | none => .fault .noUnit
    | some w => if w.running then f u w else .next s

/-- Write rd and go on: the end of every instruction that only writes a register. -/
def retire (s : State) (u : UnitId) (w : WorkUnit) (rd : Reg) (v : Word) : Res :=
  .next (putUnit s u (w.setReg rd v).advance)

/-! ## Taking an exception at a sequencer, and returning from it (R254, R256) -/

/-- Does the sequencer's handler take the trap: enabled, and not in handler mode (R256)? -/
def WorkUnit.handles (w : WorkUnit) : Bool := !w.hmode && w.hvecEn

/-- Enter the handler (R256): save the resume address, cause and value, set HMODE, go to {VEC, 0b000000}. -/
def WorkUnit.enter (w : WorkUnit) (resume : BitVec 57) (cause : BitVec 16) (val : Word) : WorkUnit :=
  { w with hepc := resume, hcause := cause, hval := val, hmode := true,
           pc := w.hvecVec ++ (0 : BitVec 6), fblock := none, seq := .run, held := none }

/-- The unit ends faulted where no handler takes the trap (R256): its sequencer stops for good. -/
def WorkUnit.die (w : WorkUnit) (cause : BitVec 16) : WorkUnit :=
  { w with seq := .dead, held := none, faulted := true, cause := if w.faulted then w.cause else cause }

/-- Return from the handler (R254). -/
def WorkUnit.leave (w : WorkUnit) : WorkUnit :=
  { w with hmode := false, pc := w.hepc.extractLsb' 2 55 ++ (0 : BitVec 2), fblock := none }

end Machine
end Sys2Proof
end

