-- ==== Sys2Proof/Machine/Access.lean ====
section
/-! DEFINITION. Accesses to virtual memory: windows and mode changes that hold them back (R89, R309), the pages of a range
(R70, R337–R339), lost pages (R356), full undo logs (R353), and reads and writes of whole ranges by sequencers, engines
and the management cores. -/

namespace Sys2Proof.Machine

/-- `data.poison`. -/
def cDataPoison : BitVec 16 := 0x20
/-- The poison cause of a cancelled copy or poison permit, `copy.cancel`. -/
def cCopyCancel : BitVec 16 := 0x21
/-- The poison cause of a journal entry that could not be placed, `jnl.lost`. -/
def cJnlLost : BitVec 16 := 0x23

/-- Does an access wait for a capacity-tier mode change (R309)? -/
def tierBusy (s : State) (p : Phys) : Bool :=
  p.homes.any fun a => match regionOf a with | .tier st => (kget s.ctBusy st).isSome | _ => false

/-- Does an access touch a lost page (R356), or a host line whose data a dirty cache-mode line has lost (R354)? -/
def touchesLost (s : State) (p : Phys) (n : Nat) : Bool :=
  match p with
  | .sys a => s.lostLines.any fun l => 64 * l.1 < a + n && a < 64 * l.1 + 64
  | .dpa a => (pagesOf a n).any fun q => (kget s.lost q).isSome
  | .rep a set => (diesOf set).any fun d => (pagesOf (replicaAddr a d) n).any fun q => (kget s.lost q).isSome
  | _ => false

/-- The stack whose undo log holds a page, for pages of HBM and of the peer range (R351). -/
def undoStack (page : Nat) : Option Nat :=
  match regionOf (4096 * page) with
  | .hbm st => some st
  | .tier st => some st
  | _ => none

/-- The pages that the undo log of a stack holds. -/
def undoCount (s : State) (st : Nat) : Nat := (s.undo.filter fun p => undoStack p.1 = some st).length

/-- Does a write wait because a first write to a page finds the undo log of its stack full apart from the reserve (R353)?
13 GiB of pages of 4 KiB are 3,407,872. -/
def undoFull (s : State) (p : Phys) (n : Nat) : Bool :=
  let full (q : Nat) : Bool := (kget s.undo q).isNone && !deadAtInstant s q && match undoStack q with
    | some st => 3407872 ≤ undoCount s st
    | none => false
  match p with
  | .dpa a => (pagesOf a n).any full
  | .rep a set => (diesOf set).any fun d => (pagesOf (replicaAddr a d) n).any full
  | _ => false

/-- Does the translation of an address use an entry among `n` bytes? -/
def usesEntry (s : State) (asid : BitVec 12) (va : Nat) (p : Phys) (n : Nat) : Bool :=
  match kget s.roots asid.toNat with
  | none => false
  | some root => (walkEntries s.mem (va % 2 ^ 57) levels root).any fun a => overlaps p n (.dpa a) 8

/-- Is one of an instance's deferred stores, those to an aperture among them, translated by an entry among `n` bytes? -/
def instUses (s : State) (u : UnitId) (it : Inst) (p : Phys) (n : Nat) : Bool :=
  it.deferred.any fun d => match d with
    | .store va _ _ _ | .copy va _ _ _ _ _ => ((kget s.units u).map fun w => usesEntry s w.asid va p n).getD false

/-- Does a write to a translation entry wait for the stores that have been translated with its older value and are not performed (R340)? Those of
the instance `skip` do not count. -/
def entryHeld (s : State) (skip : Option Nat) (p : Phys) (n : Nat) : Bool :=
  (s.insts.any fun x => some x.1 != skip && instUses s x.2.unit x.2 p n) || s.saves.any fun v => v.2.insts.any fun x => instUses s v.1 x.2 p n

/-- Does a write wait: for a mode change (R309), a full undo log (R353), or stores translated with an entry that it changes (R340)? -/
def writeHeld (s : State) (skip : Option Nat) (p : Phys) (n : Nat) : Bool := tierBusy s p || undoFull s p n || entryHeld s skip p n

/-- The kind of an access that met a translation fault: the first that meets it at the address. -/
def faultAccess (s : State) (asid : BitVec 12) (cause : BitVec 16) (va : Nat) : Access :=
  let meets (a : Access) : Bool := match translate s asid va a with
    | .bad c => c = cause
    | .ok _ => false
  if meets .read then .read else if meets .write then .write else .atomic

/-- Is a fault one that the MC services by walking again (R332)? -/
def walksAgain (cause : BitVec 16) : Bool := cause = cXlatMiss || cause = cXlatProt

/-- What a re-walk finds of a withheld access (R332): nothing to do yet, a walk that succeeds, or one that fails again. A walk that meets a lost page lets
the access go on, which then meets it too (R356). -/
inductive Rewalk where
  | early
  | walks
  | fails
deriving DecidableEq, Repr

/-- Re-walk a withheld access, 10 µs after the last walk. -/
def rewalk (s : State) (asid : BitVec 12) (f : BitVec 16 × Word × Word × Access) : Rewalk :=
  if !walksAgain f.1 || (s.tb - f.2.2.1).toNat < 10000 then .early
  else match translate s asid f.2.1.toNat f.2.2.2 with
    | .ok _ => .walks
    | .bad c => if c = cMemUce then .walks else .fails

/-- The answer of an access: done, a fault at an address, or a wait before any effect, on bytes under active windows where it is a load that they
hold back (R89). -/
inductive Got (α : Type) where
  | ok (x : α)
  | bad (cause : BitVec 16) (va : Nat)
  | waits (on : List (Phys × Nat))
deriving Repr

/-- Go on with the answer of an access. -/
def Got.bind {α β : Type} : Got α → (α → Got β) → Got β
  | .ok x, f => f x
  | .bad c va, _ => .bad c va
  | .waits on, _ => .waits on

/-- What an access gives, or something else where it gives nothing. -/
def Got.getD {α : Type} : Got α → α → α
  | .ok x, _ => x
  | _, d => d

/-- Change the answer of an access. -/
def Got.map {α β : Type} (f : α → β) (g : Got α) : Got β := g.bind fun x => .ok (f x)

/-- The pieces of a range, at most a 64 KiB page each, as (offset, address, length). -/
def chunks : Nat → Nat → Nat → Nat → List (Nat × Nat × Nat)
  | 0, _, _, _ => []
  | f + 1, off, va, n =>
    if n = 0 then []
    else
      let k := min n (65536 - va % 65536)
      (off, va % 2 ^ 57, k) :: chunks f (off + k) (va + k) (n - k)

/-- Translate one piece for an access of memory: aperture and queue pages are not memory (R242, R339). -/
def place (s : State) (asid : BitVec 12) (va n : Nat) (acc : Access) : Got Phys :=
  match translate s asid va acc with
  | .bad c => .bad c va
  | .ok (.aperture _ _) => .bad cMemAttr va
  | .ok (.queue _ _ _) => .bad cMemAttr va
  | .ok p => if storeBarred s acc p n then .bad cMemAttr va else if touchesLost s p n then .bad cMemUce va else .ok p

/-- Translate every piece of a range: (offset, place, length). -/
def places (s : State) (asid : BitVec 12) (acc : Access) : List (Nat × Nat × Nat) → Got (List (Nat × Phys × Nat))
  | [] => .ok []
  | (off, va, n) :: rest =>
    (place s asid va n acc).bind fun p => (places s asid acc rest).map fun ps => (off, p, n) :: ps

/-- Translate a range of `n` bytes. -/
def mapRange (s : State) (asid : BitVec 12) (va n : Nat) (acc : Access) : Got (List (Nat × Phys × Nat)) :=
  places s asid acc (chunks (n / 65536 + 2) 0 va n)

/-- Read `n` bytes at a virtual address from a die: waits on windows other than those of `skip` (R89). -/
def loadVa (s : State) (asid : BitVec 12) (die va n : Nat) (skip : Option Nat) : Got (List Byte) :=
  (mapRange s asid va n .read).bind fun ps =>
    let on := (ps.filter fun x => windowed s skip x.2.1 x.2.2).map fun x => (x.2.1, x.2.2)
    if !on.isEmpty || ps.any fun x => tierBusy s x.2.1 then .waits on
    else .ok (ps.flatMap fun x => readPhys s die x.2.1 x.2.2)

/-- Mark a job external in the interval when one of its agents acts on a system target (R355). -/
def markExternal (s : State) (job : Nat) (p : Phys) : State :=
  match p with
  | .sys _ => { s with jobs := kmod s.jobs job fun j => { j with external := true } }
  | _ => s

/-- Write bytes at a virtual address. `by_` names the job whose agent writes; the device's own writes name none (R355). -/
def storeVa (s : State) (asid : BitVec 12) (by_ : Option Nat) (va : Nat) (bs : List Byte) : Got State :=
  (mapRange s asid va bs.length .write).bind fun ps =>
    if ps.any fun x => writeHeld s none x.2.1 x.2.2 then .waits []
    else .ok (ps.foldl (fun s x =>
      let s1 := writePhys s x.2.1 ((bs.drop x.1).take x.2.2)
      match by_ with
      | some j => markExternal s1 j x.2.1
      | none => s1) s)

/-- Would a write wait (R309, R340, R353)? One that faults does not. -/
def storeWaits (s : State) (asid : BitVec 12) (va n : Nat) : Bool :=
  match mapRange s asid va n .write with
  | .ok ps => ps.any fun x => writeHeld s none x.2.1 x.2.2
  | _ => false

/-- Does a change of a stack's mode hold a write back (R309)? -/
def tierWaits (s : State) (asid : BitVec 12) (va n : Nat) : Bool :=
  match mapRange s asid va n .write with
  | .ok ps => ps.any fun x => tierBusy s x.2.1
  | _ => false

/-- Write bytes into a job's save area or fault ring: stores that a full undo log does not hold back (R351). A change of a stack's mode holds them
back: they are owed until it completes (R309). -/
def storeExempt (s : State) (asid : BitVec 12) (va : Nat) (bs : List Byte) : Got State :=
  (mapRange s asid va bs.length .write).map fun ps =>
    if ps.any fun x => tierBusy s x.2.1 then { s with owed := s.owed ++ [(asid, va, bs)] }
    else ps.foldl (fun s x => writePhys s x.2.1 ((bs.drop x.1).take x.2.2)) s

/-- Read an 8-byte word. -/
def loadWord (s : State) (asid : BitVec 12) (die va : Nat) : Got Word := (loadVa s asid die va 8 none).map wordOf

/-- Has a job been killed, or gone (R101)? -/
def jobKilled (s : State) (job : Nat) : Bool := ((kget s.jobs job).map fun j => j.killed).getD true

/-- Write a completion object of a job's operation (R191): the write of a killed job that faults is dropped. -/
def storeObj (s : State) (job : Nat) (asid : BitVec 12) (va : Nat) (bs : List Byte) : Got State :=
  match storeVa s asid none va bs with
  | .bad c a => if jobKilled s job then .ok s else .bad c a
  | r => r

/-- A word as 8 bytes. -/
def wordBytes (w : Word) : List Byte := leBytes 8 w.toNat

/-! ## CRC-32C -/

/-- One byte of a reflected CRC-32C (polynomial 0x82F63B78). -/
def crcByte (c : BitVec 32) (b : Byte) : BitVec 32 :=
  (List.range 8).foldl (fun c _ => if c.getLsbD 0 then (c >>> 1) ^^^ 0x82F63B78 else c >>> 1) (c ^^^ b.setWidth 32)

/-- The CRC-32C of some bytes. -/
def crc32c (bs : List Byte) : BitVec 32 := ~~~(bs.foldl crcByte 0xFFFFFFFF)

end Sys2Proof.Machine
end

