-- ==== Sys2Proof/Machine/Records.lean ====
section
/-! DEFINITION. Handles of levels (R305), fault records (R329, R330), and MSI-X messages (R278). -/

namespace Sys2Proof.Machine

/-! ## Chains and task queues (R193) -/

/-- The key of a chain (R193). -/
def chainKey (k : ChainId) : Nat :=
  256 * (match k.kind with | .gre => 0 | .qe => 1 | .nmc => 2 | .mxq => 3) + 64 * k.die + k.num

/-- The chain of a key. -/
def chainIdOf (n : Nat) : ChainId :=
  { kind := match n / 256 with | 0 => .gre | 1 => .qe | 2 => .nmc | _ => .mxq, die := n / 64 % 4, num := n % 64 }

/-- A chain. -/
def chainOf (s : State) (k : ChainId) : Chain := dget Chain.initial s.chains (chainKey k)
/-- Put a chain back. -/
def putChain (s : State) (k : ChainId) (c : Chain) : State := { s with chains := dset Chain.initial s.chains (chainKey k) c }
/-- Change the binding of a chain. -/
def modBound (s : State) (k : ChainId) (f : Bound → Bound) : State :=
  { s with chains := kmod s.chains (chainKey k) fun c => { c with bound := c.bound.map f } }

/-! ## Handles (Table 13.13) -/

/-- The handle of a unit. -/
def unitHandle (job : Nat) (tp : Tp) : Word :=
  BitVec.ofNat 64 (job % 65536 * 2 ^ 44 + tp.die * 2 ^ 41 + tp.tile * 2 ^ 35 + tp.plane * 2 ^ 32)

/-- The handle of a launch: its node, or NONODE (R305). -/
def launchHandle (p : Packet) : Word :=
  BitVec.ofNat 64 (2 ^ 60 + p.job % 65536 * 2 ^ 44 + p.die * 2 ^ 41 + (if p.nv then p.node else 2 ^ 13))

/-- The handle of the launch of a number, or 0. -/
def handleOfLaunch (s : State) (l : Nat) : Word := ((kget s.launches l).map fun x => launchHandle x.pkt).getD 0

/-- The handle of a unit, or 0. -/
def handleOfUnit (s : State) (u : UnitId) : Word := ((kget s.units u).map fun w => unitHandle w.job w.tp).getD 0

/-! ## Messages -/

/-- Raise an MSI-X vector of a function. -/
def raiseMsix (s : State) (f : PcieFn) (v : Nat) : State := { s with msix := (f, v) :: s.msix }

/-- Raise the vector of a queue, when it is set. -/
def raiseQueue (s : State) (q : Nat) : State :=
  match kget s.queues q with
  | some x => match x.vec with
    | some v => raiseMsix s x.fn v
    | none => s
  | none => s

/-! ## Fault records -/

/-- The codes of a token's class in a token entry and in memory (R12). -/
def classCode : TokClass → Nat
  | .data => 0
  | .control => 1
  | .header => 2
  | .poison => 3

/-- A token entry (Table 14.3): word 0 without class and mask, and the token. -/
def tokenEntry (loc : Nat) (t : Token) : List Byte :=
  leBytes 8 (loc + classCode t.cls * 2 ^ 30 + t.mask.toNat * 2 ^ 34) ++
    ((List.range 16).flatMap fun i => leBytes 5 (t.lane i).toNat) ++ leBytes 8 0

/-- The place of a token in a token entry: consumer block, router mark, slot, port, stream-port mark, latch mark and position. -/
def tokenLoc (blk : Nat) (rtr : Bool) (slot port : Nat) (sport latch : Bool) (pos : Nat) : Nat :=
  blk % 4096 + rtr.toNat * 2 ^ 12 + slot % 32 * 2 ^ 13 + port % 4 * 2 ^ 18 + sport.toNat * 2 ^ 20 + latch.toNat * 2 ^ 21 + pos % 256 * 2 ^ 22

/-- The fields of a fault record (Table 14.6). -/
structure FaultRec where
  cause : BitVec 16
  src : Nat
  handle : Word
  where_ : Nat
  graphid : Word
  cfgw : Word
  rtrw : Word
  val : Word
  val2 : Word
  toks : List (List Byte)
deriving Repr

/-- A fault record with no element, words or tokens. -/
def FaultRec.plain (cause : BitVec 16) (src : Nat) (handle val : Word) : FaultRec :=
  { cause := cause, src := src, handle := handle, where_ := 0, graphid := 0, cfgw := 0, rtrw := 0, val := val, val2 := 0, toks := [] }

/-- WHERE of SRC 0 to 2. A spare has no address (R9): what stands for it is open. -/
def whereElem (die tile elem plane : Nat) (bsel : Bool) (slot blk : Nat) : Nat :=
  let e := if elem < 64 then elem else (Config.spareWhere elem).toNat
  die % 4 + tile % 8 * 4 + tile / 8 % 8 * 32 + e * 256 + plane % 8 * 2 ^ 14 + bsel.toNat * 2 ^ 17 +
    slot % 32 * 2 ^ 18 + blk % 4096 * 2 ^ 23

/-- WHERE of SRC 3: die, engine kind, and instance, channel, chain or queue. -/
def whereEng (die kind num : Nat) : Nat := die % 4 + kind % 16 * 16 + num % 256 * 256

/-- The engine kinds of WHERE. -/
def engineKind : Engine → Nat
  | .sheave => 0
  | .bte => 1
  | .gre => 2
  | .qe => 3
  | .mxe => 4
  | .nmc => 5
  | .base => 6
  | .any => 6
  | .jnl => 6

/-- The 512 bytes of a fault record. -/
def FaultRec.bytes (r : FaultRec) (tb : Word) : List Byte :=
  let toks := r.toks.take 4
  let head := leBytes 2 r.cause.toNat ++ leBytes 1 r.src ++ leBytes 1 toks.length ++ leBytes 4 0 ++ wordBytes r.handle ++
    wordBytes tb ++ leBytes 8 r.where_ ++ wordBytes r.graphid ++ wordBytes r.cfgw ++ wordBytes r.rtrw ++ wordBytes r.val ++
    wordBytes r.val2 ++ leBytes 56 0
  let body := toks.flatMap id
  head ++ body ++ List.replicate (384 - body.length) 0

/-- Decide the kill of a job (R101); it is carried out when the step settles. -/
def doomJob (s : State) (job : Nat) (cause : BitVec 16) : State :=
  { s with jobs := kmod s.jobs job fun j => if j.killed ∨ j.doom.isSome ∨ j.level.complete then j else { j with doom := some cause } }

/-- A write of the device on a job's behalf that need not wait (R307, R290): it is dropped where its address does not translate, and a lost page kills the
job (R356). -/
def storeOr (s : State) (job : Nat) (asid : BitVec 12) (va : Nat) (bs : List Byte) : State :=
  match storeVa s asid none va bs with
  | .ok s1 => s1
  | .bad c _ => if c = cMemUce then doomJob s job cMemUce else s
  | .waits _ => s

/-- Put a fault record into the ring of a job, then FHEAD, and raise the vector of the root queue (R330). -/
def putRecord (s : State) (job : Nat) (j : Job) (root : Option Nat) (r : FaultRec) : Got State :=
  (storeExempt s j.asid (j.savea + 0x1000 + 512 * (j.fhead % 256)) (r.bytes s.tb)).bind fun s1 =>
    (storeExempt { s1 with jobs := kput s1.jobs job { j with fhead := j.fhead + 1 } } j.asid (j.savea + 0x18) (leBytes 8 (j.fhead + 1))).map fun s2 =>
      match root with
      | some q => raiseQueue s2 q
      | none => s2

/-- A store into the save area of a job has failed at an address: `save.fault` kills the context, with a record where the save area still allows one
(R318, Table 14.5). -/
def saveFault (s : State) (job : Nat) (root : Option Nat) (handle : Word) (va : Nat) : State :=
  match kget s.jobs job with
  | none => s
  | some j =>
    doomJob (if j.killed ∨ j.doom.isSome then s else (putRecord s job j root (FaultRec.plain 0x50 4 handle (BitVec.ofNat 64 va))).getD s) job 0x50

/-- Write a fault record (R330). A store that faults kills the context with `save.fault` (R318). -/
def writeRecord (s : State) (job : Nat) (root : Option Nat) (r : FaultRec) : State :=
  match kget s.jobs job with
  | none => s
  | some j =>
    match putRecord s job j root r with
    | .ok s1 => s1
    | .bad _ va => saveFault s job root r.handle va
    | .waits _ => s

/-- The first fault among the units of a launch gives its cause (R307). -/
def launchFaults (s : State) (w : WorkUnit) (cause : BitVec 16) : State :=
  { s with launches := kmod s.launches w.launch fun l => if l.cause = 0 then { l with cause := cause } else l }

/-- A unit is marked faulted for a cause (R331, R307). -/
def markFaulted (s : State) (u : UnitId) (w : WorkUnit) (cause : BitVec 16) : State :=
  launchFaults { s with units := kput s.units u { w with faulted := true, cause := if w.faulted then w.cause else cause } } w cause

/-- GRAPHID of the image on a unit's tile-plane, or 0 (R329). -/
def graphOf (s : State) (w : WorkUnit) : Word := ((kget s.images w.tp.key).map fun img => img.graphid).getD 0

/-- The queue from which the root launch of a launch came (R330). -/
def rootOf (s : State) (l : Option Nat) : Option Nat := (l.bind fun x => kget s.launches x).bind fun x => x.root

/-- The first queue of a job, for work that came from no queue. -/
def firstQueue (s : State) (job : Nat) : Option Nat := (s.queues.find? fun q => q.2.job = job).map fun q => q.1

/-- Write NUNIT; a store that faults kills the context (R318), unless it is killed already. -/
def setNunit (s : State) (job n : Nat) : State :=
  match kget s.jobs job with
  | none => s
  | some j =>
    let s1 := { s with jobs := kput s.jobs job { j with nunit := n } }
    match storeExempt s1 j.asid (j.savea + 0x20) (leBytes 8 n) with
    | .ok s2 => s2
    | .bad _ va => if j.killed then s1 else saveFault s1 job (firstQueue s1 job) 0 va
    | .waits _ => s1

/-- Write the record of a sequencer's trap or fault (SRC 2). -/
def recordSeq (s : State) (w : WorkUnit) (cause : BitVec 16) (word : BitVec 32) (val val2 : Word) : State :=
  writeRecord s w.job (rootOf s (some w.launch))
    { FaultRec.plain cause 2 (unitHandle w.job w.tp) val with
      where_ := whereElem w.tp.die w.tp.tile 0 w.tp.plane false 0 0, graphid := graphOf s w, cfgw := word.setWidth 64, val2 := val2 }

/-- The slot of an entry. -/
def Bound.slot (b : Bound) (n : Nat) : Nat := (n - 1) % b.nent

/-- The address of an entry or record. -/
def Bound.entryVa (b : Bound) (mx : Bool) (n : Nat) : Nat := (b.ring + (if mx then 64 else 32) * b.slot n) % 2 ^ 57

/-- The number of the chain or queue of an entry, and the entry's address (Table 14.6): VAL2 of its records. -/
def EngOp.entryPlace (s : State) (o : EngOp) : Option (Nat × Nat) :=
  match o.iss with
  | .seq _ => none
  | .chain k e => (chainOf s k).bound.map fun b => (k.num, b.entryVa (match k.kind with | .mxq => true | _ => false) e)

/-- Write the record of an engine operation's fault (SRC 3); `num` is its instance or channel, where no chain or queue holds it. -/
def recordEng (s : State) (o : EngOp) (num : Nat) (cause : BitVec 16) (val : Word) : State :=
  let e := o.entryPlace s
  writeRecord s o.job (match rootOf s o.launch with | some q => some q | none => firstQueue s o.job)
    { FaultRec.plain cause 3 ((o.launch.map (handleOfLaunch s)).getD 0) val with
      graphid := ((o.unit.bind fun u => kget s.units u).map (graphOf s)).getD 0
      where_ := whereEng o.die (engineKind o.row) ((e.map fun x => x.1).getD num), val2 := BitVec.ofNat 64 ((e.map fun x => x.2).getD 0) }

end Sys2Proof.Machine
end

