-- ==== Sys2Proof/Machine/Levels.lean ====
section
/-! DEFINITION. Work levels (R38, R40), the dependence table (R296–R298), completion of launches (R295, R307), and what ends
with a unit. -/

namespace Sys2Proof.Machine

/-! ## Counters of a job (R38) -/

/-- A child of a level has ended with a status. -/
def Level.childEnds (l : Level) (st : LvlStatus) : Level := { l with count := l.count - 1, status := l.status.worst st }

/-- A child of a level has been added. -/
def Level.childAdded (l : Level) : Level := { l with count := l.count + 1, complete := false }

/-- Is the level about to complete: closed, its counter zero, and not complete yet (R38)? -/
def Level.ripe (l : Level) : Bool := l.closed && l.count = 0 && !l.complete

/-- The key of a graph of a phase. -/
def graphKey (phase graph : Nat) : Nat := phase * 2 ^ 32 + graph

/-- Complete the graphs that are ripe, each decrementing its phase. -/
def Job.settleGraphs (j : Job) : Job :=
  j.graphs.foldl (fun j g =>
    if g.2.ripe then
      { j with graphs := kput j.graphs g.1 { g.2 with complete := true }
               phases := kmod j.phases (g.1 / 2 ^ 32) fun p => p.childEnds g.2.status }
    else j) j

/-- Complete the phases that are ripe, each decrementing the job. -/
def Job.settlePhases (j : Job) : Job :=
  j.phases.foldl (fun j p =>
    if p.2.ripe then
      { j with phases := kput j.phases p.1 { p.2 with complete := true }, level := j.level.childEnds p.2.status }
    else j) j

/-- Complete every level of a job that is ripe, from the graphs upward (LEVEL_COMPLETE, R38). `busy` says that operations of a killed job have still
to end, before which the kill is not reported (R101). -/
def Job.settle (j : Job) (busy : Bool) : Job :=
  let j1 := j.settleGraphs.settlePhases
  if j1.level.ripe && !busy then { j1 with level := { j1.level with complete := true } } else j1

/-- What ends with a job: its FX128 regions (R198), its bindings of chains and queues, and its accumulators. -/
def endJobState (s : State) (job : Nat) : State :=
  { s with
    fxregs := s.fxregs.filter fun r => r.job ≠ job
    chains := s.chains.map fun c => match c.2.bound with
      | some b => if b.job = job then (c.1, { c.2 with bound := none }) else c
      | none => c
    mxes := s.mxes.map fun m => match m.2.acc with
      | some a => if a.job = job then (m.1, { m.2 with acc := none }) else m
      | none => m
    spilled := s.spilled.filter fun a => a.job ≠ job }

/-- Have operations of a killed job still to end (R101)? -/
def killBusy (s : State) (job : Nat) (j : Job) : Bool := j.killed && s.ops.any fun o => o.2.job = job

/-- Settle a job; an ASID keeps its root until its last job completes (R341). -/
def settleJob (s : State) (job : Nat) : State :=
  match kget s.jobs job with
  | none => s
  | some j =>
    let j1 := j.settle (killBusy s job j)
    let s1 := { s with jobs := kput s.jobs job j1 }
    if j1.level.complete && !j.level.complete then
      let s2 := endJobState s1 job
      if s2.jobs.any fun x => x.2.asid = j.asid && !x.2.level.complete then s2 else { s2 with roots := kdel s2.roots j.asid.toNat }
    else s1

/-! ## Nodes (R296, R297) -/

/-- The key of a node. -/
def nodeKey (die node : Nat) : Nat := 8192 * die + node

/-- A node that is armed and whose COUNT is 0 becomes ready. -/
def Node.decide (n : Node) : Node := if n.st = .armed ∧ n.count = 0 then { n with st := .ready } else n

/-- A completion event at a node (R296): none where it is dropped. -/
def Node.event (n : Node) (bad : Bool) : Option Node :=
  if n.st = .ready ∨ n.st = .running then none
  else some ({ n with count := n.count - 1, bad := n.bad || bad } : Node).decide

/-- A packet arms a node (R296). -/
def Node.arm (n : Node) (npred : BitVec 16) (launch : Nat) : Node :=
  ({ n with count := n.count + npred, st := .armed, launch := some launch } : Node).decide

/-- A completion event of a launch reaches a node of its job; a dropped event sets DEPERR and writes a record (R297). -/
def nodeEvent (s : State) (lid job : Nat) (bad : Bool) (dn : Nat × Nat) : State :=
  match (dget Node.initial s.nodes (nodeKey dn.1 dn.2)).event bad with
  | some n => { s with nodes := dset Node.initial s.nodes (nodeKey dn.1 dn.2) n }
  | none =>
    let s1 := { s with jobs := kmod s.jobs job fun j => { j with deperr := true } }
    writeRecord s1 job (rootOf s (some lid))
      (FaultRec.plain 0x41 4 (handleOfLaunch s lid) (BitVec.ofNat 64 (dn.1 + 4 * dn.2)))

/-! ## Launches -/

/-- Change a launch. -/
def modLaunch (s : State) (l : Nat) (f : Launch → Launch) : State := { s with launches := kmod s.launches l f }

/-- Has every earlier packet of its queue completed (R294)? -/
def barMet (s : State) (l : Launch) : Bool :=
  !l.pkt.bar || match l.src with
    | .queue q n => !(s.launches.any fun x => !x.2.complete && match x.2.src with
        | .queue q' n' => q' = q && n' < n
        | _ => false)
    | _ => true

/-- Is a launch ready: in the pool, its node ready or running where it has one, and its BAR met (R294, R296)? -/
def launchReady (s : State) (lid : Nat) (l : Launch) : Bool :=
  l.entry.isSome && !l.complete && barMet s l &&
    (!l.pkt.nv ||
      let n := dget Node.initial s.nodes (nodeKey l.pkt.die l.pkt.node)
      n.launch = some lid && (n.st = .ready || n.st = .running))

/-- Did a predecessor of the launch end faulted or cancelled (R298)? -/
def launchBad (s : State) (l : Launch) : Bool :=
  l.pkt.nv && (dget Node.initial s.nodes (nodeKey l.pkt.die l.pkt.node)).bad

/-- Does a launch's completion record wait to be written (R307, R353)? -/
def crecWaits (s : State) (l : Launch) : Bool := l.pkt.crec ≠ 0 && storeWaits s l.asid l.pkt.crec.toNat 16

/-- The status with which a launch completes now, if it completes (R38, R292, R298). -/
def completable (s : State) (lid : Nat) (l : Launch) : Option LvlStatus :=
  if l.complete || crecWaits s l then none
  else if l.closed && l.count = 0 then some l.status
  else if launchReady s lid l && l.count = 0 && !l.closed then
    if launchBad s l then some (LvlStatus.worst l.status .cancelled)
    else if l.pkt.kind = 2 then some l.status
    else none
  else none

/-- The queue that a launch was accepted from. -/
def LaunchSrc.queue? : LaunchSrc → Option Nat
  | .queue q _ => some q
  | .handler q => some q
  | .unit _ => none

/-- Write a launch's completion record (R307), whether or not its address can be written. -/
def writeCrec (s : State) (l : Launch) (st : LvlStatus) : State :=
  if l.pkt.crec = 0 then s
  else storeOr s l.pkt.job l.asid l.pkt.crec.toNat
    (wordBytes (launchHandle l.pkt) ++ wordBytes (BitVec.ofNat 64 (st.code + l.cause.toNat * 65536)))

/-- A launch completes (R38, R296, R298, R307): its node, completion record, vector and watchdog, its successors, and its graph. -/
def completeLaunch (s : State) (lid : Nat) (l : Launch) (st : LvlStatus) : State :=
  let s1 := modLaunch s lid fun x => { x with complete := true, closed := true, entry := none, toBind := [], status := st }
  let s2 := if l.pkt.nv then
      { s1 with nodes := kmod s1.nodes (nodeKey l.pkt.die l.pkt.node) fun n =>
          if n.launch = some lid then { n with st := .complete, bad := false } else n }
    else s1
  let s3 := writeCrec s2 l st
  let s4 := match l.src with
    | .queue q _ => { s3 with queues := kmod s3.queues q fun x => { x with wdCount := 0 } }
    | _ => s3
  let s5 := if l.pkt.intr then (match l.src.queue? with | some q => raiseQueue s4 q | none => s4) else s4
  let s6 := l.pkt.succ.foldl (fun s dn => nodeEvent s lid l.pkt.job (st ≠ .done) dn) s5
  let s7 := { s6 with jobs := kmod s6.jobs l.pkt.job fun j =>
      { j with graphs := kmod j.graphs (graphKey l.pkt.phase l.pkt.graph) fun g => g.childEnds st } }
  settleJob s7 l.pkt.job

/-- A launch enters the pool (R299, R300): it counts in its graph, and its packet arms its node (R38, R296). -/
def enterPool (s : State) (lid : Nat) (l : Launch) (entry : Nat) : State :=
  let p := l.pkt
  let s1 := modLaunch s lid fun x => { x with entry := some entry }
  let s2 := { s1 with jobs := kmod s1.jobs p.job fun j =>
      let k := graphKey p.phase p.graph
      let fresh := match kget j.graphs k with | none => true | some g => g.complete
      let g := if fresh then Level.fresh.childAdded else ((kget j.graphs k).getD Level.fresh).childAdded
      let ph := (kget j.phases p.phase).getD Level.fresh
      { j with graphs := kput j.graphs k { g with closed := g.closed || p.last }
               phases := kput j.phases p.phase (if fresh then ph.childAdded else ph) } }
  if p.nv then
    let k := nodeKey p.die p.node
    { s2 with nodes := dset Node.initial s2.nodes k ((dget Node.initial s2.nodes k).arm p.npred lid)
              jobs := kmod s2.jobs p.job fun j => { j with armed := kput j.armed k lid } }
  else s2

/-- The entries of a die's pool that launches hold. -/
def heldEntries (s : State) (die : Nat) : List Nat :=
  s.launches.filterMap fun x => if x.2.pkt.die = die then x.2.entry else none

/-- The lowest free pool entry of a die in a range. -/
def freeEntry (s : State) (die lo hi : Nat) : Option Nat :=
  let held := heldEntries s die
  ((List.range (hi - lo)).map fun i => lo + i).find? fun e => !held.contains e

/-- A free entry outside the reserve, and one of the reserve (R299). -/
def freeOutside (s : State) (die : Nat) : Option Nat := freeEntry s die 0 1984
/-- How many entries outside the reserve are free. -/
def freeOutsideCount (s : State) (die : Nat) : Nat := 1984 - ((heldEntries s die).filter fun e => e < 1984).length
/-- A free entry of the reserve (R299). -/
def freeReserve (s : State) (die : Nat) : Option Nat := freeEntry s die 1984 2048

/-- Move the oldest spilled launch of a die into a free entry (R300). -/
def unspill (s : State) (die : Nat) : State :=
  match (kget s.spills die).getD [] with
  | [] => s
  | lid :: rest =>
    match kget s.launches lid with
    | none => { s with spills := kput s.spills die rest }
    | some l =>
      let e := match freeOutside s die with
        | some e => some e
        | none => if l.srcCpath then freeReserve s die else none
      match e with
      | none => s
      | some e => enterPool { s with spills := if rest.isEmpty then kdel s.spills die else kput s.spills die rest } lid l e

/-- Move spilled launches of every die while entries are free. -/
def unspillAll (s : State) : State :=
  s.spills.foldl (fun s d => d.2.foldl (fun s _ => unspill s d.1) s) s

/-- Complete launches until none is left that completes (R38, R292, R298). -/
def settleLaunches : Nat → State → State
  | 0, s => s
  | f + 1, s =>
    match s.launches.find? fun x => (completable s x.1 x.2).isSome with
    | none => unspillAll s
    | some (lid, l) => settleLaunches f (completeLaunch s lid l ((completable s lid l).getD .done))

/-- Let every launch that completes complete. -/
def settleLevels (s : State) : State := settleLaunches (2 * s.launches.length + 2) s

/-- Launches whose completion has waited complete, where they may. -/
def retryLaunches (s : State) : State := if s.launches.any fun x => (completable s x.1 x.2).isSome then settleLevels s else s

/-! ## Units -/

/-- The tile-planes that show BOUND for a unit. -/
def slotsOf (s : State) (u : UnitId) : List Nat := (s.slots.filter fun x => x.2.unit = some u).map fun x => x.1

/-- Clear BOUND on every tile-plane of a unit (R246, R312). -/
def unbindSlots (s : State) (u : UnitId) : State :=
  { s with slots := s.slots.map fun x => if x.2.unit = some u then (x.1, { x.2 with bound := false, entry := 0, unit := none }) else x }

/-- The tile-plane that `ahalt` of a die names; PLANE 5 to 7 names none (R10, R274). -/
def haltKey (die : Nat) (v : Word) : Option Nat :=
  let p := (v.extractLsb' 59 3).toNat
  if p < 5 then some (320 * die + 5 * (v.extractLsb' 53 6).toNat + p) else none

/-- EN of `ahalt` is cleared when the unit on the named tile-plane is saved, cancelled or completes (R274). -/
def clearHalts (s : State) (u : UnitId) : State :=
  { s with ahalt := s.ahalt.map fun a => if (haltKey a.1 a.2).any (slotsOf s u).contains then (a.1, a.2 &&& ~~~((1 : Word) <<< 63)) else a }

/-- A unit ends with a status (R39, R40): its slots are free, and its launch's counter falls by one. -/
def unitEnds (s : State) (u : UnitId) (w : WorkUnit) (st : LvlStatus) : State :=
  let s0 := clearHalts s u
  let s1 := { unbindSlots s0 u with jobs := kmod s0.jobs w.job fun j => { j with ended := kput j.ended w.tp.key st } }
  let s2 := modLaunch s1 w.launch fun l => { l with count := l.count - 1, status := l.status.worst st }
  settleLevels { s2 with units := kdel s2.units u, watches := kdel s2.watches (2 * u), idxs := kdel s2.idxs u, saves := kdel s2.saves u }

end Sys2Proof.Machine
end

