-- ==== Sys2Proof/Machine/Command.lean ====
section
/-! DEFINITION. Issuing a stream command (R116, R188–R192, R394): who issues it, its fields and addresses, its fallbacks,
the order that SER asks for, and the operations that have been issued. -/

namespace Sys2Proof.Machine

/-- A field [hi:lo] of a command. -/
def fld (c : Cmd128) (hi lo : Nat) : Nat := (c.extractLsb' lo (hi + 1 - lo)).toNat

/-- A field read as a signed number. -/
def sfld (c : Cmd128) (hi lo : Nat) : Int := (c.extractLsb' lo (hi + 1 - lo)).toInt

/-- The opcode [127:120]. -/
def cmdOpc (c : Cmd128) : BitVec 8 := c.extractLsb' 120 8
/-- NTF. -/
def cmdNtf (c : Cmd128) : Bool := c.getLsbD 119
/-- SER. -/
def cmdSer (c : Cmd128) : Bool := c.getLsbD 118
/-- FE. -/
def cmdFe (c : Cmd128) : Bool := c.getLsbD 117
/-- SPEC. -/
def cmdSpec (c : Cmd128) : BitVec 5 := c.extractLsb' 112 5

/-- Who issues a command, with everything that its issue reads: the unit of a `cmd`, the launch named in records, job, ASID, die, the base
words of R188, the tile-plane whose `warn` records fallbacks, and the bytes that a read of a waiting `cmd` waited on under a copy that was cancelled
(R91). -/
structure Ctx where
  iss : Issuer
  unit : Option UnitId
  launch : Option Nat
  job : Nat
  asid : BitVec 12
  die : Nat
  bases : List Word
  tpKey : Nat
  poison : List (Phys × Nat) := []
deriving Repr

/-- The context of a `cmd` of a unit. -/
def Ctx.ofUnit (u : UnitId) (w : WorkUnit) : Ctx :=
  { iss := .seq u, unit := some u, launch := some w.launch, job := w.job, asid := w.asid, die := w.tp.die, bases := w.seeds.toList, tpKey := w.tp.key,
    poison := if w.poisoned then w.winWait else [] }

/-- The virtual address of an address word (R188). -/
def Ctx.va (x : Ctx) (aw : Nat) : Nat := ((x.bases.getD (aw / 2 ^ 36 % 16) 0).toNat + aw % 2 ^ 36) % 2 ^ 57

/-- The FW40 scalar of an index field (R188). -/
def Ctx.scalar (x : Ctx) (i : Nat) : Lane := (x.bases.getD (i % 16) 0).setWidth 40

/-- What the issue of a command does: it is accepted or refused with a status of Table 8.2, it waits with nothing issued, on bytes under active windows
where a read of it does (R89), or an access that it makes at issue faults (R394). -/
inductive Issued where
  | st (s : State) (code : Nat)
  | waits (on : List (Phys × Nat))
  | fault (cause : BitVec 16) (va : Nat)
deriving Repr

/-- Status codes of Table 8.2. -/
def stForm : Nat := 1
/-- TYPE. -/
def stType : Nat := 2
/-- RANGE. -/
def stRange : Nat := 3
/-- TMPL. -/
def stTmpl : Nat := 4
/-- STATE. -/
def stState : Nat := 5
/-- OWNER. -/
def stOwner : Nat := 6
/-- CANCEL. -/
def stCancel : Nat := 7
/-- INDEX. -/
def stIndex : Nat := 8
/-- POISON. -/
def stPoison : Nat := 9
/-- CSUM. -/
def stCsum : Nat := 10

/-- The lowest code among failing checks, each given as (fails, code) (R190). -/
def lowest : List (Bool × Nat) → Nat
  | [] => 0
  | (b, c) :: rest => let r := lowest rest; if b && (r = 0 || c < r) then c else r

/-! ## Fallbacks (R124–R126) -/

/-- The SPEC bits that a command admits. -/
def specAdmitted : Sopc → BitVec 5
  | .gathIdx | .mxqSet | .ldstat | .nmcSgd | .nmcDecay => 1
  | .nmcRed => 0xF
  | _ => 0

/-- The flag fallbacks of a command (Table 4.16): the command with the flags that it does not admit cleared, and the classes set. -/
def flagFallback (o : Sopc) (c : Cmd128) : Cmd128 × WarnBits :=
  let feBad := cmdFe c && o ≠ .gathRow && o ≠ .gathRed
  let spBad := cmdSpec c &&& ~~~(specAdmitted o)
  let clr : Cmd128 := (if feBad then (1 : Cmd128) <<< 117 else 0) ||| (spBad.setWidth 128 <<< 112)
  (c &&& ~~~clr, { flag := feBad || spBad != 0 })

/-- Set fallback classes in the `warn` of a tile-plane (R124, R126): FIRSTOP and FIRSTLY are written only when every class bit was 0. -/
def setWarn (s : State) (key : Nat) (b : BitVec 7) (opc : BitVec 8) (layer : BitVec 2) : State :=
  if b = 0 then s
  else
    let r := dget TpRegs.initial s.tps key
    let r' := { r with warn := r.warn ||| b, firstOp := if r.warn = 0 then opc else r.firstOp,
                       firstLy := if r.warn = 0 then layer else r.firstLy }
    { s with tps := dset TpRegs.initial s.tps key r' }

/-- Record the fallbacks of a command issued by `cmd` in its unit's tile-plane; those of a chain entry stand in its operation's
status (R124). -/
def cmdWarn (s : State) (x : Ctx) (b : WarnBits) (c : Cmd128) : State :=
  match x.iss with
  | .seq _ => setWarn s x.tpKey b.toBits (cmdOpc c) 2
  | .chain _ _ => s

/-- The device addresses of pieces. -/
def dpaPieces (ps : List (Nat × Phys × Nat)) : List (Nat × Nat) :=
  ps.filterMap fun p => match p.2.1 with | .dpa a => some (a, p.2.2) | _ => none

/-! ## Operations -/

/-- Change an operation. -/
def modOp (s : State) (n : Nat) (f : EngOp → EngOp) : State := { s with ops := kmod s.ops n f }

/-- End an operation with a status; its completion object follows. -/
def finishOp (s : State) (n : Nat) (st : Nat) : State :=
  modOp s n fun o => if o.fin.isSome then o else { o with fin := some st, fault := none, waitsOn := [] }

/-- Withhold an operation at a fault (R191, R332): the first sight of a fault writes one record. -/
def faultOp (s : State) (n : Nat) (cause : BitVec 16) (va num : Nat) : State :=
  match kget s.ops n with
  | none => s
  | some o =>
    if cause = cMemUce then doomJob s o.job cMemUce
    else
      let v := BitVec.ofNat 64 va
      let seen := match o.fault with | some (c, a, _) => c = cause && a = v | none => false
      let s1 := modOp s n fun o => { o with fault := some (cause, v, s.tb, faultAccess s o.asid cause va) }
      if seen then s1 else recordEng s1 o num cause v

/-- An operation waits on bytes under active windows (R89, R91). -/
def opWaits (s : State) (n : Nat) (on : List (Phys × Nat)) : State := modOp s n fun o => { o with waitsOn := on }

/-- Clear the mark of a wait, having read. -/
def opReads (s : State) (n : Nat) : State := modOp s n fun o => { o with waitsOn := [], fault := none }

/-- The operation of a command. -/
def Ctx.op (x : Ctx) (row : Engine) (c : Cmd128) (body : OpBody) (warn : WarnBits) : EngOp :=
  { iss := x.iss, unit := x.unit, launch := x.launch, job := x.job, asid := x.asid, die := x.die, row := row, byFabric := false,
    ser := cmdSer c, ntf := cmdNtf c, body := body, warn := warn.toBits, conv := Flags.none, fault := none, waitsOn := [], fin := none }

/-- Enter an operation under the next number. -/
def addOp (s : State) (o : EngOp) : State × Nat := ({ s with ops := kput s.ops s.nextId o, nextId := s.nextId + 1 }, s.nextId)

/-- Has every earlier command of an issuer to an engine of a die reached its completion object (R116)? `n` bounds the numbers. The issuer of a `cmd` is
its unit (DESIGN CHOICE, log entry 120). -/
def serMet (s : State) (n : Nat) (iss : Issuer) (die : Nat) (row : Engine) : Bool :=
  let same (a b : Issuer) : Bool := match a, b with
    | .seq u, .seq v => u = v
    | .chain k _, .chain l _ => k = l
    | _, _ => false
  !(s.ops.any fun o => o.1 < n && !o.2.byFabric && same o.2.iss iss && o.2.die = die && o.2.row = row)

/-- May an operation start: SER, and no fault or end (R116, R191)? -/
def mayStart (s : State) (n : Nat) (o : EngOp) : Bool := o.fin.isNone && (!o.ser || serMet s n o.iss o.die o.row)

/-- Has the operation not yet left the engine's queue for `cmd` (R189)? -/
def OpBody.queued : OpBody → Bool
  | .later _ _ => true
  | .settled _ => true
  | .gath g => !g.ready
  | .qnt q => q.next = 0
  | .nmc x => x.done.isEmpty
  | .ldstat _ => true
  | .swap _ => true
  | .task t => t.mxe.isNone
  | _ => false

/-- Is the queue for `cmd` of an engine of a die full (R189)? -/
def queueFull (s : State) (die : Nat) (row : Engine) : Bool :=
  64 ≤ (s.ops.filter fun o => o.2.die = die && o.2.row = row && o.2.fin.isNone && o.2.body.queued && match o.2.iss with
    | .seq _ => true
    | .chain _ _ => false).length

/-- A notification of a `cmd` that has completed (R192). -/
def notifyUnit (s : State) (u : UnitId) : State := { s with units := kmod s.units u fun w => { w with ntfc := w.ntfc + 1 } }

/-- A command that takes effect at its issue: under SER with earlier commands outstanding it waits as an operation; otherwise it
is complete, and NTF acts at once (R116, R192). -/
def atOnce (s : State) (x : Ctx) (row : Engine) (c : Cmd128) (r : Issued) : Issued :=
  match r with
  | .st s1 0 =>
    if cmdSer c && !serMet s s.nextId x.iss x.die row then .st (addOp s (x.op row c (.later c x.bases) {})).1 0
    else
      match x.iss with
      | .seq u => .st (if cmdNtf c then notifyUnit s1 u else s1) 0
      | .chain _ _ => .st s1 0
  | r => r

/-- The 64 KiB units of a range. -/
def deadUnits (ps : List (Nat × Phys × Nat)) : List Nat :=
  (dpaPieces ps).flatMap fun p => (List.range ((p.2 + 65535) / 65536)).map fun i => p.1 / 65536 + i

/-- Clear the lost marks of the pages of a unit. -/
def unlose (s : State) (unit : Nat) : State := { s with lost := s.lost.filter fun p => p.1 / 16 ≠ unit }

/-- The effect of a command whose issue has made its accesses; none while a store of it must wait. A binding finds its chain as its issue found it, or has
none (DESIGN CHOICE, log entry 160). -/
def Settled.perform (s : State) : Settled → Option State
  | .apr => some s
  | .region r ps zero =>
    if ps.any fun p => tierBusy s p.1 || (zero && writeHeld s none p.1 p.2) then none
    else
      let s1 := { s with fxregs := s.fxregs ++ [r] }
      some (if zero then ps.foldl (fun s p => writePhys s p.1 (List.replicate p.2 0)) s1 else s1)
  | .bind k b =>
    let ch := chainOf s k
    some (if ch.bound.isSome || ch.holder ≠ some b.asid then s else putChain s k { ch with bound := some b })
  | .dead set ps =>
    if ps.any fun p => writeHeld s none p.2.1 p.2.2 then none
    else
      let us := deadUnits ps
      let z := ps.foldl (fun s p => writePhys s p.2.1 (List.replicate p.2.2 0)) (us.foldl unlose s)
      some { z with dead := us.foldl (fun m u => dset false m u set) z.dead }

/-- Must a command wait under SER (R116)? -/
def serWaits (s : State) (x : Ctx) (row : Engine) (c : Cmd128) : Bool := cmdSer c && !serMet s s.nextId x.iss x.die row

/-- A command whose issue has made its checks and accesses takes its effect, or waits for that under SER; what it has read it does not read again
(R116, R193, R394). -/
def settleAt (s : State) (x : Ctx) (row : Engine) (c : Cmd128) (e : Settled) : Issued :=
  if serWaits s x row c then .st (addOp s (x.op row c (.settled e) {})).1 0
  else match e.perform s with
    | none => .waits []
    | some s1 => atOnce s x row c (.st s1 0)

/-- What commands under SER have yet to do. -/
def settledOf (s : State) : List Settled :=
  s.ops.filterMap fun o => match o.2.body with
    | .settled e => if o.2.fin.isNone then some e else none
    | _ => none

/-- Refuse a command, or go on with it. -/
def checked (s : State) (code : Nat) (k : Issued) : Issued := if code ≠ 0 then .st s code else k

/-- An access at issue that must succeed before anything is issued (R394). -/
def Got.issue {α : Type} (g : Got α) (k : α → Issued) : Issued :=
  match g with
  | .ok a => k a
  | .bad c va => .fault c va
  | .waits on => .waits on

/-- Read `n` bytes at the issue of a command (R394). A read that waited on a copy which has been cancelled meets poison (R91). -/
def Ctx.load (s : State) (x : Ctx) (va n : Nat) : Got (List Byte) :=
  let lost : Bool := match mapRange s x.asid va n .read with
    | .ok ps => ps.any fun p => x.poison.any fun q => overlaps p.2.1 p.2.2 q.1 q.2
    | _ => false
  if lost then .bad cDataPoison va else loadVa s x.asid x.die va n none

/-! ## Commands of any engine (R197, R198) -/

/-- `snop`. -/
def issueSnop (s : State) (x : Ctx) (c : Cmd128) : Issued :=
  checked s (if fld c 111 0 ≠ 0 then stForm else 0) (atOnce s x .any c (.st s 0))

/-- `sync`: the value is written once every earlier command of the issuer has completed. -/
def issueSync (s : State) (x : Ctx) (c : Cmd128) : Issued :=
  let va := x.va (fld c 111 72)
  let sc := fld c 66 64
  checked s (lowest [(fld c 71 67 ≠ 0 || sc ≤ 1 || va % 8 ≠ 0, stForm)])
    (let w : WarnBits := { scope := 5 ≤ sc }
     .st (cmdWarn (addOp s (x.op .any c (.sync va (BitVec.ofNat 64 (fld c 63 0))) w)).1 x w c) 0)

/-- Where the cells of a region may lie (R198): one caddy, HBM, or the peer range. -/
def fxPlacement (ps : List (Nat × Phys × Nat)) : Bool :=
  let kinds : List (Option Region) := ps.map fun p => match p.2.1 with
    | .dpa a => some (regionOf a)
    | _ => none
  match kinds with
  | [] => false
  | some (.caddy k) :: rest => rest.all fun r => r == some (.caddy k)
  | some (.hbm _) :: rest => rest.all fun r => match r with | some (.hbm _) => true | _ => false
  | some (.tier _) :: rest => rest.all fun r => match r with | some (.tier _) => true | _ => false
  | _ => false

/-- The regions of a job, with those that commands under SER are to define (R198). -/
def regionsOf (s : State) (job : Nat) : List FxRegion :=
  (s.fxregs ++ (settledOf s).filterMap fun e => match e with
    | .region r _ _ => some r
    | _ => none).filter fun r => r.job = job

/-- `fxregion`. -/
def issueFxregion (s : State) (x : Ctx) (c : Cmd128) : Issued :=
  let va := x.va (fld c 111 72)
  let ncell := fld c 71 40
  let w := sfld c 39 29
  let form := fld c 27 0 ≠ 0 || va % 16 ≠ 0
  if ncell = 0 then
    let mine (r : FxRegion) : Bool := r.job = x.job && r.vbase = va
    checked s (lowest [(form, stForm), (!s.fxregs.any mine, stState)])
      (atOnce s x .any c (.st { s with fxregs := s.fxregs.filter fun r => !mine r } 0))
  else if form then .st s stForm
  else if !fxWLegal w then .st s stRange
  else
    (mapRange s x.asid va (16 * ncell) .atomic).issue fun ps =>
      let mine := regionsOf s x.job
      let cells := dpaPieces ps
      let shares := mine.any fun r => r.pieces.any fun q => cells.any fun p => p.1 < q.1 + q.2 && q.1 < p.1 + p.2
      checked s (if 256 ≤ mine.length || shares || !fxPlacement ps then stRange else 0)
        (settleAt s x .any c (.region { job := x.job, asid := x.asid, vbase := va, pieces := cells, w := w } (ps.map fun p => p.2) (fld c 28 28 = 1)))

/-- SYNC_WRITE: the value of a `sync` is written once every earlier command of its issuer has completed (R197). -/
def syncWrite (s : State) (n : Nat) : State :=
  match kget s.ops n with
  | none => s
  | some o =>
    match o.body, o.fin with
    | .sync va val, none =>
      if (o.fault.isSome && !jobKilled s o.job) || s.ops.any fun p => p.1 < n && !p.2.byFabric && p.2.unit = o.unit then s
      else
        match storeVa s o.asid (some o.job) va (wordBytes val) with
        | .ok s1 => finishOp s1 n 0
        | .bad c a => if jobKilled s o.job then finishOp s n 0 else faultOp s n c a 0
        | .waits _ => s
    | _, _ => s

end Sys2Proof.Machine
end

