-- ==== Sys2Proof/Machine/Bte.lean ====
section
/-! DEFINITION. The block-transfer engine (R205–R213): templates, the start of a copy with its windows, landing, stamps,
permits and cancels. -/

namespace Sys2Proof.Machine

/-- The key of a template of a die. -/
def tmplKey (die t : Nat) : Nat := 256 * die + t
/-- The key of a channel of a die. -/
def chanKey (die ch : Nat) : Nat := 32 * die + ch
/-- A template. -/
def tmplOf (s : State) (die t : Nat) : Tmpl := dget Tmpl.initial s.tmpls (tmplKey die t)
/-- A channel. -/
def chanOf (s : State) (die ch : Nat) : Chan := dget Chan.initial s.chans (chanKey die ch)
/-- Put a template back. -/
def putTmpl (s : State) (die t : Nat) (x : Tmpl) : State := { s with tmpls := dset Tmpl.initial s.tmpls (tmplKey die t) x }
/-- Put a channel back. -/
def putChan (s : State) (die ch : Nat) (x : Chan) : State := { s with chans := dset Chan.initial s.chans (chanKey die ch) x }

/-- Move an address by a signed displacement, mod 2^57. -/
def offsetVa (va : Nat) (d : Int) : Nat := ((va + d) % (2 ^ 57 : Nat)).toNat

/-! ## Templates (R205, R206) -/

/-- What `cpt.def` leaves in a template (R205). -/
def TmplDef.fresh (src dst : Nat) : TmplDef :=
  { src := src, dst := dst, counts := [1, 1, 1, 1], valids := [1, 1, 1, 1], sstr := [0, 0, 0, 0], dstr := [0, 0, 0, 0],
    extra := [none, none, none], stamp := none, perm := false, npre := 0, ntile := 1, ststr := 0, dtstr := 0 }

/-- Replace an element of a list of numbers. -/
def setAt {α : Type} (xs : List α) (i : Nat) (x : α) : List α := xs.mapIdx fun j y => if j = i then x else y

/-- `cpt.def`. -/
def issueCptDef (s : State) (x : Ctx) (c : Cmd128) : Issued :=
  let t := fld c 111 104
  let tm := tmplOf s x.die t
  checked s (lowest [(fld c 23 0 ≠ 0, stForm), (tm.holder ≠ some x.asid, stOwner)])
    (atOnce s x .bte c
      (.st (putTmpl s x.die t { tm with def_ := some (TmplDef.fresh (x.va (fld c 103 64)) (x.va (fld c 63 24))) }) 0))

/-- One part of a template (Table 8.9): the failing code, and the definition with the part set. -/
def cptDimPart (x : Ctx) (c : Cmd128) (d : TmplDef) : Nat × TmplDef :=
  let dn := fld c 100 99
  let cnt := fld c 95 64
  match fld c 103 101 with
  | 0 =>
    let ss := sfld c 63 32
    let ds := sfld c 31 0
    (lowest [(fld c 98 96 ≠ 0 || (dn = 0 && (ss ≠ 0 || ds ≠ 0)), stForm), (cnt = 0, stRange)],
     { d with counts := setAt d.counts dn cnt, valids := setAt d.valids dn cnt, sstr := setAt d.sstr dn ss, dstr := setAt d.dstr dn ds })
  | 1 =>
    (lowest [(fld c 98 80 ≠ 0 || fld c 39 0 ≠ 0 || dn = 0, stForm)], { d with extra := setAt d.extra (dn - 1) (some (x.va (fld c 79 40))) })
  | 2 =>
    let va := x.va (fld c 79 40)
    (lowest [(fld c 100 80 ≠ 0 || fld c 39 0 ≠ 0 || va % 8 ≠ 0, stForm)], { d with stamp := some va })
  | 3 =>
    (lowest [(cnt = 0, stRange)],
     { d with perm := fld c 100 100 = 1, npre := fld c 99 96, ntile := cnt, ststr := sfld c 63 32, dtstr := sfld c 31 0 })
  | 4 =>
    (lowest [(fld c 98 96 ≠ 0 || fld c 63 0 ≠ 0, stForm)], { d with valids := setAt d.valids dn cnt })
  | _ => (stForm, d)

/-- `cpt.dim`. -/
def issueCptDim (s : State) (x : Ctx) (c : Cmd128) : Issued :=
  let t := fld c 111 104
  let tm := tmplOf s x.die t
  let d := tm.def_.getD (TmplDef.fresh 0 0)
  let r := cptDimPart x c d
  checked s (lowest [(r.1 ≠ 0, r.1), (tm.def_.isNone, stTmpl), (tm.holder ≠ some x.asid, stOwner)])
    (atOnce s x .bte c (.st (putTmpl s x.die t { tm with def_ := some r.2 }) 0))

/-! ## The pattern of a tile (R207) -/

/-- The bytes of a tile's pattern. -/
def TmplDef.total (d : TmplDef) : Nat := d.counts.foldl (fun a n => a * n) 1

/-- The indices of pattern byte `p`, innermost first. -/
def patIndex : List Nat → Nat → List Nat
  | [], _ => []
  | n :: ns, p => p % n :: patIndex ns (p / n)

/-- A sum of indices times strides. -/
def dotInt : List Nat → List Int → Int
  | i :: is, d :: ds => i * d + dotInt is ds
  | _, _ => 0

/-- The offset of an index vector: i0 bytes and the outer strides. -/
def patOffset (idx : List Nat) (strides : List Int) : Int := (idx.headD 0 : Int) + dotInt idx.tail strides.tail

/-- The extent E of a tile's window. -/
def TmplDef.extent (d : TmplDef) : Int :=
  (d.counts.headD 1 : Int) + dotInt (d.counts.tail.map fun n => n - 1) d.dstr.tail

/-- Is pattern byte `idx` of tile `t` clipped by VALID? -/
def TmplDef.clipped (d : TmplDef) (t : Nat) (idx : List Nat) : Bool :=
  t + 1 = d.ntile && (idx.zip d.valids).any fun p => p.2 ≤ p.1

/-- Does each dimension step past the span of those below it (R207)? -/
def stridesOk : List Nat → List Int → Int → Bool
  | n :: ns, d :: ds, span => (n ≤ 1 || span ≤ d) && stridesOk ns ds (span + (n - 1 : Nat) * d)
  | _, _, _ => true

/-- Destination 0 and the extra destinations, displaced. -/
def TmplDef.dests (d : TmplDef) (disp : Int) : List Nat := (d.dst :: d.extra.filterMap id).map fun a => offsetVa a disp

/-- Do two windows of a list overlap? -/
def someOverlap : List Nat → Nat → Bool
  | [], _ => false
  | a :: as, e => (as.any fun b => a < b + e && b < a + e) || someOverlap as e

/-- The checks of R207 that refuse a copy with RANGE. -/
def TmplDef.badRange (d : TmplDef) (disp : Int) : Bool :=
  2 ^ 20 ≤ d.total || !stridesOk d.counts.tail d.dstr.tail (d.counts.headD 1) || (1 < d.ntile && d.dtstr < d.extent) ||
    someOverlap (d.dests disp) d.extent.toNat

/-! ## Stamps (R209, Table 8.10) -/

/-- A sequence stamp, the completion object of a copy (R87, R88). -/
def stampWord (st landed seq : Nat) : Word := BitVec.ofNat 64 (st % 16 * 2 ^ 60 + landed % 2 ^ 20 * 2 ^ 40 + seq % 2 ^ 40)

/-- Where a copy's stamps go: the template's STAMP displaced, or `bcsa`. -/
def Copy.stampVa (k : Copy) (ch : Chan) : Nat :=
  match k.def_.stamp with
  | some a => offsetVa a k.ddisp
  | none => ch.bcsa.toNat

/-! ## Starting a copy (R208) -/

/-- The windows of a copy's tiles, every destination page translated, or the first access that fails. -/
def copyWindows (s : State) (asid : BitVec 12) (op : Nat) (d : TmplDef) (disp : Int) : List Nat → Got (List Win)
  | [] => .ok []
  | t :: ts =>
    let e := d.extent.toNat
    let one (a : Nat) : Got (List (Nat × Phys × Nat)) := mapRange s asid (offsetVa a (t * d.dtstr)) e .write
    let all : Got (List (Nat × Phys × Nat)) :=
      (d.dests disp).foldl (fun acc a => Got.bind acc fun ps => (one a).map fun qs => ps ++ qs) (.ok [])
    all.bind fun ps =>
      (copyWindows s asid op d disp ts).map fun ws => { op := op, tile := t, pieces := ps, wm := 0 } :: ws

/-- Write a completion object that was left to be written, and end the operation: a fault withholds it (R191), and a write that must wait is tried
again. -/
def writeObject (s : State) (n : Nat) : State :=
  match kget s.ops n with
  | none => s
  | some o =>
    match o.body with
    | .object va bs num =>
      match storeObj s o.job o.asid va bs with
      | .ok s1 =>
        let s2 := { s1 with ops := kdel s1.ops n }
        match o.iss with
        | .seq u => if o.ntf then notifyUnit s2 u else s2
        | .chain _ _ => s2
      | .bad c a => faultOp s n c a num
      | .waits _ => s
    | _ => s

/-- A refused copy: one number of the channel, and one stamp at `bcsa` (R208, R209). -/
def refuseCopy (s : State) (o : EngOp) (ch code : Nat) : State :=
  let k := chanOf s o.die ch
  let n := k.ctr + 1
  let a := addOp (putChan s o.die ch { k with ctr := n })
    { o with body := .object k.bcsa.toNat (wordBytes (stampWord code 0 n.toNat)) ch, byFabric := true, ser := false, ntf := false }
  writeObject a.1 a.2

/-- Every destination page of every tile of a copy, as (address, length). -/
def copyPages (d : TmplDef) (disp : Int) : List (Nat × Nat) :=
  let e := d.extent.toNat
  (List.range d.ntile).flatMap fun t => (d.dests disp).flatMap fun a =>
    (chunks (e / 65536 + 2) 0 (offsetVa a (t * d.dtstr)) e).map fun x => (x.2.1, x.2.2)

/-- Does a page of some meet a cause? -/
def pageMeets (s : State) (asid : BitVec 12) (ps : List (Nat × Nat)) (cause : BitVec 16) : Bool :=
  ps.any fun p => match place s asid p.1 p.2 .write with
    | .bad c _ => c = cause
    | _ => false

/-- Start a copy on a channel that the context holds (R208): the checks, those of the destination pages among them, the windows of every tile, and the
numbers. The pages of a pattern that R207 refuses are not looked at. -/
def startCopy (s : State) (o : EngOp) (ch tidx : Nat) (sdisp ddisp : Int) (form : Bool) : Got (State × Nat) :=
  let tm := tmplOf s o.die tidx
  let d := tm.def_.getD (TmplDef.fresh 0 0)
  let bad := tm.def_.isSome && d.badRange ddisp
  let pages := if tm.def_.isSome && !bad then copyPages d ddisp else []
  let pre := lowest [(form || pageMeets s o.asid pages cMemAttr, stForm), (bad || pageMeets s o.asid pages cMemRange, stRange),
                     (tm.def_.isNone, stTmpl), (tm.holder ≠ some o.asid, stOwner)]
  if pre ≠ 0 then .ok (refuseCopy s o ch pre, pre)
  else
    match copyWindows s o.asid s.nextId d ddisp (List.range d.ntile) with
    | .waits on => .waits on
    | .bad c va => .bad c va
    | .ok ws =>
      let k := chanOf s o.die ch
      let cp : Copy := { op := s.nextId, asid := o.asid, job := o.job, def_ := d, sdisp := sdisp, ddisp := ddisp, first := k.ctr.toNat + 1,
                         tile := 0, at_ := 0, landed := 0, permits := 0, granted := false, saved := [], cut := [] }
      let bwm := if k.copies.isEmpty then BitVec.ofNat 57 (offsetVa d.dst ddisp) else k.bwm
      let s1 := putChan s o.die ch { k with ctr := k.ctr + BitVec.ofNat 40 d.ntile, copies := k.copies ++ [cp], bwm := bwm }
      let s2 := { s1 with wins := s1.wins ++ ws }
      .ok ((addOp s2 { o with body := .copy ch }).1, 0)

/-- `cpt.go`. It starts at its issue: SER holds back its landing (R116, R208; log entry 104). -/
def issueCptGo (s : State) (x : Ctx) (c : Cmd128) : Issued :=
  let ch := fld c 111 107
  if (chanOf s x.die ch).holder ≠ some x.asid then .st s stOwner
  else
    match startCopy s (x.op .bte c (.copy ch) {}) ch (fld c 103 96) (sfld c 95 56) (sfld c 55 16) (fld c 106 104 ≠ 0 || fld c 15 0 ≠ 0) with
    | .waits on => .waits on
    | .bad cz va => .fault cz va
    | .ok (s1, code) => .st s1 code

/-! ## Landing (R209–R211) -/

/-- The place of a byte as a key of the bytes saved before a landing. -/
def placeKey (die : Nat) : Phys → Nat
  | .dpa a => a
  | .rep a set => replicaAddr a (replicaFor set die)
  | .sys a => 2 ^ 71 + a
  | _ => 2 ^ 72

/-- Read one source byte of a copy: what stood there before this copy landed on it (R209). -/
def copySource (s : State) (die : Nat) (k : Copy) (va : Nat) : Got Byte :=
  (place s k.asid va 1 .read).bind fun p =>
    match kget k.saved (placeKey die p) with
    | some b => .ok b
    | none =>
      if windowed s (some k.op) p 1 then .waits [(p, 1)]
      else if tierBusy s p then .waits []
      else .ok ((readPhys s die p 1).headD 0)

/-- Land one byte at some destinations, remembering what stood there. -/
def landAt (job : Nat) (die : Nat) (b : Byte) : List Phys → State × KMap Byte → State × KMap Byte
  | [], r => r
  | p :: ps, (s, sv) =>
    let key := placeKey die p
    let sv1 := if (kget sv key).isSome then sv else kput sv key ((readPhys s die p 1).headD 0)
    landAt job die b ps (markExternal (writePhys s p [b]) job p, sv1)

/-- Translate the destinations of a byte. -/
def landPlaces (s : State) (asid : BitVec 12) : List Nat → Got (List Phys)
  | [] => .ok []
  | va :: vas =>
    (place s asid va 1 .write).bind fun p =>
      if writeHeld s none p 1 then .waits [] else (landPlaces s asid vas).map fun ps => p :: ps

/-- The offset of the next byte of the landing tile that will land, from `p` on: E once none is left (R207, R209). -/
def nextOffset (d : TmplDef) (t : Nat) : Nat → Nat → Nat × Int
  | 0, p => (p, d.extent)
  | f + 1, p =>
    if d.total ≤ p then (p, d.extent)
    else
      let idx := patIndex d.counts p
      if d.clipped t idx then nextOffset d t f (p + 1) else (p, patOffset idx d.dstr)

/-- Move the head copy of a channel past clipped bytes and set the watermark of the landing tile. -/
def setWatermark (s : State) (die ch : Nat) (c : Chan) (k : Copy) (rest : List Copy) : State :=
  let r := nextOffset k.def_ k.tile (k.def_.total + 1) k.at_
  let wm := offsetVa (offsetVa k.def_.dst k.ddisp) (k.tile * k.def_.dtstr + r.2)
  let s1 := putChan s die ch { c with bwm := BitVec.ofNat 57 wm, copies := { k with at_ := r.1 } :: rest }
  { s1 with wins := s1.wins.map fun w => if w.op = k.op ∧ w.tile = k.tile then { w with wm := r.2.toNat } else w }

/-- What a landing step answers: go on, stop here, or a fault. -/
inductive Land where
  | go (s : State)
  | stop (s : State)
deriving Repr

/-- Land the next byte of the head copy of a channel. -/
def landByte (s : State) (die ch : Nat) : Land :=
  let c := chanOf s die ch
  match c.copies with
  | [] => .stop s
  | k :: rest =>
    let d := k.def_
    if d.total ≤ k.at_ then .stop s
    else
      let idx := patIndex d.counts k.at_
      let sva := offsetVa (offsetVa d.src k.sdisp) (k.tile * d.ststr + patOffset idx d.sstr)
      let dvas := (d.dests k.ddisp).map fun a => offsetVa a (k.tile * d.dtstr + patOffset idx d.dstr)
      match copySource s die k sva with
      | .waits on => .stop (opWaits s k.op on)
      | .bad cz va => .stop (faultOp s k.op cz va ch)
      | .ok b =>
        match landPlaces s k.asid dvas with
        | .waits _ => .stop s
        | .bad cz va => .stop (faultOp s k.op cz va ch)
        | .ok ps =>
          let r := landAt k.job die b ps (s, k.saved)
          let k1 := { k with at_ := k.at_ + 1, landed := k.landed + 1, saved := r.2 }
          .go (setWatermark (opReads r.1 k.op) die ch (chanOf r.1 die ch) k1 rest)

/-- Land up to `n` bytes. -/
def landBytes : Nat → State → Nat → Nat → State
  | 0, s, _, _ => s
  | n + 1, s, die, ch =>
    match landByte s die ch with
    | .go s1 => landBytes n s1 die ch
    | .stop s1 => s1

/-- The key of a stream of a die (R199). -/
def streamKey (die shv strm : Nat) : Nat := 256 * die + 16 * shv + strm
/-- The key of an MXE of a die. -/
def mxeKey (die m : Nat) : Nat := 16 * die + m

/-- Take an operation off the MXEs of its die; a running task's accumulator is discarded (Table 8.17). -/
def clearMxes (s : State) (die n : Nat) : State :=
  { s with mxes := s.mxes.map fun m => if m.1 / 16 = die then
      (m.1, { m.2 with loads := m.2.loads.filter fun x => x ≠ n, swaps := m.2.swaps.filter fun x => x ≠ n,
                       task := if m.2.task = some n then none else m.2.task,
                       acc := if m.2.task = some n then none else m.2.acc }) else m }

/-- Stop an operation, to end with a status: a copy and a record still write their completion objects (R212, R203). -/
def abortOp (s : State) (n st : Nat) : State :=
  match kget s.ops n with
  | none => s
  | some o =>
    if o.fin.isSome then s
    else
      let s1 := modOp s n fun o => { o with fault := none, waitsOn := [] }
      match o.body with
      | .copy ch =>
        { s1 with chans := kmod s1.chans (chanKey o.die ch) fun c =>
            { c with copies := c.copies.map fun k => if k.op = n then { k with cut := k.cut ++ [(k.first + k.def_.ntile, st)] } else k } }
      | .record shv strm =>
        let mark (r : AprRec) : AprRec :=
          if r.op = n then { r with fin := some (r.fin.getD st), owed := st = stPoison && !r.store && r.fin.isNone } else r
        { s1 with streams := kmod s1.streams (streamKey o.die shv strm) fun x =>
            { x with running := x.running.map mark, queued := x.queued.map mark } }
      | .object _ _ _ => if jobKilled s o.job then writeObject s1 n else s
      | .task _ | .ldstat _ | .swap _ => finishOp (clearMxes s1 o.die n) n st
      | _ => finishOp s1 n st

/-- Does an awaited byte lie in what is left of one of some windows? -/
def waitsOnWindow (ws : List Win) (on : List (Phys × Nat)) : Bool :=
  ws.any fun w => w.pieces.any fun pc =>
    let d := w.wm - pc.1
    d < pc.2.2 && on.any fun p => overlaps p.1 p.2 (pc.2.1.plus d) (pc.2.2 - d)

/-- Loads that wait on windows of a cancelled copy receive poison (R91). -/
def poisonWaiters (s : State) (ws : List Win) : State :=
  let s1 := { s with
    insts := s.insts.map fun n => (n.1, { n.2 with waiting := n.2.waiting.map fun x => if waitsOnWindow ws x.winWait then { x with poisoned := true } else x })
    units := s.units.map fun u => (u.1, if waitsOnWindow ws u.2.winWait then { u.2 with poisoned := true } else u.2)
    mcReads := s.mcReads.map fun r => (r.1, if waitsOnWindow ws r.2.on then { r.2 with poisoned := true } else r.2)
    chains := s.chains.map fun c => (c.1, { c.2 with bound := c.2.bound.map fun b => if waitsOnWindow ws b.waitsOn then { b with poisoned := true } else b }) }
  s.ops.foldl (fun s o => if waitsOnWindow ws o.2.waitsOn then abortOp s o.1 stPoison else s) s1

/-- Close the window of the head copy's tile and write its stamp (BTE_TILE_END, R209); a fault at the stamp stops the operation there. -/
def endTile (s : State) (die ch st : Nat) : Land :=
  let c := chanOf s die ch
  match c.copies with
  | [] => .stop s
  | k :: rest =>
    let seq := k.first + k.tile
    let mine (w : Win) : Bool := w.op = k.op && w.tile = k.tile
    let sp := if st = 0 then s else poisonWaiters s (s.wins.filter mine)
    let s0 := { sp with wins := sp.wins.filter fun w => !mine w }
    match storeObj s0 k.job k.asid (k.stampVa c) (wordBytes (stampWord st k.landed seq)) with
    | .waits _ => .stop s0
    | .bad cz va => .stop (faultOp s0 k.op cz va ch)
    | .ok s1 =>
      let endWm := offsetVa (offsetVa k.def_.dst k.ddisp) (k.tile * k.def_.dtstr + k.def_.extent)
      let c1 := { chanOf s1 die ch with lstat := BitVec.ofNat 4 st, seq := BitVec.ofNat 40 seq, bwm := BitVec.ofNat 57 endWm }
      let k1 := { k with tile := k.tile + 1, at_ := 0, landed := 0, granted := false }
      let s2 := putChan s1 die ch { c1 with copies := k1 :: rest }
      if k1.tile < k.def_.ntile then .go (setWatermark s2 die ch c1 k1 rest) else .go s2

/-- Take a copy that has ended off its channel; the next copy's first tile becomes the landing tile. -/
def popCopy (s : State) (die ch st : Nat) : State :=
  let c := chanOf s die ch
  match c.copies with
  | [] => s
  | k :: rest =>
    let s1 := finishOp (putChan s die ch { c with copies := rest }) k.op st
    match rest with
    | [] => s1
    | k2 :: r2 => setWatermark s1 die ch { c with copies := rest } k2 r2

/-- The STATUS with which a cancel ends a tile of a copy (R212, R213). -/
def Copy.cutOf (k : Copy) (tile : Nat) : Option Nat := (k.cut.find? fun x => k.first + tile ≤ x.1).map fun x => x.2

/-- Bring the head copy of a channel forward past everything that needs no landing: tiles cut short, tiles whose bytes have all landed, and permits still owed. -/
def settleCopy : Nat → State → Nat → Nat → State
  | 0, s, _, _ => s
  | f + 1, s, die, ch =>
    let c := chanOf s die ch
    match c.copies with
    | [] => s
    | k :: _ =>
      let faulted := match kget s.ops k.op with | some o => o.fault.isSome | none => false
      if faulted then s
      else if k.tile < k.def_.ntile then
        match k.cutOf k.tile with
        | some st => match endTile s die ch st with
          | .go s1 => settleCopy f s1 die ch
          | .stop s1 => s1
        | none =>
          if k.granted && k.def_.total ≤ k.at_ then
            match endTile s die ch 0 with
            | .go s1 => settleCopy f s1 die ch
            | .stop s1 => s1
          else s
      else
        match k.cutOf (k.def_.ntile - 1) with
        | some st => settleCopy f (popCopy s die ch st) die ch
        | none =>
          if k.def_.perm && k.permits < k.def_.ntile then
            if c.pcnt = 0 then s
            else settleCopy f (putChan s die ch { c with pcnt := c.pcnt - 1, copies := setAt c.copies 0 { k with permits := k.permits + 1 } }) die ch
          else settleCopy f (popCopy s die ch 0) die ch

/-- How often a channel can settle: the tiles and permits of its copies. -/
def settleFuel (c : Chan) : Nat := c.copies.foldl (fun a k => a + 2 * k.def_.ntile + 2) 2

/-- Settle a channel. -/
def settleChan (s : State) (die ch : Nat) : State := settleCopy (settleFuel (chanOf s die ch)) s die ch

/-- Give the landing tile its permit where it needs one (R213): false while it waits for one. -/
def takePermit (s : State) (die ch : Nat) : State × Bool :=
  let c := chanOf s die ch
  match c.copies with
  | [] => (s, false)
  | k :: rest =>
    if k.granted then (s, true)
    else if k.def_.ntile ≤ k.tile then (s, false)
    else if !k.def_.perm || k.tile < k.def_.npre then (setWatermark s die ch c { k with granted := true } rest, true)
    else if c.pcnt = 0 then (s, false)
    else (setWatermark s die ch { c with pcnt := c.pcnt - 1 } { k with granted := true, permits := k.permits + 1 } rest, true)

/-- BTE_LANDING: the channel lands up to `n` bytes of its tile (at least one), in ascending destination order (R209). -/
def bteLand (s : State) (die ch n : Nat) : State :=
  let s0 := settleChan s die ch
  let c := chanOf s0 die ch
  match c.copies with
  | [] => s0
  | k :: _ =>
    match kget s0.ops k.op with
    | none => s0
    | some o =>
      if o.fault.isSome || (o.ser && !serMet s0 k.op o.iss o.die o.row) then s0
      else
        let r := takePermit s0 die ch
        if !r.2 then r.1 else settleChan (landBytes (max n 1) r.1 die ch) die ch

/-! ## Permits and cancels (R212, R213) -/

/-- Add permits to a channel: PCNT saturates. -/
def addPermits (s : State) (die ch n : Nat) : State :=
  let c := chanOf s die ch
  settleChan (putChan s die ch { c with pcnt := BitVec.ofNat 16 (min 0xFFFF (c.pcnt.toNat + n)) }) die ch

/-- `mc.permit`. -/
def issueMcPermit (s : State) (x : Ctx) (c : Cmd128) : Issued :=
  let ch := fld c 111 107
  checked s (lowest [(fld c 106 16 ≠ 0 || fld c 15 0 = 0, stForm), ((chanOf s x.die ch).holder ≠ some x.asid, stOwner)])
    (atOnce s x .bte c (.st (addPermits s x.die ch (fld c 15 0)) 0))

/-- Cancel the tiles of a channel numbered at most `upTo` that satisfy `which` (R212): their windows close, waiting loads meet
R91, and each writes a stamp with the status. -/
def cutCopies (s : State) (die ch upTo st : Nat) (which : Copy → Bool) : State :=
  let c := chanOf s die ch
  let hit (k : Copy) : Bool := which k && k.first + k.tile ≤ upTo
  let dead := s.wins.filter fun w => c.copies.any fun k => hit k && k.op = w.op && k.first + w.tile ≤ upTo
  let s1 := poisonWaiters s dead
  let s2 := { s1 with wins := s1.wins.filter fun w => !(c.copies.any fun k => hit k && k.op = w.op && k.first + w.tile ≤ upTo) }
  let s3 := putChan s2 die ch { c with copies := c.copies.map fun k => if hit k then { k with cut := k.cut ++ [(upTo, st)] } else k }
  let s4 := c.copies.foldl (fun s k => if hit k then modOp s k.op fun o => { o with fault := none, waitsOn := [] } else s) s3
  settleChan s4 die ch

/-- `cpt.cancel`. -/
def issueCptCancel (s : State) (x : Ctx) (c : Cmd128) : Issued :=
  let ch := fld c 111 107
  checked s (lowest [(fld c 106 40 ≠ 0, stForm), ((chanOf s x.die ch).holder ≠ some x.asid, stOwner)])
    (atOnce s x .bte c (.st (cutCopies s x.die ch (fld c 39 0) stCancel fun k => k.tile < k.def_.ntile) 0))

/-- A poison permit cancels the copy that is landing or waiting (R213): its current and later tiles end with POISON. -/
def poisonPermit (s : State) (die ch : Nat) : State :=
  match (chanOf s die ch).copies with
  | [] => s
  | k :: _ => cutCopies s die ch (k.first + k.def_.ntile) stPoison fun j => j.op = k.op

/-! ## Registers of a channel (R210) -/

/-- STATE of `bst`: 0 idle, 1 landing, 2 frozen by a fault, 3 waiting for a permit. -/
def chanState (s : State) (c : Chan) : Nat :=
  match c.copies with
  | [] => 0
  | k :: _ =>
    if (match kget s.ops k.op with | some o => o.fault.isSome | none => false) then 2
    else if k.def_.perm && !k.granted && (k.def_.npre ≤ k.tile || k.def_.ntile ≤ k.tile) && c.pcnt = 0 then 3
    else 1

/-- `bst` (Table 8.12). -/
def bstWord (s : State) (c : Chan) : Word :=
  BitVec.ofNat 64 (c.pcnt.toNat * 2 ^ 48 + chanState s c * 2 ^ 46 + c.lstat.toNat * 2 ^ 42 + c.seq.toNat)

/-- Register `k` of a channel: `bwm`, `bst`, `bcsa`. -/
def chanReg (s : State) (die ch k : Nat) : Word :=
  let c := chanOf s die ch
  match k with
  | 0 => c.bwm.setWidth 64
  | 1 => bstWord s c
  | _ => c.bcsa.setWidth 64

end Sys2Proof.Machine
end

