-- ==== Sys2Proof/Machine/Compute.lean ====
section
/-! DEFINITION. What the operators of 06_operators_compute.md and the token-shaping, voting and checksum
operators of 07_operators_flow_and_memory.md compute from the tokens they take: for each operator one lane
function or one token function. -/

namespace Sys2Proof.Machine

/-- What one firing gives: the token it emits (none emits nothing), the flags it sets, and the trap it
raises in place of its effect, with the value of the fault record. -/
structure Fired where
  out : Option Token
  flags : Flags
  trap : Option (BitVec 16 × Word)
deriving DecidableEq, Repr

/-- A firing that emits a token. -/
def Fired.emits (t : Token) (f : Flags) : Fired := { out := some t, flags := f, trap := none }
/-- A firing that emits nothing. -/
def Fired.nothing : Fired := { out := none, flags := Flags.none, trap := none }
/-- A firing that traps and emits nothing (R44). -/
def Fired.traps (cause : BitVec 16) (val : Word) : Fired :=
  { out := none, flags := Flags.none, trap := some (cause, val) }

/-! ## Integers (R147–R150) -/

/-- A lane word as an unsigned integer or as s40. -/
def intView (unsigned : Bool) (x : Lane) : Int := if unsigned then x.toNat else x.toInt

/-- Clamp to s40 or, with `.u`, to 0 and 2^40 − 1 (Table 6.2). -/
def clampLane (unsigned : Bool) (v : Int) : Lane :=
  let lo : Int := if unsigned then 0 else -2 ^ 39
  let hi : Int := if unsigned then 2 ^ 40 - 1 else 2 ^ 39 - 1
  BitVec.ofInt 40 (if v < lo then lo else if hi < v then hi else v)

/-- Signed division (R148). -/
def laneDiv (a b : Lane) : Lane := if b = 0 then BitVec.allOnes 40 else BitVec.ofInt 40 (Int.tdiv a.toInt b.toInt)
/-- Unsigned division (R148). -/
def laneDivu (a b : Lane) : Lane := if b = 0 then BitVec.allOnes 40 else BitVec.ofNat 40 (a.toNat / b.toNat)
/-- Signed remainder (R148). -/
def laneRem (a b : Lane) : Lane := if b = 0 then a else BitVec.ofInt 40 (Int.tmod a.toInt b.toInt)
/-- Unsigned remainder (R148). -/
def laneRemu (a b : Lane) : Lane := if b = 0 then a else BitVec.ofNat 40 (a.toNat % b.toNat)

/-- The shift amount b[5:0] (R149). -/
def shAmt (b : Lane) : Nat := (b.extractLsb' 0 6).toNat

/-- Leading zero bits of the 40-bit word (Table 6.3). -/
def laneClz (a : Lane) : Lane := BitVec.ofNat 40 (40 - bitLen a.toNat)

/-- Number of one bits (Table 6.3). -/
def lanePopc (a : Lane) : Lane := BitVec.ofNat 40 ((List.range 40).filter fun i => a.getLsbD i).length

/-- Bit reverse (Table 6.3). -/
def laneBrev (a : Lane) : Lane := BitVec.ofFnLE (fun i : Fin 40 => a.getLsbD (39 - i.val))

/-- Byte reverse of the five bytes (Table 6.3). -/
def laneBswap (a : Lane) : Lane :=
  a.extractLsb' 0 8 ++ a.extractLsb' 8 8 ++ a.extractLsb' 16 8 ++ a.extractLsb' 24 8 ++ a.extractLsb' 32 8

/-- Position and width of a bit field, the width cut to the word (R150). -/
def fieldOf (ctl : Lane) : Nat × Nat :=
  let pos := (ctl.extractLsb' 0 6).toNat
  let w := (ctl.extractLsb' 6 6).toNat
  (pos, if 40 ≤ pos then 0 else min w (40 - pos))

/-- Bit-field extract (R150). -/
def laneBext (sgn : Bool) (a ctl : Lane) : Lane :=
  let (pos, w) := fieldOf ctl
  let f := (a.toNat >>> pos) % 2 ^ w
  if w = 0 then 0
  else if sgn ∧ 2 ^ (w - 1) ≤ f then BitVec.ofInt 40 ((f : Int) - 2 ^ w) else BitVec.ofNat 40 f

/-- Bit-field insert (R150). -/
def laneBins (a b ctl : Lane) : Lane :=
  let (pos, w) := fieldOf ctl
  let msk : Lane := BitVec.ofNat 40 ((2 ^ w - 1) <<< pos)
  (a &&& ~~~msk) ||| ((b <<< pos) &&& msk)

/-! ## Divide steps (R154, R155) -/

/-- `num / den` rounded to the nearest integer, ties to even. -/
def rneDiv (num den : Nat) : Nat :=
  let q := num / den
  let r := num % den
  if den < 2 * r ∨ (2 * r = den ∧ q % 2 = 1) then q + 1 else q

/-- The greatest `s` below `2^n` with `s² × den ≤ num`, found bit by bit. -/
def sqrtFloor (num den : Nat) : Nat → Nat → Nat
  | 0, acc => acc
  | n + 1, acc =>
    let t := acc + 2 ^ n
    sqrtFloor num den n (if t * t * den ≤ num then t else acc)

/-- `sqrt (num / den)` rounded to the nearest integer; a tie cannot occur for the tables of R154. -/
def rneSqrt (num den : Nat) : Nat :=
  let s := sqrtFloor num den 12 0
  if (2 * s + 1) * (2 * s + 1) * den ≤ 4 * num then s + 1 else s

/-- Table j of `frcpi`: `RNE(512 × 2/(1 + (2j + 1)/512))` (R154). -/
def frcpiTable (j : Nat) : Nat := rneDiv 524288 (513 + 2 * j)
/-- Table j of `frsqi`: `RNE(1,024/sqrt(1 + (2j + 1)/128))` (R154). -/
def frsqiTable (j : Nat) : Nat := rneSqrt 134217728 (129 + 2 * j)

/-- The exponent e of a magnitude `m × 2^x = f × 2^e` with f in [1, 2). -/
def expOf (m : Nat) (x : Int) : Int := x + bitLen m - 1

/-- The top bits of the significand of m below the leading one: `floor((f − 1) × 2^k)` with f in [1, 2). -/
def topBits (m k : Nat) : Nat := ((m <<< k) >>> (bitLen m - 1)) - 2 ^ k

/-- `frcpi` (R154). -/
def laneFrcpi (a : Lane) : Lane × Flags :=
  match fwUnpack a with
  | .nan s => nanResult s
  | .inf s => (fwZero s, Flags.none)
  | .num s m x =>
    if m = 0 then (fwInf s, { Flags.none with dz := true })
    else
      let r := fwRound s (frcpiTable (topBits m 8)) (-expOf m x - 10)
      (r.1, { r.2 with nx := false })

/-- `frsqi` (R154). -/
def laneFrsqi (a : Lane) : Lane × Flags :=
  match fwUnpack a with
  | .nan s => nanResult s
  | .inf s => if s then nanResult true else (fwZero false, Flags.none)
  | .num s m x =>
    if m = 0 then (fwInf s, { Flags.none with dz := true })
    else if s then nanResult true
    else
      let e := expOf m x
      let odd := e % 2 != 0
      let e' := if odd then e - 1 else e
      let j := if odd then topBits m 7 + 64 else topBits m 6
      let r := fwRound false (frsqiTable j) (-(e' / 2) - 10)
      (r.1, { r.2 with nx := false })

/-- `c − a × b`, scaled by `2^k`, rounded once; a product of 0 and ∞ gives the constant with no flag (R155). -/
def newtonStep (cm : Nat) (ce : Int) (k : Int) (a b : Lane) : Lane × Flags :=
  let x := fwUnpack a
  let y := fwUnpack b
  let p := mulExact x y
  match p.1 with
  | .nan _ => if x.isNan || y.isNan then nanResult p.2 else fwRound false cm ce
  | .inf s => (fwInf (!s), Flags.none)
  | .num s m e => addNum false cm ce (!s) m (e + k)

/-! ## Transcendental steps (R156) -/

/-- `n(x)`: a number rounded to an integer, ties to even. -/
def rneVal (s : Bool) (m : Nat) (e : Int) : Int := signed s (rneInt m e).1

/-- `fexpr` and `fsinr`: `a − n(a)`, exact; ±∞ give +0. A zero of `fsinr` keeps its sign, `−0 − 0` being `−0`. -/
def laneReduce (keepZero : Bool) (a : Lane) : Lane × Flags :=
  match fwUnpack a with
  | .nan s => nanResult s
  | .inf _ => (fwZero false, Flags.none)
  | .num s m e =>
    if m = 0 then (if keepZero then a else fwZero false, Flags.none)
    else
      let n := rneVal s m e
      let r := addNum s m e (0 < n) n.natAbs 0
      (if r.1 = fwZero true then fwZero false else r.1, r.2)

/-- `fexpp`: `round(a × 2^n(b))` with n clamped to ±1,100. -/
def laneFexpp (a b : Lane) : Lane × Flags :=
  let x := fwUnpack a
  match x, fwUnpack b with
  | .nan s, y => nanResult (s || y.isSnan)
  | x, .nan s => nanResult (s || x.isSnan)
  | x, .inf true => let p := mulExact x (.num false 0 0); fwRoundVal p.1 p.2
  | x, .inf false => let p := mulExact x (.inf false); fwRoundVal p.1 p.2
  | _, .num s m e =>
    let n := rneVal s m e
    fwScale a (if n < -1100 then -1100 else if 1100 < n then 1100 else n)

/-- Is the fraction of the significand at or above that of `2^(2/4)` (Table 2.9), so that `flogr` halves? -/
def flogHalves (m : Nat) : Bool := 0x0D413CCD ≤ topBits m 29

/-- `flogr`: m, or m/2 (R156). -/
def laneFlogr (a : Lane) : Lane × Flags :=
  match fwUnpack a with
  | .num false m _ =>
    if m = 0 then (0x3FE0000000, Flags.none)
    else
      let k : Int := if flogHalves m then -1 else 0
      fwRound false m (k + 1 - bitLen m)
  | _ => (0x3FE0000000, Flags.none)

/-- `flogp`: `round(a + k(b))` (R156). -/
def laneFlogp (a b : Lane) : Lane × Flags :=
  let x := fwUnpack a
  match x, fwUnpack b with
  | .nan s, y => nanResult (s || y.isSnan)
  | x, .nan s => nanResult (s || x.isSnan)
  | _, .inf s => if s then nanResult true else (fwInf false, Flags.none)
  | x, .num s m e =>
    if m = 0 then (fwInf true, Flags.none)
    else if s then nanResult true
    else
      let k := expOf m e + (if flogHalves m then 1 else 0)
      fwAddVal x (.num (k < 0) k.natAbs 0)

/-- `fsinp`: the sign of an even or odd n(b) (R156). -/
def laneFsinp (a b : Lane) : Lane × Flags :=
  let x := fwUnpack a
  match x, fwUnpack b with
  | .nan s, y => nanResult (s || y.isSnan)
  | x, .nan s => nanResult (s || x.isSnan)
  | _, .inf _ => nanResult true
  | _, .num s m e =>
    if rneVal s m e % 2 = 0 then (a, Flags.none) else (a ^^^ 0x8000000000, Flags.none)

/-! ## Classes, rounding, scale (R157) -/

/-- `fclass`. -/
def laneFclass (a : Lane) : Lane :=
  let k : Nat :=
    match fwUnpack a with
    | .nan s => if s then 8 else 9
    | .inf s => if s then 0 else 7
    | .num s m _ => if m = 0 then (if s then 3 else 4)
                    else if fwExp a = 0 then (if s then 2 else 5) else (if s then 1 else 6)
  BitVec.ofNat 40 (2 ^ k)

/-- `fround`. -/
def laneFround (a : Lane) : Lane × Flags :=
  match fwUnpack a with
  | .nan s => nanResult s
  | .inf _ => (a, Flags.none)
  | .num s m e =>
    if m = 0 then (a, Flags.none)
    else
      let r := rneInt m e
      ((fwRound s r.1 0).1, { Flags.none with nx := r.2 })

/-- `fscale`. -/
def laneFscale (a b : Lane) : Lane × Flags :=
  let n := b.toInt
  match fwUnpack a with
  | .num _ m _ => if m = 0 then (a, Flags.none)
                  else fwScale a (if n < -1100 then -1100 else if 1100 < n then 1100 else n)
  | .inf _ => (a, Flags.none)
  | .nan s => nanResult s

/-- `fmant`. -/
def laneFmant (a : Lane) : Lane × Flags :=
  match fwUnpack a with
  | .nan s => nanResult s
  | .inf _ => (a, Flags.none)
  | .num s m _ => if m = 0 then (a, Flags.none) else fwRound s m (1 - bitLen m)

/-- `fexpo`. -/
def laneFexpo (a : Lane) : Lane × Flags :=
  match fwUnpack a with
  | .nan _ => (s40OfInt (2 ^ 39 - 1), Flags.invalid)
  | .inf _ => (s40OfInt (2 ^ 39 - 1), Flags.none)
  | .num _ m e => if m = 0 then (s40OfInt (-2 ^ 39), Flags.none) else (s40OfInt (expOf m e), Flags.none)

/-! ## LG6 and block scale (R158, R159) -/

/-- `lgmul`. -/
def laneLgmul (a b : Lane) : Lane × Flags :=
  let x := lg6Encode a
  let y := lg6Encode b
  let p := lg6Mul x.1 y.1
  (p.1, (x.2.or y.2).or p.2)

/-- `lgsum`. A NaN on any port, quiet ones too, gives invalid (R158). -/
def laneLgsum (a b c : Lane) : Lane × Flags :=
  let p := laneLgmul a b
  let r := if (fwUnpack c).isNan then nanResult true else fwAdd c p.1
  (r.1, p.2.or r.2)

/-- `lgenc`. -/
def laneLgenc (code : Bool) (a : Lane) : Lane × Flags :=
  let x := lg6Encode a
  if code then (x.1.setWidth 40, x.2)
  else let v := lg6ToFw x.1; (v.1, x.2.or v.2)

/-- `bsfind`: invalid for a signalling NaN (R50). -/
def laneBsfind (a b : Lane) : Lane × Flags :=
  match fwUnpack a with
  | .nan s => (255, { Flags.none with nv := s })
  | .inf _ => (255, Flags.none)
  | .num _ m e =>
    if m = 0 then (127, Flags.none)
    else
      let v := expOf m e - b.toInt + 127
      (s40OfInt (if v < 0 then 0 else if 254 < v then 254 else v), Flags.none)

/-- A value scaled by the header a `bsapply` holds: × 2^(SCALE − 127), or its inverse with `.inv` (Table 6.9). -/
def bsScale (inv : Bool) (h : Hdr) (x : Lane) : Lane × Flags :=
  if h.scale = 0xFF then nanResult true
  else fwScale x (if inv then 127 - (h.scale.toNat : Int) else (h.scale.toNat : Int) - 127)

/-! ## Conversions (R160) -/

/-- `cvtfi`. -/
def laneCvtfi (unsigned : Bool) (a : Lane) : Lane × Flags :=
  match fwUnpack a with
  | .nan _ => (0, Flags.invalid)
  | .inf s => (clampLane unsigned (if s then -2 ^ 41 else 2 ^ 41), Flags.invalid)
  | .num s m e =>
    let r := rneInt m e
    let v := signed s r.1
    let c := clampLane unsigned v
    if intView unsigned c = v then (c, { Flags.none with nx := r.2 }) else (c, Flags.invalid)

/-- `cvtfr`: stored with `cvm` 0, or 1 with `.fin`, and loaded again. -/
def laneCvtfr (ty : BitVec 4) (fin : Bool) (a : Lane) : Lane × Flags :=
  match fmtOfType ty with
  | none => (a, Flags.none)
  | some f =>
    let s := storeConv f .w40 (if fin then 1 else 0) a
    ((loadConv f .w40 s.1).1, { s.2 with nv := s.2.nv || (fwUnpack a).isSnan, sat := false })

/-- `cvtsat`. -/
def laneCvtsat (ty : BitVec 4) (wrap : Bool) (a : Lane) : Lane :=
  match fmtOfType ty with
  | none => a
  | some f => s40OfInt (intOfCode f (storeInt f (if wrap then 2 else 0) a.toInt false).1)

/-! ## The lane functions -/

/-- FW40 compares (Table 6.4): the relation on numbers, the answer for a NaN, and whether a quiet NaN is invalid. -/
def fwCompare (rel : FwVal → FwVal → Bool) (onNan quietInvalid : Bool) (a b : Lane) : Lane × Flags :=
  let x := fwUnpack a
  let y := fwUnpack b
  if x.isNan || y.isNan then
    (if onNan then 1 else 0, { Flags.none with nv := quietInvalid || x.isSnan || y.isSnan })
  else (if rel x y then 1 else 0, Flags.none)

/-- A truth value as a lane word. -/
def bitLane (b : Bool) : Lane := if b then 1 else 0

/-- Without flags. -/
def plain (x : Lane) : Lane × Flags := (x, Flags.none)

/-- Port b under the predictor when `.apx` is set (R68). -/
def effB (w : OpWord) (a b : Lane) : Lane := if w.mod.getLsbD 7 then apxB a b else b

/-- The lane function of the operators whose lanes are computed apart (Tables 6.2–6.5, 6.6–6.8, 6.10, R154, R155).
The operators that read or arrange whole tokens answer a unchanged here and have their own token functions. -/
def laneFn (w : OpWord) (a b c : Lane) : Lane × Flags :=
  let m0 := w.mod.getLsbD 0
  match w.opc with
  | .add => plain (a + b)
  | .sub => plain (a - b)
  | .adds => plain (clampLane m0 (intView m0 a + intView m0 b))
  | .subs => plain (clampLane m0 (intView m0 a - intView m0 b))
  | .mul => plain (a * b)
  | .mulh => plain (BitVec.ofInt 40 (a.toInt * b.toInt / 2 ^ 40))
  | .mulhu => plain (BitVec.ofNat 40 (a.toNat * b.toNat / 2 ^ 40))
  | .div => plain (laneDiv a b)
  | .divu => plain (laneDivu a b)
  | .rem => plain (laneRem a b)
  | .remu => plain (laneRemu a b)
  | .neg => plain (-a)
  | .abs => plain (if a.toInt < 0 then -a else a)
  | .min => plain (if intView m0 a ≤ intView m0 b then a else b)
  | .max => plain (if intView m0 a ≤ intView m0 b then b else a)
  | .and => plain (a &&& b)
  | .or => plain (a ||| b)
  | .xor => plain (a ^^^ b)
  | .andn => plain (a &&& ~~~b)
  | .not => plain (~~~a)
  | .shl => plain (a <<< shAmt b)
  | .shr => plain (a >>> shAmt b)
  | .sar => plain (a.sshiftRight (shAmt b))
  | .rol => plain (a.rotateLeft (shAmt b % 40))
  | .ror => plain (a.rotateRight (shAmt b % 40))
  | .clz => plain (laneClz a)
  | .popc => plain (lanePopc a)
  | .bext => plain (laneBext m0 a b)
  | .bins => plain (laneBins a b c)
  | .brev => plain (laneBrev a)
  | .bswap => plain (laneBswap a)
  | .ceq => plain (bitLane (a == b))
  | .cne => plain (bitLane (a != b))
  | .clt => plain (bitLane (a.toInt < b.toInt))
  | .cle => plain (bitLane (a.toInt ≤ b.toInt))
  | .cltu => plain (bitLane (a.toNat < b.toNat))
  | .cleu => plain (bitLane (a.toNat ≤ b.toNat))
  | .fceq => fwCompare (fun x y => x.le y && y.le x) false false a b
  | .fclt => fwCompare (fun x y => x.le y && !y.le x) false true a b
  | .fcle => fwCompare (fun x y => x.le y) false true a b
  | .fcun => fwCompare (fun _ _ => false) true false a b
  | .sel => plain (if a.getLsbD 0 then b else c)
  | .mov => plain a
  | .fadd => fwAdd a b
  | .fsub => fwSub a b
  | .fmul => fwMul a (effB w a b)
  | .fma => fwFma false false a (effB w a b) c
  | .fms => fwFma false true a (effB w a b) c
  | .fnma => fwFma true false a (effB w a b) c
  | .fnms => fwFma true true a (effB w a b) c
  | .fmin => fwMinMax false (w.mod.getLsbD 5) a b
  | .fmax => fwMinMax true (w.mod.getLsbD 5) a b
  | .fabs => plain (a &&& 0x7FFFFFFFFF)
  | .fneg => plain (a ^^^ 0x8000000000)
  | .fcpsgn => plain ((a &&& 0x7FFFFFFFFF) ||| ((if m0 then a ^^^ b else b) &&& 0x8000000000))
  | .frcps => newtonStep 2 0 0 a b
  | .frcpi => laneFrcpi a
  | .frsqs => newtonStep 3 (-1) (-1) a b
  | .frsqi => laneFrsqi a
  | .fexpr => laneReduce false a
  | .fexpp => laneFexpp a b
  | .flogr => laneFlogr a
  | .flogp => laneFlogp a b
  | .fsinr => laneReduce true a
  | .fsinp => laneFsinp a b
  | .fclass => plain (laneFclass a)
  | .fround => laneFround a
  | .fscale => laneFscale a b
  | .fmant => laneFmant a
  | .fexpo => laneFexpo a
  | .lgmul => laneLgmul a b
  | .lgsum => laneLgsum a b c
  | .lgenc => laneLgenc m0 a
  | .bsfind => laneBsfind a b
  | .cvtfi => laneCvtfi m0 a
  | .cvtif => fwOfInt (intView m0 a)
  | .cvtfr => laneCvtfr w.ty m0 a
  | .cvtsat => plain (laneCvtsat w.ty m0 a)
  | .ctok => plain (bitLane (a != 0))
  | _ => plain a

/-- The class of an element-wise result: control for the compares, `mov.k` and `ctok` (R143, R151, R169). -/
def resultClass (w : OpWord) : TokClass :=
  match w.opc with
  | .ceq | .cne | .clt | .cle | .cltu | .cleu | .fceq | .fclt | .fcle | .fcun | .ctok => .control
  | .mov => if w.mod.getLsbD 0 then .control else .data
  | _ => .data

/-- The mask of an element-wise result: the AND of the masks of the used ports, but for `sel` (R143, R151). -/
def resultMask (w : OpWord) (a b c : Token) : BitVec 16 :=
  match w.opc with
  | .sel => maskOf fun i => a.valid i && (if (a.lane i).getLsbD 0 then b.valid i else c.valid i)
  | _ =>
    let n := portCount w
    a.mask &&& (if 2 ≤ n then b.mask else 0xFFFF) &&& (if 3 ≤ n then c.mask else 0xFFFF)

/-- One firing of an element-wise operator (R143). -/
def fireLanes (w : OpWord) (a b c : Token) : Fired :=
  let m := resultMask w a b c
  let f (i : Nat) := laneFn w (a.lane i) (b.lane i) (c.lane i)
  Fired.emits (Token.make (fun i => (f i).1) m (resultClass w)) (flagsOf (fun i => (f i).2) m)

/-! ## Operators on whole tokens -/

/-- Copy lanes by a source function (R164): lane i is valid when its source is valid in a and `ok i` holds. -/
def firePerm (a : Token) (src : Nat → Nat) (ok : Nat → Bool) : Fired :=
  let m := maskOf fun i => a.valid (src i) && ok i
  Fired.emits (Token.make (fun i => a.lane (src i)) m .data) Flags.none

/-- `combine` of R165: two partial sums, either of which may be absent. -/
def lsumCombine (fw : Bool) (x y : Option Lane × Flags) : Option Lane × Flags :=
  match x.1, y.1 with
  | none, _ => (y.1, x.2.or y.2)
  | _, none => (x.1, x.2.or y.2)
  | some u, some v =>
    let r := if fw then fwAdd u v else (u + v, Flags.none)
    (some r.1, (x.2.or y.2).or r.2)

/-- The tree of R165: the sum of the 2^n lanes from lane `i`. -/
def lsumTree (fw : Bool) (a : Token) : Nat → Nat → Option Lane × Flags
  | 0, i => (if a.valid i then some (a.lane i) else none, Flags.none)
  | n + 1, i => lsumCombine fw (lsumTree fw a n i) (lsumTree fw a n (i + 2 ^ n))

/-- A sum to which nothing was added: of FW40, a NaN is the canonical one, and invalid where it is signalling (R50). -/
def lsumLone (fw : Bool) (v : Lane) : Lane × Flags :=
  match fwUnpack v with
  | .nan s => if fw then nanResult s else (v, Flags.none)
  | _ => (v, Flags.none)

/-- The result of `lsum`: the sum of the tree, +0 where no lane is valid. -/
def lsumResult (fw : Bool) (a : Token) : Lane × Flags :=
  let r := lsumTree fw a 4 0
  let x := lsumLone fw (r.1.getD 0)
  (x.1, r.2.or x.2)

/-- `lsum` (R165). -/
def fireLsum (w : OpWord) (a : Token) : Fired :=
  let r := lsumResult (w.ty == 0) a
  let m : BitVec 16 := if w.mod.getLsbD 0 then 0xFFFF else 1
  Fired.emits (Token.make (fun _ => r.1) m .data) r.2

/-- The greater of two magnitudes for `amaxr`; a NaN stands for itself. -/
def amaxStep (x y : Lane) : Lane := if (fwUnpack x).le (fwUnpack y) then y else x

/-- `amaxr` (Table 6.9). -/
def fireAmaxr (a b : Token) : Fired :=
  let vs := (lanesOf a.mask).map (fun i => a.lane i) ++ (if b.valid 0 then [b.lane 0] else [])
  let nan := vs.any fun v => (fwUnpack v).isNan
  let snan := vs.any fun v => (fwUnpack v).isSnan
  let r := if nan then fwNaN else (vs.map fun v => v &&& 0x7FFFFFFFFF).foldl amaxStep 0
  Fired.emits (Token.make (fun _ => r) 0xFFFF .data) { Flags.none with nv := snan }

/-- `bshdr` (Table 6.9). -/
def fireBshdr (a b : Token) : Fired :=
  let s := (a.lane 0).toInt
  let b0 := b.lane 0
  let h : Hdr :=
    { scale := if a.valid 0 && 0 ≤ s && s ≤ 255 then (a.lane 0).setWidth 8 else 0xFF
      len := if b.valid 0 then b0.extractLsb' 0 8 else 255
      last := b.valid 0 && b0.getLsbD 8
      clip := false }
  Fired.emits (Token.ofHdr h 0) Flags.none

/-- `gate` (Table 7.3). -/
def fireGate (a b : Token) : Fired :=
  let t := b.tset
  if t = 0 then Fired.nothing
  else Fired.emits (Token.make a.lane (a.mask &&& t) a.cls) Flags.none

/-- `chkr` (Table 7.3): trap `chk.range` is 0x31. -/
def fireChkr (a b : Token) : Fired :=
  let bad := maskOf fun i => a.valid i &&
    ((b.valid 0 && (a.lane i).toInt < (b.lane 0).toInt) || (b.valid 1 && (b.lane 1).toInt < (a.lane i).toInt))
  if bad = 0 then Fired.emits a Flags.none else Fired.traps 0x31 (bad.setWidth 64)

/-- `csum.chk` (Table 7.8): trap `csum.mis` is 0x32. -/
def fireCsumChk (w : OpWord) (a b : Token) : Fired :=
  let m := a.mask &&& b.mask
  let bad := maskOf fun i => m.getLsbD i && a.lane i != b.lane i
  if w.mod.getLsbD 0 ∧ bad ≠ 0 then Fired.traps 0x32 (bad.setWidth 64)
  else Fired.emits (Token.make (fun i => bitLane (a.lane i == b.lane i)) m .control) Flags.none

/-- `csum.row` (Table 7.8). -/
def fireCsumRow (a : Token) : Fired :=
  let s := (lanesOf a.mask).foldl (fun acc i => acc + a.lane i) (0 : Lane)
  Fired.emits (Token.make (fun _ => s) 1 .data) Flags.none

/-- The lanes in which two tokens differ: a word, a validity, or a class mismatch in every lane (R183). -/
def differing (x y : Token) : BitVec 16 :=
  if x.cls = y.cls then maskOf fun i => x.lane i != y.lane i || x.valid i != y.valid i else 0xFFFF

/-- What `vote3` finds (R183): the majority token and the dissenting copy with its differing lanes, or a split. -/
def voteOf (a b c : Token) : Option (Token × Option (BitVec 2 × BitVec 16)) :=
  if a = b then some (a, if c = a then none else some (2, differing c a))
  else if a = c then some (a, some (1, differing b a))
  else if b = c then some (b, some (0, differing a b))
  else none

/-- One firing of a stateless operator with no poison and no passing header. -/
def fireTokens (w : OpWord) (a b c : Token) : Fired :=
  match w.opc with
  | .perm => firePerm a (fun i => ((b.lane i).extractLsb' 0 4).toNat) b.valid
  | .permi =>
    let k := (w.mod.extractLsb' 0 4).toNat
    firePerm a (fun i => if w.mod.getLsbD 4 then (i + k) % 16 else Nat.xor i k) (fun _ => true)
  | .bcast => firePerm a (fun _ => ((b.lane 0).extractLsb' 0 4).toNat) (fun _ => b.valid 0)
  | .lsum => fireLsum w a
  | .amaxr => fireAmaxr a b
  | .bshdr => fireBshdr a b
  | .join => Fired.emits (Token.control 0xFFFF) Flags.none
  | .gate => fireGate a b
  | .sink => Fired.nothing
  | .const => Fired.emits (Token.make (fun _ => b.lane 0) (if b.valid 0 then a.mask else 0) .data) Flags.none
  | .iota =>
    let base := if a.valid 0 then a.lane 0 else 0
    Fired.emits (Token.make (fun i => base + BitVec.ofNat 40 i) a.mask .data) Flags.none
  | .chkr => fireChkr a b
  | .csumRow => fireCsumRow a
  | .csumChk => fireCsumChk w a b
  | _ => fireLanes w a b c

/-- `tbread` (Table 7.3). -/
def fireTbread (tb : Word) : Fired :=
  Fired.emits (Token.make (fun i => if i = 0 then tb.extractLsb' 0 40 else (tb.extractLsb' 40 24).setWidth 40) 3 .data)
    Flags.none

end Sys2Proof.Machine
end

