-- ==== Sys2Proof/Machine/Fabric.lean ====
section
/-! DEFINITION. Firing: which tokens an operator or router takes, when it may fire (R17, R20), what poison and burst
headers do to it (R14, R60, R166), replication (R33, R34), and the effect of one firing on the state. -/

namespace Sys2Proof.Machine

/-! ## Arcs -/

/-- The oldest token of an arc, if a token stands there and not a reserved place. -/
def Arc.head (a : Arc) : Option (Token × Tag) :=
  match a.q with
  | .tok t g :: _ => some (t, g)
  | _ => none

/-- Has the arc a free slot (R20)? -/
def Arc.room (a : Arc) : Bool := a.q.length < a.cap + a.depth

/-- The block that produces into an arc. -/
def ArcEnd.blk : ArcEnd → Option Nat
  | .op b _ _ => some b
  | .rtr b _ _ => some b
  | .port _ => none

/-- The tag that an entry takes on an arc: on an arc that enters a block, the next position of the arc (R15, R31), and the
instance that the token leaves joins its thread's earlier ones; within a block, the producer's own. -/
def Arc.tagFor (a : Arc) (g : Tag) : Tag :=
  if a.entry then
    { n := some a.count
      pre := match a.src.blk, g.n with
        | some b, some n => if a.leavesMem && !g.pre.contains (b, n) then g.pre ++ [(b, n)] else g.pre
        | _, _ => g.pre
      via := match a.src, g.n with
        | .port p, _ => kput g.via (4096 + p) a.count
        | .op b _ _, some n => kput g.via b n
        | .rtr b _ _, some n => kput g.via b n
        | _, none => g.via }
  else g

/-- The instances that burst headers pass through are numbered apart from those of other tokens. -/
def headerTag (n : Nat) : Nat := 2 ^ 40 + n

/-- The tag that a burst header takes on an arc: its position among the headers of the arc. -/
def Arc.headerTagFor (a : Arc) (g : Tag) : Tag :=
  if a.entry then { a.tagFor g with n := some (headerTag a.hcount) } else g

/-- Write a token behind the others (R15). -/
def Arc.push (a : Arc) (t : Token) (g : Tag) : Arc :=
  if t.cls = .header then { a with q := a.q ++ [.tok t (a.headerTagFor g)], hcount := a.hcount + 1 }
  else { a with q := a.q ++ [.tok t (a.tagFor g)], count := a.count + 1 }

/-- Reserve the place of a memory operation's result; of a firing on headers alone it is that header (R173). -/
def Arc.reserve (a : Arc) (op : Nat) (g : Tag) (header : Bool) : Arc :=
  if header then { a with q := a.q ++ [.pending op (a.headerTagFor g)], hcount := a.hcount + 1 }
  else { a with q := a.q ++ [.pending op (a.tagFor g)], count := a.count + 1 }

/-- Put a memory operation's result in its reserved place. -/
def Arc.fill (a : Arc) (op : Nat) (t : Token) : Arc :=
  { a with q := a.q.map fun x => match x with
      | .pending o g => if o = op then .tok t g else .pending o g
      | .tok u g => .tok u g }

/-- Take the oldest entry. -/
def Arc.pop (a : Arc) : Arc := { a with q := a.q.tail }

/-- Is the arc a result of target `i` of the producer `e`? -/
def Arc.fromTarget (e : Site) (i : Nat) (a : Arc) : Bool :=
  a.src = if e.rtr then .rtr e.blk e.slot i else .op e.blk e.slot i

/-- Is the arc a result of the producer `e`, at one of some targets? -/
def Arc.fromSite (e : Site) (ts : List Nat) (a : Arc) : Bool := ts.any fun i => a.fromTarget e i

/-- The input port `p` of a site. -/
def inputOf (e : Site) (p : Nat) : ArcEnd := if e.rtr then .rtr e.blk e.slot p else .op e.blk e.slot p

/-- The arc that ends at a consumer port: there is at most one (R107, R109). -/
def Image.arcTo (img : Image) (d : ArcEnd) : Option Arc := img.arcs.find? fun a => a.dst = d

/-- Have all result arcs of a site at some targets a free slot (R17)? -/
def Image.hasRoom (img : Image) (e : Site) (ts : List Nat) : Bool :=
  img.arcs.all fun a => !a.fromSite e ts || a.room

/-- One event (R16, R17): take the oldest token of some input ports and write a token to every result arc of some targets. -/
def Image.fire (img : Image) (e : Site) (take : List Nat) (outs : List (List Nat × Token)) (tag : Tag) : Image :=
  { img with arcs := img.arcs.map fun a =>
      let a1 := if take.any fun p => a.dst = inputOf e p then a.pop else a
      outs.foldl (fun a o => if a.fromSite e o.1 then a.push o.2 tag else a) a1 }

/-- All targets. -/
def allTargets : List Nat := [0, 1, 2, 3]

/-! ## Sites -/

/-- The operator slot of a site. Site 32·k + i is copy k of the triplicated operator in slot i, which alone fires there (R362): its slot is seen with
the turn at that copy. -/
def Image.slotAt (img : Image) (e : Site) : Option OpSlot :=
  if e.rtr then none
  else (img.blocks[e.blk]?).bind fun b => (b.ops[e.slot % 32]?).bind fun o =>
    if o.trip then (if e.slot / 32 < 3 then some { o with dealt := e.slot / 32 } else none) else if e.slot < 32 then some o else none

/-- The router slot of a site. -/
def Image.rtrAt (img : Image) (e : Site) : Option RtrSlot :=
  if e.rtr then (img.blocks[e.blk]?).bind fun b => b.rtrs[e.slot]? else none

/-- Replace one element of a list. -/
def replaceAt {α : Type} : List α → Nat → α → List α
  | [], _, _ => []
  | _ :: xs, 0, y => y :: xs
  | x :: xs, n + 1, y => x :: replaceAt xs n y

/-- Put an operator slot back. -/
def Image.setSlot (img : Image) (e : Site) (sl : OpSlot) : Image :=
  match img.blocks[e.blk]? with
  | none => img
  | some b => { img with blocks := replaceAt img.blocks e.blk { b with ops := replaceAt b.ops (e.slot % 32) sl } }

/-- Put a router slot back. -/
def Image.setRtr (img : Image) (e : Site) (r : RtrSlot) : Image :=
  match img.blocks[e.blk]? with
  | none => img
  | some b => { img with blocks := replaceAt img.blocks e.blk { b with rtrs := replaceAt b.rtrs e.slot r } }

/-- Does the plane fire now (R36): the storm jib always, a sail when it is the active one of its die? -/
def planeRuns (s : State) (die plane : Nat) : Bool :=
  plane = 4 || ((dget Frame.initial s.frames die).active = plane && !dget false s.sailsOut (4 * die + plane))

/-- May operators of the image fire: its plane runs and its unit is bound, neither saved nor cancelled (R36, R41, R312)? -/
def mayFire (s : State) (img : Image) : Bool :=
  planeRuns s img.die img.plane &&
    match kget s.units img.unit with
    | some w => w.life = .bound && !w.cancelled
    | none => false

/-- The tile-plane number of a tile of the image's die and plane. -/
def Image.tpKey (img : Image) (tile : Nat) : Nat := 320 * img.die + 5 * tile + img.plane

/-- OR flags into the `numst` of a tile-plane (R51). -/
def orNumst (s : State) (key : Nat) (f : Flags) : State :=
  let r := dget TpRegs.initial s.tps key
  { s with tps := dset TpRegs.initial s.tps key { r with numst := r.numst ||| f.toNumst } }

/-- Put an image back. -/
def putImage (s : State) (key : Nat) (img : Image) : State := { s with images := kput s.images key img }

/-! ## Which tokens a firing takes -/

/-- Does `ahalt` of the image's die halt the arc: EN, and the producer's tile-plane, block, slot and target (R273, R274)? -/
def arcHalted (s : State) (img : Image) (a : Arc) : Bool :=
  let r := dget 0 s.ahalt img.die
  let names (rtr : Bool) (b slot idx : Nat) : Bool :=
    match img.blocks[b]? with
    | none => false
    | some blk =>
      (r.extractLsb' 53 6).toNat = blk.tile && r.getLsbD 52 == blk.bsel && r.getLsbD 51 == rtr &&
        (r.extractLsb' 46 5).toNat = slot && (r.extractLsb' 44 2).toNat = idx
  r.getLsbD 63 && (r.extractLsb' 59 3).toNat = img.plane &&
    match a.src with
    | .op b sl i => names false b (sl % 32) i
    | .rtr b sl i => names true b sl i
    | .port _ => false

/-- Is the arc to a consumer port halted? -/
def portHalted (s : State) (img : Image) (d : ArcEnd) : Bool := ((img.arcTo d).map fun a => arcHalted s img a).getD false

/-- The oldest token on the arc to a consumer port. -/
def Image.headOf (img : Image) (d : ArcEnd) : Option (Token × Tag) := (img.arcTo d).bind Arc.head

/-- Has the copy of an operator that takes its turn been stopped by a trap of its element (R44)? -/
def OpSlot.stops (sl : OpSlot) (turn : Nat) : Bool := sl.stopped.contains turn

/-- Has a trap stopped an element of the image's plane (R44)? -/
def Image.elemStopped (img : Image) (tile elem : Nat) : Bool :=
  img.blocks.any fun b => b.ops.any fun o => o.stopped.any fun k => match o.copies[k]? with
    | some c => c.tile = tile && c.elem = elem
    | none => false

/-- The tokens at the used ports of an operator: a port fed by nothing, or where no token stands yet, holds it back. A token on a halted arc stands
there; the firing must not take it (R274). -/
def Image.headsOf (img : Image) (e : Site) : List Nat → Option (List (Nat × Token × Tag))
  | [] => some []
  | p :: ps =>
    match img.headOf (inputOf e p), img.headsOf e ps with
    | some h, some hs => some ((p, h) :: hs)
    | _, _ => none

/-- Would a firing take a token from a halted arc (R274)? -/
def takesHalted (s : State) (img : Image) (e : Site) (take : List Nat) : Bool := take.any fun p => portHalted s img (inputOf e p)

/-- The three ways an operator fires (R14, R60). -/
inductive FireKind where
  /-- A poison token stands on an input: the copy that is emitted. -/
  | poison (t : Token)
  /-- Headers pass: the ports that hold one, and the header emitted. -/
  | headers (ports : List Nat) (t : Token)
  | data
deriving DecidableEq, Repr

/-- The operators to which the passing rule of R60 does not apply: the header-aware ones (R159), `join` and `sink`, and
`vote3`, which compares headers as whole tokens (R183). -/
def takesHeaders : Opc → Bool
  | .bsapply | .bsstrip | .join | .sink | .vote3 => true
  | _ => false

/-- How an operator fires on the tokens at its ports. `vote3` takes poison as any other token (R183). -/
def fireKind (o : Opc) (hs : List (Nat × Token × Tag)) : FireKind :=
  match hs.find? fun h => h.2.1.cls = .poison with
  | some h => if o = .vote3 then .data else .poison h.2.1
  | none =>
    if takesHeaders o then .data
    else
      match hs.filter fun h => h.2.1.cls = .header with
      | [] => .data
      | h :: rest => .headers (h.1 :: rest.map fun x => x.1) h.2.1

/-- The later position of two threads at each place. -/
def joinVia (xs ys : List (Nat × Nat)) : List (Nat × Nat) := ys.foldl (fun m x => kput m x.1 (max x.2 ((kget m x.1).getD 0))) xs

/-- The tag of what a firing makes: the instance of the lowest-numbered taken token that has one, and every earlier
instance of the taken tokens' threads. -/
def joinTags (gs : List Tag) : Tag :=
  { n := gs.findSome? fun g => g.n
    pre := gs.foldl (fun acc g => acc ++ g.pre.filter fun x => !acc.contains x) []
    via := gs.foldl (fun acc g => joinVia acc g.via) [] }

/-- Do the tokens at the ports of a firing consist of burst headers alone (R60, R173)? -/
def allHeaders (hs : List (Nat × Token × Tag)) : Bool := !hs.isEmpty && hs.all fun h => h.2.1.cls = .header

/-- The tag of a firing on the tokens at its ports. -/
def tagOf (hs : List (Nat × Token × Tag)) : Tag := joinTags (hs.map fun h => h.2.2)

/-- The token taken at a port, or the immediate, or an empty token at a port the opcode does not use. -/
def tokenAt (w : OpWord) (hs : List (Nat × Token × Tag)) (p : Nat) : Token :=
  match hs.find? fun h => h.1 = p with
  | some h => h.2.1
  | none =>
    match w.imm with
    | some i => if p = 1 then immToken w i else Token.make (fun _ => 0) 0 .data
    | none => Token.make (fun _ => 0) 0 .data

/-! ## Operators with a state of their own -/

/-- The copy that the next dealt token goes to (R34); a triplicated operator is seen at one of its copies (`Image.slotAt`). -/
def OpSlot.turn (sl : OpSlot) : Nat := if sl.copies.length = 0 then 0 else sl.dealt % sl.copies.length

/-- Does the operator wait, since the copy that takes its turn stands on a stopped element (R44)? -/
def OpSlot.halts (sl : OpSlot) : Bool := sl.stops sl.turn

/-- A trap stops the element of copy `k` (R44). -/
def OpSlot.stop (sl : OpSlot) (k : Nat) : OpSlot := { sl with stopped := if sl.stopped.contains k then sl.stopped else sl.stopped ++ [k] }

/-- Change one copy. -/
def OpSlot.setCopy (sl : OpSlot) (k : Nat) (c : OpCopy) : OpSlot := { sl with copies := replaceAt sl.copies k c }

/-- The number of a lane-file word (R112): die, tile, element, lane and word. -/
def laneKey (die tile elem lane word : Nat) : Nat := (((die * 64 + tile) * 68 + elem) * 16 + lane) * 2457 + word

/-- What one firing does beside its tokens: the result, the slot afterwards and the lane-file words written. -/
structure Effect where
  fired : Fired
  slot : OpSlot
  lanes : List (Nat × Lane)
  vrec : Option (BitVec 2 × BitVec 16)
deriving Repr

/-- The window word of an index, or none when it is out of range without `.wrap` (R162). -/
def windowWord (base len : Nat) (wrap : Bool) (i : Int) : Option Nat :=
  if 0 ≤ i ∧ i < len then some (base + i.toNat)
  else if wrap ∧ 0 < len then some (base + (i % len).toNat)
  else none

/-- A lane-file firing (R161, R162): the trap `lf.range` is 0x30. -/
def laneFileEffect (s : State) (img : Image) (sl : OpSlot) (c : OpCopy) (a b : Token) : Effect :=
  let w := sl.word
  let (base, len) := sl.lfw.getD (0, 0)
  let common := w.opc = .lfldi || w.opc = .lfsti
  let wrap := w.mod.getLsbD 0
  let idx (i : Nat) : Int := if common then (b.lane 0).toInt else (a.lane i).toInt
  let m : BitVec 16 :=
    if common then (if b.valid 0 then a.mask else 0) else if w.opc = .lfst then a.mask &&& b.mask else a.mask
  let bad := maskOf fun i => m.getLsbD i && (windowWord base len wrap (idx i)).isNone
  let key (i : Nat) : Nat := laneKey img.die c.tile c.elem i ((windowWord base len wrap (idx i)).getD 0)
  let data (i : Nat) : Lane := if w.opc = .lfst then b.lane i else a.lane i
  let writes := w.opc = .lfst || w.opc = .lfsti
  if bad ≠ 0 then { fired := Fired.traps 0x30 (bad.setWidth 64), slot := sl, lanes := [], vrec := none }
  else
    { fired := Fired.emits (Token.make (fun i => dget 0 s.lanes (key i)) m .data) Flags.none
      slot := sl
      lanes := if writes then (lanesOf m).map fun i => (key i, data i) else []
      vrec := none }

/-- `csum.col` (R185). -/
def csumColEffect (sl : OpSlot) (k : Nat) (c : OpCopy) (a b : Token) : Effect :=
  let v := (b.lane 0).toNat
  let n := if b.valid 0 then (if v < 1 then 1 else if 2 ^ 24 < v then 2 ^ 24 else v) else 1
  let acc : Vector Lane 16 := Vector.ofFn fun i => c.acc[i] + (if a.valid i.val then a.lane i.val else 0)
  if n ≤ c.cnt + 1 then
    { fired := Fired.emits { lanes := acc, mask := 0xFFFF, cls := .data } Flags.none
      slot := sl.setCopy k { c with acc := Vector.replicate 16 0, cnt := 0 }, lanes := [], vrec := none }
  else
    { fired := Fired.nothing, slot := sl.setCopy k { c with acc := acc, cnt := c.cnt + 1 }, lanes := [], vrec := none }

/-- `bsapply` (Table 6.9): a header is latched by every copy that tokens are dealt to (R34), or by the triplicated copy that it has come to, and
emitted; data is scaled by the copy's latch. -/
def bsapplyEffect (sl : OpSlot) (c : OpCopy) (a : Token) : Effect :=
  let inv := sl.word.mod.getLsbD 0
  if a.cls = .header then
    let h := Hdr.ofLane (a.lane 0)
    let l0 : Lane := (a.lane 0 &&& 0xFFFFFFFF00) ||| 127
    let t : Token := if inv then a else { a with lanes := a.lanes.set 0 l0 }
    { fired := Fired.emits t Flags.none
      slot := if sl.trip then sl.setCopy sl.turn { c with hdr := h } else { sl with copies := sl.copies.map fun c => { c with hdr := h } }
      lanes := [], vrec := none }
  else
    let f (i : Nat) := bsScale inv c.hdr (a.lane i)
    { fired := Fired.emits (Token.make (fun i => (f i).1) a.mask .data) (flagsOf (fun i => (f i).2) a.mask),
      slot := sl, lanes := [], vrec := none }

/-- `vote3` (R183): the trap `vote.split` is 0x33. -/
def voteEffect (sl : OpSlot) (a b c : Token) : Effect :=
  match voteOf a b c with
  | none => { fired := Fired.traps 0x33 0, slot := sl, lanes := [], vrec := none }
  | some (t, r) => { fired := Fired.emits t Flags.none, slot := sl, lanes := [], vrec := r }

/-- What a firing of an operator of form C does with the tokens it takes. -/
def dataEffect (s : State) (img : Image) (sl : OpSlot) (a b c : Token) : Effect :=
  let k := sl.turn
  let cp := (sl.copies[k]?).getD { tile := 0, elem := 0, hdr := Hdr.initial, acc := Vector.replicate 16 0, cnt := 0 }
  match sl.word.opc with
  | .lfld | .lfst | .lfldi | .lfsti => laneFileEffect s img sl cp a b
  | .csumCol => csumColEffect sl k cp a b
  | .bsapply => bsapplyEffect sl cp a
  | .bsstrip => { fired := if a.cls = .header then Fired.nothing else Fired.emits a Flags.none,
                  slot := sl, lanes := [], vrec := none }
  | .vote3 => voteEffect sl a b c
  | .tbread => { fired := fireTbread s.tb, slot := sl, lanes := [], vrec := none }
  | _ => { fired := fireTokens sl.word a b c, slot := sl, lanes := [], vrec := none }

/-- What a poisoned firing does: a copy of the poison leaves on every target; `sink` raises `data.poison` (0x20)
with the poison's cause as value (R14, R169). -/
def poisonEffect (sl : OpSlot) (t : Token) : Effect :=
  { fired := if sl.word.opc = .sink then Fired.traps 0x20 ((t.lane 0).setWidth 64 &&& 0xFFFF) else Fired.emits t Flags.none,
    slot := sl, lanes := [], vrec := none }

/-! ## One firing of an operator of form C -/

/-- The answer of a firing: it cannot fire, it fired, or it fired and trapped. -/
inductive FireRes where
  | idle
  | fired (s : State)
  | trapped (s : State) (cause : BitVec 16) (val : Word) (toks : List Token)
deriving Repr

/-- Count a disagreement in a tile-plane's `vrec` (R184). -/
def recordVote (s : State) (key : Nat) (slot : Nat) (bsel : Bool) (r : Option (BitVec 2 × BitVec 16)) : State :=
  match r with
  | none => s
  | some (copy, lanes) =>
    let t := dget TpRegs.initial s.tps key
    let t' := { t with vcnt := if t.vcnt = 0xFFFF then t.vcnt else t.vcnt + 1, vlanes := lanes,
                       vslot := BitVec.ofNat 5 slot, vbsel := bsel, vcopy := copy, vv := true }
    { s with tps := dset TpRegs.initial s.tps key t' }

/-- Is the firing one that the rotation of copies counts? Headers are given to every copy and do not advance it (R34). -/
def deals (kind : FireKind) (hs : List (Nat × Token × Tag)) : Bool :=
  match kind with
  | .headers _ _ => false
  | _ => !(hs.all fun h => h.2.1.cls = .header) || hs.isEmpty

/-- Apply the effect of a firing: tokens taken and written as one event, registers and lane-file words set. -/
def applyEffect (s : State) (img : Image) (e : Site) (sl : OpSlot) (kind : FireKind)
    (hs : List (Nat × Token × Tag)) (take : List Nat) (ef : Effect) : FireRes :=
  let cp := sl.copies[sl.turn]?
  let tile := (cp.map fun c => c.tile).getD img.tile
  let bsel := ((img.blocks[e.blk]?).map fun b => b.bsel).getD false
  let toks := hs.map fun h => h.2.1
  match (if takesHalted s img e take then none else ef.fired.trap) with
  | some (cause, val) =>
    .trapped (putImage s e.tp.key (img.setSlot e (sl.stop sl.turn))) cause val toks
  | none =>
    if (ef.fired.out.isSome ∧ !img.hasRoom e allTargets) ∨ takesHalted s img e take then .idle
    else
      let outs := match ef.fired.out with | some t => [(allTargets, t)] | none => []
      let sl' := { ef.slot with dealt := if deals kind hs then sl.dealt + 1 else sl.dealt }
      let img' := (img.setSlot e sl').fire e take outs (tagOf hs)
      let s1 := putImage s e.tp.key img'
      let s2 := { s1 with lanes := ef.lanes.foldl (fun m kv => dset 0 m kv.1 kv.2) s1.lanes }
      let s3 := orNumst s2 (img.tpKey tile) ef.fired.flags
      .fired (recordVote s3 (img.tpKey tile) e.slot bsel ef.vrec)

/-- One firing of the operator at a site, if it holds opcode `o` and may fire (R17). -/
def fireOp (o : Opc) (e : Site) (s : State) : FireRes :=
  match kget s.images e.tp.key with
  | none => .idle
  | some img =>
    match img.slotAt e with
    | none => .idle
    | some sl =>
      if sl.word.opc ≠ o ∨ sl.halts ∨ !mayFire s img then .idle
      else
        match img.headsOf e (arcPorts sl.word) with
        | none => .idle
        | some hs =>
          let kind := fireKind o hs
          match kind with
          | .poison t => applyEffect s img e sl kind hs (arcPorts sl.word) (poisonEffect sl t)
          | .headers ps t =>
            applyEffect s img e sl kind hs ps
              { fired := Fired.emits t Flags.none, slot := sl, lanes := [], vrec := none }
          | .data =>
            applyEffect s img e sl kind hs (arcPorts sl.word)
              (dataEffect s img sl (tokenAt sl.word hs 0) (tokenAt sl.word hs 1) (tokenAt sl.word hs 2))

/-! ## One firing of a router (R26–R29, R166, R167) -/

/-- What a router takes and writes: the ports, the tokens by targets, and its state afterwards. -/
structure Routed where
  take : List Nat
  outs : List (List Nat × Token)
  rtr : RtrSlot
deriving DecidableEq, Repr

/-- A token's lanes under a smaller mask (R26); a poison is not split (R26, R166). -/
def splitTo (d : Token) (m : BitVec 16) : Token := if d.cls = .poison then d else { d with mask := d.mask &&& m }

/-- The poison on the lowest-numbered poisoned port (R14). -/
def firstPoison (ts : List Token) : Option Token := ts.find? fun t => t.cls = .poison

/-- `steer` (R26). Where data and control are both poison, both arcs receive the data's: it stands on the lower-numbered port (R14; log entry 25). -/
def routeSteer (r : RtrSlot) (d k : Option Token) : Option Routed :=
  match d, k with
  | some d, some k =>
    if k.cls = .poison then
      let p := (firstPoison [d, k]).getD k
      some { take := [0, 1], outs := [([0, 1], p), ([2, 3], p)], rtr := r }
    else
      let t := k.tset
      some { take := [0, 1],
             outs := (if t ≠ 0 then [([0, 1], splitTo d t)] else []) ++ (if ~~~t ≠ 0 then [([2, 3], splitTo d (~~~t))] else []),
             rtr := r }
  | _, _ => none

/-- Merge lanes by the control (R27). -/
def mergeTokens (t : BitVec 16) (x y : Option Token) : Token :=
  let e : Token := Token.make (fun _ => 0) 0 .data
  let a := x.getD e
  let b := y.getD e
  { lanes := Vector.ofFn fun i => if t.getLsbD i.val then a.lane i.val else b.lane i.val
    mask := a.mask ||| b.mask
    cls := if t ≠ 0 then a.cls else b.cls }

/-- `merge.ord` (R27, R166). -/
def routeMergeOrd (r : RtrSlot) (x y k : Option Token) : Option Routed :=
  match k with
  | none => none
  | some k =>
    let t := k.tset
    let needX := k.cls = .poison || t ≠ 0
    let needY := k.cls = .poison || ~~~t ≠ 0
    if (needX ∧ x.isNone) ∨ (needY ∧ y.isNone) then none
    else
      let x' := if needX then x else none
      let y' := if needY then y else none
      let out := (firstPoison (x'.toList ++ y'.toList ++ [k])).getD (mergeTokens t x' y')
      some { take := (if needX then [0] else []) ++ (if needY then [1] else []) ++ [2], outs := [(allTargets, out)], rtr := r }

/-- `merge.arr` (R28). -/
def routeMergeArr (r : RtrSlot) (x y : Option Token) : Option Routed :=
  match x, y with
  | none, none => none
  | some x, none => some { take := [0], outs := [(allTargets, x)], rtr := { r with tookX := true } }
  | none, some y => some { take := [1], outs := [(allTargets, y)], rtr := { r with tookX := false } }
  | some x, some y =>
    if r.tookX then some { take := [1], outs := [(allTargets, y)], rtr := { r with tookX := false } }
    else some { take := [0], outs := [(allTargets, x)], rtr := { r with tookX := true } }

/-- `carry` (Table 7.2). -/
def routeCarry (r : RtrSlot) (i b k : Option Token) : Option Routed :=
  if !r.loop then
    i.map fun t => { take := [0], outs := [(allTargets, t)], rtr := { r with loop := true } }
  else
    match k with
    | none => none
    | some k =>
      if k.cls = .poison then
        some { take := (if b.isSome then [1] else []) ++ [2],
               outs := [(allTargets, (firstPoison (b.toList ++ [k])).getD k)], rtr := r }
      else if k.tset = 0 then some { take := [2], outs := [], rtr := { r with loop := false } }
      else b.map fun t => { take := [1, 2], outs := [(allTargets, t)], rtr := r }

/-- The operator, router or stream port at an end of an arc. -/
def ArcEnd.site : ArcEnd → ArcEnd
  | .op b k _ => .op b k 0
  | .rtr b k _ => .rtr b k 0
  | .port n => .port n

/-- The arcs that lead to some arcs without leaving their block. -/
def Image.before (img : Image) : Nat → List Arc → List Arc
  | 0, xs => xs
  | f + 1, xs =>
    let more := img.arcs.filter fun a => !a.entry && !xs.any (fun x => x.dst = a.dst) && xs.any fun x => !x.entry && a.dst.site = x.src.site
    if more.isEmpty then xs else img.before f (xs ++ more)

/-- Does a router stand on a ring within its block: does what it passes on come back to it (R258)? -/
def Image.onRing (img : Image) (b r : Nat) : Bool :=
  let site : ArcEnd := .rtr b r 0
  (img.before (img.arcs.length + 1) (img.arcs.filter fun a => !a.entry && a.dst.site = site)).any fun a => a.src.site = site

/-- Does a router's number of tokens passed on number the threads of its block (R31)? A `merge.arr` of which an input enters the block, or that stands on a ring
(a credit that has come back is one of the thread that takes it next), or a `carry` whose loop leaves the block: no one of its input arcs carries every
passage. -/
def Image.renumbers (img : Image) (b r : Nat) (o : Opc) : Bool :=
  let entry (p : Nat) : Bool := ((img.arcTo (.rtr b r p)).map fun a => a.entry).getD false
  match o with
  | .mergeArr => entry 0 || entry 1 || img.onRing b r
  | .carry => entry 1
  | _ => false

/-- The tag of what a router passes on: that of its control token for a `merge.ord`, whose input arcs each carry some of the threads only (R27), and the
next number where the router itself numbers the threads (R31; log entry 22). -/
def Image.routerTag (img : Image) (e : Site) (r : RtrSlot) (took : List (Nat × Token × Tag)) : Tag :=
  let g := tagOf took
  if took.any fun h => h.2.1.cls = .header then g
  else if r.word.opc = .mergeOrd then { g with n := ((took.find? fun h => h.1 = 2).bind fun h => h.2.2.n).or g.n }
  else if img.renumbers e.blk e.slot r.word.opc then { g with n := some r.count }
  else g

/-- What a router does with the tokens at its ports. -/
def route (r : RtrSlot) (p0 p1 p2 : Option Token) : Option Routed :=
  match r.word.opc with
  | .steer => routeSteer r p0 p1
  | .mergeOrd => routeMergeOrd r p0 p1 p2
  | .mergeArr => routeMergeArr r p0 p1
  | .carry => routeCarry r p0 p1 p2
  | _ => none

/-- One firing of the router at a site, if it holds opcode `o`, has its inputs and has room on each arc it writes. Neither a halted arc that it
would take from (R274; log entry 122) nor a trap of its element (R44) lets it fire. -/
def fireRouter (o : Opc) (e : Site) (s : State) : FireRes :=
  match kget s.images e.tp.key with
  | none => .idle
  | some img =>
    match img.rtrAt e with
    | none => .idle
    | some r =>
      if r.word.opc ≠ o ∨ img.elemStopped r.tile r.elem ∨ !mayFire s img then .idle
      else
        let h (p : Nat) := img.headOf (inputOf e p)
        match route r ((h 0).map fun x => x.1) ((h 1).map fun x => x.1) ((h 2).map fun x => x.1) with
        | none => .idle
        | some ro =>
          if (ro.outs.all fun x => img.hasRoom e x.1) && !takesHalted s img e ro.take then
            let tag := img.routerTag e r (ro.take.filterMap fun p => (h p).map fun x => (p, x))
            .fired (putImage s e.tp.key ((img.setRtr e { ro.rtr with count := r.count + (if tag.n.any (2 ^ 40 ≤ ·) then 0 else ro.outs.length) }).fire e ro.take ro.outs tag))
          else .idle

end Sys2Proof.Machine
end

