-- ==== Sys2Proof/Machine/MemOps.lean ====
section
/-! DEFINITION. The memory operators of 07_operators_flow_and_memory.md: how a firing enters its block instance's wave
chain (R76, R173), and what the memory interface does when it issues the operation: loads, deferred stores, full/empty
loads, copies started by an aperture store, fences, waits, FX128 additions and integer atomics. -/

namespace Sys2Proof.Machine

/-! ## Addresses -/

/-- The virtual address of an address word, under the g registers that the firing read (R171, R244). -/
def addrOf (x : MemFire) (w : Lane) : Nat :=
  ((x.seeds[(w.extractLsb' 36 4).toNat]'(by have := (w.extractLsb' 36 4).isLt; omega)).toNat + (w.extractLsb' 0 36).toNat) % 2 ^ 57

/-- The window exponent of the region of a job that holds a cell (R63, R181, R198). -/
def fxWindow (s : State) (job : Nat) (a : Nat) : Option Int :=
  (s.fxregs.find? fun r => r.job = job && r.pieces.any fun pc => pc.1 ≤ a && a + 16 ≤ pc.1 + pc.2).map fun r => r.w

/-- Check one access of a memory operator (R70, R171, R339): alignment, translation, and the page kinds that only
`apst` and sequencers may reach. -/
def checkLane (s : State) (u : WorkUnit) (va size : Nat) (acc : Access) : Xlat :=
  if va % size ≠ 0 then .bad cMemAlign
  else
    match translate s u.asid va acc with
    | .bad c => .bad c
    | .ok (.aperture _ _) => .bad cMemAttr
    | .ok (.queue _ _ _) => .bad cMemAttr
    | .ok p => if touchesLost s p size then .bad cMemUce else .ok p

/-- Check every lane before any is performed (R173): the places, or the first cause with its address. -/
def checkLanes (s : State) (u : WorkUnit) (size : Nat) (acc : Access) : List (Nat × Nat) → Except (BitVec 16 × Nat) (List (Nat × Phys))
  | [] => .ok []
  | (i, va) :: rest =>
    match checkLane s u va size acc, checkLanes s u size acc rest with
    | .bad c, _ => .error (c, va)
    | .ok _, .error e => .error e
    | .ok p, .ok ps => .ok ((i, p) :: ps)

/-! ## What an instance's own thread sees -/

/-- Lay deferred bytes over a byte read at a place (R31): a store that one of the place's addresses shares with it, whichever page either goes through. -/
def overlayByte (p : Phys) (b : Byte) (d : Deferred) : Byte :=
  match d with
  | .store _ q bs _ =>
    match p, q with
    | .sys a, .sys c => if c ≤ a ∧ a < c + bs.length then bs.getD (a - c) b else b
    | _, _ =>
      match p.homes.findSome? fun a => (q.homes.find? fun c => c ≤ a && a < c + bs.length).map fun c => a - c with
      | some k => bs.getD k b
      | none => b
  | .copy _ _ _ _ _ _ => b

/-- Read bytes as an operation of an instance sees them: with the stores of its thread that come before it (R31, R78). -/
def readOwn (s : State) (n : Nat) (x : MemFire) (die : Nat) (p : Phys) (len : Nat) : List Byte :=
  let ds := ((kget s.insts n).map fun it => ownDeferred s it x).getD []
  (readPhys s die p len).mapIdx fun k b => ds.foldl (overlayByte (p.plus k)) b

/-! ## Elements -/

/-- The view and conversion of a loaded element (Table 7.4, R53, R174); fx128 cells are read by `fxRead`. -/
def loadElem (ty : BitVec 4) (x : Bool) (bs : List Byte) : Lane × Flags :=
  let v := leNat bs
  match fmtOfType ty with
  | none => (BitVec.ofNat 40 v, Flags.none)
  | some f =>
    let view : View := if f.isInt == x then .w40 else .s40
    let r := loadConv f view v
    (r.1, { r.2 with sat := false })

/-- The bytes of a stored element (R175). -/
def storeElem (ty : BitVec 4) (cvm : BitVec 2) (v : Lane) : List Byte × Flags :=
  match fmtOfType ty with
  | none => (leBytes 8 v.toNat, Flags.none)
  | some f =>
    let r := storeConv f (if f.isInt then .s40 else .w40) cvm v
    (leBytes (elemSize ty) r.1, { r.2 with sat := false })

/-! ## Issue -/

/-- What the memory interface finds when it issues an operation. -/
inductive IssueRes where
  /-- It waits, before any effect (R89, R93, R180). -/
  | waits (s : State) (onWindow : List (Phys × Nat))
  /-- It is withheld by a fault at an address (R99). -/
  | fault (cause : BitVec 16) (va : Nat)
  /-- It is performed, or enters the instance, and its result token is ready. -/
  | done (s : State) (t : Token)
  /-- It meets a cancelled copy (R91): `data.poison`. -/
  | poisoned
deriving Repr

/-- Add deferred effects to an instance; `rel` marks a release store among them (R80). -/
def deferTo (s : State) (n : Nat) (ds : List Deferred) (rel : Bool) : State :=
  { s with insts := kmod s.insts n fun it => { it with deferred := it.deferred ++ ds, rel := it.rel || rel } }

/-- Change a waiting operation of an instance. -/
def modFire (s : State) (n op : Nat) (f : MemFire → MemFire) : State :=
  { s with insts := kmod s.insts n fun it => { it with waiting := it.waiting.map fun x => if x.op = op then f x else x } }

/-- Hold an access back while a window or a mode change covers it. -/
def whenClear (s : State) (x : MemFire) (ps : List (Nat × Phys)) (size : Nat) (k : IssueRes) : IssueRes :=
  if x.poisoned then .poisoned
  else if ps.any fun ip => windowed s none ip.2 size then .waits s (ps.map fun ip => (ip.2, size))
  else if ps.any fun ip => tierBusy s ip.2 then .waits s []
  else k

/-- `vld` and `vldx` (R174). -/
def issueLoad (s : State) (u : WorkUnit) (key n die : Nat) (w : OpWord) (x : MemFire) : IssueRes :=
  let sz := elemSize w.ty
  let lanes := lanesOf x.a.mask
  let addr (i : Nat) : Nat :=
    if w.opc = .vld then (addrOf x (x.a.lane 0) + i * sz) % 2 ^ 57 else addrOf x (x.a.lane i)
  if w.opc = .vld ∧ !x.a.valid 0 then .done s (Token.make (fun _ => 0) 0 .data)
  else
    match checkLanes s u sz .read (lanes.map fun i => (i, addr i)) with
    | .error (c, va) => .fault c va
    | .ok ps =>
      match (if w.ty = 14 then ps.find? fun ip => (match ip.2 with | .dpa a => fxWindow s u.job a | _ => none).isNone else none) with
      | some ip => .fault cMemAttr (addr ip.1)
      | none =>
        let val (i : Nat) : Lane × Flags :=
          match ps.find? fun ip => ip.1 = i with
          | none => (0, Flags.none)
          | some ip =>
            let bs := readOwn s n x die ip.2 sz
            if w.ty = 14 then
              fxRead ((match ip.2 with | .dpa a => fxWindow s u.job a | _ => none).getD 0) (BitVec.ofNat 128 (leNat bs))
            else loadElem w.ty (w.mod.getLsbD 0) bs
        whenClear s x ps sz
          (.done (orNumst s key (flagsOf (fun i => (val i).2) x.a.mask)) (Token.make (fun i => (val i).1) x.a.mask .data))

/-- `vst` and `vstx` (R175): checked at issue, deferred to commit. -/
def issueStore (s : State) (u : WorkUnit) (key n : Nat) (w : OpWord) (x : MemFire) : IssueRes :=
  let sz := elemSize w.ty
  let m := if w.opc = .vst then x.b.mask else x.a.mask &&& x.b.mask
  let addr (i : Nat) : Nat :=
    if w.opc = .vst then (addrOf x (x.a.lane 0) + i * sz) % 2 ^ 57 else addrOf x (x.a.lane i)
  if w.opc = .vst ∧ !x.a.valid 0 then .done s (Token.control 0)
  else
    match checkLanes s u sz .write ((lanesOf m).map fun i => (i, addr i)) with
    | .error (c, va) => .fault c va
    | .ok ps =>
      let fill := w.mod.getLsbD 2
      if fill ∧ ps.any fun ip => (caddyOf ip.2).isNone then .fault cMemAttr (addr ((lanesOf m).headD 0))
      else if ps.any fun ip => tierBusy s ip.2 then .waits s []
      else
        let el (i : Nat) := storeElem w.ty (w.mod.extractLsb' 0 2) (x.b.lane i)
        let s1 := deferTo s n (ps.map fun ip => .store (addr ip.1) ip.2 (el ip.1).1 fill) (memOrd w = .rel)
        .done (orNumst s1 key (flagsOf (fun i => (el i).2) m)) (Token.control m)

/-- Does an operation that came to a granule's bank before `x` still wait on it (R93)? -/
def granuleAhead (s : State) (a : Nat) (x : MemFire) : Bool :=
  s.insts.any fun n => n.2.waiting.any fun y => y.op ≠ x.op && match y.queued, x.queued with
    | some (t, b), some (k, _) => b = a && t < k
    | some (_, b), none => b = a
    | none, _ => false

/-- An operation takes its place among those that wait on a granule (R93). -/
def queueAt (s : State) (n a : Nat) (x : MemFire) : State :=
  if x.queued.isSome then s else { modFire s n x.op fun y => { y with queued := some (s.nextId, a) } with nextId := s.nextId + 1 }

/-- `ldfe` (R94, R177, Table 3.5). -/
def issueLdfe (s : State) (u : WorkUnit) (key n die : Nat) (w : OpWord) (x : MemFire) : IssueRes :=
  let sz := elemSize w.ty
  let va := addrOf x (x.a.lane 0)
  if !x.a.valid 0 then .done s (Token.make (fun _ => 0) 0 .data)
  else
    match checkLane s u va 16 .read with
    | .bad c => .fault c va
    | .ok p =>
      match caddyOf p with
      | none => .fault cMemAttr va
      | some a =>
        if w.ty = 14 ∧ (fxWindow s u.job a).isNone then .fault cMemAttr va
        else if x.poisoned ∨ windowed s none p 16 then whenClear s x [(0, p)] 16 (.waits s [])
        else if !isFull s a || granuleAhead s a x then .waits (queueAt s n a x) []
        else
          let bs := readOwn s n x die p 16
          let m := BitVec.ofNat 16 (2 ^ (16 / sz) - 1)
          let val (i : Nat) : Lane × Flags :=
            if w.ty = 14 then fxRead ((fxWindow s u.job a).getD 0) (BitVec.ofNat 128 (leNat bs))
            else loadElem w.ty false ((bs.drop (i * sz)).take sz)
          let s1 := if w.mod.getLsbD 0 then setFull s a false else s
          .done (orNumst s1 key (flagsOf (fun i => (val i).2) m)) (Token.make (fun i => (val i).1) m .data)

/-- `apst` (R178): the copy starts at commit. -/
def issueApst (s : State) (u : WorkUnit) (n : Nat) (holds : Nat → Nat → Bool) (x : MemFire) : IssueRes :=
  let va := addrOf x (x.a.lane 0)
  if !x.a.valid 0 ∨ !x.b.valid 0 then .done s x.a
  else
    match translate s u.asid va .write with
    | .bad c => .fault c va
    | .ok (.aperture d off) =>
      if off % 128 ≠ 0 then .fault cMemAlign va
      else if off / 4096 ≠ 0 ∨ !holds d (off / 128) then .fault cMemAttr va
      else
        let disp (i : Nat) : Int := if x.b.valid i then (x.b.lane i).toInt else 0
        .done (deferTo s n [.copy va d (off / 128) ((x.b.lane 0).extractLsb' 0 8).toNat (disp 1) (disp 2)] false) (Token.control 1)
    | .ok _ => .fault cMemAttr va

/-- Is this arc one whose tokens are not yet in one of the block's instances: it enters the block at an input that only some threads come to, and the
router there says which they are (R27, R31)? -/
def Image.unnumbered (img : Image) (a : Arc) : Bool :=
  match a.dst with
  | .rtr b r p => p < 2 && match (img.blocks[b]?).bind fun k => k.rtrs[r]? with
    | some x => (x.word.opc = .mergeOrd && a.entry) || img.renumbers b r x.word.opc
    | none => false
  | _ => false

/-- Does a token, a reserved result or an entry of an `emit` of an instance of which `which` holds stand in block `blk` of an image? -/
def Image.anyInBlock (img : Image) (blk : Nat) (which : Nat → Bool) : Bool :=
  (img.arcs.any fun a => a.dst.blk == some blk && !img.unnumbered a && a.q.any fun q => q.tag.n.any which) ||
    match img.blocks[blk]? with
    | some b => b.ops.any fun o => o.pend.any fun p => p.tag.n.any which
    | none => false

/-- Does something of instance `tag` stand in block `blk` of an image? -/
def Image.inBlock (img : Image) (blk tag : Nat) : Bool := img.anyInBlock blk fun n => n = tag

/-- Is an earlier block instance of a thread still open: its record stands, or a token of it stands in its block (R31, R81)? One that a save found
ended stays open until its stores have been performed (R100). -/
def instOpen (s : State) (it : Inst) (bn : Nat × Nat) : Bool :=
  (recordOf s it bn).isSome || ((instImage s it).map fun img => img.inBlock bn.1 bn.2).getD false

/-- The slot of an operation of an instance. -/
def Inst.slotOf (it : Inst) (img : Image) (x : MemFire) : Option OpSlot :=
  img.slotAt { tp := { die := 0, tile := 0, plane := 0 }, blk := it.blk, rtr := false, slot := x.slot }

/-- The operations that wait although their instance's chain has moved on past them (R76). -/
def Inst.outstanding (it : Inst) : List MemFire := it.waiting.filter fun x => x.issued.isSome

/-- The own number of an operation of an instance. -/
def Inst.numOf (it : Inst) (img : Image) (x : MemFire) : Nat := ((it.slotOf img x).map fun sl => sl.word.ww.toNat).getD 0

/-- The operations of an instance that were issued before one of it and are not yet performed (R76, R78). -/
def Inst.aheadOf (it : Inst) (img : Image) (x : MemFire) : List MemFire := it.outstanding.filter fun y => y.op ≠ x.op && it.numOf img y < it.numOf img x

/-- Must a fence or a release still wait: earlier instances of the thread have not committed, or an operation of its own instance that was issued
before it is not performed (R80, R81)? -/
def earlierLeft (s : State) (n : Nat) (x : MemFire) : Bool :=
  match kget s.insts n with
  | none => false
  | some it => (it.pre.any fun bn => bn ≠ (it.blk, it.tag) && instOpen s it bn) || ((instImage s it).map fun img => !(it.aheadOf img x).isEmpty).getD false

/-- `fence` (R81, R179): it completes once the thread's earlier instances have committed and what its own instance issued is performed. -/
def issueFence (s : State) (n : Nat) (x : MemFire) : IssueRes := if earlierLeft s n x then .waits s [] else .done s x.a

/-- The result of a `monwait` (R180). -/
def monToken (v : Word) (timedOut : Bool) : Token :=
  Token.make (fun i => if i = 0 then v.setWidth 40 else if timedOut then 1 else 0) 3 .data

/-- `monwait` (R180): it reads once, and then waits for a write that satisfies it. -/
def issueMonwait (s : State) (u : WorkUnit) (n die : Nat) (w : OpWord) (x : MemFire) : IssueRes :=
  let va := addrOf x (x.a.lane 0)
  let sz := if w.ty = 13 then 4 else 8
  if !x.a.valid 0 ∨ !x.b.valid 0 then .done s x.a
  else
    match checkLane s u va sz .read with
    | .bad c => .fault c va
    | .ok p =>
      whenClear s x [(0, p)] sz
        (match (kget s.watches (2 * x.op + 1)).bind fun h => h.hit with
         | some v => .done s (monToken v false)
         | none =>
           let v := wordOf (readOwn s n x die p sz)
           let c := w.mod.extractLsb' 0 3
           let val : Word := (x.b.lane 0).setWidth 64
           if condHolds c 40 v val then .done s (monToken v false)
           else if x.b.valid 1 ∧ (x.b.lane 1).toInt ≤ 0 then .done s (monToken v true)
           else
             let h : Watch := { p := p, die := die, n := sz, cond := c, bits := 40, val := val, hit := none }
             .waits { s with watches := kput s.watches (2 * x.op + 1) h } [])

/-- The new value of an integer atomic on n bits (Table 7.6); none performs no write. -/
def amoNew (o : Opc) (n : Nat) (old b c : Word) : Option Word :=
  let so := (old.setWidth n).toInt
  let sb := (b.setWidth n).toInt
  let uo := (old.setWidth n).toNat
  let ub := (b.setWidth n).toNat
  match o with
  | .amoAdd => some (old + b)
  | .amoAnd => some (old &&& b)
  | .amoOr => some (old ||| b)
  | .amoXor => some (old ^^^ b)
  | .amoMin => some (if so ≤ sb then old else b)
  | .amoMax => some (if so ≤ sb then b else old)
  | .amoMinu => some (if uo ≤ ub then old else b)
  | .amoMaxu => some (if uo ≤ ub then b else old)
  | .amoSwap => some b
  | .amoCas => if uo = ub then some c else none
  | _ => none

/-- The atomics that go to host memory as PCI Express AtomicOps (Table 3.6). -/
def hostAtomic : Opc → Bool
  | .amoAdd | .amoSwap | .amoCas => true
  | _ => false

/-- May an integer atomic be performed at a place (Table 3.6)? Host memory and peers take the three AtomicOps where the completer supports
them; other devices take none. -/
def atomicAt (o : Opc) : Phys → Bool
  | .sys a => hostAtomic o && a % 2 ^ 58 < 2 ^ 57 && Config.completesAtomics a
  | _ => true

/-- Perform the lanes of an integer atomic in ascending order (R182): the state and the old values. -/
def amoLanes (o : Opc) (ty : BitVec 4) (b c : Token) : State → List (Nat × Phys) → State × List (Nat × Lane)
  | s, [] => (s, [])
  | s, (i, p) :: rest =>
    let sz := if ty = 1 then 8 else 4
    let old := wordOf (readPhys s 0 p sz)
    let opnd (t : Token) : Word := if ty = 1 then (t.lane i).signExtend 64 else (t.lane i).setWidth 64
    let s1 := match amoNew o (8 * sz) old (opnd b) (opnd c) with
      | some v => writePhys s p (leBytes sz v.toNat)
      | none => s
    let ret : Lane := if ty = 10 then ((old.setWidth 32).signExtend 40) else old.setWidth 40
    let r := amoLanes o ty b c s1 rest
    (r.1, (i, ret) :: r.2)

/-- The integer atomics, each one event in its location's order (R95, R96, R182). -/
def issueAmo (s : State) (u : WorkUnit) (n : Nat) (w : OpWord) (x : MemFire) : IssueRes :=
  let sz := if w.ty = 1 then 8 else 4
  let m := x.a.mask &&& x.b.mask &&& (if w.opc = .amoCas then x.c.mask else 0xFFFF)
  let addr (i : Nat) : Nat := addrOf x (x.a.lane i)
  match checkLanes s u sz .atomic ((lanesOf m).map fun i => (i, addr i)) with
  | .error (c, va) => .fault c va
  | .ok ps =>
    match ps.find? fun ip => !atomicAt w.opc ip.2 with
    | some ip => .fault cMemAttr (addr ip.1)
    | none =>
      whenClear s x ps sz
        (if (memOrd w = .rel ∨ memOrd w = .ar) ∧ earlierLeft s n x then .waits s []
         else
           let r := amoLanes w.opc w.ty x.b x.c s ps
           .done r.1 (Token.make (fun i => (kget r.2 i).getD 0) m .data))

/-- Add one FW40 value into the cell at a device address (R61, R62, R97). -/
def fxAddAt (s : State) (a : Nat) (w : Int) (v : Lane) : State :=
  writePhys s (.dpa a) (leBytes 16 (fxAdd w (BitVec.ofNat 128 (leNat (getBytes s.mem a 16))) v).toNat)

/-- `red.fx` and `amo.fadd` (R181): the trap for a cell in no region, or not in caddies, HBM or the tier, is `mem.attr`. Additions of one firing that name the
same cell are applied in ascending lane order (DESIGN CHOICE, log entry 134). -/
def issueFx (s : State) (u : WorkUnit) (n : Nat) (w : OpWord) (x : MemFire) : IssueRes :=
  let row := w.opc = .amoFadd
  let m := if row then (if x.a.valid 0 then x.b.mask else 0) else x.a.mask &&& x.b.mask
  let addr (i : Nat) : Nat := if row then (addrOf x (x.a.lane 0) + 16 * i) % 2 ^ 57 else addrOf x (x.a.lane i)
  match checkLanes s u 16 .atomic ((lanesOf m).map fun i => (i, addr i)) with
  | .error (c, va) => .fault c va
  | .ok ps =>
    let cell (ip : Nat × Phys) : Option (Nat × Int) :=
      match ip.2 with | .dpa a => (fxWindow s u.job a).map fun w => (a, w) | _ => none
    match ps.find? fun ip => (cell ip).isNone with
    | some ip => .fault cMemAttr (addr ip.1)
    | none =>
      let wait : Bool := (memOrd w = .rel ∨ memOrd w = .ar) ∧ earlierLeft s n x
      let perform : State := ps.foldl (fun s ip => match cell ip with
        | some (a, w) => fxAddAt s a w (x.b.lane ip.1)
        | none => s) s
      let go : IssueRes := if wait then .waits s [] else .done perform (Token.control 1)
      if row then whenClear s x ps 16 go else go

/-- The store of an acknowledged `emit` (R186), deferred to commit. -/
def issueEmit (s : State) (u : WorkUnit) (n : Nat) (w : OpWord) (x : MemFire) : IssueRes :=
  let va := addrOf x (x.a.lane 0)
  if !x.a.valid 0 ∨ !x.b.valid 0 then .done s x.a
  else
    match checkLane s u va 4 .write with
    | .bad c => .fault c va
    | .ok p =>
      let s1 := deferTo s n [.store va p (leBytes 4 ((x.b.lane 0).extractLsb' 0 32).toNat) false] (memOrd w = .rel)
      .done { s1 with insts := kmod s1.insts n fun it => { it with entries := it.entries ++ x.entry.toList } } (Token.control 1)

/-- Issue one operation (R173). A poisoned load, wait, fence or `memnop` performs nothing and passes the poison (R14, R176, R179); a firing on
headers alone, other than of a fence, is issued as a `memnop` (R173). -/
def issueOp (s : State) (u : WorkUnit) (key n die : Nat) (holds : Nat → Nat → Bool) (w : OpWord) (x : MemFire) : IssueRes :=
  match firstPoison [x.a, x.b, x.c] with
  | some p => .done s p
  | none =>
    match (if x.a.cls = .header ∧ w.opc ≠ .fence then Opc.memnop else w.opc) with
    | .vld | .vldx => issueLoad s u key n die w x
    | .vst | .vstx => issueStore s u key n w x
    | .ldfe => issueLdfe s u key n die w x
    | .apst => issueApst s u n holds x
    | .fence => issueFence s n x
    | .monwait => issueMonwait s u n die w x
    | .redFx | .amoFadd => issueFx s u n w x
    | .emit => issueEmit s u n w x
    | .memnop => .done s x.a
    | _ => issueAmo s u n w x

/-! ## Entering the wave chain -/

/-- The operators that raise `data.poison` when they receive poison: they write memory, are atomics, or are `emit` (R14). -/
def trapsOnPoison : Opc → Bool
  | .vld | .vldx | .memnop | .ldfe | .fence | .monwait => false
  | _ => true

/-- The number of the instance of a block that a tag names, if it is open. -/
def instOf (s : State) (imgKey blk tag : Nat) : Option Nat :=
  (s.insts.find? fun ki => ki.2.img = imgKey && !ki.2.ended && ki.2.blk = blk && ki.2.tag = tag).map fun ki => ki.1

/-- Put an operation in its instance's wave chain, opening the instance with its first one (R31, R76). -/
def enterChain (s : State) (u : UnitId) (e : Site) (g : Tag) (x : MemFire) : State :=
  let tag := g.n.getD 0
  match instOf s e.tp.key e.blk tag with
  | some n => { s with insts := kmod s.insts n fun it =>
      { it with waiting := it.waiting ++ [x], pre := it.pre ++ (g.pre.filter fun p => !it.pre.contains p), via := joinVia it.via g.via } }
  | none =>
    { s with insts := kput s.insts s.nextId { unit := u, ended := false, fenced := false, img := e.tp.key, blk := e.blk, tag := tag, lastW := 0, lastS := 63,
                                              pre := g.pre, via := g.via, waiting := [x], deferred := [], fault := none, rel := false, entries := [] },
             nextId := s.nextId + 1 }

/-- The g registers of a unit. -/
def seedsAt (s : State) (u : UnitId) : Vector Word 16 := ((kget s.units u).map fun w => w.seeds).getD (Vector.replicate 16 0)

/-- One firing of a memory operator other than `emit` (R173): it takes its tokens, reserves the place of its result and
enters its instance's wave chain. Headers that stand at only some of its ports pass at once (R60). -/
def fireMem (o : Opc) (e : Site) (s : State) : FireRes :=
  match kget s.images e.tp.key with
  | none => .idle
  | some img =>
    match img.slotAt e with
    | none => .idle
    | some sl =>
      if sl.word.opc ≠ o ∨ sl.halts ∨ !mayFire s img then .idle
      else
        match img.headsOf e (arcPorts sl.word) with
        | none => .idle
        | some hs =>
          let kind := fireKind o hs
          let toks := hs.map fun h => h.2.1
          let enter : FireRes :=
            if img.hasRoom e allTargets && !takesHalted s img e (arcPorts sl.word) then
              let g := tagOf hs
              let id := s.nextId
              let x : MemFire := { op := id, slot := e.slot, copy := sl.turn, a := tokenAt sl.word hs 0,
                                   b := tokenAt sl.word hs 1, c := tokenAt sl.word hs 2, seeds := seedsAt s img.unit, started := none,
                                   fault := none, winWait := [], poisoned := false, issued := none, queued := none, entry := none, again := false }
              let img1 := (img.setSlot e { sl with dealt := if allHeaders hs then sl.dealt else sl.dealt + 1 }).fire e (arcPorts sl.word) [] g
              let img2 := { img1 with arcs := img1.arcs.map fun a => if a.fromSite e allTargets then a.reserve id g (allHeaders hs) else a }
              .fired (enterChain { putImage s e.tp.key img2 with nextId := id + 1 } img.unit e g x)
            else .idle
          match kind with
          | .headers ps t =>
            if allHeaders hs then enter
            else
              applyEffect s img e sl kind hs ps
                { fired := Fired.emits t Flags.none, slot := sl, lanes := [], vrec := none }
          | .poison t =>
            if trapsOnPoison o then
              if takesHalted s img e (arcPorts sl.word) then .idle else .trapped (putImage s e.tp.key (img.setSlot e (sl.stop sl.turn)))
                0x20 ((t.lane 0).setWidth 64 &&& 0xFFFF) toks
            else enter
          | .data => enter

/-! ## The memory interface (R76) -/

/-- Is this the instance of a burst header (R60, R173)? Its operations perform nothing, so that they keep no order among themselves. -/
def Inst.ofHeader (it : Inst) : Bool := 2 ^ 40 ≤ it.tag

/-- Is this an operation of copy 1 or 2 of a triplicated operator? Each goes with its copy 0, and the chain moves on with that alone (R76, R362). -/
def MemFire.follows (x : MemFire) : Bool := 32 ≤ x.slot

/-- May the chain go on to an operation: its P is the last own number, or its P is unknown and the last successor names it (R76)? -/
def Inst.reaches (it : Inst) (x : MemFire) (w : OpWord) : Bool :=
  it.ofHeader || (if x.follows then w.ww.toNat ≤ it.lastW else w.wp.toNat = it.lastW || (w.wp = 63 && it.lastS = w.ww.toNat))

/-- The next operation that the interface may issue. The chain stops at one that a fault withholds (R99). -/
def nextInChain (img : Image) (it : Inst) : Option (MemFire × OpSlot) :=
  if it.outstanding.any fun y => y.fault.isSome then none
  else
    it.waiting.findSome? fun x =>
      (it.slotOf img x).bind fun sl => if x.issued.isNone && it.reaches x sl.word then some (x, sl) else none

/-- L and Ls of an instance once an operation of it has been issued (R76). -/
def Inst.moved (it : Inst) (x : MemFire) (w : OpWord) : Inst :=
  if x.issued.isSome || x.follows then it else { it with lastW := w.ww.toNat, lastS := w.ws.toNat }

/-- An operation has ended: its result stands in its reserved places, and the chain moves on, unless it has done so before. -/
def chainDone (s : State) (n : Nat) (it : Inst) (x : MemFire) (w : OpWord) (t : Token) : State :=
  { s with
    images := kmod s.images it.img fun img => { img with arcs := img.arcs.map fun a => a.fill x.op t }
    insts := kmod s.insts n fun i => { i.moved x w with waiting := i.waiting.filter fun y => y.op ≠ x.op }
    watches := kdel s.watches (2 * x.op + 1) }

end Sys2Proof.Machine
end

