-- ==== Sys2Proof/Machine/Sheave.lean ====
section
/-! DEFINITION. Sheaves (R199–R203): building an address-pattern record, running it, its completion record, and the stream
ports that it moves tokens through; permit ports (R189, R213). -/

namespace Sys2Proof.Machine

/-! ## Ports -/

/-- The port of an image of a unit on a die that is bound to a stream, channel or queue: image key and port number (R111, R246). -/
def findPort (s : State) (unit : UnitId) (die kind eng chan : Nat) : Option (Nat × Nat) :=
  s.images.findSome? fun x =>
    if x.2.unit = unit ∧ x.2.die = die then
      (x.2.ports.findIdx? fun p => p.kind = kind && p.eng = eng && p.chan = chan).map fun i => (x.1, i)
    else none

/-- Does an image of a unit bind a stream at all? -/
def bindsStream (s : State) (unit : UnitId) (die shv strm : Nat) : Option Nat :=
  s.images.findSome? fun x =>
    if x.2.unit = unit ∧ x.2.die = die then
      (x.2.ports.find? fun p => (p.kind = 0 || p.kind = 1) && p.eng = shv && p.chan = strm).map fun p => p.kind
    else none

/-- May tokens pass between engines and the arcs of an image: its unit is bound, not saved and not cancelled (R36, R41, R312)? -/
def portsOpen (s : State) (key : Nat) : Bool :=
  match kget s.images key with
  | some img => match kget s.units img.unit with
    | some w => w.life = .bound && !w.cancelled
    | none => false
  | none => false

/-- The arcs that start at a port. -/
def Image.fromPort (img : Image) (n : Nat) : List Arc := img.arcs.filter fun a => a.src = .port n

/-- Has every arc that starts at a port room for a token? -/
def portRoom (s : State) (key n : Nat) : Bool :=
  match kget s.images key with
  | some img => (img.fromPort n).all fun a => a.room
  | none => false

/-- Emit a token at a port: every arc that starts there takes it; with none it is discarded (R201). -/
def portEmit (s : State) (key n : Nat) (t : Token) : State :=
  { s with images := kmod s.images key fun img =>
      { img with arcs := img.arcs.map fun a => if a.src = .port n then a.push t Tag.none else a } }

/-- The token at the head of the arc that ends at a port. -/
def portHead (s : State) (key n : Nat) : Option Token :=
  (kget s.images key).bind fun img =>
    (img.arcs.find? fun a => a.dst = .port n).bind fun a => if arcHalted s img a then none else a.head.map fun h => h.1

/-- Take the token at the head of the arc that ends at a port. -/
def portPop (s : State) (key n : Nat) : State :=
  { s with images := kmod s.images key fun img => { img with arcs := img.arcs.map fun a => if a.dst = .port n then a.pop else a } }

/-- The header latched at a port (R60). -/
def portHdr (s : State) (key n : Nat) : Hdr :=
  (((kget s.images key).bind fun img => img.ports[n]?).map fun p => p.hdr).getD Hdr.initial

/-- The header that scales what comes to a port: none before one has arrived there (R60). -/
def portScale (s : State) (key n : Nat) : Option Hdr :=
  ((kget s.images key).bind fun img => img.ports[n]?).bind fun p => if p.headed then some p.hdr else none

/-- Latch a header at a port (R60). -/
def portLatch (s : State) (key n : Nat) (t : Token) : State :=
  { s with images := kmod s.images key fun img =>
      { img with ports := img.ports.mapIdx fun i p => if i = n then { p with hdr := Hdr.ofLane (t.lane 0), headed := true } else p } }

/-- Leave only some lanes valid in the token at the head of the arc that ends at a port; with none left it is taken. -/
def portKeep (s : State) (key n : Nat) (m : BitVec 16) : State :=
  if m = 0 then portPop s key n
  else
    { s with images := kmod s.images key fun img =>
        { img with arcs := img.arcs.map fun a =>
            if a.dst = .port n then
              match a.q with
              | .tok t g :: rest => { a with q := .tok { t with mask := m } g :: rest }
              | _ => a
            else a } }

/-! ## Streams and records -/

/-- A stream, as the unit that uses it sees it: a new unit's records are numbered from 1 (R203). -/
def streamOf (s : State) (die shv strm : Nat) : Stream := dget Stream.initial s.streams (streamKey die shv strm)

/-- Put a stream back. -/
def putStream (s : State) (die shv strm : Nat) (x : Stream) : State :=
  { s with streams := dset Stream.initial s.streams (streamKey die shv strm) x }

/-- The stream for a unit: numbered afresh when the unit is another than the last. -/
def streamFor (s : State) (u : UnitId) (die shv strm : Nat) : Stream :=
  let x := streamOf s die shv strm
  if x.unit = u ∨ x.running.isSome ∨ !x.queued.isEmpty then { x with unit := if x.running.isSome ∨ !x.queued.isEmpty then x.unit else u }
  else { Stream.initial with unit := u }

/-- How many records a stream holds (R199). -/
def Stream.held (x : Stream) : Nat := x.opened.toList.length + x.running.toList.length + x.queued.length

/-- The unit that issues, as a number. -/
def Ctx.unitNo (x : Ctx) : UnitId := x.unit.getD 0

/-- The operation as which a command of an open record waits under SER: the record starts after it (R116, R199). -/
def State.serTurn (s : State) (x : Ctx) (c : Cmd128) : List Nat := if serWaits s x .sheave c then [s.nextId] else []

/-- A command of an open record has changed it, in `s1`: it is complete, or waits under SER (R116; log entry 37). -/
def aprTurn (s s1 : State) (x : Ctx) (c : Cmd128) : State :=
  if serWaits s x .sheave c then (addOp s1 (x.op .sheave c (.settled .apr) {})).1 else if cmdNtf c then notifyUnit s1 x.unitNo else s1

/-- `apr.load` and `apr.store`. On a stream whose record is still open, the new record takes its place (DESIGN CHOICE, log entry 166). -/
def issueAprOpen (store : Bool) (s : State) (x : Ctx) (c : Cmd128) : Issued :=
  let shv := fld c 111 108
  let strm := fld c 107 104
  let fmt : BitVec 4 := BitVec.ofNat 4 (fld c 103 100)
  let vs40 := fld c 99 99 = 1
  let cvm := fld c 98 97
  let st := streamFor s x.unitNo x.die shv strm
  checked s (lowest [(fld c 87 80 ≠ 0 || fld c 39 0 ≠ 0 || (!store && cvm ≠ 0), stForm),
                     (fmt = 15 || (fmt = 7 && vs40) || (store && fmt = 14), stType)])
    (if st.opened.isNone && 4 ≤ st.held then .waits []
     else
       let w : WarnBits := { cvm := cvm = 3 }
       let d : AprDim := { count := 1, valid := 1, stride := 0 }
       let r : AprRec := { op := 0, unit := x.unitNo, after := s.serTurn x c, store := store, fmt := fmt, vs40 := vs40,
                           cvm := if cvm = 3 then 0 else BitVec.ofNat 2 cvm, hdr := fld c 96 96 = 1, blen := fld c 95 88,
                           base := x.va (fld c 79 40), dims := [d, d, d, d], pad := 0, recVa := 0, scales := 0, scv := false, pos := 0,
                           padn := 0, hdrs := 0, hdrSent := false, conv := Flags.none, fin := none, owed := false }
       .st (aprTurn s (cmdWarn (putStream s x.die shv strm { st with opened := some r }) x w c) x c) 0)

/-- Change the open record of a stream; with none the command gives STATE. -/
def changeRec (s : State) (x : Ctx) (c : Cmd128) (code : Nat) (f : AprRec → AprRec) : Issued :=
  let shv := fld c 111 108
  let strm := fld c 107 104
  let st := streamFor s x.unitNo x.die shv strm
  match st.opened with
  | none => .st s (lowest [(code ≠ 0, code), (true, stState)])
  | some r =>
    checked s code
      (.st (aprTurn s (putStream s x.die shv strm { st with opened := some { f r with after := r.after ++ s.serTurn x c } }) x c) 0)

/-- `apr.dim`. -/
def issueAprDim (s : State) (x : Ctx) (c : Cmd128) : Issued :=
  let d : AprDim := { count := fld c 95 64, valid := fld c 63 32, stride := sfld c 31 0 }
  changeRec s x c (lowest [(fld c 101 96 ≠ 0, stForm), (d.count = 0, stRange)]) fun r => { r with dims := setAt r.dims (fld c 103 102) d }

/-- `apr.pad`. -/
def issueAprPad (s : State) (x : Ctx) (c : Cmd128) : Issued :=
  changeRec s x c (lowest [(fld c 63 0 ≠ 0, stForm)]) fun r => { r with pad := BitVec.ofNat 40 (fld c 103 64) }

/-- The number of positions of a record. -/
def AprRec.total (r : AprRec) : Nat := r.dims.foldl (fun a d => a * d.count) 1

/-- The number of its pad positions. -/
def AprRec.pads (r : AprRec) : Nat := r.total - r.dims.foldl (fun a d => a * min d.count d.valid) 1

/-- The indices of position `p`. -/
def AprRec.index (r : AprRec) (p : Nat) : List Nat := patIndex (r.dims.map fun d => d.count) p

/-- Is position `p` a pad position (R200)? -/
def AprRec.isPad (r : AprRec) (p : Nat) : Bool := ((r.index p).zip r.dims).any fun x => x.2.valid ≤ x.1

/-- The address of position `p` (R200): lg6 values are packed along the innermost dimension. -/
def AprRec.addr (r : AprRec) (p : Nat) : Nat :=
  let ix := r.index p
  let outer := dotInt ix.tail (r.dims.tail.map fun d => d.stride)
  let inner : Int := if r.fmt = 7 then 3 * ((ix.headD 0) / 4 : Nat) else (ix.headD 0 : Int) * (r.dims.headD { count := 1, valid := 1, stride := 0 }).stride
  offsetVa r.base (outer + inner)

/-- Which of the four values of an lg6 group position `p` is. -/
def AprRec.sub (r : AprRec) (p : Nat) : Nat := (r.index p).headD 0 % 4

/-! ## Elements in memory -/

/-- The bytes that one element takes; an lg6 group takes three. -/
def apSize (fmt : BitVec 4) : Nat := if fmt = 7 then 3 else elemSize fmt

/-- Value `i` of a 24-bit group (R52). -/
def lg6Get (bs : List Byte) (i : Nat) : Nat := leNat bs / 2 ^ (6 * i) % 64

/-- A 24-bit group with value `i` replaced (R52). -/
def lg6Set (bs : List Byte) (i v : Nat) : List Byte :=
  let g := leNat bs
  leBytes 3 (g - g / 2 ^ (6 * i) % 64 * 2 ^ (6 * i) + v % 64 * 2 ^ (6 * i))

/-- The FX128 window of a device address within a job's regions (R63, R198). -/
def fxWindowOf (s : State) (job : Nat) (p : Phys) : Option Int :=
  match p with
  | .dpa a => fxWindow s job a
  | _ => none

/-- Read an element and convert it (R53); an fx128 cell outside a region raises `mem.attr`. -/
def elemLoad (s : State) (asid : BitVec 12) (job die : Nat) (fmt : BitVec 4) (vs40 : Bool) (va sub : Nat) : Got (Lane × Flags) :=
  (loadVa s asid die va (apSize fmt) none).bind fun bs =>
    if fmt = 14 then
      match place s asid va 16 .read with
      | .ok p => match fxWindowOf s job p with
        | some w => .ok ((if vs40 then fxReadS40 else fxRead) w (BitVec.ofNat 128 (leNat bs)))
        | none => .bad cMemAttr va
      | .bad c a => .bad c a
      | .waits on => .waits on
    else
      match fmtOfType fmt with
      | none => .ok (BitVec.ofNat 40 (leNat bs), Flags.none)
      | some f => .ok (loadConv f (if vs40 then .s40 else .w40) (if fmt = 7 then lg6Get bs sub else leNat bs))

/-- Convert and store an element (R54): the state and the flags. -/
def elemStore (s : State) (asid : BitVec 12) (job die : Nat) (fmt : BitVec 4) (vs40 : Bool) (cvm : BitVec 2) (va sub : Nat) (v : Lane) :
    Got (State × Flags) :=
  match fmtOfType fmt with
  | none => (storeVa s asid (some job) va (leBytes (elemSize fmt) v.toNat)).map fun s1 => (s1, Flags.none)
  | some f =>
    let r := storeConv f (if vs40 then .s40 else .w40) cvm v
    if fmt = 7 then
      match mapRange s asid va 3 .write with
      | .bad c a => .bad c a
      | .waits on => .waits on
      | .ok ps =>
        let old := ps.flatMap fun x => readPhys s die x.2.1 x.2.2
        (storeVa s asid (some job) va (lg6Set old sub r.1)).map fun s1 => (s1, r.2)
    else (storeVa s asid (some job) va (leBytes (elemSize fmt) r.1)).map fun s1 => (s1, r.2)

/-- CONV of a completion record or status word (Table 8.5): invalid, overflow, underflow, inexact, saturated-or-wrapped. -/
def convBits (f : Flags) : Nat := f.nv.toNat + 2 * f.ov.toNat + 4 * f.uf.toNat + 8 * f.nx.toNat + 16 * f.sat.toNat

/-! ## Starting and ending -/

/-- Change the running record of a stream. -/
def setRun (s : State) (die shv strm : Nat) (r : AprRec) : State :=
  putStream s die shv strm { streamOf s die shv strm with running := some r }

/-- The completion record of the `n`-th record of a stream (R203). -/
def AprRec.completion (r : AprRec) (n code : Nat) : List Byte :=
  leBytes 8 (n % 2 ^ 40) ++ leBytes 8 (code + 16 * convBits r.conv) ++ leBytes 8 r.pos ++ leBytes 8 r.padn

/-- Write the completion record of a running record that has ended, and free the stream (SHEAVE_RECORD_END, R203). -/
def endRecord (s : State) (die shv strm : Nat) : State :=
  let st := streamOf s die shv strm
  match st.running with
  | none => s
  | some r =>
    match r.fin with
    | none => s
    | some code =>
      match kget s.ops r.op with
      | none => s
      | some o =>
        if o.fault.isSome || r.owed then s else
        match storeObj s o.job o.asid r.recVa (r.completion (st.num + 1) code) with
        | .ok s1 => finishOp (putStream s1 die shv strm { streamOf s1 die shv strm with running := none, num := st.num + 1 }) r.op code
        | .bad c va => faultOp s r.op c va (16 * shv + strm)
        | .waits _ => s

/-- Has an operation ended? -/
def opOver (s : State) (n : Nat) : Bool := ((kget s.ops n).map fun o => o.fin.isSome).getD true

/-- Start the oldest queued record when the stream is free and SER lets it (R199, R116). -/
def startRecord (s : State) (die shv strm : Nat) : State :=
  let st := streamOf s die shv strm
  match st.running, st.queued with
  | none, r :: rest =>
    match kget s.ops r.op with
    | none => s
    | some o =>
      if mayStart s r.op o && r.after.all (opOver s) then endRecord (putStream s die shv strm { st with running := some r, queued := rest }) die shv strm else s
  | _, _ => s

/-- `apr.end`. -/
def issueAprEnd (s : State) (x : Ctx) (c : Cmd128) : Issued :=
  let shv := fld c 111 108
  let strm := fld c 107 104
  let recVa := x.va (fld c 103 64)
  let st := streamFor s x.unitNo x.die shv strm
  match st.opened with
  | none => .st s (lowest [(fld c 23 17 ≠ 0 || fld c 15 0 ≠ 0 || recVa % 32 ≠ 0, stForm), (true, stState)])
  | some r =>
    let lgBad := r.fmt = 7 && (r.dims.headD { count := 1, valid := 1, stride := 0 }).stride ≠ 0
    checked s (lowest [(fld c 23 17 ≠ 0 || fld c 15 0 ≠ 0 || recVa % 32 ≠ 0 || lgBad, stForm)])
      (if bindsStream s x.unitNo x.die shv strm ≠ some (if r.store then 1 else 0) then
         .st (putStream s x.die shv strm { st with opened := none }) stState
       else
         let w : WarnBits := { cvm := false }
         let a := addOp s (x.op .sheave c (.record shv strm) w)
         let r1 := { r with op := a.2, recVa := recVa, scales := x.va (fld c 63 24), scv := fld c 16 16 = 1 }
         let s1 := putStream a.1 x.die shv strm { st with opened := none, queued := st.queued ++ [r1] }
         .st (startRecord s1 x.die shv strm) 0)

/-! ## Loads (R201) -/

/-- The header of the block at a position, with its SCALE. -/
def loadHeader (r : AprRec) (scale : BitVec 8) : Token :=
  let left := r.total - r.pos
  let len := min (r.blen + 1) left - 1
  Token.ofHdr { scale := scale, len := BitVec.ofNat 8 len, last := left ≤ r.blen + 1, clip := r.pads ≠ 0 }
    (if r.pads = 0 then 0 else BitVec.ofNat 24 (min r.pads (2 ^ 24 - 1)))

/-- How many positions the next data token takes: up to 16, within its block where blocks carry headers. -/
def tokenSpan (r : AprRec) : Nat :=
  let left := r.total - r.pos
  if r.hdr then min 16 (min left (r.blen + 1 - r.pos % (r.blen + 1))) else min 16 left

/-- Read `n` positions from `p` on: the lane words, their flags, and the pads met. -/
def readSpan (s : State) (o : EngOp) (r : AprRec) : Nat → Nat → Got (List Lane × Flags × Nat)
  | 0, _ => .ok ([], Flags.none, 0)
  | n + 1, p =>
    if r.isPad p then (readSpan s o r n (p + 1)).map fun x => (r.pad :: x.1, x.2.1, x.2.2 + 1)
    else
      (elemLoad s o.asid o.job o.die r.fmt r.vs40 (r.addr p) (r.sub p)).bind fun v =>
        (readSpan s o r n (p + 1)).map fun x => (v.1 :: x.1, v.2.or x.2.1, x.2.2)

/-- End the records of a stream, given by its sheave and number, that a saved unit still held, with STATUS 7 (R230). -/
def endHeld (s : State) (num : Nat) (x : Stream) : State :=
  (x.running.toList ++ x.queued).zipIdx.foldl (fun s r =>
    writeObject (modOp s r.1.op fun o =>
      { o with body := .object r.1.recVa (r.1.completion (x.num + 1 + r.2) (r.1.fin.getD stCancel)) num, fault := none, waitsOn := [] }) r.1.op) s

/-- SHEAVE_LOAD_EMIT: the sheave emits the next token of the running load record when its arcs have room (R201). -/
def sheaveLoad (s0 : State) (die shv strm : Nat) : State :=
  let s := endRecord s0 die shv strm
  match (streamOf s die shv strm).running with
  | none => s
  | some r =>
    match kget s.ops r.op with
    | none => s
    | some o =>
      if r.store || (r.fin.isSome && !r.owed) || o.fault.isSome then s
      else
        match findPort s r.unit die 0 shv strm with
        | none => s
        | some (key, n) =>
          if !portsOpen s key || !portRoom s key n then s
          else if r.owed then endRecord (setRun (portEmit s key n (Token.poison cCopyCancel)) die shv strm { r with owed := false }) die shv strm
          else if r.hdr && !r.hdrSent && r.pos % (r.blen + 1) = 0 then
            let k := r.pos / (r.blen + 1)
            match (if r.scv then loadVa s o.asid die ((r.scales + k) % 2 ^ 57) 1 none else .ok [127]) with
            | .waits on => opWaits s r.op on
            | .bad c va => faultOp s r.op c va (16 * shv + strm)
            | .ok b => setRun (portEmit (opReads s r.op) key n (loadHeader r (b.headD 127))) die shv strm { r with hdrSent := true }
          else
            let k := tokenSpan r
            match readSpan s o r k r.pos with
            | .waits on => opWaits s r.op on
            | .bad c va => faultOp s r.op c va (16 * shv + strm)
            | .ok (vs, fl, pads) =>
              let t := Token.make (fun i => vs.getD i 0) (BitVec.ofNat 16 (2 ^ k - 1)) .data
              let r1 := { r with pos := r.pos + k, padn := r.padn + pads, hdrSent := false, conv := r.conv.or fl,
                                 fin := if r.pos + k = r.total then some 0 else none }
              endRecord (setRun (portEmit (opReads s r.op) key n t) die shv strm r1) die shv strm

/-! ## Stores (R202) -/

/-- The outcome of writing the lanes of a token: the record, and the lanes that are left. -/
structure Filled where
  s : State
  r : AprRec
  left : BitVec 16
  bad : Option (BitVec 16 × Nat)

/-- The value that a store record takes from a lane: where the lane is read as a w40 value it is scaled by the header latched at its port, once one has
come (R60, R202; log entry 39). -/
def storedValue (h : Option Hdr) (r : AprRec) (x : Lane) : Lane × Flags :=
  match h with
  | some h => if r.vs40 then (x, Flags.none) else hdrScale h x
  | none => (x, Flags.none)

/-- Write the valid lanes of a token to the next positions, until the record ends or an access stops it. -/
def fillLanes (o : EngOp) (h : Option Hdr) (t : Token) : List Nat → Filled → Filled
  | [], f => f
  | i :: is, f =>
    if f.r.total ≤ f.r.pos then f
    else
      let m := f.left &&& ~~~((1 : BitVec 16) <<< i)
      if f.r.isPad f.r.pos then fillLanes o h t is { f with r := { f.r with pos := f.r.pos + 1, padn := f.r.padn + 1 }, left := m }
      else
        let v := storedValue h f.r (t.lane i)
        match elemStore f.s o.asid o.job o.die f.r.fmt f.r.vs40 f.r.cvm (f.r.addr f.r.pos) (f.r.sub f.r.pos) v.1 with
        | .waits _ => f
        | .bad c va => { f with bad := some (c, va) }
        | .ok (s1, fl) => fillLanes o h t is { f with s := s1, r := { f.r with pos := f.r.pos + 1, conv := (f.r.conv.or v.2).or fl }, left := m }

/-- Mark a unit faulted for a cause, and write a record of an engine against it (R202, R331). -/
def sheavePoison (s : State) (r : AprRec) (o : EngOp) (shv strm : Nat) (cause : BitVec 16) : State :=
  let s1 := match kget s.units r.unit with
    | some w => markFaulted s r.unit w cDataPoison
    | none => s
  let s2 := recordEng s1 o (16 * shv + strm) cDataPoison (cause.setWidth 64)
  s2

/-- SHEAVE_STORE_FILL: the sheave takes the token at its port and writes positions of the running store record (R202). -/
def sheaveStore (s0 : State) (die shv strm : Nat) : State :=
  let s := endRecord s0 die shv strm
  match (streamOf s die shv strm).running with
  | none => s
  | some r =>
    match kget s.ops r.op with
    | none => s
    | some o =>
      if !r.store || r.fin.isSome || o.fault.isSome then s
      else
        match findPort s r.unit die 1 shv strm with
        | none => s
        | some (key, n) =>
          match (if portsOpen s key then portHead s key n else none) with
          | none => s
          | some t =>
            match t.cls with
            | .poison =>
              let s1 := sheavePoison (portPop s key n) r o shv strm ((t.lane 0).setWidth 16)
              endRecord (setRun s1 die shv strm { r with fin := some stPoison }) die shv strm
            | .header =>
              if r.hdr && r.scv then
                match storeVa s o.asid (some o.job) ((r.scales + r.hdrs) % 2 ^ 57) [(t.lane 0).setWidth 8] with
                | .waits _ => s
                | .bad c va => faultOp s r.op c va (16 * shv + strm)
                | .ok s1 => setRun (portPop (portLatch (opReads s1 r.op) key n t) key n) die shv strm { r with hdrs := r.hdrs + 1 }
              else setRun (portPop (portLatch s key n t) key n) die shv strm { r with hdrs := r.hdrs + 1 }
            | _ =>
              let f := fillLanes o (portScale s key n) t (lanesOf t.mask) { s := s, r := r, left := t.mask, bad := none }
              let s1 := portKeep (opReads f.s r.op) key n f.left
              match f.bad with
              | some (c, va) => faultOp (setRun s1 die shv strm f.r) r.op c va (16 * shv + strm)
              | none =>
                endRecord (setRun s1 die shv strm { f.r with fin := if f.r.pos = f.r.total then some 0 else none }) die shv strm

/-! ## Permit ports (R189, R213) -/

/-- PERMIT_PORT_TOKEN: a token at a KIND 2 port acts as one permit of its channel; poison cancels the copy; a permit to a channel that the
context no longer holds is discarded (R118). -/
def permitPort (s : State) (tp : Tp) (n : Nat) : State :=
  match kget s.images tp.key with
  | none => s
  | some img =>
    match img.ports[n]?, portHead s tp.key n, kget s.units img.unit with
    | some p, some t, some w =>
      if p.kind ≠ 2 || !portsOpen s tp.key then s
      else
        let s1 := portPop s tp.key n
        if (chanOf s img.die p.chan).holder ≠ some w.asid then s1
        else if t.cls = .poison then poisonPermit s1 img.die p.chan
        else addPermits s1 img.die p.chan 1
    | _, _, _ => s

end Sys2Proof.Machine
end

