-- ==== Sys2Proof/Machine/Gre.lean ====
section
/-! DEFINITION. The gather-reduce engine (R214–R216, R275): the index state, the checks and the emptying that come before the first
row, and the rows. -/

namespace Sys2Proof.Machine

/-! ## Index state (R214) -/

/-- The index state of an issuer. -/
def idxOf (s : State) (x : Ctx) : IdxState :=
  match x.iss with
  | .seq u => dget IdxState.initial s.idxs u
  | .chain k _ => ((chainOf s k).bound.map fun b => b.idx).getD IdxState.initial

/-- Set the index state of an issuer. -/
def setIdx (s : State) (x : Ctx) (i : IdxState) : State :=
  match x.iss with
  | .seq u => { s with idxs := dset IdxState.initial s.idxs u i }
  | .chain k _ => modBound s k fun b => { b with idx := i }

/-- `gath.idx`: an index list, or with SPEC[0] a bag list. -/
def issueGathIdx (s : State) (x : Ctx) (c : Cmd128) : Issued :=
  let i := idxOf s x
  if (cmdSpec c).getLsbD 0 then
    let nbag := fld c 63 32
    checked s (lowest [(fld c 71 64 ≠ 0 || fld c 31 0 ≠ 0, stForm), (nbag = 0 || nbag = 2 ^ 32 - 1, stRange)])
      (atOnce s x .gre c (.st (setIdx s x { i with bags := some (x.va (fld c 111 72), nbag) }) 0))
  else
    let ifmt := fld c 71 68
    checked s (lowest [(fld c 67 64 ≠ 0, stForm), (ifmt ≠ 12 && ifmt ≠ 10 && ifmt ≠ 13, stType),
                       (fld c 63 32 = 0 || fld c 31 0 = 0, stRange)])
      (atOnce s x .gre c
        (.st (setIdx s x { list := some (x.va (fld c 111 72), BitVec.ofNat 4 ifmt, fld c 63 32, fld c 31 0), bags := none }) 0))

/-! ## Indices and bags -/

/-- Bytes of an index. -/
def idxSize (ifmt : BitVec 4) : Nat := if ifmt = 12 then 2 else 4

/-- The index at a position. -/
def idxAt (s : State) (o : EngOp) (g : GathOp) (j : Nat) : Got Int :=
  (loadVa s o.asid o.die ((g.idx + idxSize g.ifmt * j) % 2 ^ 57) (idxSize g.ifmt) none).map fun bs =>
    if g.ifmt = 10 then (BitVec.ofNat 32 (leNat bs)).toInt else (leNat bs : Int)

/-- A bag offset. -/
def bagOff (s : State) (o : EngOp) (base b : Nat) : Got Nat :=
  (loadVa s o.asid o.die ((base + 4 * b) % 2 ^ 57) 4 none).map leNat

/-- The bags of a `gath.red`: without a bag list the whole list is one bag. -/
def GathOp.nbags (g : GathOp) : Nat := match g.bags with | some (_, n) => n | none => 1

/-- How many rows the command has: positions of a `gath.row`, bags of a `gath.red`. -/
def GathOp.rows (g : GathOp) : Nat := if g.red then g.nbags else g.nidx

/-- The first and one past the last position of a bag. -/
def bagSpan (s : State) (o : EngOp) (g : GathOp) (b : Nat) : Got (Nat × Nat) :=
  match g.bags with
  | none => .ok (0, g.nidx)
  | some (base, _) => (bagOff s o base b).bind fun a => (bagOff s o base (b + 1)).map fun e => (a, e)

/-- The first bag whose offsets fall or run past the list, if any (R216). -/
def badBag (s : State) (o : EngOp) (g : GathOp) : List Nat → Got (Option Nat)
  | [] => .ok none
  | b :: bs => (bagSpan s o g b).bind fun ae =>
      if ae.2 < ae.1 || (b + 1 = g.nbags && g.nidx < ae.2) then .ok (some b) else badBag s o g bs

/-- Is an index out of range (R215)? -/
def GathOp.outside (g : GathOp) (x : Int) : Bool := x < 0 || (g.limit : Int) ≤ x

/-- The first position whose index is out of range, if any. -/
def badIdx (s : State) (o : EngOp) (g : GathOp) : List Nat → Got (Option Nat)
  | [] => .ok none
  | j :: js => (idxAt s o g j).bind fun x => if g.outside x then .ok (some j) else badIdx s o g js

/-- The row's destination and its length in granules. -/
def GathOp.destRow (g : GathOp) (j : Nat) : Nat := (g.dst + 16 * (g.rown + 1) * j) % 2 ^ 57

/-- The granules of a destination row, each translated; only caddies have full/empty bits (R72). -/
def rowGranules (s : State) (o : EngOp) (va : Nat) : Nat → Got (List Nat)
  | 0 => .ok []
  | n + 1 =>
    (place s o.asid va 16 .write).bind fun p =>
      match caddyOf p with
      | none => .bad cMemAttr va
      | some a => (rowGranules s o ((va + 16) % 2 ^ 57) n).map fun as => a :: as

/-- The granules of every destination row. -/
def allGranules (s : State) (o : EngOp) (g : GathOp) : List Nat → Got (List Nat)
  | [] => .ok []
  | j :: js => (rowGranules s o (g.destRow j) (g.rown + 1)).bind fun as => (allGranules s o g js).map fun bs => as ++ bs

/-- What comes before the first row (R215, R216): the bag offsets, the indices under the trap policy, and under FE the granules to empty.
The answer is a status with its VAL where a check fails, else the granules. -/
def gathChecks (s : State) (o : EngOp) (g : GathOp) : Got (Except (Nat × Word) (List Nat)) :=
  (if g.red && g.bags.isSome then badBag s o g (List.range g.nbags) else .ok none).bind fun bb =>
    match bb with
    | some b => .ok (.error (stRange, BitVec.ofNat 64 b ||| (1 <<< 63)))
    | none =>
      (if g.pol = 3 then badIdx s o g (List.range g.nidx) else .ok none).bind fun bi =>
        match bi with
        | some j => .ok (.error (stIndex, BitVec.ofNat 64 j))
        | none =>
          (if g.fe then allGranules s o g (List.range g.rows) else .ok []).map fun gs => .ok gs

/-- Put a gather's progress back. -/
def setGath (s : State) (n : Nat) (g : GathOp) : State := modOp s n fun o => { o with body := .gath g }

/-- A gather command makes its checks and empties its destination when it starts (R216). -/
def gathStart (s : State) (n : Nat) : State :=
  match kget s.ops n with
  | none => s
  | some o =>
    match o.body with
    | .gath g =>
      if g.ready || o.fault.isSome || !mayStart s n o then s
      else
        match gathChecks s o g with
        | .waits on => opWaits s n on
        | .bad c va => faultOp s n c va 0
        | .ok (.error (st, v)) =>
          let s1 := finishOp s n st
          match o.iss with
          | .seq _ => recordEng s1 o 0 0x40 v
          | .chain _ _ => s1
        | .ok (.ok gs) => setGath (gs.foldl (fun s a => setFull s a false) (opReads s n)) n { g with ready := true }
    | _ => s

/-- Has a gather command still to make its checks and empty its destination (R275)? -/
def emptying (s : State) (n : OpId) : Bool :=
  match kget s.ops n with
  | some o => o.fin.isNone && match o.body with
    | .gath g => !g.ready
    | _ => false
  | none => false

/-- `gath.row` and `gath.red`. -/
def issueGath (red : Bool) (s : State) (x : Ctx) (c : Cmd128) : Issued :=
  let fmt := fld c 19 16
  let i := idxOf s x
  checked s (lowest [(fld c 13 0 ≠ 0 || (!red && fmt ≠ 0), stForm), (red && (fmt = 7 || 14 ≤ fmt), stType), (i.list.isNone, stState)])
    (let l := i.list.getD (0, 0, 0, 0)
     let g : GathOp := { red := red, tab := x.va (fld c 111 72), dst := x.va (fld c 71 32), rown := fld c 31 20, fmt := BitVec.ofNat 4 fmt,
                         pol := fld c 15 14, fe := cmdFe c, idx := l.1, ifmt := l.2.1, nidx := l.2.2.1, limit := l.2.2.2, bags := i.bags,
                         ready := false, done := [] }
     let a := addOp s (x.op .gre c (.gath g) {})
     .st (if cmdFe c then gathStart a.1 a.2 else a.1) 0)

/-! ## Rows (R216) -/

/-- An index under its policy: none where the row or occurrence is not read (R215). -/
def GathOp.clampIdx (g : GathOp) (x : Int) : Option Nat :=
  if !g.outside x then some x.toNat
  else if g.pol = 1 then some (if x < 0 then 0 else g.limit - 1)
  else none

/-- Land row `j` of a `gath.row`. -/
def gatherRow (s : State) (o : EngOp) (g : GathOp) (j : Nat) : Got State :=
  (idxAt s o g j).bind fun x =>
    let n := 16 * (g.rown + 1)
    let dst := g.destRow j
    (if g.fe then rowGranules s o dst (g.rown + 1) else .ok []).bind fun gs =>
      let fill (s : State) : State := gs.foldl (fun s a => setFull s a true) s
      match g.clampIdx x with
      | some i =>
        (loadVa s o.asid o.die ((g.tab + n * i) % 2 ^ 57) n none).bind fun bs =>
          (storeVa s o.asid (some o.job) dst bs).map fill
      | none => if g.pol = 2 then (storeVa s o.asid (some o.job) dst (List.replicate n 0)).map fill else .ok (fill s)

/-- The FX128 cell of an address: its device address and window exponent; a cell in no region raises `mem.attr` (R181, R216). -/
def cellAt (s : State) (o : EngOp) (va : Nat) : Got (Nat × Int) :=
  if va % 16 ≠ 0 then .bad cMemAlign va
  else
    (place s o.asid va 16 .atomic).bind fun p =>
      match p with
      | .dpa a => match fxWindow s o.job a with
        | some w => if writeHeld s none p 16 then .waits [] else .ok (a, w)
        | none => .bad cMemAttr va
      | _ => .bad cMemAttr va

/-- The additions of one occurrence of a table row: (cell, window, value), and the flags of the conversions. -/
def occurrence (s : State) (o : EngOp) (g : GathOp) (row bag : Nat) : List Nat → Got (List (Nat × Int × Lane) × Flags)
  | [] => .ok ([], Flags.none)
  | e :: es =>
    let sz := elemSize g.fmt
    let stride := ((g.rown + 1) * sz + 15) / 16 * 16
    (elemLoad s o.asid o.job o.die g.fmt false ((g.tab + stride * row + sz * e) % 2 ^ 57) 0).bind fun v =>
      (cellAt s o ((g.dst + 16 * ((g.rown + 1) * bag + e)) % 2 ^ 57)).bind fun cw =>
        (occurrence s o g row bag es).map fun r => ((cw.1, cw.2, v.1) :: r.1, v.2.or r.2)

/-- The additions of every position of a bag. -/
def bagAdds (s : State) (o : EngOp) (g : GathOp) (bag : Nat) : List Nat → Got (List (Nat × Int × Lane) × Flags)
  | [] => .ok ([], Flags.none)
  | p :: ps =>
    (idxAt s o g p).bind fun x =>
      let inner : Got (List (Nat × Int × Lane) × Flags) := match g.clampIdx x with
        | some row => occurrence s o g row bag (List.range (g.rown + 1))
        | none => .ok ([], Flags.none)
      inner.bind fun a => (bagAdds s o g bag ps).map fun r => (a.1 ++ r.1, a.2.or r.2)

/-- Reduce bag `b` of a `gath.red`: the state, and the flags of the conversions. -/
def reduceBag (s : State) (o : EngOp) (g : GathOp) (b : Nat) : Got (State × Flags) :=
  (bagSpan s o g b).bind fun ae =>
    (bagAdds s o g b ((List.range (ae.2 - ae.1)).map fun i => ae.1 + i)).bind fun r =>
      (if g.fe then rowGranules s o (g.destRow b) (g.rown + 1) else .ok []).map fun gs =>
        let s1 := r.1.foldl (fun s a => fxAddAt s a.1 a.2.1 a.2.2) s
        (gs.foldl (fun s a => setFull s a true) s1, r.2)

/-- GRE_ROW: the GRE lands row `j`, or reduces bag `j`, of an operation (R216). Rows land in any order, each once. -/
def greRow (s0 : State) (n j : Nat) : State :=
  let s := gathStart s0 n
  match kget s.ops n with
  | none => s
  | some o =>
    match o.body with
    | .gath g =>
      if !g.ready || o.fin.isSome || g.rows ≤ j || g.done.contains j || o.fault.isSome then s
      else
        match (if g.red then reduceBag s o g j else (gatherRow s o g j).map fun s1 => (s1, Flags.none)) with
        | .waits on => opWaits s n on
        | .bad c va => faultOp s n c va 0
        | .ok (s1, fl) =>
          let g1 := { g with done := j :: g.done }
          let s2 := modOp (opReads s1 n) n fun o => { o with body := .gath g1, conv := o.conv.or fl }
          if g1.done.length = g.rows then finishOp s2 n 0 else s2
    | _ => s

end Sys2Proof.Machine
end

