-- ==== Sys2Proof/Machine/Near.lean ====
section
/-! DEFINITION. The quantisation engine (R217, R218), the near-memory units (R226, R227) and dead regions (R228). -/

namespace Sys2Proof.Machine

/-! ## Quantisation engine -/

/-- `qnt.blk` and `qnt.dq`. -/
def issueQnt (dq : Bool) (s : State) (x : Ctx) (c : Cmd128) : Issued :=
  let q := x.va (fld c 71 32)
  let wf := fld c 31 28
  let qf := fld c 27 24
  let cvm := fld c 15 14
  let wOk := wf = 0 || wf = 2 || wf = 3 || wf = 4
  let qOk := qf = 5 || qf = 6 || qf = 7 || qf = 8
  checked s (lowest [(q % 64 ≠ 0 || (qf = 7 && (fld c 23 16 + 1) % 4 ≠ 0), stForm), (!wOk || !qOk, stType)])
    (let w : WarnBits := { cvm := cvm = 3 }
     let b : QntOp := { dq := dq, a := x.va (fld c 111 72), q := q, wfmt := BitVec.ofNat 4 wf, qfmt := BitVec.ofNat 4 qf, blen := fld c 23 16,
                        cvm := if cvm = 3 then 0 else BitVec.ofNat 2 cvm, nblk := fld c 13 0 + 1, next := 0 }
     .st (cmdWarn (addOp s (x.op .qe c (.qnt b) w)).1 x w c) 0)

/-- The bytes that a block takes in the quantised image (R217). -/
def QntOp.blockBytes (q : QntOp) : Nat := if q.qfmt = 7 then 3 * (q.blen + 1) / 4 else q.blen + 1

/-- Where the blocks of the quantised image begin: after the scales, at the next multiple of 64 (R217). -/
def QntOp.data (q : QntOp) : Nat := (q.q + (q.nblk + 63) / 64 * 64) % 2 ^ 57

/-- The address of element `i` of block `k` of the wide array. -/
def QntOp.wideAt (q : QntOp) (k i : Nat) : Nat := (q.a + (k * (q.blen + 1) + i) * elemSize q.wfmt) % 2 ^ 57

/-- The address of element `i` of block `k` of the quantised image, and its place in its lg6 group. -/
def QntOp.quantAt (q : QntOp) (k i : Nat) : Nat × Nat :=
  let base := q.data + k * q.blockBytes
  if q.qfmt = 7 then ((base + 3 * (i / 4)) % 2 ^ 57, i % 4) else ((base + i) % 2 ^ 57, 0)

/-- The greatest exponent of a block format (R218). -/
def emaxOf (qfmt : BitVec 4) : Int :=
  match qfmt.toNat with
  | 5 => 8
  | 6 => 15
  | 8 => 6
  | _ => 3

/-- The magnitude exponent of a value that is not zero; none of zero. -/
def magExp : FwVal → Option Int
  | .num _ m e => if m = 0 then none else some (expOf m e)
  | _ => none

/-- SCALE of a block (R218). -/
def blockScale (qfmt : BitVec 4) (vs : List Lane) : Nat :=
  let us := vs.map fwUnpack
  if us.any fun v => match v with | .num _ _ _ => false | _ => true then 0xFF
  else
    match (us.filterMap magExp).max? with
    | none => 127
    | some x =>
      let v := x - emaxOf qfmt + 127
      if v < 0 then 0 else if 254 < v then 254 else v.toNat

/-- Store a value multiplied exactly by a power of two in a block format (R218, R54). -/
def storeScaled (f : Fmt) (cvm : BitVec 2) (k : Int) (x : Lane) : Nat × Flags :=
  match fwUnpack x with
  | .num sg m e =>
    match f with
    | .lg6 => let r := lg6EncodeVal (.num sg m (e + k)); (r.1.toNat, { r.2 with nv := false })
    | .s8 => let r := rneInt m (e + k); storeInt .s8 cvm (signed sg r.1) r.2
    | f => storeFlt f cvm sg m (e + k)
  | _ => storeConv f .w40 cvm x

/-- Read elements of a format, at addresses with their places in lg6 groups. -/
def elemsLoad (s : State) (o : EngOp) (fmt : BitVec 4) : List (Nat × Nat) → Got (List Lane × Flags)
  | [] => .ok ([], Flags.none)
  | (va, sub) :: rest =>
    (elemLoad s o.asid o.job o.die fmt false va sub).bind fun v =>
      (elemsLoad s o fmt rest).map fun r => (v.1 :: r.1, v.2.or r.2)

/-- Pack codes of a block format (R52). -/
def packCodes (qfmt : BitVec 4) : List Nat → List Byte
  | a :: b :: c :: d :: rest =>
    if qfmt = 7 then leBytes 3 (a % 64 + b % 64 * 2 ^ 6 + c % 64 * 2 ^ 12 + d % 64 * 2 ^ 18) ++ packCodes qfmt rest
    else leBytes 1 a ++ leBytes 1 b ++ leBytes 1 c ++ leBytes 1 d ++ packCodes qfmt rest
  | a :: rest => leBytes 1 a ++ packCodes qfmt rest
  | [] => []

/-- Quantise block `k` (R218). -/
def quantBlock (s : State) (o : EngOp) (q : QntOp) (k : Nat) : Got (State × Flags) :=
  (elemsLoad s o q.wfmt ((List.range (q.blen + 1)).map fun i => (q.wideAt k i, 0))).bind fun v =>
    let sc := blockScale q.qfmt v.1
    let f := (fmtOfType q.qfmt).getD .s8
    let cs := v.1.map fun x => if sc = 0xFF then storeConv f .w40 q.cvm fwNaN else storeScaled f q.cvm (127 - sc) x
    let fl := cs.foldl (fun a c => a.or c.2) v.2
    (storeVa s o.asid (some o.job) ((q.q + k) % 2 ^ 57) (leBytes 1 sc)).bind fun s1 =>
      let pad : List Byte := if k = 0 then List.replicate ((q.nblk + 63) / 64 * 64 - q.nblk) 0 else []
      (storeVa s1 o.asid (some o.job) ((q.q + q.nblk) % 2 ^ 57) pad).bind fun s2 =>
        (storeVa s2 o.asid (some o.job) (q.quantAt k 0).1 (packCodes q.qfmt (cs.map fun c => c.1))).map fun s3 => (s3, fl)

/-- Store lane words in a wide format from an address on. -/
def wideStore (o : EngOp) (q : QntOp) (k : Nat) : Nat → List Lane → State × Flags → Got (State × Flags)
  | _, [], r => .ok r
  | i, x :: xs, r =>
    (elemStore r.1 o.asid o.job o.die q.wfmt false q.cvm (q.wideAt k i) 0 x).bind fun r1 =>
      wideStore o q k (i + 1) xs (r1.1, r.2.or r1.2)

/-- Dequantise block `k` (R218). -/
def dequantBlock (s : State) (o : EngOp) (q : QntOp) (k : Nat) : Got (State × Flags) :=
  (loadVa s o.asid o.die ((q.q + k) % 2 ^ 57) 1 none).bind fun sc =>
    (elemsLoad s o q.qfmt ((List.range (q.blen + 1)).map fun i => q.quantAt k i)).bind fun v =>
      let h := { Hdr.initial with scale := sc.headD 127 }
      let ys := v.1.map fun x => hdrScale h x
      wideStore o q k 0 (ys.map fun y => y.1) (s, ys.foldl (fun a y => a.or y.2) v.2)

/-- QE_BLOCK: the QE converts and writes the next block of an operation (R218). -/
def qeBlock (s : State) (n : Nat) : State :=
  match kget s.ops n with
  | none => s
  | some o =>
    match o.body with
    | .qnt q =>
      if !mayStart s n o || o.fault.isSome then s
      else
        match (if q.dq then dequantBlock s o q q.next else quantBlock s o q q.next) with
        | .waits on => opWaits s n on
        | .bad c va => faultOp s n c va 0
        | .ok (s1, fl) =>
          let s2 := modOp (opReads s1 n) n fun o => { o with body := .qnt { q with next := q.next + 1 }, conv := o.conv.or fl }
          if q.next + 1 = q.nblk then finishOp s2 n 0 else s2
    | _ => s

/-! ## Near-memory units -/

/-- The HBM, or the peer range, of a stack that an address lies in. -/
def stackRange (p : Phys) : Option Region :=
  match p with
  | .dpa a => match regionOf a with
    | .hbm st => some (.hbm st)
    | .tier st => some (.tier st)
    | _ => none
  | _ => none

/-- Do all of the pieces lie in the HBM of one stack, or all in its peer range (R226, R228)? -/
def oneStack (ps : List (Nat × Phys × Nat)) : Bool :=
  match ps with
  | [] => false
  | p :: _ => (stackRange p.2.1).isSome && ps.all fun q => stackRange q.2.1 = stackRange p.2.1

/-- Do two ranges share a byte? -/
def rangesOverlap (ps qs : List (Nat × Phys × Nat)) : Bool :=
  ps.any fun p => qs.any fun q => overlaps p.2.1 p.2.2 q.2.1 q.2.2

/-- The near-memory commands. -/
def issueNmc (k : NmcKind) (s : State) (x : Ctx) (c : Cmd128) : Issued :=
  let xv := x.va (fld c 111 72)
  let yv := x.va (fld c 71 32)
  let n := fld c 23 0 + 1
  let sp := cmdSpec c
  let yfmt : BitVec 4 := match k with
    | .red => sp.setWidth 4
    | _ => if sp.getLsbD 0 then 3 else 2
  let xsz := match k with | .red => 16 | _ => 4
  let code := lowest [(xv % xsz ≠ 0 || yv % 4 ≠ 0, stForm), (yfmt = 7 || yfmt = 14 || yfmt = 15, stType)]
  if code ≠ 0 then .st s code
  else
    (mapRange s x.asid xv (xsz * n) .atomic).issue fun xs =>
      (mapRange s x.asid yv (elemSize yfmt * n) .read).issue fun ys =>
        checked s (lowest [(rangesOverlap xs ys, stForm), (!oneStack (xs ++ ys), stRange)])
          (let b : NmcOp := { kind := k, x := xv, y := yv, sa := x.scalar (fld c 31 28), sb := x.scalar (fld c 27 24), n := n, yfmt := yfmt, done := [] }
           .st (addOp s (x.op .nmc c (.nmc b) {})).1 0)

/-- What one update stores, from the values read (Table 8.16): each step rounded once. -/
def NmcOp.update (b : NmcOp) (p y : Lane) : Lane × Flags :=
  match b.kind with
  | .sgd =>
    let t := fwFma false false b.sb p y
    let r := fwFma true false b.sa t.1 p
    (r.1, t.2.or r.2)
  | _ =>
    let u := fwMul b.sb y
    let r := fwFma false false b.sa p u.1
    (r.1, u.2.or r.2)

/-- Update element `i` (R227). -/
def nmcElem (s : State) (o : EngOp) (b : NmcOp) (i : Nat) : Got (State × Flags) :=
  let yva := (b.y + elemSize b.yfmt * i) % 2 ^ 57
  (elemLoad s o.asid o.job o.die b.yfmt false yva 0).bind fun y =>
    match b.kind with
    | .red =>
      (cellAt s o ((b.x + 16 * i) % 2 ^ 57)).map fun cw => (fxAddAt s cw.1 cw.2 y.1, y.2)
    | _ =>
      let xva := (b.x + 4 * i) % 2 ^ 57
      (elemLoad s o.asid o.job o.die 2 false xva 0).bind fun p =>
        let r := b.update p.1 y.1
        (elemStore s o.asid o.job o.die 2 false 0 xva 0 r.1).map fun w => (w.1, ((p.2.or y.2).or r.2).or w.2)

/-- NMC_ELEMENT_UPDATE: the base die performs the update of element `i` as one event (R227). -/
def nmcUpdate (s : State) (n i : Nat) : State :=
  match kget s.ops n with
  | none => s
  | some o =>
    match o.body with
    | .nmc b =>
      if !mayStart s n o || o.fault.isSome || b.n ≤ i || b.done.contains i then s
      else
        match nmcElem s o b i with
        | .waits on => opWaits s n on
        | .bad c va => faultOp s n c va 0
        | .ok (s1, fl) =>
          let b1 := { b with done := i :: b.done }
          let s2 := modOp (opReads s1 n) n fun o => { o with body := .nmc b1, conv := o.conv.or fl }
          if b1.done.length = b.n then finishOp s2 n 0 else s2
    | _ => s

/-! ## Dead regions -/

/-- Does the translation of a range read a lost page of its tables (R356)? -/
def tablesLost (s : State) (asid : BitVec 12) (va n : Nat) : Bool :=
  (kget s.roots asid.toNat).any fun root => (chunks (n / 65536 + 2) 0 va n).any fun p => walkLost s p.2.1 root

/-- `dead.set` and `dead.clr` (R228): every unit of the range has zero content afterwards (log entry 105). Lost pages of the range stop it no more than
others, those of the tables do (R356). -/
def issueDead (set : Bool) (s : State) (x : Ctx) (c : Cmd128) : Issued :=
  let va := x.va (fld c 111 72)
  let n := fld c 71 40
  let code := lowest [(fld c 39 0 ≠ 0 || va % 65536 ≠ 0, stForm), (n = 0, stRange)]
  let lostOk := { s with lost := [] }
  if code ≠ 0 then .st s code
  else if tablesLost s x.asid va (65536 * n) then .fault cMemUce va
  else
    (mapRange lostOk x.asid va (65536 * n) .write).issue fun ps =>
      if !oneStack ps then .st s stRange else settleAt s x .base c (.dead set ps)

end Sys2Proof.Machine
end

