-- ==== Sys2Proof/Machine/Chains.lean ====
section
/-! DEFINITION. Command chains and task queues (R193–R196, R219): binding, the tail, WAIT, and publishing. -/

namespace Sys2Proof.Machine

/-- Whether some bytes hold a number of `n` bytes at an offset. -/
def fieldAt (bs : List Byte) (off n : Nat) : Nat := leNat ((bs.drop off).take n)

/-- Is a number a power of two within bounds? -/
def powerIn (n lo hi : Nat) : Bool := lo ≤ n && n ≤ hi && 2 ^ Nat.log2 n = n

/-! ## Records of a chain -/

/-- Withhold a chain at a fault of its own (R191): the first sight writes one record; `entry` is the address of the entry it reads, or 0. -/
def chainFault (s : State) (k : ChainId) (b : Bound) (cause : BitVec 16) (va : Nat) (entry : Nat := 0) : State :=
  if cause = cMemUce then doomJob s b.job cMemUce
  else
    let v := BitVec.ofNat 64 va
    let seen := match b.fault with | some (c, a, _) => c = cause && a = v | none => false
    let s1 := modBound s k fun b => { b with fault := some (cause, v, s.tb, faultAccess s b.asid cause va) }
    let kind := match k.kind with | .gre => 2 | .qe => 3 | .nmc => 5 | .mxq => 4
    if seen then s1
    else
      writeRecord s1 b.job (match rootOf s1 b.launch with | some q => some q | none => firstQueue s1 b.job)
        { FaultRec.plain cause 3 ((b.launch.map (handleOfLaunch s1)).getD 0) v with where_ := whereEng k.die kind k.num, val2 := BitVec.ofNat 64 entry }

/-- Clear the fault of a chain, its access having succeeded. -/
def chainReads (s : State) (k : ChainId) : State := modBound s k fun b => { b with fault := none, waitsOn := [] }

/-! ## Binding (R193, R196) -/

/-- What a binding command finds in its descriptor: a status, or the binding. -/
def readDesc (k : ChainId) (x : Ctx) (mask : BitVec 16) (tb : Word) (bs : List Byte) : Nat × Bound :=
  let ring := fieldAt bs 0x00 8 % 2 ^ 57
  let nent := fieldAt bs 0x08 4
  let flags := fieldAt bs 0x0C 4
  let mx := match k.kind with | .mxq => true | _ => false
  (lowest [(ring % (if mx then 64 else 32) ≠ 0 || flags / 2 ^ 9 ≠ 0 || fieldAt bs 0x34 4 ≠ 0 || (!mx && fieldAt bs 0x38 8 ≠ 0), stForm),
           (!powerIn nent 2 65536, stRange)],
   { asid := x.asid, job := x.job, unit := x.unit, launch := x.launch, ring := ring, nent := nent,
     vec := if flags / 256 % 2 = 1 then some (flags % 256) else none,
     taila := fieldAt bs 0x10 8 % 2 ^ 57, seqa := fieldAt bs 0x18 8 % 2 ^ 57, basea := fieldAt bs 0x20 8 % 2 ^ 57,
     ntfa := fieldAt bs 0x28 8 % 2 ^ 57, pollt := fieldAt bs 0x30 4, stata := fieldAt bs 0x38 8 % 2 ^ 57, mask := mask,
     head := 0, pub := 0, tail := 0, polled := tb, finished := [], streamed := [], stopped := false, lastRing := 0, lastTask := 0, unbinding := none, fault := none, tailDue := false, waitsOn := [], poisoned := false, idx := .initial })

/-- Is a chain bound, or about to be by a command under SER? -/
def boundSoon (s : State) (k : ChainId) : Bool :=
  (chainOf s k).bound.isSome || (settledOf s).any fun e => match e with
    | .bind k' _ => k' = k
    | _ => false

/-- Bind a chain: it must be granted to the ASID and free. The descriptor and the sequence word are read once, at issue (R193, R394). -/
def issueBind (s : State) (x : Ctx) (c : Cmd128) (row : Engine) (k : ChainId) (mask : BitVec 16) (form : Bool) (desc : Nat) : Issued :=
  let ch := chainOf s k
  let other := ch.holder ≠ some x.asid || mask &&& ~~~ch.mxes ≠ 0
  if form || desc % 64 ≠ 0 then .st s stForm
  else
    (x.load s desc 64).issue fun bs =>
      let r := readDesc k x mask s.tb bs
      let code := lowest [(r.1 ≠ 0, r.1), (ch.holder = some x.asid && boundSoon s k, stState), (other, stOwner)]
      if code ≠ 0 then .st s code
      else
        ((x.load s r.2.seqa 8).map wordOf).issue fun h =>
          let n := h.toNat % 2 ^ 40
          settleAt s x row c (.bind k { r.2 with head := n, pub := n, tail := n })

/-- A chain becomes free. A swap whose barrier tasks the queue has published need not ask it again (R221). -/
def freeChain (s : State) (k : ChainId) (pub : Nat) : State :=
  let note (o : EngOp) : EngOp := match o.body, k.kind with
    | .swap x, .mxq => if o.die = k.die ∧ x.queue = k.num ∧ x.bseq ≤ pub then { o with body := .swap { x with met := true } } else o
    | _, _ => o
  putChain { s with ops := s.ops.map fun o => (o.1, note o.2) } k { chainOf s k with bound := none }

/-- Free a chain whose unbind has nothing left to wait for. -/
def settleUnbind (s : State) (k : ChainId) : State :=
  let ch := chainOf s k
  match ch.bound with
  | none => s
  | some b =>
    match b.unbinding with
    | none => s
    | some n => if b.pub = b.head then finishOp (freeChain s k b.pub) n 0 else s

/-- An unbind starts (R196): no further entry starts, and the chain is free once those read have been published. -/
def startUnbind (s : State) (n : Nat) (o : EngOp) (k : ChainId) : State :=
  match (chainOf s k).bound with
  | some b => if b.asid = o.asid && b.unbinding.isNone then settleUnbind (modBound s k fun b => { b with unbinding := some n }) k
    else if b.unbinding = some n then s else finishOp s n 0
  | none => finishOp s n 0

/-- Unbind a chain: under SER it starts once the issuer's earlier commands to the engine have completed (R116). -/
def issueUnbind (s : State) (x : Ctx) (c : Cmd128) (row : Engine) (k : ChainId) (form : Bool) : Issued :=
  let ch := chainOf s k
  let mine := match ch.bound with | some b => b.asid = x.asid && b.unbinding.isNone | none => false
  let other := match ch.bound with | some b => b.asid ≠ x.asid | none => false
  checked s (lowest [(form, stForm), (!mine && !other, stState), (other, stOwner)])
    (let a := addOp s (x.op row c (.unbind k.kind k.num) {})
     let o := x.op row c (.unbind k.kind k.num) {}
     .st (if mayStart a.1 a.2 o then startUnbind a.1 a.2 o k else a.1) 0)

/-- `gath.chain`, `qnt.chain` and `nmc.chain`. -/
def issueChainCtl (kind : ChainKind) (row : Engine) (s : State) (x : Ctx) (c : Cmd128) : Issued :=
  let k : ChainId := { kind := kind, die := x.die, num := fld c 111 106 }
  let form := fld c 104 80 ≠ 0 || fld c 39 0 ≠ 0
  if fld c 105 105 = 1 then issueUnbind s x c row k form else issueBind s x c row k 0 form (x.va (fld c 79 40))

/-! ## The tail (R195) -/

/-- Is a fault one of an access at an address? -/
def faultAt (f : Option (BitVec 16 × Word × Word × Access)) (va : Nat) : Bool :=
  match f with
  | some (_, a, _) => a = BitVec.ofNat 64 va
  | none => false

/-- Re-read the tail word of a chain: what cannot be read yet is read as soon as it can. A wait that ended in poison is a fault of the chain (R91). -/
def readTail (s : State) (k : ChainId) : State :=
  match (chainOf s k).bound with
  | none => s
  | some b =>
    let due := modBound s k fun b => { b with tailDue := true }
    if !s.dies.getLsbD k.die then due
    else if b.poisoned then chainFault (modBound due k fun b => { b with poisoned := false, waitsOn := [] }) k b cDataPoison b.taila
    else
    match loadWord s b.asid k.die b.taila with
    | .ok v => modBound s k fun b => { b with tail := v.toNat, tailDue := false, waitsOn := [], fault := if faultAt b.fault b.taila then none else b.fault }
    | .bad c va => if b.fault.isNone || faultAt b.fault b.taila then chainFault due k b c va else due
    | .waits on => modBound due k fun b => { b with waitsOn := on }

/-- XLAT_REWALK of a chain (R332): an access that walks again goes on; a tail read is replayed. -/
def chainRewalk (s : State) (k : ChainId) : State :=
  match (chainOf s k).bound with
  | none => s
  | some b =>
    match b.fault with
    | none => s
    | some f =>
      match rewalk s b.asid f with
      | .early => s
      | .walks =>
        let s1 := chainReads s k
        if f.2.1.toNat = b.taila || b.tailDue then readTail s1 k else s1
      | .fails => modBound s k fun b => { b with fault := some (f.1, f.2.1, s.tb, f.2.2.2) }

/-- A tail command to a chain (R196): unbound gives STATE, another context's gives OWNER. -/
def issueTailOf (s : State) (x : Ctx) (c : Cmd128) (row : Engine) (k : ChainId) (form : Bool) : Issued :=
  match (chainOf s k).bound with
  | none => .st s (lowest [(form, stForm), (true, stState)])
  | some b => checked s (lowest [(form, stForm), (b.asid ≠ x.asid, stOwner)]) (atOnce s x row c (.st (readTail s k) 0))

/-- `gath.tail`, `qnt.tail` and `nmc.tail`. -/
def issueTail (kind : ChainKind) (row : Engine) (s : State) (x : Ctx) (c : Cmd128) : Issued :=
  issueTailOf s x c row { kind := kind, die := x.die, num := fld c 111 106 } (fld c 104 80 ≠ 0 || fld c 39 0 ≠ 0)

/-- CHAIN_TAIL_POLL: POLLT ticks have passed since the last poll. -/
def tailPoll (s : State) (k : ChainId) : State :=
  match (chainOf s k).bound with
  | none => s
  | some b =>
    if b.tailDue || b.poisoned then readTail s k
    else if b.pollt = 0 || (s.tb - b.polled).toNat < b.pollt then s
    else readTail (modBound s k fun b => { b with polled := s.tb }) k

/-- `mxq.set` (R219). -/
def issueMxqSet (s : State) (x : Ctx) (c : Cmd128) : Issued :=
  let k : ChainId := { kind := .mxq, die := x.die, num := fld c 111 108 }
  let mask : BitVec 16 := BitVec.ofNat 16 (fld c 107 92)
  let form := fld c 90 80 ≠ 0 || fld c 39 0 ≠ 0
  if (cmdSpec c).getLsbD 0 then issueTailOf s x c .mxe k false
  else if fld c 91 91 = 1 then issueUnbind s x c .mxe k form
  else issueBind s x c .mxe k mask (form || mask = 0) (x.va (fld c 79 40))

/-! ## WAIT (R195) -/

/-- What the WAIT word of an entry asks now. -/
inductive WaitRes where
  | met
  | notYet
  | refused (code : Nat)
deriving DecidableEq, Repr

/-- The number that a chain has published; none where it is not bound. -/
def published (s : State) (k : ChainId) : Option Nat := (chainOf s k).bound.map fun b => b.pub

/-- Examine a WAIT word for a context. -/
def waitRes (s : State) (asid : BitVec 12) (w : Word) : WaitRes :=
  if !w.getLsbD 63 then .met
  else if w.extractLsb' 40 13 ≠ 0 then .refused stForm
  else
    let kind : ChainKind := match (w.extractLsb' 61 2).toNat with | 0 => .gre | 1 => .qe | 2 => .nmc | _ => .mxq
    let k : ChainId := { kind := kind, die := (w.extractLsb' 59 2).toNat, num := (w.extractLsb' 53 6).toNat }
    match (chainOf s k).holder with
    | some a =>
      if a ≠ asid then .refused stOwner
      else
        match published s k with
        | some p => if (w.extractLsb' 0 40).toNat ≤ p then .met else .notYet
        | none => .notYet
    | none => .notYet

/-! ## Publishing (R194, R195) -/

/-- The address of the status word of an entry. -/
def Bound.statVa (b : Bound) (mx : Bool) (n : Nat) : Nat :=
  (if mx then b.stata + 8 * b.slot n else b.entryVa false n + 0x18) % 2 ^ 57

/-- A status word (Table 8.5). -/
def statusWord (n st : Nat) (conv : Flags) (warn : BitVec 7) (cor : Bool) : Word :=
  BitVec.ofNat 64 (n % 2 ^ 40 + st % 16 * 2 ^ 40 + convBits conv * 2 ^ 44 + warn.toNat * 2 ^ 49 + cor.toNat * 2 ^ 56)

/-- The published number after one more entry has finished: the largest n for which entries 1 to n have all finished. -/
def advancePub : Nat → Nat → List Nat → Nat × List Nat
  | 0, p, fs => (p, fs)
  | f + 1, p, fs => if fs.contains (p + 1) then advancePub f (p + 1) (fs.filter fun n => n ≠ p + 1) else (p, fs)

/-- Was a checksum correction applied? -/
def EngOp.corrected (o : EngOp) : Bool := match o.body with | .task t => t.cor | _ => false

/-- Is it a task whose results go to its queue's stream (R223)? -/
def EngOp.streams (o : EngOp) : Bool := match o.body with | .task t => t.out.isNone | _ => false

/-- CHAIN_ENTRY_FINISH: write the status word of an entry that has ended, advance the sequence word, and act on NTF (R192, R195). -/
def entryFinish (s : State) (n : Nat) : State :=
  match kget s.ops n with
  | none => s
  | some o =>
    match o.iss, (if o.fault.isSome && !jobKilled s o.job then none else o.fin) with
    | .chain k e, some st =>
      match (chainOf s k).bound with
      | none => { s with ops := kdel s.ops n }
      | some b =>
        let mx := match k.kind with | .mxq => true | _ => false
        match storeObj s b.job b.asid (b.statVa mx e) (wordBytes (statusWord e st o.conv o.warn o.corrected)) with
        | .waits _ => s
        | .bad c va => faultOp s n c va k.num
        | .ok s1 =>
          let r := advancePub (b.finished.length + 1) b.pub (e :: b.finished)
          match (if r.1 = b.pub then .ok s1 else storeObj s1 b.job b.asid b.seqa (leBytes 8 r.1)) with
          | .waits _ => s1
          | .bad c va => faultOp s1 n c va k.num
          | .ok s2 =>
            match (if o.ntf && b.ntfa ≠ 0 then storeObj s2 b.job b.asid b.ntfa (leBytes 8 e) else .ok s2) with
            | .waits _ => s2
            | .bad c va => faultOp s2 n c va k.num
            | .ok s3 =>
              let s4 := match o.ntf, b.vec, kget s3.jobs b.job with
                | true, some v, some j => raiseMsix s3 j.fn v
                | _, _, _ => s3
              let mine := if o.streams then [e] else []
              let s5 := modBound { s4 with ops := kdel s4.ops n } k fun b => { b with pub := r.1, finished := r.2, streamed := (mine ++ b.streamed).filter fun t => r.1 < t }
              settleUnbind s5 k
    | _, _ => s

end Sys2Proof.Machine
end

