-- ==== Sys2Proof/Machine/Mxe.lean ====
section
/-! DEFINITION. The matrix engines (R220–R225), with lazy ownership, spill and restore (R324–R326). -/

namespace Sys2Proof.Machine

/-- An MXE. -/
def mxeOf (s : State) (die m : Nat) : Mxe := dget Mxe.initial s.mxes (mxeKey die m)
/-- Put an MXE back. -/
def putMxe (s : State) (die m : Nat) (x : Mxe) : State := { s with mxes := dset Mxe.initial s.mxes (mxeKey die m) x }
/-- The MXEs that a mask names. -/
def mxesOf (mask : Nat) : List Nat := (List.range 16).filter fun i => mask / 2 ^ i % 2 = 1

/-! ## Weight tiles (R220, R221) -/

/-- The formats of a stationary plane. -/
def mxFmtOk (f : Nat) : Bool := f = 3 || f = 5 || f = 6 || f = 7 || f = 8

/-- `ldstat`: the load waits behind earlier loads of each MXE. -/
def issueLdstat (s : State) (x : Ctx) (c : Cmd128) : Issued :=
  let wf := fld c 55 52
  checked s (lowest [(fld c 11 0 ≠ 0 || (wf = 7 && (fld c 43 36 + 1) % 4 ≠ 0), stForm), (!mxFmtOk wf, stType)])
    (let ms := mxesOf (fld c 111 96)
     let b : LdstatOp := { waddr := x.va (fld c 95 56), wfmt := BitVec.ofNat 4 wf, k := fld c 51 44 + 1, n := fld c 43 36 + 1,
                           wstr := fld c 35 12, scl := (cmdSpec c).getLsbD 0, left := ms }
     let a := addOp s (x.op .mxe c (.ldstat b) {})
     let s1 := ms.foldl (fun s m => let e := mxeOf s x.die m; putMxe s x.die m { e with loads := e.loads ++ [a.2] }) a.1
     .st (if ms.isEmpty then finishOp s1 a.2 0 else s1) 0)

/-- The bytes of a row of `n` elements (R52). -/
def rowBytes (f : BitVec 4) (n : Nat) : Nat := if f = 7 then 3 * ((n + 3) / 4) else n * elemSize f

/-- The codes that a row of `n` elements holds (R52). -/
def rowCodes (f : BitVec 4) (n : Nat) (bs : List Byte) : List Nat :=
  (List.range n).map fun i =>
    if f = 7 then lg6Get ((bs.drop (3 * (i / 4))).take 3) (i % 4) else leNat ((bs.drop (i * elemSize f)).take (elemSize f))

/-- Read rows of a weight tile. -/
def readRows (s : State) (o : EngOp) (f : BitVec 4) (n stride : Nat) : Nat → Nat → Got (List Nat)
  | 0, _ => .ok []
  | k + 1, va =>
    (loadVa s o.asid o.die (va % 2 ^ 57) (rowBytes f n) none).bind fun bs =>
      (readRows s o f n stride k (va + stride)).map fun r => rowCodes f n bs ++ r

/-- Read the tile of an `ldstat` (R220). -/
def readTile (s : State) (o : EngOp) (l : LdstatOp) : Got MxPlane :=
  (if l.scl then (loadVa s o.asid o.die l.waddr l.n none).map fun bs => bs.map fun b => b.toNat
   else .ok (List.replicate l.n 127)).bind fun sc =>
    (readRows s o l.wfmt l.n l.wstr l.k (l.waddr + if l.scl then (l.n + 63) / 64 * 64 else 0)).map fun es =>
      { fmt := l.wfmt, k := l.k, n := l.n, elems := es, scales := sc }

/-- LDSTAT_COMPLETE: the oldest load of an MXE fills its shadow plane (R220). -/
def ldstatDone (s : State) (die m : Nat) : State :=
  let e := mxeOf s die m
  match e.loads with
  | [] => s
  | n :: rest =>
    match kget s.ops n with
    | none => putMxe s die m { e with loads := rest }
    | some o =>
      match o.body with
      | .ldstat l =>
        if !mayStart s n o || o.fault.isSome then s
        else
          match readTile s o l with
          | .waits on => opWaits s n on
          | .bad c va => faultOp s n c va m
          | .ok p =>
            let l1 := { l with left := l.left.filter fun i => i ≠ m }
            let s1 := modOp (opReads (putMxe s die m { e with loads := rest, shadow := p }) n) n fun o => { o with body := .ldstat l1 }
            if l1.left.isEmpty then finishOp s1 n 0 else s1
      | _ => s

/-- `mxswap`: MASK must be a subset of the queue's set. -/
def issueMxswap (s : State) (x : Ctx) (c : Cmd128) : Issued :=
  let mask : BitVec 16 := BitVec.ofNat 16 (fld c 111 96)
  let q := fld c 95 92
  let b := (chainOf s { kind := .mxq, die := x.die, num := q }).bound
  let set := (b.map fun b => b.mask).getD 0
  checked s (lowest [(fld c 51 0 ≠ 0, stForm), (mask &&& ~~~set ≠ 0, stForm), (b.isNone, stState),
                     ((b.map fun b => decide (b.asid ≠ x.asid)).getD false, stOwner)])
    (let ms := mxesOf mask.toNat
     let a := addOp s (x.op .mxe c (.swap { queue := q, bseq := fld c 91 52, left := ms, met := false }) {})
     let s1 := ms.foldl (fun s m => let e := mxeOf s x.die m; putMxe s x.die m { e with swaps := e.swaps ++ [a.2] }) a.1
     .st (if ms.isEmpty then finishOp s1 a.2 0 else s1) 0)

/-- MXSWAP_EXCHANGE: an MXE whose last `ldstat` before the swap and whose barrier tasks are done exchanges its planes (R221). -/
def swapExchange (s : State) (die m : Nat) : State :=
  let e := mxeOf s die m
  match e.swaps with
  | [] => s
  | n :: rest =>
    match kget s.ops n with
    | none => putMxe s die m { e with swaps := rest }
    | some o =>
      match o.body with
      | .swap x =>
        let done := x.met || match published s { kind := .mxq, die := die, num := x.queue } with | some p => decide (x.bseq ≤ p) | none => x.bseq = 0
        if !mayStart s n o || e.task.isSome || e.loads.any (fun l => l < n) || !done then s
        else
          let x1 := { x with left := x.left.filter fun i => i ≠ m }
          let s1 := modOp (putMxe s die m { e with swaps := rest, stat := e.shadow, shadow := e.stat }) n fun o => { o with body := .swap x1 }
          if x1.left.isEmpty then finishOp s1 n 0 else s1
      | _ => s

/-! ## Tasks: records and checks (R222) -/

/-- An address word that is all ones. -/
def allOnes40 : Nat := 2 ^ 40 - 1

/-- The task of an `mxtask`, its extension not yet read. -/
def taskOf (x : Ctx) (c : Cmd128) (num prev : Nat) : TaskOp :=
  let cvm := fld c 43 42
  { queue := fld c 111 108, num := num, prev := prev, exact := fld c 67 66 = 1, afmt := BitVec.ofNat 4 (fld c 65 62), cont := fld c 61 61 = 1,
    rel := fld c 60 60 = 1, csum := fld c 59 59 = 1, wexp := sfld c 58 48, ofmt := BitVec.ofNat 4 (fld c 47 44),
    cvm := if cvm = 3 then 0 else BitVec.ofNat 2 cvm, act := none, astr := 0, m := 0, k := 0, n := 0, ablk := 1, out := none, ostr := 0,
    ascl := none, deps := [], rec_ := some (x.va (fld c 107 68)), bases := x.bases, mxe := none, rows := [], cur := [],
    results := none, cor := false, start := none }

/-- The checks of an `mxtask`'s own bits. -/
def taskChecks (c : Cmd128) : List (Bool × Nat) :=
  let mode := fld c 67 66
  let of_ := fld c 47 44
  let ofOk := of_ = 0 || of_ = 2 || of_ = 3 || of_ = 4 || of_ = 10 || (of_ = 14 && mode = 1)
  [(2 ≤ mode || fld c 41 0 ≠ 0, stForm), (!mxFmtOk (fld c 65 62) || !ofOk, stType), (mode = 1 && !fxWLegal (sfld c 58 48), stRange)]

/-- The fallbacks of an `mxtask`: CVM 3, and CSUM where it is not admitted (R225). -/
def taskWarn (c : Cmd128) : WarnBits :=
  { cvm := fld c 43 42 = 3, modb := fld c 59 59 = 1 && fld c 67 66 = 0 && fld c 65 62 ≠ 8 }

/-- A dependence word (Table 8.15). -/
def depOf (w : Nat) : List MxDep := if 2 ^ 63 ≤ w then [{ queue := w / 2 ^ 59 % 16, num := w % 2 ^ 40 }] else []

/-- Read the extension of a task from its 48 bytes: whether a reserved field is not zero, and the task. -/
def withExt (t : TaskOp) (bs : List Byte) : Bool × TaskOp :=
  let w (i : Nat) : Nat := fieldAt bs (8 * i) 8
  let va (a : Nat) : Nat := ((t.bases.getD (a / 2 ^ 36 % 16) 0).toNat + a % 2 ^ 36) % 2 ^ 57
  let dirty := w 0 / 2 ^ 40 ≠ 0 || w 1 / 2 ^ 56 ≠ 0 || w 2 / 2 ^ 40 ≠ 0 || w 4 / 2 ^ 40 % 2 ^ 19 ≠ 0 || w 5 / 2 ^ 40 % 2 ^ 19 ≠ 0
  (dirty,
   { t with act := if w 0 % 2 ^ 40 = allOnes40 then none else some (va (w 0 % 2 ^ 40)), astr := w 1 % 2 ^ 24, m := w 1 / 2 ^ 24 % 256 + 1,
            k := w 1 / 2 ^ 32 % 256 + 1, n := w 1 / 2 ^ 40 % 256 + 1, ablk := w 1 / 2 ^ 48 % 256 + 1,
            out := if w 2 % 2 ^ 40 = allOnes40 then none else some (va (w 2 % 2 ^ 40)), ostr := w 3 % 2 ^ 24,
            ascl := if w 3 / 2 ^ 24 = 0 then none else some (va (w 3 / 2 ^ 24)), deps := depOf (w 4) ++ depOf (w 5), rec_ := none })

/-- `mxtask` issued by `cmd`: a task outside the queue's numbering. Its queue's previous task is the last that the queue was given (log entry 147). -/
def issueMxtask (s : State) (x : Ctx) (c : Cmd128) : Issued :=
  let k : ChainId := { kind := .mxq, die := x.die, num := fld c 111 108 }
  let b := (chainOf s k).bound
  checked s (lowest (taskChecks c ++ [((decide (x.va (fld c 107 68) % 64 ≠ 0) : Bool), stForm), (b.isNone, stState), ((b.map fun b => decide (b.asid ≠ x.asid)).getD false, stOwner)]))
    (let a := addOp s (x.op .mxe c (.task (taskOf x c 0 ((b.map fun b => b.lastTask).getD 0))) (taskWarn c))
     .st (cmdWarn (modBound a.1 k fun b => { b with lastTask := a.2 }) x (taskWarn c) c) 0)

/-- A task record of a queue, its extension read with it (R222): REC must be zero and Q the ring's own queue. -/
def issueRecord (s : State) (x : Ctx) (c : Cmd128) (q e prev : Nat) (ext : List Byte) : Issued :=
  let t := withExt (taskOf x c e prev) ext
  checked s (lowest (taskChecks c ++ [((decide (fld c 107 68 ≠ 0) || decide (fld c 111 108 ≠ q) || t.1 : Bool), stForm)]))
    (.st (addOp s (x.op .mxe c (.task t.2) (taskWarn c))).1 0)

/-! ## Accumulators (R324–R326) -/

/-- Is an accumulator one of a queue of a context? -/
def MxAcc.owned (a : MxAcc) (asid : BitVec 12) (q : Nat) : Bool := a.asid = asid && a.queue = q

/-- Is an accumulator the one that a task continues under CONT: that of its queue's previous task (R222; log entry 147)? -/
def TaskOp.continues (t : TaskOp) (asid : BitVec 12) (a : MxAcc) : Bool := t.cont && t.prev ≠ 0 && a.owned asid t.queue && a.lastOp = t.prev

/-- The MXE of a die where the accumulator that a task continues lies. -/
def accAt (s : State) (die : Nat) (asid : BitVec 12) (t : TaskOp) : Option Nat :=
  (List.range 16).find? fun m => match (mxeOf s die m).acc with | some a => t.continues asid a | none => false

/-- What lies in the spill slot of a queue. -/
def spilledOf (s : State) (die : Nat) (asid : BitVec 12) (q : Nat) : Option SpilledAcc :=
  s.spilled.find? fun a => a.die = die && a.asid = asid && a.queue = q

/-- The spilled accumulator that a task continues. -/
def spilledFor (s : State) (die : Nat) (asid : BitVec 12) (t : TaskOp) : Option SpilledAcc :=
  (spilledOf s die asid t.queue).filter fun a => t.cont && t.prev ≠ 0 && a.lastOp = t.prev

/-- Empty the spill slot of a queue. -/
def dropSpilled (s : State) (die : Nat) (asid : BitVec 12) (q : Nat) : State :=
  { s with spilled := s.spilled.filter fun a => !(a.die = die && a.asid = asid && a.queue = q) }

/-- Can a task still continue the accumulator of a queue that task `last` left: one that has been issued, other than task `n`, or one to come (R222; log
entry 147)? -/
def continuable (s : State) (die : Nat) (asid : BitVec 12) (q last n : Nat) : Bool :=
  (match (chainOf s { kind := .mxq, die := die, num := q }).bound with
    | some b => b.asid = asid && (b.lastRing = last || b.lastTask = last)
    | none => false) ||
    s.ops.any fun p => p.1 ≠ n && p.2.die = die && p.2.asid = asid && p.2.fin.isNone && match p.2.body with
      | .task t => t.cont && t.queue = q && t.prev = last && t.mxe.isNone
      | _ => false

/-- The address of a spill slot of a job (R326). -/
def slotVa (savea die q : Nat) : Nat := savea + 0x100000 + 0x110000 * (16 * die + q)

/-- The code of a mode. -/
def MxMode.code : MxMode → Nat
  | .fw40 => 0
  | .fx128 => 1
  | .int40 => 2

/-- Write rows of 16-byte values. -/
def putValues (s : State) (asid : BitVec 12) : Nat → List (BitVec 128) → Got State
  | _, [] => .ok s
  | va, v :: vs => (storeExempt s asid (va % 2 ^ 57) (leBytes 16 v.toNat)).bind fun s1 => putValues s1 asid (va + 16) vs

/-- Write the cells of an accumulator row by row. -/
def putRows (s : State) (asid : BitVec 12) (va n : Nat) (cells : List (BitVec 128)) : Nat → Got State
  | 0 => .ok s
  | r + 1 => (putRows s asid va n cells r).bind fun s1 => putValues s1 asid (va + 4096 * r) ((cells.drop (n * r)).take n)

/-- Has an accumulator room in its slot: the slot is free, or holds what no task other than `n` continues any more (R326; log entry 147)? -/
def slotFree (s : State) (die n : Nat) (a : MxAcc) : Bool :=
  match spilledOf s die a.asid a.queue with
  | some x => !continuable s die x.asid x.queue x.lastOp n
  | none => true

/-- Spill the accumulator of an MXE to its owner's slot, for task `n` (R324, R326). A store that faults kills the owner with `save.fault`, and so does a slot
that has no room left (R318). -/
def spillAcc (s : State) (die m n : Nat) (a : MxAcc) : State :=
  let e := mxeOf s die m
  let s0 := putMxe s die m { e with acc := none }
  match kget s.jobs a.job with
  | none => s0
  | some j =>
    let va := slotVa j.savea die a.queue
    if !slotFree s die n a then saveFault s0 a.job (firstQueue s0 a.job) 0 va
    else
    let owner := a.asid.toNat + die * 2 ^ 12 + a.queue * 2 ^ 14 + 2 ^ 18
    let r := (storeExempt s0 a.asid (va % 2 ^ 57) (leBytes 8 owner ++ leBytes 8 a.mode.code ++ leBytes 8 a.last)).bind fun s1 =>
      (putRows s1 a.asid (va + 0x1000) a.n a.cells a.m).bind fun s2 =>
        (putValues s2 a.asid (va + 0x101000) a.rowChk).bind fun s3 => putValues s3 a.asid (va + 0x102000) a.colChk
    match r with
    | .bad _ x => saveFault s0 a.job (firstQueue s0 a.job) 0 x
    | .ok s4 => { s4 with spilled := { asid := a.asid, job := a.job, die := die, queue := a.queue, lastOp := a.lastOp, m := a.m, n := a.n } ::
        (s4.spilled.filter fun x => !(x.die = die && x.asid = a.asid && x.queue = a.queue)) }
    | .waits _ => s0

/-- Read 16-byte values. -/
def getValues (s : State) (asid : BitVec 12) (die : Nat) : Nat → Nat → Got (List (BitVec 128))
  | 0, _ => .ok []
  | k + 1, va =>
    (loadVa s asid die (va % 2 ^ 57) 16 none).bind fun bs => (getValues s asid die k (va + 16)).map fun r => BitVec.ofNat 128 (leNat bs) :: r

/-- Read the cells of an accumulator row by row. -/
def getRows (s : State) (asid : BitVec 12) (die va n : Nat) : Nat → Got (List (BitVec 128))
  | 0 => .ok []
  | r + 1 => (getRows s asid die va n r).bind fun xs => (getValues s asid die n (va + 4096 * r)).map fun ys => xs ++ ys

/-- Read an accumulator back from its slot (R324). -/
def unspillAcc (s : State) (sp : SpilledAcc) (wexp : Int) : Got MxAcc :=
  match kget s.jobs sp.job with
  | none => .waits []
  | some j =>
    let va := slotVa j.savea sp.die sp.queue
    (loadWord s sp.asid sp.die ((va + 8) % 2 ^ 57)).bind fun md =>
      (loadWord s sp.asid sp.die ((va + 16) % 2 ^ 57)).bind fun last =>
        (getRows s sp.asid sp.die (va + 0x1000) sp.n sp.m).bind fun cells =>
          (getValues s sp.asid sp.die sp.m (va + 0x101000)).bind fun hs =>
            (getValues s sp.asid sp.die sp.n (va + 0x102000)).map fun vs =>
              { asid := sp.asid, job := sp.job, queue := sp.queue, mode := if md = 0 then .fw40 else if md = 1 then .fx128 else .int40,
                wexp := wexp, last := last.toNat, lastOp := sp.lastOp, m := sp.m, n := sp.n, cells := cells, rowChk := hs, colChk := vs }

/-! ## Starting a task (R223) -/

/-- The queue of a task. -/
def TaskOp.chain (t : TaskOp) (die : Nat) : ChainId := { kind := .mxq, die := die, num := t.queue }

/-- The mode in which a task keeps its accumulator. -/
def TaskOp.mode (t : TaskOp) : MxMode := if t.exact then .fx128 else if t.afmt = 8 then .int40 else .fw40

/-- The window exponent that a task adds under: 104 for s8 (R65). -/
def TaskOp.w (t : TaskOp) : Int := if t.afmt = 8 then 104 else t.wexp

/-- Have the tasks that a task waits for been published, and under CONT the queue's previous task ended (R223)? -/
def depsMet (s : State) (o : EngOp) (t : TaskOp) : Bool :=
  (t.deps.all fun d => match published s { kind := .mxq, die := o.die, num := d.queue } with | some p => d.num ≤ p | none => false) &&
    (!t.cont || ((kget s.ops t.prev).map fun p => p.fin.isSome).getD true)

/-- A task with its extension, where that has been read or can be read now (R222). -/
def TaskOp.readNow (s : State) (o : EngOp) (t : TaskOp) : Option TaskOp :=
  match t.rec_ with
  | none => some t
  | some va => match loadVa s o.asid o.die ((va + 16) % 2 ^ 57) 48 none with
    | .ok bs => some (withExt t bs).2
    | _ => none

/-- Is the task that continues an accumulator ready (R325)? -/
def ownerReady (s : State) (die : Nat) (a : MxAcc) : Bool :=
  s.ops.any fun p => p.2.die = die && p.2.fault.isNone && mayStart s p.1 p.2 && match p.2.body with
    | .task t => t.continues p.2.asid a && t.mxe.isNone && match t.readNow s p.2 with
      | some u => depsMet s p.2 u
      | none => false
    | _ => false

/-- Does a swap of the queue that the task may not pass wait on an MXE (R221)? -/
def swapBlocks (s : State) (e : Mxe) (t : TaskOp) : Bool :=
  t.num ≠ 0 && e.swaps.any fun n => match kget s.ops n with
    | some o => match o.body with | .swap x => x.queue = t.queue && x.bseq < t.num | _ => false
    | none => false

/-- The status with which a task meets a stationary plane (R222). -/
def planeFit (t : TaskOp) (p : MxPlane) : Nat :=
  let a := t.afmt.toNat
  let b := p.fmt.toNat
  let fp8 (x : Nat) : Bool := x = 5 || x = 6
  if p.k = 0 then stRange
  else lowest [(!((fp8 a && fp8 b) || (a = b && (a = 8 || a = 3 || a = 7))), stType), (p.k < t.k || p.n < t.n, stRange)]

/-- Put a task's progress back. -/
def setTask (s : State) (n : Nat) (t : TaskOp) : State := modOp s n fun o => { o with body := .task t }

/-- Give an MXE to a task, its accumulator in place. -/
def giveMxe (s : State) (n m : Nat) (o : EngOp) (t : TaskOp) (a : Option MxAcc) : State :=
  let e := mxeOf s o.die m
  setTask (putMxe s o.die m { e with acc := a, task := some n }) n { t with mxe := some m, start := a }

/-- The accumulator that an MXE must give up for a task: one of another owner, or one of the same queue that another task can still continue (R324; log
entry 147). -/
def inTheWay (s : State) (n : Nat) (o : EngOp) (t : TaskOp) (e : Mxe) : Option MxAcc :=
  e.acc.filter fun a => !t.continues o.asid a && (!a.owned o.asid t.queue || continuable s o.die a.asid a.queue a.lastOp n)

/-- The accumulator that a task starts with on an MXE: none without CONT, that of the MXE, or one read back from its slot (R223, R324). -/
def startAcc (s : State) (o : EngOp) (t : TaskOp) (e : Mxe) : Got (Option MxAcc) :=
  match e.acc.filter (t.continues o.asid), spilledFor s o.die o.asid t with
  | some a, _ => .ok (some a)
  | none, some sp => (unspillAcc s sp t.wexp).map some
  | none, none => .ok none

/-- Start a task on an MXE that is free for it, with its accumulator, what stands in its way being spilled (R223, R324). A CONT task
of another MODE than its accumulator ends with STATE (DESIGN CHOICE, log entry 167). -/
def startWith (s : State) (n m : Nat) (o : EngOp) (t : TaskOp) (own : Option MxAcc) : State :=
  let e := mxeOf s o.die m
  if (own.map fun a => decide (a.mode ≠ t.mode)).getD false then finishOp s n stState
  else
    let s1 := if (spilledFor s o.die o.asid t).isSome then dropSpilled s o.die o.asid t.queue else s
    match inTheWay s n o t e with
    | some a => giveMxe (spillAcc s1 o.die m n a) n m o t own
    | none => giveMxe s1 n m o t own

/-- Start a task whose extension has been read. -/
def startRead (s : State) (n m : Nat) (o : EngOp) (t : TaskOp) : State :=
  let e := mxeOf s o.die m
  let inSet := match (chainOf s (t.chain o.die)).bound with | some b => b.mask.getLsbD m | none => false
  let fit := planeFit t e.stat
  let home := accAt s o.die o.asid t
  let way := inTheWay s n o t e
  if !depsMet s o t || !inSet || e.task.isSome || swapBlocks s e t then s
  else if home.isSome && home ≠ some m then s
  else if t.cont && home.isNone && (spilledFor s o.die o.asid t).isNone then finishOp s n (if fit ≠ 0 then fit else stState)
  else if (way.map (ownerReady s o.die)).getD false then s
  else if fit ≠ 0 then finishOp s n fit
  else
    match startAcc s o t e with
    | .ok own => startWith s n m o t own
    | .bad c va => faultOp s n c va t.queue
    | .waits on => opWaits s n on

/-- MXE_TASK_START: a task starts on an MXE of its queue's set (R223). -/
def taskStart (s : State) (n m : Nat) : State :=
  match kget s.ops n with
  | none => s
  | some o =>
    match o.body with
    | .task t =>
      if t.mxe.isSome || o.fault.isSome || !mayStart s n o then s
      else
        match t.rec_ with
        | none => startRead s n m o t
        | some va =>
          match loadVa s o.asid o.die ((va + 16) % 2 ^ 57) 48 none with
          | .waits on => opWaits s n on
          | .bad c a => faultOp s n c a t.queue
          | .ok bs =>
            let r := withExt t bs
            if r.1 then finishOp s n stForm else startRead (setTask (opReads s n) n r.2) n m o r.2
    | _ => s

/-! ## Running and ending a task (R223–R225) -/

/-- The code of a w40 lane word in an activation format: a NaN gives that of the canonical one (R60), and a lane word that is no value of the format
has a free one. -/
def operandCode (f : BitVec 4) (x : Lane) : Nat :=
  match fmtOfType f with
  | none => 0
  | some g =>
    let r := storeConv g .w40 0 x
    if (!g.isInt && (fwUnpack x).isNan) || (loadConv g .w40 r.1).1 = x then r.1 else (Config.mxeOperand f x).toNat % 2 ^ g.bits

/-- One product with its scales (R57, R60, R65): exact, with invalid for a not-a-real, a NaN or a SCALE of 0xFF. -/
def product (fa fw : BitVec 4) (a w sa sw : Nat) : Lane × Flags :=
  if fa = 8 then fwOfInt ((BitVec.ofNat 8 a).toInt * (BitVec.ofNat 8 w).toInt)
  else if sa = 0xFF || sw = 0xFF then nanResult true
  else
    let k : Int := (sa : Int) + sw - 254
    if fa = 7 then
      let p := lg6Mul (BitVec.ofNat 6 a) (BitVec.ofNat 6 w)
      ((fwScale p.1 k).1, { Flags.none with nv := p.2.nv })
    else
      let v (f : BitVec 4) (c : Nat) : FwVal := fwUnpack (fltToFw ((fmtOfType f).getD .f32) c)
      let r := mulExact (v fa a) (v fw w)
      match r.1 with
      | .num sg mm e => ((fwRound sg mm (e + k)).1, { Flags.none with nv := r.2 })
      | x => ((fwRoundVal x r.2).1, { Flags.none with nv := r.2 })

/-- Add one product into a cell (R62, R65, R66). -/
def accumulate (md : MxMode) (w : Int) (cell : BitVec 128) (p : Lane) : BitVec 128 :=
  match md with
  | .fx128 => fxAdd w cell p
  | .fw40 => (fwAdd (cell.setWidth 40) p).1.setWidth 128
  | .int40 => cell

/-- One output cell over all reduction indices, in ascending k. -/
def dotCell (t : TaskOp) (p : MxPlane) (col : Nat) : Nat → List (Nat × Nat) → BitVec 128 × Flags → BitVec 128 × Flags
  | _, [], r => r
  | k, (a, sa) :: rest, r =>
    let wv := p.elems.getD (k * p.n + col) 0
    let sw := p.scales.getD col 127
    match t.mode with
    | .int40 =>
      let v : Int := (BitVec.ofNat 8 a).toInt * (BitVec.ofNat 8 wv).toInt
      dotCell t p col (k + 1) rest (((r.1.setWidth 40 + BitVec.ofInt 40 v).setWidth 128), r.2)
    | md =>
      let q := product t.afmt p.fmt a wv sa sw
      dotCell t p col (k + 1) rest (accumulate md t.w r.1 q.1, r.2.or { Flags.none with nv := q.2.nv })

/-- A cell of an accumulator; cells that no task has touched are zero. -/
def MxAcc.cell (a : MxAcc) (i j : Nat) : BitVec 128 := if i < a.m && j < a.n then a.cells.getD (i * a.n + j) 0 else 0

/-- The modulus of the checks (R225). -/
def chkWrap (md : MxMode) (v : BitVec 128) : BitVec 128 := match md with | .fx128 => v | _ => (v.setWidth 40).setWidth 128

/-- The accumulator after a task's products, with the flags of the products (R65, R66, R225). What enters the checks is what the cell gained, nothing for a
poisoned cell (DESIGN CHOICE, log entry 168). -/
def runTask (o : EngOp) (t : TaskOp) (p : MxPlane) (rows : List (List (Nat × Nat))) : MxAcc × Flags :=
  let old : MxAcc := t.start.getD { asid := o.asid, job := o.job, queue := t.queue, mode := t.mode, wexp := t.wexp, last := t.num, lastOp := 0, m := 0, n := 0,
                                    cells := [], rowChk := [], colChk := [] }
  let mm := max old.m t.m
  let nn := max old.n t.n
  let grid := (List.range mm).map fun i => (List.range nn).map fun j =>
    if i < t.m && j < t.n then dotCell t p j 0 ((rows.getD i []).take t.k) (old.cell i j, Flags.none) else (old.cell i j, Flags.none)
  let delta (i j : Nat) : BitVec 128 := chkWrap t.mode (((grid.getD i []).getD j (0, Flags.none)).1 - old.cell i j)
  let sum (f : Nat → BitVec 128) (n : Nat) : BitVec 128 := (List.range n).foldl (fun a i => chkWrap t.mode (a + f i)) 0
  ({ old with last := t.num, wexp := t.wexp, m := mm, n := nn, cells := grid.flatMap fun r => r.map fun c => c.1,
              rowChk := (List.range mm).map fun i => chkWrap t.mode (old.rowChk.getD i 0 + sum (delta i) nn),
              colChk := (List.range nn).map fun j => chkWrap t.mode (old.colChk.getD j 0 + sum (fun i => delta i j) mm) },
   grid.foldl (fun a r => r.foldl (fun a c => a.or c.2) a) Flags.none)

/-- The checksum verdict (R225): none where the task ends with CSUM, else the cells and whether one was corrected. -/
def csumVerdict (a : MxAcc) : Option (MxAcc × Bool) :=
  let sum (f : Nat → BitVec 128) (n : Nat) : BitVec 128 := (List.range n).foldl (fun x i => chkWrap a.mode (x + f i)) 0
  let dh := (List.range a.m).map fun i => chkWrap a.mode (a.rowChk.getD i 0 - sum (a.cell i) a.n)
  let dv := (List.range a.n).map fun j => chkWrap a.mode (a.colChk.getD j 0 - sum (fun i => a.cell i j) a.m)
  let bh := (List.range a.m).filter fun i => dh.getD i 0 ≠ 0
  let bv := (List.range a.n).filter fun j => dv.getD j 0 ≠ 0
  match bh, bv with
  | [], [] => some (a, false)
  | [i], [j] =>
    if dh.getD i 0 = dv.getD j 0 then
      some ({ a with cells := setAt a.cells (i * a.n + j) (chkWrap a.mode (a.cell i j + dh.getD i 0)) }, true)
    else none
  | _, _ => none

/-- An output as a lane word (R63, R223), with its flags. -/
def outLane (t : TaskOp) (c : BitVec 128) : Lane × Flags :=
  match t.mode with
  | .fx128 => fxRead t.w c
  | _ => (c.setWidth 40, Flags.none)

/-- Store outputs (R223): (row, column) pairs in order. A w40 output of an INT8 task is stored as its 40-bit integer (DESIGN CHOICE, log entry 169). -/
def storeOuts (o : EngOp) (t : TaskOp) (a : MxAcc) (base : Nat) : List (Nat × Nat) → State × Flags → Got (State × Flags)
  | [], r => .ok r
  | (i, j) :: rest, r =>
    let va := (base + i * t.ostr + j * elemSize t.ofmt) % 2 ^ 57
    let c := a.cell i j
    (if t.ofmt = 14 then (storeVa r.1 o.asid (some o.job) va (leBytes 16 c.toNat)).map fun s1 => (s1, Flags.none)
     else
       let l := outLane t c
       (elemStore r.1 o.asid o.job o.die t.ofmt (t.mode = .int40) t.cvm va 0 l.1).map fun x => (x.1, x.2.or l.2)).bind fun x =>
      storeOuts o t a base rest (x.1, r.2.or x.2)

/-- An output as a w40 value of the result stream: the 40-bit integers of INT8 tasks are converted (R223; DESIGN CHOICE, log entry 169). -/
def outValue (t : TaskOp) (c : BitVec 128) : Lane × Flags :=
  match t.mode with
  | .int40 => fwOfInt (c.setWidth 40 : Lane).toInt
  | _ => outLane t c

/-- The result tokens of a task: w40 in ceil(N/16) tokens per row (R223). -/
def resultTokens (t : TaskOp) (a : MxAcc) : List Token :=
  (List.range t.m).flatMap fun i => (List.range ((t.n + 15) / 16)).map fun b =>
    Token.make (fun l => (outValue t (a.cell i (16 * b + l))).1) (BitVec.ofNat 16 (2 ^ min 16 (t.n - 16 * b) - 1)) .data

/-- The port of an image of a job on a die that is bound to a task queue's operand (3) or result (4) stream. -/
def findQueuePort (s : State) (job die kind q : Nat) : Option (Nat × Nat) :=
  s.images.findSome? fun x =>
    if x.2.job = job ∧ x.2.die = die then
      (x.2.ports.findIdx? fun p => p.kind = kind && p.eng = 0 && p.chan = q).map fun i => (x.1, i)
    else none

/-- The activation rows that lie in memory, as (code, scale) pairs (R223). -/
def memRows (s : State) (o : EngOp) (t : TaskOp) (act : Nat) : Nat → Nat → Got (List (List (Nat × Nat)))
  | 0, _ => .ok []
  | r + 1, i =>
    (loadVa s o.asid o.die ((act + i * t.astr) % 2 ^ 57) (rowBytes t.afmt t.k) none).bind fun bs =>
      let nb := (t.k + t.ablk - 1) / t.ablk
      let scales : Got (List Nat) := match t.ascl with
        | some a => (loadVa s o.asid o.die ((a + i * nb) % 2 ^ 57) nb none).map fun (ss : List Byte) => ss.map fun b => b.toNat
        | none => .ok (List.replicate nb 127)
      scales.bind fun ss =>
        (memRows s o t act r (i + 1)).map fun rest =>
          ((rowCodes t.afmt t.k bs).mapIdx fun k c => (c, ss.getD (k / t.ablk) 127)) :: rest

/-- The activation rows that came from the operand stream; their scales come from ASCL, and where the record names none from the burst headers (DESIGN CHOICE,
log entry 136). -/
def streamRows (s : State) (o : EngOp) (t : TaskOp) : Nat → List (List Lane × List Hdr) → Got (List (List (Nat × Nat)))
  | _, [] => .ok []
  | i, (ls, hs) :: rest =>
    let nb := (t.k + t.ablk - 1) / t.ablk
    let scales : Got (Option (List Nat)) := match t.ascl with
      | some a => (loadVa s o.asid o.die ((a + i * nb) % 2 ^ 57) nb none).map fun (ss : List Byte) => some (ss.map fun b => b.toNat)
      | none => .ok none
    scales.bind fun ss =>
      (streamRows s o t (i + 1) rest).map fun r =>
        (ls.mapIdx fun k x => (operandCode t.afmt x, match ss with
          | some l => l.getD (k / t.ablk) 127
          | none => (hs.getD (k / 16) Hdr.initial).scale.toNat)) :: r

/-- End a running task: its MXE is free, with the accumulator that stays live. -/
def leaveMxe (s : State) (n m st : Nat) (o : EngOp) (t : TaskOp) (a : Option MxAcc) : State :=
  finishOp (setTask (putMxe s o.die m { mxeOf s o.die m with task := none, acc := a.map fun x => { x with lastOp := n } }) n t) n st

/-- Take the next data token of a task's operand stream, under the header latched at its port (R60, R223). The word of an invalid lane is taken as
it stands (DESIGN CHOICE, log entry 135). -/
def takeOperand (t : TaskOp) (h : Hdr) (k : Token) : TaskOp :=
  let per := (t.k + 15) / 16
  let hs := match t.rows.getLast? with | some r => if t.cur.isEmpty then [] else r.2 | none => []
  let cur := t.cur ++ [k]
  let hds := hs ++ [h]
  let ls := (cur.flatMap fun k => k.lanes.toList).take t.k
  let done := (if t.cur.isEmpty then t.rows else t.rows.dropLast) ++ [(ls, hds)]
  { t with rows := done, cur := if cur.length = per then [] else cur }

/-- Has every row of a task come from its operand stream? -/
def TaskOp.fed (t : TaskOp) : Bool := t.rows.length = t.m && t.cur.isEmpty

/-- Take tokens of the operand stream while they are there: the state, the task, and whether poison came. -/
def feedTask : Nat → State → Nat → Nat → TaskOp → State × TaskOp × Bool
  | 0, s, _, _, t => (s, t, false)
  | f + 1, s, key, p, t =>
    if t.fed then (s, t, false)
    else
      match portHead s key p with
      | none => (s, t, false)
      | some k =>
        match k.cls with
        | .poison => (portPop s key p, t, true)
        | .header => feedTask f (portPop (portLatch s key p k) key p) key p t
        | _ => feedTask f (portPop s key p) key p (takeOperand t (portHdr s key p) k)

/-- The flags of the values that came from the operand stream: a signalling NaN sets invalid (R60). -/
def TaskOp.operandFlags (t : TaskOp) : Flags :=
  { Flags.none with nv := t.afmt ≠ 8 && t.rows.any fun r => r.1.any fun x => fwUnpack x = .nan true }

/-- Emit result tokens while the result stream takes them. -/
def drainTask (s : State) (key p : Nat) : List Token → State × List Token
  | [] => (s, [])
  | k :: ks => if portRoom s key p then drainTask (portEmit s key p k) key p ks else (s, k :: ks)

/-- Send results and end the task when all are taken. -/
def sendResults (s : State) (n m : Nat) (o : EngOp) (t : TaskOp) (ts : List Token) : State :=
  match findQueuePort s o.job o.die 4 t.queue with
  | none => setTask s n { t with results := some ts }
  | some (key, p) =>
    let r := if portsOpen s key then drainTask s key p ts else (s, ts)
    let t1 := { t with results := some r.2 }
    if r.2.isEmpty then leaveMxe r.1 n m 0 o t1 none else setTask r.1 n t1

/-- The output of a task whose products have been added (R223, R225). -/
def outputTask (s : State) (n m : Nat) (o : EngOp) (t : TaskOp) (r : MxAcc × Flags) : State :=
  let addConv (s : State) (f : Flags) : State := modOp s n fun o => { o with conv := o.conv.or f }
  if !t.rel then leaveMxe (addConv s r.2) n m 0 o t (some r.1)
  else
    let verdict := if t.csum && (t.exact || t.afmt = 8) then csumVerdict r.1 else some (r.1, false)
    match verdict with
    | none => leaveMxe (addConv s r.2) n m stCsum o t none
    | some (a, cor) =>
      let t1 := { t with cor := cor }
      match t.out with
      | some base =>
        let cells := (List.range t.m).flatMap fun i => (List.range t.n).map fun j => (i, j)
        match storeOuts o t a base cells (s, Flags.none) with
        | .waits _ => s
        | .bad c va => faultOp s n c va t.queue
        | .ok (s1, fl) => leaveMxe (addConv s1 (r.2.or fl)) n m 0 o t1 none
      | none =>
        let fl := (List.range t.m).foldl (fun f i => (List.range t.n).foldl (fun f j => f.or (outValue t (a.cell i j)).2) f) r.2
        sendResults (setTask (addConv s fl) n t1) n m o t1 (resultTokens t a)

/-- MXE_TASK_END: a running task takes the rows that its operand stream holds, and with all of them ends: it applies the
checksum check and stores its outputs, or sends them to the result stream as it takes them (R223–R225). -/
def taskEnd (s : State) (n : Nat) : State :=
  match kget s.ops n with
  | none => s
  | some o =>
    match o.body with
    | .task t =>
      match t.mxe with
      | none => s
      | some m =>
        if o.fin.isSome || o.fault.isSome then s
        else
          match t.results with
          | some ts => sendResults s n m o t ts
          | none =>
            let fed : State × TaskOp × Bool := match t.act, findQueuePort s o.job o.die 3 t.queue with
              | none, some (key, p) => if portsOpen s key then feedTask (2 * t.m * ((t.k + 15) / 16) + 512) s key p t else (s, t, false)
              | _, _ => (s, t, false)
            let s1 := setTask fed.1 n fed.2.1
            let t1 := fed.2.1
            if fed.2.2 then leaveMxe s1 n m stPoison o t1 none
            else if t.act.isNone && !t1.fed then s1
            else
              match (match t1.act with | some act => memRows s1 o t1 act t1.m 0 | none => streamRows s1 o t1 0 t1.rows) with
              | .waits on => opWaits s1 n on
              | .bad c va => faultOp s1 n c va t.queue
              | .ok rows => outputTask (modOp (opReads s1 n) n fun o => { o with conv := o.conv.or t1.operandFlags }) n m o t1 (runTask o t1 (mxeOf s1 o.die m).stat rows)
    | _ => s

/-- MXE_RESIDUE_FAIL: the task of an MXE reruns from its start, a CONT task from its saved start state (R359). -/
def residueFail (s : State) (die m : Nat) : State :=
  let e := mxeOf s die m
  match e.task.bind fun n => (kget s.ops n).map fun o => (n, o) with
  | none => s
  | some (n, o) =>
    match o.body with
    | .task t => if t.results.isSome then s else putMxe (modOp s n fun o => { o with conv := Flags.none }) die m { e with acc := t.start }
    | _ => s

end Sys2Proof.Machine
end

