-- ==== Sys2Proof/Machine/Journal.lean ====
section
/-! DEFINITION. Journal streams, `emit`, and the backstay (R186, R187, R229, R381–R388). -/

namespace Sys2Proof.Machine

/-- A link by its number (R372): 0–15 UCIe, 16–27 halyard ports. -/
def linkOf (s : State) (l : Nat) : Link := dget Link.initial s.links l

/-- A journal stream. -/
def journalOf (s : State) (die j : Nat) : JStream := dget JStream.initial s.journals (16 * die + j)
/-- Put a journal stream back. -/
def putJournal (s : State) (die j : Nat) (x : JStream) : State := { s with journals := dset JStream.initial s.journals (16 * die + j) x }

/-- Send a message over a halyard. -/
def halSend (s : State) (m : HalMsg) : State := { s with halOut := m :: s.halOut }

/-! ## Acknowledgements on their way to an `emit` (R186) -/

/-- The acknowledgement token: the entry's number in lane 0 and the status in lane 1, or poison with `jnl.lost`. -/
def JAck.token (a : JAck) : Token :=
  if a.poison then Token.poison cJnlLost
  else Token.make (fun i => if i = 0 then BitVec.ofNat 40 a.num else if i = 1 then BitVec.ofNat 40 a.status else 0) 3 .data

/-- Is the image at a site that of the unit which an acknowledgement is for? -/
def ackHere (s : State) (a : JAck) : Option (Image × Arc) :=
  (kget s.images a.site.tp.key).bind fun img => if img.unit = a.unit then (img.arcTo (inputOf a.site 2)).map fun arc => (img, arc) else none

/-- Does an acknowledgement still have an `emit` to go to: its unit has been neither cancelled nor ended (R187)? -/
def ackDue (s : State) (a : JAck) : Bool := ((kget s.units a.unit).map fun w => !w.cancelled).getD false

/-- Place one acknowledgement on the arc to its `emit`, or keep it: behind another that is kept, while the arc has no room, and while its unit is
saved (R187). -/
def placeAck (r : State × List JAck) (a : JAck) : State × List JAck :=
  let (s, kept) := r
  if !ackDue s a then r
  else
    match ackHere s a with
    | some (img, arc) =>
      if (kept.any fun k => k.site = a.site && k.unit = a.unit) || !arc.room then (s, kept ++ [a])
      else (putImage s a.site.tp.key { img with arcs := img.arcs.map fun c => if c.dst = inputOf a.site 2 then c.push a.token Tag.none else c }, kept)
    | none => (s, kept ++ [a])

/-- Place what acknowledgements of a stream can be placed, in order. -/
def settleAcks (s : State) (die j : Nat) : State :=
  let r := (journalOf s die j).acks.foldl placeAck (s, [])
  putJournal r.1 die j { journalOf r.1 die j with acks := r.2 }

/-- Acknowledge every entry that a stream has sent. -/
def ackAll (x : JStream) (status : Nat) (poison : Bool) : JStream :=
  { x with acks := x.acks ++ x.pend.mapIdx (fun i e => { site := e.site, unit := e.unit, num := x.ackn.toNat + i + 1, status := status, poison := poison })
           ackn := x.ackn + BitVec.ofNat 40 x.pend.length, pend := [] }

/-! ## Entries (R382) -/

/-- A field of a lane; an invalid lane contributes the value given. -/
def laneField (b : Token) (i n : Nat) (inv : Nat) : Nat := if b.valid i then (b.lane i).toNat % 2 ^ n else inv

/-- The four words of an entry (Table 17.6). -/
def entryWords (s : State) (die j n : Nat) (gseq : BitVec 32) (b : Token) : List Word :=
  [BitVec.ofNat 64 (n % 2 ^ 40 + j * 2 ^ 40 + die * 2 ^ 44 + s.blob.devid.toNat * 2 ^ 48),
   BitVec.ofNat 64 (gseq.toNat + laneField b 0 32 0 * 2 ^ 32),
   BitVec.ofNat 64 (laneField b 1 40 0 + laneField b 2 24 0 * 2 ^ 40),
   BitVec.ofNat 64 (laneField b 3 16 0xFFFF + laneField b 4 16 0xFFFF * 2 ^ 16 + laneField b 5 16 0xFFFF * 2 ^ 32 + laneField b 6 16 0xFFFF * 2 ^ 48)]

/-- An `emit` of a context passes an entry to a journal stream: it is sent, held while the stream is lost, acknowledged locally, or
acknowledged with poison (R186, R385). -/
def sendEntry (s : State) (u : UnitId) (asid : BitVec 12) (die j : Nat) (site : Site) (b : Token) : State :=
  let x := journalOf s die j
  let n := x.ackn.toNat + x.pend.length + 1
  let ws := entryWords s die j n x.gseq b
  let local_ (poison : Bool) (st : Nat) : State :=
    settleAcks (putJournal s die j { x with ackn := x.ackn + 1, acks := x.acks ++ [{ site := site, unit := u, num := n, status := st, poison := poison }] }) die j
  if x.state = 0 || x.asid ≠ asid then
    settleAcks (putJournal s die j { x with acks := x.acks ++ [{ site := site, unit := u, num := 0, status := 0, poison := true }] }) die j
  else if x.state = 3 then local_ false 1
  else if x.state = 2 && x.expired then local_ true 0
  else
    let s1 := putJournal s die j { x with pend := x.pend ++ [{ words := ws, site := site, unit := u }] }
    if x.state = 1 then halSend s1 (.entry x.port.toNat ws) else s1

/-- JOURNAL_ACK_RECEIVE: the acknowledgement of the oldest unacknowledged entry arrives (R186, R381). -/
def ackReceive (s : State) (die j : Nat) (n : BitVec 40) (poison : Bool) : State :=
  let x := journalOf s die j
  match x.pend with
  | [] => s
  | e :: rest =>
    if n ≠ x.ackn + 1 || x.state = 0 || x.state = 3 then s
    else settleAcks (putJournal s die j { x with ackn := n, pend := rest, acks := x.acks ++ [{ site := e.site, unit := e.unit, num := n.toNat, status := 0, poison := poison }] }) die j

/-- JOURNAL_LOST_EXPIRY: where no `emit.jnl` has rebound a lost stream within 1,000,000 ticks, its unacknowledged entries are poisoned (R385). One at the last
of these ticks still does (R389). -/
def lostExpiry (s : State) (die j : Nat) : State :=
  let x := journalOf s die j
  if x.state = 2 && !x.expired && 1000000 < (s.tb - x.lostAt).toNat then
    settleAcks (putJournal s die j { ackAll x 0 true with expired := true }) die j
  else s

/-- Streams bound over a port that is down, or whose peer has changed, are lost (R385). -/
def loseStreams (s : State) : State :=
  s.journals.foldl (fun s x =>
    let l := linkOf s (16 + x.2.port.toNat)
    if x.2.state = 1 && (l.state = 2 || l.peer ≠ x.2.bsdev) then
      raiseMsix { s with journals := kput s.journals x.1 { x.2 with state := 2, lostAt := s.tb, expired := false } } .pf 1
    else s) s

/-- `emit.jnl`: binds a stream, or reassigns one that is lost (R229, R381, R386). Bound over a port that is down, the stream is lost at once and sends nothing
(R385). -/
def issueEmitJnl (s : State) (x : Ctx) (c : Cmd128) : Issued :=
  let j := fld c 111 108
  let port := fld c 107 104
  let bsdev : BitVec 16 := BitVec.ofNat 16 (fld c 103 88)
  let gseq : BitVec 32 := BitVec.ofNat 32 (fld c 87 56)
  let t := journalOf s x.die j
  let peerBad := bsdev ≠ 0xFFFF && (linkOf s (16 + port)).peer ≠ bsdev
  checked s (lowest [(fld c 55 0 ≠ 0 || 12 ≤ port, stForm), ((t.state ≠ 2 && !t.pend.isEmpty) || peerBad, stState), (t.holder ≠ some x.asid, stOwner)])
    (let same := t.state ≠ 0 && t.gseq = gseq
     let t1 := if same then t else ackAll t 0 true
     let t2 := { t1 with state := if bsdev = 0xFFFF then 3 else 1, port := BitVec.ofNat 4 port, bsdev := bsdev, gseq := gseq,
                         ackn := if same then t1.ackn else 0, asid := x.asid, job := x.job, unit := x.unit, expired := false }
     let t3 := if bsdev = 0xFFFF then ackAll t2 1 false else t2
     let s1 := loseStreams (settleAcks (putJournal s x.die j t3) x.die j)
     let s2 := if (journalOf s1 x.die j).state = 1 then t3.pend.foldl (fun s e => halSend s (.entry port e.words)) s1 else s1
     atOnce s x .jnl c (.st s2 0))

/-- `emit.seq`: sends the end record of a sequence (R229, R388). That of a lost stream is never sent (DESIGN CHOICE, log entry 170). -/
def issueEmitSeq (s : State) (x : Ctx) (c : Cmd128) : Issued :=
  let j := fld c 111 108
  let lastn := fld c 75 36
  let t := journalOf s x.die j
  checked s (lowest [(fld c 35 0 ≠ 0, stForm), (t.ackn.toNat + t.pend.length < lastn, stRange), (t.state = 0, stState),
                     (t.holder ≠ some x.asid, stOwner)])
    (atOnce s x .jnl c
      (.st (if t.state = 1 then halSend s (.endRecord t.port.toNat (BitVec.ofNat 32 (fld c 107 76)) (BitVec.ofNat 40 lastn)) else s) 0))

/-! ## `emit` (R186) -/

/-- The journal stream that an `emit`'s port c is fed from. -/
def emitStream (img : Image) (e : Site) : Option Nat :=
  (img.arcTo (inputOf e 2)).bind fun a => match a.src with
    | .port n => (img.ports[n]?).bind fun p => if p.kind = 5 then some p.chan else none
    | _ => none

/-- OP_EMIT: an `emit` takes a and b, passes its entry to the journal and reserves the place of its result; with lane 0 of a or b
invalid it enters its wave chain as a `memnop` (R186). -/
def fireEmit (e : Site) (s : State) : FireRes :=
  match kget s.images e.tp.key with
  | none => .idle
  | some img =>
    match img.slotAt e, kget s.units img.unit with
    | some sl, some u =>
      if sl.word.opc ≠ .emit ∨ sl.halts ∨ !mayFire s img then .idle
      else
        match img.headsOf e [0, 1] with
        | none => .idle
        | some hs =>
          let kind := fireKind .emit hs
          let toks := hs.map fun h => h.2.1
          let a := tokenAt sl.word hs 0
          let b := tokenAt sl.word hs 1
          let g := tagOf hs
          let id := s.nextId
          let one (r : Bool) (sl1 : OpSlot) : State :=
            let img1 := (img.setSlot e sl1).fire e [0, 1] [] g
            let img2 := { img1 with arcs := img1.arcs.map fun c => if c.fromSite e allTargets then c.reserve id g r else c }
            { putImage s e.tp.key img2 with nextId := id + 1 }
          let asNop (r : Bool) : FireRes :=
            if !img.hasRoom e allTargets || takesHalted s img e [0, 1] then .idle
            else .fired (enterChain (one r { sl with dealt := if r then sl.dealt else sl.dealt + 1 }) img.unit e g
              { op := id, slot := e.slot, copy := sl.turn, a := a, b := b, c := Token.make (fun _ => 0) 0 .data, seeds := u.seeds,
                started := none, fault := none, winWait := [], poisoned := false, issued := none, queued := none, entry := none, again := false })
          match kind with
          | .headers ps t =>
            if allHeaders hs then asNop true
            else applyEffect s img e sl kind hs ps { fired := Fired.emits t Flags.none, slot := sl, lanes := [], vrec := none }
          | .poison t =>
            if takesHalted s img e [0, 1] then .idle
            else .trapped (putImage s e.tp.key (img.setSlot e (sl.stop sl.turn))) cDataPoison ((t.lane 0).setWidth 64 &&& 0xFFFF) toks
          | .data =>
            if !a.valid 0 || !b.valid 0 then asNop false
            else if !img.hasRoom e allTargets || takesHalted s img e [0, 1] || 4 ≤ sl.pend.length then .idle
            else
              let s1 := one false { sl with dealt := sl.dealt + 1, pend := sl.pend ++ [{ op := id, tag := g, a := a, b := b, seeds := u.seeds }] }
              match emitStream img e with
              | none => .fired s1
              | some j => .fired (sendEntry s1 img.unit u.asid img.die j e b)
    | _, _ => .idle

/-- EMIT_ACK: an `emit` takes the acknowledgement of its oldest entry, and its store enters the wave chain; poison traps (R186, R187). -/
def takeAck (e : Site) (s : State) : FireRes :=
  match kget s.images e.tp.key with
  | none => .idle
  | some img =>
    match img.slotAt e with
    | none => .idle
    | some sl =>
      if sl.word.opc ≠ .emit ∨ sl.halts ∨ !mayFire s img then .idle
      else
        match (if takesHalted s img e [2] then none else img.headOf (inputOf e 2)), sl.pend with
        | some (t, _), p :: rest =>
          let img1 := (img.setSlot e { sl with pend := rest }).fire e [2] [] Tag.none
          let s0 := putImage s e.tp.key img1
          let s1 := match emitStream img e with | some j => settleAcks s0 img.die j | none => s0
          if t.cls = .poison then
            .trapped (putImage s e.tp.key (img.setSlot e (sl.stop sl.turn))) cDataPoison ((t.lane 0).setWidth 64 &&& 0xFFFF) [t]
          else
            let x : MemFire := {
              op := p.op, slot := e.slot, copy := sl.turn, a := p.a, b := p.b, c := t, seeds := p.seeds, started := none, fault := none, winWait := [],
              poisoned := false, issued := none, queued := none,
              entry := (emitStream img e).map fun j => (16 * img.die + j, (t.lane 0).toNat), again := false }
            .fired (enterChain s1 img.unit e p.tag x)
        | _, _ => .idle

/-! ## The backstay (R383, R384, R388) -/

/-- A partition's header (R384), and whether it is in use. -/
structure Part where
  gseq : BitVec 32
  v : Bool
  lastn : Nat
  basen : Nat
  trunc : Nat
deriving DecidableEq, Repr

/-- Read the header of partition `p`. -/
def partOf (s : State) (p : Nat) : Part :=
  let bs := getBytes s.mem (s.blob.jnlBase + 32 * p) 32
  { gseq := BitVec.ofNat 32 (fieldAt bs 0 4), v := fieldAt bs 4 1 % 2 = 1, lastn := fieldAt bs 8 8 % 2 ^ 40,
    basen := fieldAt bs 16 8 % 2 ^ 40, trunc := fieldAt bs 24 8 % 2 ^ 40 }

/-- Write the header of partition `p`. -/
def putPart (s : State) (p : Nat) (h : Part) : State :=
  writePhys s (.dpa (s.blob.jnlBase + 32 * p))
    (leBytes 4 h.gseq.toNat ++ leBytes 4 h.v.toNat ++ leBytes 8 h.lastn ++ leBytes 8 h.basen ++ leBytes 8 h.trunc)

/-- The partition of a sequence. -/
def findPart (s : State) (gseq : BitVec 32) : Option Nat :=
  (List.range s.blob.npart).find? fun p => (partOf s p).v && (partOf s p).gseq = gseq

/-- The address of entry `n` of a partition. -/
def slotAddr (s : State) (p n : Nat) : Nat := s.blob.jnlBase + 0x100000 + 32 * s.blob.jlen * p + 32 * ((n - 1) % s.blob.jlen)

/-- The device, die and stream that an entry came from. -/
def entryFrom (ws : List Word) : Nat × Nat × Nat :=
  let w := (ws.headD 0).toNat
  (w / 2 ^ 48, w / 2 ^ 44 % 4, w / 2 ^ 40 % 16)

/-- Acknowledge an entry to its sender. -/
def backAck (s : State) (ws : List Word) (n : Nat) (poison : Bool) : State :=
  let f := entryFrom ws
  halSend s (.ack f.1 f.2.1 f.2.2 n poison)

/-- Hold something back. -/
def holdBack (s : State) (w : Waiting) : State := { s with held := s.held ++ [w] }

/-- Does a full undo log hold back a store of 32 bytes at an address of the journal store (R353)? -/
def slotHeld (s : State) (a : Nat) : Bool := undoFull s (.dpa a) 32

/-- Does it hold back the header of a partition? -/
def headerHeld (s : State) (p : Nat) : Bool := slotHeld s (s.blob.jnlBase + 32 * p)

/-- Store an entry as the next of a partition, and acknowledge it; a partition with no free slot holds it, and so does a full undo log. -/
def storeEntry (s : State) (p : Nat) (h : Part) (n : Nat) (ws : List Word) : State :=
  if s.blob.jlen ≤ h.lastn - h.trunc || slotHeld s (slotAddr s p n) || headerHeld s p then holdBack s { gseq := h.gseq, n := n, words := ws, kind := .entry }
  else
    let s1 := writePhys s (.dpa (slotAddr s p n)) (ws.flatMap wordBytes)
    backAck (putPart s1 p { h with lastn := n }) ws n false

/-- Act on an entry (R383). -/
def backEntry (s : State) (gseq : BitVec 32) (n : Nat) (ws : List Word) : State :=
  match findPart s gseq with
  | none =>
    match (List.range s.blob.npart).find? fun p => !(partOf s p).v with
    | none => holdBack s { gseq := gseq, n := n, words := ws, kind := .entry }
    | some p => storeEntry s p { gseq := gseq, v := true, lastn := n - 1, basen := n - 1, trunc := n - 1 } n ws
  | some p =>
    let h := partOf s p
    if n ≤ h.trunc || n ≤ h.basen then backAck s ws n false
    else if n ≤ h.lastn then backAck s ws n (getBytes s.mem (slotAddr s p n + 8) 24 != (ws.drop 1).flatMap wordBytes)
    else if n = h.lastn + 1 then storeEntry s p h n ws
    else holdBack s { gseq := gseq, n := n, words := ws, kind := .entry }

/-- Act on an end record (R388): after its last entry is stored the partition is freed. The entries above it that it holds already are those of a new
partition, with BASEN at the end of the old one (R389). -/
def backEnd (s : State) (gseq : BitVec 32) (n : Nat) : State :=
  match findPart s gseq with
  | none => s
  | some p =>
    let h := partOf s p
    if h.lastn < n || headerHeld s p then holdBack s { gseq := gseq, n := n, words := [], kind := .endRecord }
    else if n < h.lastn then putPart s p { h with basen := max h.basen n, trunc := max h.trunc n }
    else putPart s p { h with v := false, trunc := max h.trunc n }

/-- Raise TRUNC to a number; it never falls (R388). -/
def backTrunc (s : State) (gseq : BitVec 32) (n : Nat) : State :=
  match findPart s gseq with
  | none => s
  | some p =>
    let h := partOf s p
    if headerHeld s p then holdBack s { gseq := gseq, n := n, words := [], kind := .truncation }
    else putPart s p { h with trunc := max h.trunc n }

/-- Act on what has been held back. -/
def retryOne (s : State) (w : Waiting) : State :=
  match w.kind with
  | .entry => backEntry s w.gseq w.n w.words
  | .endRecord => backEnd s w.gseq w.n
  | .truncation => backTrunc s w.gseq w.n

/-- Act again on everything held back, in the order in which it came. -/
def retryHeld (s : State) : State := s.held.foldl retryOne { s with held := [] }

/-- Act on what is held back until nothing of it moves. -/
def settleHeld : Nat → State → State
  | 0, s => s
  | f + 1, s =>
    let s1 := retryHeld s
    if s1.held.length = s.held.length then s1 else settleHeld f s1

/-- Settle what is held back. -/
def settleBackstay (s : State) : State := settleHeld (s.held.length + 1) s

/-- JOURNAL_ENTRY_RECEIVE. -/
def entryReceive (s : State) (ws : List Word) : State :=
  settleBackstay (backEntry s ((ws.getD 1 0).setWidth 32) ((ws.headD 0).toNat % 2 ^ 40) ws)

/-- JOURNAL_END_RECORD. -/
def endReceive (s : State) (gseq : BitVec 32) (lastn : BitVec 40) : State := settleBackstay (backEnd s gseq lastn.toNat)

/-- JOURNAL_TRUNCATE: TRUNC rises to a number; it never falls (R388). -/
def truncReceive (s : State) (gseq : BitVec 32) (n : BitVec 40) : State := settleBackstay (backTrunc s gseq n.toNat)

end Sys2Proof.Machine
end

