-- ==== Sys2Proof/Machine/Engines.lean ====
section
/-! DEFINITION. The dispatch of stream commands to their engines (R116–R118, R189), the entries of chains and queues (R195), and
the completion of operations issued by `cmd` (R192). -/

namespace Sys2Proof.Machine

/-- Issue a command of an assigned opcode. -/
def issueBy (o : Sopc) (s : State) (x : Ctx) (c : Cmd128) : Issued :=
  match o with
  | .snop => issueSnop s x c
  | .sync => issueSync s x c
  | .fxregion => issueFxregion s x c
  | .aprLoad => issueAprOpen false s x c
  | .aprStore => issueAprOpen true s x c
  | .aprDim => issueAprDim s x c
  | .aprPad => issueAprPad s x c
  | .aprEnd => issueAprEnd s x c
  | .cptDef => issueCptDef s x c
  | .cptDim => issueCptDim s x c
  | .cptGo => issueCptGo s x c
  | .cptCancel => issueCptCancel s x c
  | .mcPermit => issueMcPermit s x c
  | .gathRow => issueGath false s x c
  | .gathRed => issueGath true s x c
  | .gathIdx => issueGathIdx s x c
  | .gathChain => issueChainCtl .gre .gre s x c
  | .gathTail => issueTail .gre .gre s x c
  | .qntBlk => issueQnt false s x c
  | .qntDq => issueQnt true s x c
  | .qntChain => issueChainCtl .qe .qe s x c
  | .qntTail => issueTail .qe .qe s x c
  | .mxtask => issueMxtask s x c
  | .mxqSet => issueMxqSet s x c
  | .ldstat => issueLdstat s x c
  | .mxswap => issueMxswap s x c
  | .nmcSgd => issueNmc .sgd s x c
  | .nmcDecay => issueNmc .decay s x c
  | .nmcRed => issueNmc .red s x c
  | .nmcChain => issueChainCtl .nmc .nmc s x c
  | .nmcTail => issueTail .nmc .nmc s x c
  | .deadSet => issueDead true s x c
  | .deadClr => issueDead false s x c
  | .emitJnl => issueEmitJnl s x c
  | .emitSeq => issueEmitSeq s x c

/-- Issue a command by `cmd` with its flag fallbacks applied (R124, R189, R190): it waits while the engine's queue is full. -/
def issueCmd (o : Sopc) (s : State) (x : Ctx) (c : Cmd128) : Issued :=
  if queueFull s x.die o.engine then .waits []
  else
    let f := flagFallback o c
    match issueBy o s x f.1 with
    | .st s1 0 => .st (cmdWarn s1 x f.2 c) 0
    | r => r

/-- The context of an operation that was issued before. -/
def EngOp.ctx (s : State) (o : EngOp) (bases : List Word) : Ctx :=
  { iss := o.iss, unit := o.unit, launch := o.launch, job := o.job, asid := o.asid, die := o.die, bases := bases,
    tpKey := ((o.unit.bind fun u => kget s.units u).map fun w => w.tp.key).getD 0 }

/-- ENGINE_OP_COMPLETE: an operation issued by `cmd` has reached its completion object, and its notification counts (R192); a
command that waited under SER takes its effect (R116). -/
def opComplete (s : State) (n : Nat) : State :=
  match kget s.ops n with
  | none => s
  | some o =>
    match o.iss with
    | .chain _ _ => s
    | .seq u =>
      if o.fault.isSome && !jobKilled s o.job then s
      else
        match o.fin, o.body with
        | some _, _ =>
          let s1 := { s with ops := kdel s.ops n }
          if o.ntf then notifyUnit s1 u else s1
        | none, .later c bases =>
          if !mayStart s n o then s
          else
            match Sopc.ofCode (cmdOpc c) with
            | none => s
            | some op =>
              match issueBy op { s with ops := kdel s.ops n } (o.ctx s bases) (c &&& ~~~((1 : Cmd128) <<< 118)) with
              | .st s1 _ => s1
              | .waits on => opWaits s n on
              | .fault cause va => if jobKilled s o.job then finishOp s n 0 else faultOp s n cause va 0
        | none, .settled e =>
          if !mayStart s n o then s
          else
            match e.perform s with
            | none => s
            | some s1 =>
              let s2 := { s1 with ops := kdel s1.ops n }
              if o.ntf then notifyUnit s2 u else s2
        | none, .object _ _ _ => writeObject s n
        | none, .unbind kind num => if mayStart s n o then startUnbind s n o { kind := kind, die := o.die, num := num } else s
        | _, _ => s

/-! ## Entries of chains and queues -/

/-- May a command stand as an entry of a kind of chain (Table 4.11)? -/
def entryAdmits (k : ChainKind) (o : Sopc) : Bool :=
  match k, o with
  | .gre, .gathRow | .gre, .gathRed | .gre, .gathIdx => true
  | .qe, .qntBlk | .qe, .qntDq => true
  | .nmc, .nmcSgd | .nmc, .nmcDecay | .nmc, .nmcRed => true
  | .mxq, .mxtask => true
  | _, _ => false

/-- An unassigned or misplaced command stops the chain before its entry, with one `ill.instr` record (R118). -/
def stopChain (s : State) (k : ChainId) (b : Bound) (va : Nat) : State :=
  let kind := match k.kind with | .gre => 2 | .qe => 3 | .nmc => 5 | .mxq => 4
  let s1 := modBound s k fun b => { b with stopped := true, fault := none }
  writeRecord s1 b.job (match rootOf s1 b.launch with | some q => some q | none => firstQueue s1 b.job)
    { FaultRec.plain 0x1 3 ((b.launch.map (handleOfLaunch s1)).getD 0) (BitVec.ofNat 64 va) with where_ := whereEng k.die kind k.num, val2 := BitVec.ofNat 64 va }

/-- Note the start of entry `e`: where its issue entered no operation it has ended with a status, to be published. -/
def entryStarted (s0 s1 : State) (x : Ctx) (k : ChainId) (e : Nat) (row : Engine) (c : Cmd128) (code : Nat) (w : WarnBits) : State :=
  let s2 := if s1.nextId = s0.nextId then (addOp s1 { x.op row c (.later c []) w with fin := some code }).1
    else modOp s1 s0.nextId fun o => { o with warn := o.warn ||| w.toBits }
  modBound (chainReads s2 k) k fun b => { b with head := e, lastRing := s0.nextId, lastTask := s0.nextId }

/-- CHAIN_ENTRY_START: the engine reads the next entry, and it starts once its WAIT is satisfied (R195). -/
def entryStart (s : State) (k : ChainId) : State :=
  match (chainOf s k).bound with
  | none => s
  | some b =>
    let e := b.head + 1
    let mx := match k.kind with | .mxq => true | _ => false
    if !s.dies.getLsbD k.die || b.stopped || b.unbinding.isSome || b.fault.isSome || b.poisoned || b.tail < e || b.pub + b.nent < e then s
    else
      let va := b.entryVa mx e
      match (loadVa s b.asid k.die va (if mx then 64 else 32) none).bind fun bs =>
          (loadVa s b.asid k.die b.basea 128 none).map fun base => (bs, base) with
      | .waits on => modBound s k fun b => { b with waitsOn := on }
      | .bad c a => chainFault s k b c a va
      | .ok (bs, base) =>
        let c : Cmd128 := BitVec.ofNat 128 (fieldAt bs 0 16)
        match (Sopc.ofCode (cmdOpc c)).bind fun o => if entryAdmits k.kind o then some o else none with
        | none => stopChain s k b va
        | some o =>
          let x : Ctx := { iss := .chain k e, unit := none, launch := b.launch, job := b.job, asid := b.asid, die := k.die,
                           bases := (List.range 16).map fun i => BitVec.ofNat 64 (fieldAt base (8 * i) 8), tpKey := 0 }
          let f := flagFallback o c
          if cmdSer c && b.pub ≠ b.head then s
          else
            match (if mx then .met else waitRes s b.asid (BitVec.ofNat 64 (fieldAt bs 16 8))) with
            | .notYet => s
            | .refused code => entryStarted s s x k e o.engine f.1 code f.2
            | .met =>
              match (if mx then issueRecord s x f.1 k.num e b.lastRing (bs.drop 16) else issueBy o s x f.1) with
              | .waits _ => s
              | .fault c a => chainFault s k b c a va
              | .st s1 code => entryStarted s s1 x k e o.engine f.1 code f.2

end Sys2Proof.Machine
end

