-- ==== Sys2Proof/Machine/Handles.lean ====
section
/-! DEFINITION. Naming levels by handles (R305) and showing how they stand (R306). -/

namespace Sys2Proof.Machine

/-- A level that a handle names. -/
inductive LevelRef where
  | unit (u : UnitId)
  /-- The last unit of the job on a tile-plane, which has ended. -/
  | endedUnit (st : LvlStatus)
  | launch (l : Nat)
  | graph (phase graph : Nat)
  | phase (p : Nat)
  | job
deriving DecidableEq, Repr

/-- How a level stands (Table 13.14): closed, status, children outstanding, DEPERR. -/
structure LevelView where
  closed : Bool
  status : LvlStatus
  count : Nat
  deperr : Bool
deriving DecidableEq, Repr

/-- The unit of a job that a tile-plane's unit handle names: the one that runs there, else one that is saved and ran there. -/
def unitAt (s : State) (job : Nat) (key : Nat) : Option UnitId :=
  let here (w : WorkUnit) : Bool := w.job = job && w.tp.key = key
  match s.units.find? fun u => here u.2 && u.2.life = .bound with
  | some u => some u.1
  | none => (s.units.find? fun u => here u.2).map fun u => u.1

/-- The phase in which a job's graph of a number was last opened. -/
def graphPhase (j : Job) (g : Nat) : Option Nat :=
  j.graphs.foldl (fun a x => if x.1 % 2 ^ 32 = g then some (x.1 / 2 ^ 32) else a) none

/-- The level of job `job` that a handle names (Table 13.13). -/
def levelOf (s : State) (job : Nat) (h : Word) : Option LevelRef :=
  match kget s.jobs job with
  | none => none
  | some j =>
    if (h.extractLsb' 44 16).toNat ≠ job then none
    else
      let x := (h.extractLsb' 0 44).toNat
      match (h.extractLsb' 60 4).toNat with
      | 0 =>
        if x / 2 ^ 43 ≠ 0 ∨ x % 2 ^ 32 ≠ 0 then none
        else
          let tp : Tp := { die := x / 2 ^ 41 % 4, tile := x / 2 ^ 35 % 64, plane := x / 2 ^ 32 % 8 }
          if 5 ≤ tp.plane then none
          else match unitAt s job tp.key with
            | some u => some (.unit u)
            | none => (kget j.ended tp.key).map .endedUnit
      | 1 =>
        if x / 2 ^ 43 ≠ 0 ∨ x / 2 ^ 13 % 2 ^ 28 ≠ 0 then none
        else
          let n := x % 2 ^ 13
          if n < j.nbase ∨ j.nbase + j.ncount ≤ n then none
          else (kget j.armed (nodeKey (x / 2 ^ 41 % 4) n)).map .launch
      | 2 => if x / 2 ^ 32 ≠ 0 then none else (graphPhase j x).map fun p => .graph p x
      | 3 => if x / 2 ^ 16 ≠ 0 then none else if (kget j.phases x).isSome then some (.phase x) else none
      | 4 => if x ≠ 0 then none else some .job
      | _ => none

/-- How a counter stands. -/
def Level.view (l : Level) (deperr : Bool) : LevelView :=
  { closed := l.closed, status := if l.complete then l.status else .running, count := l.count, deperr := deperr }

/-- How a level stands: a unit is closed once bound and has no children; a launch's children include the units not yet bound. -/
def viewLevel (s : State) (job : Nat) (r : LevelRef) : LevelView :=
  let j := (kget s.jobs job)
  match r with
  | .unit _ => { closed := true, status := .running, count := 0, deperr := false }
  | .endedUnit st => { closed := true, status := st, count := 0, deperr := false }
  | .launch l =>
    match kget s.launches l with
    | none => { closed := false, status := .running, count := 0, deperr := false }
    | some x => { closed := x.closed, status := if x.complete then x.status else .running, count := x.count + x.toBind.length, deperr := false }
  | .graph p g => (((j.bind fun j => kget j.graphs (graphKey p g))).getD Level.fresh).view false
  | .phase p => (((j.bind fun j => kget j.phases p)).getD Level.fresh).view false
  | .job => match j with
    | none => Level.fresh.view false
    | some j => j.level.view j.deperr

/-- LQRES for a level (Table 13.14). -/
def LevelView.word (v : LevelView) : Word :=
  BitVec.ofNat 64 (2 ^ 63 + v.closed.toNat * 2 ^ 62 + v.status.code * 2 ^ 60 + v.deperr.toNat * 2 ^ 59 + v.count % 2 ^ 32)

/-- LQRES after a query by a job: 0 where the handle names no level. -/
def lqresOf (s : State) (job : Nat) (h : Word) : Word :=
  match levelOf s job h with
  | some r => (viewLevel s job r).word
  | none => 0

end Sys2Proof.Machine
end

