-- ==== Sys2Proof/Machine/Waves.lean ====
section
/-! DEFINITION. What becomes of a firing (R17, R44, R331), the issue of memory operations by the memory interface (R76, R99, R173,
R180), and the commit of a block instance (R31, R32, R178). -/

namespace Sys2Proof.Machine

/-! ## Traps of the fabric -/

/-- The copy of an operator that takes its turn, as (tile, element). -/
def OpSlot.place (sl : OpSlot) (k : Nat) (img : Image) : Nat × Nat :=
  match sl.copies[k]? with
  | some c => (c.tile, c.elem)
  | none => (img.tile, 0)

/-- The router word of the switch box of an element, or 0 (Table 14.6). -/
def routerWordAt (img : Image) (tile elem : Nat) : Word :=
  match img.blocks.findSome? fun b => b.rtrs.find? fun r => r.tile = tile && r.elem = elem with
  | some r => encodeOp r.word
  | none => 0

/-- The token entries of the tokens that wait in the latches of the router of an element. -/
def routerTokens (img : Image) (tile elem : Nat) : List (List Byte) :=
  img.blocks.zipIdx.flatMap fun b => b.1.rtrs.zipIdx.flatMap fun r =>
    if r.1.tile = tile && r.1.elem = elem then
      (List.range 3).filterMap fun p => (img.headOf (.rtr b.2 r.2 p)).map fun h => tokenEntry (tokenLoc b.2 true r.2 p false true 0) h.1
    else []

/-- The token entries of a trap's record (R329): the tokens that the firing met, by the ports of its operator, then those of the element's router. -/
def trapTokens (img : Image) (e : Site) (at_ : Nat × Nat) (w : OpWord) (toks : List Token) : List (List Byte) :=
  ((toks.zip (arcPorts w)).map fun tp => tokenEntry (tokenLoc e.blk false e.slot tp.2 false true 0) tp.1) ++ routerTokens img at_.1 at_.2

/-- A fabric trap (R331): the unit is marked faulted, and the record names the element and its words (R329). -/
def fabricTrap (s : State) (e : Site) (k : Nat) (cause : BitVec 16) (val : Word) (toks : List Token) : State :=
  match kget s.images e.tp.key with
  | none => s
  | some img =>
    match img.slotAt e, kget s.units img.unit with
    | some sl, some w =>
      let at_ := sl.place k img
      let bsel := ((img.blocks[e.blk]?).map fun b => b.bsel).getD false
      let s1 := markFaulted s img.unit w cause
      writeRecord s1 w.job (rootOf s1 (some w.launch))
        { cause := cause, src := 0, handle := unitHandle w.job w.tp,
          where_ := whereElem img.die at_.1 at_.2 img.plane bsel e.slot e.blk, graphid := img.graphid,
          cfgw := encodeOp sl.word, rtrw := routerWordAt img at_.1 at_.2, val := val, val2 := 0, toks := trapTokens img e at_ sl.word toks }
    | _, _ => s

/-- The copy that takes its turn at a site. -/
def turnAt (s : State) (e : Site) : Nat :=
  (((kget s.images e.tp.key).bind fun img => img.slotAt e).map fun sl => sl.turn).getD 0

/-- The state after a firing: nothing where it could not fire. -/
def FireRes.after (r : FireRes) (e : Site) (s : State) : State :=
  match r with
  | .idle => s
  | .fired s1 => s1
  | .trapped s1 cause val toks => fabricTrap s1 e (turnAt s1 e) cause val toks

/-! ## Issue (R76, R99) -/

/-- The lanes and addresses at which an operation writes at its issue, with the access size: atomics and FX128 additions (R173). -/
def writesAtIssue (w : OpWord) (x : MemFire) : List Nat × Nat :=
  match w.opc with
  | .redFx => ((lanesOf (x.a.mask &&& x.b.mask)).map fun i => addrOf x (x.a.lane i), 16)
  | .amoFadd => (if x.a.valid 0 then (lanesOf x.b.mask).map fun i => (addrOf x (x.a.lane 0) + 16 * i) % 2 ^ 57 else [], 16)
  | .amoAdd | .amoAnd | .amoOr | .amoXor | .amoMin | .amoMax | .amoMinu | .amoMaxu | .amoSwap | .amoCas =>
    ((lanesOf (x.a.mask &&& x.b.mask &&& (if w.opc = .amoCas then x.c.mask else 0xFFFF))).map fun i => addrOf x (x.a.lane i),
     if w.ty = 1 then 8 else 4)
  | _ => ([], 1)

/-- The places of some addresses of a unit. -/
def placesOf (s : State) (u : WorkUnit) (as_ : List Nat) : List Phys :=
  as_.filterMap fun a => match translate s u.asid a .atomic with
    | .ok p => some p
    | .bad _ => none

/-- Trap at a memory operator (R99, R331): the element of the copy stops, and the operation stays where it is. -/
def memTrap (s : State) (n : Nat) (it : Inst) (img : Image) (x : MemFire) (sl : OpSlot) (cause : BitVec 16) (val : Word) : State :=
  let e : Site := { tp := { die := img.die, tile := img.tile, plane := img.plane }, blk := it.blk, rtr := false, slot := x.slot }
  let s1 := putImage s it.img (img.setSlot e (sl.stop x.copy))
  fabricTrap (modFire s1 n x.op fun x => { x with fault := some (cause, val, s.tb), queued := none }) e x.copy cause val [x.a, x.b, x.c]

/-- Withhold an operation at a translation fault, recorded when it is first seen (R99, R332). -/
def memWithhold (s : State) (n : Nat) (it : Inst) (img : Image) (x : MemFire) (sl : OpSlot) (w : WorkUnit) (cause : BitVec 16) (va : Nat) : State :=
  let v := BitVec.ofNat 64 va
  let s1 := modFire s n x.op fun x => { x with fault := some (cause, v, s.tb), queued := none, again := false }
  if (match x.fault with | some (c, a, _) => c = cause && a = v | none => false) then s1
  else
    let at_ := sl.place x.copy img
    let bsel := ((img.blocks[it.blk]?).map fun b => b.bsel).getD false
    writeRecord s1 w.job (rootOf s1 (some w.launch))
      { cause := cause, src := 0, handle := unitHandle w.job w.tp,
        where_ := whereElem img.die at_.1 at_.2 img.plane bsel x.slot it.blk, graphid := img.graphid,
        cfgw := encodeOp sl.word, rtrw := routerWordAt img at_.1 at_.2, val := v, val2 := 0,
        toks := trapTokens img { tp := { die := img.die, tile := img.tile, plane := img.plane }, blk := it.blk, rtr := false, slot := x.slot } at_ sl.word [x.a, x.b, x.c] }

/-- The addresses and the access size of a memory operation, for telling whether two of them touch one location (R78). -/
def touchedBy (w : OpWord) (x : MemFire) : List Nat × Nat :=
  let row (m : BitVec 16) (k : Nat) : List Nat := if x.a.valid 0 then (lanesOf m).map fun i => (addrOf x (x.a.lane 0) + k * i) % 2 ^ 57 else []
  match w.opc with
  | .vld => (row x.a.mask (elemSize w.ty), elemSize w.ty)
  | .vst => (row x.b.mask (elemSize w.ty), elemSize w.ty)
  | .vldx | .vstx => ((lanesOf x.a.mask).map fun i => addrOf x (x.a.lane i), elemSize w.ty)
  | .ldfe => (row 1 16, 16)
  | .monwait => (row 1 8, 8)
  | .emit => (row 1 4, 4)
  | .memnop | .fence | .apst => ([], 1)
  | _ => writesAtIssue w x

/-- The places that a memory operation touches. -/
def touchedPlaces (s : State) (w : OpWord) (u : WorkUnit) (x : MemFire) : List (Phys × Nat) :=
  let t := touchedBy w x
  t.1.filterMap fun a => match translate s u.asid a .read with
    | .ok p => some (p, t.2)
    | .bad _ => none

/-- Do two lists of places share a byte? -/
def placesMeet (ps qs : List (Phys × Nat)) : Bool := ps.any fun p => qs.any fun q => overlaps p.1 p.2 q.1 q.2

/-- The places of deferred stores. -/
def deferredPlaces (ds : List Deferred) : List (Phys × Nat) :=
  ds.filterMap fun d => match d with
    | .store _ p bs _ => some (p, bs.length)
    | .copy _ _ _ _ _ _ => none

/-- The places that operations of an instance touch. -/
def firesTouch (s : State) (it : Inst) (img : Image) (u : WorkUnit) (ys : List MemFire) : List (Phys × Nat) :=
  ys.flatMap fun y => ((it.slotOf img y).map fun sl => touchedPlaces s sl.word u y).getD []

/-- The records of a thread's earlier block instances. -/
def earlierInsts (s : State) (it : Inst) : List Inst := it.pre.filterMap fun bn => if bn = (it.blk, it.tag) then none else recordOf s it bn

/-- The places of the operations of a thread's earlier instances that wait, though issued (R78). -/
def earlierTouch (s : State) (it : Inst) (img : Image) (u : WorkUnit) : List (Phys × Nat) :=
  (earlierInsts s it).flatMap fun j => firesTouch s j img u j.outstanding

/-- Must an operation wait for an earlier one of its thread to the same location: one that its own chain or an earlier instance's has moved on past, or,
where it writes at its issue, a store that an earlier instance has deferred (R78)? -/
def sameLocationLeft (s : State) (it : Inst) (img : Image) (w : OpWord) (u : WorkUnit) (x : MemFire) : Bool :=
  let before : List (Phys × Nat) := firesTouch s it img u (it.aheadOf img x) ++ earlierTouch s it img u
  let stored : List (Phys × Nat) := if (writesAtIssue w x).1.isEmpty then [] else (earlierInsts s it).flatMap fun j => deferredPlaces j.deferred
  (!before.isEmpty || !stored.isEmpty) && placesMeet (touchedPlaces s w u x) (before ++ stored)

/-- Is an operation performed when it is issued? A store enters its instance, and a `memnop`, a firing on headers alone and one on poison perform nothing
(R76, R173, R176). -/
def performs (w : OpWord) (x : MemFire) : Bool :=
  (firstPoison [x.a, x.b, x.c]).isNone && match w.opc with
    | .vst | .vstx | .apst | .emit | .memnop => false
    | .fence => true
    | _ => x.a.cls ≠ .header

/-- Does an operation that waits keep the later ones of its thread from being performed: a fence (R81), an acquire (R80), an `ldfe` (R94), a load
that waits on a window (R90), or one that a save has withdrawn, until it is issued again (R100)? -/
def Inst.bars (it : Inst) (img : Image) (y : MemFire) : Bool :=
  y.again || !y.winWait.isEmpty || ((it.slotOf img y).map fun sl => sl.word.opc = .fence || sl.word.opc = .ldfe || memOrd sl.word = .acq || memOrd sl.word = .ar).getD false

/-- Does an earlier operation of an instance's thread bar the later ones: one of an earlier instance? -/
def barredByEarlier (s : State) (it : Inst) (img : Image) : Bool := (earlierInsts s it).any fun j => j.outstanding.any (j.bars img)

/-- Is an operation barred by an earlier one of its thread (R80, R81, R90, R94)? -/
def barred (s : State) (it : Inst) (img : Image) (x : MemFire) : Bool := (it.aheadOf img x).any (it.bars img) || barredByEarlier s it img

/-- An operation waits, before any effect; `on` are the bytes under a window that it waits on, and `read` says whether it has looked at memory. One that
is performed when it is issued has been issued all the same, and the chain moves on (R76): a later operation may be issued and, unless this one bars it,
performed. -/
def keepWaiting (s : State) (n : Nat) (x : MemFire) (w : OpWord) (on : List (Phys × Nat)) (read : Bool) : State :=
  { s with insts := kmod s.insts n fun it =>
      let goes := performs w x
      { (if goes then it.moved x w else it) with
        waiting := it.waiting.map fun y => if y.op ≠ x.op then y else
          { y with winWait := on, started := if read then some (y.started.getD s.tb) else y.started, fault := none, again := y.again && !read,
                   issued := if goes then some (y.issued.getD it.deferred.length) else none } } }

/-- Issue operation `x` of an instance: performed, deferred, made to wait, or withheld. -/
def issueFire (s : State) (n : Nat) (it : Inst) (img : Image) (u : UnitId) (w : WorkUnit) (x : MemFire) (sl : OpSlot) : State :=
  let ws := writesAtIssue sl.word x
  let held := (placesOf s w ws.1).any fun p => undoFull s p ws.2 || entryHeld s (some n) p ws.2
  let key := img.tpKey (sl.place x.copy img).1
  let holds (d ch : Nat) : Bool := (chanOf s d ch).holder = some w.asid
  if performs sl.word x && (barred s it img x || sameLocationLeft s it img sl.word w x) then keepWaiting s n x sl.word x.winWait false
  else
  match issueOp s w key n img.die holds sl.word x with
  | .waits s1 on => keepWaiting s1 n x sl.word on true
  | .poisoned => memTrap s n it img x sl cDataPoison (cCopyCancel.setWidth 64)
  | .fault c va =>
    if c = cMemUce then doomJob s w.job cMemUce
    else if c = cXlatMiss ∨ c = cXlatProt then memWithhold s n it img x sl w c va
    else memTrap s n it img x sl c (BitVec.ofNat 64 va)
  | .done s1 t =>
    if held then keepWaiting s n x sl.word [] true
    else
      let s2 := (placesOf s w ws.1).foldl (fun s p => markExternal s w.job p) s1
      match kget s2.units u with
      | some _ => chainDone s2 n it x sl.word t
      | none => s2

/-- Is this a loop port of a `carry`, whose tokens begin another pass (R29)? -/
def Image.loopPort (img : Image) (d : ArcEnd) : Bool :=
  match d with
  | .rtr b k i => i ≠ 0 && (((img.blocks[b]?).bind fun x => x.rtrs[k]?).map fun r => decide (r.word.opc = .carry)).getD false
  | _ => false

/-- One hop from some sites along the arcs, not into the loop ports of carries. -/
def Image.hop (img : Image) (from_ : List ArcEnd) : List ArcEnd :=
  img.arcs.foldl (fun acc a => if acc.contains a.src.site && !acc.contains a.dst.site && !img.loopPort a.dst then acc ++ [a.dst.site] else acc) from_

/-- Hops until nothing new is reached. -/
def Image.spread (img : Image) : Nat → List ArcEnd → List ArcEnd
  | 0, xs => xs
  | f + 1, xs =>
    let ys := img.hop xs
    if ys.length = xs.length then xs else img.spread f ys

/-- The sites that what block `b` produces for others comes to within one pass. -/
def Image.exits (img : Image) (b : Nat) : List ArcEnd :=
  img.spread (img.arcs.length + 1) ((img.arcs.filter fun a => a.src.blk == some b && a.dst.blk != some b && !img.loopPort a.dst).map fun a => a.dst.site)

/-- Does what block `b` produces reach block `c` within one pass? -/
def Image.leadsTo (img : Image) (b c : Nat) : Bool := (img.exits b).any fun d => d.blk == some c

/-- Has an earlier instance of a thread operations left to issue (R78)? The chain of one at which a fault withholds an operation has stopped there (R99).
One in which a save found stores that still wait holds everything later back: the save and the restore count as a `fence.sys` (R100). -/
def issuesLeft (s : State) (it : Inst) (img : Image) (bn : Nat × Nat) : Bool :=
  match recordOf s it bn with
  | some j => j.ended || j.fenced || (if j.ofHeader then !j.waiting.isEmpty else j.lastW = 0 || j.lastS ≠ 0 || j.waiting.any fun x => x.issued.isNone || x.fault.isSome)
  | none => img.inBlock bn.1 bn.2

/-- The memory interface issues a thread's operations in program order, instance after instance (R78): must those of an instance wait? An earlier
instance that the thread would enter again in the same pass holds nothing back. -/
def programHeld (s : State) (it : Inst) (img : Image) : Bool :=
  it.pre.any fun bn => bn ≠ (it.blk, it.tag) && issuesLeft s it img bn && !img.leadsTo it.blk bn.1

/-- The next operation that an instance may issue, with what it belongs to. -/
def nextFire (s : State) (n : Nat) : Option (Inst × Image × UnitId × WorkUnit × MemFire × OpSlot) :=
  (kget s.insts n).bind fun it => (kget s.images it.img).bind fun img => (kget s.units img.unit).bind fun w =>
    if w.life = .bound && !w.cancelled && !it.ended && !programHeld s it img then (nextInChain img it).map fun xs => (it, img, img.unit, w, xs.1, xs.2)
    else none

/-- An operation of an instance that its chain has moved on past, with what it belongs to. -/
def issuedFire (s : State) (n op : Nat) : Option (Inst × Image × UnitId × WorkUnit × MemFire × OpSlot) :=
  (kget s.insts n).bind fun it => (kget s.images it.img).bind fun img => (kget s.units img.unit).bind fun w =>
    if w.life = .bound && !w.cancelled && !it.ended then
      (it.outstanding.find? fun x => x.op = op).bind fun x => (it.slotOf img x).map fun sl => (it, img, img.unit, w, x, sl)
    else none

/-- Look again at an operation that waits behind its chain. -/
def retryIssued (n : Nat) (s : State) (op : Nat) : State :=
  match issuedFire s n op with
  | none => s
  | some (it, img, u, w, x, sl) => if x.fault.isSome then s else issueFire s n it img u w x sl

/-- The numbers of the operations that an instance holds. -/
def instOps (s : State) (n : Nat) : List Nat := ((kget s.insts n).map fun it => it.waiting.map fun x => x.op).getD []

/-- WAVE_ISSUE: the memory interface performs what it can of the operations that wait behind an instance's chain, and issues the next one of the
chain (R76). A withheld one waits for its re-walk (R332). -/
def waveIssue (s : State) (n : Nat) : State :=
  let s1 := (instOps s n).foldl (retryIssued n) s
  match nextFire s1 n with
  | none => s1
  | some (it, img, u, w, x, sl) => if x.fault.isSome then s1 else issueFire s1 n it img u w x sl

/-- An operation of an instance, if it is the next one of its chain or the chain has moved on past it. -/
def fireNow (s : State) (n op : Nat) : Option (Inst × Image × UnitId × WorkUnit × MemFire × OpSlot) :=
  match nextFire s n with
  | some f => if f.2.2.2.2.1.op = op then some f else issuedFire s n op
  | none => issuedFire s n op

/-- The re-walk of a withheld operation (R332): after 10 µs, it is replayed where the walk succeeds. -/
def replayFire (n : Nat) (s : State) (op : Nat) : State :=
  match fireNow s n op with
  | none => s
  | some (it, img, u, w, x, sl) =>
    match x.fault with
    | some (c, _, at_) => if (c = cXlatMiss ∨ c = cXlatProt) ∧ 10000 ≤ (s.tb - at_).toNat then issueFire s n it img u w x sl else s
    | none => s

/-- The re-walks of an instance's withheld operations, each on its own (R332). -/
def fireRewalk (s : State) (n : Nat) : State := (instOps s n).foldl (replayFire n) s

/-- A `monwait` whose timeout has come reads once more and ends (R180). -/
def monExpire (n : Nat) (s : State) (op : Nat) : State :=
  match fireNow s n op with
  | none => s
  | some (it, img, _, w, x, sl) =>
    match sl.word.opc, x.started, x.fault with
    | .monwait, some t0, none =>
      if !x.b.valid 1 || ((s.tb - t0).toNat : Int) < (x.b.lane 1).toInt then s
      else
        let sz := if sl.word.ty = 13 then 4 else 8
        match checkLane s w (addrOf x (x.a.lane 0)) sz .read with
        | .bad c =>
          if c = cMemUce then doomJob s w.job cMemUce
          else if c = cXlatMiss ∨ c = cXlatProt then memWithhold s n it img x sl w c (addrOf x (x.a.lane 0)) else s
        | .ok p =>
          if x.poisoned || windowed s none p sz || tierBusy s p then s
          else
            let t := match (kget s.watches (2 * x.op + 1)).bind fun h => h.hit with
              | some v => monToken v false
              | none =>
                let v := wordOf (readOwn s n x img.die p sz)
                monToken v !(condHolds (sl.word.mod.extractLsb' 0 3) 40 v ((x.b.lane 0).setWidth 64))
            chainDone s n it x sl.word t
    | _, _, _ => s

/-- MONWAIT_TIMEOUT: each `monwait` of an instance whose timeout has come ends (R180). -/
def monTimeout (s : State) (n : Nat) : State := (instOps s n).foldl (monExpire n) s

/-! ## Commit (R31, R32) -/

/-- Is this the router at an arc's end one at which the passages are numbered anew, so that what stands before it belongs to passages to come (R31)? -/
def Image.boundary (img : Image) : ArcEnd → Bool
  | .rtr b k _ => (((img.blocks[b]?).bind fun x => x.rtrs[k]?).map fun r => img.renumbers b k r.word.opc).getD false
  | _ => false

/-- The arcs that lead to some arcs within a passage, through operators and routers. Of a `merge.ord` whose inputs enter its block the control input alone
says which threads come (R27). -/
def Image.feeders (img : Image) : Nat → List Arc → List Arc
  | 0, xs => xs
  | f + 1, xs =>
    let more := img.arcs.filter fun a => !xs.any (fun x => x.dst = a.dst) && !img.unnumbered a && xs.any fun x => a.dst.site = x.src.site && !img.boundary x.src
    if more.isEmpty then xs else img.feeders f (xs ++ more)

/-- Does a stream of a port still deliver? Acknowledgements (KIND 5) are no thread's tokens. -/
def portLive (s : State) (img : Image) (n : Nat) : Bool :=
  ((img.ports[n]?).map fun p => p.kind = 0 &&
    (let x := streamOf s img.die p.eng p.chan
     x.unit = img.unit && (x.running.isSome || !x.queued.isEmpty))).getD false

/-- Is a token in block `c` one of the thread of an instance, in the same passage (R15, R31)? The two have the same position at every block and port that
both have come through; where there is none, equal numbers are one thread. -/
def sameThread (it : Inst) (c : Nat) (g : Tag) : Bool :=
  match g.n with
  | none => false
  | some m =>
    let mine := kput it.via it.blk it.tag
    let common := (kput g.via c m).filterMap fun x => (kget mine x.1).map fun k => (x.2, k)
    if common.isEmpty then m = it.tag else common.all fun x => x.1 = x.2

/-- Has a port still to deliver a position that an instance's thread may have there? -/
def portAwaits (s : State) (img : Image) (it : Inst) (a : Arc) : Bool :=
  match a.src with
  | .port p => portLive s img p && (match kget it.via (4096 + p) with | some k => a.count ≤ k | none => a.count ≤ it.tag)
  | _ => false

/-- Does what stands before the router at an arc's start still make a passage of this number? -/
def passageComes (img : Image) (it : Inst) (a : Arc) : Bool :=
  img.boundary a.src && match a.src with
  | .rtr b k _ => (((img.blocks[b]?).bind fun x => x.rtrs[k]?).map fun r => decide (r.count ≤ it.tag)).getD false &&
      img.arcs.any fun x => !x.q.isEmpty && match x.dst with | .rtr c l i => c = b && l = k && i < 2 | _ => false
  | _ => false

/-- Can a token of an instance's thread still come to an entry arc of its block (R31)? To an arc that has not yet delivered this position, one that
stands on an arc that feeds it, one that a stream has yet to deliver, or one that a loop still passes on. -/
def tokenComes (s : State) (img : Image) (it : Inst) : Bool :=
  let short := img.arcs.filter fun a => a.entry && a.dst.blk == some it.blk && !img.unnumbered a && a.count ≤ it.tag
  !short.isEmpty && (img.feeders (img.arcs.length + 1) short).any fun a =>
    (match a.dst.blk with | some c => a.q.any fun q => sameThread it c q.tag | none => false) || portAwaits s img it a || passageComes img it a

/-- Has an instance ended: every operator of its block that its thread reaches has fired (R31)? A wave chain under way names an operator that the thread
still reaches, until it issued its last operation, S = 0 (R76). -/
def instDone (s : State) (it : Inst) : Bool :=
  it.waiting.isEmpty && (it.lastW = 0 || it.lastS = 0 || it.ofHeader) &&
    match kget s.images it.img with
    | none => false
    | some img => !img.inBlock it.blk it.tag && (it.ofHeader || !tokenComes s img it)

/-- Must an instance wait for an earlier one of its block (R31)? -/
def orderHeld (s : State) (it : Inst) : Bool :=
  !it.ofHeader && (((kinOf s it).any fun j => j.blk = it.blk && j.tag < it.tag) ||
    ((instImage s it).map fun img => img.anyInBlock it.blk fun t => t < it.tag).getD false)

/-- Does an instance start a copy? -/
def Inst.starts (it : Inst) : Bool := it.deferred.any fun d => match d with | .copy _ _ _ _ _ _ => true | .store _ _ _ _ => false

/-- Do the stores of an instance wait for an earlier one of its thread: they are releases (R80) or start a copy (R86), or meet a store or an operation of it
at one location (R78), or it bars them (R80, R81)? -/
def commitHeld (s : State) (it : Inst) (img : Image) (u : WorkUnit) : Bool :=
  !it.deferred.isEmpty && (barredByEarlier s it img || placesMeet (deferredPlaces it.deferred) (earlierTouch s it img u) ||
    it.pre.any fun bn => bn ≠ (it.blk, it.tag) && instOpen s it bn && !img.leadsTo it.blk bn.1 &&
      (it.rel || it.starts || ((recordOf s it bn).map fun j => ((j.ended || j.fenced) && !it.ended) || placesMeet (deferredPlaces it.deferred) (deferredPlaces j.deferred)).getD false))

/-- The operation of a copy that a fabric store starts. -/
def fabricOp (u : UnitId) (w : WorkUnit) (die : Nat) : EngOp :=
  { iss := .seq u, unit := some u, launch := some w.launch, job := w.job, asid := w.asid, die := die, row := .bte, byFabric := true,
    ser := false, ntf := false, body := .copy 0, warn := 0, conv := Flags.none, fault := none, waitsOn := [], fin := none }

/-- Start the copy of an aperture store (R178, R208). Where the channel has been revoked since the operator fired, none starts. -/
def fabricCopy (s : State) (o : EngOp) (ch tmpl : Nat) (ds dd : Int) : Got State :=
  if (chanOf s o.die ch).holder ≠ some o.asid then .ok s else (startCopy s o ch tmpl ds dd false).map fun r => r.1

/-- Perform a deferred effect of an instance, or find what keeps it from that: a write that waits, or a page of a copy's windows. -/
def applyDeferred (u : UnitId) (w : WorkUnit) (s : State) (d : Deferred) : Got State :=
  match d with
  | .store _ p bs fill =>
    let s1 := markExternal (writePhys s p bs) w.job p
    .ok (match (if fill then caddyOf p else none) with
      | some a => (List.range ((a % 16 + bs.length + 15) / 16)).foldl (fun s i => setFull s (a + 16 * i) true) s1
      | none => s1)
  | .copy _ die ch tmpl ds dd => fabricCopy s (fabricOp u w die) ch tmpl ds dd

/-- Perform deferred effects in wave order. -/
def applyAll (u : UnitId) (w : WorkUnit) : List Deferred → State → Got State
  | [], s => .ok s
  | d :: ds, s => (applyDeferred u w s d).bind (applyAll u w ds)

/-- Does a store of an instance wait before it is performed (R340, R353)? A change of mode that began after its issue does not hold it back (R309). -/
def deferredHeld (s : State) (n : Nat) (d : Deferred) : Bool :=
  match d with
  | .store _ p bs _ => undoFull s p bs.length || entryHeld s (some n) p bs.length
  | .copy _ _ _ _ _ _ => false

/-- A commit waits for a page of a copy's windows: the fault is recorded when it is first seen (R208, R332). -/
def commitFault (s : State) (n : Nat) (it : Inst) (w : WorkUnit) (cause : BitVec 16) (va : Nat) : State :=
  if cause = cMemUce then doomJob s w.job cMemUce
  else
    let v := BitVec.ofNat 64 va
    let place := it.deferred.findSome? fun d => match d with
      | .copy _ die ch _ _ _ => some (die, ch)
      | .store _ _ _ _ => none
    let s1 := { s with insts := kput s.insts n { it with fault := some (cause, v, s.tb) } }
    if (match it.fault with | some (c, a, _) => c = cause && a = v | none => false) then s1
    else recordEng s1 (fabricOp it.unit w ((place.map fun x => x.1).getD 0)) ((place.map fun x => x.2).getD 0) cause v

/-- May an instance commit: it has ended, and nothing but its stores' own waits keeps it from that (R31, R32)? -/
def instEnds (s : State) (it : Inst) (w : WorkUnit) : Bool :=
  (it.ended || (w.life = .bound && !w.cancelled && instDone s it)) && !orderHeld s it && !((instImage s it).map fun img => commitHeld s it img w).getD false

/-- The commit of an instance that has ended: all of its effects in wave order, or none of them yet (R31, R208). -/
def commitInst (s : State) (n : Nat) (it : Inst) (w : WorkUnit) : State :=
  if it.deferred.any (deferredHeld s n) then s
  else
    match applyAll it.unit w it.deferred { s with insts := kdel s.insts n } with
    | .ok s1 => s1
    | .waits _ => s
    | .bad c va => commitFault s n it w c va

/-- BLOCK_COMMIT: an instance that has ended commits in full: its stores in wave order, its copies started (R31, R32). -/
def blockCommit (s : State) (n : Nat) : State :=
  match kget s.insts n with
  | none => s
  | some it =>
    match kget s.units it.unit with
    | none => s
    | some w => if !instEnds s it w || it.fault.isSome then s else commitInst s n it w

/-- Commit the instances of a unit that have ended; one after another may (R32). -/
def commitEnded : Nat → State → UnitId → State
  | 0, s, _ => s
  | f + 1, s, u =>
    let s1 := s.insts.foldl (fun s n => if n.2.unit = u then blockCommit s n.1 else s) s
    if s1.insts.length = s.insts.length then s else commitEnded f s1 u

/-- What a save or a cancel of a unit finds: every instance that has ended commits in full (R32). One whose stores must still wait is marked, and commits
as soon as they may: behind an earlier instance that a save holds, once that has committed after the restore (R31, R80, R100); behind one that a cancel
discards, at once. -/
def settleEnded (s : State) (u : UnitId) : State :=
  let s1 := commitEnded (s.insts.length + 1) s u
  match kget s1.units u with
  | none => s1
  | some w =>
    if w.life = .bound && !w.cancelled then
      { s1 with insts := s1.insts.map fun n => if n.2.unit = u && instDone s1 n.2 then (n.1, { n.2 with ended := true }) else n }
    else s1

/-- XLAT_REWALK of an instance (R332): its withheld commit, or its withheld operation. -/
def waveRewalk (s : State) (n : Nat) : State :=
  match kget s.insts n with
  | none => s
  | some it =>
    match it.fault, kget s.units it.unit with
    | some (c, va, at_), some w =>
      match rewalk s w.asid (c, va, at_, .write) with
      | .early => s
      | .walks => commitInst s n it w
      | .fails => { s with insts := kput s.insts n { it with fault := some (c, va, s.tb) } }
    | _, _ => fireRewalk s n

/-- XLAT_REWALK of an engine's operation (R191, R332): where the walk succeeds, the operation goes on from its access. -/
def opRewalk (s : State) (n : Nat) : State :=
  match kget s.ops n with
  | none => s
  | some o =>
    match o.fault with
    | none => s
    | some f =>
      match rewalk s o.asid f with
      | .early => s
      | .walks => writeObject (modOp s n fun o => { o with fault := none }) n
      | .fails => modOp s n fun o => { o with fault := some (f.1, f.2.1, s.tb, f.2.2.2) }

end Sys2Proof.Machine
end

