-- ==== Sys2Proof/Machine/Image.lean ====
section
/-! DEFINITION. The configuration image (R103–R112): its sections taken apart, and the checks of Table 4.8 that look at the
image alone. -/

namespace Sys2Proof.Machine

/-- The load status codes of Table 4.8. -/
def ldHdr : Nat := 1
/-- OPC. -/
def ldOpc : Nat := 2
/-- FORM. -/
def ldForm : Nat := 3
/-- LIMIT. -/
def ldLimit : Nat := 4
/-- TYPE. -/
def ldType : Nat := 5
/-- WAVE. -/
def ldWave : Nat := 6
/-- MERGE. -/
def ldMerge : Nat := 7
/-- REPL. -/
def ldRepl : Nat := 8
/-- MARK. -/
def ldMark : Nat := 9
/-- CAP. -/
def ldCap : Nat := 10
/-- LFW. -/
def ldLfw : Nat := 11
/-- PLACE. -/
def ldPlace : Nat := 12
/-- BUSY. -/
def ldBusy : Nat := 13

/-- Is every arc of an image empty? -/
def Image.empty (img : Image) : Bool := img.arcs.all fun a => a.q.isEmpty

/-! ## The sections -/

/-- A block as it stands in an image (Table 4.3): its header fields and its words. -/
structure RawBlock where
  tdx : Int
  tdy : Int
  bsel : Bool
  mem : Bool
  nexit : Nat
  reserved : Bool
  ops : List (BitVec 64)
  rtrs : List (BitVec 64)
deriving DecidableEq, Repr

/-- A block whose words have been taken apart, with the marks of its slots. -/
structure ImgBlock where
  tdx : Int
  tdy : Int
  bsel : Bool
  mem : Bool
  nexit : Nat
  ops : List OpWord
  rtrs : List OpWord
  marks : Nat
deriving DecidableEq, Repr

/-- A route-table entry (Table 4.7). -/
structure Route where
  sblk : Nat
  srtr : Bool
  sslot : Nat
  stgt : Nat
  dblk : Nat
  dtgt : BitVec 9
  cap : Nat
  depth : Nat
  port : Nat
deriving DecidableEq, Repr

/-- A stream-port binding (R111). -/
structure RawPort where
  kind : Nat
  eng : Nat
  chan : Nat
  reserved : Bool
deriving DecidableEq, Repr

/-- A lane-file window entry (R112). -/
structure LfWin where
  blk : Nat
  slot : Nat
  base : Nat
  len : Nat
  reserved : Bool
deriving DecidableEq, Repr

/-- The sections of an image. -/
structure RawImage where
  jib : Bool
  exact : Bool
  graphid : Word
  blocks : List RawBlock
  routes : List Route
  ports : List RawPort
  marks : List Nat
  lfws : List LfWin
deriving Repr

/-- A field [hi:lo] of a number. -/
def bitsOf (x hi lo : Nat) : Nat := x / 2 ^ lo % 2 ^ (hi + 1 - lo)

/-- Read `n` 64-bit words at an offset. -/
def wordsAt (bs : List Byte) (off : Nat) : Nat → List (BitVec 64)
  | 0 => []
  | n + 1 => BitVec.ofNat 64 (fieldAt bs off 8) :: wordsAt bs (off + 8) n

/-- Read the blocks from an offset on, up to the end of the image; none where they run past it. -/
def readBlocks (bs : List Byte) (len : Nat) : Nat → Nat → Option (List RawBlock)
  | 0, _ => some []
  | n + 1, off =>
    if len < off + 8 then none
    else
      let h := fieldAt bs off 8
      let nops := bitsOf h 63 59 + 1
      let nrtr := bitsOf h 58 53
      let next := off + 8 + 8 * (nops + nrtr)
      if len < next then none
      else
        let sx (v : Nat) : Int := if v < 4 then v else (v : Int) - 8
        let b : RawBlock :=
          { tdx := sx (bitsOf h 52 50), tdy := sx (bitsOf h 49 47), bsel := bitsOf h 46 46 = 1, mem := bitsOf h 45 45 = 1,
            nexit := bitsOf h 44 37, reserved := bitsOf h 36 0 ≠ 0, ops := wordsAt bs (off + 8) nops, rtrs := wordsAt bs (off + 8 + 8 * nops) nrtr }
        (readBlocks bs len n next).map fun rest => b :: rest

/-- A route-table entry. -/
def readRoute (w : BitVec 64) : Route :=
  let x := w.toNat
  { sblk := bitsOf x 63 52, srtr := bitsOf x 51 51 = 1, sslot := bitsOf x 50 46, stgt := bitsOf x 45 44, dblk := bitsOf x 43 32,
    dtgt := w.extractLsb' 23 9, cap := bitsOf x 22 20, depth := bitsOf x 19 15, port := bitsOf x 14 0 }

/-- A stream-port binding. -/
def readPort (w : BitVec 64) : RawPort :=
  let x := w.toNat
  { kind := bitsOf x 63 60, eng := bitsOf x 59 56, chan := bitsOf x 55 48, reserved := bitsOf x 47 0 ≠ 0 }

/-- A lane-file window entry. -/
def readLfw (w : BitVec 64) : LfWin :=
  let x := w.toNat
  { blk := bitsOf x 63 52, slot := bitsOf x 51 47, base := bitsOf x 45 34, len := bitsOf x 33 22, reserved := bitsOf x 46 46 ≠ 0 || bitsOf x 21 0 ≠ 0 }

/-- Does a section of `n` entries of `size` bytes lie within the image at a multiple of 8? A section without entries may lie anywhere. -/
def sectionOk (len off n size : Nat) : Bool := n = 0 || (off % 8 = 0 && off + n * size ≤ len)

/-- Take an image apart; none where R103 rejects it. -/
def readImage (bs : List Byte) : Option RawImage :=
  let f (off n : Nat) := fieldAt bs off n
  let len := f 0x08 4
  let nblk := f 0x0C 2
  let narc := f 0x0E 2
  let nport := f 0x1C 2
  let nlfw := f 0x1E 2
  let ok := f 0x00 4 = 0x4E415843 && f 0x05 1 = 1 && bs.length = len && len % 64 = 0 && 64 ≤ len && len ≤ 0x400000 &&
    1 ≤ nblk && nblk ≤ 4095 && nport ≤ 4095 && nlfw ≤ 4095 &&
    sectionOk len (f 0x10 4) nblk 16 && sectionOk len (f 0x14 4) narc 8 && sectionOk len (f 0x18 4) nport 8 &&
    sectionOk len (f 0x20 4) nblk 16 && sectionOk len (f 0x24 4) nlfw 8
  let crcOk := crc32c (bs.take 0x30 ++ List.replicate 4 0 ++ bs.drop 0x34) = BitVec.ofNat 32 (f 0x30 4)
  if ok && crcOk then
    (readBlocks bs len nblk (f 0x10 4)).map fun blocks =>
      { jib := f 0x06 2 % 2 = 1, exact := f 0x06 2 / 2 % 2 = 1, graphid := BitVec.ofNat 64 (f 0x28 8), blocks := blocks,
        routes := (wordsAt bs (f 0x14 4) narc).map readRoute, ports := (wordsAt bs (f 0x18 4) nport).map readPort,
        marks := (List.range nblk).map fun i => f (f 0x20 4 + 16 * i) 16, lfws := (wordsAt bs (f 0x24 4) nlfw).map readLfw }
  else none

/-! ## Opcodes and words (R105, R115) -/

/-- The first unassigned opcode, in block-then-slot order, as (block, slot or router): a router's number goes into the five bits of the slot (R113;
DEDUCED, log entry 31). -/
def firstUnassigned (blocks : List RawBlock) : Option (Nat × Nat) :=
  let bad (w : BitVec 64) : Bool := (Opc.ofCode (w.extractLsb' 56 8)).isNone
  (blocks.zipIdx).findSome? fun bi =>
    match bi.1.ops.findIdx? bad, bi.1.rtrs.findIdx? bad with
    | some i, _ => some (bi.2, i)
    | none, some i => some (bi.2, i % 32)
    | none, none => none

/-- Take the words of a list apart; none where one has a reserved field set. -/
def decodeWords : List (BitVec 64) → Option (List OpWord)
  | [] => some []
  | w :: ws =>
    match decodeOp w, decodeWords ws with
    | .ok o, some os => some (o :: os)
    | _, _ => none

/-- Take the blocks apart; none where a reserved field is set or a word stands in the wrong group (R105). -/
def decodeBlocks : List RawBlock → List Nat → Option (List ImgBlock)
  | [], _ => some []
  | b :: bs, ms =>
    match decodeWords b.ops, decodeWords b.rtrs, decodeBlocks bs ms.tail with
    | some os, some rs, some rest =>
      if b.reserved || os.any (fun w => isRouter w.opc) || rs.any (fun w => !isRouter w.opc) then none
      else some ({ tdx := b.tdx, tdy := b.tdy, bsel := b.bsel, mem := b.mem, nexit := b.nexit, ops := os, rtrs := rs, marks := ms.headD 0 } :: rest)
    | _, _, _ => none

/-- A mark of a slot (R110): 0 exact, 1 commutative, 2 triplicated, 3 voter. -/
def ImgBlock.mark (b : ImgBlock) (slot k : Nat) : Bool := b.marks / 2 ^ (4 * slot + k) % 2 = 1

/-- The targets of a word. -/
def targetsOf (w : OpWord) : List Target := [w.t0, w.t1, w.t2, w.t3]

/-! ## Arcs (R107, R109) -/

/-- The consumer that a target of kind 01 or 11 names in a block. -/
def consumerOf (blk : Nat) : Target → Option ArcEnd
  | .op s p => some (.op blk s.toNat p.toNat)
  | .rtr r p => some (.rtr blk r.toNat p.toNat)
  | _ => none

/-- Does a consumer port exist: its slot or router stands in its block, and the word uses the port as an arc's end? -/
def portExists (bs : List ImgBlock) : ArcEnd → Bool
  | .op b s p => match bs[b]? with
    | some k => match k.ops[s]? with
      | some w => (arcPorts w).contains p
      | none => false
    | none => false
  | .rtr b r p => match bs[b]? with
    | some k => match k.rtrs[r]? with
      | some w => p < portCount w
      | none => false
    | none => false
  | .port _ => false

/-- Every producer target of an image: (block, is it a router, slot, target index, target). -/
def allTargetsOf (bs : List ImgBlock) : List (Nat × Bool × Nat × Nat × Target) :=
  bs.zipIdx.flatMap fun bi =>
    let of (rtr : Bool) (ws : List OpWord) : List (Nat × Bool × Nat × Nat × Target) := ws.zipIdx.flatMap fun wi => (targetsOf wi.1).zipIdx.map fun ti => (bi.2, rtr, wi.2, ti.2, ti.1)
    of false bi.1.ops ++ of true bi.1.rtrs

/-- The entry of a producer target. -/
def routeOf (rs : List Route) (b : Nat) (rtr : Bool) (s t : Nat) : Option Route :=
  rs.find? fun r => r.sblk = b && r.srtr == rtr && r.sslot = s && r.stgt = t

/-- The end that an entry's destination names. -/
def Route.dest (r : Route) : Option ArcEnd :=
  if r.dblk = 0xFFF then some (.port r.port)
  else match Target.ofBits r.dtgt with
    | some t => consumerOf r.dblk t
    | none => none

/-- CAP as a capacity (R109). -/
def capOf (c : Nat) : Nat := if c = 0 then 2 else c

/-- The producer end of a target. -/
def producerEnd (b : Nat) (rtr : Bool) (s t : Nat) : ArcEnd := if rtr then .rtr b s t else .op b s t

/-- Is this an end at a slot marked triplicated (R110)? -/
def tripledAt (bs : List ImgBlock) : ArcEnd → Bool
  | .op b s _ => ((bs[b]?).map fun k => k.mark s 2).getD false
  | _ => false

/-- The end at copy `k` of a triplicated slot (R362). -/
def ArcEnd.copyOf (k : Nat) : ArcEnd → ArcEnd
  | .op b s i => .op b (s + 32 * k) i
  | d => d

/-- An arc as the loader makes it (R362): what comes into a triplicated slot fans out to its three copies, each copy has its own arcs to the copies that
follow it, and at a `vote3` copy 0 comes to port a, copy 1 to port b and copy 2 to port c (R183). What else a triplicated slot leads to takes copy 0
(DESIGN CHOICE, log entry 145). -/
def copyArcs (bs : List ImgBlock) (arcs : List Arc) (a : Arc) : List Arc :=
  let votes (d : ArcEnd) : Option (Nat × Nat × Nat) := match d with
    | .op b s p => if (((bs[b]?).bind fun k => k.ops[s]?).map fun w => w.opc == .vote3).getD false then some (b, s, p) else none
    | _ => none
  match tripledAt bs a.src, tripledAt bs a.dst with
  | false, false => [a]
  | false, true => (List.range 3).map fun k => { a with dst := a.dst.copyOf k }
  | true, true => (List.range 3).map fun k => { a with src := a.src.copyOf k, dst := a.dst.copyOf k }
  | true, false =>
    match votes a.dst with
    | none => [a]
    | some (b, s, p) =>
      if arcs.any fun c => c.dst ≠ a.dst && c.dst.site = a.dst.site then [{ a with src := a.src.copyOf p }]
      else (List.range 3).map fun k => { a with src := a.src.copyOf k, dst := .op b s k }

/-- The arcs of an image: internal ones, exit arcs, and those from stream ports; an arc without a destination is left out. Entries from one
stream port start one arc each (DESIGN CHOICE, log entry 114). -/
def imageArcs (bs : List ImgBlock) (rs : List Route) : List Arc :=
  let mem (b : Nat) : Bool := match bs[b]? with | some k => k.ops.any fun w => isMemOp w.opc | none => false
  let mk (src dst : ArcEnd) (r : Option Route) (entry : Bool) : Arc :=
    { src := src, dst := dst, cap := (r.map fun x => capOf x.cap).getD 2, depth := (r.map fun x => x.depth).getD 0, entry := entry,
      leavesMem := entry && (match src.blk with | some b => mem b | none => false), count := 0, hcount := 0, q := [] }
  let inner := (allTargetsOf bs).filterMap fun (b, rtr, s, t, tg) =>
    let r := routeOf rs b rtr s t
    match tg with
    | .none => none
    | .exit _ => (r.bind Route.dest).map fun d => mk (producerEnd b rtr s t) d r (match d with | .port _ => false | _ => true)
    | _ => (consumerOf b tg).map fun d => mk (producerEnd b rtr s t) d r false
  let fromPorts := rs.filterMap fun r => if r.sblk = 0xFFF then r.dest.map fun d => mk (.port r.port) d (some r) true else none
  (inner ++ fromPorts).flatMap (copyArcs bs (inner ++ fromPorts))

/-- Are the elements of a list all different? -/
def distinct {α : Type} [DecidableEq α] : List α → Bool
  | [] => true
  | x :: xs => !xs.contains x && distinct xs

/-- The limits of a binding (Table 8.1). -/
def RawPort.ok (p : RawPort) : Bool :=
  !p.reserved && match p.kind with
  | 0 | 1 => p.chan < 16
  | 2 => p.eng = 0 && p.chan < 32
  | 3 | 4 | 5 => p.eng = 0 && p.chan < 16
  | _ => false

/-- Is an entry one that R109 admits? One that names no producer of the image, or an internal arc and another destination than its target, is not
(DESIGN CHOICE, log entry 113). -/
def routeOk (bs : List ImgBlock) (ports : List RawPort) (r : Route) : Bool :=
  let fromPort : Bool := r.sblk = 0xFFF
  let toPort : Bool := r.dblk = 0xFFF
  let kind := (ports[r.port]?).map fun p => p.kind
  let usesPort := fromPort || toPort
  let portOk : Bool := if usesPort then
      match kind with
      | none => false
      | some k => (!fromPort || k = 0 || k = 4 || k = 5) && (!toPort || k = 1 || k = 2 || k = 3)
    else r.port = 0
  let destOk : Bool := if toPort then r.dtgt = 0 else match r.dest with | some d => portExists bs d | none => false
  let tgt : Option Target := if fromPort then none else (bs[r.sblk]?).bind fun b => ((if r.srtr then b.rtrs else b.ops)[r.sslot]?).bind fun w => (targetsOf w)[r.stgt]?
  let srcOk : Bool := fromPort || match tgt with
    | none => false
    | some .none => false
    | some (.exit _) => true
    | some t => r.dblk = r.sblk && r.dest == consumerOf r.sblk t
  portOk && destOk && srcOk

/-- The checks that reject an image with FORM, its words having been taken apart (R106, R107, R109, R111, R112, R169, R186). -/
def formOk (bs : List ImgBlock) (im : RawImage) : Bool :=
  let arcs := imageArcs bs im.routes
  (bs.all fun b => (b.ops ++ b.rtrs).all fun w => (w.imm.isNone || admitsImm w) && (w.opc ≠ .sink || (targetsOf w).all fun t => t = .none)) &&
    ((allTargetsOf bs).all fun (b, rtr, s, t, tg) => match tg with
      | .none => true
      | .exit _ => (routeOf im.routes b rtr s t).isSome
      | _ => match consumerOf b tg with | some d => portExists bs d | none => false) &&
    im.routes.all (routeOk bs im.ports) &&
    distinct (im.routes.filterMap fun r => if r.sblk = 0xFFF then none else some (r.sblk, r.srtr, r.sslot, r.stgt)) &&
    distinct (arcs.map fun a => a.dst) &&
    im.ports.all RawPort.ok && im.lfws.all (fun l => !l.reserved) &&
    bs.zipIdx.all fun bi => bi.1.ops.zipIdx.all fun wi =>
      wi.1.opc ≠ .emit || arcs.any fun a => a.dst = .op bi.2 wi.2 2 && match a.src with
        | .port n => ((im.ports[n]?).map fun p => p.kind) = some 5
        | _ => false

/-! ## LIMIT, TYPE, REPL, MARK, MERGE -/

/-- The slot that a router's T0 names, of kind 01 (R25). -/
def t0Slot (w : OpWord) : Option Nat := match w.t0 with | .op s _ => some s.toNat | _ => none

/-- The tile of a block of an image loaded onto a tile, if it lies on the die (R104). -/
def blockTile (tile : Nat) (tdx tdy : Int) : Option Nat :=
  let x : Int := (tile % 8 : Nat) + tdx
  let y : Int := (tile / 8 : Nat) + tdy
  if 0 ≤ x ∧ x ≤ 7 ∧ 0 ≤ y ∧ y ≤ 7 then some (8 * y.toNat + x.toNat) else none

/-- The checks of LIMIT (R25, R30, R104); `others` holds the (tile, BSEL) of the blocks of other images in the plane. -/
def limitOk (bs : List ImgBlock) (tile : Nat) (others : List (Nat × Bool)) : Bool :=
  let places := bs.map fun b => (blockTile tile b.tdx b.tdy, b.bsel)
  (bs.all fun b => (blockTile tile b.tdx b.tdy).isSome && b.rtrs.length ≤ 32 && b.nexit ≤ 128 && b.rtrs.length ≤ b.ops.length &&
      ((b.ops ++ b.rtrs).all fun w => (targetsOf w).all fun t => match t with | .exit n => n.toNat < b.nexit | _ => true) &&
      distinct (b.rtrs.filterMap t0Slot)) &&
    distinct places && places.all fun p => !others.any fun o => p = (some o.1, o.2)

/-- The checks of TYPE (R102). -/
def typesOk (bs : List ImgBlock) : Bool := bs.all fun b => (b.ops ++ b.rtrs).all fun w => admitsType w.opc w.ty

/-- The checks of REPL (R24, R33, R183). -/
def replOk (bs : List ImgBlock) : Bool :=
  bs.all fun b => (b.rtrs.all fun w => w.repl = 0) &&
    b.ops.zipIdx.all fun wi => wi.1.repl = 0 || !(wi.1.opc = .monwait || wi.1.opc = .vote3 || b.mark wi.2 3 || b.mark wi.2 2)

/-- The checks of MARK (R110). -/
def marksOk (bs : List ImgBlock) (exact : Bool) : Bool :=
  bs.all fun b => b.ops.zipIdx.all fun wi =>
    !(b.mark wi.2 3 && (wi.1.opc ≠ .vote3 || b.mark wi.2 2)) &&
      !((exact || b.mark wi.2 0) && isFw40Group wi.1.opc && wi.1.mod.getLsbD 7)

/-- Is an operator of the exact-commutative class (R168)? -/
def commutes (bs : List ImgBlock) (arcs : List Arc) (b s : Nat) (w : OpWord) : Bool :=
  match w.opc with
  | .redFx | .amoFadd | .sink => true
  | .amoAdd | .amoAnd | .amoOr | .amoXor | .amoMin | .amoMax | .amoMinu | .amoMaxu => w.t0 = .none && w.t1 = .none
  | .join => (arcPorts w).all fun p => arcs.all fun a => a.dst ≠ .op b s p || match a.src with
      | .rtr b' r _ => match bs[b']? with
        | some k => match k.rtrs[r]? with | some x => x.opc = .mergeArr | none => false
        | none => false
      | _ => false
  | _ => false

/-- The checks of MERGE (R28). -/
def mergesOk (bs : List ImgBlock) (im : RawImage) : Bool :=
  let arcs := imageArcs bs im.routes
  bs.zipIdx.all fun bi => bi.1.rtrs.all fun r => r.opc ≠ .mergeArr ||
    match t0Slot r with
    | none => false
    | some s => r.t1 = .none && r.t2 = .none && r.t3 = .none && (im.exact || bi.1.mark s 0) && bi.1.mark s 1 &&
        match bi.1.ops[s]? with
        | some w => commutes bs arcs bi.2 s w
        | none => false

/-! ## Wave chains (R77) -/

/-- A node of a block: an operator or router. -/
def nodeOf : ArcEnd → Option (Bool × Nat)
  | .op _ s _ => some (false, s % 32)
  | .rtr _ r _ => some (true, r)
  | .port _ => none

/-- The arcs of a block that stay within it. -/
def innerArcs (arcs : List Arc) (b : Nat) : List Arc := arcs.filter fun a => !a.entry && a.src.blk = some b && a.dst.blk = some b

/-- Does the producer of an arc emit on it, on a path where the routers of `side` take their true arc? -/
def emitsOn (b : ImgBlock) (side : Nat → Bool) : ArcEnd → Bool
  | .rtr _ r t => match b.rtrs[r]? with
    | some w => w.opc ≠ .steer || side r == decide (t < 2)
    | none => false
  | _ => true

/-- Which nodes of a block fire on a path, after `n` rounds: a node fires when what it needs arrives from outside or from nodes that fire. -/
def firesIn (b : ImgBlock) (bi : Nat) (arcs : List Arc) (side : Nat → Bool) : Nat → List (Bool × Nat)
  | 0 => []
  | n + 1 =>
    let prev := firesIn b bi arcs side n
    let arrives (d : ArcEnd) : Bool := arcs.any fun a => a.dst = d &&
      (a.entry || match nodeOf a.src with | some k => prev.contains k && emitsOn b side a.src | none => true)
    let opFires (i : Nat) (w : OpWord) : Bool := (arcPorts w).all fun p => arrives (.op bi i p)
    let rtrFires (i : Nat) (w : OpWord) : Bool :=
      let at_ (p : Nat) := arrives (.rtr bi i p)
      match w.opc with
      | .mergeOrd => at_ 2 && (at_ 0 || at_ 1)
      | .mergeArr => at_ 0 || at_ 1
      | .carry => at_ 0 || (at_ 1 && at_ 2)
      | _ => at_ 0 && at_ 1
    (b.ops.zipIdx.filterMap fun wi => if opFires wi.2 wi.1 then some (false, wi.2) else none) ++
      (b.rtrs.zipIdx.filterMap fun wi => if rtrFires wi.2 wi.1 then some (true, wi.2) else none)

/-- The nodes reached from a node along inner arcs within `n` steps. -/
def reach (inner : List Arc) : Nat → List (Bool × Nat) → List (Bool × Nat)
  | 0, ks => ks
  | n + 1, ks =>
    reach inner n (ks ++ (inner.filterMap fun a => match nodeOf a.src, nodeOf a.dst with
      | some x, some y => if ks.contains x && !ks.contains y then some y else none
      | _, _ => none))

/-- The nodes that follow a node directly. -/
def nextNodes (inner : List Arc) (k : Bool × Nat) : List (Bool × Nat) :=
  inner.filterMap fun a => if nodeOf a.src = some k then nodeOf a.dst else none

/-- Insert a word by its own number. -/
def insertWave (w : OpWord) : List OpWord → List OpWord
  | [] => [w]
  | x :: xs => if w.ww.toNat ≤ x.ww.toNat then w :: x :: xs else x :: insertWave w xs

/-- Do consecutive memory operations of a path name each other (R77, point 4)? -/
def chained : List OpWord → Bool
  | x :: y :: rest =>
    (x.ws = y.ww || x.ws = 63) && (y.wp = x.ww || y.wp = 63) && !(x.ws = 63 && y.wp = 63) && x.ww.toNat < y.ww.toNat && chained (y :: rest)
  | _ => true

/-- Does the path's chain begin with P = 0 and end with S = 0 (R77, point 3)? -/
def chainEnds (ws : List OpWord) : Bool :=
  match ws.head?, ws.getLast? with
  | some x, some y => x.wp = 0 && y.ws = 0
  | _, _ => true

/-- Every choice of sides at `n` routers. -/
def sides : Nat → List (List Bool)
  | 0 => [[]]
  | n + 1 => (sides n).flatMap fun s => [true :: s, false :: s]

/-- The checks of WAVE on one block. -/
def blockWaves (b : ImgBlock) (bi : Nat) (arcs : List Arc) : Bool :=
  let mems := b.ops.zipIdx.filter fun wi => isMemOp wi.1.opc
  let inner := innerArcs arcs bi
  let size := b.ops.length + b.rtrs.length
  let after (i : Nat) : List (Bool × Nat) := reach inner size (nextNodes inner (false, i))
  let steers := (b.rtrs.zipIdx.filter fun wi => wi.1.opc = .steer).map fun wi => wi.2
  if mems.isEmpty then true
  else
    b.mem && distinct (mems.map fun wi => wi.1.ww) && (mems.all fun wi => 1 ≤ wi.1.ww.toNat && wi.1.ww.toNat ≤ 62) &&
      (mems.all fun wi => !(after wi.2).contains (false, wi.2)) &&
      (sides steers.length).all fun ch =>
        let side (r : Nat) : Bool := match steers.findIdx? fun k => k = r with | some i => ch.getD i true | none => true
        let fires := firesIn b bi arcs side (size + 1)
        let on := mems.filter fun wi => fires.contains (false, wi.2)
        let ws := on.foldl (fun acc wi => insertWave wi.1 acc) []
        chained ws && chainEnds ws &&
          on.all fun x => on.all fun y => !(after x.2).contains (false, y.2) || x.1.ww.toNat < y.1.ww.toNat

/-- The checks of WAVE (R77, R104). -/
def wavesOk (bs : List ImgBlock) (im : RawImage) : Bool :=
  let arcs := imageArcs bs im.routes
  bs.zipIdx.all fun bi => blockWaves bi.1 bi.2 arcs

/-! ## CAP and LFW -/

/-- The checks of CAP (R109). -/
def capsOk (im : RawImage) : Bool := im.routes.all fun r => r.cap < 5

/-- The checks of LFW that need no placement (R112). LEN = 0 is one of them (DESIGN CHOICE, log entry 115). -/
def lfwOk (bs : List ImgBlock) (im : RawImage) : Bool :=
  (im.lfws.all fun l => 1 ≤ l.len && l.base + l.len ≤ 2457 &&
      match bs[l.blk]? with
      | some b => match b.ops[l.slot]? with | some w => isLaneFile w.opc | none => false
      | none => false) &&
    bs.zipIdx.all fun bi => bi.1.ops.zipIdx.all fun wi =>
      !isLaneFile wi.1.opc || (im.lfws.filter fun l => l.blk = bi.2 && l.slot = wi.2).length = 1

/-- The first status among the checks that need no placement, in ascending order (R113); 0 where none fails. -/
def staticStatus (bs : List ImgBlock) (im : RawImage) (tile : Nat) (others : List (Nat × Bool)) : Nat :=
  if !formOk bs im then ldForm
  else if !limitOk bs tile others then ldLimit
  else if !typesOk bs then ldType
  else if !wavesOk bs im then ldWave
  else if !mergesOk bs im then ldMerge
  else if !replOk bs then ldRepl
  else if !marksOk bs im.exact then ldMark
  else if !capsOk im then ldCap
  else if !lfwOk bs im then ldLfw
  else 0

/-! ## Balancing (R23, R271) -/

/-- A path of R271: its first arc, its last arc, and the operators passed. -/
structure Path where
  first : Nat
  last : Nat
  passed : Nat
deriving DecidableEq, Repr

/-- The producer or consumer of an arc's end. -/
def ArcEnd.node : ArcEnd → Option (Bool × Nat × Nat)
  | .op b s _ => some (false, b, s)
  | .rtr b r _ => some (true, b, r)
  | .port _ => none

/-- The paths that go on from arc `i` through operator slots, not through those in `seen`. -/
def pathsFrom (arcs : List Arc) (first : Nat) : Nat → List (Bool × Nat × Nat) → Nat → Nat → List Path
  | 0, _, _, _ => []
  | f + 1, seen, i, passed =>
    match arcs[i]? with
    | none => []
    | some a =>
      match a.dst.node with
      | none => []
      | some k =>
        if seen.contains k then []
        else
          { first := first, last := i, passed := passed } ::
            (if k.1 then []
             else arcs.zipIdx.flatMap fun bi =>
               if bi.1.src.node = some k then pathsFrom arcs first f (k :: seen) bi.2 (passed + 1) else [])

/-- Every path that starts at a target of a producer. -/
def pathsOf (arcs : List Arc) (p : Bool × Nat × Nat) : List Path :=
  arcs.zipIdx.flatMap fun ai => if ai.1.src.node = some p then pathsFrom arcs ai.2 (arcs.length + 1) [p] ai.2 0 else []

/-- The depth that the paths of one producer ask of arc `i`. -/
def raiseOf (arcs : List Arc) (ps : List Path) (i : Nat) : Nat :=
  ps.foldl (fun m x => if x.last ≠ i then m else
    ps.foldl (fun m y =>
      if y.first ≠ x.first && y.last ≠ i && ((arcs[y.last]?).bind fun a => a.dst.node) == ((arcs[i]?).bind fun a => a.dst.node) then
        max m (y.passed - x.passed) else m) m) 0

/-- Is this the k port of a `merge.ord` or of a `carry`, whose arc is never raised? -/
def controlPort (bs : List ImgBlock) : ArcEnd → Bool
  | .rtr b r 2 => match bs[b]? with
    | some k => match k.rtrs[r]? with | some w => w.opc = .mergeOrd || w.opc = .carry | none => false
    | none => false
  | _ => false

/-- The arcs with the depths of R23. -/
def balance (bs : List ImgBlock) (arcs : List Arc) : List Arc :=
  let producers := (arcs.filterMap fun a => a.src.node).foldl (fun acc k => if acc.contains k then acc else k :: acc) []
  let paths := producers.map fun k => pathsOf arcs k
  arcs.zipIdx.map fun ai =>
    if controlPort bs ai.1.dst then ai.1
    else { ai.1 with depth := max ai.1.depth (min 31 (paths.foldl (fun m ps => max m (raiseOf arcs ps ai.2)) 0)) }

end Sys2Proof.Machine
end

