-- ==== Sys2Proof/Machine/Cancel.lean ====
section
/-! DEFINITION. Cancel at every level (R41, R42, R230), the kill of a job (R101, R318, R335), and the end of units (R39, R40, R204,
R331). -/

namespace Sys2Proof.Machine

/-! ## Cancelling operations (R230) -/

/-- Is this a command that a cancel runs to completion: a dead-region command, an `fxregion` or a `sync` (Table 8.17)? -/
def OpBody.runsOn : OpBody → Bool
  | .sync _ _ => true
  | .later c _ => match Sopc.ofCode (cmdOpc c) with
    | some .fxregion | some .deadSet | some .deadClr | some .sync => true
    | _ => false
  | .settled e => match e with
    | .region _ _ _ | .dead _ _ => true
    | _ => false
  | _ => false

/-- The operations of a level that a cancel ends with STATUS 7 before it cuts a copy of the level: what waits on the windows of such a copy, another copy of
the level too, is cancelled and meets no poison (R91, R230). -/
def endOps (s : State) (which : EngOp → Bool) : State :=
  s.ops.foldl (fun s o =>
    if which o.2 && !o.2.body.runsOn then
      match o.2.body with
      | .copy _ => modOp s o.1 fun o => { o with waitsOn := [] }
      | .object _ _ _ => s
      | _ => abortOp s o.1 stCancel
    else s) s

/-- End the operations that a cancel reaches with STATUS 7; the tiles of a copy end under R212. -/
def cancelOps (s : State) (which : EngOp → Bool) : State :=
  s.ops.foldl (fun s o =>
    if which o.2 && !o.2.body.runsOn then
      match o.2.body with
      | .copy ch =>
        let upTo := (chanOf s o.2.die ch).copies.foldl (fun a k => if k.op = o.1 then k.first + k.def_.ntile else a) 0
        cutCopies s o.2.die ch upTo stCancel fun k => k.op = o.1
      | _ => abortOp s o.1 stCancel
    else s) (endOps s which)

/-- Is an operation one of a `cmd` of some units? -/
def EngOp.ofUnits (o : EngOp) (us : List UnitId) : Bool := o.unit.any us.contains

/-! ## Cancelling units (R41) -/

/-- The keys of the images that belong to a unit (R246). -/
def imagesOf (s : State) (u : UnitId) : List Nat := (s.images.filter fun x => x.2.unit = u).map fun x => x.1

/-! ### When a unit has ended (R39, R42) -/

/-- Has a stream port delivered its end mark (Table 8.18)? The arcs of the unit are looked at apart. -/
def portDelivered (s : State) (u : UnitId) (w : WorkUnit) (img : Image) (p : PortBind) : Bool :=
  match p.kind with
  | 0 | 1 => !(let x := streamOf s img.die p.eng p.chan
               x.unit = u && (x.running.isSome || !x.queued.isEmpty))
  | 3 => !(s.ops.any fun o => o.2.job = w.job && o.2.die = img.die && match o.2.body with
      | .task t => t.queue = p.chan && t.act.isNone && o.2.fin.isNone && !(t.mxe.isSome && t.fed)
      | _ => false)
  | 4 => !(s.ops.any fun o => o.2.job = w.job && o.2.die = img.die && match o.2.body with
      | .task t => t.queue = p.chan && t.out.isNone
      | _ => false) && (((chainOf s { kind := .mxq, die := img.die, num := p.chan }).bound.map fun b => b.job ≠ w.job || b.streamed.isEmpty).getD true)
  | 5 => img.blocks.all fun b => b.ops.all fun o => o.pend.isEmpty
  | _ => true

/-- Has no operation that a unit issued still to reach its completion object (R39)? -/
def opsDone (s : State) (u : UnitId) : Bool :=
  !(s.ops.any fun o => o.2.unit = some u && match o.2.iss with
    | .seq _ => true
    | .chain _ _ => false)

/-- Does a unit that no cancel has reached meet R39? -/
def unitDone (s : State) (u : UnitId) (w : WorkUnit) : Bool :=
  w.life = .bound && w.seq = .ended && opsDone s u &&
    (s.images.all fun x => x.2.unit ≠ u || (x.2.empty && x.2.ports.all (portDelivered s u w x.2))) &&
    !(s.insts.any fun n => n.2.unit = u)

/-- The status with which a unit ends (R40). -/
def WorkUnit.endStatus (w : WorkUnit) : LvlStatus := if w.faulted then .faulted else if w.cancelled then .cancelled else .done

/-- A unit ends (R40); what it had opened on its sheaves and not ended is gone. -/
def endUnit (s : State) (u : UnitId) (w : WorkUnit) : State :=
  unitEnds { s with streams := s.streams.map fun x => if x.2.unit = u then (x.1, { x.2 with opened := none }) else x } u w w.endStatus

/-- A completion that meets a cancel or a reset is counted first (R42): a unit that meets R39 ends. -/
def countFirst (s : State) (u : UnitId) : State :=
  match kget s.units u with
  | none => s
  | some w => if !w.cancelled && unitDone s u w then endUnit s u w else s

/-- The units of a launch. -/
def unitsOf (s : State) (lid : Nat) : List UnitId := (s.units.filter fun u => u.2.launch = lid).map fun u => u.1

/-! ### The cancel -/

/-- An image whose tokens and firings under way are discarded; every `carry` returns to IDLE and every `csum.col` to zero (R41, R167, R185). -/
def Image.discarded (img : Image) : Image :=
  { img with
    arcs := img.arcs.map fun a => { a with q := [] }
    blocks := img.blocks.map fun b => { b with
      ops := b.ops.map fun o => { o with pend := [], stopped := [], copies := o.copies.map fun c => { c with acc := Vector.replicate 16 0, cnt := 0 } }
      rtrs := b.rtrs.map fun r => { r with loop := false } } }

/-- Discard the tokens and the block instances of a unit, but for those that had ended: they commit as soon as they may, also where a fault of a copy's
window withholds that (R32, R41, R332). -/
def discardWork (s : State) (u : UnitId) : State :=
  let gone := (s.insts.filter fun n => n.2.unit = u).flatMap fun n => n.2.waiting.map fun x => 2 * x.op + 1
  { s with
    images := s.images.map fun x => if x.2.unit = u then (x.1, x.2.discarded) else x
    insts := s.insts.filter fun n => n.2.unit ≠ u || n.2.ended
    watches := s.watches.filter fun w => !gone.contains w.1 }

/-- Discard a unit's save record: NUNIT falls (R316, R342), and the stream records that it held end (R230). -/
def discardSave (s : State) (u : UnitId) (w : WorkUnit) : State :=
  match kget s.saves u, kget s.jobs w.job with
  | some r, some j =>
    let s1 := r.streams.foldl (fun s x => endHeld s (x.1 % 256) x.2) { s with saves := kdel s.saves u }
    if r.reason = 3 ∨ w.forBoundary then s1 else setNunit s1 w.job (j.nunit - 1)
  | _, _ => s

/-- Stop a unit (R41): its instances that have ended commit, its tokens, open instances and save record are discarded, and its operations end. -/
def stopUnit (s0 : State) (u : UnitId) : State :=
  let s := settleEnded s0 u
  match kget s.units u with
  | none => s
  | some w =>
    let s1 := discardSave s u w
    let s2 := { s1 with units := kput s1.units u { w with cancelled := true, life := .bound, held := none, feWait := none, winWait := [], req := false },
                        ops := match w.feWait with | some n => (if emptying s1 n then kdel s1.ops n else s1.ops) | none => s1.ops,
                        watches := kdel s1.watches (2 * u) }
    let s3 := clearHalts (commitEnded (s2.insts.length + 1) (discardWork s2 u) u) u
    cancelOps { s3 with streams := s3.streams.map fun x => if x.2.unit = u then (x.1, { x.2 with opened := none }) else x } fun o => o.unit = some u

/-- Cancel a unit (R41). A completion that it meets is counted first (R42). It ends once no operation of it is left. -/
def cancelUnit (s0 : State) (u : UnitId) : State :=
  let s := countFirst s0 u
  match kget s.units u with
  | none => s
  | some w => if w.cancelled then s else stopUnit s u

/-- Cancel a launch (R41): no further unit of it is bound; a spilled launch leaves the spill queue, counted. The completions of its units that the
cancel meets are counted first, and what they complete is not cancelled (R42). -/
def cancelLaunch (s00 : State) (lid : Nat) : State :=
  let s := (unitsOf s00 lid).foldl countFirst s00
  match kget s.launches lid with
  | none => s
  | some l =>
    if l.complete then s
    else
      let spilled := s.spills.any fun d => d.2.contains lid
      let s0 := if spilled then
          enterPool { s with spills := (s.spills.map fun d => (d.1, d.2.filter fun x => x ≠ lid)).filter fun d => !d.2.isEmpty } lid l 0
        else s
      let s1 := modLaunch s0 lid fun l =>
        { l with toBind := [], closed := true, entry := none, status := if l.closed then l.status else l.status.worst .cancelled }
      let us := unitsOf s1 lid
      us.foldl cancelUnit (endOps s1 fun o => o.ofUnits us)

/-- Cancel the incomplete launches of a job that satisfy `which`. -/
def cancelLaunches (s0 : State) (job : Nat) (which : Launch → Bool) : State :=
  let hit (l : Nat × Launch) : Bool := l.2.pkt.job = job && which l.2
  let units (s : State) : List UnitId := (s.launches.filter hit).flatMap fun l => unitsOf s l.1
  let s1 := (units s0).foldl countFirst s0
  let us := units s1
  s0.launches.foldl (fun s l => if hit l then cancelLaunch s l.1 else s) (endOps s1 fun o => o.ofUnits us)

/-! ## The kill of a job (R101) -/

/-- Close every level of a job. -/
def Job.close (j : Job) : Job :=
  { j with
    graphs := j.graphs.map fun g => (g.1, { g.2 with closed := true })
    phases := j.phases.map fun p => (p.1, { p.2 with closed := true })
    level := { j.level with closed := true } }

/-- Stop the chains and queues of a job; each is free once its entries have been published (R230). -/
def stopChains (s : State) (job : Nat) : State :=
  let stop (b : Bound) : Bound :=
    if b.job = job ∧ b.unbinding.isNone then { b with stopped := true, fault := none, unbinding := some s.nextId } else b
  { s with chains := s.chains.map fun c => (c.1, { c.2 with bound := c.2.bound.map stop }), nextId := s.nextId + 1 }

/-- Free the chains of a job that have nothing left to publish. -/
def freeChains (s : State) (job : Nat) : State :=
  s.chains.foldl (fun s c => match c.2.bound with
    | some b => if b.job = job ∧ b.unbinding.isSome ∧ b.pub = b.head then freeChain s (chainIdOf c.1) b.pub else s
    | none => s) s

/-- A unit of a job that is killed for a cause is faulted. -/
def faultForKill (cause : Option (BitVec 16)) (s : State) (u : UnitId) : State :=
  match cause, kget s.units u with
  | some c, some w => markFaulted s u w c
  | _, _ => s

/-- The rest of a kill, the completions that it meets having been counted: everything of the job is closed, stopped and cancelled. -/
def killRest (s : State) (job : Nat) (j : Job) (cause : Option (BitVec 16)) (st : LvlStatus) : State :=
  let hitLaunch (l : Launch) : Launch := if l.pkt.job = job ∧ !l.complete then { l with status := l.status.worst st } else l
  let mine := (s.units.filter fun u => u.2.job = job).map fun u => u.1
  let s1 := mine.foldl (faultForKill cause) { s with jobs := kput s.jobs job { j.close with killed := true }, launches := s.launches.map fun l => (l.1, hitLaunch l.2) }
  let s2 := cancelLaunches (endOps s1 fun o => o.job = job) job fun _ => true
  let s3 := cancelOps (stopChains s2 job) fun o => o.job = job
  let drop (a : MxAcc) : Option MxAcc := if a.job = job then none else some a
  let s4 := { s3 with mxes := s3.mxes.map fun m => (m.1, { m.2 with acc := m.2.acc.bind drop }),
                      spilled := s3.spilled.filter fun a => a.job ≠ job }
  settleJob (settleLevels (freeChains s4 job)) job

/-- Kill a job (R101): it ends faulted, or cancelled where a cancel of the job kills it; so do its units, but for those whose completion the kill
meets: they end done first (R42, Table 15.1). The job completes only once every operation of it has ended (R101, R344). -/
def killJob (s00 : State) (job : Nat) (cause : Option (BitVec 16)) : State :=
  match kget s00.jobs job with
  | none => s00
  | some j0 =>
    if j0.level.complete then s00
    else
      let st : LvlStatus := if cause.isSome then .faulted else .cancelled
      let s0 := { s00 with jobs := kput s00.jobs job { j0 with doom := none, killed := true, level := { j0.level with status := j0.level.status.worst st } } }
      let s := ((s0.units.filter fun u => u.2.job = job).map fun u => u.1).foldl countFirst s0
      match kget s.jobs job with
      | none => s
      | some j => if j.level.complete then s else killRest s job j cause st

/-- Carry out the kills that have been decided. -/
def settleDooms (s : State) : State :=
  s.jobs.foldl (fun s j => match j.2.doom with
    | some c => killJob { s with jobs := kmod s.jobs j.1 fun x => { x with doom := none } } j.1 (some c)
    | none => s) s

/-- Report the kills whose last operation has ended (R101). -/
def settleKills (s : State) : State := s.jobs.foldl (fun s j => if j.2.killed && !j.2.level.complete then settleJob s j.1 else s) s

/-- Is a kill decided or under way? -/
def doomed (s : State) : Bool := s.jobs.any fun j => j.2.doom.isSome || (j.2.killed && !j.2.level.complete)

/-- What every meaning of a step ends with: the kills that it has decided are carried out, and reported once nothing of them runs. -/
def settle (s : State) : State := if doomed s then settleKills (settleDooms s) else s

/-- The end of a meaning. -/
def done (s : State) : Res := .next (settle s)

/-- Cancel the level that a reference names (R41, R101, R308): nothing happens to one that has completed. -/
def cancelLevel (s : State) (job : Nat) (r : LevelRef) : State :=
  match r with
  | .unit u => cancelUnit s u
  | .endedUnit _ => s
  | .launch l => settleLevels (cancelLaunch s l)
  | .graph p g => settleLevels (cancelLaunches s job fun l => l.pkt.phase = p && l.pkt.graph = g)
  | .phase p => settleLevels (cancelLaunches s job fun l => l.pkt.phase = p)
  | .job => killJob s job none

/-! ## The end of a unit -/

/-- Has a cancel that reached a unit left nothing to wait for: its operations have ended, and the instances that had ended have committed (R41)? -/
def cancelDone (s : State) (u : UnitId) : Bool := opsDone s u && !s.insts.any fun n => n.2.unit = u

/-- UNIT_COMPLETE: a unit ends once R39 holds, or once a cancel that reached it has left nothing to wait for (R41). -/
def unitComplete (s : State) (u : UnitId) : State :=
  match kget s.units u with
  | none => s
  | some w => if (if w.cancelled then cancelDone s u else unitDone s u w) then endUnit s u w else s

/-- The state in which a unit's plane has its time, for asking whether anything of it can fire. -/
def withSail (s : State) (img : Image) : State :=
  { s with frames := kput s.frames img.die { dget Frame.initial s.frames img.die with active := img.plane } }

/-- The site of each operator and router of an image. -/
def Image.sites (img : Image) : List Site :=
  let tp : Tp := { die := img.die, tile := img.tile, plane := img.plane }
  img.blocks.zipIdx.flatMap fun b =>
    (b.1.ops.zipIdx.flatMap fun o => (List.range (if o.1.trip then 3 else 1)).map fun k => { tp := tp, blk := b.2, rtr := false, slot := 32 * k + o.2 }) ++
      (List.range b.1.rtrs.length).map fun i => { tp := tp, blk := b.2, rtr := true, slot := i }

/-- Is a firing not possible? -/
def FireRes.isIdle : FireRes → Bool
  | .idle => true
  | _ => false

/-- Can the operator or router at a site of an image fire? -/
def firesAt (s : State) (img : Image) (e : Site) : Bool :=
  if e.rtr then
    match img.rtrAt e with
    | none => false
    | some r => !(fireRouter r.word.opc e s).isIdle
  else
    match img.slotAt e with
    | none => false
    | some sl =>
      !(if sl.word.opc = .emit then fireEmit e s else if isMemOp sl.word.opc then fireMem sl.word.opc e s else fireOp sl.word.opc e s).isIdle ||
        !(takeAck e s).isIdle

/-- Can an operator or router of an image fire? -/
def imageFires (s : State) (key : Nat) (img : Image) : Bool :=
  key = ({ die := img.die, tile := img.tile, plane := img.plane } : Tp).key && img.sites.any (firesAt (withSail s img) img)

/-- The tile and element at which the operator or router of a site fires next: its router's own element, or that of the copy whose turn it is (R25, R34). -/
def Image.elemAt (img : Image) (e : Site) : Option (Nat × Nat) :=
  if e.rtr then (img.rtrAt e).map fun r => (r.tile, r.elem) else (img.slotAt e).map fun sl => sl.place sl.turn img

/-- The storm jib goes first: a firing of it is possible at the element at which a sail's site would fire (R36, R37). -/
def jibFirst (s : State) (e : Site) : Bool :=
  e.tp.plane ≠ 4 && match kget s.images e.tp.key with
  | none => false
  | some img => s.images.any fun x =>
      x.2.plane = 4 && x.2.die = img.die && x.2.sites.any fun f => x.2.elemAt f = img.elemAt e && firesAt s x.2 f

/-- Can the running record of a stream go on: its port has room, or a token (R201, R202)? -/
def recordMoves (s : State) (n : Nat) (o : EngOp) (shv strm : Nat) : Bool :=
  match (streamOf s o.die shv strm).running with
  | none => false
  | some r =>
    r.op = n && o.waitsOn.isEmpty && match findPort s r.unit o.die (if r.store then 1 else 0) shv strm with
      | none => false
      | some (key, p) => if r.store then (portHead s key p).isSome else portRoom s key p

/-- Does a port of a queue's stream let its task go on: a token to take, or room for one (R223)? -/
def queueMoves (s : State) (o : EngOp) (t : TaskOp) (kind : Nat) : Bool :=
  match findQueuePort s o.job o.die kind t.queue with
  | none => false
  | some (key, p) => portsOpen s key && if kind = 3 then (portHead s key p).isSome else portRoom s key p

/-- Can a task start on an MXE, or go on: its operands lie in memory or have come, or its streams move (R223)? -/
def taskMoves (s : State) (n : Nat) (o : EngOp) (t : TaskOp) : Bool :=
  if t.mxe.isNone then (List.range 16).any fun m => decide (kget (taskStart s n m).ops n ≠ some o)
  else if t.results.isSome then queueMoves s o t 4
  else t.act.isSome || t.fed || queueMoves s o t 3

/-- Does a channel wait for a permit that ports of a unit are to bring (R213)? -/
def permitDue (s : State) (u : UnitId) (die ch : Nat) : Bool :=
  chanState s (chanOf s die ch) = 3 && s.images.any fun x => x.2.unit = u && x.2.die = die &&
    x.2.ports.zipIdx.any fun p => p.1.kind = 2 && p.1.chan = ch && (portHead s x.1 p.2).isNone

/-- Does a task of a queue numbered at most `upTo` wait on the fabric: for operands of a stream, or for room for its results? -/
def queueStuck (s : State) (die q upTo : Nat) : Bool :=
  s.ops.any fun p => p.2.die = die && p.2.fin.isNone && match p.2.body with
    | .task t => t.queue = q && t.num ≤ upTo && t.mxe.isSome && !taskMoves s p.1 p.2 t
    | _ => false

/-- Does an operation of a unit still run: it has not ended, and nothing withholds it or keeps it waiting on the fabric (R331)? One that waits for earlier
operations under SER or as a `sync`, or for tasks of a queue, waits on what those wait on. -/
def opRuns (s : State) (n : Nat) (o : EngOp) : Bool :=
  mayStart s n o && o.fault.isNone && match o.body with
    | .record shv strm => recordMoves s n o shv strm
    | .task t => taskMoves s n o t
    | .copy ch => !((o.unit.map fun u => permitDue s u o.die ch).getD false)
    | .sync _ _ => !(s.ops.any fun p => p.1 < n && !p.2.byFabric && p.2.unit = o.unit)
    | .swap x => x.left.any (fun m => decide (kget (swapExchange s o.die m).ops n ≠ some o)) || !queueStuck s o.die x.queue x.bseq
    | .unbind .mxq q => !queueStuck s o.die q (2 ^ 40)
    | _ => true

/-- How far an instance has come. -/
def progress (s : State) (n : Nat) : Option (Nat × Nat × Nat) := (kget s.insts n).map fun it => (it.waiting.length, it.lastW, it.lastS)

/-- Does nothing of a unit's block instances go on: no operation of them can be issued or performed, and none commits (R76, R99, R331)? -/
def instsStuck (s : State) (u : UnitId) : Bool :=
  s.insts.all fun n => n.2.unit ≠ u || (progress (waveIssue s n.1) n.1 = progress s n.1 && (kget (blockCommit s n.1).insts n.1).isSome)

/-- FAULTED_UNIT_END: a faulted unit ends, as by a cancel, once nothing of it outside its frozen regions can go on (R331, R256). An
operator that only `ahalt` holds cannot (DESIGN CHOICE, log entry 173). -/
def faultedUnitEnd (s : State) (u : UnitId) : State :=
  match kget s.units u with
  | none => s
  | some w =>
    let still := w.life = .bound && (match w.seq with | .run => w.held.isSome | _ => true) &&
      !(s.ops.any fun o => o.2.unit = some u && opRuns s o.1 o.2) && instsStuck s u &&
      !(s.images.any fun x => x.2.unit = u && imageFires s x.1 x.2)
    if w.faulted && !w.cancelled && still then unitComplete (cancelUnit s u) u else s

end Sys2Proof.Machine
end

