-- ==== Sys2Proof/Machine/Loader.lean ====
section
/-! DEFINITION. Placing an image (R17, R25, R33, R34, R71, R104, R112, R361, R362), what a load changes (R113, R124, R163, R246), and
the load itself as `cfgld` and a restore make it (R245, R314). -/

namespace Sys2Proof.Machine

/-! ## Elements -/

/-- The key of an element's health: elements 64 to 67 are the spares. -/
def elemKey (die tile elem : Nat) : Nat := 4352 * die + 68 * tile + elem

/-- The health of an element. -/
def healthOf (s : State) (die tile elem : Nat) : Health := dget Health.initial s.health (elemKey die tile elem)

/-- The spares of a tile that work, and that no element has moved to (R9, R361). -/
def freeSpares (s : State) (die tile : Nat) : List Nat :=
  let n := min 4 ((kget s.blob.spares (64 * die + tile)).getD 4)
  let used := (List.range 68).filterMap fun e => (healthOf s die tile e).spare
  ((List.range n).map fun i => 64 + i).filter fun e => !used.contains e && !(healthOf s die tile e).retired

/-- The elements of a tile on which the loader may place operators: those not retired, and spares (R18). -/
def workingElems (s : State) (die tile : Nat) : List Nat :=
  ((List.range 64).filter fun e => !(healthOf s die tile e).retired) ++ freeSpares s die tile

/-- The snake position of a tile (R34). -/
def snake (tile : Nat) : Nat :=
  let x := tile % 8
  let y := tile / 8
  if y % 2 = 0 then 8 * y + x else 8 * y + 7 - x

/-- The tile at a snake position. -/
def unsnake (p : Nat) : Nat :=
  let y := p / 8
  if y % 2 = 0 then p else 8 * y + 7 - p % 8

/-- Is an element of a plane taken by an operator of an image other than that at `key`? -/
def elemTaken (s : State) (key die plane tile elem : Nat) : Bool :=
  s.images.any fun x => x.1 ≠ key && x.2.die = die && x.2.plane = plane &&
    x.2.blocks.any fun b => b.ops.any fun o => o.copies.any fun c => c.tile = tile && c.elem = elem

/-- Does a window overlap one loaded on an element in another plane (R71)? -/
def windowTaken (s : State) (die plane tile elem base len : Nat) : Bool :=
  s.images.any fun x => x.2.die = die && x.2.plane ≠ plane &&
    x.2.blocks.any fun b => b.ops.any fun o => (match o.lfw with | some (p, n) => base < p + n && p < base + len | none => false) &&
      o.copies.any fun c => c.tile = tile && c.elem = elem

/-- May an image of a unit use a tile-plane: held by the unit's ASID, and bound to no other unit (R104, R245)? -/
def tpUsable (s : State) (u : UnitId) (asid : BitVec 12) (die tile plane : Nat) : Bool :=
  let sl := dget Slot.initial s.slots (320 * die + 5 * tile + plane)
  sl.held && sl.asid = asid && (!sl.bound || sl.unit = some u)

/-! ## Matching operators and elements -/

/-- Something to place: block, slot and copy, and where it may lie, in order of preference. -/
structure Want where
  blk : Nat
  slot : Nat
  copy : Nat
  allowed : List (Nat × Nat)
deriving DecidableEq, Repr

/-- Find a place for want `w` by an augmenting path: each place is looked at once; `f` bounds the search. -/
def augment (ws : List Want) : Nat → Nat → List (Nat × Nat) → List (Nat × Nat) → List ((Nat × Nat) × Nat) → List (Nat × Nat) × Option (List ((Nat × Nat) × Nat))
  | 0, _, _, seen, _ => (seen, none)
  | _ + 1, _, [], seen, _ => (seen, none)
  | f + 1, w, p :: ps, seen, asg =>
    if seen.contains p then augment ws f w ps seen asg
    else
      match asg.find? fun x => x.1 = p with
      | none => (p :: seen, some ((p, w) :: asg))
      | some (_, w') =>
        match augment ws f w' ((ws[w']?).map fun x => x.allowed).toList.flatten (p :: seen) (asg.filter fun x => x.1 ≠ p) with
        | (seen1, some asg1) => (seen1, some ((p, w) :: asg1.filter fun x => x.1 ≠ p))
        | (seen1, none) => augment ws f w ps seen1 asg

/-- Place every want, or find that no placement exists. -/
def matchAll (ws : List Want) (fuel : Nat) : List (Nat × Want) → List ((Nat × Nat) × Nat) → Option (List ((Nat × Nat) × Nat))
  | [], asg => some asg
  | (i, w) :: rest, asg =>
    match augment ws fuel i w.allowed [] asg with
    | (_, some asg1) => matchAll ws fuel rest asg1
    | (_, none) => none

/-- Place a list of wants. -/
def placeWants (ws : List Want) : Option (List ((Nat × Nat) × Nat)) :=
  let fuel := (ws.foldl (fun n w => n + w.allowed.length + 1) 1) * (ws.length + 1)
  matchAll ws fuel (ws.mapIdx fun i w => (i, w)) []

/-- What a placement is made for: the unit, the target tile-plane, whether windows are looked at, the tiles on which copies 1 and 2 of a block's triplicated
operators lie, as (block, tile, tile), and the copies that must lie on their block's tile, as (block, slot, copy). -/
structure PlaceCtx where
  unit : UnitId
  asid : BitVec 12
  die : Nat
  tile : Nat
  plane : Nat
  windows : Bool
  tiles : List (Nat × Nat × Nat)
  hosts : List (Nat × Nat × Nat)
deriving Repr

/-- The free elements of a tile for an operator with a window; the element that its slot prefers comes first. A tile that the context does not hold, or
that another unit has bound, has none, so that a block of its own there leads to PLACE (DESIGN CHOICE, log entry 116). -/
def freeElems (s : State) (x : PlaceCtx) (win : Option (Nat × Nat)) (pref tile : Nat) : List (Nat × Nat) :=
  if !tpUsable s x.unit x.asid x.die tile x.plane then []
  else
    let key := 320 * x.die + 5 * x.tile + x.plane
    let es := (workingElems s x.die tile).filter fun e => !elemTaken s key x.die x.plane tile e && match win with
      | some (b, n) => !x.windows || !windowTaken s x.die x.plane tile e b n
      | none => true
    ((es.filter fun e => e = pref) ++ es.filter fun e => e ≠ pref).map fun e => (tile, e)

/-- The tiles on which copies may lie, the block's own first: after it in snake order, then, unless a router names the slot, those before it. -/
def copyTiles (tile : Nat) (named : Bool) : List Nat :=
  let p := snake tile
  ((List.range (64 - p)).map fun i => unsnake (p + i)) ++ (if named then [] else (List.range p).map unsnake)

/-- How many copies of a block that may lie elsewhere must lie on its tile, besides copy 0 of the slots that routers name, so that each router whose T0 names
no slot has a switch box of its own there (R17, R25). -/
def hostsNeeded (b : ImgBlock) : Nat :=
  let named := b.rtrs.filterMap t0Slot
  b.rtrs.length - named.length - (b.ops.zipIdx.filter fun wi => !named.contains wi.2 && (wi.1.repl = 0 || b.mark wi.2 2)).length

/-- The copies of a block that may lie elsewhere, by their slots: those of replicated operators, and, unless the die has room for three different tiles
(`apart`), copies 1 and 2 of triplicated ones (R362). -/
def mayHost (apart : Bool) (b : ImgBlock) : List (Nat × List Nat) :=
  b.ops.zipIdx.filterMap fun wi =>
    if b.mark wi.2 2 then (if apart then none else some (wi.2, [1, 2]))
    else if wi.1.repl = 0 then none
    else some (wi.2, (List.range (wi.1.repl.toNat + 1)).drop (if (b.rtrs.filterMap t0Slot).contains wi.2 then 1 else 0))

/-- Try every choice of `n` copies: how many of each slot, since the copies of one slot are alike. -/
def tryHosts {α : Type} (blk : Nat) (f : List (Nat × Nat × Nat) → Option α) : List (Nat × List Nat) → Nat → List (Nat × Nat × Nat) → Option α
  | [], n, acc => if n = 0 then f acc else none
  | (sl, ks) :: rest, n, acc =>
    (List.range (min n ks.length + 1)).reverse.findSome? fun k => tryHosts blk f rest (n - k) (acc ++ (ks.take k).map fun c => (blk, sl, c))

/-- Try every choice of hosts for some blocks. -/
def tryBlocks {α : Type} (f : List (Nat × Nat × Nat) → Option α) (apart : Nat → Bool) : List (ImgBlock × Nat) → List (Nat × Nat × Nat) → Option α
  | [], acc => f acc
  | (b, i) :: rest, acc => tryHosts i (tryBlocks f apart rest) (mayHost (apart i) b) (hostsNeeded b) acc

/-- The wants of one operator (R25, R33, R104, R362). -/
def wantsOf (s : State) (x : PlaceCtx) (lfws : List LfWin) (bi : Nat) (b : ImgBlock) (btile si : Nat) (w : OpWord) : List Want :=
  let win := (lfws.find? fun l => l.blk = bi && l.slot = si).map fun l => (l.base, l.len)
  let named := b.rtrs.any fun r => t0Slot r = some si
  let pref := 32 * b.bsel.toNat + si
  let own := freeElems s x win pref btile
  let want (k : Nat) (on : List (Nat × Nat)) : Want := { blk := bi, slot := si, copy := k, allowed := on }
  if b.mark si 2 then
    match x.tiles.find? fun t => t.1 = bi with
    | some (_, t1, t2) => [want 0 own, want 1 (freeElems s x win pref t1), want 2 (freeElems s x win pref t2)]
    | none =>
      let any := (copyTiles btile false).flatMap (freeElems s x win pref)
      let on (k : Nat) : List (Nat × Nat) := if x.hosts.contains (bi, si, k) then own else any
      [want 0 own, want 1 (on 1), want 2 (on 2)]
  else if w.repl = 0 then [want 0 own]
  else
    let all := (copyTiles btile named).flatMap (freeElems s x win pref)
    (List.range (w.repl.toNat + 1)).map fun k => want k (if named && k = 0 || x.hosts.contains (bi, si, k) then own else all)

/-- The wants of an image's slots of which `which` holds, lane-file operators first. -/
def imageWants (s : State) (x : PlaceCtx) (im : RawImage) (bs : List ImgBlock) (which : Nat → Nat → Bool) : List Want :=
  let ops : List (Nat × ImgBlock × Nat × OpWord) := bs.zipIdx.flatMap fun bi => bi.1.ops.zipIdx.map fun wi => (bi.2, bi.1, wi.2, wi.1)
  let of (lf : Bool) : List Want := (ops.filter fun o => which o.1 o.2.2.1 && isLaneFile o.2.2.2.opc == lf).flatMap fun o =>
    match blockTile x.tile o.2.1.tdx o.2.1.tdy with
    | some t => wantsOf s x im.lfws o.1 o.2.1 t o.2.2.1 o.2.2.2
    | none => []
  of true ++ of false

/-- Place an image, its triplicated copies on given tiles, with whichever choice of hosts allows that. -/
def placeOn (s : State) (x : PlaceCtx) (im : RawImage) (bs : List ImgBlock) : Option (List ((Nat × Nat) × Want)) :=
  tryBlocks (fun hosts =>
    let ws := imageWants s { x with hosts := hosts } im bs fun _ _ => true
    (placeWants ws).map fun asg => asg.filterMap fun a => (ws[a.2]?).map fun w => (a.1, w)) (fun i => x.tiles.any fun t => t.1 = i) bs.zipIdx []

/-- Try every choice of two further tiles for the copies of each block's triplicated operators, three different tiles in all (R362); a choice for which the
triplicated operators alone find no room is left at once. -/
def tryTiles {α : Type} (s : State) (x : PlaceCtx) (im : RawImage) (bs : List ImgBlock) (f : List (Nat × Nat × Nat) → Option α) :
    List (ImgBlock × Nat) → List (Nat × Nat × Nat) → Option α
  | [], acc => f acc
  | (b, i) :: rest, acc =>
    let on := (copyTiles ((blockTile x.tile b.tdx b.tdy).getD x.tile) false).tail.filter fun t => tpUsable s x.unit x.asid x.die t x.plane
    (on.flatMap fun t => (on.filter fun u => u ≠ t).map fun u => (i, t, u)).findSome? fun c =>
      let x1 := { x with tiles := acc ++ [c] }
      if (placeWants (imageWants s x1 im bs fun bi si => x1.tiles.any (fun t => t.1 = bi) && ((bs[bi]?).map fun k => k.mark si 2).getD false)).isSome then
        tryTiles s x im bs f rest (acc ++ [c])
      else none

/-- Find a placement: triplicated copies on different tiles where the die has room for that, and otherwise on disjoint sets of elements (R362). -/
def findPlacement (s : State) (x : PlaceCtx) (im : RawImage) (bs : List ImgBlock) : Option (List ((Nat × Nat) × Want)) :=
  let tripled := bs.zipIdx.filter fun b => (List.range b.1.ops.length).any fun i => b.1.mark i 2
  match tryTiles s x im bs (fun ts => placeOn s { x with tiles := ts } im bs) tripled [] with
  | some r => some r
  | none => if tripled.isEmpty then none else placeOn s { x with tiles := [] } im bs

/-! ## Building the loaded image -/

/-- Sort copies into dealing order (R34). A spare has no element index (R9): the spares of a tile, 64 to 67, come after its elements (DESIGN CHOICE, log
entry 133). -/
def insertCopy (c : OpCopy) : List OpCopy → List OpCopy
  | [] => [c]
  | d :: ds => if snake c.tile < snake d.tile ∨ snake c.tile = snake d.tile ∧ c.elem ≤ d.elem then c :: d :: ds else d :: insertCopy c ds

/-- The copies of an operator at load (R60, R185): in dealing order, or, of a triplicated one, in the order of their numbers, copy 0 on the block's own tile
(R183, R362). -/
def copiesOf (pl : List ((Nat × Nat) × Want)) (bi si : Nat) (trip : Bool) : List OpCopy :=
  let mine := pl.filter fun p => p.2.blk = bi && p.2.slot = si
  let copy (p : (Nat × Nat) × Want) : OpCopy := { tile := p.1.1, elem := p.1.2, hdr := Hdr.initial, acc := Vector.replicate 16 0, cnt := 0 }
  if trip then (List.range 3).filterMap fun k => (mine.find? fun p => p.2.copy = k).map copy
  else mine.foldl (fun acc p => insertCopy (copy p) acc) []

/-- Place the routers of a block: those whose T0 names a slot sit at its copy 0, the others at an element of the block on its tile that has none (R25). -/
def placeRouters (ops : List OpSlot) (tile : Nat) : List OpWord → List (Nat × Nat) → List (Nat × Nat)
  | [], _ => []
  | w :: ws, used =>
    let at_ (i : Nat) : Nat × Nat := match (ops[i]?).bind fun o => o.copies.head? with | some c => (c.tile, c.elem) | none => (tile, 0)
    let named := t0Slot w
    let free := (ops.flatMap fun o => o.copies.map fun c => (c.tile, c.elem)).find? fun p => p.1 = tile && !used.contains p
    let p := match named with
      | some i => at_ i
      | none => free.getD (tile, 0)
    p :: placeRouters ops tile ws (if named.isSome then used else p :: used)

/-- A loaded block. -/
def loadedBlock (im : RawImage) (pl : List ((Nat × Nat) × Want)) (tile bi : Nat) (b : ImgBlock) : Block :=
  let t := (blockTile tile b.tdx b.tdy).getD tile
  let ops : List OpSlot := b.ops.zipIdx.map fun wi =>
    { word := (applyFallbacks wi.1).1, exact := im.exact || b.mark wi.2 0, comm := b.mark wi.2 1, trip := b.mark wi.2 2, voter := b.mark wi.2 3,
      lfw := (im.lfws.find? fun l => l.blk = bi && l.slot = wi.2).map fun l => (l.base, l.len), copies := copiesOf pl bi wi.2 (b.mark wi.2 2), dealt := 0,
      stopped := [], pend := [] }
  let named := b.rtrs.filterMap t0Slot
  let used := named.filterMap fun i => (ops[i]?).bind fun o => o.copies.head?.map fun c => (c.tile, c.elem)
  let places := placeRouters ops t b.rtrs used
  { tile := t, bsel := b.bsel, ops := ops,
    rtrs := b.rtrs.zipIdx.map fun wi =>
      let p := (places[wi.2]?).getD (t, 0)
      { word := (applyFallbacks wi.1).1, tile := p.1, elem := p.2, loop := false, tookX := false, count := 0 } }

/-- The image as loaded. -/
def loadedImage (im : RawImage) (bs : List ImgBlock) (pl : List ((Nat × Nat) × Want)) (u : UnitId) (job die tile plane : Nat) (src : List Byte) (va : Nat) : Image :=
  { unit := u, job := job, die := die, tile := tile, plane := plane, graphid := im.graphid,
    blocks := bs.mapIdx fun bi b => loadedBlock im pl tile bi b
    arcs := balance bs (imageArcs bs im.routes)
    ports := im.ports.map fun p => { kind := p.kind, eng := p.eng, chan := p.chan, hdr := Hdr.initial, headed := false }
    src := src, va := va }

/-! ## Fallbacks of a load (R124, R126) -/

/-- The fallbacks of an image's words: (tile, element, opcode, classes). The register of the target tile-plane takes those of a word that is not
replicated. -/
def loadWarns (bs : List ImgBlock) (img : Image) : List (Nat × Nat × BitVec 8 × BitVec 7) :=
  bs.zipIdx.flatMap fun bi =>
    match img.blocks[bi.2]? with
    | none => []
    | some b =>
      (bi.1.ops.zipIdx.flatMap fun wi =>
        let bits := (applyFallbacks wi.1).2.toBits
        let cs := ((b.ops[wi.2]?).map fun o => o.copies).getD []
        if bits = 0 then []
        else if wi.1.repl = 0 then [(img.tile, (cs.head?.map fun c => c.elem).getD 0, wi.1.opc.code, bits)]
        else cs.map fun c => (c.tile, c.elem, wi.1.opc.code, bits)) ++
      (bi.1.rtrs.zipIdx.flatMap fun wi =>
        let bits := (applyFallbacks wi.1).2.toBits
        if bits = 0 then [] else [(img.tile, ((b.rtrs[wi.2]?).map fun r => r.elem).getD 0, wi.1.opc.code, bits)])

/-- Record the fallbacks of a load: FIRSTOP takes the one from the lowest element index (R126), and of several on one element the first in image order
(DESIGN CHOICE, log entry 119); spares stand after the elements (DESIGN CHOICE, log entry 133). -/
def applyWarns (s : State) (img : Image) (ws : List (Nat × Nat × BitVec 8 × BitVec 7)) : State :=
  (List.range 64).foldl (fun s t =>
    let mine := ws.filter fun w => w.1 = t
    let first := mine.foldl (fun (a : Option (Nat × BitVec 8)) w => match a with
      | some (e, _) => if w.2.1 < e then some (w.2.1, w.2.2.1) else a
      | none => some (w.2.1, w.2.2.1)) none
    match first with
    | none => s
    | some (_, opc) => setWarn s (img.tpKey t) (mine.foldl (fun a w => a ||| w.2.2.2) 0) opc 1) s

/-! ## The load -/

/-- The lane-file words that an image's windows cover (R112). -/
def windowWords (img : Image) : List Nat :=
  img.blocks.flatMap fun b => b.ops.flatMap fun o => match o.lfw with
    | none => []
    | some (base, len) => o.copies.flatMap fun c => (List.range 16).flatMap fun l => (List.range len).map fun i => laneKey img.die c.tile c.elem l (base + i)

/-- The tile-planes that an image uses. -/
def imageTps (img : Image) : List Nat :=
  let ts := img.tile :: (img.blocks.flatMap fun b => b.tile :: b.ops.flatMap fun o => o.copies.map fun c => c.tile)
  (List.range 64).filterMap fun t => if ts.contains t then some (img.tpKey t) else none

/-- Show the tile-planes of a unit's images, and its own, as BOUND for it, and no others (R246). -/
def rebind (s : State) (u : UnitId) (w : WorkUnit) : State :=
  let mine : List Nat := w.tp.key :: (s.images.filter fun x => x.2.unit = u).flatMap fun x => imageTps x.2
  let entry := (dget Slot.initial s.slots w.tp.key).entry
  let fix (x : Nat × Slot) : Nat × Slot :=
    if x.2.unit = some u && !mine.contains x.1 then (x.1, { x.2 with bound := false, entry := 0, unit := none })
    else if mine.contains x.1 && x.2.unit.isNone then (x.1, { x.2 with bound := true, entry := entry, unit := some u })
    else x
  { s with slots := s.slots.map fix }

/-- What a load answers: its status, with the state and the place of the first unassigned opcode. -/
structure Loaded where
  s : State
  status : Nat
  where_ : Nat
deriving Repr

/-- Zero the words that an image's windows cover on the tile-planes where the image loaded last was of a different job (R163). -/
def zeroLanes (s : State) (img : Image) : State :=
  let other (k : Nat) : Bool := (kget s.laneJobs k).any (· = img.job) = false
  let words := img.blocks.flatMap fun b => b.ops.flatMap fun o => match o.lfw with
    | none => []
    | some (base, len) => o.copies.flatMap fun c => if other (img.tpKey c.tile) then
        (List.range 16).flatMap fun l => (List.range len).map fun i => laneKey img.die c.tile c.elem l (base + i)
      else []
  { s with
    lanes := words.foldl (fun m k => kdel m k) s.lanes
    laneJobs := (imageTps img).foldl (fun m k => kput m k img.job) s.laneJobs }

/-- Place an image read as bytes onto a tile-plane for a unit (R103–R113). A status other than 0 changes nothing. -/
def placeImage (s : State) (u : UnitId) (w : WorkUnit) (die tile plane : Nat) (src : List Byte) (va : Nat) : Loaded :=
  let key := 320 * die + 5 * tile + plane
  let bad (c : Nat) : Loaded := { s := s, status := c, where_ := 0 }
  match (if va % 64 ≠ 0 then none else readImage src) with
  | none => bad ldHdr
  | some im =>
    if im.jib ≠ decide (plane = 4) then bad ldHdr
    else
      match firstUnassigned im.blocks with
      | some (b, sl) => { s := s, status := ldOpc, where_ := b * 2 ^ 23 + sl * 2 ^ 18 }
      | none =>
        match decodeBlocks im.blocks im.marks with
        | none => bad ldForm
        | some bs =>
          let others := (s.images.filter fun x => x.1 ≠ key && x.2.die = die && x.2.plane = plane).flatMap fun x => x.2.blocks.map fun b => (b.tile, b.bsel)
          let st := staticStatus bs im tile others
          if st ≠ 0 then bad st
          else
            let x : PlaceCtx := { unit := u, asid := w.asid, die := die, tile := tile, plane := plane, windows := true, tiles := [], hosts := [] }
            match findPlacement s x im bs with
            | none => bad (if (findPlacement s { x with windows := false } im bs).isSome then ldLfw else ldPlace)
            | some pl =>
              let img := loadedImage im bs pl u w.job die tile plane src va
              { s := rebind (applyWarns (zeroLanes { s with images := kput s.images key img } img) img (loadWarns bs img)) u w, status := 0, where_ := 0 }

/-- Read the bytes of an image: its header, and as many as LEN says. -/
def readSource (s : State) (asid : BitVec 12) (die va : Nat) : Got (List Byte) :=
  (loadVa s asid die va 64 none).bind fun h =>
    let len := fieldAt h 8 4
    if len < 64 ∨ 0x400000 < len then .ok h else loadVa s asid die va len none

/-- Is the target tile-plane quiet: every arc of the images that lie on it empty, every instance committed (R245, step 3)? -/
def tpQuiet (s : State) (key : Nat) : Bool :=
  s.images.all fun x => !(imageTps x.2).contains key ||
    x.2.empty && !(s.insts.any fun n => n.2.img = x.1) && x.2.blocks.all fun b => b.ops.all fun o => o.pend.isEmpty

end Sys2Proof.Machine
end

