-- ==== Sys2Proof/Machine/Queues.lean ====
section
/-! DEFINITION. Launch packets and their checks (R290–R300), user queues (R282, R290, R305–R308), binding (R301–R304, R232), and the
watchdogs with the partition reset (R333–R336, R343, R345). -/

namespace Sys2Proof.Machine

/-! ## Launch packets (Tables 13.10, 13.11) -/

/-- A field [hi:lo] of a word. -/
def wf (w : Word) (hi lo : Nat) : Nat := w.toNat / 2 ^ lo % 2 ^ (hi + 1 - lo)

/-- A bit of a word. -/
def wb (w : Word) (i : Nat) : Bool := w.getLsbD i

/-- The successors of SUCC with V = 1. -/
def succOf (w : Word) : List (Nat × Nat) :=
  (List.range 4).filterMap fun i =>
    let x := wf w (16 * i + 15) (16 * i)
    if x / 2 ^ 15 = 1 then some (x / 2 ^ 13 % 4, x % 2 ^ 13) else none

/-- A packet of eight words. -/
def packetOf (ws : List Word) : Packet :=
  let h := ws.getD 0 0
  let n := ws.getD 1 0
  { kind := wf h 3 0, facq := wb h 4, frel := wb h 5, bar := wb h 6, last := wb h 7, cpath := wb h 8, intr := wb h 9, anyp := wb h 10,
    plane := wf h 14 12, die := wf h 17 16, tx0 := wf h 20 18, ty0 := wf h 23 21, w := wf h 26 24 + 1, h := wf h 29 27 + 1,
    node := wf h 44 32, nv := wb h 45, npred := BitVec.ofNat 16 (wf h 63 48),
    reserved := wb h 11 || wb h 15 || wf h 31 30 ≠ 0 || wf h 47 46 ≠ 0,
    job := wf n 15 0, phase := wf n 31 16, graph := wf n 63 32,
    start := ws.getD 2 0, arg := ws.getD 3 0, seeds := ws.getD 4 0, hvec := ws.getD 5 0, crec := ws.getD 6 0, succ := succOf (ws.getD 7 0) }

/-- Bytes as 8-byte words. -/
def wordsOf (bs : List Byte) (n : Nat) : List Word := (List.range n).map fun i => BitVec.ofNat 64 (leNat ((bs.drop (8 * i)).take 8))

/-- The tiles of a packet's rectangle, row by row; a marker has none (R292). -/
def Packet.tiles (p : Packet) : List Nat :=
  if p.kind = 2 then []
  else (List.range p.h).flatMap fun y => (List.range p.w).map fun x => 8 * (p.ty0 + y) + p.tx0 + x

/-- Is a job open for packets: neither completed nor killed? -/
def Job.live (j : Job) : Bool := !j.level.complete && !j.killed

/-- Does a node lie in a job's range? -/
def Job.owns (j : Job) (n : Nat) : Bool := j.nbase ≤ n && n < j.nbase + j.ncount

/-- Is the current phase of a job open: not ended at a boundary (R38, R349)? -/
def phaseOpen (j : Job) : Bool := ((kget j.phases j.phase).map fun (l : Level) => !l.closed).getD false

/-- The first check of R293 that a packet fails, or 0. `named` is the job that it must name; `check5` says whether its plane is refused. -/
def checkPacket (s : State) (p : Packet) (named : Option Nat) (check5 : Bool) : Nat :=
  let node := dget Node.initial s.nodes (nodeKey p.die p.node)
  if (p.kind ≠ 1 && p.kind ≠ 2) || p.reserved then 1
  else if named ≠ some p.job then 2
  else
    match kget s.jobs p.job with
    | none => 2
    | some j =>
      if !j.live then 2
      else if p.phase ≠ j.phase % 65536 || !phaseOpen j then 3
      else if 8 < p.tx0 + p.w || 8 < p.ty0 + p.h || !s.dies.getLsbD p.die then 4
      else if check5 then 5
      else if p.nv && !j.owns p.node then 6
      else if p.succ.any fun d => !j.owns d.2 then 7
      else if p.nv && (node.st = .armed || node.st = .ready || node.st = .running) then 8
      else 0

/-- Check 5: PLANE 5 to 7, or the storm jib from where it may not come; ANYP = 1 ignores PLANE (Table 13.11). -/
def planeRefused (p : Packet) (jib : Bool) : Bool := !p.anyp && (5 ≤ p.plane || (p.plane = 4 && !jib))

/-- The launch of a packet, outside the pool. -/
def Launch.ofPacket (p : Packet) (src : LaunchSrc) (asid : BitVec 12) (root : Option Nat) : Launch :=
  { srcCpath := false, pkt := p, src := src, asid := asid, root := root, entry := none, toBind := p.tiles, sail := none, count := 0, closed := false,
    status := .done, cause := 0, complete := false }

/-- Enter a launch under the next number. -/
def addLaunch (s : State) (l : Launch) : State × Nat := ({ s with launches := kput s.launches s.nextId l, nextId := s.nextId + 1 }, s.nextId)

/-- Post a launch to a pool entry. -/
def postTo (s : State) (l : Launch) (e : Nat) : State :=
  let a := addLaunch s l
  enterPool a.1 a.2 l e

/-- The spill queue of a die, oldest first. -/
def spillOf (s : State) (die : Nat) : List Nat := (kget s.spills die).getD []

/-- A free entry outside the reserve, as R300 reads it: none while the spill queue holds any launch. -/
def poolEntry (s : State) (die : Nat) : Option Nat := if (spillOf s die).isEmpty then freeOutside s die else none

/-- Does a queue wait with a packet for an entry of a die's pool (R299)? -/
def Queue.waitsEntry (x : Queue) (die : Nat) : Bool := x.qstState = 2 && (x.head.map fun ws => (packetOf ws).die) = some die

/-- A free entry for a launch that comes from no queue: one beyond those that go to the queues which wait for an entry (R300). -/
def spareEntry (s : State) (die : Nat) : Option Nat :=
  if (s.queues.filter fun x => x.2.waitsEntry die).length < freeOutsideCount s die then poolEntry s die else none

/-- What becomes of a `launch` (R248). -/
inductive Posted where
  | refused
  | posted (s : State) (code : Nat)
  | full
deriving Repr

/-- Post the packet of a unit's `launch`, as R248 and R300 lay down. -/
def postLaunch (s : State) (u : UnitId) (w : WorkUnit) (ws : List Word) : Posted :=
  let p := packetOf ws
  if checkPacket s p (some w.job) (planeRefused p false) ≠ 0 then .refused
  else
    let l := { Launch.ofPacket p (.unit u) w.asid (rootOf s (some w.launch)) with srcCpath := w.cpath }
    let mine := (spillOf s p.die).any fun x => ((kget s.launches x).map fun y => y.src) = some (LaunchSrc.unit u)
    match spareEntry s p.die, (if w.cpath && !mine then freeReserve s p.die else none) with
    | some e, _ => .posted (settleLevels (postTo s l e)) 0
    | none, some e => .posted (settleLevels (postTo s l e)) 0
    | none, none =>
      if (spillOf s p.die).length < s.blob.spill then
        let a := addLaunch s l
        .posted { a.1 with spills := kput a.1.spills p.die (spillOf s p.die ++ [a.2]) } 1
      else .full

/-! ## User queues (R282, R290) -/

/-- The key of a queue. -/
def queueKey (k : QueueId) : Nat := 1024 * k.die + k.q

/-- Change a queue. -/
def modQueue (s : State) (q : Nat) (f : Queue → Queue) : State := { s with queues := kmod s.queues q f }

/-- Keep a host action in the replay log (R355). -/
def logItem (s : State) (x : LogItem) : State := { s with log := s.log ++ [x] }

/-- Has a partition reset stopped the queue (R335, R345)? -/
def Queue.resetStopped (x : Queue) : Bool := x.qstState = 1 && x.errcode = 0

/-- A value of NOTIFY, with RIDX as it was when the host wrote it: replay applies it again with the RIDX of that time (R290, R345, R355). -/
def notifyAt (s : State) (q : Nat) (val : Word) (ridx : Nat) : State :=
  modQueue s q fun x =>
    if x.resetStopped then x
    else if val.toNat < x.notify ∨ ridx + x.nent < val.toNat then { x with badn := true }
    else { x with notify := val.toNat }

/-- A write of NOTIFY (R290, R345). -/
def notifyQueue (s : State) (q : Nat) (val : Word) : State := notifyAt s q val (((kget s.queues q).map fun x => x.ridx).getD 0)

/-- A write of CANCEL (R308, R345): for a level that has completed LQRES shows it, and nothing else changes (R41). -/
def cancelQueue (s : State) (q : Nat) (h : Word) : State :=
  match kget s.queues q with
  | none => s
  | some x =>
    if x.resetStopped then s
    else
      match levelOf s x.job h with
      | some r => if (viewLevel s x.job r).status = .running then cancelLevel s x.job r else modQueue s q fun y => { y with lqres := lqresOf s x.job h }
      | none => modQueue s q fun x => { x with badc := true }

/-- A write of LQRY (R306). -/
def queryQueue (s : State) (q : Nat) (h : Word) : State :=
  match kget s.queues q with
  | none => s
  | some x =>
    modQueue s q fun y => { y with lqres := lqresOf s x.job h, badc := y.badc || (!y.resetStopped && (levelOf s x.job h).isNone) }

/-- QST (Table 13.7). -/
def Queue.qst (x : Queue) : Word :=
  x.erridx ++ x.errcode ++ (0 : BitVec 36) ++ BitVec.ofBool x.badc ++ BitVec.ofBool x.badn ++ x.qstState

/-- The packets of the replay log that can still be accepted: those of queues that are gone or stopped are passed over. -/
def liveReplay (s : State) : List (QueueId × List Word) :=
  s.replay.dropWhile fun p => match kget s.queues (queueKey p.1) with
    | none => true
    | some x => x.qstState = 1

/-- Refuse a packet (R293). -/
def refusePacket (s : State) (q : Nat) (code : Nat) : State :=
  modQueue s q fun x => { x with qstState := 1, errcode := BitVec.ofNat 8 code, erridx := BitVec.ofNat 16 x.ridx, fault := none, head := none }

/-- Does queue x come before queue y in round-robin order, `last` having been served last? -/
def rrBefore (last x y : Nat) : Bool := if decide (last < x) == decide (last < y) then x < y else last < x

/-- Does the next free entry of a die's pool go to a queue: none waits but it, or it is the first of those that wait in round-robin order (R300)? -/
def entryTurn (s : State) (q die : Nat) : Bool :=
  let others := s.queues.filter fun x => x.1 ≠ q && x.2.waitsEntry die
  others.isEmpty || (((kget s.queues q).map fun x => x.waitsEntry die).getD false && others.all fun x => rrBefore ((kget s.acceptRr die).getD 0) q x.1)

/-- Check the packet that was read and accept it (R290, R293, R294, R299). The write of RIDX may have to wait. -/
def acceptWords (s : State) (k : QueueId) (x : Queue) (ws : List Word) : State :=
  let q := queueKey k
  let p := packetOf ws
  let code := checkPacket s p (some x.job) (planeRefused p x.jib)
  if code ≠ 0 then refusePacket s q code
  else
    match (if entryTurn s q p.die then poolEntry s p.die else none) with
    | none => modQueue s q fun x => { x with qstState := 2, fault := none, head := some ws }
    | some e =>
      if storeWaits s x.asid x.ridxa 8 then modQueue s q fun x => { x with fault := none, head := some ws }
      else
        let s1 := postTo { s with acceptRr := kput s.acceptRr p.die q } (Launch.ofPacket p (.queue q x.ridx) x.asid (some q)) e
        let s2 := modQueue s1 q fun x => { x with ridx := x.ridx + 1, qstState := 0, fault := none, head := none }
        let s3 := storeOr s2 x.job x.asid x.ridxa (leBytes 8 (x.ridx + 1))
        settleLevels (logItem (raiseQueue s3 q) (.packet k ws))

/-- A ring slot that cannot be read: one record, and a further read every 10 µs (R332). -/
def ringFault (s : State) (q : Nat) (x : Queue) (cause : BitVec 16) (va : Nat) : State :=
  if cause = cMemUce then doomJob s x.job cMemUce
  else
    let v := BitVec.ofNat 64 va
    let seen := match x.fault with | some (c, a, _) => c = cause && a = v | none => false
    let s1 := modQueue s q fun x => { x with fault := some (cause, v, s.tb) }
    if seen then s1 else writeRecord s1 x.job (some q) (FaultRec.plain cause 4 0 (if cause = cDataPoison then cCopyCancel.setWidth 64 else v))

/-- A read of the management cores, by its number: one that waited on a copy which has been cancelled meets poison, and one that waits is noted (R89,
R91). -/
def mcLoad (s : State) (key : Nat) (asid : BitVec 12) (die va n : Nat) : State × Got (List Byte) :=
  let clear := { s with mcReads := kdel s.mcReads key }
  if ((kget s.mcReads key).map fun r => r.poisoned).getD false then (clear, .bad cDataPoison va)
  else
    match loadVa s asid die va n none with
    | .waits on => ({ s with mcReads := kput s.mcReads key { on := on, poisoned := false } }, .waits on)
    | r => (clear, r)

/-- PACKET_ACCEPT: the packet processor reads the next packet of a queue and accepts or refuses it (R290, R293). During replay the packets
of the log come first, in their order (R355). -/
def packetAccept (s : State) (k : QueueId) : State :=
  let q := queueKey k
  match kget s.queues q with
  | none => s
  | some x =>
    let again := match x.fault with | some (_, _, t) => 10000 ≤ (s.tb - t).toNat | none => true
    if s.fwState ≠ .running || s.bnd = .saving || x.qstState = 1 || x.notify ≤ x.ridx then s
    else
      match liveReplay s with
      | (k', ws) :: rest =>
        if k' ≠ k then s
        else
          let s1 := acceptWords s k x ws
          if ((kget s1.queues q).map fun y => y.head.isSome) = some true then s1 else { s1 with replay := rest }
      | [] =>
        match x.head with
        | some ws => acceptWords { s with replay := [] } k x ws
        | none =>
          if !again then s
          else
            let r := mcLoad s (3 * q) x.asid k.die (x.ring + 64 * (x.ridx % x.nent)) 64
            match r.2 with
            | .ok bs => acceptWords { r.1 with replay := [] } k x (wordsOf bs 8)
            | .bad c va => ringFault r.1 q x c va
            | .waits _ => r.1

/-! ## Binding (R301–R304, R232) -/

/-- Is the whole rectangle of a launch held by it on a sail? -/
def sailHeld (s : State) (l : Launch) (sail : Nat) : Bool :=
  l.pkt.tiles.all fun t =>
    let sl := dget Slot.initial s.slots (320 * l.pkt.die + 5 * t + sail)
    sl.held && sl.asid = l.asid && sl.job.toNat = l.pkt.job

/-- Is the whole rectangle unbound on a sail? -/
def sailFree (s : State) (l : Launch) (sail : Nat) : Bool :=
  l.pkt.tiles.all fun t => !(dget Slot.initial s.slots (320 * l.pkt.die + 5 * t + sail)).bound

/-- The plane on which a launch's units are bound (R292, R304): with ANYP the sail already chosen, else the lowest that is held and unbound; sail 0
where none is held. -/
def bindPlane (s : State) (l : Launch) : Option Nat :=
  if !l.pkt.anyp then some l.pkt.plane
  else
    match l.sail with
    | some p => some p
    | none =>
      let held := (List.range 4).filter (sailHeld s l)
      if held.isEmpty then some 0 else held.find? (sailFree s l)

/-- A tile is written into the slot table, or counted so: with the last, the launch is closed and its entry frees (R302). -/
def Launch.written (l : Launch) (tile : Nat) : Launch :=
  let left := l.toBind.filter fun t => t ≠ tile
  { l with toBind := left, closed := left.isEmpty, entry := if left.isEmpty then none else l.entry }

/-- The sequencer of a unit that is bound now (R232). -/
def WorkUnit.start (l : Launch) (lid : Nat) (tp : Tp) (seeds : List Word) : WorkUnit :=
  { launch := lid, tp := tp, home := tp, asid := l.asid, job := l.pkt.job, cpath := l.pkt.cpath, pc := l.pkt.start.setWidth 57,
    regs := (Vector.replicate 32 (0 : Word)).set 1 l.pkt.arg, preds := 0, seeds := Vector.ofFn fun i => seeds.getD i.val 0, hmode := false, ntfc := 0, wto := 0,
    req := false, deadline := 0, hvecVec := l.pkt.hvec.extractLsb' 6 51, hvecEn := l.pkt.hvec.getLsbD 0, hepc := 0, hcause := 0,
    hval := 0, hscr := 0, fblock := none, seq := .run, held := none, winWait := [], poisoned := false, faulted := false, cause := 0,
    cancelled := false, yieldRd := none, life := .bound, forBoundary := false, feWait := none }

/-- `fetch.align` (Table 14.5). -/
def cFetchAlign : BitVec 16 := 0x3

/-- A start address that is not aligned ends the unit faulted before any instruction (R232). -/
def checkStart (s : State) (u : UnitId) (w : WorkUnit) : State :=
  if w.pc.toNat % 64 = 0 then s
  else recordSeq (launchFaults (putUnit s u (w.die cFetchAlign)) w cFetchAlign) w cFetchAlign 0 (w.pc.setWidth 64) 0

/-- The image that an earlier unit of the job left on a tile-plane becomes the new unit's own (R246). -/
def adoptImage (s : State) (u : UnitId) (w : WorkUnit) : State :=
  match kget s.images w.tp.key with
  | some img =>
    if img.job = w.job && (kget s.units img.unit).isNone then rebind { s with images := kput s.images w.tp.key { img with unit := u } } u w
    else s
  | none => s

/-- Bind a unit of a launch to a tile-plane (R302). -/
def bindUnit (s : State) (lid : Nat) (l : Launch) (e : Nat) (tp : Tp) (seeds : List Word) : State :=
  let u := s.nextId
  let w := WorkUnit.start l lid tp seeds
  let sl := dget Slot.initial s.slots tp.key
  let s1 := { s with nextId := u + 1, units := kput s.units u w,
                     slots := dset Slot.initial s.slots tp.key { sl with bound := true, entry := BitVec.ofNat 11 e, unit := some u } }
  let s2 := modLaunch s1 lid fun x => { x.written tp.tile with count := x.count + 1, sail := some tp.plane }
  let s3 := if l.pkt.nv then
      { s2 with nodes := kmod s2.nodes (nodeKey l.pkt.die l.pkt.node) fun n => if n.launch = some lid ∧ n.st = .ready then { n with st := .running } else n }
    else s2
  settleLevels (checkStart (adoptImage s3 u w) u w)

/-- A unit whose slot is not held counts as written, and as complete with status faulted (R303). -/
def bindHeld (s : State) (lid : Nat) (l : Launch) (tp : Tp) : State :=
  let s1 := modLaunch s lid fun x =>
    { x.written tp.tile with status := x.status.worst .faulted, cause := if x.cause = 0 then 0x53 else x.cause, sail := some tp.plane }
  settleLevels (writeRecord s1 l.pkt.job l.root
    (FaultRec.plain 0x53 4 (launchHandle l.pkt) (BitVec.ofNat 64 (tp.die + 4 * tp.tile + 256 * tp.plane))))

/-- The words of the SEEDS table of launch `lid`, none while their read waits: zeros where there is no table or it cannot be read (R232). Poison is reported
(R91), and a lost page kills the job (R356). -/
def seedsOf (s : State) (lid : Nat) (l : Launch) : State × Option (List Word) :=
  if l.pkt.seeds = 0 then (s, some [])
  else
    let r := mcLoad s (3 * lid + 2) l.asid l.pkt.die (l.pkt.seeds.toNat % 2 ^ 57) 128
    match r.2 with
    | .ok bs => (r.1, some (wordsOf bs 16))
    | .bad c _ =>
      (if c = cMemUce then doomJob r.1 l.pkt.job cMemUce else if c = cDataPoison then writeRecord r.1 l.pkt.job l.root (FaultRec.plain cDataPoison 4 (launchHandle l.pkt) (cCopyCancel.setWidth 64)) else r.1, some [])
    | .waits _ => (r.1, none)

/-- May the MC of a die bind units now (R350, R368, R369)? -/
def mayBind (s : State) (die plane : Nat) : Bool :=
  s.fwState = .running && s.bnd ≠ .saving && s.dies.getLsbD die && !dget false s.sailsOut (4 * die + plane)

/-- Can a unit of a launch be bound now, or counted so (R303): it is ready, and a slot of it is not BOUND? -/
def bindable (s : State) (lid : Nat) (l : Launch) : Bool :=
  launchReady s lid l && !launchBad s l && match bindPlane s l with
  | none => false
  | some p => mayBind s l.pkt.die p && l.toBind.any fun t => !(dget Slot.initial s.slots (320 * l.pkt.die + 5 * t + p)).bound

/-- Is a launch one for the storm jib? -/
def Packet.jib (p : Packet) : Bool := p.plane = 4 && !p.anyp

/-- The queue that a launch comes from in the end: its own, or that of its root launch. -/
def Launch.queue (l : Launch) : Nat := l.root.getD 0

/-- The priority of a launch: that of its queue (R304, R311). -/
def launchPriority (s : State) (l : Launch) : Nat := ((kget s.queues l.queue).map fun q => q.prio).getD (Config.queuePriority l.queue)

/-- Does launch l' go before launch l: the storm jib's first, then those of queues of higher priority, in round-robin order among queues of equal
priority, and within one queue in acceptance order, for the storm jib too (R304)? -/
def goesBefore (s : State) (lid : Nat) (l : Launch) (lid' : Nat) (l' : Launch) : Bool :=
  if l'.pkt.jib ≠ l.pkt.jib then l'.pkt.jib
  else if l.pkt.jib then l'.queue = l.queue && lid' < lid
  else if l'.queue = l.queue then lid' < lid
  else if launchPriority s l' ≠ launchPriority s l then launchPriority s l < launchPriority s l'
  else rrBefore ((kget s.bindRr l.pkt.die).getD 0) l'.queue l.queue

/-- Is it a launch's turn to be bound on its die (R304)? -/
def bindTurn (s : State) (lid : Nat) (l : Launch) : Bool :=
  !s.launches.any fun x => x.1 ≠ lid && x.2.pkt.die = l.pkt.die && bindable s x.1 x.2 && goesBefore s lid l x.1 x.2

/-- The last unit of a launch is about to be bound: its queue has had its turn. -/
def turnTaken (s : State) (l : Launch) (tile : Nat) : State :=
  if (l.written tile).closed && !l.pkt.jib then { s with bindRr := kput s.bindRr l.pkt.die l.queue } else s

/-- BIND_RECORD: the MC writes a bind record to its die's bind port (R302–R304). The record of a slot that is bound is kept, and written again. -/
def bindRecord (s : State) (die : Nat) (rec : Word) : State :=
  let e := wf rec 10 0
  let tp : Tp := { die := die, tile := wf rec 16 11, plane := wf rec 19 17 }
  match s.launches.find? fun x => x.2.pkt.die = die && x.2.entry = some e with
  | none => s
  | some (lid, l) =>
    let sl := dget Slot.initial s.slots tp.key
    if !mayBind s die tp.plane || !launchReady s lid l || launchBad s l || !l.toBind.contains tp.tile || bindPlane s l ≠ some tp.plane ||
        !bindTurn s lid l then s
    else if !(sl.held && sl.asid = l.asid && sl.job.toNat = l.pkt.job) then bindHeld (turnTaken s l tp.tile) lid l tp
    else if sl.bound then s
    else
      let r := seedsOf s lid l
      match r.2 with
      | some seeds => bindUnit (turnTaken r.1 l tp.tile) lid l e tp seeds
      | none => r.1

/-! ## Watchdogs (R333–R335, R343) -/

/-- Was a launch accepted from a queue? -/
def Launch.acceptedFrom (l : Launch) (q : Nat) : Bool :=
  match l.src with
  | .queue q' _ => q' = q
  | _ => false

/-- Is a unit of a launch accepted from the queue bound? -/
def queueBusy (s : State) (q : Nat) : Bool :=
  s.units.any fun u => (match u.2.life with | .saved _ _ => false | _ => true) && ((kget s.launches u.2.launch).map fun l => l.acceptedFrom q).getD false

/-- Does the watchdog of a queue count? -/
def wdCounts (s : State) (q : Nat) (x : Queue) : Bool := x.wdEn && x.wdTicks ≠ 0 && !x.wdStopped && queueBusy s q

/-- The watchdogs count some ticks, each up to its TICKS (R334). -/
def countWatchdogs (s : State) (n : Nat) : State :=
  { s with queues := s.queues.map fun x =>
      if wdCounts s x.1 x.2 then (x.1, { x.2 with wdCount := BitVec.ofNat 40 (min x.2.wdTicks.toNat (x.2.wdCount.toNat + n)) }) else x }

/-- A write of WDCFG (Table 14.7, R334). -/
def wdcfgSet (s : State) (q : Nat) (val : Word) : State :=
  modQueue s q fun x => { x with wdEn := wb val 63, wdHnd := wb val 62, wdAuto := wb val 61, wdTicks := val.setWidth 40, wdCount := 0, wdStopped := false }

/-- A kick (R334). -/
def wdKick (s : State) (q : Nat) : State := modQueue s q fun x => { x with wdCount := 0, wdStopped := false }

/-- A partition reset begins (R335): every queue of the job stops and the job is killed. -/
def partitionReset (s : State) (q : Nat) : State :=
  match kget s.queues q with
  | none => s
  | some x =>
    if s.queues.any fun y => y.2.job = x.job && y.2.wdResetting then s
    else
      let stop (y : Queue) : Queue :=
        if y.job = x.job then { y with qstState := 1, errcode := 0, erridx := BitVec.ofNat 16 y.ridx, fault := none, head := none } else y
      let s1 := { s with queues := s.queues.map fun y => (y.1, if y.1 = q then { stop y.2 with wdResetting := true } else stop y.2) }
      killJob s1 x.job (some 0x52)

/-- PARTITION_RESET_DONE: the job has completed (R335). -/
def resetDone (s : State) (q : Nat) : State :=
  match kget s.queues q with
  | none => s
  | some x =>
    if x.wdResetting && ((kget s.jobs x.job).map fun j => j.level.complete).getD true then
      modQueue s q fun x => { x with wdResetting := false, wdReset := true }
    else s

/-- Does a rectangle lie in a storm-jib rectangle that a job holds? -/
def inJib (s : State) (p : Packet) (asid : BitVec 12) : Bool :=
  s.jibs.any fun r => r.job = p.job && r.asid = asid && r.die = p.die && r.tx0 ≤ p.tx0 && p.tx0 + p.w ≤ r.tx0 + r.w && r.ty0 ≤ p.ty0 && p.ty0 + p.h ≤ r.ty0 + r.h

/-- The handler packet is posted as a storm-jib launch, or refused with PKTERR (R334, R343). -/
def postHandler (s : State) (q : Nat) (x : Queue) (bs : Option (List Byte)) : State :=
  let refuse := modQueue s q fun x => { x with wdPkterr := true }
  match bs with
  | none => refuse
  | some bs =>
    let p := packetOf (wordsOf bs 8)
    let named := match kget s.jobs p.job with
      | some j => if j.live && j.asid = x.wdSup then some p.job else none
      | none => none
    match (if checkPacket s p named (p.plane ≠ 4 || p.anyp) = 0 && inJib s p x.wdSup then spareEntry s p.die else none) with
    | none => refuse
    | some e => settleLevels (postTo s (Launch.ofPacket p (.handler q) x.wdSup (some q)) e)

/-- The MC reads the packet at WDPKT and posts it; where the read has to wait, it is still to be done (R343). A packet in a lost page kills the open jobs
of the supervisor's ASID (R356; DESIGN CHOICE, log entry 161). -/
def postPacket (s : State) (q : Nat) (x : Queue) : State :=
  let r := mcLoad s (3 * q + 1) x.wdSup (q / 1024) x.wdPkt.toNat 64
  let put (b : Bool) : State := modQueue r.1 q fun y => { y with wdPost := b }
  match r.2 with
  | .ok bs => postHandler (put false) q x (some bs)
  | .bad c _ =>
    let s1 := put false
    postHandler (if c = cMemUce then s1.jobs.foldl (fun s j => if j.2.asid = x.wdSup then doomJob s j.1 cMemUce else s) s1 else s1) q x none
  | .waits _ => put true

/-- The units of launches from a queue that meet R39 end: a completion that meets an expiry counts first (R342). -/
def countQueue (s : State) (q : Nat) : State :=
  s.units.foldl (fun s u => if ((kget s.launches u.2.launch).map fun l => l.acceptedFrom q).getD false then countFirst s u.1 else s) s

/-- The watchdog of a queue expires: EXPIRED first, then the handler's packet, the partition reset and the vector (R334, R343). -/
def expire (s : State) (q : Nat) (x : Queue) : State :=
  let s1 := modQueue s q fun x =>
    { x with wdExpired := true, wdExpn := if x.wdExpn = 0xFFFF then x.wdExpn else x.wdExpn + 1, wdStopped := true, wdCount := 0 }
  let s2 := if x.wdHnd then postPacket s1 q x else s1
  raiseQueue (if x.wdAuto then partitionReset s2 q else s2) q

/-- WATCHDOG_EXPIRY: COUNT has reached TICKS, or the packet of an expiry is still to be read (R334, R343). -/
def watchdogExpiry (s0 : State) (q : Nat) : State :=
  let s := countQueue s0 q
  match kget s.queues q with
  | none => s
  | some x =>
    if x.wdPost then postPacket s q x
    else if !(x.wdEn && x.wdTicks ≠ 0 && !x.wdStopped && x.wdTicks.toNat ≤ x.wdCount.toNat) then s
    else expire s q x

/-! ## The registers of a queue page (Tables 13.4, 14.7) -/

/-- Read a register of a queue page; the page of a queue that does not exist reads zero. -/
def readQueueReg (s : State) (q r : Nat) : Word :=
  match kget s.queues q with
  | none => 0
  | some x =>
    match r with
    | 0x008 => x.qst
    | 0x010 => BitVec.ofNat 64 x.ridx
    | 0x028 => x.lqres
    | 0x040 => BitVec.ofBool x.wdEn ++ BitVec.ofBool x.wdHnd ++ BitVec.ofBool x.wdAuto ++ (0 : BitVec 21) ++ x.wdTicks
    | 0x048 => x.wdCount.setWidth 64
    | 0x050 => x.wdPkt.setWidth 64
    | 0x058 => x.wdSup.setWidth 64
    | 0x068 => x.wdExpn ++ (0 : BitVec 44) ++ BitVec.ofBool x.wdPkterr ++ BitVec.ofBool x.wdResetting ++ BitVec.ofBool x.wdReset ++ BitVec.ofBool x.wdExpired
    | _ => 0

/-- Does an ASID belong to a function: one of its open jobs was opened by it? -/
def asidOf (s : State) (f : PcieFn) (a : BitVec 12) : Bool := s.jobs.any fun j => j.2.asid = a && j.2.fn = f && !j.2.level.complete

/-- May a function name an ASID: the PF any, a VF its own (R289, R333)? -/
def mayName (s : State) (f : PcieFn) (a : BitVec 12) : Bool :=
  match f with
  | .pf => true
  | .vf _ => asidOf s f a

/-- A write by a function to a register of a queue page (R282, R6). -/
def writeQueueReg (s : State) (f : PcieFn) (q r : Nat) (val : Word) : State :=
  match kget s.queues q with
  | none => s
  | some _ =>
    match r with
    | 0x000 => notifyQueue s q val
    | 0x008 => modQueue s q fun x => { x with badn := x.badn && !wb val 2, badc := x.badc && !wb val 3 }
    | 0x018 => cancelQueue s q val
    | 0x020 => queryQueue s q val
    | 0x040 => wdcfgSet s q val
    | 0x050 => modQueue s q fun x => { x with wdPkt := val.setWidth 57 }
    | 0x058 => if mayName s f (val.setWidth 12) then modQueue s q fun x => { x with wdSup := val.setWidth 12 } else s
    | 0x060 => if wf val 7 0 = 0x01 then wdKick s q else if wf val 7 0 = 0x5A then partitionReset s q else s
    | 0x068 => modQueue s q fun x => { x with wdPkterr := x.wdPkterr && !wb val 3, wdReset := x.wdReset && !wb val 1, wdExpired := x.wdExpired && !wb val 0 }
    | _ => s

/-- The item that the replay log keeps of a host write to a queue page (R355). -/
def queueLog (s : State) (k : QueueId) (r : Nat) (val : Word) : Option LogItem :=
  match r with
  | 0x000 => some (.notify k val (((kget s.queues (queueKey k)).map fun x => x.ridx).getD 0))
  | 0x018 => some (.cancel k val)
  | 0x020 => some (.lqry k val)
  | 0x040 => some (.wdcfg k val)
  | 0x060 => some (.wdctl k val)
  | _ => none

/-- A host write to a queue page: its effect, and its place in the replay log. -/
def hostQueueWrite (s : State) (f : PcieFn) (k : QueueId) (r : Nat) (val : Word) : State :=
  if (kget s.queues (queueKey k)).isNone then s
  else
    let s1 := match queueLog s k r val with | some x => logItem s x | none => s
    writeQueueReg s1 f (queueKey k) r val

end Sys2Proof.Machine
end

