-- ==== Sys2Proof/Machine/FrameTable.lean ====
section
/-! DEFINITION. Frame tables and the frame sequencers (R35, R36, R319, R320). -/

namespace Sys2Proof.Machine

/-- The frame state of a die. -/
def frameOf (s : State) (die : Nat) : Frame := dget Frame.initial s.frames die
/-- Put it back. -/
def putFrame (s : State) (die : Nat) (f : Frame) : State := { s with frames := dset Frame.initial s.frames die f }

/-- An entry as a word gives it (Table 14.4). -/
def FrameEntry.ofWord (w : Word) : FrameEntry :=
  { v := wb w 63, skip := wb w 62, gang := wb w 61, sail := w.extractLsb' 58 3, fill := w.extractLsb' 55 3, gid := w.extractLsb' 39 16,
    grace := w.extractLsb' 20 19, ticks := w.extractLsb' 0 20 }

/-- The policy firmware writes a die's table: it takes effect at the next frame (R319). -/
def writeTable (s : State) (die : Nat) (ws : List Word) : State :=
  if 4 ≤ die then s else putFrame s die { frameOf s die with next := some ((ws.take 8).map FrameEntry.ofWord) }

/-- Is an entry valid: V = 1, a sail, and a length (R319)? -/
def FrameEntry.valid (e : FrameEntry) : Bool := e.v && e.sail.toNat < 4 && e.ticks ≠ 0

/-- Is a unit bound on a sail of a die? -/
def sailBound (s : State) (die sail : Nat) : Bool := s.slots.any fun x => x.2.bound && x.1 / 320 = die && x.1 % 5 = sail

/-- Is an entry taken when its turn comes: not passed over (R319, R369)? -/
def takesEntry (s : State) (die : Nat) (e : FrameEntry) : Bool :=
  e.valid && !dget false s.sailsOut (4 * die + e.sail.toNat) && (!e.skip || sailBound s die e.sail.toNat)

/-- The first entry from a number on that is taken. -/
def entryFrom? (s : State) (die : Nat) (es : List FrameEntry) (i : Nat) : Option (Nat × FrameEntry) :=
  (es.zipIdx.find? fun x => i ≤ x.2 && takesEntry s die x.1).map fun x => (x.2, x.1)

/-- An entry begins: its sail is active, or, in a gang slice, the members settle first. -/
def beginEntry (s : State) (die : Nat) (f : Frame) (j : Nat) (e : FrameEntry) (start : Word) : State :=
  putFrame s die
    (if e.gang then
      { f with cur := j, start := start, gang := some { start := start, sentReady := false, readyFrom := [], decision := none, lost := false } }
    else { f with cur := j, start := start, active := e.sail.toNat, gang := none })

/-- The frame length: the ticks of its valid entries. -/
def frameLength (es : List FrameEntry) : Nat := es.foldl (fun a e => if e.valid then a + e.ticks.toNat else a) 0

/-- When a frame that may start at a `tb` starts: with a gang slice at the next multiple of the frame length, which is 0 where `tb` wraps before another
(R3, R319). -/
def frameStart (es : List FrameEntry) (t : Word) : Word :=
  let n := frameLength es
  let m := (t.toNat + n - 1) / n * n
  if n ≠ 0 && es.any fun e => e.v && e.gang then (if 2 ^ 64 ≤ m then 0 else BitVec.ofNat 64 m) else t

/-- A frame starts: its first entry begins. Where every entry is passed over the frame takes no time, and the next starts at once or, with a gang
slice, at the next multiple of the frame length; sail 0 stays active where no entry is valid (R319). -/
def beginFrame (s : State) (die : Nat) (f : Frame) (start : Word) : State :=
  match entryFrom? s die f.entries 0 with
  | some (j, e) => beginEntry s die f j e start
  | none => putFrame s die { f with cur := 8, start := if f.entries.any fun e => e.v && e.gang then frameStart f.entries (s.tb + 1) else f.start, active := if f.entries.any FrameEntry.valid then f.active else 0, gang := none }

/-- One frame has ended at a `tb`: the next takes the table that has been written. -/
def nextFrame (s : State) (die : Nat) (f : Frame) (t : Word) : State :=
  let f1 := { f with entries := f.next.getD f.entries, next := none, cur := 8, gang := none }
  let start := frameStart f1.entries t
  if earlier s.tb start then putFrame s die { f1 with start := start } else beginFrame s die f1 start

/-- FRAME_ENTRY_END: an entry's time is over, and the next begins (R35, R36, R319, R320). -/
def frameEntryEnd (s : State) (die : Nat) : State :=
  let f := frameOf s die
  if 4 ≤ die || s.fwState ≠ .running then s
  else
    match f.entries[f.cur]? with
    | none =>
      let gang : Bool := f.entries.any fun e => e.v && e.gang
      if f.next.isSome then nextFrame s die f s.tb
      else if gang && earlier s.tb f.start then s
      else beginFrame s die f (if gang then f.start else s.tb)
    | some e =>
      let t := f.start + e.ticks.setWidth 64
      if earlier s.tb t then s
      else
        match entryFrom? s die f.entries (f.cur + 1) with
        | some (j, e') => beginEntry s die f j e' t
        | none => nextFrame s die f t

/-- How many ticks are left until a die's frame sequencer acts: the end of the entry that runs, or the start of a frame with a gang slice. -/
def frameDue (s : State) (die : Nat) : Option Nat :=
  let f := frameOf s die
  match f.entries[f.cur]? with
  | some e =>
    let t := f.start + e.ticks.setWidth 64
    some (if earlier s.tb t then (t - s.tb).toNat else 0)
  | none => if (f.entries.any fun e => e.v && e.gang) && earlier s.tb f.start then some (f.start - s.tb).toNat else none

/-- The frame sequencers of all dies act where they are due. -/
def framesAct (s : State) : State := (List.range 4).foldl frameEntryEnd s

/-- A die's frame sequencer begins a frame anew, at the first `tb` at which one may start (R319, R354). -/
def restartFrame (s : State) (die : Nat) : State :=
  let f := frameOf s die
  frameEntryEnd (putFrame s die { f with cur := 8, gang := none, start := frameStart f.entries s.tb }) die

/-- Every die's does: after a rollback no frame runs on from a `tb` that has passed (R43, R354; log entry 154). -/
def restartFrames (s : State) : State := (List.range 4).foldl restartFrame s

/-- How many of some ticks pass before a frame sequencer is due (R43, R320). -/
def ticksFree (s : State) (n : Nat) : Nat :=
  if s.fwState ≠ .running then n else (List.range 4).foldl (fun k d => match frameDue s d with
    | some m => min k m
    | none => k) n

end Sys2Proof.Machine
end

