-- ==== Sys2Proof/Machine/Sequencer.lean ====
section
/-! DEFINITION. What the scalar instructions share: traps (R256, Table 9.8), translation faults (R332), reads by a sequencer with the windows that they
meet (R89–R91, R242), fetching (R121, R123), and waiting instructions (R233). -/

namespace Sys2Proof.Machine

/-! ## Traps (R256) -/

/-- `ill.instr` (Table 14.5). -/
def cIllInstr : BitVec 16 := 0x1
/-- `priv.instr`. -/
def cPrivInstr : BitVec 16 := 0x2
/-- `sw.trap`. -/
def cSwTrap : BitVec 16 := 0x4

/-- The word of an instruction, for `hval` and CFGW. -/
def wordOfInstr (i : Instr) : BitVec 32 := (encode i).getD 0

/-- A trap at a sequencer (R256): its handler takes it, or the unit ends faulted and a record is written (R329), with the poison's cause code as VAL of
`data.poison` (Tables 14.5, 14.6). -/
def trapSeq (s : State) (u : UnitId) (w : WorkUnit) (resume : BitVec 57) (cause : BitVec 16) (val : Word) (word : BitVec 32) (val2 : Word) : State :=
  let w1 := { w with winWait := [], poisoned := false }
  let s1 := { s with watches := kdel s.watches (2 * u) }
  if w.handles then putUnit s1 u (w1.enter resume cause val) else recordSeq (launchFaults (putUnit s1 u (w1.die cause)) w cause) w cause word (if cause = cDataPoison then cCopyCancel.setWidth 64 else val) val2

/-- A trap of the instruction at the pc. -/
def trapHere (s : State) (u : UnitId) (w : WorkUnit) (cause : BitVec 16) (val : Word) (i : Instr) : Res :=
  done (trapSeq s u w w.pc cause val (wordOfInstr i) 0)

/-- A fault that an access of the sequencer meets: a translation fault withholds it with one record (R332), an uncorrectable error kills the job
(R356), and the others trap (R256). -/
def seqFault (s : State) (u : UnitId) (w : WorkUnit) (acc : Access) (cause : BitVec 16) (va : Nat) (word : BitVec 32) : State :=
  let v := BitVec.ofNat 64 va
  if cause = cMemUce then doomJob s w.job cMemUce
  else if cause = cXlatMiss ∨ cause = cXlatProt then
    recordSeq (putUnit s u { w with held := some { va := va, acc := acc, at_ := s.tb } }) w cause word v 0
  else trapSeq s u w w.pc cause v word 0

/-- XLAT_REWALK of a sequencer (R332): every 10 µs the withheld access is translated again. A walk that succeeds lets the instruction run
again; the first that fails is a trap. -/
def seqRewalk (s : State) (u : UnitId) : State :=
  match kget s.units u with
  | none => s
  | some w =>
    match w.held with
    | none => s
    | some h =>
      if w.life ≠ .bound || w.cancelled || (s.tb - h.at_).toNat < 10000 then s
      else
        match translate s w.asid h.va h.acc with
        | .ok _ => putUnit s u { w with held := none }
        | .bad c =>
          if c = cMemUce then doomJob s w.job cMemUce
          else if w.handles then trapSeq s u w w.pc c (BitVec.ofNat 64 h.va) 0 0 else launchFaults (putUnit s u (w.die c)) w c

/-! ## Reads -/

/-- What a read by a sequencer meets: its bytes, a fault, the poison of a cancelled copy, or a wait on bytes under windows. -/
inductive SeqRead where
  | ok (bs : List Byte)
  | bad (cause : BitVec 16) (va : Nat)
  | poison
  | waits (on : List (Phys × Nat))
deriving Repr

/-- Read `n` bytes as a unit's sequencer. -/
def seqRead (s : State) (w : WorkUnit) (va n : Nat) (acc : Access) : SeqRead :=
  if w.poisoned then .poison
  else
    match mapRange s w.asid va n acc with
    | .bad c a => .bad c a
    | .waits on => .waits on
    | .ok ps =>
      let on := (ps.filter fun x => windowed s none x.2.1 x.2.2).map fun x => (x.2.1, x.2.2)
      if !on.isEmpty || ps.any fun x => tierBusy s x.2.1 then .waits on
      else .ok (ps.flatMap fun x => readPhys s w.tp.die x.2.1 x.2.2)

/-- The instruction stays where it is until the windows that it met have passed. -/
def stayOn (s : State) (u : UnitId) (w : WorkUnit) (on : List (Phys × Nat)) : State := putUnit s u { w with winWait := on }

/-- Go on with what a sequencer's read met. -/
def SeqRead.andThen (r : SeqRead) (s : State) (u : UnitId) (w : WorkUnit) (acc : Access) (va : Nat) (i : Instr) (k : List Byte → Res) : Res :=
  match r with
  | .ok bs => k bs
  | .bad c a => done (seqFault s u w acc c a (wordOfInstr i))
  | .poison => trapHere s u w cDataPoison (BitVec.ofNat 64 va) i
  | .waits on => .next (stayOn s u w on)

/-! ## Waiting instructions (R233) -/

/-- The unit with its sequencer waiting in an instruction: since a `tb`, or since it began to. -/
def WorkUnit.waitFrom (w : WorkUnit) (tb : Word) (i : Instr) : WorkUnit :=
  { w with seq := match w.seq with
      | .wait t j p => .wait t j p
      | _ => .wait tb i [] }

/-- The instruction waits, from now or from when it began to, on bytes under active windows where a read of it does (R89); a read that has met poison
keeps its own (R91). -/
def waitIn (s : State) (u : UnitId) (w : WorkUnit) (i : Instr) (packet : List Word) (on : List (Phys × Nat) := []) : Res :=
  let start := match w.seq with | .wait t _ _ => t | _ => s.tb
  .next (putUnit s u { w with seq := .wait start i packet, winWait := if w.poisoned then w.winWait else on })

/-- The state after an instruction that may have waited retires. -/
def retiredWait (s : State) (u : UnitId) (w : WorkUnit) (rd : Reg) (v : Word) : State :=
  putUnit { s with watches := kdel s.watches (2 * u) } u ({ w with seq := .run, winWait := [], poisoned := false }.setReg rd v).advance

/-- An instruction that may have waited retires. -/
def retireWait (s : State) (u : UnitId) (w : WorkUnit) (rd : Reg) (v : Word) : Res := .next (retiredWait s u w rd v)

/-- Run a meaning on a unit whose sequencer waits in an instruction. -/
def onWaiting (s : State) (u : UnitId) (f : WorkUnit → Word → Instr → List Word → Res) : Res :=
  match kget s.units u with
  | none => .next s
  | some w =>
    match w.seq with
    | .wait t i packet => if w.life = .bound && w.held.isNone && !w.cancelled then f w t i packet else .next s
    | _ => .next s

/-! ## Fetching (R121, R123) -/

/-- The address of the fetch block that holds an instruction. -/
def blockOf (pc : BitVec 57) : Nat := pc.toNat / 64 * 64

/-- The sixteen instruction words of a fetch block. -/
def blockWords (bs : List Byte) : List (BitVec 32) :=
  (List.range 16).map fun i => word32 (bs.getD (4 * i) 0) (bs.getD (4 * i + 1) 0) (bs.getD (4 * i + 2) 0) (bs.getD (4 * i + 3) 0)

/-- What a fetch gives: the unit with its fetch block read and the instruction at its pc, or what becomes of the sequencer instead. -/
inductive Fetched where
  | got (w : WorkUnit) (i : Instr)
  | not (r : Res)

/-- The instruction that a word stands for: one that is not assigned is ILLEGAL_INSTRUCTION (R120). -/
def instrOfWord (x : BitVec 32) : Instr :=
  match decodeWord x with
  | .ok i => i
  | .bad _ => .illegalInstruction x

/-- The instruction at the pc in a block that has been read. -/
def instrIn (xs : List (BitVec 32)) (pc : BitVec 57) : Instr := instrOfWord (xs.getD (pc.toNat / 4 % 16) 0)

/-- Fetch the instruction at the pc: a block is read whole when control enters it (R123). -/
def fetch (s : State) (u : UnitId) (w : WorkUnit) : Fetched :=
  let a := blockOf w.pc
  let read : Fetched :=
    match seqRead s w a 64 .fetch with
    | .ok bs => .got { w with fblock := some (a, blockWords bs), winWait := [] } (instrIn (blockWords bs) w.pc)
    | .bad c va => .not (done (seqFault s u w .fetch c va 0))
    | .poison => .not (done (trapSeq s u w w.pc cDataPoison (BitVec.ofNat 64 a) 0 0))
    | .waits on => .not (.next (stayOn s u w on))
  match w.fblock with
  | some (b, xs) => if b = a then .got w (instrIn xs w.pc) else read
  | none => read

end Sys2Proof.Machine
end

