-- ==== Sys2Proof/Machine/ScalarCsr.lean ====
section
/-! DEFINITION. The control-and-status registers (R234–R236, Tables 9.1, 9.2, 2.4, 4.17, 7.7, 8.11) and the three instructions that
access them. -/

namespace Sys2Proof.Machine

/-- The registers of a unit's own tile-plane (R234). -/
def ownRegs (s : State) (w : WorkUnit) : TpRegs := dget TpRegs.initial s.tps w.tp.key

/-- `warn` as a word (Table 4.17). -/
def TpRegs.warnWord (r : TpRegs) : Word := (0 : BitVec 38) ++ r.firstLy ++ r.firstOp ++ (0 : BitVec 9) ++ r.warn

/-- `vrec` as a word (Table 7.7). -/
def TpRegs.vrecWord (r : TpRegs) : Word :=
  (0 : BitVec 16) ++ r.vcnt ++ r.vlanes ++ r.vslot ++ BitVec.ofBool r.vbsel ++ r.vcopy ++ (0 : BitVec 7) ++ BitVec.ofBool r.vv

/-- `unit` as a word (Table 9.2). -/
def WorkUnit.unitWord (w : WorkUnit) : Word :=
  (0 : BitVec 16) ++ BitVec.ofBool w.hmode ++ BitVec.ofBool w.cpath ++ BitVec.ofNat 3 w.tp.plane ++ BitVec.ofNat 2 w.tp.die ++ BitVec.ofNat 6 w.tp.tile ++
    (0 : BitVec 23) ++ w.asid

/-- `prq` as a word (R310, Table 9.2). -/
def prqWord (s : State) (w : WorkUnit) : Word :=
  if w.req then BitVec.ofNat 64 (2 ^ 63 + (if earlier s.tb w.deadline then min (w.deadline - s.tb).toNat (2 ^ 24 - 1) else 0)) else 0

/-- `hvec` as a word (Table 9.2). -/
def WorkUnit.hvecWord (w : WorkUnit) : Word := (0 : BitVec 7) ++ w.hvecVec ++ (0 : BitVec 5) ++ BitVec.ofBool w.hvecEn

/-- Read a CSR; none where the number is unassigned (Table 9.1). -/
def csrRead (s : State) (w : WorkUnit) (n : BitVec 12) : Option Word :=
  match n.toNat with
  | 0x000 => some s.tb
  | 0x002 => some w.unitWord
  | 0x010 => some ((ownRegs s w).numst.setWidth 64)
  | 0x011 => some (ownRegs s w).warnWord
  | 0x012 => some (ownRegs s w).vrecWord
  | 0x020 => some w.ntfc
  | 0x021 => some (w.wto.setWidth 64)
  | 0x030 => some (prqWord s w)
  | 0x100 => some w.hvecWord
  | 0x101 => some (w.hepc.setWidth 64)
  | 0x102 => some (w.hcause.setWidth 64)
  | 0x103 => some w.hval
  | 0x104 => some w.hscr
  | k => if 0x800 ≤ k ∧ k < 0x880 ∧ k % 4 ≠ 3 then some (chanReg s w.tp.die ((k - 0x800) / 4) (k % 4)) else none

/-- The three CSR instructions. -/
inductive CsrOp where
  | rw | rs | rc
deriving DecidableEq, Repr

/-- What a read-write field receives (R236). -/
def CsrOp.value (m : CsrOp) (old x : Word) : Word :=
  match m with
  | .rw => x
  | .rs => old ||| x
  | .rc => old &&& ~~~x

/-- The bits of write-one-to-clear fields that are cleared (R236). -/
def CsrOp.clears (m : CsrOp) (x : Word) : Word :=
  match m with
  | .rc => 0
  | _ => x

/-- Clear bits of `warn`; FIRSTOP and FIRSTLY are cleared where no class bit is left (R126). -/
def TpRegs.clearWarn (r : TpRegs) (x : BitVec 7) : TpRegs :=
  let b := r.warn &&& ~~~x
  { r with warn := b, firstOp := if b = 0 then 0 else r.firstOp, firstLy := if b = 0 then 0 else r.firstLy }

/-- Change the registers of a unit's tile-plane. -/
def putOwnRegs (s : State) (w : WorkUnit) (r : TpRegs) : State := { s with tps := dset TpRegs.initial s.tps w.tp.key r }

/-- Write a CSR, field by field (R236): the state with the device's registers, and the unit. -/
def csrWrite (s : State) (w : WorkUnit) (n : BitVec 12) (v clr : Word) : State × WorkUnit :=
  let r := ownRegs s w
  match n.toNat with
  | 0x010 => (putOwnRegs s w { r with numst := r.numst &&& ~~~(clr.setWidth 5) }, w)
  | 0x011 => (putOwnRegs s w (r.clearWarn (clr.setWidth 7)), w)
  | 0x012 => (putOwnRegs s w { r with vcnt := v.extractLsb' 32 16, vv := r.vv && !clr.getLsbD 0 }, w)
  | 0x020 => (s, { w with ntfc := v })
  | 0x021 => (s, { w with wto := v.setWidth 32 })
  | 0x100 => (s, { w with hvecVec := v.extractLsb' 6 51, hvecEn := v.getLsbD 0 })
  | 0x101 => (s, { w with hepc := v.setWidth 57 })
  | 0x104 => (s, { w with hscr := v })
  | _ => (s, w)

/-- A CSR instruction (R234, R236). -/
def csrAccess (m : CsrOp) (rd rs1 : Reg) (n : BitVec 12) (i : Instr) (s : State) : Res :=
  onUnit s fun u w =>
    match csrRead s w n with
    | none => trapHere s u w cIllInstr ((wordOfInstr i).setWidth 64) i
    | some old =>
      if 0x100 ≤ n.toNat ∧ n.toNat < 0x200 ∧ !w.hmode then trapHere s u w cPrivInstr ((wordOfInstr i).setWidth 64) i
      else if rs1 = 0 ∧ m ≠ .rw then retire s u w rd old
      else
        let x := w.reg rs1
        let r := csrWrite s w n (m.value old x) (m.clears x)
        retire r.1 u r.2 rd old

def execCsrrw (rd rs1 : Reg) (csr : BitVec 12) (s : State) : Res := csrAccess .rw rd rs1 csr (.csrrw rd rs1 csr) s
def execCsrrs (rd rs1 : Reg) (csr : BitVec 12) (s : State) : Res := csrAccess .rs rd rs1 csr (.csrrs rd rs1 csr) s
def execCsrrc (rd rs1 : Reg) (csr : BitVec 12) (s : State) : Res := csrAccess .rc rd rs1 csr (.csrrc rd rs1 csr) s

end Sys2Proof.Machine
end

