-- ==== Sys2Proof/Machine/Saves.lean ====
section
/-! DEFINITION. The pre-emption request (R310, R311), saving a unit (R312, R313, R316–R318), restoring it (R314), and jib moves
(R322). -/

namespace Sys2Proof.Machine

/-! ## Beginning a save (R310, R312) -/

/-- A memory operation that waits is withdrawn (R312): it is issued again after the restore, before any later one of its thread (R100). One that has trapped
stays withheld (R99, R331). -/
def MemFire.withdrawn (x : MemFire) : MemFire :=
  { x with started := none, winWait := [], queued := none, again := true
           fault := match x.fault with
             | some (c, a, t) => if c = cXlatMiss ∨ c = cXlatProt then none else some (c, a, t)
             | none => none }

/-- A save of an instance's unit: what waits is withdrawn, and the stores that it has deferred stand before the `fence.sys` that the save and the restore
count as (R100). -/
def Inst.saved (it : Inst) : Inst := { it with waiting := it.waiting.map MemFire.withdrawn, fenced := it.fenced || !it.deferred.isEmpty }

/-- A `cmd` with FE whose emptying has been done has retired: a save does not withdraw it (R233, R275). -/
def WorkUnit.feRetired (s : State) (w : WorkUnit) : WorkUnit :=
  match w.feWait, w.seq with
  | some n, .wait _ (.cmd rd _ _) _ => if emptying s n then w else ({ w with seq := .run }.setReg rd 0).advance
  | _, _ => w

/-- Begin the save of a unit: its sequencer stops between instructions, a waiting instruction is withdrawn, its request is cleared. Its instances
that have ended commit in full (R32). -/
def beginSave (s0 : State) (u : UnitId) (w0 : WorkUnit) (reason : Nat) : State :=
  let s := settleEnded s0 u
  let w := w0.feRetired s
  let gone : List Nat := 2 * u :: (s.insts.filter fun n => n.2.unit = u).flatMap fun n => n.2.waiting.map fun x => 2 * x.op + 1
  let seq : SeqSt := match w.seq with
    | .wait _ _ _ => .run
    | q => q
  { s with
    units := kput s.units u { w with life := .saving reason s.tb, req := false, deadline := 0, seq := seq, held := none, winWait := if w.poisoned then w.winWait else [], feWait := none }
    ops := match w.feWait with | some n => (if emptying s n then kdel s.ops n else s.ops) | none => s.ops
    insts := s.insts.map fun n => if n.2.unit = u then (n.1, n.2.saved) else n
    watches := s.watches.filter fun x => !gone.contains x.1 }

/-- The MC raises REQ on a bound sail unit with a deadline of D ticks (R310); a unit that meets R39 completes instead (R342). -/
def raiseReq (s : State) (u : UnitId) (d : Nat) : State :=
  match kget s.units u with
  | none => s
  | some w =>
    if w.life ≠ .bound || w.cancelled || w.tp.plane = 4 || w.req || d = 0 || 2 ^ 24 < d || unitDone s u w then s
    else putUnit s u { w with req := true, deadline := s.tb + BitVec.ofNat 64 d }

/-- Does a ready launch of higher priority want the tile-plane of a unit (R304, R311)? -/
def outranked (s : State) (w : WorkUnit) : Bool :=
  let sl := dget Slot.initial s.slots w.tp.key
  let mine := ((kget s.launches w.launch).map fun l => launchPriority s l).getD 0
  s.launches.any fun x =>
    let l := x.2
    launchReady s x.1 l && !launchBad s l && l.pkt.die = w.tp.die && l.toBind.contains w.tp.tile && mine < launchPriority s l &&
      sl.held && sl.asid = l.asid && sl.job.toNat = l.pkt.job && (l.pkt.anyp || l.pkt.plane = w.tp.plane) && l.sail.all fun p => p = w.tp.plane

/-- The MC withdraws a request (R310); that of a boundary stands (R350). -/
def withdrawReq (s : State) (u : UnitId) : State :=
  match kget s.units u with
  | none => s
  | some w => if w.life = .bound && w.req && !w.forBoundary then putUnit s u { w with req := false, deadline := 0 } else s

/-- PREEMPT_REQUEST: the MC raises REQ to free a tile-plane for a ready launch of higher priority, or, with a deadline of 0, withdraws its request
(R310, R311; log entry 121). A REVOKE and a boundary raise it themselves. -/
def preemptRequest (s : State) (u : UnitId) (d : Nat) : State :=
  if d = 0 then withdrawReq s u
  else if ((kget s.units u).map (outranked s)).getD false then raiseReq s u d
  else s

/-- Is the next instruction of a unit's sequencer a `yield`? -/
def yieldsNext (s : State) (u : UnitId) (w : WorkUnit) : Bool :=
  w.running && match fetch s u w with
  | .got _ (.yield _) => true
  | _ => false

/-- PREEMPT_DEADLINE: a unit that has not yielded before its deadline is saved by force (R310); one that meets R39 completes instead, and a `yield` at
the same moment makes the save cooperative (R342). -/
def preemptDeadline (s : State) (u : UnitId) : State :=
  match kget s.units u with
  | none => s
  | some w =>
    if w.life ≠ .bound || w.cancelled || !w.req || earlier s.tb w.deadline || unitDone s u w || (s.tb = w.deadline && yieldsNext s u w) then s
    else beginSave s u w 2

/-! ## The record (R317) -/

/-- The place of the consumer of an arc, as a token entry names it. -/
def dstLoc (d : ArcEnd) (pos : Nat) : Nat :=
  match d with
  | .op b sl i => tokenLoc b false sl i false (pos = 0) pos
  | .rtr b r i => tokenLoc b true r i false (pos = 0) pos
  | .port n => tokenLoc n false 0 0 true false pos

/-- The tokens that stand on an arc, oldest first. -/
def Arc.tokens (a : Arc) : List Token :=
  a.q.filterMap fun x => match x with
    | .tok t _ => some t
    | .pending _ _ => none

/-- The token entries of an arc. -/
def Arc.entries (a : Arc) : List (List Byte) := a.tokens.mapIdx fun i t => tokenEntry (dstLoc a.dst i) t

/-- The sequencer section of a record (Table 14.2). -/
def WorkUnit.section (w : WorkUnit) : List Byte :=
  ((List.range 31).flatMap fun i => wordBytes (w.regs.toList.getD (i + 1) 0)) ++ leBytes 8 w.preds.toNat ++ leBytes 8 w.pc.toNat ++
    wordBytes w.ntfc ++ leBytes 8 w.wto.toNat ++ wordBytes w.hvecWord ++ leBytes 8 w.hepc.toNat ++ leBytes 8 w.hcause.toNat ++
    wordBytes w.hval ++ wordBytes w.hscr ++ w.seeds.toList.flatMap wordBytes

/-- The bytes of a unit save record, with its CRC (R317). The token entries are those of the unit's images, its own first (R312); the sections that
are not architectural hold some bytes, which the CRC checks. -/
def recordBytes (w : WorkUnit) (img : Option Image) (imgs : List Image) (opaque_ : List Byte) (reason : Nat) (start : Word) : List Byte :=
  let toks : List (List Byte) := imgs.flatMap fun x => x.arcs.flatMap Arc.entries
  let used := 512 + 96 * toks.length + opaque_.length
  let len := (used + 63) / 64 * 64
  let gid : Word := match img with | some x => x.graphid | none => 0
  let va := match img with | some x => x.va | none => 0
  let icrc := match img with | some x => fieldAt x.src 0x30 4 | none => 0
  let head (crc : Nat) : List Byte :=
    leBytes 4 0x54494E55 ++ leBytes 4 len ++ wordBytes (unitHandle w.job w.home) ++ wordBytes gid ++ leBytes 8 va ++ leBytes 4 icrc ++
      leBytes 1 reason ++ leBytes 1 (w.faulted.toNat + 2 * w.hmode.toNat) ++ leBytes 2 toks.length ++ wordBytes start ++ leBytes 12 0 ++ leBytes 4 crc
  let body := w.section ++ toks.flatMap id ++ opaque_ ++ List.replicate (len - used) 0
  head (crc32c (head 0 ++ body)).toNat ++ body

/-! ## Completing a save (R312, R316, R318) -/

/-- The words of the lane-file windows of an image, by their places. -/
def windowValues (s : State) (img : Image) : List (Nat × Lane) := (windowWords img).map fun k => (k, dget 0 s.lanes k)

/-- The images of a unit, its own first. -/
def ownFirst (key : Nat) (imgs : List (Nat × Image)) : List (Nat × Image) := (imgs.filter fun x => x.1 = key) ++ imgs.filter fun x => x.1 ≠ key

/-- Everything that a save holds of a unit: what has taken effect stays, and what waits is issued again (R100, R312). An instance that has ended is
not held: it commits (R32). -/
def captureUnit (s : State) (u : UnitId) (w : WorkUnit) (reason : Nat) (start : Word) : SavedUnit :=
  let imgs := ownFirst w.tp.key (s.images.filter fun x => x.2.unit = u)
  let tps := w.tp.key :: imgs.flatMap fun x => imageTps x.2
  { tp := w.tp, entry := (dget Slot.initial s.slots w.tp.key).entry, images := imgs, insts := s.insts.filter fun n => n.2.unit = u && !n.2.ended,
    regs := tps.map fun k => (k, dget TpRegs.initial s.tps k), streams := s.streams.filter fun x => x.2.unit = u,
    words := imgs.flatMap fun x => windowValues s x.2,
    bytes := recordBytes w ((imgs.find? fun x => x.1 = w.tp.key).map fun x => x.2) (imgs.map fun x => x.2) ((Config.saveSections s.freeCount).take (2 ^ 29)) reason start, reason := reason }

/-- The unit leaves its tile-planes: BOUND is cleared on each of them (R312). -/
def unloadUnit (s : State) (u : UnitId) (w : WorkUnit) (sv : SavedUnit) (reason rec : Nat) : State :=
  let s1 := unbindSlots (clearHalts s u) u
  { s1 with
    units := kput s1.units u { w with life := .saved reason rec }
    images := s1.images.filter fun x => x.2.unit ≠ u
    insts := s1.insts.filter fun n => n.2.unit ≠ u || n.2.ended
    freeCount := s1.freeCount + 1
    streams := s1.streams.filter fun x => x.2.unit ≠ u
    saves := kput s1.saves u sv }

/-- The records that lie in the save area of a job: (offset, bytes). -/
def heldRecords (s : State) (job savea : Nat) : List (Nat × Nat) :=
  s.units.filterMap fun u => match u.2.life, kget s.saves u.1 with
    | .saved r rec, some sv => if u.2.job = job && r ≠ 3 && !u.2.forBoundary then some (rec - savea, sv.bytes.length) else none
    | _, _ => none

/-- The lowest place for a record of `n` bytes in the records region of a save area (R316, R317). -/
def recordPlace (s : State) (job : Nat) (j : Job) (n : Nat) : Option Nat :=
  let held := heldRecords s job j.savea
  let free (o : Nat) : Bool := o + n ≤ j.size && held.all fun h => o + n ≤ h.1 || h.1 + h.2 ≤ o
  let cands : List Nat := (0x4500000 :: held.map fun h => h.1 + h.2).filter free
  cands.foldl (fun a o => match a with | some b => some (min b o) | none => some o) none

/-- UNIT_SAVE_COMPLETE: the record of a unit whose save is under way is complete (R312, R316). -/
def saveComplete (s : State) (u : UnitId) : State :=
  match kget s.units u with
  | none => s
  | some w =>
    match w.life with
    | .saving reason start =>
      let sv := captureUnit s u w reason start
      if w.forBoundary || reason = 3 then unloadUnit s u w sv reason 0
      else
        match kget s.jobs w.job with
        | none => s
        | some j =>
          match recordPlace s w.job j sv.bytes.length with
          | none => saveFault s w.job (rootOf s (some w.launch)) (unitHandle w.job w.home) (j.savea + 0x4500000)
          | some off =>
            if tierWaits s j.asid (j.savea + off) sv.bytes.length then s
            else
            match storeExempt s j.asid (j.savea + off) sv.bytes with
            | .ok s1 => setNunit (unloadUnit s1 u w sv reason (j.savea + off)) w.job (j.nunit + 1)
            | .bad _ va => saveFault s w.job (rootOf s (some w.launch)) (unitHandle w.job w.home) va
            | .waits _ => s
    | _ => s

/-! ## Restoring a unit (R314) -/

/-- A token entry read back: its place without the latch mark and position, its position, and the token; none where its class is
reserved (R12). -/
def readToken (bs : List Byte) : Option (Nat × Nat × Token) :=
  let w := fieldAt bs 0 8
  let cls : Option TokClass := match w / 2 ^ 30 % 16 with
    | 0 => some .data
    | 1 => some .control
    | 2 => some .header
    | 3 => some .poison
    | _ => none
  cls.map fun c =>
    (w % 2 ^ 21, w / 2 ^ 22 % 256,
      { lanes := Vector.ofFn fun i => BitVec.ofNat 40 (fieldAt bs (8 + 5 * i.val) 5), mask := BitVec.ofNat 16 (w / 2 ^ 34), cls := c })

/-- The token entries of a record. -/
def readTokens (bs : List Byte) : Option (List (Nat × Nat × Token)) :=
  (List.range (fieldAt bs 0x26 2)).foldr (fun i acc => acc.bind fun xs => (readToken ((bs.drop (512 + 96 * i)).take 96)).map fun t => t :: xs) (some [])

/-- Put an entry among others by position. -/
def insertPos (t : Nat × Nat × Token) : List (Nat × Nat × Token) → List (Nat × Nat × Token)
  | [] => [t]
  | x :: xs => if t.2.1 ≤ x.2.1 then t :: x :: xs else x :: insertPos t xs

/-- Place tokens on an arc, in order, between the places that memory operations have reserved. -/
def placeTokens : List QEntry → List Token → List QEntry
  | [], ts => ts.map fun t => .tok t Tag.none
  | .pending op g :: q, ts => .pending op g :: placeTokens q ts
  | .tok _ g :: q, t :: ts => .tok t g :: placeTokens q ts
  | .tok _ _ :: q, [] => placeTokens q []

/-- Give an arc of the placed image what the saved arc held, with its tokens of the record. -/
def Arc.refill (a old : Arc) (mine : List (Nat × Nat × Token)) : Arc :=
  { a with count := old.count, hcount := old.hcount, q := placeTokens old.q ((mine.foldr insertPos []).map fun t => t.2.2) }

/-- Give the arcs of the placed image what the saved ones held. The record names the arcs to the three copies of a triplicated operator alike (Table 14.3):
each takes as many of their tokens, in the order of the arcs, as the save found on it, and the last what is left. -/
def refillArcs : List (Arc × Arc) → List (Nat × Nat × Token) → List Arc
  | [], _ => []
  | (a, old) :: rest, toks =>
    let here (d : ArcEnd) : Nat := dstLoc d 1 % 2 ^ 21
    let mine := toks.filter fun t => t.1 = here a.dst
    let n := if rest.any fun x => here x.1.dst = here a.dst then old.tokens.length else mine.length
    a.refill old (mine.take n) :: refillArcs rest ((toks.filter fun t => t.1 ≠ here a.dst) ++ mine.drop n)

/-- Give an operator what the saved one held, copy by copy in dealing order. -/
def OpSlot.refill (o old : OpSlot) : OpSlot :=
  let cs := o.copies.mapIdx fun i c => match old.copies[i]? with
    | some k => { c with hdr := k.hdr, acc := k.acc, cnt := k.cnt }
    | none => c
  { o with copies := cs, dealt := old.dealt, stopped := old.stopped, pend := old.pend }

/-- Give a block what the saved one held. -/
def Block.refill (b old : Block) : Block :=
  { b with
    ops := (b.ops.zip old.ops).map fun x => x.1.refill x.2
    rtrs := (b.rtrs.zip old.rtrs).map fun x => { x.1 with loop := x.2.loop, tookX := x.2.tookX, count := x.2.count } }

/-- Do two images have the same blocks and arcs? -/
def sameShape (a b : Image) : Bool :=
  (a.blocks.map fun x => (x.ops.length, x.rtrs.length)) = (b.blocks.map fun x => (x.ops.length, x.rtrs.length)) &&
    (a.arcs.map fun x => (x.src, x.dst)) = (b.arcs.map fun x => (x.src, x.dst))

/-- Give a placed image what the saved one held; none where the tokens name ports that it does not have (R314). -/
def Image.refill (img old : Image) (toks : List (Nat × Nat × Token)) : Option Image :=
  let known := toks.all fun t => img.arcs.any fun a => t.1 = dstLoc a.dst 1 % 2 ^ 21
  if sameShape img old && known then
    some { img with
      blocks := (img.blocks.zip old.blocks).map fun x => x.1.refill x.2
      arcs := refillArcs (img.arcs.zip old.arcs) toks
      ports := (img.ports.zip old.ports).map fun x => { x.1 with hdr := x.2.hdr, headed := x.2.headed } }
  else none

/-- Where the parts of the saved image have gone: (old tile, old element, new tile, new element, window). -/
def copyMoves (img old : Image) : List ((Nat × Nat) × (Nat × Nat) × Option (Nat × Nat)) :=
  (old.blocks.zip img.blocks).flatMap fun b => (b.1.ops.zip b.2.ops).flatMap fun o =>
    (o.1.copies.zip o.2.copies).map fun c => ((c.1.tile, c.1.elem), (c.2.tile, c.2.elem), o.1.lfw)

/-- Set the lane-file words of an image from the record (R314). -/
def restoreWords (s : State) (sv : SavedUnit) (img old : Image) : State :=
  let at_ (k : Nat) : Lane := ((sv.words.find? fun x => x.1 = k).map fun x => x.2).getD 0
  { s with lanes := (copyMoves img old).foldl (fun m c => match c.2.2 with
      | none => m
      | some (base, len) => (List.range 16).foldl (fun m l => (List.range len).foldl (fun m i =>
          dset 0 m (laneKey img.die c.2.1.1 c.2.1.2 l (base + i)) (at_ (laneKey old.die c.1.1 c.1.2 l (base + i)))) m) m) s.lanes }

/-- Set the plane registers of the tile-planes that an image has come to from those that it has left. -/
def restoreRegs (s : State) (sv : SavedUnit) (img old : Image) : State :=
  let moves : List (Nat × Nat) := (old.tile, img.tile) :: (old.blocks.zip img.blocks).map (fun b => (b.1.tile, b.2.tile)) ++
    (copyMoves img old).map fun c => (c.1.1, c.2.1.1)
  { s with tps := moves.foldl (fun m mv => match sv.regs.find? fun r => r.1 = old.tpKey mv.1 with
      | some r => dset TpRegs.initial m (img.tpKey mv.2) r.2
      | none => m) s.tps }

/-- The registers of the unit's own tile-plane come with it, whatever else has come there (R125, R231). -/
def restoreOwn (s : State) (sv : SavedUnit) (tp : Tp) : State :=
  match sv.regs.find? fun r => r.1 = sv.tp.key with
  | some r => { s with tps := dset TpRegs.initial s.tps tp.key r.2 }
  | none => s

/-- The outcome of a restore: done, no place on the tile-planes (the unit stays saved), `ctx.corrupt`, a read of a lost page (R356), or not yet. -/
inductive Restored where
  | ok (s : State)
  | noPlace
  | corrupt
  | lost
  | waits
deriving Repr

/-- What a restore finds where what it reads gives no bytes. -/
def Got.unread {α : Type} : Got α → Restored
  | .bad c _ => if c = cMemUce then .lost else .waits
  | _ => .waits

/-- Restore one image of a unit to a tile-plane, from its address and CRC, and the tokens that the record gives it. -/
def restoreImage (s : State) (u : UnitId) (w : WorkUnit) (sv : SavedUnit) (old : Image) (key : Nat) (dst : Tp) (va crc : Nat) (toks : List (Nat × Nat × Token)) : Restored :=
  let read := readSource s w.asid dst.die va
  match read with
  | .ok src =>
    if fieldAt src 0x30 4 ≠ crc then .corrupt
    else
      let r := placeImage s u w dst.die dst.tile dst.plane src va
      if r.status = ldPlace then .noPlace
      else if r.status ≠ 0 then .corrupt
      else
        match (kget r.s.images dst.key).bind fun img => (img.refill old toks) with
        | none => .corrupt
        | some img =>
          let s1 := restoreRegs (restoreWords r.s sv img old) sv img old
          let move (v : UnitId) (e : Site) : Site := if v = u ∧ e.tp.key = key then { e with tp := dst } else e
          .ok { s1 with
            images := kput s1.images dst.key img
            insts := ((sv.insts.filter fun n => n.2.img = key) ++ s1.insts.filter fun n => n.2.unit = u && n.2.img = key).foldl
              (fun m n => kput m n.1 { n.2 with img := dst.key }) s1.insts
            journals := s1.journals.map fun j =>
              (j.1, { j.2 with pend := j.2.pend.map (fun e => { e with site := move e.unit e.site }), acks := j.2.acks.map fun a => { a with site := move a.unit a.site } }) }
  | _ => read.unread

/-- How many tokens a save found in an image. -/
def Image.tokenCount (img : Image) : Nat := img.arcs.foldl (fun n a => n + a.tokens.length) 0

/-- Restore the images of a unit, its own first from IMGVA and IMGCRC of the record: each takes its tokens from the record in turn, and the last what
is left (R314). -/
def restoreImages (u : UnitId) (w : WorkUnit) (sv : SavedUnit) (bs : List Byte) (toks : List (Nat × Nat × Token)) : List (Nat × Image) → State → Restored
  | [], s => .ok s
  | (key, old) :: rest, s =>
    let own : Bool := key = sv.tp.key
    let dst : Tp := if own then w.tp else { w.tp with tile := old.tile, plane := old.plane }
    let n := if rest.isEmpty then toks.length else old.tokenCount
    match restoreImage s u w sv old key dst (if own then fieldAt bs 0x18 8 else old.va) (if own then fieldAt bs 0x20 4 else fieldAt old.src 0x30 4) (toks.take n) with
    | .ok s1 => restoreImages u w sv bs (toks.drop n) rest s1
    | r => r

/-- The sequencer as a record gives it (Table 14.2). The completions that have been counted since the record was `kept` count on (R235, R312). -/
def WorkUnit.fromRecord (w : WorkUnit) (bs kept : List Byte) (tp : Tp) : WorkUnit :=
  let word (o : Nat) : Word := BitVec.ofNat 64 (fieldAt bs o 8)
  let fl := fieldAt bs 0x25 1
  let w1 := { w with
    tp := tp, life := .bound, forBoundary := false, fblock := none,
    regs := Vector.ofFn fun i => if i.val = 0 then 0 else word (0x40 + 8 * (i.val - 1)),
    preds := BitVec.ofNat 8 (fieldAt bs 0x138 1), pc := (word 0x140).setWidth 57, ntfc := word 0x148 + (w.ntfc - BitVec.ofNat 64 (fieldAt kept 0x148 8)), wto := (word 0x150).setWidth 32,
    hvecVec := (word 0x158).extractLsb' 6 51, hvecEn := (word 0x158).getLsbD 0, hepc := (word 0x160).setWidth 57, hcause := (word 0x168).setWidth 16,
    hval := word 0x170, hscr := word 0x178, seeds := Vector.ofFn fun i => word (0x180 + 8 * i.val), faulted := fl % 2 = 1, hmode := fl / 2 % 2 = 1,
    yieldRd := none }
  match w.yieldRd with
  | some rd => w1.setReg rd 1
  | none => w1

/-- Does the CRC of a record hold (R317)? -/
def recordOk (bs : List Byte) : Bool :=
  crc32c (bs.take 0x3C ++ List.replicate 4 0 ++ bs.drop 0x40) = BitVec.ofNat 32 (fieldAt bs 0x3C 4)

/-- Acknowledgements that came while a unit was saved go on to its images (R187). -/
def settleAllAcks (s : State) : State := s.journals.foldl (fun s j => if j.2.acks.isEmpty then s else settleAcks s (j.1 / 16) (j.1 % 16)) s

/-- Restore a saved unit to a tile-plane (R314). -/
def restoreAt (s : State) (u : UnitId) (w : WorkUnit) (sv : SavedUnit) (rec : Nat) (tp : Tp) : Restored :=
  let here := w.forBoundary || sv.reason = 3
  let read : Got (List Byte) := if here then .ok sv.bytes else loadVa s w.asid tp.die rec sv.bytes.length none
  match read with
  | .ok bs =>
    if bs ≠ sv.bytes && !recordOk bs then .corrupt
    else
      match readTokens bs with
      | none => .corrupt
      | some toks =>
        let w1 := w.fromRecord bs sv.bytes tp
        let sl := dget Slot.initial s.slots tp.key
        let s1 := { s with slots := dset Slot.initial s.slots tp.key { sl with bound := true, entry := sv.entry, unit := some u }, units := kput s.units u w1 }
        match restoreImages u w1 sv bs toks sv.images s1 with
        | .ok s2 =>
          let s3 := restoreOwn s2 sv tp
          let moveRec (o : EngOp) : EngOp := if o.unit = some u then match o.body with | .record _ _ => { o with die := tp.die } | _ => o else o
          let s4 := { s3 with
            streams := sv.streams.foldl (fun m x => kput m (256 * tp.die + x.1 % 256) x.2) s3.streams
            ops := s3.ops.map fun o => (o.1, moveRec o.2)
            saves := kdel s3.saves u }
          .ok (settleAllAcks (if here then s4 else setNunit s4 w.job (((kget s4.jobs w.job).map fun j => j.nunit).getD 1 - 1)))
        | r => r
  | _ => read.unread

/-- A restore that fails (R314): the unit ends faulted and nothing of it runs. -/
def restoreFails (s : State) (u : UnitId) (w : WorkUnit) (rec : Nat) : State :=
  let off := match kget s.jobs w.job with
    | some j => if w.forBoundary then 0 else rec - j.savea
    | none => 0
  let s1 := markFaulted s u w 0x51
  cancelUnit (writeRecord s1 w.job (rootOf s1 (some w.launch)) (FaultRec.plain 0x51 4 (unitHandle w.job w.home) (BitVec.ofNat 64 off))) u

/-- May a saved unit be restored to a tile-plane: one of a working die that its job holds, and that is free (R314, R322)? -/
def mayRestore (s : State) (w : WorkUnit) (tp : Tp) : Bool :=
  let sl := dget Slot.initial s.slots tp.key
  mayBind s tp.die tp.plane && tp.die < 4 && tp.tile < 64 && (tp.plane = 4 ↔ w.tp.plane = 4) && tp.plane < 5 && sl.held && sl.asid = w.asid &&
    sl.job.toNat = w.job && !sl.bound

/-- Try to restore a unit at places, in order. -/
def restoreFirst (s : State) (u : UnitId) : List Tp → State
  | [] => s
  | tp :: rest =>
    match kget s.units u, kget s.saves u with
    | some w, some sv =>
      match w.life with
      | .saved _ rec =>
        if !mayRestore s w tp then restoreFirst s u rest
        else
          match restoreAt s u w sv rec tp with
          | .ok s1 => s1
          | .noPlace => restoreFirst s u rest
          | .corrupt => restoreFails s u w rec
          | .lost => doomJob s w.job cMemUce
          | .waits => s
      | _ => s
    | _, _ => s

/-- UNIT_RESTORE: the MC restores a saved unit to a tile-plane; a load status PLACE leaves it saved (R314, R361). -/
def unitRestore (s : State) (u : UnitId) (tp : Tp) : State := restoreFirst s u [tp]

/-! ## Jib moves (R322) -/

/-- The tile-planes of the storm-jib rectangles that a job holds on some dies. -/
def jibPlaces (s : State) (job : Nat) (die : Nat → Bool) : List Tp :=
  (s.jibs.filter fun r => r.job = job && die r.die).flatMap fun r =>
    (List.range r.h).flatMap fun y => (List.range r.w).map fun x => { die := r.die, tile := 8 * (r.ty0 + y) + r.tx0 + x, plane := 4 }

/-- A storm-jib unit is captured, and restored at once at the first of some places that takes it. -/
def jibMove (s : State) (u : UnitId) (places : List Tp) : State :=
  match kget s.units u with
  | none => s
  | some w => if w.life = .bound && !w.cancelled then restoreFirst (saveComplete (beginSave s u w 3) u) u places else s

/-- Restore the kept records of jib moves where a place exists now. -/
def retryJibs (s : State) : State :=
  s.units.foldl (fun s u => match u.2.life with
    | .saved 3 _ => restoreFirst s u.1 (u.2.tp :: jibPlaces s u.2.job fun d => s.dies.getLsbD d)
    | _ => s) s

end Sys2Proof.Machine
end

