-- ==== Sys2Proof/Machine/BringUp.lean ====
section
/-! DEFINITION. Bring-up by the boot ROM (R284) and the device reset (R283). -/

namespace Sys2Proof.Machine

/-- The links once bring-up has trained those of the package and the halyards have begun to train (R372, R380). -/
def bootLinks (b : Blob) (tb : Word) : KMap Link :=
  (List.range 28).map fun l => (l, if l < 16 then Link.trained b.linkCtl (b.limitOf l) else Link.training tb)

/-- The firmware starts: the blob sets what it sets, and the state is the first instant (R284, R349). -/
def startFirmware (s : State) (o : Offer) : State :=
  let s1 := { s with
    blob := o.blob, fwver := o.fwver, fwState := .running, ctMode := o.blob.ctMode, dies := o.blob.dies, power := o.blob.defClass,
    links := bootLinks o.blob s.tb, bperFrom := s.tb }
  { s1 with snap := some s1.toDev, undo := [], log := [], rollbacks := 0 }

/-- The boot ROM checks what it is offered (R284): AUTHFAIL where a check fails. -/
def verifyOffer (s : State) (o : Offer) : State := if o.valid then startFirmware s o else { s with fwState := .authfail }

/-- BRING_UP from the board's flash; with nothing in the flash the ROM waits for a write of MBDB (R284). -/
def bringUp (s : State) : State :=
  match s.fwState, s.flash with
  | .rom, some o => verifyOffer s o
  | _, _ => s

/-- A device reset (R283): every state except `tb`. What lies outside the device, and the fields of the model, stay. -/
def deviceReset (s : State) : State :=
  { State.reset with
    tb := s.tb, sysMem := s.sysMem, flash := s.flash, hostOffers := s.hostOffers, msix := s.msix, halOut := s.halOut, ats := s.ats, barData := s.barData,
    turns := s.turns, nextId := s.nextId, freeCount := s.freeCount }

end Sys2Proof.Machine
end

