-- ==== Sys2Proof/Machine/Mailbox.lean ====
section
/-! DEFINITION. The MC mailbox and its commands (R288, R289): queues, jobs, phases, grants, shares, and the modes of the capacity tier
(R309, R315). -/

namespace Sys2Proof.Machine

/-! ## The mailbox (R288) -/

/-- STATUS codes of R289. -/
def mbForm : Nat := 1
/-- RANGE. -/
def mbRange : Nat := 2
/-- OWNER. -/
def mbOwner : Nat := 3
/-- STATE. -/
def mbState : Nat := 4
/-- AUTH. -/
def mbAuth : Nat := 5

/-- The key of a function's mailbox. -/
def mboxKey : PcieFn → Nat
  | .pf => 0
  | .vf v => v + 1

/-- Does the device have the function: the PF, or one of 64 VFs (R278)? -/
def fnPresent : PcieFn → Bool
  | .pf => true
  | .vf v => v < 64

/-- The mailbox of a function. -/
def mboxOf (s : State) (f : PcieFn) : Mailbox := dget Mailbox.initial s.mboxes (mboxKey f)
/-- Put a mailbox back. -/
def putMbox (s : State) (f : PcieFn) (m : Mailbox) : State := { s with mboxes := dset Mailbox.initial s.mboxes (mboxKey f) m }

/-- The response of a request: word 7 of its buffer, then DONE and BUSY (R288). -/
def respond (s : State) (f : PcieFn) (status value : Nat) : State :=
  let m := mboxOf s f
  let tag := wf ((m.req.getD []).getD 0 0) 31 16
  let s1 := writePhys s (.sys (m.buf + 56)) (leBytes 8 (status + tag * 2 ^ 16 + value % 2 ^ 32 * 2 ^ 32))
  putMbox s1 f { m with busy := false, done := true, req := none }

/-- Answer with the code of the lowest failing check; else act, and answer OK. -/
def answer (s : State) (f : PcieFn) (code : Nat) (act : State → State) : State :=
  if code ≠ 0 then respond s f code 0 else respond (act s) f 0 0

/-- The OP of a request. -/
def opOf (ws : List Word) : Nat := wf (ws.getD 0 0) 7 0

/-- The ACTION of an FWUPD request (Table 16.7). -/
def actionOf (ws : List Word) : Nat := wf (ws.getD 2 0) 3 0

/-- Is a request one of Table 13.8? -/
def knownRequest (ws : List Word) : Bool := let o := opOf ws; 1 ≤ o && o ≤ 11

/-- Does a function-level reset of a function still wait for the jobs that it has killed (R283)? -/
def flrRuns (s : State) : PcieFn → Bool
  | .pf => false
  | .vf v => (kget s.flrs v).isSome

/-- MBDB: a write submits the buffer (R288). With nothing in the flash the boot ROM reads the image and blob from the buffer that MBADDR names; one that
holds none fails the checks (R284). -/
def submit (s : State) (f : PcieFn) : State :=
  let m := mboxOf s f
  if !fnPresent f || s.fwState = .fatal || flrRuns s f then s
  else if s.fwState = .rom && s.flash.isNone then
    match f, kget s.hostOffers m.addr.toNat with
    | .pf, some o => verifyOffer s o
    | .pf, none => { s with fwState := .authfail }
    | _, _ => s
  else if m.busy then putMbox s f { m with ovr := true }
  else
    let ws := wordsOf (getBytes s.sysMem m.addr.toNat 64) 8
    let s1 := putMbox s f { m with busy := true, req := some ws, buf := m.addr.toNat }
    if s.fwState = .authfail then respond s1 f mbAuth 0
    else if !knownRequest ws then respond s1 f (if f = .pf then mbForm else mbAuth) 0
    else if opOf ws = 11 && 8 ≤ actionOf ws then respond s1 f (if f = .pf then mbForm else mbAuth) 0
    else s1

/-- The request of a function that the running firmware acts on, where it has an OP. -/
def request (s : State) (f : PcieFn) (op : Nat) : Option (List Word) :=
  if s.fwState ≠ .running then none
  else
    match (mboxOf s f).req with
    | some ws => if opOf ws = op then some ws else none
    | none => none

/-! ## Whose an ASID is (R289) -/

/-- The function of an ASID: that of its open jobs, else that of its last. -/
def fnOfAsid (s : State) (a : BitVec 12) : Option PcieFn :=
  match s.jobs.find? fun j => j.2.asid = a && !j.2.level.complete with
  | some j => some j.2.fn
  | none => (s.jobs.find? fun j => j.2.asid = a).map fun j => j.2.fn

/-- May a function name an ASID in a request: the PF any, a VF its own? -/
def ownsAsid (s : State) (f : PcieFn) (a : BitVec 12) : Bool :=
  match f with
  | .pf => true
  | .vf _ => fnOfAsid s a = some f

/-- Is a job number open? -/
def jobOpen (s : State) (job : Nat) : Bool :=
  match kget s.jobs job with
  | some j => !j.level.complete
  | none => false

/-- Is a job open for an ASID? -/
def jobOpenFor (s : State) (job : Nat) (asid : BitVec 12) : Bool :=
  match kget s.jobs job with
  | some j => !j.level.complete && j.asid = asid
  | none => false

/-! ## Queues (R282, R290) -/

/-- How many queues a function has. -/
def queueCount (s : State) (f : PcieFn) : Nat := (s.queues.filter fun q => q.2.fn = f).length

/-- A queue as QCREATE makes it. -/
def Queue.fresh (f : PcieFn) (made : Nat) (ws : List Word) : Queue :=
  let a := ws.getD 1 0
  { fn := f, made := made, prio := Config.queuePriority made, asid := BitVec.ofNat 12 (wf a 23 12), job := wf a 39 24, jib := wb a 40,
    vec := if wb a 52 then some (wf a 51 41) else none, ring := wf (ws.getD 2 0) 56 0, nent := wf (ws.getD 3 0) 31 0, ridxa := wf (ws.getD 4 0) 56 0,
    notify := 0, ridx := 0, qstState := 0, badn := false, badc := false, errcode := 0, erridx := 0, lqres := 0, head := none, fault := none,
    wdEn := false, wdHnd := false, wdAuto := false, wdTicks := 0, wdCount := 0, wdStopped := false, wdPkt := 0, wdSup := 0, wdExpn := 0,
    wdPkterr := false, wdResetting := false, wdReset := false, wdExpired := false, wdPost := false }

/-- QCREATE (R289). -/
def qcreate (s : State) (f : PcieFn) : State :=
  match request s f 1 with
  | none => s
  | some ws =>
    let a := ws.getD 1 0
    let key := 1024 * wf a 1 0 + wf a 11 2
    let asid : BitVec 12 := BitVec.ofNat 12 (wf a 23 12)
    let nent := wf (ws.getD 3 0) 31 0
    let old := kget s.queues key
    let foreign : Bool := match old with | some q => q.fn ≠ f | none => false
    let vf : Bool := f ≠ .pf
    let code := if vf && (!ownsAsid s f asid || foreign) then mbAuth
      else lowest [(wf (ws.getD 2 0) 5 0 ≠ 0 || wf (ws.getD 4 0) 2 0 ≠ 0, mbForm),
                   (!powerIn nent 16 65536 || (vf && wb a 52 && 64 ≤ wf a 51 41) || (vf && 256 ≤ queueCount s f), mbRange),
                   (old.isSome || !jobOpenFor s (wf a 39 24) asid, mbState)]
    answer s f code fun s => { s with queues := kput s.queues key (Queue.fresh f s.nextId ws), nextId := s.nextId + 1 }

/-- A launch source that named a queue names a number that no queue has. -/
def LaunchSrc.orphan (q fresh : Nat) : LaunchSrc → LaunchSrc
  | .queue q' n => if q' = q then .queue fresh n else .queue q' n
  | .handler q' => if q' = q then .handler fresh else .handler q'
  | .unit u => .unit u

/-- Remove a queue: accepted launches go on, and keep their order among themselves (R289, R294). -/
def removeQueue (s : State) (key : Nat) : State :=
  let fresh := 4096 + s.nextId
  let fix (l : Launch) : Launch := { l with src := l.src.orphan key fresh, root := if l.root = some key then some fresh else l.root }
  { s with queues := kdel s.queues key, mcReads := kdel (kdel s.mcReads (3 * key)) (3 * key + 1), launches := s.launches.map fun l => (l.1, fix l.2), nextId := s.nextId + 1 }

/-- QDESTROY (R289). -/
def qdestroy (s : State) (f : PcieFn) : State :=
  match request s f 2 with
  | none => s
  | some ws =>
    let a := ws.getD 1 0
    let key := 1024 * wf a 1 0 + wf a 11 2
    let code := match kget s.queues key with
      | some q => if f = .pf || q.fn = f then 0 else mbAuth
      | none => if f = .pf then mbState else mbAuth
    answer s f code fun s => removeQueue s key

/-! ## Jobs (R289, R297, R315, R316) -/

/-- Is every page of a save area mapped readable and writable as kind 0 (R315)? -/
def saveAreaOk (s : State) (asid : BitVec 12) (savea size : Nat) : Bool :=
  (List.range (size / 65536)).all fun i =>
    match translate s asid (savea + 65536 * i) .atomic with
    | .ok (.dpa _) => true
    | _ => false

/-- A job as JOBOPEN makes it. -/
def Job.fresh (f : PcieFn) (ws : List Word) : Job :=
  { asid := BitVec.ofNat 12 (wf (ws.getD 1 0) 11 0), fn := f, nbase := wf (ws.getD 2 0) 12 0, ncount := wf (ws.getD 2 0) 28 16,
    root := (ws.getD 3 0).toNat, savea := wf (ws.getD 4 0) 56 0, size := (ws.getD 5 0).toNat, phase := 1,
    level := { Level.fresh with count := 1 }, phases := [(1, Level.fresh)], graphs := [], deperr := false, external := false, fhead := 0, nunit := 0, ended := [], armed := [],
    phasebnd := none, doom := none, killed := false }

/-- The header of a save area (Table 14.1). -/
def saveHeader (job : Nat) (j : Job) : List Byte :=
  leBytes 4 0x41565358 ++ leBytes 2 0x0100 ++ leBytes 2 job ++ leBytes 2 j.asid.toNat ++ leBytes 6 0 ++ leBytes 8 j.size ++ leBytes 8 0 ++ leBytes 8 0

/-- Open a job (R289, R297, R301): its nodes are idle, and the grants of its ASID that belong to no open job go to it. -/
def openJob (s : State) (job : Nat) (j : Job) : State :=
  let orphan (k : Nat) : Bool := !jobOpenFor s k j.asid
  let s1 := { s with
    jobs := kput s.jobs job j, roots := kput s.roots j.asid.toNat j.root,
    nodes := s.nodes.filter fun n => !j.owns (n.1 % 8192), laneJobs := s.laneJobs.filter fun l => l.2 ≠ job,
    slots := s.slots.map fun x => if x.2.held && x.2.asid = j.asid && orphan x.2.job.toNat then (x.1, { x.2 with job := BitVec.ofNat 16 job }) else x,
    jibs := s.jibs.map fun r => if r.asid = j.asid && orphan r.job then { r with job := job } else r }
  match storeExempt s1 j.asid j.savea (saveHeader job j) with
  | .ok s2 => s2
  | .bad c _ => if c = cMemUce then doomJob s1 job cMemUce else s1
  | .waits _ => s1

/-- JOBOPEN (R289, R315). -/
def jobopen (s : State) (f : PcieFn) : State :=
  match request s f 3 with
  | none => s
  | some ws =>
    let job := wf (ws.getD 1 0) 27 12
    let j := Job.fresh f ws
    let opened := s.jobs.filter fun x => !x.2.level.complete
    let mine : Bool := match f with
      | .pf => true
      | .vf _ => (fnOfAsid s j.asid).isNone || fnOfAsid s j.asid = some f
    let range : Bool := 8192 < j.nbase + j.ncount || j.savea % 65536 ≠ 0 || j.size % 65536 ≠ 0 || j.size < 0x5000000
    let mapped : Bool := saveAreaOk { s with roots := kput s.roots j.asid.toNat j.root } j.asid j.savea j.size
    let overlap : Bool := opened.any fun x => j.nbase < x.2.nbase + x.2.ncount && x.2.nbase < j.nbase + j.ncount
    let root : Bool := opened.any fun x => x.2.asid = j.asid && x.2.root ≠ j.root
    let code := if !mine then mbAuth
      else lowest [(range || (!root && !mapped), mbRange), (overlap, mbOwner), (jobOpen s job || root, mbState)]
    answer s f code fun s => openJob s job j

/-- JOBCLOSE (R289, Table 1.4). -/
def jobclose (s : State) (f : PcieFn) : State :=
  match request s f 4 with
  | none => s
  | some ws =>
    let asid : BitVec 12 := BitVec.ofNat 12 (wf (ws.getD 1 0) 11 0)
    let job := wf (ws.getD 1 0) 27 12
    let code := if !ownsAsid s f asid then mbAuth else if jobOpenFor s job asid then 0 else mbState
    answer s f code fun s => settleJob { s with jobs := kmod s.jobs job fun j => { j with level := { j.level with closed := true } } } job

/-- PHASEBND (R289, R349): the response follows once the boundary has been taken. -/
def phasebnd (s : State) (f : PcieFn) : State :=
  match request s f 5 with
  | none => s
  | some ws =>
    let asid : BitVec 12 := BitVec.ofNat 12 (wf (ws.getD 1 0) 11 0)
    let job := wf (ws.getD 1 0) 27 12
    let full := wb (ws.getD 2 0) 0
    let pending := match kget s.jobs job with | some j => j.phasebnd | none => none
    if pending.map (fun p => p.2) = some f then s
    else
      let code := if !ownsAsid s f asid then mbAuth
        else lowest [((ws.getD 2 0).toNat / 2 ≠ 0, mbForm), (!jobOpenFor s job asid || pending.isSome, mbState)]
      if code ≠ 0 then respond s f code 0
      else
        { s with jobs := kmod s.jobs job fun j => { j with phasebnd := some (full, f) }
                 bnd := if s.bnd = .idle then .wanted else s.bnd
                 bndFull := s.bndFull || full }

/-! ## Grants (R289, R301, Table 13.9) -/

/-- The operands of GRANT and REVOKE. -/
structure GrantReq where
  asid : BitVec 12
  kind : Nat
  die : Nat
  w2 : Word
  w3 : Word
deriving DecidableEq, Repr

/-- Read them. -/
def GrantReq.of (ws : List Word) : GrantReq :=
  { asid := BitVec.ofNat 12 (wf (ws.getD 1 0) 11 0), kind := wf (ws.getD 1 0) 15 12, die := wf (ws.getD 1 0) 17 16, w2 := ws.getD 2 0, w3 := ws.getD 3 0 }

/-- The plane of a rectangle: plane 4 for a storm jib. -/
def GrantReq.plane (g : GrantReq) : Nat := if g.kind = 6 then 4 else wf g.w2 14 12

/-- The rectangle of KIND 0 and 6: (tx0, ty0, w, h). -/
def GrantReq.rect (g : GrantReq) : Nat × Nat × Nat × Nat := (wf g.w2 2 0, wf g.w2 5 3, wf g.w2 8 6 + 1, wf g.w2 11 9 + 1)

/-- Its tile-planes, as slot-table keys. -/
def GrantReq.slots (g : GrantReq) : List Nat :=
  let r := g.rect
  (List.range r.2.2.2).flatMap fun y => (List.range r.2.2.1).map fun x => 320 * g.die + 5 * (8 * (r.2.1 + y) + r.1 + x) + g.plane

/-- The templates of KIND 2. -/
def GrantReq.tmpls (g : GrantReq) : List Nat := (List.range (wf g.w2 16 8)).map fun i => wf g.w2 7 0 + i

/-- The chain of KIND 3 and 4. -/
def GrantReq.chain (g : GrantReq) : ChainId :=
  if g.kind = 4 then { kind := .mxq, die := g.die, num := wf g.w2 3 0 }
  else { kind := match wf g.w2 1 0 with | 0 => .gre | 1 => .qe | _ => .nmc, die := g.die, num := wf g.w2 7 2 }

/-- Who holds each resource that a request names. -/
def GrantReq.holders (g : GrantReq) (s : State) : List (Option (BitVec 12)) :=
  match g.kind with
  | 1 => [(chanOf s g.die (wf g.w2 4 0)).holder]
  | 2 => g.tmpls.map fun t => (tmplOf s g.die t).holder
  | 3 => [(chainOf s g.chain).holder]
  | 4 => [(chainOf s g.chain).holder]
  | 5 => [(journalOf s g.die (wf g.w2 3 0)).holder]
  | _ => g.slots.map fun k => let sl := dget Slot.initial s.slots k; if sl.held then some sl.asid else none

/-- The checks of a request's form: FORM and RANGE. -/
def GrantReq.formChecks (g : GrantReq) : List (Bool × Nat) :=
  let r := g.rect
  let rect : Bool := g.kind = 0 || g.kind = 6
  [(7 ≤ g.kind, mbForm),
   ((rect && (8 < r.1 + r.2.2.1 || 8 < r.2.1 + r.2.2.2)) || (g.kind = 0 && 4 ≤ wf g.w2 14 12) || (g.kind = 2 && 256 < wf g.w2 7 0 + wf g.w2 16 8) ||
      (g.kind = 3 && wf g.w2 1 0 = 3), mbRange)]

/-- How many resources of a kind the ASIDs of a VF hold. -/
def shareUsed (s : State) (f : PcieFn) (kind : Nat) : Nat :=
  let mine (h : Option (BitVec 12)) : Bool := match h with | some a => fnOfAsid s a = some f | none => false
  match kind with
  | 0 => (s.slots.filter fun x => x.2.held && x.1 % 5 ≠ 4 && mine (some x.2.asid)).length
  | 1 => (s.chans.filter fun x => mine x.2.holder).length
  | 2 => (s.tmpls.filter fun x => mine x.2.holder).length
  | 3 => (s.chains.filter fun x => x.1 / 256 ≠ 3 && mine x.2.holder).length
  | 4 => (s.chains.filter fun x => x.1 / 256 = 3 && mine x.2.holder).length
  | 5 => (s.journals.filter fun x => mine x.2.holder).length
  | _ => (s.slots.filter fun x => x.2.held && x.1 % 5 = 4 && mine (some x.2.asid)).length

/-- May a VF be granted as much more as a request names: a VF without a share may not (R289)? -/
def inShare (s : State) (f : PcieFn) (g : GrantReq) : Bool :=
  match f with
  | .pf => true
  | .vf v => match kget s.shares v with
    | none => false
    | some ws => shareUsed s f g.kind + ((g.holders s).filter fun h => h.isNone).length ≤ Config.shareLimit (ws.map fun w => BitVec.ofNat 64 w) g.kind

/-- The job to which a grant of an ASID goes: its open job of the highest number, or 0. -/
def grantJob (s : State) (asid : BitVec 12) : Nat :=
  s.jobs.foldl (fun a j => if j.2.asid = asid && !j.2.level.complete then max a j.1 else a) 0

/-- Hold tile-planes (R301). -/
def holdSlots (s : State) (g : GrantReq) (job : Nat) : State :=
  { s with slots := g.slots.foldl (fun m k =>
      dset Slot.initial m k { dget Slot.initial m k with held := true, asid := g.asid, job := BitVec.ofNat 16 job }) s.slots }

/-- Load the image of a storm jib onto plane 4 (Table 13.9); none where it cannot be read or the loader refuses it. -/
def loadJib (s : State) (g : GrantReq) (job : Nat) : Option State :=
  let r := g.rect
  let tile := 8 * r.2.1 + r.1
  let va := wf g.w3 56 0
  match readSource s g.asid g.die va with
  | .ok src =>
    let u := s.nextId
    let pkt := packetOf []
    let l := Launch.ofPacket { pkt with job := job } (.unit u) g.asid none
    let w := WorkUnit.start l 0 { die := g.die, tile := tile, plane := 4 } []
    let x := placeImage { s with nextId := u + 1 } u w g.die tile 4 src va
    if x.status = 0 then some (unbindSlots x.s u) else none
  | _ => none

/-- Give what a request names; none where KIND 6 has no image to load. -/
def giveGrant (s : State) (g : GrantReq) : Option State :=
  let job := grantJob s g.asid
  match g.kind with
  | 0 => some (holdSlots s g job)
  | 1 =>
    let ch := wf g.w2 4 0
    let savea := ((kget s.jobs job).map fun j => j.savea).getD 0
    if (chanOf s g.die ch).holder = some g.asid then some s
    else some (putChan s g.die ch { Chan.initial with holder := some g.asid, bcsa := Config.channelStamp savea g.die ch })
  | 2 => some (g.tmpls.foldl (fun s t => if (tmplOf s g.die t).holder = some g.asid then s else putTmpl s g.die t { Tmpl.initial with holder := some g.asid }) s)
  | 3 => some (putChain s g.chain { chainOf s g.chain with holder := some g.asid })
  | 4 => some (putChain s g.chain { chainOf s g.chain with holder := some g.asid, mxes := BitVec.ofNat 16 (wf g.w2 19 4) })
  | 5 => let j := wf g.w2 3 0; some (putJournal s g.die j { journalOf s g.die j with holder := some g.asid })
  | _ =>
    let r := g.rect
    (loadJib (holdSlots s g job) g job).map fun s1 =>
      retryJibs { s1 with jibs := s1.jibs ++ [{ asid := g.asid, job := job, die := g.die, tx0 := r.1, ty0 := r.2.1, w := r.2.2.1, h := r.2.2.2, image := wf g.w3 56 0 }] }

/-- GRANT (R289). -/
def grant (s : State) (f : PcieFn) : State :=
  match request s f 6 with
  | none => s
  | some ws =>
    let g := GrantReq.of ws
    let code := if !ownsAsid s f g.asid || (lowest g.formChecks = 0 && !inShare s f g) then mbAuth
      else lowest (g.formChecks ++ [(g.kind < 7 && (g.holders s).any fun h => h.isSome && h ≠ some g.asid, mbOwner)])
    if code ≠ 0 then respond s f code 0
    else
      match giveGrant s g with
      | some s1 => respond s1 f 0 0
      | none => respond s f mbForm 0

/-- Is a resource of KIND 1 to 5 in use? -/
def GrantReq.inUse (g : GrantReq) (s : State) : Bool :=
  match g.kind with
  | 1 => !(chanOf s g.die (wf g.w2 4 0)).copies.isEmpty
  | 3 => (chainOf s g.chain).bound.isSome
  | 4 => (chainOf s g.chain).bound.isSome
  | 5 => let x := journalOf s g.die (wf g.w2 3 0); !x.pend.isEmpty || !x.acks.isEmpty
  | _ => false

/-- The tile-planes of a request that show BOUND, by unit. -/
def GrantReq.boundUnits (g : GrantReq) (s : State) : List UnitId :=
  g.slots.filterMap fun k => let sl := dget Slot.initial s.slots k; if sl.bound then sl.unit else none

/-- Take what a request names. -/
def takeGrant (s : State) (g : GrantReq) : State :=
  match g.kind with
  | 1 => putChan s g.die (wf g.w2 4 0) Chan.initial
  | 2 => g.tmpls.foldl (fun s t => putTmpl s g.die t Tmpl.initial) s
  | 3 => putChain s g.chain Chain.initial
  | 4 => putChain s g.chain Chain.initial
  | 5 => putJournal s g.die (wf g.w2 3 0) JStream.initial
  | _ =>
    let r := g.rect
    let keys := g.slots
    { s with
      slots := keys.foldl (fun m k => dset Slot.initial m k { dget Slot.initial m k with held := false, asid := 0, job := 0 }) s.slots
      jibs := if g.kind = 6 then s.jibs.filter fun x => !(x.die = g.die && x.tx0 = r.1 && x.ty0 = r.2.1) else s.jibs
      images := if g.kind = 6 then s.images.filter fun x => !(keys.contains x.1 && (kget s.units x.2.unit).isNone) else s.images }

/-- Does the ASID hold exactly the storm-jib rectangle that a request names? -/
def GrantReq.isJib (g : GrantReq) (s : State) : Bool :=
  let r := g.rect
  s.jibs.any fun x => x.asid = g.asid && x.die = g.die && x.tx0 = r.1 && x.ty0 = r.2.1 && x.w = r.2.2.1 && x.h = r.2.2.2

/-- REVOKE (R289, R311): it waits for the units of a rectangle, whose sail units are asked to leave. -/
def revoke (s : State) (f : PcieFn) : State :=
  match request s f 7 with
  | none => s
  | some ws =>
    let g := GrantReq.of ws
    let hs := g.holders s
    let code := if !ownsAsid s f g.asid then mbAuth
      else lowest (g.formChecks ++ [(g.kind < 7 && hs.any fun h => h.isSome && h ≠ some g.asid, mbOwner),
        (g.kind < 7 && (hs.any (fun h => h.isNone) || g.inUse s || (g.kind = 6 && !g.isJib s)), mbState)])
    if code ≠ 0 then respond s f code 0
    else
      match (if g.kind = 0 || g.kind = 6 then g.boundUnits s else []) with
      | [] => respond (takeGrant s g) f 0 0
      | us => if g.kind = 0 then us.foldl (fun s u => raiseReq s u s.blob.bdl) s else s

/-- SHARE (R289): the PF sets the share of a VF. -/
def share (s : State) (f : PcieFn) : State :=
  match request s f 9 with
  | none => s
  | some ws =>
    answer s f (if f = .pf then 0 else mbAuth) fun s =>
      { s with shares := kput s.shares (wf (ws.getD 1 0) 5 0) [(ws.getD 2 0).toNat, (ws.getD 3 0).toNat, (ws.getD 4 0).toNat] }

/-! ## Capacity-tier mode (R309) -/

/-- The program range of a stack: its first address and its 176 GiB. -/
def tierBase (st : Nat) : Nat := 0x20000000000 + st * 0x4000000000
/-- Does an address lie in it? -/
def inTier (st a : Nat) : Bool := tierBase st ≤ a && a < tierBase st + 0x2C00000000

/-- Does anything keep a stack's mode: an FX128 region, a dead region, or a page undo in its range? -/
def tierInUse (s : State) (st : Nat) : Bool :=
  (s.fxregs.any fun r => r.pieces.any fun p => inTier st p.1) || (s.dead.any fun d => inTier st (65536 * d.1)) || s.undo.any fun p => inTier st (4096 * p.1)

/-- CTMODE (R309). -/
def ctmode (s : State) (f : PcieFn) : State :=
  match request s f 8 with
  | none => s
  | some ws =>
    let st := wf (ws.getD 1 0) 2 0
    let m := wb (ws.getD 1 0) 3
    if f ≠ .pf then respond s f mbAuth 0
    else if (kget s.ctBusy st).isSome then respond s f mbState 0
    else if s.ctMode.getLsbD st = m then respond s f 0 0
    else if tierInUse s st then respond s f mbState 0
    else respond { s with ctBusy := kput s.ctBusy st m } f 0 0

/-- Is an access to a stack's range in flight: a store that was issued and waits for its commit (R309)? -/
def tierInFlight (s : State) (st : Nat) : Bool :=
  let of (it : Inst) : Bool := (deferredPlaces it.deferred).any fun p => p.1.homes.any (inTier st)
  (s.insts.any fun n => of n.2) || s.saves.any fun v => v.2.insts.any fun n => of n.2

/-- A store into a save area that waited for a change of mode is performed; one that fails now kills the jobs whose area it is (R309, R318). -/
def payOwed (s : State) (x : BitVec 12 × Nat × List Byte) : State :=
  match storeExempt s x.1 x.2.1 x.2.2 with
  | .ok s1 => s1
  | .bad _ va => s.jobs.foldl (fun s j =>
      if j.2.asid = x.1 && j.2.savea ≤ x.2.1 && x.2.1 < j.2.savea + j.2.size then saveFault s j.1 (firstQueue s j.1) 0 va else s) s
  | .waits _ => s

/-- CTMODE_COMPLETE: once the accesses in flight have been performed, the range is zeroed or discarded, the mode changes, and what has waited goes on
(R309). -/
def ctmodeComplete (s : State) (st : Nat) : State :=
  match kget s.ctBusy st with
  | none => s
  | some m =>
    if tierInFlight s st then s
    else
      let bit : BitVec 8 := 1 <<< st
      s.owed.foldl payOwed
        { s with ctBusy := kdel s.ctBusy st, ctMode := if m then s.ctMode ||| bit else s.ctMode &&& ~~~bit,
                 mem := s.mem.filter fun b => !inTier st b.1, owed := [] }

end Sys2Proof.Machine
end

