-- ==== Sys2Proof/Machine/Reliability.lean ====
section
/-! DEFINITION. Interval boundaries and phases (R349, R350, R353), full checkpoints (R357, R388), fatal errors and the dump (R365, R366),
rollback and replay (R354–R356, R358, R392), scrubbing (R359), element replay and spares (R360, R361), and limits by temperature (R371). -/

namespace Sys2Proof.Machine

/-! ## Fatal errors (R365, R366) -/

/-- DEVID (Table 13.2). -/
def devidWord (s : State) : Word :=
  BitVec.ofNat 64 (0x4016 * 2 ^ 48 + s.blob.form.toNat * 2 ^ 44 + s.blob.step.toNat * 2 ^ 40 + s.dies.toNat * 2 ^ 36 + s.blob.version.toNat)

/-- FWST (Table 13.6). -/
def fwstWord (s : State) : Word := BitVec.ofNat 64 (s.fwver.toNat * 2 ^ 32 + s.dump.toNat * 16 + s.fwState.code)

/-- Where the dump stands (R366). -/
def dumpBase : Nat := 0x23C80000000

/-- The sections that some bytes hold, each with its entry of the section table: what exceeds them is cut off. -/
def fitSections : Nat → List (Fin 8 × List Byte) → List (Fin 8 × List Byte)
  | _, [] => []
  | n, (t, bs) :: rest =>
    if n < 16 then []
    else
      let b := bs.take (n - 16)
      (t, b) :: fitSections (n - 16 - b.length) rest

/-- The entries of the dump's section table, from an offset on: the types are 1 to 8. -/
def dumpTable : Nat → List (Fin 8 × List Byte) → List Byte
  | _, [] => []
  | off, (t, bs) :: rest => leBytes 4 (t.val + 1) ++ leBytes 4 bs.length ++ leBytes 8 off ++ dumpTable (off + bs.length) rest

/-- The dump: the header of Table 16.5 and its sections, whose contents the manual leaves open; 1 GiB at most. -/
def dumpBytes (s : State) (cause : Nat) (val : Word) : List Byte :=
  let secs := fitSections (2 ^ 30 - 0x30) (Config.dumpSections s.tb)
  let body := 0x30 + 16 * secs.length
  leBytes 4 0x504D5544 ++ leBytes 2 0x0100 ++ leBytes 2 cause ++ wordBytes s.tb ++ wordBytes (devidWord s) ++ leBytes 4 s.fwver.toNat ++
    leBytes 4 secs.length ++ wordBytes s.bnum ++ wordBytes val ++ dumpTable body secs ++ secs.flatMap fun x => x.2

/-- A fatal error: every context ends, the PF's vector 0 is raised, and the dump is written (R365). -/
def fatal (s : State) (cause : Nat) (val : Word) : State :=
  if s.fwState ≠ .running then s
  else
    let s1 := { s with toDev := { Dev.reset with toMemState := s.toMemState }, fwState := .fatal, dump := true }
    raiseMsix { s1 with mem := putBytes s1.mem dumpBase (dumpBytes s cause val) } .pf 0

/-- FATAL_ERROR: a firmware exception or the loss of die 0's MC. -/
def fatalError (s : State) (cause : BitVec 16) (val : Word) : State :=
  if cause = 3 ∨ cause = 5 then fatal s cause.toNat val else s

/-- THERMAL_TRIP: a die at 110 °C (R371). -/
def thermalTrip (s : State) (die : Nat) (val : Word) : State := if die < 4 then fatal s 4 val else s

/-- The bit of a die. -/
def dieBit (die : Nat) : BitVec 4 := 1 <<< die

/-- THERMAL_LIMIT and THERMAL_LIMIT_END: a die lowers its rates at 100 °C, until it is below 95 °C (R371). -/
def setHot (s : State) (die : Nat) (on : Bool) : State := { s with hot := if on then s.hot ||| dieBit die else s.hot &&& ~~~(dieBit die) }

/-! ## Boundaries (R349, R350) -/

/-- A boundary is wanted. -/
def wantBoundary (s : State) : State := { s with bnd := if s.bnd = .idle then .wanted else s.bnd }

/-- BPER_EXPIRY: every BPER ticks the MC wants a boundary (R349). -/
def bperExpiry (s : State) : State :=
  if s.fwState ≠ .running || s.blob.bper = 0 || (s.tb - s.bperFrom).toNat < s.blob.bper then s
  else wantBoundary { s with bperFrom := s.bperFrom + BitVec.ofNat 64 s.blob.bper }

/-- Does the undo log of any stack hold 9 GiB (R353)? -/
def undoPressure (s : State) : Bool := (List.range 8).any fun st => 2359296 ≤ undoCount s st

/-- Ask a sail unit to leave for a boundary: an earlier deadline stands. -/
def WorkUnit.askLeave (w : WorkUnit) (deadline : Word) : WorkUnit :=
  { w with req := true, deadline := if w.req && earlier w.deadline deadline then w.deadline else deadline, forBoundary := true }

/-- BOUNDARY_START: binding and accepting stop, and REQ is raised on every bound sail unit (R350, R353). -/
def boundaryStart (s : State) : State :=
  if s.fwState ≠ .running || s.service.isSome || s.bnd = .saving || !(s.bnd = .wanted || undoPressure s) then s
  else
    let leave (w : WorkUnit) : WorkUnit := if w.life = .bound && !w.cancelled && w.tp.plane ≠ 4 then w.askLeave (s.tb + BitVec.ofNat 64 s.blob.bdl) else w
    { s with bnd := .saving, units := s.units.map fun u => (u.1, leave u.2) }

/-- Is every sail unit saved, or cancelled and ending? -/
def allSaved (s : State) : Bool :=
  s.units.all fun u => u.2.tp.plane = 4 || match u.2.life with
    | .bound => u.2.cancelled
    | .saving _ _ => false
    | .saved _ _ => true

/-- The phase of a job ends and the next opens (R349, Table 1.4): in a job that is closed none does. The request is answered. -/
def advancePhase (s : State) (job : Nat) : State :=
  match kget s.jobs job with
  | none => s
  | some j =>
    match j.phasebnd with
    | none => s
    | some (_, f) =>
      if j.level.complete then respond { s with jobs := kput s.jobs job { j with phasebnd := none } } f mbState 0
      else
        let next := (j.phase + 1) % 65536
        let close (p : Level) : Level := { p with closed := true }
        let ps := kmod j.phases j.phase close
        let j1 := { j with phasebnd := none, phase := next }
        let j2 := if j.level.closed then { j1 with phases := ps }
          else { j1 with phases := kput ps next Level.fresh, level := j.level.childAdded }
        respond (settleJob { s with jobs := kput s.jobs job j2 } job) f 0 next

/-- End the phases of every job that has asked for it. -/
def advancePhases (s : State) : State := s.jobs.foldl (fun s j => advancePhase s j.1) s

/-! ## Full checkpoints (R357, R388) -/

/-- Does a page lie in storage that a full checkpoint copies: HBM and SRAM? -/
def inImage (page : Nat) : Bool :=
  match regionOf (4096 * page) with
  | .hbm _ | .caddy _ => true
  | _ => false

/-- Every slot that no write has filled is filled with its page, which has not changed since the instant. -/
def FullCkpt.finish (f : FullCkpt) (m : KMap Byte) : FullCkpt :=
  let mine (b : Nat × Byte) : Bool := inImage (b.1 / 4096) && !f.filled.contains (b.1 / 4096)
  let early := f.image.filter fun b => f.filled.contains (b.1 / 4096)
  { have_ := true, image := (m.filter mine).foldl (fun i b => kput i b.1 b.2) early, running := Option.none, filled := [],
    stale := f.stale.filter f.filled.contains, staleAt := [], kept := [] }

/-- The numbers of a stream's entries whose symbol stores had not committed at an instant. -/
def uncommitted (d : Dev) (k : Nat) (x : JStream) : List Nat :=
  let ofInst (n : Inst) : List Nat := (n.waiting.flatMap fun w => w.entry.toList) ++ n.entries |>.filterMap fun e => if e.1 = k then some e.2 else none
  let ofArc (img : Image) (a : Arc) : List Nat :=
    match a.src with
    | .port p => if (img.ports[p]?).any fun b => b.kind = 5 && 16 * img.die + b.chan = k then
        a.q.filterMap fun q => match q with
          | .tok t _ => some (t.lane 0).toNat
          | .pending _ _ => none
      else []
    | _ => []
  (x.acks.map fun a => a.num) ++ (d.insts.flatMap fun n => ofInst n.2) ++ d.images.flatMap (fun i => i.2.arcs.flatMap (ofArc i.2)) ++
    d.saves.flatMap fun v => (v.2.insts.flatMap fun n => ofInst n.2) ++ v.2.images.flatMap fun i => i.2.arcs.flatMap (ofArc i.2)

/-- The number of the last entry of a stream whose symbol store had committed at an instant. -/
def lastCommitted (d : Dev) (k : Nat) : Option Nat :=
  (kget d.journals k).map fun x => (uncommitted d k x).foldl (fun a n => if n ≤ a then n - 1 else a) x.ackn.toNat

/-- Send the truncation of every bound stream (R388). -/
def sendTruncations (s : State) : State :=
  match s.snap with
  | none => s
  | some d =>
    s.journals.foldl (fun s x =>
      if x.2.state ≠ (1 : BitVec 2) then s
      else
        match kget d.journals x.1, lastCommitted d x.1 with
        | some y, some n => if y.gseq = x.2.gseq && y.state ≠ 0 then halSend s (.truncate x.2.port.toNat x.2.gseq (BitVec.ofNat 40 n)) else s
        | _, _ => s) s

/-- FULL_CHECKPOINT_DONE. -/
def checkpointDone (s : State) : State :=
  match s.fc.running with
  | none => s
  | some b => sendTruncations { s with fc := s.fc.finish s.mem, fcnum := b }

/-- A full checkpoint begins at the instant, where one is due. -/
def FullCkpt.begin (f : FullCkpt) (due : Bool) (bnum : Word) : FullCkpt :=
  if due then { f with running := some bnum, filled := [], staleAt := f.stale } else { f with staleAt := f.stale }

/-- BOUNDARY_INSTANT (R350 step 5): what memory and the state hold now is the boundary's content. Stores that a full undo log has held back
at the backstay go on (R353). -/
def boundaryInstant (s : State) : State :=
  if s.bnd ≠ .saving || !allSaved s then s
  else
    let s1 := checkpointDone s
    let n := s1.bnum + 1
    let s2 := advancePhases { s1 with bnum := n, bnd := .idle }
    let due : Bool := s2.bndFull || (s2.blob.fper ≠ 0 && n.toNat % s2.blob.fper = 0)
    let inside (j : Nat × Job) : Nat × Job := (j.1, { j.2 with external := false })
    let rest (h : Nat × Health) : Nat × Health := (h.1, { h.2 with fails := 0 })
    let s3 : State := { s2 with
      bndFull := false, undo := [], log := [], extJobs := [], rollbacks := 0, fc := s2.fc.begin due n, jobs := s2.jobs.map inside, health := s2.health.map rest }
    settleBackstay { s3 with snap := some s3.toDev }

/-! ## Rollback and replay (R354–R356, R358) -/

/-- Does a slot of the full checkpoint image hold a page as it stood at the instant (R356)? -/
def FullCkpt.holds (f : FullCkpt) (page : Nat) : Bool :=
  inImage page && (f.filled.contains page || ((f.have_ || f.kept.contains page) && !f.staleAt.contains page))

/-- The checkpoint after a rollback: one under way is abandoned, and the slots that it has filled hold their pages, also where no checkpoint has ever
completed (R357, R358). Of the pages that the rollback leaves as they are, those written since their slot was filled stay so. -/
def FullCkpt.rolledBack (f : FullCkpt) (stays : Nat → Bool) : FullCkpt :=
  let st := f.staleAt.filter fun p => !f.filled.contains p
  let on := f.stale.filter fun p => stays p && !st.contains p
  { f with running := Option.none, filled := [], stale := on ++ st, staleAt := st, kept := if f.have_ then [] else f.filled ++ f.kept.filter fun p => !f.filled.contains p }

/-- Repair the page of an error (R356): from its undo copy, the SRAM snapshot or its image slot; else it is lost. A page of a unit that was dead at the
instant is zero again (R351). -/
def repairPage (s : State) (undo : KMap Bool) (fc : FullCkpt) (page : Nat) : State :=
  match regionOf (4096 * page) with
  | .caddy _ => s
  | .hole => s
  | _ =>
    if (kget undo page).isSome || deadAtInstant s page then s
    else if fc.holds page then { s with mem := putBytes s.mem (4096 * page) (getBytes fc.image (4096 * page) 4096) }
    else { s with mem := putBytes s.mem (4096 * page) (List.replicate 4096 0), lost := kput s.lost page true }

/-- Apply a host action of the replay log again (R355). -/
def applyItem (s : State) : LogItem → State
  | .bar2 dpa bytes => writePhys s (.dpa dpa) bytes
  | .notify k v r => notifyAt s (queueKey k) v r
  | .cancel k h => cancelQueue s (queueKey k) h
  | .lqry k h => queryQueue s (queueKey k) h
  | .wdctl k v => if wf v 7 0 = 0x01 then wdKick s (queueKey k) else if wf v 7 0 = 0x5A then partitionReset s (queueKey k) else s
  | .wdcfg k v => wdcfgSet s (queueKey k) v
  | .packet _ _ => s

/-- The packets of the replay log. -/
def packetsOf (log : List LogItem) : List (QueueId × List Word) :=
  log.filterMap fun x => match x with
    | .packet k ws => some (k, ws)
    | _ => none

/-- The replay log without its packets. -/
def hostActions (log : List LogItem) : List LogItem :=
  log.filter fun x => match x with
    | .packet _ _ => false
    | _ => true

/-- Keep the PHASEBND requests that are pending (Table 16.3). -/
def keepRequests (old new : KMap Job) : KMap Job :=
  new.map fun j => match kget old j.1 with
    | some o => (j.1, { j.2 with phasebnd := if o.asid = j.2.asid then o.phasebnd else j.2.phasebnd })
    | none => j

/-- Is a page one of the journal store, whose entries and headers stand across a rollback (R355, R388)? The failing page is repaired like any other. -/
def storePage (s : State) (page p : Nat) : Bool := p ≠ page && inStore s (4096 * p) 4096

/-- Memory after the restore: as it was at the instant, but for the journal store (log entry 149). -/
def restoredMem (s : State) (d : Dev) (page : Nat) : KMap Byte :=
  let stays (b : Nat × Byte) : Bool := storePage s page (b.1 / 4096) && inStore s b.1 1
  (s.mem.filter stays).foldl (fun m b => kput m b.1 b.2) (d.mem.filter fun b => !stays b)

/-- The entries that a stream had sent and that were not acknowledged at the instant are sent again (R354, R383). -/
def resend (s : State) : State :=
  s.journals.foldl (fun s x => if x.2.state = 1 then x.2.pend.foldl (fun s e => halSend s (.entry x.2.port.toNat e.words)) s else s) s

/-- The state of the instant is loaded again, external jobs are killed, and the host's actions are applied again (R354 steps 2 to 4). A packet of a killed
job is refused when it comes to be accepted again (R293; log entry 75). The frames begin anew, streams over a port that is down are lost, and the others send
again what is not acknowledged (R383, R385). The register `ahalt` is loaded again too (DESIGN CHOICE, log entry 172). -/
def rollBack (s : State) (d : Dev) (page : Nat) : State :=
  let ext := s.extJobs ++ (s.jobs.filter fun j => j.2.external && !s.extJobs.contains j.1).map fun j => j.1
  let s1 := { s with
    toDev := { d with jobs := keepRequests s.jobs d.jobs, mem := restoredMem s d page }, undo := s.undo.filter fun p => storePage s page p.1,
    fc := s.fc.rolledBack (storePage s page), rollbacks := s.rollbacks + 1, extJobs := ext,
    counters := { s.counters with rollbacks := s.counters.rollbacks + 1 },
    bnd := if s.bnd = .idle then .idle else .wanted,
    replay := packetsOf s.log ++ s.replay,
    uce := s.uce.filter fun e => e.1 / 128 ≠ page && (kget s.undo (e.1 / 128)).isNone,
    log := hostActions s.log }
  let s2 := repairPage s1 s.undo s.fc page
  let s3 := ext.foldl (fun s j => killJob s j (some cMemUce)) s2
  let s4 := resend (loseStreams (restartFrames s3))
  settleBackstay ((hostActions s.log).foldl applyItem s4)

/-- An uncorrectable error in a line of a stack in cache mode: a clean line is fetched again; of a dirty one the data are lost, and the context that reads
it is killed (R354). Which it is, and of which host line, is open. -/
def lineError (s : State) : State :=
  let s1 := { s with freeCount := s.freeCount + 1 }
  match Config.dirtyLine s.freeCount with
  | none => s1
  | some l => { s1 with lostLines := kput s1.lostLines l true }

/-- Does an error in what a rollback restores stand among the turns before time passes again: in a page with an undo copy or under repair, or in the SRAM
that is loaded again, caddies and lane files? It meets the restore, and is fatal (R354, R358). -/
def restoreError (s : State) (page : Nat) : Option Nat :=
  (s.turns.takeWhile fun t => match t with
    | .tick _ => false
    | _ => true).findSome? fun t => match t with
    | .ev (.rollback a) =>
      let sram : Bool := match regionOf a with
        | .caddy _ | .hole => true
        | _ => false
      if sram || a / 4096 = page || (kget s.undo (a / 4096)).isSome then some a else none
    | _ => none

/-- ROLLBACK: an uncorrectable error in stored data at a device address. An address outside memory stands for a lane file or a stationary plane. A
line of a stack in cache mode and a page that is lost start no rollback (R354, R356, R358). -/
def rollback (s : State) (dpa : Nat) : State :=
  let here : Bool := match regionOf dpa with
    | .tier st => !s.ctMode.getLsbD st
    | _ => true
  if s.fwState ≠ .running || (kget s.lost (dpa / 4096)).isSome then s
  else if !here then lineError s
  else
    match regionOf dpa, s.snap with
    | .tierReserved _, _ => fatal s 1 (BitVec.ofNat 64 dpa)
    | _, none => fatal s 1 (BitVec.ofNat 64 dpa)
    | _, some d =>
      if 2 ≤ s.rollbacks then fatal s 2 (BitVec.ofNat 64 dpa)
      else
        match restoreError s (dpa / 4096) with
        | some a => fatal s 1 (BitVec.ofNat 64 a)
        | none => rollBack s d (dpa / 4096)

/-! ## Errors that a near-memory unit reads (R391) -/

/-- The first code unit of some bytes of HBM or the peer range that holds an uncorrectable error. -/
def uceIn (s : State) (p : Phys) (n : Nat) : Option Nat :=
  match p with
  | .dpa a => (s.uce.find? fun e => (codeUnit (32 * e.1)).1 < a + n && a < (codeUnit (32 * e.1)).1 + (codeUnit (32 * e.1)).2).map fun e => (codeUnit (32 * e.1)).1
  | _ => none

/-- The code unit with an uncorrectable error that a read by a near-memory unit meets, of `n` bytes at a virtual address, once nothing holds the read back. -/
def nmcMeets (s : State) (o : EngOp) (va n : Nat) : Got (Option Nat) :=
  (mapRange s o.asid va n .read).bind fun ps =>
    if ps.any fun x => windowed s none x.2.1 x.2.2 || tierBusy s x.2.1 then .waits [] else .ok (ps.findSome? fun x => uceIn s x.2.1 x.2.2)

/-- The error that the update of element `i` meets in what it reads, of Y and then of X. -/
def nmcUce (s : State) (n i : Nat) : Option Nat :=
  match kget s.ops n with
  | none => none
  | some o =>
    match o.body with
    | .nmc b =>
      if !mayStart s n o || o.fault.isSome || b.n ≤ i || b.done.contains i then none
      else
        let xsz := match b.kind with | .red => 16 | _ => 4
        ((nmcMeets s o ((b.y + elemSize b.yfmt * i) % 2 ^ 57) (elemSize b.yfmt)).bind fun e =>
          match e with
          | some a => .ok (some a)
          | none => nmcMeets s o ((b.x + xsz * i) % 2 ^ 57) xsz).getD none
    | _ => none

/-- NMC_ELEMENT_UPDATE: an update whose read meets an uncorrectable error writes nothing, and the rollback starts with the code unit's address (R391). -/
def nmcStep (s : State) (n i : Nat) : State :=
  match nmcUce s n i with
  | some a => rollback s a
  | none => nmcUpdate s n i

/-- The kind of storage of an address, as the summary counts corrections: caddies, lane files, HBM, capacity tier (Table 16.6). -/
def storageKind (dpa : Nat) : Fin 4 :=
  match regionOf dpa with
  | .caddy _ => 0
  | .hbm _ => 2
  | .tier _ | .tierReserved _ => 3
  | .hole => 1

/-- SCRUB: a correction changes nothing that an agent reads; it is counted (R359). -/
def scrub (s : State) (dpa : Nat) : State :=
  let k := storageKind dpa
  { s with counters := { s.counters with corrected := s.counters.corrected.set k (s.counters.corrected[k] + 1) } }

/-! ## Element replay and spares (R360, R361) -/

/-- The tile and element of an operator's copy, or of a router. -/
def siteElem (s : State) (e : Site) (copy : Nat) : Option (Nat × Nat) :=
  match kget s.images e.tp.key with
  | none => none
  | some img =>
    if e.rtr then (img.rtrAt e).map fun r => (r.tile, r.elem)
    else (img.slotAt e).bind fun sl => (sl.copies[copy]?).map fun c => (c.tile, c.elem)

/-- The units that have an operator or router of an image on an element. -/
def unitsOn (s : State) (die tile elem : Nat) : List UnitId :=
  let on (b : Block) : Bool := b.ops.any (fun o => o.copies.any fun c => c.tile = tile && c.elem = elem) || b.rtrs.any fun r => r.tile = tile && r.elem = elem
  s.units.filterMap fun u => if s.images.any fun x => x.2.unit = u.1 && x.2.die = die && x.2.blocks.any on then some u.1 else none

/-- Save a sail unit by force; move a storm-jib unit (R322, R361). -/
def displace (s : State) (u : UnitId) (places : List Tp) : State :=
  match kget s.units u with
  | none => s
  | some w =>
    if w.life ≠ .bound || w.cancelled then s
    else if w.tp.plane = 4 then jibMove s u places
    else beginSave s u w 2

/-- Set the health of an element. -/
def setHealth (s : State) (die tile elem : Nat) (h : Health) : State := { s with health := dset Health.initial s.health (elemKey die tile elem) h }

/-- Is a spare taken by an operator of some plane? -/
def spareTaken (s : State) (die tile elem : Nat) : Bool := (List.range 5).any fun p => elemTaken s (320 * 4) die p tile elem

/-- A spare that an element has left is out of use. -/
def dropSpare (s : State) (die tile : Nat) (h : Health) : State :=
  match h.spare with
  | some k => setHealth s die tile k { healthOf s die tile k with retired := true }
  | none => s

/-- SPARE_MOVE: the element moves to a spare of its tile, or is retired (R361). -/
def spareMove (s : State) (die tile elem : Nat) : State :=
  let h := healthOf s die tile elem
  let s0 := dropSpare s die tile h
  match (freeSpares s0 die tile).find? fun k => k ≠ elem && !spareTaken s0 die tile k with
  | some k => { setHealth s0 die tile elem { h with fails := 0, spare := some k } with counters := { s0.counters with moves := s0.counters.moves + 1 } }
  | none =>
    let s1 := { setHealth s0 die tile elem { h with fails := 0, retired := true } with counters := { s0.counters with retired := s0.counters.retired + 1 } }
    (unitsOn s1 die tile elem).foldl (fun s u => displace s u (match kget s.units u with | some w => [w.tp] | none => [])) s1

/-- ELEMENT_REPLAY: the firings of a failed check are discarded and replayed, visible in the counters only; the third failure between two
boundaries moves the element (R360, R361). -/
def elementReplay (s : State) (e : Site) (copy : Nat) : State :=
  match siteElem s e copy with
  | none => s
  | some (tile, elem) =>
    let h := healthOf s e.tp.die tile elem
    if h.retired then s
    else
      let s1 := { setHealth s e.tp.die tile elem { h with fails := h.fails + 1 } with counters := { s.counters with replays := s.counters.replays + 1 } }
      if h.fails + 1 < 3 then s1 else spareMove s1 e.tp.die tile elem

end Sys2Proof.Machine
end

