-- ==== Sys2Proof/Machine/Service.lean ====
section
/-! DEFINITION. The resynchronisation summary (R367) and the service actions of FWUPD (R368–R371). Those on links are in Links.lean. -/

namespace Sys2Proof.Machine

/-! ## The summary (Tables 16.6, 16.9) -/

/-- The handle of a job (Table 13.13). -/
def jobHandle (job : Nat) : Word := BitVec.ofNat 64 (4 * 2 ^ 60 + job % 65536 * 2 ^ 44)

/-- The bitmap of a die's queues that belong to a job, 128 bytes. -/
def queueBitmap (s : State) (job die : Nat) : List Byte :=
  let mine := s.queues.filterMap fun q => if q.2.job = job && q.1 / 1024 = die then some (q.1 % 1024) else none
  (List.range 128).map fun i => BitVec.ofNat 8 (mine.foldl (fun a q => if q / 8 = i then a + 2 ^ (q % 8) else a) 0)

/-- The record of a job. -/
def jobRecord (s : State) (job : Nat) (j : Job) : List Byte :=
  leBytes 2 j.asid.toNat ++ leBytes 2 job ++ leBytes 2 j.phase ++ leBytes 2 0 ++ wordBytes (lqresOf s job (jobHandle job)) ++ leBytes 8 j.fhead ++
    leBytes 8 j.nunit ++ List.replicate 96 0 ++ (List.range 4).flatMap (queueBitmap s job)

/-- The header of the summary; a VF's carries zeros in its counters. -/
def summaryHead (s : State) (pf : Bool) (njob njobt : Nat) : List Byte :=
  let n (x : Nat) : Nat := if pf then x else 0
  let c := s.counters
  let lost : List Nat := if pf then s.lost.map fun p => 4096 * p.1 else []
  leBytes 4 0x434E5952 ++ leBytes 4 njob ++ wordBytes s.tb ++ wordBytes s.bnum ++ wordBytes s.fcnum ++ wordBytes (fwstWord s) ++ wordBytes (devidWord s) ++
    leBytes 8 (n c.rollbacks.toNat) ++ leBytes 8 (n c.replays.toNat) ++ leBytes 4 (n c.moves.toNat) ++ leBytes 4 (n c.retired.toNat) ++
    (c.corrected.toList.flatMap fun x => leBytes 8 (n x.toNat)) ++ leBytes 8 (n c.limited.toNat) ++ leBytes 1 s.power ++ leBytes 1 s.dies.toNat ++
    leBytes 2 njobt ++ leBytes 4 lost.length ++ ((List.range 16).flatMap fun i => leBytes 8 (lost.getD i 0)) ++ leBytes 8 0

/-- RESYNC (R367). -/
def resync (s : State) (f : PcieFn) : State :=
  match request s f 10 with
  | none => s
  | some ws =>
    let size := (ws.getD 2 0).toNat
    if size < 4096 then respond s f mbRange 0
    else
      let jobs := s.jobs.filter fun j => f = .pf || j.2.fn = f
      let fit := jobs.take ((size - 0x100) / 640)
      let bs := summaryHead s (f = .pf) fit.length jobs.length ++ fit.flatMap fun j => jobRecord s j.1 j.2
      respond (writePhys s (.sys (ws.getD 1 0).toNat) bs) f 0 bs.length

/-! ## Service actions (Table 16.7) -/

/-- What a firing of a service action does: it ends with a code, or goes on. -/
inductive Served where
  | ends (s : State) (code : Nat)
  | goesOn (s : State)
deriving Repr

/-- Run an action of FWUPD: PF-only, and one at a time (R368). -/
def serve (s : State) (f : PcieFn) (action : Nat) (form : List Word → Bool) (act : State → List Word → Served) : State :=
  match request s f 11 with
  | none => s
  | some ws =>
    if actionOf ws ≠ action then s
    else if f ≠ .pf then respond s f mbAuth 0
    else if form ws then respond s f mbForm 0
    else if s.service.isSome && s.service ≠ some ws then respond s f mbState 0
    else
      match act { s with service := some ws } ws with
      | .ends s1 code => respond { s1 with service := none } f code 0
      | .goesOn s1 => s1

/-- The die and the sail of an action. -/
def dieOf (ws : List Word) : Nat := wf (ws.getD 2 0) 5 4
/-- The sail. -/
def sailOf (ws : List Word) : Nat := wf (ws.getD 2 0) 8 6

/-- FWUPD_FIRMWARE: the image is verified under R284 before anything changes; FWVER changes with the last MC (R370). -/
def fwupdFirmware (s : State) (f : PcieFn) : State :=
  serve s f 0 (fun _ => false) fun s ws =>
    match kget s.hostOffers (ws.getD 1 0).toNat with
    | some o => if o.valid then .ends { s with fwver := o.fwver } 0 else .ends s mbAuth
    | none => .ends s mbAuth

/-- Bring the sail units of some tile-planes into their records, and move storm-jib units away; it goes on until none is left (R369). -/
def vacate (s : State) (here : Tp → Bool) : Served :=
  let us := (s.units.filter fun u => here u.2.tp).map fun u => u.1
  let away (u : UnitId) (s : State) : List Tp := match kget s.units u with
    | some w => jibPlaces s w.job fun d => d ≠ w.tp.die && s.dies.getLsbD d
    | none => []
  let s1 := us.foldl (fun s u => displace s u (away u s)) s
  let stays (w : WorkUnit) : Bool := here w.tp && w.tp.plane ≠ 4 && match w.life with
    | .bound => !w.cancelled
    | .saving _ _ => true
    | .saved _ _ => false
  if s1.units.any fun u => stays u.2 then .goesOn s1 else .ends s1 0

/-- FWUPD_FABRIC_OUT (R369). -/
def fabricOut (s : State) (f : PcieFn) : State :=
  serve s f 1 (fun _ => false) fun s ws => vacate { s with dies := s.dies &&& ~~~(dieBit (dieOf ws)) } fun tp => tp.die = dieOf ws

/-- FWUPD_FABRIC_IN: the die's fabric returns to service, and kept storm-jib units are restored (R322, R369). -/
def fabricIn (s : State) (f : PcieFn) : State :=
  serve s f 2 (fun _ => false) fun s ws => .ends (retryJibs { s with dies := s.dies ||| (dieBit (dieOf ws) &&& s.blob.dies) }) 0

/-- FWUPD_SAIL_OUT (R369). -/
def sailOut (s : State) (f : PcieFn) : State :=
  serve s f 3 (fun ws => 4 ≤ sailOf ws) fun s ws =>
    vacate { s with sailsOut := dset false s.sailsOut (4 * dieOf ws + sailOf ws) true } fun tp => tp.die = dieOf ws && tp.plane = sailOf ws

/-- FWUPD_SAIL_IN. -/
def sailIn (s : State) (f : PcieFn) : State :=
  serve s f 4 (fun ws => 4 ≤ sailOf ws) fun s ws => .ends { s with sailsOut := dset false s.sailsOut (4 * dieOf ws + sailOf ws) false } 0

/-- The highest power class of a form (Table 16.8). -/
def formClass (form : BitVec 4) : Nat := if form = 3 then 6 else 4

/-- FWUPD_POWER_CLASS (R371). -/
def powerClass (s : State) (f : PcieFn) : State :=
  serve s f 7 (fun _ => false) fun s ws =>
    let c := wf (ws.getD 3 0) 2 0
    if formClass s.blob.form < c || s.blob.maxClass < c then .ends s mbRange else .ends { s with power := c } 0

end Sys2Proof.Machine
end

