-- ==== Sys2Proof/Machine/Frames.lean ====
section
/-! DEFINITION. Gang slices (R323). -/

namespace Sys2Proof.Machine

/-- The members of a gang, the leader first. -/
def gangMembers (s : State) (gid : BitVec 16) : List Nat := ((s.blob.gangs.find? fun g => g.gid = gid).map fun g => g.members).getD []

/-- Does this device lead a gang? -/
def leads (s : State) (gid : BitVec 16) : Bool := (gangMembers s gid).head? = some s.blob.devid.toNat

/-- The gang slice of a die on which no decision has been taken. -/
def openSlice (s : State) (die : Nat) : Option (Frame × FrameEntry × GangSt) :=
  let f := frameOf s die
  match f.entries[f.cur]?, f.gang with
  | some e, some g => if g.decision.isNone && s.fwState = .running then some (f, e, g) else none
  | _, _ => none

/-- A member activates SAIL (R323 step 3). -/
def sliceGo (s : State) (die : Nat) (f : Frame) (e : FrameEntry) (g : GangSt) : State :=
  putFrame s die { f with active := e.sail.toNat, gang := some { g with decision := some true } }

/-- The end of a slice's grace. -/
def graceEnd (e : FrameEntry) (g : GangSt) : Word := g.start + e.grace.setWidth 64

/-- A member activates FILL, and the skip is recorded for each job with a unit bound on SAIL (R323 steps 4 and 5). Table 14.4 and R323 state no fate of a
FILL of 4 to 7: the number becomes the active plane, on which no sail runs for the slice (DESIGN CHOICE, log entry 111). -/
def sliceSkip (s : State) (die : Nat) (f : Frame) (e : FrameEntry) (g : GangSt) (lost : Bool) : State :=
  let s1 := putFrame s die { f with active := e.fill.toNat, gang := some { g with decision := some false, lost := lost } }
  let jobs := s1.units.filterMap fun u => if s1.slots.any fun x => x.2.unit = some u.1 && x.2.bound && x.1 / 320 = die && x.1 % 5 = e.sail.toNat then some u.2.job else none
  jobs.eraseDups.foldl (fun s j =>
    writeRecord s j (firstQueue s j) (FaultRec.plain 0x70 4 0 (BitVec.ofNat 64 (e.gid.toNat + lost.toNat * 2 ^ 16)))) s1

/-- The leader sends GO once it holds READY from every member. -/
def leaderDecides (s : State) (die : Nat) (f : Frame) (e : FrameEntry) (g : GangSt) : State :=
  if (gangMembers s e.gid).all g.readyFrom.contains then sliceGo (halSend s (.go e.gid g.start)) die f e g
  else putFrame s die { f with gang := some g }

/-- Is a save in progress on a sail of a die? -/
def saving (s : State) (die sail : Nat) : Bool :=
  s.units.any fun u => match u.2.life with
    | .saving _ _ => s.slots.any fun x => x.2.unit = some u.1 && x.1 / 320 = die && x.1 % 5 = sail
    | _ => false

/-- GANG_READY_SEND: a member is ready once no save is in progress on the sail (R323 step 1). -/
def readySend (s : State) (die : Nat) : State :=
  match openSlice s die with
  | none => s
  | some (f, e, g) =>
    if g.sentReady || saving s die e.sail.toNat then s
    else
      let g1 := { g with sentReady := true, readyFrom := s.blob.devid.toNat :: g.readyFrom }
      if leads s e.gid then
        if earlier (graceEnd e g) s.tb then putFrame s die { f with gang := some g1 } else leaderDecides s die f e g1
      else halSend (putFrame s die { f with gang := some g1 }) (.ready e.gid g.start)

/-- GANG_READY_RECEIVE: the leader receives a member's READY; one that comes after the grace counts no more (R323 step 2, R342). -/
def readyReceive (s : State) (die dev : Nat) : State :=
  match openSlice s die with
  | none => s
  | some (f, e, g) =>
    if !leads s e.gid || earlier (graceEnd e g) s.tb then s else leaderDecides s die f e { g with readyFrom := dev :: g.readyFrom }

/-- GANG_GRACE_EXPIRY: the leader sends SKIP (R323 step 2). -/
def graceExpiry (s : State) (die : Nat) : State :=
  match openSlice s die with
  | none => s
  | some (f, e, g) =>
    if !leads s e.gid || earlier s.tb (graceEnd e g) then s
    else sliceSkip (halSend s (.skip e.gid g.start)) die f e g false

/-- GANG_GO_RECEIVE. -/
def goReceive (s : State) (die : Nat) : State :=
  match openSlice s die with
  | none => s
  | some (f, e, g) => if leads s e.gid then s else sliceGo s die f e g

/-- GANG_SKIP_RECEIVE. -/
def skipReceive (s : State) (die : Nat) : State :=
  match openSlice s die with
  | none => s
  | some (f, e, g) => if leads s e.gid then s else sliceSkip s die f e g false

/-- GANG_DECISION_TIMEOUT: a member without a decision 20 µs after the grace skips on its own (R323 step 5). -/
def decisionTimeout (s : State) (die : Nat) : State :=
  match openSlice s die with
  | none => s
  | some (f, e, g) => if earlier s.tb (graceEnd e g + 20000) then s else sliceSkip s die f e g true

end Sys2Proof.Machine
end

