-- ==== Sys2Proof/Machine/Links.lean ====
section
/-! DEFINITION. Die-to-die links and halyards: replay, retraining, rates, lanes and service (R372–R380, R389). -/

namespace Sys2Proof.Machine

/-- Put a link back. -/
def putLink (s : State) (l : Nat) (x : Link) : State := { s with links := dset Link.initial s.links l x }

/-- A counter that saturates at all ones (R375). -/
def satAdd {w : Nat} (x : BitVec w) (n : Nat) : BitVec w := BitVec.ofNat w (min (2 ^ w - 1) (x.toNat + n))

/-- The rate of a code of LNKCTL.RATE in GT/s (Table 17.3). -/
def gtOf (r : BitVec 3) : Nat := 32 + 4 * r.toNat

/-- The rate that applies: the limit of the blob in place of a higher one (R376). -/
def limited (s : State) (l : Nat) (r : BitVec 3) : BitVec 3 := if (s.blob.limitOf l).toNat < r.toNat then s.blob.limitOf l else r

/-! ## Routes (R372) -/

/-- The dies that a pair of links joins. -/
def pairDies (l : Nat) : Nat × Nat :=
  match l / 4 with
  | 0 => (0, 1)
  | 1 => (2, 3)
  | 2 => (0, 2)
  | _ => (1, 3)

/-- Is a link of the package in use, or about to be again? -/
def linkLive (s : State) (l : Nat) : Bool := let x := linkOf s l; x.state = 0 || x.state = 1

/-- Dies reached from a set over one more link. -/
def reachMore (s : State) (r : List Nat) : List Nat :=
  (List.range 16).foldl (fun r l =>
    let p := pairDies l
    if !linkLive s l then r
    else if r.contains p.1 && !r.contains p.2 then p.2 :: r
    else if r.contains p.2 && !r.contains p.1 then p.1 :: r
    else r) r

/-- A die that no route reaches is lost, which is fatal (R372, R365). -/
def checkRoutes (s : State) : State :=
  let r := reachMore s (reachMore s (reachMore s [0]))
  match (List.range 4).find? fun d => !r.contains d with
  | some d => fatal s 5 (BitVec.ofNat 64 d)
  | none => s

/-! ## Retrains (R376–R379) -/

/-- May a link begin to retrain: it is up, it is a halyard that is down, or it returns to service? -/
def mayRetrain (l : Nat) (x : Link) : Bool := x.state = 0 || (16 ≤ l && x.state = 2) || (x.back = .asked && x.state ≠ 1)

/-- A retrain begins, at the rate of a code, which it keeps: a write of RATE that comes later acts in the next one (R376, R389). -/
def Link.retrain (x : Link) (tb : Word) (code : BitVec 3) : Link := { x with state := 1, target := code, rateDue := false, streak := 0, since := some tb }

/-- The retrain that LNKCTL or a service action has asked for begins: at the rate asked for. -/
def Link.startAsked (x : Link) (s : State) (l : Nat) : Link :=
  { x.retrain s.tb (limited s l x.ctlRate) with wanted := false, back := if x.back = .asked then .running else x.back }

/-- The adapter retrains the link itself: at the rate in use, so that no rate rises on its own, or at one that a write has asked for since the last
retrain. What has been asked for stays asked for (R376–R378). -/
def Link.startSelf (x : Link) (s : State) (l : Nat) : Link :=
  x.retrain s.tb (if x.rateDue then limited s l x.ctlRate else BitVec.ofNat 3 ((x.rate.toNat - 32) / 4))

/-- The pairs of a route between two dies, and those of the route through the other two (R372). -/
def routes (a b : Nat) : List Nat × List Nat :=
  match min a b, max a b with
  | 0, 1 => ([0], [2, 1, 3])
  | 2, 3 => ([1], [2, 0, 3])
  | 0, 2 => ([2], [0, 3, 1])
  | 1, 3 => ([3], [0, 2, 1])
  | 0, 3 => ([0, 3], [2, 1])
  | 1, 2 => ([0, 2], [3, 1])
  | _, _ => ([], [])

/-- The pairs that traffic between two dies crosses: the other route once every link of a pair is out of use (R372). -/
def routePairs (s : State) (a b : Nat) : List Nat :=
  let r := routes a b
  if r.1.all fun p => (List.range 4).any fun m => linkLive s (4 * p + m) then r.1 else r.2

/-- The dies at which the stores of a save under way arrive: those of its record, in the job's save area. A boundary's record and a jib move's go to the
reserved region, which is taken as the unit's own die's (R313, R350; log entry 152). -/
def saveHomes (s : State) (u : UnitId) (w : WorkUnit) : List Nat :=
  match w.life, kget s.jobs w.job with
  | .saving reason start, some j =>
    if w.forBoundary || reason = 3 then []
    else
      let n := (captureUnit s u w reason start).bytes.length
      match recordPlace s w.job j n with
      | none => []
      | some off => match mapRange s j.asid (j.savea + off) n .write with
        | .ok ps => ps.filterMap fun p => match p.2.1 with
          | .dpa a => some (homeDie a)
          | _ => none
        | _ => []
  | _, _ => []

/-- Does a save have stores in flight across a link (R378)? Its module is a hash's choice (R374): a save that crosses a pair counts for each of its
links (log entry 152). -/
def saveCrosses (s : State) (l : Nat) : Bool :=
  l < 16 && s.units.any fun u => (saveHomes s u.1 u.2).any fun d => (routePairs s u.2.tp.die d).contains (l / 4)

/-- Does a link begin the retrain that it has been asked for: no save's stores cross it, and none is under way (R378)? -/
def beginsAsked (s : State) (l : Nat) (x : Link) : Bool := (x.wanted || x.back = .asked) && mayRetrain l x && !saveCrosses s l

/-- The retrains that have waited for saves, or for a retrain under way, begin (R378). -/
def startWanted (s : State) : State :=
  if s.links.any fun l => beginsAsked s l.1 l.2 then
    { s with links := s.links.map fun l => if beginsAsked s l.1 l.2 then (l.1, l.2.startAsked s l.1) else l }
  else s

/-- Ask for a retrain: one under way is followed by a further one (R378). -/
def wantRetrain (s : State) (l : Nat) : State :=
  let x := linkOf s l
  if x.state = 1 || mayRetrain l x then startWanted (putLink s l { x with wanted := true }) else s

/-- LNKCTL_RETRAIN. -/
def lnkctlRetrain (s : State) (l : Nat) : State := if l < 28 then wantRetrain s l else s

/-- Set LNKCTL.RATE: 5 to 7 leaves it, and halyards ignore it (R376, Table 17.3). -/
def setRate (s : State) (l : Nat) (r : BitVec 3) : State :=
  if 16 ≤ l || 5 ≤ r.toNat then s
  else
    let x := linkOf s l
    putLink s l { x with ctlRate := r, rqrate := BitVec.ofNat 8 (gtOf (limited s l r)), rateDue := x.rateDue || x.ctlRate ≠ r }

/-- Does a write change the rate of a link? -/
def rateChanges (s : State) (l : Nat) (r : BitVec 3) : Bool := l < 16 && r.toNat < 5 && (linkOf s l).ctlRate ≠ r

/-- LNKCTL_RATE_WRITE: a change of rate asks for a retrain (R376). -/
def lnkctlRate (s : State) (l : Nat) (r : BitVec 3) : State :=
  let s1 := setRate s l r
  if rateChanges s l r then wantRetrain s1 l else s1

/-- A write of LNKCTL: one retrain, where RETRAIN or a change of rate asks for it. -/
def lnkctlWrite (s : State) (l : Nat) (val : Word) : State :=
  let r := val.extractLsb' 0 3
  let s1 := setRate s l r
  if rateChanges s l r || val.getLsbD 8 then wantRetrain s1 l else s1

/-- LINK_DEGRADED: a drop in width sets DEG and raises vector 1 of the PF (R379). -/
def degrade (s : State) (l : Nat) : State := raiseMsix (putLink s l { linkOf s l with deg := true }) .pf 1

/-- Draw a free number. -/
def drawNat (s : State) : State × Nat := ({ s with freeCount := s.freeCount + 1 }, Config.freeNat s.freeCount)

/-- FLIT_CRC_FAIL: the flit is resent with those sent after it; the fourth resend of one flit in succession makes the adapter retrain
(R377). Whether the flit is the one that failed last, and how many follow it, are free. -/
def flitCrcFail (s : State) (l : Nat) : State :=
  let x := linkOf s l
  if 16 ≤ l || x.state ≠ 0 then s
  else
    let a := drawNat s
    let b := drawNat a.1
    let streak := if a.2 % 2 = 0 then x.streak + 1 else 1
    let x1 := { x with crcerr := satAdd x.crcerr 1, replay := satAdd x.replay (1 + b.2), streak := streak }
    putLink b.1 l (if 4 ≤ streak then x1.startSelf s l else x1)

/-- LINK_TRAINING_LOSS (R377). -/
def trainingLoss (s : State) (l : Nat) : State :=
  let x := linkOf s l
  if 28 ≤ l || x.state ≠ 0 then s else putLink s l (x.startSelf s l)

/-- The redundant lanes of a module (R373). -/
def redundantLanes : Nat := 4

/-- The width that a module trains: lanes that fail are repaired while redundant lanes are left, else one half is used (R379). -/
def moduleWidth (x : Link) (o : TrainOutcome) : Nat × Nat :=
  let spare := if x.back = .running then 0 else x.spare.toNat
  let full := x.back = .running || x.width = 64
  if spare + o.failedLanes ≤ redundantLanes then (if full then 64 else x.width.toNat, spare + o.failedLanes)
  else (if o.halfTrains then 32 else 0, spare)

/-- A link of the package after a retrain, at the rate that the retrain began with. -/
def Link.moduleDone (x : Link) (o : TrainOutcome) : Link :=
  let w := moduleWidth x o
  let falls := o.rateFails && x.target ≠ 0
  { x with
    state := if w.1 = 0 then 2 else 0, width := BitVec.ofNat 8 w.1, spare := BitVec.ofNat 8 w.2,
    rate := if w.1 = 0 then 0 else if falls then 32 else BitVec.ofNat 8 (gtOf x.target), fallbk := x.fallbk || falls,
    fallb := if falls then satAdd x.fallb 1 else x.fallb, lanef := satAdd x.lanef o.failedLanes }

/-- A halyard after a retrain: 8 lanes, 4 where lanes fail or have failed before, or down (R379, R380). -/
def Link.halyardDone (x : Link) (o : TrainOutcome) : Link :=
  let w : Nat := if o.failedLanes = 0 then (if x.half then 4 else 8) else if o.halfTrains then 4 else 0
  { x with half := x.half || o.failedLanes ≠ 0, state := if w = 0 then 2 else 0, width := BitVec.ofNat 8 w, rate := if w = 0 then 0 else 200, peer := if w = 0 then x.peer else o.peer,
           lanef := satAdd x.lanef o.failedLanes }

/-- The width from which a retrain may drop: that in use, or all lanes for a link that comes back from none. -/
def Link.trainedFrom (x : Link) : Nat := if x.back = .running && x.width = 0 then 64 else x.width.toNat

/-- The link of a service action. -/
def linkArg (ws : List Word) : Nat := (ws.getD 3 0).toNat

/-- Does a service action wait to take a link out (R368, R377)? -/
def outWaits (s : State) (l : Nat) : Bool := s.service.any fun ws => actionOf ws = 5 && linkArg ws = l

/-- LINK_RETRAIN_DONE: the retrain ends, what stands in the replay buffer is resent once, and a further retrain begins where one is asked
for (R376–R380). How many flits are resent is free. -/
def retrainDone (s : State) (l : Nat) (o : TrainOutcome) : State :=
  let x := linkOf s l
  if 28 ≤ l || x.state ≠ 1 then s
  else
    let a := drawNat s
    let y : Link := if l < 16 then x.moduleDone o else x.halyardDone o
    let drops : Bool := y.width.toNat < x.trainedFrom
    let z : Link := { y with outTold := x.outTold || drops && outWaits s l, rtd := true, retrn := satAdd y.retrn 1, replay := satAdd y.replay a.2, back := if x.back = .running then .over else x.back, since := none }
    let s1 := putLink a.1 l z
    let s2 := if drops then degrade s1 l else s1
    startWanted (if l < 16 then checkRoutes s2 else loseStreams s2)

/-! ## Halyards (R380) -/

/-- HALYARD_FRAME_CRC_FAIL: a frame is resent under go-back-N. How many follow it, and how many codewords were uncorrectable, are free. -/
def frameCrcFail (s : State) (port : Nat) : State :=
  let x := linkOf s (16 + port)
  if 12 ≤ port || x.state ≠ 0 then s
  else
    let a := drawNat s
    let b := drawNat a.1
    putLink b.1 (16 + port) { x with crcerr := satAdd x.crcerr 1, replay := satAdd x.replay (1 + a.2 % 64), fecunc := satAdd x.fecunc b.2 }

/-- HALYARD_DOWN: a port that has not been trained for 100 µs is down (R380, R385). -/
def halyardDown (s : State) (port : Nat) : State :=
  let x := linkOf s (16 + port)
  let late : Bool := match x.since with
    | some t => 100000 ≤ (s.tb - t).toNat
    | none => false
  if 12 ≤ port || x.state ≠ 1 || !late then s
  else
    let s1 := putLink s (16 + port) { x with state := 2, width := 0, rate := 0, since := none }
    startWanted (loseStreams (if x.width ≠ 0 then degrade s1 (16 + port) else s1))

/-- May an agent outside reach a device address: memory, not reserved, not in cache mode, and no lost page (R280, R352, R356)? -/
def outsideReach (s : State) (dpa len : Nat) : Bool :=
  let ends : List Nat := pagesOf dpa len
  ends.all fun p => reachable s.ctMode (4096 * p) && (kget s.lost p).isNone

/-- A read from outside: all ones where it does not reach memory (R280). -/
def outsideRead (s : State) (dpa len : Nat) : List Byte :=
  if outsideReach s dpa len then getBytes s.mem dpa len else List.replicate len 0xFF

/-- A write from outside: dropped where it does not reach memory. -/
def outsideWrite (s : State) (dpa : Nat) (bs : List Byte) : State := if outsideReach s dpa bs.length then writePhys s (.dpa dpa) bs else s

/-- Does an access from outside wait: for a mode change (R309), a read for an active window (R89), or a write (R340, R353)? -/
def outsideWaits (s : State) (dpa len : Nat) (write : Bool) : Bool :=
  if write then writeHeld s none (.dpa dpa) len else tierBusy s (.dpa dpa) || windowed s none (.dpa dpa) len

/-- HALYARD_REMOTE_ACCESS: another device's access through a page of kind 6 (R380, R384). -/
def remoteAccess (s : State) (port : Nat) (a : RemoteAccess) : State :=
  if 12 ≤ port || (linkOf s (16 + port)).state ≠ 0 || s.fwState ≠ .running then s
  else
    match a with
    | .read dpa len => if outsideWaits s dpa len false then s else halSend s (.remoteData port (outsideRead s dpa len))
    | .write dpa bs => if outsideWaits s dpa bs.length true then s else outsideWrite s dpa bs

/-! ## Service of links (R368, R379) -/

/-- FWUPD_LINK_OUT: once every message in flight has been delivered, after a retrain under way, the width drops to 0; `link.degraded` is raised once, also
where that retrain has dropped the width already (R377, R379, R389). -/
def linkOut (s : State) (f : PcieFn) : State :=
  serve s f 5 (fun ws => 16 ≤ linkArg ws) fun s ws =>
    let l := linkArg ws
    let x := linkOf s l
    let s1 := putLink s l { x with state := 3, width := 0, rate := 0, wanted := false, outTold := false, since := none }
    if x.state = 1 then .goesOn s else .ends (checkRoutes (if x.width ≠ 0 && !x.outTold then degrade s1 l else s1)) 0

/-- FWUPD_LINK_IN: the link, whatever its state, is retrained with all of its lanes, and the action ends with that retrain (R379). -/
def linkIn (s : State) (f : PcieFn) : State :=
  serve s f 6 (fun ws => 16 ≤ linkArg ws) fun s ws =>
    let l := linkArg ws
    let x := linkOf s l
    match x.back with
    | .over => .ends (putLink s l { x with back := .none }) 0
    | .none => .goesOn (startWanted (putLink s l { x with back := .asked }))
    | _ => .goesOn (startWanted s)

end Sys2Proof.Machine
end

