-- ==== Sys2Proof/Machine/Registers.lean ====
section
/-! DEFINITION. The BARs (R280–R282): the registers that the host reads and writes, the window onto device memory, and the host's
AtomicOps (R278). -/

namespace Sys2Proof.Machine

/-! ## Registers as they read -/

/-- MBST (R288). -/
def Mailbox.st (m : Mailbox) : Word := BitVec.ofNat 64 (m.busy.toNat + 2 * m.done.toNat + 4 * m.ovr.toNat)

/-- The vendor and device identifiers that a function reports in configuration space (R279). -/
def pciIds : PcieFn → BitVec 16 × BitVec 16
  | .pf => (0x1D7F, 0x4016)
  | .vf _ => (0x1D7F, 0x4017)

/-- A capability that configuration space may show. -/
inductive PcieCap where
  | msix | msi | sriov | ari | pasid | ats | pri | doe | ide | tdisp | expansionRom | ioSpace
deriving DecidableEq, Repr

/-- Does a function's configuration space show a capability (R278, Table 13.1)? SR-IOV and DOE stand on the PF only. -/
def hasCapability (f : PcieFn) (c : PcieCap) : Bool :=
  match c with
  | .msix | .ari | .pasid | .ats | .pri => fnPresent f
  | .sriov | .doe => f = .pf
  | .msi | .ide | .tdisp | .expansionRom | .ioSpace => false

/-- The MSI-X vectors of a function (Table 13.1). -/
def msixVectors : PcieFn → Nat
  | .pf => 2048
  | .vf _ => 64

/-- The largest payload and the largest read request in bytes, and the bits of a tag and of a PASID (Table 13.1). -/
def maxPayload : Nat := 512
/-- The largest read request. -/
def maxReadRequest : Nat := 4096
/-- The bits of a tag. -/
def tagBits : Nat := 14
/-- The bits of a PASID. -/
def pasidBits : Nat := 20

/-- The BARs of a function: number, bytes, and whether it is prefetchable (R280, R281). -/
def barsOf : PcieFn → List (Nat × Nat × Bool)
  | .pf => [(0, 2 ^ 25, false), (2, 2 ^ 36, true)]
  | .vf _ => [(0, 2 ^ 21, false)]

/-- CTST (Table 13.15). -/
def ctstWord (s : State) : Word :=
  BitVec.ofNat 64 (s.ctMode.toNat + 256 * ((List.range 8).foldl (fun a st => if (kget s.ctBusy st).isSome then a + 2 ^ st else a) 0))

/-- How many tokens stand on an arc: a result behind one that has still to come is not on it yet (R15, R20). -/
def Arc.standing (a : Arc) : Nat :=
  (a.q.takeWhile fun x => match x with
    | .tok _ _ => true
    | .pending _ _ => false).length

/-- The tokens on the arc that an `ahalt` names, on all of them where copies of a triplicated operator share its name (R273, R362; DESIGN CHOICE, log
entry 171). -/
def haltedTokens (s : State) (die : Nat) : Nat :=
  s.images.foldl (fun a i => if i.2.die = die then i.2.arcs.foldl (fun a x => if arcHalted s i.2 x then a + x.standing else a) a else a) 0

/-- `ahalt` of a die as it reads (Table 11.8). -/
def ahaltWord (s : State) (die : Nat) : Word :=
  let n := haltedTokens s die
  dget 0 s.ahalt die ||| (if n = 0 then 0 else BitVec.ofNat 64 (2 ^ 62 + n % 64 * 2 ^ 32))

/-- The writable fields of `ahalt`: EN, PLANE, TILE, BSEL, SRTR, SSLOT and STGT. -/
def ahaltMask : Word := 0xBFFFF00000000000

/-- A write of `ahalt` (R273, R274). -/
def ahaltWrite (s : State) (die : Nat) (val : Word) : State :=
  if 4 ≤ die then s else { s with ahalt := dset 0 s.ahalt die (val &&& ahaltMask) }

/-- The registers of a link (Tables 17.2–17.4). -/
def linkReg (s : State) (l k : Nat) : Word :=
  let x := linkOf s l
  match k with
  | 0 => BitVec.ofNat 64 (x.state.toNat * 2 ^ 58 + x.width.toNat * 2 ^ 48 + x.rate.toNat * 2 ^ 40 + x.rqrate.toNat * 2 ^ 32 + x.peer.toNat * 2 ^ 16 +
      x.spare.toNat * 2 ^ 8 + x.fallbk.toNat * 4 + x.deg.toNat * 2 + x.rtd.toNat)
  | 1 => x.ctlRate.setWidth 64
  | 2 => x.replay ++ x.crcerr
  | 3 => x.retrn ++ x.lanef ++ x.fallb ++ x.fecunc
  | _ => 0

/-- JST and JSQ (Table 17.5). -/
def journalReg (s : State) (die j k : Nat) : Word :=
  let x := journalOf s die j
  match k with
  | 0 => x.state ++ x.port ++ (0 : BitVec 2) ++ x.bsdev ++ x.ackn
  | 1 => x.gseq ++ (0 : BitVec 16) ++ BitVec.ofNat 16 x.pend.length
  | _ => 0

/-- The queue whose page a function sees at a page number: the PF's are 1,024 × die + queue, a VF's its own in order of QCREATE (log entry 123). -/
def pageQueue (s : State) (f : PcieFn) (page : Nat) : Option Nat :=
  match f with
  | .pf => if page < 4096 then some page else none
  | .vf _ =>
    let mine := s.queues.filter fun q => q.2.fn = f
    (mine.find? fun q => (mine.filter fun r => r.2.made < q.2.made).length = page).map fun q => q.1

/-- The identifier of a queue by its key. -/
def queueOfKey (k : Nat) : QueueId := { die := k / 1024, q := k % 1024 }

/-- A place in BAR0 (Table 13.3, R281, R375, R381). -/
inductive BarReg where
  | devid | fwst | drst | winbase | mbaddr | mbdb | mbst | ctst | tbh
  | chan (die ch k : Nat)
  | ahalt (die : Nat)
  | doorbell (k : ChainId)
  | link (l k : Nat)
  | journal (die j k : Nat)
  | queue (k : Nat) (r : Nat)
deriving DecidableEq, Repr

/-- The registers that the PF and VFs have in common. -/
def commonReg (off : Nat) : Option BarReg :=
  match off with
  | 0x00 => some .devid
  | 0x20 => some .mbaddr
  | 0x28 => some .mbdb
  | 0x30 => some .mbst
  | _ => none

/-- The registers at the start of the PF's BAR0. -/
def headReg (off : Nat) : Option BarReg :=
  match off with
  | 0x08 => some .fwst
  | 0x10 => some .drst
  | 0x18 => some .winbase
  | 0x38 => some .ctst
  | 0x40 => some .tbh
  | _ => commonReg off

/-- The chain of a doorbell. -/
def doorbellOf (o : Nat) : Option ChainId :=
  let n := o % 0x400 / 8
  let die := o / 0x1000
  match o / 0x400 % 4 with
  | 0 => if n < 64 then some { kind := .gre, die := die, num := n } else none
  | 1 => if n < 64 then some { kind := .qe, die := die, num := n } else none
  | 2 => if n < 64 then some { kind := .nmc, die := die, num := n } else none
  | _ => if n < 16 then some { kind := .mxq, die := die, num := n } else none

/-- The register of a function at an offset of its BAR0; none where none is assigned. -/
def barReg (s : State) (f : PcieFn) (off : Nat) : Option BarReg :=
  match f with
  | .vf _ =>
    if off < 0x100000 then commonReg off
    else if off < 0x200000 then (pageQueue s f ((off - 0x100000) / 0x1000)).map fun k => .queue k (off % 0x1000)
    else none
  | .pf =>
    if off < 0x10000 then headReg off
    else if off < 0x14000 then
      let o := off - 0x10000
      if o % 0x1000 < 0x400 && o / 8 % 4 < 3 then some (.chan (o / 0x1000) (o % 0x1000 / 0x20) (o / 8 % 4)) else none
    else if off < 0x20000 then none
    else if off < 0x20400 then if off % 0x100 = 0 then some (.ahalt ((off - 0x20000) / 0x100)) else none
    else if off < 0x30000 then none
    else if off < 0x34000 then (doorbellOf (off - 0x30000)).map .doorbell
    else if off < 0x40000 then none
    else if off < 0x40700 then
      let o := off - 0x40000
      if o % 0x40 < 0x20 then some (.link (o / 0x40) (o % 0x40 / 8)) else none
    else if off < 0x40800 then none
    else if off < 0x40C00 then
      let o := off - 0x40800
      some (.journal (o / 0x100) (o % 0x100 / 0x10) (o / 8 % 2))
    else if off < 0x1000000 then none
    else if off < 0x2000000 then some (.queue ((off - 0x1000000) / 0x1000) (off % 0x1000))
    else none

/-- A register as it reads; write-only registers read zero. -/
def readReg (s : State) (f : PcieFn) (r : BarReg) : Word :=
  match r with
  | .devid => devidWord s
  | .fwst => fwstWord s
  | .drst => 0
  | .winbase => BitVec.ofNat 64 (s.winbase.toNat * 2 ^ 36)
  | .mbaddr => (mboxOf s f).addr
  | .mbdb => 0
  | .mbst => (mboxOf s f).st
  | .ctst => ctstWord s
  | .tbh => s.tb
  | .chan d ch k => chanReg s d ch k
  | .ahalt d => ahaltWord s d
  | .doorbell _ => 0
  | .link l k => linkReg s l k
  | .journal d j k => journalReg s d j k
  | .queue k r => readQueueReg s k r

/-- Does the device answer a read of a register: only some in the states AUTHFAIL and FATAL (R284, R365)? -/
def answers (s : State) (r : BarReg) : Bool :=
  match s.fwState, r with
  | .fatal, .devid | .fatal, .fwst | .fatal, .winbase => true
  | .fatal, _ => false
  | .authfail, .devid | .authfail, .fwst | .authfail, .mbaddr | .authfail, .mbst => true
  | .authfail, _ => false
  | _, _ => true

/-- All ones. -/
def allOnes64 : Word := BitVec.allOnes 64

/-- An 8-byte read of BAR0 by a function (R280): an unassigned offset reads zero, and a misaligned access all ones. -/
def barRead (s : State) (f : PcieFn) (off : Nat) : Word :=
  if off % 8 ≠ 0 then allOnes64
  else
    match barReg s f off with
    | some r => if answers s r then readReg s f r else allOnes64
    | none => if s.fwState = .fatal || s.fwState = .authfail then allOnes64 else 0

/-- What a read of some bytes of BAR0 returns: one that is not one aligned 8-byte access, all ones (R280). -/
def bar0Read (s : State) (f : PcieFn) (off len : Nat) : List Byte :=
  if len = 8 then wordBytes (barRead s f off) else List.replicate len 0xFF

/-! ## Writes -/

/-- A write of LNKST clears the bits that are W1C. -/
def lnkstWrite (s : State) (l : Nat) (val : Word) : State :=
  let x := linkOf s l
  putLink s l { x with fallbk := x.fallbk && !wb val 2, deg := x.deg && !wb val 1, rtd := x.rtd && !wb val 0 }

/-- CHAIN_DOORBELL: the chain reads its tail again (R195). -/
def doorbell (s : State) (k : ChainId) : State := readTail s k

/-- DRST: 0xD5 resets the device (Table 13.3, R283), and bring-up follows (R284). -/
def drstWrite (s : State) (val : Word) : State := if wf val 7 0 = 0xD5 then bringUp (deviceReset s) else s

/-- A write of a register by a function. -/
def writeReg (s : State) (f : PcieFn) (r : BarReg) (val : Word) : State :=
  match r with
  | .drst => drstWrite s val
  | .winbase => { s with winbase := val.extractLsb' 36 6 }
  | .mbaddr => putMbox s f { mboxOf s f with addr := val }
  | .mbdb => submit s f
  | .mbst => let m := mboxOf s f; putMbox s f { m with done := m.done && !wb val 1, ovr := m.ovr && !wb val 2 }
  | .ahalt d => ahaltWrite s d val
  | .doorbell k => doorbell s k
  | .link l k => if k = 0 then lnkstWrite s l val else if k = 1 then lnkctlWrite s l val else s
  | .queue k r => hostQueueWrite s f (queueOfKey k) r val
  | _ => s

/-- Does a write of a register have effect: only some in the states AUTHFAIL and FATAL (R284, R365)? -/
def takesWrite (s : State) (r : BarReg) : Bool :=
  match s.fwState, r with
  | .fatal, .winbase | .fatal, .drst => true
  | .fatal, _ => false
  | .authfail, .mbaddr | .authfail, .mbdb | .authfail, .mbst | .authfail, .drst => true
  | .authfail, _ => false
  | _, _ => true

/-- REGISTER_WRITE: an aligned 8-byte write to BAR0 (R6, R280). -/
def registerWrite (s : State) (f : PcieFn) (off : Nat) (val : Word) : State :=
  if off % 8 ≠ 0 || !fnPresent f then s
  else
    match barReg s f off with
    | some r => if takesWrite s r then writeReg s f r val else s
    | none => s

/-- A write of some bytes to BAR0: one that is not one aligned 8-byte access is dropped (R280). -/
def bar0Write (s : State) (f : PcieFn) (off : Nat) (bs : List Byte) : State :=
  if bs.length = 8 then registerWrite s f off (wordOf bs) else s

/-- A host write to a queue page, with the firmware running. -/
def queueWrite (s : State) (k : QueueId) (r : Nat) (val : Word) : State :=
  if s.fwState = .running then hostQueueWrite s .pf k r val else s

/-! ## BAR2 (R74, R280, R346) -/

/-- The device address of an offset of the window. -/
def windowAddr (s : State) (off : Nat) : Nat := s.winbase.toNat * 2 ^ 36 + off

/-- Does an access lie in the window? -/
def inWindow (off len : Nat) : Bool := off + len ≤ 2 ^ 36

/-- A write through BAR2: it is performed when it is received, and kept in the replay log (R346, R355). -/
def bar2Write (s : State) (off : Nat) (bs : List Byte) : State :=
  let a := windowAddr s off
  if s.fwState ≠ .running || !inWindow off bs.length || outsideWaits s a bs.length true || !outsideReach s a bs.length then s
  else outsideWrite (logItem s (.bar2 a bs)) a bs

/-- What a read through BAR2 returns: in the state FATAL, the dump only (R365, R366). -/
def bar2Data (s : State) (off len : Nat) : List Byte :=
  let a := windowAddr s off
  let ones := List.replicate len (0xFF : Byte)
  if !inWindow off len then ones
  else if s.fwState = .running then outsideRead s a len
  else if s.fwState = .fatal && s.dump && dumpBase ≤ a && a + len ≤ dumpBase + 2 ^ 30 then getBytes s.mem a len
  else ones

/-- HOST_BAR2_READ: a relaxed load at system scope; it waits for active windows as every load does (R74, R89). -/
def bar2Read (s : State) (off len : Nat) : State :=
  if s.fwState = .running && inWindow off len && outsideWaits s (windowAddr s off) len false then s
  else { s with barData := bar2Data s off len }

/-- The new value of an AtomicOp of some bits. -/
def atomicNew (op : PcieAtomic) (bits old opnd cmp : Nat) : Nat :=
  match op with
  | .fetchAdd => (old + opnd) % 2 ^ bits
  | .swap => opnd % 2 ^ bits
  | .cas => if old = cmp % 2 ^ bits then opnd % 2 ^ bits else old

/-- The sizes in bytes of an AtomicOp (Table 13.1). -/
def atomicSizes : PcieAtomic → List Nat
  | .fetchAdd => [4, 8]
  | .swap => [4, 8]
  | .cas => [4, 8, 16]

/-- HOST_ATOMICOP: the device completes an AtomicOp through BAR2 and returns what stood there (R278). One of another size, or not aligned, is not
completed. -/
def hostAtomicOp (s : State) (off size : Nat) (op : PcieAtomic) (opnd cmp : Nat) : State :=
  let a := windowAddr s off
  if s.fwState ≠ .running || !(atomicSizes op).contains size || off % size ≠ 0 || !inWindow off size || outsideWaits s a size true ||
      outsideWaits s a size false then s
  else if !outsideReach s a size then { s with barData := List.replicate size 0xFF }
  else
    let old := getBytes s.mem a size
    let new := leBytes size (atomicNew op (8 * size) (leNat old) opnd cmp)
    outsideWrite { logItem s (.bar2 a new) with barData := old } a new

end Sys2Proof.Machine
end

