-- ==== Sys2Proof/Machine/DeviceOps.lean ====
section
/-! DEFINITION. What the device does of itself: frames and gangs (R319–R323), boundaries, rollback and repair (R349–R361), fatal errors and
temperature (R365, R371), links and halyards (R376–R380), and the backstay journal (R381–R388). -/

namespace Sys2Proof.Machine

/-- FRAME_ENTRY_END (R319). -/
def execFrameEntryEnd (die : Nat) (s : State) : Res := done (frameEntryEnd s die)
/-- GANG_READY_SEND (R323). -/
def execGangReadySend (die : Nat) (s : State) : Res := done (readySend s die)
/-- GANG_READY_RECEIVE (R323). -/
def execGangReadyReceive (die : Nat) (dev : Nat) (s : State) : Res := done (readyReceive s die dev)
/-- GANG_GRACE_EXPIRY (R323). -/
def execGangGraceExpiry (die : Nat) (s : State) : Res := done (graceExpiry s die)
/-- GANG_GO_RECEIVE (R323). -/
def execGangGoReceive (die : Nat) (s : State) : Res := done (goReceive s die)
/-- GANG_SKIP_RECEIVE (R323). -/
def execGangSkipReceive (die : Nat) (s : State) : Res := done (skipReceive s die)
/-- GANG_DECISION_TIMEOUT (R323). -/
def execGangDecisionTimeout (die : Nat) (s : State) : Res := done (decisionTimeout s die)
/-- AHALT_WRITE (R274). -/
def execAhaltWrite (die : Nat) (val : Word) (s : State) : Res := done (ahaltWrite s die val)
/-- BPER_EXPIRY (R349). -/
def execBperExpiry (s : State) : Res := done (bperExpiry s)
/-- BOUNDARY_START (R350). -/
def execBoundaryStart (s : State) : Res := done (boundaryStart s)
/-- BOUNDARY_INSTANT (R350). -/
def execBoundaryInstant (s : State) : Res := done (boundaryInstant s)
/-- FULL_CHECKPOINT_DONE (R357). -/
def execFullCheckpointDone (s : State) : Res := done (checkpointDone s)
/-- ROLLBACK (R354). -/
def execRollback (dpa : Nat) (s : State) : Res := done (rollback s dpa)
/-- SCRUB (R359). -/
def execScrub (dpa : Nat) (s : State) : Res := done (scrub s dpa)
/-- ELEMENT_REPLAY (R360). -/
def execElementReplay (e : Site) (copy : Nat) (s : State) : Res := done (elementReplay s e copy)
/-- FATAL_ERROR (R365). -/
def execFatalError (cause : BitVec 16) (val : Word) (s : State) : Res := done (fatalError s cause val)
/-- THERMAL_LIMIT (R371). -/
def execThermalLimit (die : Nat) (s : State) : Res := done (setHot s die true)
/-- THERMAL_LIMIT_END (R371). -/
def execThermalLimitEnd (die : Nat) (s : State) : Res := done (setHot s die false)
/-- THERMAL_TRIP (R371). -/
def execThermalTrip (die : Nat) (val : Word) (s : State) : Res := done (thermalTrip s die val)
/-- FLIT_CRC_FAIL (R377). -/
def execFlitCrcFail (link : Nat) (s : State) : Res := done (flitCrcFail s link)
/-- LINK_TRAINING_LOSS (R377). -/
def execLinkTrainingLoss (link : Nat) (s : State) : Res := done (trainingLoss s link)
/-- LNKCTL_RATE_WRITE (R376). -/
def execLnkctlRateWrite (link : Nat) (rate : BitVec 3) (s : State) : Res := done (lnkctlRate s link rate)
/-- LNKCTL_RETRAIN (R376). -/
def execLnkctlRetrain (link : Nat) (s : State) : Res := done (lnkctlRetrain s link)
/-- LINK_RETRAIN_DONE (R377). -/
def execLinkRetrainDone (link : Nat) (o : TrainOutcome) (s : State) : Res := done (retrainDone s link o)
/-- HALYARD_FRAME_CRC_FAIL (R380). -/
def execHalyardFrameCrcFail (port : Nat) (s : State) : Res := done (frameCrcFail s port)
/-- HALYARD_DOWN (R380). -/
def execHalyardDown (port : Nat) (s : State) : Res := done (halyardDown s port)
/-- HALYARD_REMOTE_ACCESS (R380). -/
def execHalyardRemoteAccess (port : Nat) (a : RemoteAccess) (s : State) : Res := done (remoteAccess s port a)
/-- JOURNAL_LOST_EXPIRY (R385). -/
def execJournalLostExpiry (die j : Nat) (s : State) : Res := done (lostExpiry s die j)
/-- JOURNAL_ENTRY_RECEIVE (R383). -/
def execJournalEntryReceive (w0 w1 w2 w3 : Word) (s : State) : Res := done (entryReceive s [w0, w1, w2, w3])
/-- JOURNAL_END_RECORD (R388). -/
def execJournalEndRecord (gseq : BitVec 32) (lastn : BitVec 40) (s : State) : Res := done (endReceive s gseq lastn)
/-- JOURNAL_TRUNCATE (R388). -/
def execJournalTruncate (gseq : BitVec 32) (n : BitVec 40) (s : State) : Res := done (truncReceive s gseq n)
/-- JOURNAL_ACK_RECEIVE (R186). -/
def execJournalAckReceive (die j : Nat) (n : BitVec 40) (poison : Bool) (s : State) : Res := done (ackReceive s die j n poison)

end Sys2Proof.Machine
end

