-- ==== Sys2Proof/Machine/EngineOps.lean ====
section
/-! DEFINITION. The stream commands as events of their own (R189, R195), and the events of the engines: each command is issued by a sequencer,
or started as the next entry of a chain. -/

namespace Sys2Proof.Machine

/-! ## Forms of a command whose opcode has several -/

/-- Every command of the opcode. -/
def anyForm (_ : Cmd128) : Bool := true
/-- SPEC[0] is set: the bag list of `gath.idx`, the tail form of `mxq.set`. -/
def spec0Form (c : Cmd128) : Bool := (cmdSpec c).getLsbD 0
/-- SPEC[0] is clear. -/
def notSpec0Form (c : Cmd128) : Bool := !spec0Form c
/-- A chain command with UNBIND (bit 105). -/
def unbindForm (c : Cmd128) : Bool := c.getLsbD 105
/-- A chain command without UNBIND. -/
def bindForm (c : Cmd128) : Bool := !unbindForm c
/-- An `mxq.set` with UNBIND (bit 91). -/
def queueUnbindForm (c : Cmd128) : Bool := notSpec0Form c && c.getLsbD 91
/-- An `mxq.set` that binds. -/
def queueBindForm (c : Cmd128) : Bool := notSpec0Form c && !c.getLsbD 91

/-! ## Issue -/

/-- A sequencer that executes instructions issues a command. Its status goes to no register here; `cmd` writes it to rd (R189, R247). With FE it is
issued once its emptying can be done (R275). -/
def seqIssues (o : Sopc) (u : UnitId) (c : Cmd128) (s : State) : State :=
  match kget s.units u with
  | none => s
  | some w =>
    if !w.running then s
    else
      match issueCmd o s (Ctx.ofUnit u w) c with
      | .st s1 code => if cmdFe c && code = 0 && emptying s1 s.nextId then s else s1
      | .waits _ => s
      | .fault cause va => seqFault s u w (faultAccess s w.asid cause va) cause va 0

/-- Is a command the next entry of a chain? -/
def nextEntryIs (s : State) (k : ChainId) (e : Nat) (c : Cmd128) : Bool :=
  match (chainOf s k).bound with
  | none => false
  | some b =>
    e = b.head + 1 &&
      match loadVa s b.asid k.die (b.entryVa (match k.kind with | .mxq => true | _ => false) e) 16 none with
      | .ok bs => BitVec.ofNat 128 (leNat bs) = c
      | _ => false

/-- Issue a command of an opcode and form: by a sequencer, or as the next entry of a chain (R116, R195). -/
def commandIssues (o : Sopc) (form : Cmd128 → Bool) (iss : Issuer) (c : Cmd128) (s : State) : Res :=
  if Sopc.ofCode (cmdOpc c) = some o && form c then
    match iss with
    | .seq u => done (seqIssues o u c s)
    | .chain k e => if nextEntryIs s k e c then done (entryStart s k) else .next s
  else .next s

/-- SNOP (R197). -/
def execSnop (iss : Issuer) (c : Cmd128) (s : State) : Res := commandIssues .snop anyForm iss c s
/-- SYNC (R197). -/
def execSync (iss : Issuer) (c : Cmd128) (s : State) : Res := commandIssues .sync anyForm iss c s
/-- FXREGION (R198). -/
def execFxregion (iss : Issuer) (c : Cmd128) (s : State) : Res := commandIssues .fxregion anyForm iss c s
/-- APR_LOAD (R199). -/
def execAprLoad (iss : Issuer) (c : Cmd128) (s : State) : Res := commandIssues .aprLoad anyForm iss c s
/-- APR_STORE (R199). -/
def execAprStore (iss : Issuer) (c : Cmd128) (s : State) : Res := commandIssues .aprStore anyForm iss c s
/-- APR_DIM (R199). -/
def execAprDim (iss : Issuer) (c : Cmd128) (s : State) : Res := commandIssues .aprDim anyForm iss c s
/-- APR_PAD (R199). -/
def execAprPad (iss : Issuer) (c : Cmd128) (s : State) : Res := commandIssues .aprPad anyForm iss c s
/-- APR_END (R199). -/
def execAprEnd (iss : Issuer) (c : Cmd128) (s : State) : Res := commandIssues .aprEnd anyForm iss c s
/-- CPT_DEF (R205). -/
def execCptDef (iss : Issuer) (c : Cmd128) (s : State) : Res := commandIssues .cptDef anyForm iss c s
/-- CPT_DIM (R206). -/
def execCptDim (iss : Issuer) (c : Cmd128) (s : State) : Res := commandIssues .cptDim anyForm iss c s
/-- CPT_GO (R208). -/
def execCptGo (iss : Issuer) (c : Cmd128) (s : State) : Res := commandIssues .cptGo anyForm iss c s
/-- CPT_CANCEL (R212). -/
def execCptCancel (iss : Issuer) (c : Cmd128) (s : State) : Res := commandIssues .cptCancel anyForm iss c s
/-- MC_PERMIT (R213). -/
def execMcPermit (iss : Issuer) (c : Cmd128) (s : State) : Res := commandIssues .mcPermit anyForm iss c s
/-- GATH_ROW (R216). -/
def execGathRow (iss : Issuer) (c : Cmd128) (s : State) : Res := commandIssues .gathRow anyForm iss c s
/-- GATH_RED (R216). -/
def execGathRed (iss : Issuer) (c : Cmd128) (s : State) : Res := commandIssues .gathRed anyForm iss c s
/-- GATH_IDX_LIST (R214). -/
def execGathIdxList (iss : Issuer) (c : Cmd128) (s : State) : Res := commandIssues .gathIdx notSpec0Form iss c s
/-- GATH_IDX_BAG (R214). -/
def execGathIdxBag (iss : Issuer) (c : Cmd128) (s : State) : Res := commandIssues .gathIdx spec0Form iss c s
/-- GATH_CHAIN_BIND (R196). -/
def execGathChainBind (iss : Issuer) (c : Cmd128) (s : State) : Res := commandIssues .gathChain bindForm iss c s
/-- GATH_CHAIN_UNBIND (R196). -/
def execGathChainUnbind (iss : Issuer) (c : Cmd128) (s : State) : Res := commandIssues .gathChain unbindForm iss c s
/-- GATH_TAIL (R196). -/
def execGathTail (iss : Issuer) (c : Cmd128) (s : State) : Res := commandIssues .gathTail anyForm iss c s
/-- QNT_BLK (R218). -/
def execQntBlk (iss : Issuer) (c : Cmd128) (s : State) : Res := commandIssues .qntBlk anyForm iss c s
/-- QNT_DQ (R218). -/
def execQntDq (iss : Issuer) (c : Cmd128) (s : State) : Res := commandIssues .qntDq anyForm iss c s
/-- QNT_CHAIN_BIND (R196). -/
def execQntChainBind (iss : Issuer) (c : Cmd128) (s : State) : Res := commandIssues .qntChain bindForm iss c s
/-- QNT_CHAIN_UNBIND (R196). -/
def execQntChainUnbind (iss : Issuer) (c : Cmd128) (s : State) : Res := commandIssues .qntChain unbindForm iss c s
/-- QNT_TAIL (R196). -/
def execQntTail (iss : Issuer) (c : Cmd128) (s : State) : Res := commandIssues .qntTail anyForm iss c s
/-- MXTASK (R222). -/
def execMxtask (iss : Issuer) (c : Cmd128) (s : State) : Res := commandIssues .mxtask anyForm iss c s
/-- MXQ_SET_BIND (R219). -/
def execMxqSetBind (iss : Issuer) (c : Cmd128) (s : State) : Res := commandIssues .mxqSet queueBindForm iss c s
/-- MXQ_SET_UNBIND (R219). -/
def execMxqSetUnbind (iss : Issuer) (c : Cmd128) (s : State) : Res := commandIssues .mxqSet queueUnbindForm iss c s
/-- MXQ_SET_TAIL (R219). -/
def execMxqSetTail (iss : Issuer) (c : Cmd128) (s : State) : Res := commandIssues .mxqSet spec0Form iss c s
/-- LDSTAT (R220). -/
def execLdstat (iss : Issuer) (c : Cmd128) (s : State) : Res := commandIssues .ldstat anyForm iss c s
/-- MXSWAP (R221). -/
def execMxswap (iss : Issuer) (c : Cmd128) (s : State) : Res := commandIssues .mxswap anyForm iss c s
/-- NMC_SGD (R226). -/
def execNmcSgd (iss : Issuer) (c : Cmd128) (s : State) : Res := commandIssues .nmcSgd anyForm iss c s
/-- NMC_DECAY (R226). -/
def execNmcDecay (iss : Issuer) (c : Cmd128) (s : State) : Res := commandIssues .nmcDecay anyForm iss c s
/-- NMC_RED (R226). -/
def execNmcRed (iss : Issuer) (c : Cmd128) (s : State) : Res := commandIssues .nmcRed anyForm iss c s
/-- NMC_CHAIN_BIND (R196). -/
def execNmcChainBind (iss : Issuer) (c : Cmd128) (s : State) : Res := commandIssues .nmcChain bindForm iss c s
/-- NMC_CHAIN_UNBIND (R196). -/
def execNmcChainUnbind (iss : Issuer) (c : Cmd128) (s : State) : Res := commandIssues .nmcChain unbindForm iss c s
/-- NMC_TAIL (R196). -/
def execNmcTail (iss : Issuer) (c : Cmd128) (s : State) : Res := commandIssues .nmcTail anyForm iss c s
/-- DEAD_SET (R228). -/
def execDeadSet (iss : Issuer) (c : Cmd128) (s : State) : Res := commandIssues .deadSet anyForm iss c s
/-- DEAD_CLR (R228). -/
def execDeadClr (iss : Issuer) (c : Cmd128) (s : State) : Res := commandIssues .deadClr anyForm iss c s
/-- EMIT_JNL (R381). -/
def execEmitJnl (iss : Issuer) (c : Cmd128) (s : State) : Res := commandIssues .emitJnl anyForm iss c s
/-- EMIT_SEQ (R229). -/
def execEmitSeq (iss : Issuer) (c : Cmd128) (s : State) : Res := commandIssues .emitSeq anyForm iss c s

/-! ## Events of the engines -/

/-- SYNC_WRITE (R197). -/
def execSyncWrite (n : OpId) (s : State) : Res := done (syncWrite s n)
/-- SHEAVE_RECORD_START (R199). -/
def execSheaveRecordStart (k : StreamId) (s : State) : Res := done (startRecord s k.die k.shv k.strm)
/-- SHEAVE_LOAD_EMIT (R201). -/
def execSheaveLoadEmit (k : StreamId) (s : State) : Res := done (sheaveLoad s k.die k.shv k.strm)
/-- SHEAVE_STORE_FILL (R202). -/
def execSheaveStoreFill (k : StreamId) (s : State) : Res := done (sheaveStore s k.die k.shv k.strm)
/-- PERMIT_PORT_TOKEN (R189). -/
def execPermitPortToken (tp : Tp) (port : Nat) (s : State) : Res := done (permitPort s tp port)
/-- BTE_LANDING (R209). -/
def execBteLanding (k : ChanId) (n : Nat) (s : State) : Res := done (bteLand s k.die k.ch n)
/-- GRE_ROW (R216). -/
def execGreRow (n : OpId) (j : Nat) (s : State) : Res := done (greRow s n j)
/-- QE_BLOCK (R218). -/
def execQeBlock (n : OpId) (s : State) : Res := done (qeBlock s n)
/-- LDSTAT_COMPLETE (R220). -/
def execLdstatComplete (die mxe : Nat) (s : State) : Res := done (ldstatDone s die mxe)
/-- MXSWAP_EXCHANGE (R221). -/
def execMxswapExchange (die mxe : Nat) (s : State) : Res := done (swapExchange s die mxe)
/-- MXE_TASK_START (R223). -/
def execMxeTaskStart (n : OpId) (mxe : Nat) (s : State) : Res := done (taskStart s n mxe)
/-- MXE_TASK_END (R225). -/
def execMxeTaskEnd (n : OpId) (s : State) : Res := done (taskEnd s n)
/-- MXE_RESIDUE_FAIL (R359). -/
def execMxeResidueFail (die mxe : Nat) (s : State) : Res := done (residueFail s die mxe)
/-- NMC_ELEMENT_UPDATE (R227, R391). -/
def execNmcElementUpdate (n : OpId) (i : Nat) (s : State) : Res := done (nmcStep s n i)
/-- CHAIN_TAIL_POLL (R195). -/
def execChainTailPoll (k : ChainId) (s : State) : Res := done (tailPoll s k)
/-- CHAIN_DOORBELL (R195). -/
def execChainDoorbell (k : ChainId) (s : State) : Res := done (readTail s k)
/-- CHAIN_ENTRY_START (R195). -/
def execChainEntryStart (k : ChainId) (s : State) : Res := done (entryStart s k)
/-- CHAIN_ENTRY_FINISH (R195). -/
def execChainEntryFinish (n : OpId) (s : State) : Res := done (entryFinish s n)
/-- ENGINE_OP_COMPLETE (R192). -/
def execEngineOpComplete (n : OpId) (s : State) : Res := done (opComplete s n)

/-! ## Events of block instances and units (R31, R76, R180, R331, R332) -/

/-- WAVE_ISSUE (R76). -/
def execWaveIssue (n : InstId) (s : State) : Res := done (waveIssue s n)
/-- BLOCK_COMMIT (R31). -/
def execBlockCommit (n : InstId) (s : State) : Res := done (blockCommit s n)
/-- MONWAIT_TIMEOUT (R180). -/
def execMonwaitTimeout (n : InstId) (s : State) : Res := done (monTimeout s n)
/-- FAULTED_UNIT_END (R331). -/
def execFaultedUnitEnd (u : UnitId) (s : State) : Res := done (faultedUnitEnd s u)
/-- XLAT_REWALK (R332): the re-walk of a withheld access. -/
def execXlatRewalk (w : Withheld) (s : State) : Res :=
  match w with
  | .seq u => done (seqRewalk s u)
  | .inst n => done (waveRewalk s n)
  | .eng n => done (opRewalk s n)
  | .chain k => done (chainRewalk s k)

end Sys2Proof.Machine
end

