-- ==== Sys2Proof/Machine/FabricOps.lean ====
section
/-! DEFINITION. The events of the fabric: one firing of each operator and router (R17), and the acknowledgement that an `emit`
takes (R186). A site that does not hold the opcode, or may not fire, changes nothing. -/

namespace Sys2Proof.Machine

/-- The end of a firing at a site: a sail waits where the storm jib goes first (R36). -/
def fired (r : FireRes) (e : Site) (s : State) : Res := done (if jibFirst s e then s else r.after e s)

/-- One firing of a compute operator (R17, R147–R170, R183–R185). -/
def operatorFires (o : Opc) (e : Site) (s : State) : Res := fired (fireOp o e s) e s

/-- One firing of a router (R26–R29, R167). -/
def routerFires (o : Opc) (e : Site) (s : State) : Res := fired (fireRouter o e s) e s

/-- One firing of a memory operator: it enters its instance's wave chain (R173). -/
def memoryFires (o : Opc) (e : Site) (s : State) : Res := fired (fireMem o e s) e s

/-- OP_ADD (R147). -/
def execOpAdd (e : Site) (s : State) : Res := operatorFires .add e s
/-- OP_SUB (R147). -/
def execOpSub (e : Site) (s : State) : Res := operatorFires .sub e s
/-- OP_ADDS (R147). -/
def execOpAdds (e : Site) (s : State) : Res := operatorFires .adds e s
/-- OP_SUBS (R147). -/
def execOpSubs (e : Site) (s : State) : Res := operatorFires .subs e s
/-- OP_MUL (R147). -/
def execOpMul (e : Site) (s : State) : Res := operatorFires .mul e s
/-- OP_MULH (R147). -/
def execOpMulh (e : Site) (s : State) : Res := operatorFires .mulh e s
/-- OP_MULHU (R147). -/
def execOpMulhu (e : Site) (s : State) : Res := operatorFires .mulhu e s
/-- OP_DIV (R148). -/
def execOpDiv (e : Site) (s : State) : Res := operatorFires .div e s
/-- OP_DIVU (R148). -/
def execOpDivu (e : Site) (s : State) : Res := operatorFires .divu e s
/-- OP_REM (R148). -/
def execOpRem (e : Site) (s : State) : Res := operatorFires .rem e s
/-- OP_REMU (R148). -/
def execOpRemu (e : Site) (s : State) : Res := operatorFires .remu e s
/-- OP_NEG (R147). -/
def execOpNeg (e : Site) (s : State) : Res := operatorFires .neg e s
/-- OP_ABS (R147). -/
def execOpAbs (e : Site) (s : State) : Res := operatorFires .abs e s
/-- OP_MIN (R147). -/
def execOpMin (e : Site) (s : State) : Res := operatorFires .min e s
/-- OP_MAX (R147). -/
def execOpMax (e : Site) (s : State) : Res := operatorFires .max e s
/-- OP_AND (R149). -/
def execOpAnd (e : Site) (s : State) : Res := operatorFires .and e s
/-- OP_OR (R149). -/
def execOpOr (e : Site) (s : State) : Res := operatorFires .or e s
/-- OP_XOR (R149). -/
def execOpXor (e : Site) (s : State) : Res := operatorFires .xor e s
/-- OP_ANDN (R149). -/
def execOpAndn (e : Site) (s : State) : Res := operatorFires .andn e s
/-- OP_NOT (R149). -/
def execOpNot (e : Site) (s : State) : Res := operatorFires .not e s
/-- OP_SHL (R149). -/
def execOpShl (e : Site) (s : State) : Res := operatorFires .shl e s
/-- OP_SHR (R149). -/
def execOpShr (e : Site) (s : State) : Res := operatorFires .shr e s
/-- OP_SAR (R149). -/
def execOpSar (e : Site) (s : State) : Res := operatorFires .sar e s
/-- OP_ROL (R149). -/
def execOpRol (e : Site) (s : State) : Res := operatorFires .rol e s
/-- OP_ROR (R149). -/
def execOpRor (e : Site) (s : State) : Res := operatorFires .ror e s
/-- OP_CLZ (R149). -/
def execOpClz (e : Site) (s : State) : Res := operatorFires .clz e s
/-- OP_POPC (R149). -/
def execOpPopc (e : Site) (s : State) : Res := operatorFires .popc e s
/-- OP_BEXT (R150). -/
def execOpBext (e : Site) (s : State) : Res := operatorFires .bext e s
/-- OP_BINS (R150). -/
def execOpBins (e : Site) (s : State) : Res := operatorFires .bins e s
/-- OP_BREV (R149). -/
def execOpBrev (e : Site) (s : State) : Res := operatorFires .brev e s
/-- OP_BSWAP (R149). -/
def execOpBswap (e : Site) (s : State) : Res := operatorFires .bswap e s
/-- OP_CEQ (R151). -/
def execOpCeq (e : Site) (s : State) : Res := operatorFires .ceq e s
/-- OP_CNE (R151). -/
def execOpCne (e : Site) (s : State) : Res := operatorFires .cne e s
/-- OP_CLT (R151). -/
def execOpClt (e : Site) (s : State) : Res := operatorFires .clt e s
/-- OP_CLE (R151). -/
def execOpCle (e : Site) (s : State) : Res := operatorFires .cle e s
/-- OP_CLTU (R151). -/
def execOpCltu (e : Site) (s : State) : Res := operatorFires .cltu e s
/-- OP_CLEU (R151). -/
def execOpCleu (e : Site) (s : State) : Res := operatorFires .cleu e s
/-- OP_FCEQ (R151). -/
def execOpFceq (e : Site) (s : State) : Res := operatorFires .fceq e s
/-- OP_FCLT (R151). -/
def execOpFclt (e : Site) (s : State) : Res := operatorFires .fclt e s
/-- OP_FCLE (R151). -/
def execOpFcle (e : Site) (s : State) : Res := operatorFires .fcle e s
/-- OP_FCUN (R151). -/
def execOpFcun (e : Site) (s : State) : Res := operatorFires .fcun e s
/-- OP_SEL (R151). -/
def execOpSel (e : Site) (s : State) : Res := operatorFires .sel e s
/-- OP_MOV (R151). -/
def execOpMov (e : Site) (s : State) : Res := operatorFires .mov e s
/-- OP_FADD (R152). -/
def execOpFadd (e : Site) (s : State) : Res := operatorFires .fadd e s
/-- OP_FSUB (R152). -/
def execOpFsub (e : Site) (s : State) : Res := operatorFires .fsub e s
/-- OP_FMUL (R152). -/
def execOpFmul (e : Site) (s : State) : Res := operatorFires .fmul e s
/-- OP_FMA (R153). -/
def execOpFma (e : Site) (s : State) : Res := operatorFires .fma e s
/-- OP_FMS (R153). -/
def execOpFms (e : Site) (s : State) : Res := operatorFires .fms e s
/-- OP_FNMA (R153). -/
def execOpFnma (e : Site) (s : State) : Res := operatorFires .fnma e s
/-- OP_FNMS (R153). -/
def execOpFnms (e : Site) (s : State) : Res := operatorFires .fnms e s
/-- OP_FMIN (R67). -/
def execOpFmin (e : Site) (s : State) : Res := operatorFires .fmin e s
/-- OP_FMAX (R67). -/
def execOpFmax (e : Site) (s : State) : Res := operatorFires .fmax e s
/-- OP_FABS (R152). -/
def execOpFabs (e : Site) (s : State) : Res := operatorFires .fabs e s
/-- OP_FNEG (R152). -/
def execOpFneg (e : Site) (s : State) : Res := operatorFires .fneg e s
/-- OP_FCPSGN (R152). -/
def execOpFcpsgn (e : Site) (s : State) : Res := operatorFires .fcpsgn e s
/-- OP_FRCPS (R155). -/
def execOpFrcps (e : Site) (s : State) : Res := operatorFires .frcps e s
/-- OP_FRCPI (R154). -/
def execOpFrcpi (e : Site) (s : State) : Res := operatorFires .frcpi e s
/-- OP_FRSQS (R155). -/
def execOpFrsqs (e : Site) (s : State) : Res := operatorFires .frsqs e s
/-- OP_FRSQI (R154). -/
def execOpFrsqi (e : Site) (s : State) : Res := operatorFires .frsqi e s
/-- OP_FEXPR (R156). -/
def execOpFexpr (e : Site) (s : State) : Res := operatorFires .fexpr e s
/-- OP_FEXPP (R156). -/
def execOpFexpp (e : Site) (s : State) : Res := operatorFires .fexpp e s
/-- OP_FLOGR (R156). -/
def execOpFlogr (e : Site) (s : State) : Res := operatorFires .flogr e s
/-- OP_FLOGP (R156). -/
def execOpFlogp (e : Site) (s : State) : Res := operatorFires .flogp e s
/-- OP_FSINR (R156). -/
def execOpFsinr (e : Site) (s : State) : Res := operatorFires .fsinr e s
/-- OP_FSINP (R156). -/
def execOpFsinp (e : Site) (s : State) : Res := operatorFires .fsinp e s
/-- OP_FCLASS (R157). -/
def execOpFclass (e : Site) (s : State) : Res := operatorFires .fclass e s
/-- OP_FROUND (R157). -/
def execOpFround (e : Site) (s : State) : Res := operatorFires .fround e s
/-- OP_FSCALE (R157). -/
def execOpFscale (e : Site) (s : State) : Res := operatorFires .fscale e s
/-- OP_FMANT (R157). -/
def execOpFmant (e : Site) (s : State) : Res := operatorFires .fmant e s
/-- OP_FEXPO (R157). -/
def execOpFexpo (e : Site) (s : State) : Res := operatorFires .fexpo e s
/-- OP_LGMUL (R158). -/
def execOpLgmul (e : Site) (s : State) : Res := operatorFires .lgmul e s
/-- OP_LGSUM (R158). -/
def execOpLgsum (e : Site) (s : State) : Res := operatorFires .lgsum e s
/-- OP_LGENC (R158). -/
def execOpLgenc (e : Site) (s : State) : Res := operatorFires .lgenc e s
/-- OP_BSAPPLY (R159). -/
def execOpBsapply (e : Site) (s : State) : Res := operatorFires .bsapply e s
/-- OP_BSFIND (R159). -/
def execOpBsfind (e : Site) (s : State) : Res := operatorFires .bsfind e s
/-- OP_BSHDR (R159). -/
def execOpBshdr (e : Site) (s : State) : Res := operatorFires .bshdr e s
/-- OP_BSSTRIP (R159). -/
def execOpBsstrip (e : Site) (s : State) : Res := operatorFires .bsstrip e s
/-- OP_AMAXR (R159). -/
def execOpAmaxr (e : Site) (s : State) : Res := operatorFires .amaxr e s
/-- OP_CVTFI (R160). -/
def execOpCvtfi (e : Site) (s : State) : Res := operatorFires .cvtfi e s
/-- OP_CVTIF (R160). -/
def execOpCvtif (e : Site) (s : State) : Res := operatorFires .cvtif e s
/-- OP_CVTFR (R160). -/
def execOpCvtfr (e : Site) (s : State) : Res := operatorFires .cvtfr e s
/-- OP_CVTSAT (R160). -/
def execOpCvtsat (e : Site) (s : State) : Res := operatorFires .cvtsat e s
/-- OP_LFLD (R161). -/
def execOpLfld (e : Site) (s : State) : Res := operatorFires .lfld e s
/-- OP_LFST (R161). -/
def execOpLfst (e : Site) (s : State) : Res := operatorFires .lfst e s
/-- OP_LFLDI (R161). -/
def execOpLfldi (e : Site) (s : State) : Res := operatorFires .lfldi e s
/-- OP_LFSTI (R161). -/
def execOpLfsti (e : Site) (s : State) : Res := operatorFires .lfsti e s
/-- OP_PERM (R164). -/
def execOpPerm (e : Site) (s : State) : Res := operatorFires .perm e s
/-- OP_PERMI (R164). -/
def execOpPermi (e : Site) (s : State) : Res := operatorFires .permi e s
/-- OP_BCAST (R164). -/
def execOpBcast (e : Site) (s : State) : Res := operatorFires .bcast e s
/-- OP_LSUM (R165). -/
def execOpLsum (e : Site) (s : State) : Res := operatorFires .lsum e s
/-- OP_STEER (R26). -/
def execOpSteer (e : Site) (s : State) : Res := routerFires .steer e s
/-- OP_MERGE_ORD (R27). -/
def execOpMergeOrd (e : Site) (s : State) : Res := routerFires .mergeOrd e s
/-- OP_MERGE_ARR (R28). -/
def execOpMergeArr (e : Site) (s : State) : Res := routerFires .mergeArr e s
/-- OP_CARRY (R167). -/
def execOpCarry (e : Site) (s : State) : Res := routerFires .carry e s
/-- OP_JOIN (R170). -/
def execOpJoin (e : Site) (s : State) : Res := operatorFires .join e s
/-- OP_GATE (R169). -/
def execOpGate (e : Site) (s : State) : Res := operatorFires .gate e s
/-- OP_SINK (R169). -/
def execOpSink (e : Site) (s : State) : Res := operatorFires .sink e s
/-- OP_CTOK (R169). -/
def execOpCtok (e : Site) (s : State) : Res := operatorFires .ctok e s
/-- OP_CONST (R169). -/
def execOpConst (e : Site) (s : State) : Res := operatorFires .const e s
/-- OP_IOTA (R169). -/
def execOpIota (e : Site) (s : State) : Res := operatorFires .iota e s
/-- OP_VLD (R174). -/
def execOpVld (e : Site) (s : State) : Res := memoryFires .vld e s
/-- OP_VST (R175). -/
def execOpVst (e : Site) (s : State) : Res := memoryFires .vst e s
/-- OP_MEMNOP (R176). -/
def execOpMemnop (e : Site) (s : State) : Res := memoryFires .memnop e s
/-- OP_LDFE (R177). -/
def execOpLdfe (e : Site) (s : State) : Res := memoryFires .ldfe e s
/-- OP_VLDX (R174). -/
def execOpVldx (e : Site) (s : State) : Res := memoryFires .vldx e s
/-- OP_VSTX (R175). -/
def execOpVstx (e : Site) (s : State) : Res := memoryFires .vstx e s
/-- OP_APST (R178). -/
def execOpApst (e : Site) (s : State) : Res := memoryFires .apst e s
/-- OP_FENCE (R179). -/
def execOpFence (e : Site) (s : State) : Res := memoryFires .fence e s
/-- OP_MONWAIT (R180). -/
def execOpMonwait (e : Site) (s : State) : Res := memoryFires .monwait e s
/-- OP_RED_FX (R181). -/
def execOpRedFx (e : Site) (s : State) : Res := memoryFires .redFx e s
/-- OP_AMO_ADD (R182). -/
def execOpAmoAdd (e : Site) (s : State) : Res := memoryFires .amoAdd e s
/-- OP_AMO_AND (R182). -/
def execOpAmoAnd (e : Site) (s : State) : Res := memoryFires .amoAnd e s
/-- OP_AMO_OR (R182). -/
def execOpAmoOr (e : Site) (s : State) : Res := memoryFires .amoOr e s
/-- OP_AMO_XOR (R182). -/
def execOpAmoXor (e : Site) (s : State) : Res := memoryFires .amoXor e s
/-- OP_AMO_MIN (R182). -/
def execOpAmoMin (e : Site) (s : State) : Res := memoryFires .amoMin e s
/-- OP_AMO_MAX (R182). -/
def execOpAmoMax (e : Site) (s : State) : Res := memoryFires .amoMax e s
/-- OP_AMO_MINU (R182). -/
def execOpAmoMinu (e : Site) (s : State) : Res := memoryFires .amoMinu e s
/-- OP_AMO_MAXU (R182). -/
def execOpAmoMaxu (e : Site) (s : State) : Res := memoryFires .amoMaxu e s
/-- OP_AMO_SWAP (R182). -/
def execOpAmoSwap (e : Site) (s : State) : Res := memoryFires .amoSwap e s
/-- OP_AMO_CAS (R182). -/
def execOpAmoCas (e : Site) (s : State) : Res := memoryFires .amoCas e s
/-- OP_AMO_FADD (R181). -/
def execOpAmoFadd (e : Site) (s : State) : Res := memoryFires .amoFadd e s
/-- OP_VOTE3 (R183). -/
def execOpVote3 (e : Site) (s : State) : Res := operatorFires .vote3 e s
/-- OP_CSUM_ROW (R185). -/
def execOpCsumRow (e : Site) (s : State) : Res := operatorFires .csumRow e s
/-- OP_CSUM_COL (R185). -/
def execOpCsumCol (e : Site) (s : State) : Res := operatorFires .csumCol e s
/-- OP_CSUM_CHK (R185). -/
def execOpCsumChk (e : Site) (s : State) : Res := operatorFires .csumChk e s
/-- OP_EMIT (R186). -/
def execOpEmit (e : Site) (s : State) : Res := fired (fireEmit e s) e s
/-- OP_TBREAD (R169). -/
def execOpTbread (e : Site) (s : State) : Res := operatorFires .tbread e s
/-- OP_CHKR (R169). -/
def execOpChkr (e : Site) (s : State) : Res := operatorFires .chkr e s

/-- EMIT_ACK (R186, R187). -/
def execEmitAck (e : Site) (s : State) : Res := fired (takeAck e s) e s

end Sys2Proof.Machine
end

