-- ==== Sys2Proof/Machine/Resets.lean ====
section
/-! DEFINITION. The resets (R283) and ATS invalidation (R340). -/

namespace Sys2Proof.Machine

/-- PERST, and a PF function-level reset: a device reset, then bring-up (R283, R284). -/
def perst (s : State) : State := bringUp (deviceReset s)

/-- STANDBY_POWER_UP: all state, `tb` included (R283). -/
def standbyUp (s : State) : State := bringUp { deviceReset s with tb := 0 }

/-! ## VF function-level reset -/

/-- The jobs of a function that have not completed. -/
def jobsOf (s : State) (f : PcieFn) : List Nat := (s.jobs.filter fun j => j.2.fn = f && !j.2.level.complete).map fun j => j.1

/-- The valid leaves below a table, with the levels of Table 14.8 left to walk. -/
def leavesBelow (m : KMap Byte) : List (Nat × Nat × Nat) → Nat → List Leaf
  | [], _ => []
  | (_, n, size) :: rest, table => (List.range n).flatMap fun i =>
    let e := readEntry m (table + 8 * i)
    if !e.getLsbD 0 then []
    else if rest.isEmpty || (e.getLsbD 1 && size ≠ 0) then (leafOf e size).toList
    else if e.getLsbD 1 then []
    else leavesBelow m rest ((e.extractLsb' 12 45).toNat * 4096)

/-- The device memory of a leaf: (first address, bytes), a replicated page once for each die. -/
def Leaf.ranges (l : Leaf) : List (Nat × Nat) :=
  if l.kind = 0 then [(l.pa, l.size)] else if l.kind = 4 then (diesOf l.repset).map fun d => (replicaAddr l.pa d, l.size) else []

/-- Does an address lie in a caddy and in one of some ranges? -/
def inCaddies (rs : List (Nat × Nat)) (a : Nat) : Bool :=
  (match regionOf a with | .caddy _ => true | _ => false) && rs.any fun r => r.1 ≤ a && a < r.1 + r.2

/-- Zero the caddy granules that the page tables at some roots map, and empty them. -/
def zeroCaddies (s : State) (roots : List Nat) : State :=
  let rs := roots.flatMap fun root => (leavesBelow s.mem levels root).flatMap Leaf.ranges
  { s with mem := s.mem.filter fun b => !inCaddies rs b.1, full := s.full.filter fun g => !inCaddies rs (16 * g.1) }

/-- Take every grant of some ASIDs: the slots and the storm-jib rectangles are free, and channels, chains, templates and journal streams are held by
none. Their lane-file windows and templates are zeroed. -/
def takeGrants (s : State) (mine : BitVec 12 → Bool) : State :=
  let held (h : Option (BitVec 12)) : Bool := match h with | some a => mine a | none => false
  let keys := (s.slots.filter fun x => x.2.held && mine x.2.asid).map fun x => x.1
  let words := s.images.flatMap fun i => if (imageTps i.2).any keys.contains then windowWords i.2 else []
  let slot (x : Nat × Slot) : Nat × Slot := if keys.contains x.1 then (x.1, { x.2 with held := false, asid := 0, job := 0 }) else x
  let chan (x : Nat × Chan) : Nat × Chan := if held x.2.holder then (x.1, { Chan.initial with copies := x.2.copies }) else x
  let chain (x : Nat × Chain) : Nat × Chain := if held x.2.holder then (x.1, { x.2 with holder := none, mxes := 0 }) else x
  { s with
    slots := s.slots.map slot, jibs := s.jibs.filter fun r => !mine r.asid, lanes := words.foldl (fun m k => kdel m k) s.lanes,
    chans := s.chans.map chan, chains := s.chains.map chain, tmpls := s.tmpls.filter fun t => !held t.2.holder,
    journals := s.journals.filter fun j => !held j.2.holder }

/-- Has a job completed, or gone? -/
def jobOver (s : State) (job : Nat) : Bool := !jobOpen s job

/-- A reset goes on once every job that it has killed has completed: what those write at their end comes first. Then the grants are revoked, and what they
named is zeroed (R283, R101). -/
def settleFlr (s : State) (v : Nat) (r : Flr) : State :=
  if r.jobs.all (jobOver s) then zeroCaddies (takeGrants { s with flrs := kdel s.flrs v } r.asids.contains) r.roots else s

/-- Every reset that waits goes on where it can. -/
def settleFlrs (s : State) : State := s.flrs.foldl (fun s r => settleFlr s r.1 r.2) s

/-- VF_FLR: the VF's jobs are killed, its queues destroyed and its grants revoked (R283). Until the last of its jobs has completed its mailbox takes no
request (log entry 63), and a request that it had accepted is answered no more. -/
def vfFlr (s : State) (v : Nat) : State :=
  if 64 ≤ v || s.fwState ≠ .running || (kget s.flrs v).isSome then s
  else
    let f : PcieFn := .vf v
    let mine := s.jobs.filter fun j => j.2.fn = f && fnOfAsid s j.2.asid = some f
    let r : Flr := { jobs := jobsOf s f, roots := mine.map fun j => j.2.root, asids := (mine.map fun j => j.2.asid).eraseDups }
    let s1 := { s with
      mboxes := kdel s.mboxes (mboxKey f), flrs := kput s.flrs v r,
      jobs := s.jobs.map fun j => (j.1, { j.2 with phasebnd := j.2.phasebnd.filter fun b => b.2 ≠ f }) }
    let s2 := r.jobs.foldl (fun s j => killJob s j none) s1
    settleFlr ((s2.queues.filter fun q => q.2.fn = f).foldl (fun s q => removeQueue s q.1) s2) v r

/-! ## ATS (R340) -/

/-- Has an instance of an ASID a store that has been translated at an address of a range and is not performed? -/
def drainsRange (s : State) (asid : BitVec 12) (va len : Nat) : Bool :=
  let waits (u : UnitId) (it : Inst) : Bool := ((kget s.units u).map fun w => w.asid) = some asid && it.deferred.any fun d => match d with
    | .store a _ _ _ => va ≤ a && a < va + len
    | .copy a _ _ _ _ _ => va ≤ a && a < va + len
  !((s.insts.any fun x => waits x.2.unit x.2) ||
    s.saves.any fun v => v.2.insts.any fun x => waits v.1 x.2)

/-- ATS_INVALIDATION: completed once no access translated before is left to perform. -/
def atsInvalidate (s : State) (asid : BitVec 12) (va len : Nat) : State :=
  if drainsRange s asid va len then { s with ats := (asid, va, len) :: s.ats } else s

end Sys2Proof.Machine
end

