-- ==== Sys2Proof/Machine/ScalarMem.lean ====
section
/-! DEFINITION. The scalar loads and stores (R241, R242), with the queue pages that a storm-jib unit reaches (R336, R344). -/

namespace Sys2Proof.Machine

/-- The address of a load or store (R241). -/
def memAddr (w : WorkUnit) (rs1 : Reg) (imm : BitVec 15) : Nat := ((w.reg rs1 + imm.signExtend 64).setWidth 57).toNat

/-- The function of a unit's ASID: that of its job. -/
def unitFn (s : State) (w : WorkUnit) : Option PcieFn := (kget s.jobs w.job).map fun j => j.fn

/-- The queue and register that an access of a queue page reaches, where R336 lets it. -/
def queueReach (s : State) (w : WorkUnit) (die group off : Nat) : Option (Nat × Nat) :=
  let q := 1024 * die + 16 * group + off / 4096
  if w.tp.plane = 4 && (s.jibs.any fun r => r.job = w.job && r.asid = w.asid && r.die = die) &&
      (kget s.queues q).isSome && ((kget s.queues q).map fun x => x.fn) = unitFn s w then some (q, off % 4096)
  else none

/-- The value of `n` bytes, sign-extended or zero-extended (R241). -/
def loadValue (n : Nat) (signed : Bool) (bs : List Byte) : Word :=
  let v : BitVec (8 * n) := BitVec.ofNat (8 * n) (leNat bs)
  if signed then v.signExtend 64 else v.setWidth 64

/-- A load of `n` bytes (R241, R242). -/
def loadScalar (n : Nat) (signed : Bool) (rd rs1 : Reg) (imm : BitVec 15) (i : Instr) (s : State) : Res :=
  onUnit s fun u w =>
    let va := memAddr w rs1 imm
    let v := BitVec.ofNat 64 va
    if va % n ≠ 0 then trapHere s u w cMemAlign v i
    else
      match translate s w.asid va .read with
      | .ok (.queue d g off) =>
        if n ≠ 8 then trapHere s u w cMemAlign v i
        else
          match queueReach s w d g off with
          | some (q, r) => retire s u w rd (readQueueReg s q r)
          | none => trapHere s u w cMemAttr v i
      | _ => (seqRead s w va n .read).andThen s u w .read va i fun bs => retire s u { w with winWait := [] } rd (loadValue n signed bs)

/-- A store of `n` bytes (R241, R242): performed at once, unless something holds it back (R309, R340, R353). -/
def storeScalar (n : Nat) (rs2 rs1 : Reg) (imm : BitVec 15) (i : Instr) (s : State) : Res :=
  onUnit s fun u w =>
    let va := memAddr w rs1 imm
    let v := BitVec.ofNat 64 va
    if va % n ≠ 0 then trapHere s u w cMemAlign v i
    else
      match translate s w.asid va .write with
      | .bad c => done (seqFault s u w .write c va (wordOfInstr i))
      | .ok (.aperture _ _) => trapHere s u w cMemAttr v i
      | .ok (.queue d g off) =>
        if n ≠ 8 then trapHere s u w cMemAlign v i
        else
          match queueReach s w d g off, unitFn s w with
          | some (q, r), some f => done (writeQueueReg (putUnit s u w.advance) f q r (w.reg rs2))
          | _, _ => trapHere s u w cMemAttr v i
      | .ok p =>
        if touchesLost s p n then done (doomJob s w.job cMemUce)
        else if writeHeld s none p n then .next s
        else .next (markExternal (writePhys (putUnit s u w.advance) p (leBytes n (w.reg rs2).toNat)) w.job p)

def execLd (rd rs1 : Reg) (imm : BitVec 15) (s : State) : Res := loadScalar 8 false rd rs1 imm (.ld rd rs1 imm) s
def execLw (rd rs1 : Reg) (imm : BitVec 15) (s : State) : Res := loadScalar 4 true rd rs1 imm (.lw rd rs1 imm) s
def execLwu (rd rs1 : Reg) (imm : BitVec 15) (s : State) : Res := loadScalar 4 false rd rs1 imm (.lwu rd rs1 imm) s
def execLh (rd rs1 : Reg) (imm : BitVec 15) (s : State) : Res := loadScalar 2 true rd rs1 imm (.lh rd rs1 imm) s
def execLhu (rd rs1 : Reg) (imm : BitVec 15) (s : State) : Res := loadScalar 2 false rd rs1 imm (.lhu rd rs1 imm) s
def execLb (rd rs1 : Reg) (imm : BitVec 15) (s : State) : Res := loadScalar 1 true rd rs1 imm (.lb rd rs1 imm) s
def execLbu (rd rs1 : Reg) (imm : BitVec 15) (s : State) : Res := loadScalar 1 false rd rs1 imm (.lbu rd rs1 imm) s

def execSd (rs2 rs1 : Reg) (imm : BitVec 15) (s : State) : Res := storeScalar 8 rs2 rs1 imm (.sd rs2 rs1 imm) s
def execSw (rs2 rs1 : Reg) (imm : BitVec 15) (s : State) : Res := storeScalar 4 rs2 rs1 imm (.sw rs2 rs1 imm) s
def execSh (rs2 rs1 : Reg) (imm : BitVec 15) (s : State) : Res := storeScalar 2 rs2 rs1 imm (.sh rs2 rs1 imm) s
def execSb (rs2 rs1 : Reg) (imm : BitVec 15) (s : State) : Res := storeScalar 1 rs2 rs1 imm (.sb rs2 rs1 imm) s

end Sys2Proof.Machine
end

