-- ==== Sys2Proof/Machine/Spdm.lean ====
section
/-! DEFINITION. The SPDM responder of the PF's DOE mailbox (R278, R285, R286). What its messages carry is abstract: byte strings come from
`Config`, and the private half of the identity key appears nowhere. -/

namespace Sys2Proof.Machine

/-- The responder answers. -/
def reply (s : State) (r : SpdmResp) (st : SpdmSt) : State := { s with doe := some r, spdm := st }

/-- An answer that the firmware gives, once it runs and the negotiation has come far enough. -/
def spdmAnswer (s : State) (ready : Bool) (r : SpdmResp) (st : SpdmSt) : State :=
  if s.fwState ≠ .running then s else if ready then reply s r st else reply s .unexpectedRequest s.spdm

/-- GET_VERSION: 1.2 and 1.3; the negotiation begins again. -/
def getVersion (s : State) : State := spdmAnswer s true (.version [(1, 2), (1, 3)]) .versioned

/-- GET_CAPABILITIES. -/
def getCapabilities (s : State) : State := spdmAnswer s (s.spdm = .versioned) .capabilities .capable

/-- NEGOTIATE_ALGORITHMS: an offer of neither SM2 nor SM3 is refused (R286). -/
def negotiate (s : State) (sm2 sm3 : Bool) : State :=
  if s.spdm = .capable && !sm2 && !sm3 then spdmAnswer s true .unsupportedRequest s.spdm else spdmAnswer s (s.spdm = .capable) .algorithms .negotiated

/-- GET_DIGESTS: slot 0 alone holds a chain. -/
def getDigests (s : State) : State := spdmAnswer s (s.spdm = .negotiated) (.digests [Config.digest (Config.certificate 0)]) s.spdm

/-- GET_CERTIFICATE: a portion of the chain of slot 0. -/
def getCertificate (s : State) (slot off len : Nat) : State :=
  let c := Config.certificate 0
  if s.spdm = .negotiated && slot ≠ 0 then spdmAnswer s true .invalidRequest s.spdm
  else spdmAnswer s (s.spdm = .negotiated) (.certificate slot ((c.drop off).take len) (c.length - (off + len))) s.spdm

/-- CHALLENGE: the responder signs the nonces with the identity key; its own nonce is free. -/
def challenge (s : State) (slot : Nat) (nonce : List Byte) : State :=
  if s.spdm = .negotiated && slot ≠ 0 then spdmAnswer s true .invalidRequest s.spdm
  else
    let a := drawNat s
    let own := leBytes 32 a.2
    spdmAnswer a.1 (s.spdm = .negotiated) (.challengeAuth slot own (Config.signature (nonce ++ own))) s.spdm

/-- A measurement block (R286): 1 the boot ROM, 2 the firmware, 3 the blob, 4 DEVID as raw bytes. -/
def measurementBlock (s : State) (i : Nat) : List Byte :=
  if i = 4 then wordBytes (devidWord s) else Config.measurement i s.fwver s.blob.version

/-- GET_MEASUREMENTS: index 0 asks for their number, 255 for all. -/
def getMeasurements (s : State) (index : Nat) : State :=
  let block (i : Nat) : Nat × List Byte := (i, measurementBlock s i)
  let r : SpdmResp :=
    if index = 0 then .measurements 4 []
    else if index = 255 then .measurements 4 ([1, 2, 3, 4].map block)
    else if index ≤ 4 then .measurements 4 [block index]
    else .invalidRequest
  spdmAnswer s (s.spdm = .negotiated) r s.spdm

/-- DOE_DISCOVERY: the protocols of the DOE mailbox: discovery itself, and SPDM (R278). -/
def doeDiscovery (s : State) (index : Nat) : State :=
  let r : SpdmResp := match index with
    | 0 => .discovery 1 0 1
    | 1 => .discovery 1 1 0
    | _ => .discovery 0xFFFF 0xFF 0
  { s with doe := some r }

end Sys2Proof.Machine
end

