-- ==== Sys2Proof/Machine/HostOps.lean ====
section
/-! DEFINITION. What the host and its peers do to the device (13_host_queues_and_launch.md): accesses through the BARs, resets, mailbox requests, SPDM,
queues, and the binding, pre-emption and end of units. -/

namespace Sys2Proof.Machine

/-! ## BARs and resets -/

/-- HOST_BAR2_WRITE (R280). -/
def execHostBar2Write (off : Nat) (bytes : List Byte) (s : State) : Res := done (bar2Write s off bytes)
/-- HOST_BAR2_READ (R74). -/
def execHostBar2Read (off len : Nat) (s : State) : Res := done (bar2Read s off len)
/-- PEER_BAR2_WRITE (R346): a peer's write. It is performed when it is received, relaxed ordering or not. -/
def execPeerBar2Write (off : Nat) (bytes : List Byte) (_relaxed : Bool) (s : State) : Res := done (bar2Write s off bytes)
/-- HOST_ATOMICOP (R278). -/
def execHostAtomicop (off size : Nat) (op : PcieAtomic) (opnd cmp : Nat) (s : State) : Res := done (hostAtomicOp s off size op opnd cmp)
/-- REGISTER_WRITE (R6). -/
def execRegisterWrite (f : PcieFn) (off : Nat) (val : Word) (s : State) : Res := done (registerWrite s f off val)
/-- DRST (R283). -/
def execDrst (val : Word) (s : State) : Res := done (drstWrite s val)
/-- PERST (R283). -/
def execPerst (s : State) : Res := done (perst s)
/-- PF_FLR (R283). -/
def execPfFlr (s : State) : Res := done (perst s)
/-- VF_FLR (R283). -/
def execVfFlr (vf : Nat) (s : State) : Res := done (vfFlr s vf)
/-- STANDBY_POWER_UP (R283). -/
def execStandbyPowerUp (s : State) : Res := done (standbyUp s)

/-! ## The mailbox (R288, R289) -/

/-- MBDB (R288). -/
def execMbdb (f : PcieFn) (s : State) : Res := done (submit s f)
/-- QCREATE (R289). -/
def execQcreate (f : PcieFn) (s : State) : Res := done (qcreate s f)
/-- QDESTROY (R289). -/
def execQdestroy (f : PcieFn) (s : State) : Res := done (qdestroy s f)
/-- JOBOPEN (R315). -/
def execJobopen (f : PcieFn) (s : State) : Res := done (jobopen s f)
/-- JOBCLOSE (R289). -/
def execJobclose (f : PcieFn) (s : State) : Res := done (jobclose s f)
/-- PHASEBND (R349). -/
def execPhasebnd (f : PcieFn) (s : State) : Res := done (phasebnd s f)
/-- GRANT (R289). -/
def execGrant (f : PcieFn) (s : State) : Res := done (grant s f)
/-- REVOKE (R289). -/
def execRevoke (f : PcieFn) (s : State) : Res := done (revoke s f)
/-- CTMODE (R309). -/
def execCtmode (f : PcieFn) (s : State) : Res := done (ctmode s f)
/-- CTMODE_COMPLETE (R309). -/
def execCtmodeComplete (stack : Nat) (s : State) : Res := done (ctmodeComplete s stack)
/-- SHARE (R289). -/
def execShare (f : PcieFn) (s : State) : Res := done (share s f)
/-- RESYNC (R367). -/
def execResync (f : PcieFn) (s : State) : Res := done (resync s f)
/-- FWUPD_FIRMWARE (R370). -/
def execFwupdFirmware (f : PcieFn) (s : State) : Res := done (fwupdFirmware s f)
/-- FWUPD_FABRIC_OUT (R369). -/
def execFwupdFabricOut (f : PcieFn) (s : State) : Res := done (fabricOut s f)
/-- FWUPD_FABRIC_IN (R369). -/
def execFwupdFabricIn (f : PcieFn) (s : State) : Res := done (fabricIn s f)
/-- FWUPD_SAIL_OUT (R368). -/
def execFwupdSailOut (f : PcieFn) (s : State) : Res := done (sailOut s f)
/-- FWUPD_SAIL_IN (R368). -/
def execFwupdSailIn (f : PcieFn) (s : State) : Res := done (sailIn s f)
/-- FWUPD_LINK_OUT (R368). -/
def execFwupdLinkOut (f : PcieFn) (s : State) : Res := done (linkOut s f)
/-- FWUPD_LINK_IN (R379). -/
def execFwupdLinkIn (f : PcieFn) (s : State) : Res := done (linkIn s f)
/-- FWUPD_POWER_CLASS (R371). -/
def execFwupdPowerClass (f : PcieFn) (s : State) : Res := done (powerClass s f)

/-! ## SPDM (R286) -/

/-- GET_VERSION (R286). -/
def execGetVersion (s : State) : Res := done (getVersion s)
/-- GET_CAPABILITIES (R286). -/
def execGetCapabilities (s : State) : Res := done (getCapabilities s)
/-- NEGOTIATE_ALGORITHMS (R286). -/
def execNegotiateAlgorithms (sm2 sm3 : Bool) (s : State) : Res := done (negotiate s sm2 sm3)
/-- GET_DIGESTS (R286). -/
def execGetDigests (s : State) : Res := done (getDigests s)
/-- GET_CERTIFICATE (R286). -/
def execGetCertificate (slot off len : Nat) (s : State) : Res := done (getCertificate s slot off len)
/-- CHALLENGE (R286). -/
def execChallenge (slot : Nat) (nonce : List Byte) (s : State) : Res := done (challenge s slot nonce)
/-- GET_MEASUREMENTS (R286). -/
def execGetMeasurements (index : Nat) (s : State) : Res := done (getMeasurements s index)
/-- DOE_DISCOVERY (R278). -/
def execDoeDiscovery (index : Nat) (s : State) : Res := done (doeDiscovery s index)

/-! ## Queues and watchdogs (R290–R293, R306, R308, R333–R335) -/

/-- ATS_INVALIDATION (R340). -/
def execAtsInvalidation (asid : BitVec 12) (va len : Nat) (s : State) : Res := done (atsInvalidate s asid va len)
/-- NOTIFY (R290). -/
def execNotify (k : QueueId) (val : Word) (s : State) : Res := done (queueWrite s k 0x000 val)
/-- PACKET_ACCEPT (R293). -/
def execPacketAccept (k : QueueId) (s : State) : Res := done (packetAccept s k)
/-- CANCEL (R308). -/
def execCancel (k : QueueId) (handle : Word) (s : State) : Res := done (queueWrite s k 0x018 handle)
/-- LQRY (R306). -/
def execLqry (k : QueueId) (handle : Word) (s : State) : Res := done (queueWrite s k 0x020 handle)
/-- WDCFG_WRITE (R334). -/
def execWdcfgWrite (k : QueueId) (val : Word) (s : State) : Res := done (queueWrite s k 0x040 val)
/-- WDCTL_KICK (R334). -/
def execWdctlKick (k : QueueId) (s : State) : Res := done (queueWrite s k 0x060 0x01)
/-- WDCTL_PARTITION_RESET (R335). -/
def execWdctlPartitionReset (k : QueueId) (s : State) : Res := done (queueWrite s k 0x060 0x5A)
/-- Is the next instruction of a sequencer a store that kicks the watchdog of a queue, through a page of kind 3 (R336)? -/
def seqKicks (s : State) (u : UnitId) (q : Nat) : Bool :=
  match kget s.units u with
  | none => false
  | some w => w.running && match fetch s u w with
    | .got w1 (.sd rs2 rs1 imm) => memAddr w1 rs1 imm % 8 = 0 && match translate s w.asid (memAddr w1 rs1 imm) .write with
      | .ok (.queue d g off) => queueReach s w1 d g off = some (q, 0x060) && wf (w1.reg rs2) 7 0 = 0x01
      | _ => false
    | _ => false

/-- Is a kick of a queue due at this moment: does one stand among the turns before time passes again, or is it what a sequencer does next? -/
def kickDue (s : State) (k : QueueId) : Bool :=
  let now := s.turns.takeWhile fun t => match t with
    | .tick _ => false
    | _ => true
  (now.any fun t => match t with
    | .ev (.wdctlKick k') => k' = k
    | .ev (.registerWrite f off val) => barReg s f off = some (.queue (queueKey k) 0x060) && wf val 7 0 = 0x01
    | .seq u => seqKicks s u (queueKey k)
    | _ => false) || (now.length = s.turns.length && (s.cur.map fun u => seqKicks s u (queueKey k)).getD false)

/-- WATCHDOG_EXPIRY (R334). A kick at the same moment counts first (R342). -/
def execWatchdogExpiry (k : QueueId) (s : State) : Res := done (if kickDue s k then s else watchdogExpiry s (queueKey k))
/-- PARTITION_RESET_DONE (R335). -/
def execPartitionResetDone (k : QueueId) (s : State) : Res := done (resetDone s (queueKey k))

/-! ## Units (R39, R302, R310–R314) -/

/-- BIND_RECORD (R302). -/
def execBindRecord (die : Nat) (rec : Word) (s : State) : Res := done (bindRecord s die rec)
/-- UNIT_COMPLETE (R39). -/
def execUnitComplete (u : UnitId) (s : State) : Res := done (unitComplete s u)
/-- PREEMPT_REQUEST (R310). -/
def execPreemptRequest (u : UnitId) (deadline : Nat) (s : State) : Res := done (preemptRequest s u deadline)
/-- PREEMPT_DEADLINE (R310). -/
def execPreemptDeadline (u : UnitId) (s : State) : Res := done (preemptDeadline s u)
/-- UNIT_SAVE_COMPLETE (R312). -/
def execUnitSaveComplete (u : UnitId) (s : State) : Res := done (startWanted (saveComplete s u))
/-- UNIT_RESTORE (R314). -/
def execUnitRestore (u : UnitId) (tp : Tp) (s : State) : Res := done (unitRestore s u tp)

end Sys2Proof.Machine
end

