-- ==== Sys2Proof/Machine/ScalarAlu.lean ====
section
/-! DEFINITION. The scalar instructions that write one register or predicate: arithmetic (R237, R238), predicates (R239), and the plane
seed registers (R243). -/

namespace Sys2Proof.Machine

/-- An arithmetic instruction of two registers (R237). -/
def aluR (f : Word → Word → Word) (rd rs1 rs2 : Reg) (s : State) : Res :=
  onUnit s fun u w => retire s u w rd (f (w.reg rs1) (w.reg rs2))

/-- An arithmetic instruction of a register and a constant (R238). -/
def aluI (f : Word → Word) (rd rs1 : Reg) (s : State) : Res := onUnit s fun u w => retire s u w rd (f (w.reg rs1))

/-- Bits [127:64] of the signed product (Table 9.3). -/
def mulHigh (a b : Word) : Word := (a.signExtend 128 * b.signExtend 128).extractLsb' 64 64

/-- The signed quotient rounded toward zero; −1 for a divisor of 0 (R237). -/
def divSigned (a b : Word) : Word := if b = 0 then -1 else a.sdiv b

/-- a − b·div(a, b); a for a divisor of 0 (R237). -/
def remSigned (a b : Word) : Word := if b = 0 then a else a.srem b

/-- 1 or 0. -/
def bit64 (b : Bool) : Word := if b then 1 else 0

def execAdd (rd rs1 rs2 : Reg) (s : State) : Res := aluR (fun a b => a + b) rd rs1 rs2 s
def execSub (rd rs1 rs2 : Reg) (s : State) : Res := aluR (fun a b => a - b) rd rs1 rs2 s
def execAnd (rd rs1 rs2 : Reg) (s : State) : Res := aluR (fun a b => a &&& b) rd rs1 rs2 s
def execOr (rd rs1 rs2 : Reg) (s : State) : Res := aluR (fun a b => a ||| b) rd rs1 rs2 s
def execXor (rd rs1 rs2 : Reg) (s : State) : Res := aluR (fun a b => a ^^^ b) rd rs1 rs2 s
/-- Bits b[63:6] of a shift amount are ignored (R237). -/
def execSll (rd rs1 rs2 : Reg) (s : State) : Res := aluR (fun a b => a <<< (b.setWidth 6).toNat) rd rs1 rs2 s
def execSrl (rd rs1 rs2 : Reg) (s : State) : Res := aluR (fun a b => a >>> (b.setWidth 6).toNat) rd rs1 rs2 s
def execSra (rd rs1 rs2 : Reg) (s : State) : Res := aluR (fun a b => a.sshiftRight (b.setWidth 6).toNat) rd rs1 rs2 s
def execMul (rd rs1 rs2 : Reg) (s : State) : Res := aluR (fun a b => a * b) rd rs1 rs2 s
def execMulh (rd rs1 rs2 : Reg) (s : State) : Res := aluR mulHigh rd rs1 rs2 s
def execDiv (rd rs1 rs2 : Reg) (s : State) : Res := aluR divSigned rd rs1 rs2 s
def execRem (rd rs1 rs2 : Reg) (s : State) : Res := aluR remSigned rd rs1 rs2 s
def execSlt (rd rs1 rs2 : Reg) (s : State) : Res := aluR (fun a b => bit64 (a.slt b)) rd rs1 rs2 s
def execSltu (rd rs1 rs2 : Reg) (s : State) : Res := aluR (fun a b => bit64 (a.ult b)) rd rs1 rs2 s
def execMin (rd rs1 rs2 : Reg) (s : State) : Res := aluR (fun a b => if a.slt b then a else b) rd rs1 rs2 s
def execMax (rd rs1 rs2 : Reg) (s : State) : Res := aluR (fun a b => if a.slt b then b else a) rd rs1 rs2 s

def execAddi (rd rs1 : Reg) (imm : BitVec 15) (s : State) : Res := aluI (fun a => a + imm.signExtend 64) rd rs1 s
def execAndi (rd rs1 : Reg) (imm : BitVec 15) (s : State) : Res := aluI (fun a => a &&& imm.signExtend 64) rd rs1 s
def execOri (rd rs1 : Reg) (imm : BitVec 15) (s : State) : Res := aluI (fun a => a ||| imm.signExtend 64) rd rs1 s
def execXori (rd rs1 : Reg) (imm : BitVec 15) (s : State) : Res := aluI (fun a => a ^^^ imm.signExtend 64) rd rs1 s
def execSlli (rd rs1 : Reg) (sh : BitVec 6) (s : State) : Res := aluI (fun a => a <<< sh.toNat) rd rs1 s
def execSrli (rd rs1 : Reg) (sh : BitVec 6) (s : State) : Res := aluI (fun a => a >>> sh.toNat) rd rs1 s
def execSrai (rd rs1 : Reg) (sh : BitVec 6) (s : State) : Res := aluI (fun a => a.sshiftRight sh.toNat) rd rs1 s
/-- s[rd] := sext(imm20 · 2^15). -/
def execLui (rd : Reg) (imm : BitVec 20) (s : State) : Res := onUnit s fun u w => retire s u w rd (imm.signExtend 64 <<< 15)

/-- The relation of a cond code (R239). -/
def Cond.holds (c : Cond) (a b : Word) : Bool :=
  match c with
  | .eq => a == b
  | .ne => a != b
  | .lt => a.slt b
  | .ge => !a.slt b
  | .ltu => a.ult b
  | .geu => !a.ult b

/-- The function of an fn code (R239). -/
def LogFn.apply (f : LogFn) (a b : Bool) : Bool :=
  match f with
  | .and => a && b
  | .or => a || b
  | .xor => a ^^ b
  | .andn => a && !b
  | .not => !a

def execPset (pd : Pred) (cond : Cond) (rs1 rs2 : Reg) (s : State) : Res :=
  onUnit s fun u w => .next (putUnit s u (w.setPred pd (Cond.holds cond (w.reg rs1) (w.reg rs2))).advance)

def execPlog (pd : Pred) (fn : LogFn) (pa pb : Pred) (s : State) : Res :=
  onUnit s fun u w => .next (putUnit s u (w.setPred pd (LogFn.apply fn (w.pred pa) (w.pred pb))).advance)

/-- gN := s[rs] (R243): a firing that comes later in the order of turns uses the new value (R244). -/
def execGset (rs : Reg) (g : SeedReg) (s : State) : Res := onUnit s fun u w => .next (putUnit s u (w.setSeed g (w.reg rs)).advance)

/-- s[rs] := gN (R243). -/
def execGget (rs : Reg) (g : SeedReg) (s : State) : Res := onUnit s fun u w => retire s u w rs (w.seed g)

end Sys2Proof.Machine
end

