-- ==== Sys2Proof/Machine/ScalarControl.lean ====
section
/-! DEFINITION. The scalar instructions that transfer control or end: branches (R240, R122), `trap` (R253), `eret` (R254), `fence` (R252), `end`
(R255), and an illegal instruction (R120, R256). -/

namespace Sys2Proof.Machine

/-- The link of a jump: the start of the next fetch block (R121). -/
def linkAddr (pc : BitVec 57) : Word := BitVec.ofNat 64 ((blockOf pc + 64) % 2 ^ 57)

/-- Jump to a target, which must be the start of a fetch block, writing a link where there is one (R122, R240). -/
def jumpTo (s : State) (u : UnitId) (w : WorkUnit) (target : BitVec 57) (link : Option Reg) (i : Instr) : Res :=
  if target.toNat % 64 ≠ 0 then trapHere s u w cFetchAlign (target.setWidth 64) i
  else
    let w1 := match link with
      | some rd => w.setReg rd (linkAddr w.pc)
      | none => w
    .next (putUnit s u (w1.goto target))

/-- A target relative to the branch, in instructions (R121). -/
def relTarget (pc : BitVec 57) (off : BitVec 57) : BitVec 57 := pc + (off <<< 2)

def execBr (p : Pred) (neg : Bool) (off : BitVec 21) (s : State) : Res :=
  onUnit s fun u w =>
    if w.pred p ^^ neg then jumpTo s u w (relTarget w.pc (off.signExtend 57)) none (.br p neg off) else .next (putUnit s u w.advance)

def execJal (rd : Reg) (off : BitVec 20) (s : State) : Res :=
  onUnit s fun u w => jumpTo s u w (relTarget w.pc (off.signExtend 57)) (some rd) (.jal rd off)

def execJalr (rd rs1 : Reg) (imm : BitVec 15) (s : State) : Res :=
  onUnit s fun u w => jumpTo s u w ((w.reg rs1 + imm.signExtend 64).setWidth 57) (some rd) (.jalr rd rs1 imm)

/-- `trap` (R253): the resume address is that of the next instruction (R256). -/
def execTrap (rs1 : Reg) (code : BitVec 10) (s : State) : Res :=
  onUnit s fun u w => done (trapSeq s u w (w.pc + 4) cSwTrap (w.reg rs1) (wordOfInstr (.trap rs1 code)) (code.setWidth 64))

/-- `eret` (R254). -/
def execEret (s : State) : Res :=
  onUnit s fun u w =>
    if w.hmode then .next (putUnit s u w.leave) else trapHere s u w cPrivInstr ((wordOfInstr .eret).setWidth 64) .eret

/-- `fence` (R252): with one order of all accesses, in which every read returns the latest write (R79, R80, R82–R84; log entry 12), it only goes on; a scope code of 5 to 7 sets `warn.SCOPE` (R124). -/
def execFence (scope : BitVec 3) (s : State) : Res :=
  onUnit s fun u w => .next (putUnit (if 5 ≤ scope.toNat then setWarn s w.tp.key 2 0x58 3 else s) u w.advance)

/-- `end` (R255): in handler mode the unit ends faulted, with the cause of the trap that it handles (DEDUCED, log entry 174). -/
def execEndUnit (s : State) : Res :=
  onUnit s fun u w =>
    let w1 := { w.advance with seq := .ended }
    .next (if w.hmode then markFaulted s u w1 w.hcause else putUnit s u w1)

/-- An instruction word that is not assigned, or whose fields marked zero are not zero, raises `ill.instr` (R119, R120, R251). -/
def execIllegalInstruction (x : BitVec 32) (s : State) : Res :=
  onUnit s fun u w => done (trapSeq s u w w.pc cIllInstr (x.setWidth 64) x 0)

end Sys2Proof.Machine
end

