-- ==== Sys2Proof/Machine/ScalarSystem.lean ====
section
/-! DEFINITION. The scalar instructions that act on the device: `cfgld` (R245, R246), `cmd` (R247), `launch` and `launch.nb` (R248), `yield` (R249) and
`wait` (R250), and the resumption of those that wait (R233). -/

namespace Sys2Proof.Machine

/-- A unit as it stands in a state. -/
def unitIn (s : State) (u : UnitId) (w : WorkUnit) : WorkUnit := (kget s.units u).getD w

/-! ## cfgld (R245) -/

/-- The load proper: steps 4 and 5. -/
def cfgldLoad (s : State) (u : UnitId) (w : WorkUnit) (rd : Reg) (tile plane va : Nat) (src : List Byte) (i : Instr) : Res :=
  let r := placeImage s u w w.tp.die tile plane src va
  if r.status = ldOpc then
    done (trapSeq r.s u (w.setReg rd (BitVec.ofNat 64 ldOpc)) (w.pc + 4) cIllInstr (BitVec.ofNat 64 r.where_) (wordOfInstr i) 0)
  else retireWait r.s u w rd (BitVec.ofNat 64 r.status)

/-- `cfgld`, at its start or as it waits. -/
def cfgldGo (s : State) (u : UnitId) (w : WorkUnit) (rd rs1 rs2 : Reg) : Res :=
  let i : Instr := .cfgld rd rs1 rs2
  let t := w.reg rs2
  let plane := wf t 8 6
  let tile := 8 * wf t 5 3 + wf t 2 0
  let key := 320 * w.tp.die + 5 * tile + plane
  let sl := dget Slot.initial s.slots key
  let va := (w.reg rs1).toNat % 2 ^ 57
  if 5 ≤ plane then retireWait s u w rd (BitVec.ofNat 64 ldHdr)
  else if (plane = 4 && !w.hmode) || !(sl.held && sl.asid = w.asid) then trapHere s u w cPrivInstr ((wordOfInstr i).setWidth 64) i
  else if sl.bound && sl.unit ≠ some u then retireWait s u w rd (BitVec.ofNat 64 ldBusy)
  else if !tpQuiet s key then waitIn s u w i []
  else if va % 64 ≠ 0 then retireWait s u w rd (BitVec.ofNat 64 ldHdr)
  else
    (seqRead s w va 64 .read).andThen s u w .read va i fun h =>
      let len := fieldAt h 8 4
      if len < 64 ∨ 0x400000 < len then cfgldLoad s u w rd tile plane va h i
      else (seqRead s w va len .read).andThen s u w .read va i fun src => cfgldLoad s u w rd tile plane va src i

def execCfgld (rd rs1 rs2 : Reg) (s : State) : Res := onUnit s fun u w => cfgldGo s u w rd rs1 rs2

/-! ## cmd (R247) -/

/-- Issue a command, at the start of the `cmd` or as it waits for room. -/
def cmdIssue (s : State) (u : UnitId) (w : WorkUnit) (rd : Reg) (c : Cmd128) (i : Instr) : Res :=
  match Sopc.ofCode (cmdOpc c) with
  | none => trapHere s u w cIllInstr ((wordOfInstr i).setWidth 64) i
  | some o =>
    match issueCmd o s (Ctx.ofUnit u w) c with
    | .waits on => waitIn s u w i [] on
    | .fault cause va => done (seqFault s u w (faultAccess s w.asid cause va) cause va (wordOfInstr i))
    | .st s1 code =>
      if cmdFe c && code = 0 && emptying s1 s.nextId then waitIn s1 u { unitIn s1 u w with feWait := some s.nextId } i []
      else done (retiredWait s1 u (unitIn s1 u w) rd (BitVec.ofNat 64 code))

/-- `cmd`, at its start or as it waits; with FE it retires once the emptying is done (R275). -/
def cmdGo (s : State) (u : UnitId) (w : WorkUnit) (rd rs1 rs2 : Reg) : Res :=
  match w.feWait with
  | some n => if emptying s n then .next s else retireWait s u { w with feWait := none } rd 0
  | none => cmdIssue s u w rd (w.reg rs2 ++ w.reg rs1) (.cmd rd rs1 rs2)

def execCmd (rd rs1 rs2 : Reg) (s : State) : Res := onUnit s fun u w => cmdGo s u w rd rs1 rs2

/-! ## launch (R248) -/

/-- Post the packet that has been read. -/
def launchPost (s : State) (u : UnitId) (w : WorkUnit) (nb : Bool) (rd : Reg) (ws : List Word) (i : Instr) : Res :=
  match postLaunch s u w ws with
  | .refused => retireWait s u w rd 3
  | .posted s1 code => done (retiredWait s1 u (unitIn s1 u w) rd (BitVec.ofNat 64 code))
  | .full => if nb then retireWait s u w rd 2 else waitIn s u w i ws

/-- `launch` and `launch.nb`: the packet is read once. -/
def launchGo (s : State) (u : UnitId) (w : WorkUnit) (nb : Bool) (rd rs1 : Reg) (packet : List Word) : Res :=
  let i : Instr := if nb then .launchNb rd rs1 else .launch rd rs1
  let va := (w.reg rs1).toNat % 2 ^ 57
  if va % 64 ≠ 0 then trapHere s u w cMemAlign (BitVec.ofNat 64 va) i
  else if packet.isEmpty then (seqRead s w va 64 .read).andThen s u w .read va i fun bs => launchPost s u w nb rd (wordsOf bs 8) i
  else launchPost s u w nb rd packet i

def execLaunch (rd rs1 : Reg) (s : State) : Res := onUnit s fun u w => launchGo s u w false rd rs1 []
def execLaunchNb (rd rs1 : Reg) (s : State) : Res := onUnit s fun u w => launchGo s u w true rd rs1 []

/-! ## yield (R249) -/

/-- With REQ = 1 the unit is saved here; after the restore it goes on at the next instruction with s[rd] := 1. -/
def execYield (rd : Reg) (s : State) : Res :=
  onUnit s fun u w => if w.req then .next (beginSave s u { w.advance with yieldRd := some rd } 1) else retire s u w rd 0

/-! ## wait (R250) -/

/-- Has the timeout of a wait come? -/
def waitOver (s : State) (w : WorkUnit) : Bool :=
  match w.seq with
  | .wait t _ _ => w.wto ≠ 0 && w.wto.toNat ≤ (s.tb - t).toNat
  | _ => false

/-- Go on waiting, or end with 1 where the timeout has come and is looked at. -/
def waitMore (s : State) (u : UnitId) (w : WorkUnit) (rd : Reg) (i : Instr) (timeout : Bool) : Res :=
  if timeout && waitOver s w then retireWait s u w rd 1 else waitIn s u w i []

/-- `wait.ntf`. -/
def waitNtfGo (s : State) (u : UnitId) (w : WorkUnit) (rd rs1 : Reg) (timeout : Bool) : Res :=
  if (w.reg rs1).toNat ≤ w.ntfc.toNat then retireWait s u w rd 0 else waitMore s u w rd (.waitNtf rd rs1) timeout

/-- `wait.lvl`. -/
def waitLvlGo (s : State) (u : UnitId) (w : WorkUnit) (rd rs1 : Reg) (timeout : Bool) : Res :=
  match levelOf s w.job (w.reg rs1) with
  | none => retireWait s u w rd 4
  | some r =>
    match (viewLevel s w.job r).status with
    | .done => retireWait s u w rd 0
    | .cancelled => retireWait s u w rd 2
    | .faulted => retireWait s u w rd 3
    | .running => waitMore s u w rd (.waitLvl rd rs1) timeout

/-- Is a write that satisfies the wait noted: no change is passed over unexamined (R250)? -/
def waitHit (s : State) (u : UnitId) : Bool := ((kget s.watches (2 * u)).bind fun h => h.hit).isSome

/-- `wait.geu` and `wait.eq`: the condition codes 5 and 0 of `monwait`. -/
def waitWordGo (s : State) (u : UnitId) (w : WorkUnit) (rd rs1 rs2 : Reg) (c : BitVec 3) (i : Instr) (timeout : Bool) : Res :=
  let va := (w.reg rs1).toNat % 2 ^ 57
  if va % 8 ≠ 0 then trapHere s u w cMemAlign (BitVec.ofNat 64 va) i
  else if waitHit s u then retireWait s u w rd 0
  else
    let w := w.waitFrom s.tb i
    (seqRead s w va 8 .read).andThen s u w .read va i fun bs =>
      if condHolds c 64 (wordOf bs) (w.reg rs2) then retireWait s u w rd 0
      else
        match translate s w.asid va .read with
        | .ok p =>
          let h : Watch := { p := p, die := w.tp.die, n := 8, cond := c, bits := 64, val := w.reg rs2, hit := none }
          waitMore { s with watches := kput s.watches (2 * u) h } u w rd i timeout
        | .bad _ => .next s

def execWaitNtf (rd rs1 : Reg) (s : State) : Res := onUnit s fun u w => waitNtfGo s u w rd rs1 false
def execWaitLvl (rd rs1 : Reg) (s : State) : Res := onUnit s fun u w => waitLvlGo s u w rd rs1 false
def execWaitGeu (rd rs1 rs2 : Reg) (s : State) : Res := onUnit s fun u w => waitWordGo s u w rd rs1 rs2 5 (.waitGeu rd rs1 rs2) false
def execWaitEq (rd rs1 rs2 : Reg) (s : State) : Res := onUnit s fun u w => waitWordGo s u w rd rs1 rs2 0 (.waitEq rd rs1 rs2) false

/-! ## Waiting instructions (R233) -/

/-- The instructions that wait (R233), evaluated again. -/
def evaluateWait (s : State) (u : UnitId) (w : WorkUnit) (i : Instr) (packet : List Word) (timeout : Bool) : Res :=
  match i with
  | .waitNtf rd rs1 => waitNtfGo s u w rd rs1 timeout
  | .waitLvl rd rs1 => waitLvlGo s u w rd rs1 timeout
  | .waitGeu rd rs1 rs2 => waitWordGo s u w rd rs1 rs2 5 i timeout
  | .waitEq rd rs1 rs2 => waitWordGo s u w rd rs1 rs2 0 i timeout
  | .cmd rd rs1 rs2 => cmdGo s u w rd rs1 rs2
  | .launch rd rs1 => launchGo s u w false rd rs1 packet
  | .cfgld rd rs1 rs2 => cfgldGo s u w rd rs1 rs2
  | _ => .next s

/-- WAITING_INSTRUCTION_RESUME: the sequencer of a unit looks again at what its instruction waits for (R233, R245, R247, R248, R250). -/
def execWaitingInstructionResume (u : UnitId) (s : State) : Res := onWaiting s u fun w _ i packet => evaluateWait s u w i packet false

/-- WAIT_TIMEOUT: the timeout of a `wait` has come; the final evaluation decides (R250, R257). -/
def execWaitTimeout (u : UnitId) (s : State) : Res :=
  onWaiting s u fun w _ i packet => if waitOver s w then evaluateWait s u w i packet true else .next s

end Sys2Proof.Machine
end

