-- ==== Sys2Proof/Machine/Dispatch.lean ====
section
/-! DEFINITION. The meaning of every instruction and of every step of the device: one arm for each constructor of `Instr`. -/

namespace Sys2Proof.Machine

def exec (i : Instr) (s : State) : Host.Outcome State Fault Refusal :=
  match i with
  | .add rd rs1 rs2 => Sys2Proof.Machine.execAdd rd rs1 rs2 s
  | .sub rd rs1 rs2 => Sys2Proof.Machine.execSub rd rs1 rs2 s
  | .and rd rs1 rs2 => Sys2Proof.Machine.execAnd rd rs1 rs2 s
  | .or rd rs1 rs2 => Sys2Proof.Machine.execOr rd rs1 rs2 s
  | .xor rd rs1 rs2 => Sys2Proof.Machine.execXor rd rs1 rs2 s
  | .sll rd rs1 rs2 => Sys2Proof.Machine.execSll rd rs1 rs2 s
  | .srl rd rs1 rs2 => Sys2Proof.Machine.execSrl rd rs1 rs2 s
  | .sra rd rs1 rs2 => Sys2Proof.Machine.execSra rd rs1 rs2 s
  | .mul rd rs1 rs2 => Sys2Proof.Machine.execMul rd rs1 rs2 s
  | .mulh rd rs1 rs2 => Sys2Proof.Machine.execMulh rd rs1 rs2 s
  | .div rd rs1 rs2 => Sys2Proof.Machine.execDiv rd rs1 rs2 s
  | .rem rd rs1 rs2 => Sys2Proof.Machine.execRem rd rs1 rs2 s
  | .slt rd rs1 rs2 => Sys2Proof.Machine.execSlt rd rs1 rs2 s
  | .sltu rd rs1 rs2 => Sys2Proof.Machine.execSltu rd rs1 rs2 s
  | .min rd rs1 rs2 => Sys2Proof.Machine.execMin rd rs1 rs2 s
  | .max rd rs1 rs2 => Sys2Proof.Machine.execMax rd rs1 rs2 s
  | .addi rd rs1 imm => Sys2Proof.Machine.execAddi rd rs1 imm s
  | .andi rd rs1 imm => Sys2Proof.Machine.execAndi rd rs1 imm s
  | .ori rd rs1 imm => Sys2Proof.Machine.execOri rd rs1 imm s
  | .xori rd rs1 imm => Sys2Proof.Machine.execXori rd rs1 imm s
  | .slli rd rs1 sh => Sys2Proof.Machine.execSlli rd rs1 sh s
  | .srli rd rs1 sh => Sys2Proof.Machine.execSrli rd rs1 sh s
  | .srai rd rs1 sh => Sys2Proof.Machine.execSrai rd rs1 sh s
  | .lui rd imm => Sys2Proof.Machine.execLui rd imm s
  | .ld rd rs1 imm => Sys2Proof.Machine.execLd rd rs1 imm s
  | .lw rd rs1 imm => Sys2Proof.Machine.execLw rd rs1 imm s
  | .lwu rd rs1 imm => Sys2Proof.Machine.execLwu rd rs1 imm s
  | .lh rd rs1 imm => Sys2Proof.Machine.execLh rd rs1 imm s
  | .lhu rd rs1 imm => Sys2Proof.Machine.execLhu rd rs1 imm s
  | .lb rd rs1 imm => Sys2Proof.Machine.execLb rd rs1 imm s
  | .lbu rd rs1 imm => Sys2Proof.Machine.execLbu rd rs1 imm s
  | .sd rs2 rs1 imm => Sys2Proof.Machine.execSd rs2 rs1 imm s
  | .sw rs2 rs1 imm => Sys2Proof.Machine.execSw rs2 rs1 imm s
  | .sh rs2 rs1 imm => Sys2Proof.Machine.execSh rs2 rs1 imm s
  | .sb rs2 rs1 imm => Sys2Proof.Machine.execSb rs2 rs1 imm s
  | .pset pd cond rs1 rs2 => Sys2Proof.Machine.execPset pd cond rs1 rs2 s
  | .plog pd fn pa pb => Sys2Proof.Machine.execPlog pd fn pa pb s
  | .br p neg off => Sys2Proof.Machine.execBr p neg off s
  | .jal rd off => Sys2Proof.Machine.execJal rd off s
  | .jalr rd rs1 imm => Sys2Proof.Machine.execJalr rd rs1 imm s
  | .csrrw rd rs1 csr => Sys2Proof.Machine.execCsrrw rd rs1 csr s
  | .csrrs rd rs1 csr => Sys2Proof.Machine.execCsrrs rd rs1 csr s
  | .csrrc rd rs1 csr => Sys2Proof.Machine.execCsrrc rd rs1 csr s
  | .gset rs g => Sys2Proof.Machine.execGset rs g s
  | .gget rs g => Sys2Proof.Machine.execGget rs g s
  | .cfgld rd rs1 rs2 => Sys2Proof.Machine.execCfgld rd rs1 rs2 s
  | .cmd rd rs1 rs2 => Sys2Proof.Machine.execCmd rd rs1 rs2 s
  | .launch rd rs1 => Sys2Proof.Machine.execLaunch rd rs1 s
  | .launchNb rd rs1 => Sys2Proof.Machine.execLaunchNb rd rs1 s
  | .yield rd => Sys2Proof.Machine.execYield rd s
  | .waitNtf rd rs1 => Sys2Proof.Machine.execWaitNtf rd rs1 s
  | .waitLvl rd rs1 => Sys2Proof.Machine.execWaitLvl rd rs1 s
  | .waitGeu rd rs1 rs2 => Sys2Proof.Machine.execWaitGeu rd rs1 rs2 s
  | .waitEq rd rs1 rs2 => Sys2Proof.Machine.execWaitEq rd rs1 rs2 s
  | .trap rs1 code => Sys2Proof.Machine.execTrap rs1 code s
  | .eret => Sys2Proof.Machine.execEret s
  | .fence scope => Sys2Proof.Machine.execFence scope s
  | .endUnit => Sys2Proof.Machine.execEndUnit s
  | .waitingInstructionResume u => Sys2Proof.Machine.execWaitingInstructionResume u s
  | .waitTimeout u => Sys2Proof.Machine.execWaitTimeout u s
  | .opAdd e => Sys2Proof.Machine.execOpAdd e s
  | .opSub e => Sys2Proof.Machine.execOpSub e s
  | .opAdds e => Sys2Proof.Machine.execOpAdds e s
  | .opSubs e => Sys2Proof.Machine.execOpSubs e s
  | .opMul e => Sys2Proof.Machine.execOpMul e s
  | .opMulh e => Sys2Proof.Machine.execOpMulh e s
  | .opMulhu e => Sys2Proof.Machine.execOpMulhu e s
  | .opDiv e => Sys2Proof.Machine.execOpDiv e s
  | .opDivu e => Sys2Proof.Machine.execOpDivu e s
  | .opRem e => Sys2Proof.Machine.execOpRem e s
  | .opRemu e => Sys2Proof.Machine.execOpRemu e s
  | .opNeg e => Sys2Proof.Machine.execOpNeg e s
  | .opAbs e => Sys2Proof.Machine.execOpAbs e s
  | .opMin e => Sys2Proof.Machine.execOpMin e s
  | .opMax e => Sys2Proof.Machine.execOpMax e s
  | .opAnd e => Sys2Proof.Machine.execOpAnd e s
  | .opOr e => Sys2Proof.Machine.execOpOr e s
  | .opXor e => Sys2Proof.Machine.execOpXor e s
  | .opAndn e => Sys2Proof.Machine.execOpAndn e s
  | .opNot e => Sys2Proof.Machine.execOpNot e s
  | .opShl e => Sys2Proof.Machine.execOpShl e s
  | .opShr e => Sys2Proof.Machine.execOpShr e s
  | .opSar e => Sys2Proof.Machine.execOpSar e s
  | .opRol e => Sys2Proof.Machine.execOpRol e s
  | .opRor e => Sys2Proof.Machine.execOpRor e s
  | .opClz e => Sys2Proof.Machine.execOpClz e s
  | .opPopc e => Sys2Proof.Machine.execOpPopc e s
  | .opBext e => Sys2Proof.Machine.execOpBext e s
  | .opBins e => Sys2Proof.Machine.execOpBins e s
  | .opBrev e => Sys2Proof.Machine.execOpBrev e s
  | .opBswap e => Sys2Proof.Machine.execOpBswap e s
  | .opCeq e => Sys2Proof.Machine.execOpCeq e s
  | .opCne e => Sys2Proof.Machine.execOpCne e s
  | .opClt e => Sys2Proof.Machine.execOpClt e s
  | .opCle e => Sys2Proof.Machine.execOpCle e s
  | .opCltu e => Sys2Proof.Machine.execOpCltu e s
  | .opCleu e => Sys2Proof.Machine.execOpCleu e s
  | .opFceq e => Sys2Proof.Machine.execOpFceq e s
  | .opFclt e => Sys2Proof.Machine.execOpFclt e s
  | .opFcle e => Sys2Proof.Machine.execOpFcle e s
  | .opFcun e => Sys2Proof.Machine.execOpFcun e s
  | .opSel e => Sys2Proof.Machine.execOpSel e s
  | .opMov e => Sys2Proof.Machine.execOpMov e s
  | .opFadd e => Sys2Proof.Machine.execOpFadd e s
  | .opFsub e => Sys2Proof.Machine.execOpFsub e s
  | .opFmul e => Sys2Proof.Machine.execOpFmul e s
  | .opFma e => Sys2Proof.Machine.execOpFma e s
  | .opFms e => Sys2Proof.Machine.execOpFms e s
  | .opFnma e => Sys2Proof.Machine.execOpFnma e s
  | .opFnms e => Sys2Proof.Machine.execOpFnms e s
  | .opFmin e => Sys2Proof.Machine.execOpFmin e s
  | .opFmax e => Sys2Proof.Machine.execOpFmax e s
  | .opFabs e => Sys2Proof.Machine.execOpFabs e s
  | .opFneg e => Sys2Proof.Machine.execOpFneg e s
  | .opFcpsgn e => Sys2Proof.Machine.execOpFcpsgn e s
  | .opFrcps e => Sys2Proof.Machine.execOpFrcps e s
  | .opFrcpi e => Sys2Proof.Machine.execOpFrcpi e s
  | .opFrsqs e => Sys2Proof.Machine.execOpFrsqs e s
  | .opFrsqi e => Sys2Proof.Machine.execOpFrsqi e s
  | .opFexpr e => Sys2Proof.Machine.execOpFexpr e s
  | .opFexpp e => Sys2Proof.Machine.execOpFexpp e s
  | .opFlogr e => Sys2Proof.Machine.execOpFlogr e s
  | .opFlogp e => Sys2Proof.Machine.execOpFlogp e s
  | .opFsinr e => Sys2Proof.Machine.execOpFsinr e s
  | .opFsinp e => Sys2Proof.Machine.execOpFsinp e s
  | .opFclass e => Sys2Proof.Machine.execOpFclass e s
  | .opFround e => Sys2Proof.Machine.execOpFround e s
  | .opFscale e => Sys2Proof.Machine.execOpFscale e s
  | .opFmant e => Sys2Proof.Machine.execOpFmant e s
  | .opFexpo e => Sys2Proof.Machine.execOpFexpo e s
  | .opLgmul e => Sys2Proof.Machine.execOpLgmul e s
  | .opLgsum e => Sys2Proof.Machine.execOpLgsum e s
  | .opLgenc e => Sys2Proof.Machine.execOpLgenc e s
  | .opBsapply e => Sys2Proof.Machine.execOpBsapply e s
  | .opBsfind e => Sys2Proof.Machine.execOpBsfind e s
  | .opBshdr e => Sys2Proof.Machine.execOpBshdr e s
  | .opBsstrip e => Sys2Proof.Machine.execOpBsstrip e s
  | .opAmaxr e => Sys2Proof.Machine.execOpAmaxr e s
  | .opCvtfi e => Sys2Proof.Machine.execOpCvtfi e s
  | .opCvtif e => Sys2Proof.Machine.execOpCvtif e s
  | .opCvtfr e => Sys2Proof.Machine.execOpCvtfr e s
  | .opCvtsat e => Sys2Proof.Machine.execOpCvtsat e s
  | .opLfld e => Sys2Proof.Machine.execOpLfld e s
  | .opLfst e => Sys2Proof.Machine.execOpLfst e s
  | .opLfldi e => Sys2Proof.Machine.execOpLfldi e s
  | .opLfsti e => Sys2Proof.Machine.execOpLfsti e s
  | .opPerm e => Sys2Proof.Machine.execOpPerm e s
  | .opPermi e => Sys2Proof.Machine.execOpPermi e s
  | .opBcast e => Sys2Proof.Machine.execOpBcast e s
  | .opLsum e => Sys2Proof.Machine.execOpLsum e s
  | .opSteer e => Sys2Proof.Machine.execOpSteer e s
  | .opMergeOrd e => Sys2Proof.Machine.execOpMergeOrd e s
  | .opMergeArr e => Sys2Proof.Machine.execOpMergeArr e s
  | .opCarry e => Sys2Proof.Machine.execOpCarry e s
  | .opJoin e => Sys2Proof.Machine.execOpJoin e s
  | .opGate e => Sys2Proof.Machine.execOpGate e s
  | .opSink e => Sys2Proof.Machine.execOpSink e s
  | .opCtok e => Sys2Proof.Machine.execOpCtok e s
  | .opConst e => Sys2Proof.Machine.execOpConst e s
  | .opIota e => Sys2Proof.Machine.execOpIota e s
  | .opVld e => Sys2Proof.Machine.execOpVld e s
  | .opVst e => Sys2Proof.Machine.execOpVst e s
  | .opMemnop e => Sys2Proof.Machine.execOpMemnop e s
  | .opLdfe e => Sys2Proof.Machine.execOpLdfe e s
  | .opVldx e => Sys2Proof.Machine.execOpVldx e s
  | .opVstx e => Sys2Proof.Machine.execOpVstx e s
  | .opApst e => Sys2Proof.Machine.execOpApst e s
  | .opFence e => Sys2Proof.Machine.execOpFence e s
  | .opMonwait e => Sys2Proof.Machine.execOpMonwait e s
  | .opRedFx e => Sys2Proof.Machine.execOpRedFx e s
  | .opAmoAdd e => Sys2Proof.Machine.execOpAmoAdd e s
  | .opAmoAnd e => Sys2Proof.Machine.execOpAmoAnd e s
  | .opAmoOr e => Sys2Proof.Machine.execOpAmoOr e s
  | .opAmoXor e => Sys2Proof.Machine.execOpAmoXor e s
  | .opAmoMin e => Sys2Proof.Machine.execOpAmoMin e s
  | .opAmoMax e => Sys2Proof.Machine.execOpAmoMax e s
  | .opAmoMinu e => Sys2Proof.Machine.execOpAmoMinu e s
  | .opAmoMaxu e => Sys2Proof.Machine.execOpAmoMaxu e s
  | .opAmoSwap e => Sys2Proof.Machine.execOpAmoSwap e s
  | .opAmoCas e => Sys2Proof.Machine.execOpAmoCas e s
  | .opAmoFadd e => Sys2Proof.Machine.execOpAmoFadd e s
  | .opVote3 e => Sys2Proof.Machine.execOpVote3 e s
  | .opCsumRow e => Sys2Proof.Machine.execOpCsumRow e s
  | .opCsumCol e => Sys2Proof.Machine.execOpCsumCol e s
  | .opCsumChk e => Sys2Proof.Machine.execOpCsumChk e s
  | .opEmit e => Sys2Proof.Machine.execOpEmit e s
  | .opTbread e => Sys2Proof.Machine.execOpTbread e s
  | .opChkr e => Sys2Proof.Machine.execOpChkr e s
  | .emitAck e => Sys2Proof.Machine.execEmitAck e s
  | .waveIssue n => Sys2Proof.Machine.execWaveIssue n s
  | .blockCommit n => Sys2Proof.Machine.execBlockCommit n s
  | .monwaitTimeout n => Sys2Proof.Machine.execMonwaitTimeout n s
  | .faultedUnitEnd u => Sys2Proof.Machine.execFaultedUnitEnd u s
  | .snop iss c => Sys2Proof.Machine.execSnop iss c s
  | .sync iss c => Sys2Proof.Machine.execSync iss c s
  | .syncWrite n => Sys2Proof.Machine.execSyncWrite n s
  | .fxregion iss c => Sys2Proof.Machine.execFxregion iss c s
  | .aprLoad iss c => Sys2Proof.Machine.execAprLoad iss c s
  | .aprStore iss c => Sys2Proof.Machine.execAprStore iss c s
  | .aprDim iss c => Sys2Proof.Machine.execAprDim iss c s
  | .aprPad iss c => Sys2Proof.Machine.execAprPad iss c s
  | .aprEnd iss c => Sys2Proof.Machine.execAprEnd iss c s
  | .sheaveRecordStart k => Sys2Proof.Machine.execSheaveRecordStart k s
  | .sheaveLoadEmit k => Sys2Proof.Machine.execSheaveLoadEmit k s
  | .sheaveStoreFill k => Sys2Proof.Machine.execSheaveStoreFill k s
  | .cptDef iss c => Sys2Proof.Machine.execCptDef iss c s
  | .cptDim iss c => Sys2Proof.Machine.execCptDim iss c s
  | .cptGo iss c => Sys2Proof.Machine.execCptGo iss c s
  | .cptCancel iss c => Sys2Proof.Machine.execCptCancel iss c s
  | .mcPermit iss c => Sys2Proof.Machine.execMcPermit iss c s
  | .permitPortToken tp port => Sys2Proof.Machine.execPermitPortToken tp port s
  | .bteLanding k n => Sys2Proof.Machine.execBteLanding k n s
  | .gathRow iss c => Sys2Proof.Machine.execGathRow iss c s
  | .gathRed iss c => Sys2Proof.Machine.execGathRed iss c s
  | .gathIdxList iss c => Sys2Proof.Machine.execGathIdxList iss c s
  | .gathIdxBag iss c => Sys2Proof.Machine.execGathIdxBag iss c s
  | .gathChainBind iss c => Sys2Proof.Machine.execGathChainBind iss c s
  | .gathChainUnbind iss c => Sys2Proof.Machine.execGathChainUnbind iss c s
  | .gathTail iss c => Sys2Proof.Machine.execGathTail iss c s
  | .greRow n j => Sys2Proof.Machine.execGreRow n j s
  | .qntBlk iss c => Sys2Proof.Machine.execQntBlk iss c s
  | .qntDq iss c => Sys2Proof.Machine.execQntDq iss c s
  | .qntChainBind iss c => Sys2Proof.Machine.execQntChainBind iss c s
  | .qntChainUnbind iss c => Sys2Proof.Machine.execQntChainUnbind iss c s
  | .qntTail iss c => Sys2Proof.Machine.execQntTail iss c s
  | .qeBlock n => Sys2Proof.Machine.execQeBlock n s
  | .mxtask iss c => Sys2Proof.Machine.execMxtask iss c s
  | .mxqSetBind iss c => Sys2Proof.Machine.execMxqSetBind iss c s
  | .mxqSetUnbind iss c => Sys2Proof.Machine.execMxqSetUnbind iss c s
  | .mxqSetTail iss c => Sys2Proof.Machine.execMxqSetTail iss c s
  | .ldstat iss c => Sys2Proof.Machine.execLdstat iss c s
  | .ldstatComplete die mxe => Sys2Proof.Machine.execLdstatComplete die mxe s
  | .mxswap iss c => Sys2Proof.Machine.execMxswap iss c s
  | .mxswapExchange die mxe => Sys2Proof.Machine.execMxswapExchange die mxe s
  | .mxeTaskStart n mxe => Sys2Proof.Machine.execMxeTaskStart n mxe s
  | .mxeTaskEnd n => Sys2Proof.Machine.execMxeTaskEnd n s
  | .nmcSgd iss c => Sys2Proof.Machine.execNmcSgd iss c s
  | .nmcDecay iss c => Sys2Proof.Machine.execNmcDecay iss c s
  | .nmcRed iss c => Sys2Proof.Machine.execNmcRed iss c s
  | .nmcChainBind iss c => Sys2Proof.Machine.execNmcChainBind iss c s
  | .nmcChainUnbind iss c => Sys2Proof.Machine.execNmcChainUnbind iss c s
  | .nmcTail iss c => Sys2Proof.Machine.execNmcTail iss c s
  | .nmcElementUpdate n elem => Sys2Proof.Machine.execNmcElementUpdate n elem s
  | .deadSet iss c => Sys2Proof.Machine.execDeadSet iss c s
  | .deadClr iss c => Sys2Proof.Machine.execDeadClr iss c s
  | .emitJnl iss c => Sys2Proof.Machine.execEmitJnl iss c s
  | .emitSeq iss c => Sys2Proof.Machine.execEmitSeq iss c s
  | .chainTailPoll k => Sys2Proof.Machine.execChainTailPoll k s
  | .chainDoorbell k => Sys2Proof.Machine.execChainDoorbell k s
  | .chainEntryStart k => Sys2Proof.Machine.execChainEntryStart k s
  | .chainEntryFinish n => Sys2Proof.Machine.execChainEntryFinish n s
  | .engineOpComplete n => Sys2Proof.Machine.execEngineOpComplete n s
  | .hostBar2Write off bytes => Sys2Proof.Machine.execHostBar2Write off bytes s
  | .hostBar2Read off len => Sys2Proof.Machine.execHostBar2Read off len s
  | .peerBar2Write off bytes relaxed => Sys2Proof.Machine.execPeerBar2Write off bytes relaxed s
  | .hostAtomicop off size op opnd cmp => Sys2Proof.Machine.execHostAtomicop off size op opnd cmp s
  | .registerWrite f off val => Sys2Proof.Machine.execRegisterWrite f off val s
  | .drst val => Sys2Proof.Machine.execDrst val s
  | .perst => Sys2Proof.Machine.execPerst s
  | .pfFlr => Sys2Proof.Machine.execPfFlr s
  | .vfFlr vf => Sys2Proof.Machine.execVfFlr vf s
  | .standbyPowerUp => Sys2Proof.Machine.execStandbyPowerUp s
  | .mbdb f => Sys2Proof.Machine.execMbdb f s
  | .qcreate f => Sys2Proof.Machine.execQcreate f s
  | .qdestroy f => Sys2Proof.Machine.execQdestroy f s
  | .jobopen f => Sys2Proof.Machine.execJobopen f s
  | .jobclose f => Sys2Proof.Machine.execJobclose f s
  | .phasebnd f => Sys2Proof.Machine.execPhasebnd f s
  | .grant f => Sys2Proof.Machine.execGrant f s
  | .revoke f => Sys2Proof.Machine.execRevoke f s
  | .ctmode f => Sys2Proof.Machine.execCtmode f s
  | .ctmodeComplete stack => Sys2Proof.Machine.execCtmodeComplete stack s
  | .share f => Sys2Proof.Machine.execShare f s
  | .resync f => Sys2Proof.Machine.execResync f s
  | .fwupdFirmware f => Sys2Proof.Machine.execFwupdFirmware f s
  | .fwupdFabricOut f => Sys2Proof.Machine.execFwupdFabricOut f s
  | .fwupdFabricIn f => Sys2Proof.Machine.execFwupdFabricIn f s
  | .fwupdSailOut f => Sys2Proof.Machine.execFwupdSailOut f s
  | .fwupdSailIn f => Sys2Proof.Machine.execFwupdSailIn f s
  | .fwupdLinkOut f => Sys2Proof.Machine.execFwupdLinkOut f s
  | .fwupdLinkIn f => Sys2Proof.Machine.execFwupdLinkIn f s
  | .fwupdPowerClass f => Sys2Proof.Machine.execFwupdPowerClass f s
  | .getVersion => Sys2Proof.Machine.execGetVersion s
  | .getCapabilities => Sys2Proof.Machine.execGetCapabilities s
  | .negotiateAlgorithms sm2 sm3 => Sys2Proof.Machine.execNegotiateAlgorithms sm2 sm3 s
  | .getDigests => Sys2Proof.Machine.execGetDigests s
  | .getCertificate slot off len => Sys2Proof.Machine.execGetCertificate slot off len s
  | .challenge slot nonce => Sys2Proof.Machine.execChallenge slot nonce s
  | .getMeasurements index => Sys2Proof.Machine.execGetMeasurements index s
  | .atsInvalidation asid va len => Sys2Proof.Machine.execAtsInvalidation asid va len s
  | .notify k val => Sys2Proof.Machine.execNotify k val s
  | .packetAccept k => Sys2Proof.Machine.execPacketAccept k s
  | .cancel k handle => Sys2Proof.Machine.execCancel k handle s
  | .lqry k handle => Sys2Proof.Machine.execLqry k handle s
  | .bindRecord die rec => Sys2Proof.Machine.execBindRecord die rec s
  | .unitComplete u => Sys2Proof.Machine.execUnitComplete u s
  | .preemptRequest u deadline => Sys2Proof.Machine.execPreemptRequest u deadline s
  | .preemptDeadline u => Sys2Proof.Machine.execPreemptDeadline u s
  | .unitSaveComplete u => Sys2Proof.Machine.execUnitSaveComplete u s
  | .unitRestore u tp => Sys2Proof.Machine.execUnitRestore u tp s
  | .frameEntryEnd die => Sys2Proof.Machine.execFrameEntryEnd die s
  | .gangReadySend die => Sys2Proof.Machine.execGangReadySend die s
  | .gangReadyReceive die dev => Sys2Proof.Machine.execGangReadyReceive die dev s
  | .gangGraceExpiry die => Sys2Proof.Machine.execGangGraceExpiry die s
  | .gangGoReceive die => Sys2Proof.Machine.execGangGoReceive die s
  | .gangSkipReceive die => Sys2Proof.Machine.execGangSkipReceive die s
  | .gangDecisionTimeout die => Sys2Proof.Machine.execGangDecisionTimeout die s
  | .wdcfgWrite k val => Sys2Proof.Machine.execWdcfgWrite k val s
  | .wdctlKick k => Sys2Proof.Machine.execWdctlKick k s
  | .wdctlPartitionReset k => Sys2Proof.Machine.execWdctlPartitionReset k s
  | .watchdogExpiry k => Sys2Proof.Machine.execWatchdogExpiry k s
  | .partitionResetDone k => Sys2Proof.Machine.execPartitionResetDone k s
  | .xlatRewalk w => Sys2Proof.Machine.execXlatRewalk w s
  | .ahaltWrite die val => Sys2Proof.Machine.execAhaltWrite die val s
  | .bperExpiry => Sys2Proof.Machine.execBperExpiry s
  | .boundaryStart => Sys2Proof.Machine.execBoundaryStart s
  | .boundaryInstant => Sys2Proof.Machine.execBoundaryInstant s
  | .fullCheckpointDone => Sys2Proof.Machine.execFullCheckpointDone s
  | .rollback dpa => Sys2Proof.Machine.execRollback dpa s
  | .scrub dpa => Sys2Proof.Machine.execScrub dpa s
  | .elementReplay e copy => Sys2Proof.Machine.execElementReplay e copy s
  | .fatalError cause val => Sys2Proof.Machine.execFatalError cause val s
  | .thermalLimit die => Sys2Proof.Machine.execThermalLimit die s
  | .thermalTrip die val => Sys2Proof.Machine.execThermalTrip die val s
  | .flitCrcFail link => Sys2Proof.Machine.execFlitCrcFail link s
  | .linkTrainingLoss link => Sys2Proof.Machine.execLinkTrainingLoss link s
  | .lnkctlRateWrite link rate => Sys2Proof.Machine.execLnkctlRateWrite link rate s
  | .lnkctlRetrain link => Sys2Proof.Machine.execLnkctlRetrain link s
  | .linkRetrainDone link o => Sys2Proof.Machine.execLinkRetrainDone link o s
  | .halyardFrameCrcFail port => Sys2Proof.Machine.execHalyardFrameCrcFail port s
  | .halyardDown port => Sys2Proof.Machine.execHalyardDown port s
  | .journalLostExpiry die j => Sys2Proof.Machine.execJournalLostExpiry die j s
  | .journalEntryReceive w0 w1 w2 w3 => Sys2Proof.Machine.execJournalEntryReceive w0 w1 w2 w3 s
  | .journalEndRecord gseq lastn => Sys2Proof.Machine.execJournalEndRecord gseq lastn s
  | .journalTruncate gseq n => Sys2Proof.Machine.execJournalTruncate gseq n s
  | .illegalInstruction w => Sys2Proof.Machine.execIllegalInstruction w s
  | .journalAckReceive die j n poison => Sys2Proof.Machine.execJournalAckReceive die j n poison s
  | .halyardRemoteAccess port a => Sys2Proof.Machine.execHalyardRemoteAccess port a s
  | .doeDiscovery index => Sys2Proof.Machine.execDoeDiscovery index s
  | .mxeResidueFail die mxe => Sys2Proof.Machine.execMxeResidueFail die mxe s
  | .thermalLimitEnd die => Sys2Proof.Machine.execThermalLimitEnd die s

end Sys2Proof.Machine
end

