-- ==== Sys2Proof/Machine/Step.lean ====
section
/-! DEFINITION. One step of the machine: the next turn of `State.turns`, or, with none written there, the acting sequencer's next instruction.
Which agent moves when is open (R2, R231): `turns` is plain data, and every order of turns is a run of some state. -/

namespace Sys2Proof.Machine

/-- The ticks of some in which power or temperature limits the device: all of them while a die is hot, else a free number of them (R371; log entry 153). -/
def limitedTicks (s : State) (n : Nat) : Nat := if s.hot = 0 then min n (Config.freeNat s.freeCount) else n

/-- `tb` advances, watchdogs count (R334), and so does the time that the device is limited (R371). -/
def advanceTb (s : State) (n : Nat) : State :=
  let s1 := countWatchdogs s n
  { s1 with tb := s1.tb + BitVec.ofNat 64 n, freeCount := s1.freeCount + 1
            counters := { s1.counters with limited := s1.counters.limited + BitVec.ofNat 64 (limitedTicks s1 n) } }

/-- Time passes (R3): some ticks, or as many of them as pass before a frame sequencer acts, which then does, so that no sail is active beyond its entry
(R43, R320). Launches whose completion has waited complete, and retrains and resets of VFs that wait go on. -/
def timePasses (s : State) (n : Nat) : State :=
  let s1 := framesAct s
  retryLaunches (settleFlrs (startWanted (framesAct (advanceTb s1 (ticksFree s1 n)))))

/-- Is this a step of the device, and not an instruction that a sequencer fetches? -/
def isEvent (i : Instr) : Bool :=
  match i with
  | .illegalInstruction _ => false
  | i => (encode i).isNone

/-- The sequencer of a unit that acts: it fetches its next instruction and executes it (R121, R123, R231). One that waits, has ended or is
saved does nothing. -/
def seqStep (s : State) (u : UnitId) (w : WorkUnit) : Host.Outcome State Fault Refusal :=
  if !w.running then .next s
  else
    match fetch s u w with
    | .got w1 i => exec i (putUnit s u w1)
    | .not r => r

/-- The turn of a sequencer. -/
def seqTurn (s : State) (u : UnitId) : Host.Outcome State Fault Refusal :=
  match kget s.units u with
  | none => .next s
  | some w => seqStep { s with cur := some u } u w

/-- With no turn written: the acting sequencer goes on; with none acting, the boot ROM runs (R284), or one tick passes. -/
def ownTurn (s : State) : Host.Outcome State Fault Refusal :=
  match s.cur.bind fun u => (kget s.units u).map fun w => (u, w) with
  | some (u, w) => seqStep s u w
  | none => .next (if s.fwState = .rom then bringUp s else timePasses s 1)

/-- What a turn does. -/
def takeTurn (t : Turn) (s : State) : Host.Outcome State Fault Refusal :=
  match t with
  | .seq u => seqTurn s u
  | .ev i => if isEvent i then exec i s else .next s
  | .tick n => .next (timePasses s n)
  | .outside a bytes => .next (writePhys s (.sys a) bytes)
  | .table die words => .next (writeTable s die words)
  | .decay a => .next { s with uce := kput s.uce ((codeUnit a).1 / 32) true }

/-- One step. -/
def step (s : State) : Host.Outcome State Fault Refusal :=
  match s.turns with
  | [] => ownTurn s
  | t :: rest => takeTurn t { s with turns := rest }

/-! ## Placing an instruction where `step` fetches next -/

/-- Where the acting sequencer's next instruction lies, if it acts and its fetch block can be read as it stands. -/
def fetchPlace (s : State) : Option (UnitId × WorkUnit × Phys) :=
  (s.cur.bind fun u => (kget s.units u).map fun w => (u, w)).bind fun uw =>
    if uw.2.running then
      match seqRead s uw.2 (blockOf uw.2.pc) 64 .fetch, translate s uw.2.asid (uw.2.pc.toNat / 4 * 4) .fetch with
      | .ok _, .ok p => some (uw.1, uw.2, p)
      | _, _ => none
    else none

/-- The unit that stands for a loaded program: it is bound on tile-plane 0, and its registers hold 0. -/
def loadedUnit : WorkUnit :=
  WorkUnit.start
    { srcCpath := false, pkt := { packetOf [] with start := 0x20000 }, src := .unit 0, asid := 0xFFF, root := none, entry := none, toBind := [], sail := none, count := 1, closed := true,
      status := .done, cause := 0, complete := false } 0 { die := 0, tile := 0, plane := 0 } []

/-- The page table of the loaded program: its first GiB is the first GiB of device memory (R337). -/
def loadedTable (m : KMap Byte) : KMap Byte :=
  putBytes (putBytes (putBytes m 0x10000 (leBytes 8 0x11001)) 0x11000 (leBytes 8 0x12001)) 0x12000 (leBytes 8 0x1F)

/-- Load a program of one instruction: a unit of its own, a page table for it, and the word at its pc. -/
def loadProgram (s : State) (bs : List Byte) : State :=
  let u := s.nextId
  { s with units := kput s.units u loadedUnit, nextId := u + 1, cur := some u, roots := kput s.roots 0xFFF 0x10000,
           mem := putBytes (loadedTable s.mem) 0x20000 bs, wins := [], lost := [] }

/-- The state with an instruction stored where `step` fetches next. -/
def State.withFetchWord (s : State) (nbits w : Nat) : State :=
  let bs := storedBytes (w % 2 ^ min nbits 32)
  let s1 := { s with turns := [] }
  match fetchPlace s1 with
  | some (u, x, p) => putUnit (writeRaw s1 p bs) u { x with fblock := none }
  | none => loadProgram s1 bs

end Sys2Proof.Machine
end

