-- ==== Sys2Proof/Safety.lean ====
section
/-! DEFINITION. What counts as a safe run, and the situations in which claims say what an instruction does, in the terms that claims use. -/

namespace Sys2Proof.Safety

open Sys2Proof.Machine

/-- The machine of the host's interface never stops within `k` steps from a state. -/
def RunsFor (k : Nat) (s : State) : Prop := ∃ t, Host.Core.run Sys2Proof.core k s = .next t

/-- Every step from a state that holds an invariant, where it goes on, leads to a state that holds it. -/
def Kept (Inv : State → Prop) : Prop := ∀ s t, Inv s → step s = .next t → Inv t

/-- Device memory, system memory, and the device memory that a rollback returns to are in their canonical form. -/
def MemOk (s : State) : Prop := Memory.wf s.mem = true ∧ Memory.wf s.sysMem = true ∧ ∀ d, s.snap = some d → Memory.wf d.mem = true

/-- The sequencer of unit `u` is the one that acts, `w` is that unit, and it executes instructions: it is bound, and neither waits, has ended,
is cancelled, nor has a translation withheld (R231). -/
def Acts (s : State) (u : UnitId) (w : WorkUnit) : Prop := s.cur = some u ∧ kget s.units u = some w ∧ w.running = true

/-- The sequencer of the bound unit `u`, not cancelled and with nothing withheld, waits in instruction `i` since `t`, having read `pk` (R233). -/
def Waits (s : State) (u : UnitId) (w : WorkUnit) (i : Instr) (t : Word) (pk : List Word) : Prop :=
  kget s.units u = some w ∧ w.life = .bound ∧ w.held = none ∧ w.cancelled = false ∧ w.seq = .wait t i pk

/-- Instruction `i` answers `r`, both where its sequencer comes to it and where it waits in it since `t` and looks again (R233). -/
def Runs (s : State) (u : UnitId) (w : WorkUnit) (i : Instr) (t : Word) (pk : List Word) (r : Res) : Prop :=
  (Acts s u w → t = s.tb → pk = [] → exec i s = r) ∧ (Waits s u w i t pk → exec (.waitingInstructionResume u) s = r)

/-- The state in which the sequencer of a unit waits in instruction `i` since `t`, on bytes under active windows where a read of it does. -/
def waitsIn (s : State) (u : UnitId) (w : WorkUnit) (i : Instr) (t : Word) (pk : List Word) (on : List (Phys × Nat)) : State :=
  putUnit s u { w with seq := .wait t i pk, winWait := if w.poisoned then w.winWait else on }

/-- The state in which an instruction that may have waited has retired, its result in `rd`. -/
def retired (s : State) (u : UnitId) (w : WorkUnit) (rd : Reg) (v : Word) : State :=
  putUnit { s with watches := kdel s.watches (2 * u) } u ({ w with seq := .run, winWait := [], poisoned := false }.setReg rd v).advance

/-- The word `x` is the instruction `i`; an acting sequencer that executes it writes `f` of its unit to register `rd`, goes on to the next
instruction, and changes nothing else. -/
def Computes (x : BitVec 32) (i : Instr) (rd : Reg) (f : WorkUnit → Word) : Prop :=
  decodeWord x = .ok i ∧ ∀ s u w, Acts s u w → exec i s = .next (putUnit s u (w.setReg rd (f w)).advance)

/-- `Computes` for a function of two registers. -/
def Computes2 (x : BitVec 32) (i : Instr) (rd rs1 rs2 : Reg) (g : Word → Word → Word) : Prop := Computes x i rd fun w => g (w.reg rs1) (w.reg rs2)

/-- `Computes` for a function of one register. -/
def Computes1 (x : BitVec 32) (i : Instr) (rd rs1 : Reg) (g : Word → Word) : Prop := Computes x i rd fun w => g (w.reg rs1)

/-- The operator slot `sl` of image `img` at site `e` holds opcode `o`, stands at an element that no trap has stopped, may fire, no firing of the
storm jib going first, and finds the tokens `hs` at its ports (R17, R36, R44). -/
def Stands (s : State) (o : Opc) (e : Site) (img : Image) (sl : OpSlot) (hs : List (Nat × Token × Tag)) : Prop :=
  kget s.images e.tp.key = some img ∧ img.slotAt e = some sl ∧ sl.word.opc = o ∧ sl.halts = false ∧ mayFire s img = true ∧
    jibFirst s e = false ∧ img.headsOf e (arcPorts sl.word) = some hs

/-- It takes a token at some port, and none from a halted arc (R274). -/
def Ready (s : State) (o : Opc) (e : Site) (img : Image) (sl : OpSlot) (hs : List (Nat × Token × Tag)) : Prop :=
  Stands s o e img sl hs ∧ takesHalted s img e (arcPorts sl.word) = false ∧ hs ≠ []

/-- None of the tokens is poison or a header. -/
def Plain (hs : List (Nat × Token × Tag)) : Prop := ∀ h ∈ hs, h.2.1.cls ≠ .poison ∧ h.2.1.cls ≠ .header

/-- The tile of the copy that takes its turn. -/
def turnTile (img : Image) (sl : OpSlot) : Nat := ((sl.copies[sl.turn]?).map fun c => c.tile).getD img.tile

/-- The state after one firing: one event takes the oldest token of every port that arcs feed and writes `out` to every result arc; the dealing
to copies moves on; the flags join `numst` of the tile-plane of the copy that fired (R16, R17, R34, R51). `sl1` is the slot's own state afterwards. -/
def firedTo (s : State) (e : Site) (img : Image) (sl : OpSlot) (hs : List (Nat × Token × Tag)) (sl1 : OpSlot) (out : Option Token) (f : Flags) : State :=
  let outs := match out with
    | some t => [(allTargets, t)]
    | none => []
  orNumst (putImage s e.tp.key ((img.setSlot e { sl1 with dealt := sl.dealt + 1 }).fire e (arcPorts sl.word) outs (tagOf hs))) (img.tpKey (turnTile img sl)) f

/-- The state after a firing on burst headers: one event takes the tokens of `ports` and writes `out` to every result arc. The dealing to copies does not
move on, and no flag joins `numst` (R34, R60). -/
def headerTo (s : State) (e : Site) (img : Image) (sl : OpSlot) (hs : List (Nat × Token × Tag)) (ports : List Nat) (out : Option Token) : State :=
  let outs := match out with
    | some t => [(allTargets, t)]
    | none => []
  orNumst (putImage s e.tp.key ((img.setSlot e sl).fire e ports outs (tagOf hs))) (img.tpKey (turnTile img sl)) Flags.none

/-- The state after a firing that traps: its tokens stay, the element of its copy stops, and the unit is faulted with a record (R44, R331). -/
def trappedAt (s : State) (e : Site) (img : Image) (sl : OpSlot) (hs : List (Nat × Token × Tag)) (cause : BitVec 16) (val : Word) : State :=
  let s1 := putImage s e.tp.key (img.setSlot e (sl.stop sl.turn))
  fabricTrap s1 e (turnAt s1 e) cause val (hs.map fun h => h.2.1)

/-- An operator that fires on plain tokens, with room on its result arcs, emits the token that `g` makes of the tokens at its ports a, b and c,
and sets its flags. -/
def FiresAs (o : Opc) (i : Site → Instr) (g : OpWord → Token → Token → Token → Token × Flags) : Prop :=
  ∀ s e img sl hs, Ready s o e img sl hs → Plain hs → img.hasRoom e allTargets = true →
    let r := g sl.word (tokenAt sl.word hs 0) (tokenAt sl.word hs 1) (tokenAt sl.word hs 2)
    exec (i e) s = .next (settle (firedTo s e img sl hs sl (some r.1) r.2))

/-- The token and flags of a lane function: each lane that is valid at every used port is computed apart, and the flags join (R13, R51, R143). -/
def lanewise (ports : Nat) (cls : TokClass) (f : Lane → Lane → Lane → Lane × Flags) (a b c : Token) : Token × Flags :=
  let m := a.mask &&& (if 2 ≤ ports then b.mask else 0xFFFF) &&& (if 3 ≤ ports then c.mask else 0xFFFF)
  (Token.make (fun k => (f (a.lane k) (b.lane k) (c.lane k)).1) m cls, flagsOf (fun k => (f (a.lane k) (b.lane k) (c.lane k)).2) m)

/-- `FiresAs` for a lane function without flags. -/
def FiresLanes (o : Opc) (i : Site → Instr) (ports : Nat) (cls : TokClass) (f : OpWord → Lane → Lane → Lane → Lane) : Prop :=
  FiresAs o i fun w => lanewise ports cls fun a b c => (f w a b c, Flags.none)

/-- `FiresAs` for a lane function of FW40 words with flags. -/
def FiresFw (o : Opc) (i : Site → Instr) (ports : Nat) (f : OpWord → Lane → Lane → Lane → Lane × Flags) : Prop :=
  FiresAs o i fun w => lanewise ports .data (f w)

/-- The number that a finite FW40 word stands for, in units of 2^−1080: every finite word and every product of two is a whole number of them. -/
def fwUnits (x : Lane) : Int :=
  match fwUnpack x with
  | .num s m e => if s then -((m * 2 ^ (e + 1080).toNat : Nat) : Int) else ((m * 2 ^ (e + 1080).toNat : Nat) : Int)
  | _ => 0

/-- Is an FW40 word a finite number? -/
def fwFinite (x : Lane) : Bool :=
  match fwUnpack x with
  | .num _ _ _ => true
  | _ => false

/-- The word `r` and its flags are the number `v / 2^d`, not 0 and in units of 2^−1080, rounded once to the nearest FW40 number, a tie to the one with the
even fraction: infinite from half a unit above the greatest finite number on, and tiny where it lies below the least normal number once rounded to as many bits
(R49, Table 2.4). -/
def RoundsOver (v : Int) (d : Nat) (r : Lane × Flags) : Prop :=
  fwSign r.1 = decide (v < 0) ∧ r.2.nv = false ∧ r.2.dz = false ∧
    (if (2 ^ 31 - 1) * 2 ^ (1561 + d) ≤ v.natAbs then r.1 = fwInf (decide (v < 0)) ∧ r.2.ov = true ∧ r.2.nx = true ∧ r.2.uf = false
     else fwFinite r.1 = true ∧ r.2.ov = false ∧ r.2.nx = decide (fwUnits r.1 * 2 ^ d ≠ v) ∧
       r.2.uf = (decide (v.natAbs < (2 ^ 31 - 1) * 2 ^ (539 + d)) && r.2.nx) ∧
       ∀ y, fwFinite y = true → (fwUnits r.1 * 2 ^ d - v).natAbs ≤ (fwUnits y * 2 ^ d - v).natAbs ∧
         ((fwUnits r.1 * 2 ^ d - v).natAbs = (fwUnits y * 2 ^ d - v).natAbs → fwUnits y ≠ fwUnits r.1 → fwFrac r.1 % 2 = 0))

/-- The word `r` and its flags are the number `v`, in units of 2^−1080, rounded once. -/
def RoundsTo (v : Int) (r : Lane × Flags) : Prop := RoundsOver v 0 r

/-- A meaning that answers the next state `t`, once the kills that the step decides are carried out (R101). -/
def Ends (i : Instr) (s t : State) : Prop := exec i s = .next (settle t)

/-- The sequencer of unit `u`, which executes instructions, offers a command `c` of opcode `o`: its engine's queue has room, none of its flags falls
back, and under SER every earlier command of the unit to that engine has completed (R116, R124, R189). -/
def Offers (s : State) (u : UnitId) (w : WorkUnit) (o : Sopc) (c : Cmd128) : Prop :=
  kget s.units u = some w ∧ w.running = true ∧ Sopc.ofCode (c.extractLsb' 120 8) = some o ∧ queueFull s w.tp.die o.engine = false ∧
    flagFallback o c = (c, {}) ∧ (cmdSer c = true → serMet s s.nextId (.seq u) w.tp.die o.engine = true)

/-- The state after a command that takes effect at its issue: with NTF the unit's `ntfc` counts one more (R192). -/
def noted (t : State) (u : UnitId) (c : Cmd128) : State := if cmdNtf c then notifyUnit t u else t

/-- The state after a command of a unit that has become an operation: it is entered under the next number, and nothing of it is done yet. -/
def entered (s : State) (u : UnitId) (w : WorkUnit) (row : Engine) (c : Cmd128) (b : OpBody) : State :=
  { s with ops := kput s.ops s.nextId ((Ctx.ofUnit u w).op row c b {}), nextId := s.nextId + 1 }

/-- Instance `n` has a next operation: `x`, of the operator slot `sl` of block instance `it` of image `img` of unit `u`. It is not withheld; no
operation waits behind the chain, none of an earlier instance of the thread bars it, and none to the same location is left (R76, R78, R80, R81, R99). -/
def Chosen (s : State) (n : InstId) (it : Inst) (img : Image) (u : UnitId) (w : WorkUnit) (x : MemFire) (sl : OpSlot) : Prop :=
  nextFire s n = some (it, img, u, w, x, sl) ∧ it.outstanding = [] ∧ x.fault = none ∧ barredByEarlier s it img = false ∧ sameLocationLeft s it img sl.word w x = false

/-- The next operation of an instance took data without poison, so that it is performed as what it is (R14, R173). -/
def Issuable (s : State) (n : InstId) (it : Inst) (img : Image) (u : UnitId) (w : WorkUnit) (x : MemFire) (sl : OpSlot) : Prop :=
  Chosen s n it img u w x sl ∧ firstPoison [x.a, x.b, x.c] = none ∧ x.a.cls ≠ .header

/-- Nothing holds an access of `k` bytes back: no window, no mode change (R89, R309). -/
def Clear (s : State) (p : Phys) (k : Nat) : Prop := windowed s none p k = false ∧ tierBusy s p = false

end Sys2Proof.Safety
end

