-- ==== Sys2Proof/WellFormed.lean ====
section
/-! DEFINITION. Which terms of `Instr` stand for an instruction or step that the manual has: places, links, functions and queues in their ranges, commands with
their opcode and form. -/

namespace Sys2Proof

/-- A die (R9). -/
def dieOk (die : Nat) : Bool := decide (die < 4)

/-- A tile-plane: die, tile and plane (R9, R10). -/
def tpOk (tp : Tp) : Bool := dieOk tp.die && decide (tp.tile < 64) && decide (tp.plane < 5)

/-- An operator slot of a block of an image: at most 4,095 blocks with 32 slots, each with up to three copies that fire on their own (R24, R25,
R362, Table 4.3). -/
def opSite (e : Site) : Bool := tpOk e.tp && decide (e.blk < 4095) && !e.rtr && decide (e.slot < 96)

/-- A router of a block. -/
def rtrSite (e : Site) : Bool := tpOk e.tp && decide (e.blk < 4095) && e.rtr && decide (e.slot < 32)

/-- A function: the PF or one of 64 VFs (R278). -/
def fnOk : PcieFn → Bool
  | .pf => true
  | .vf v => decide (v < 64)

/-- A user queue (R282). -/
def queueOk (k : QueueId) : Bool := dieOk k.die && decide (k.q < 1024)

/-- A chain or task queue of a die (R193, R219): 64 of each kind of chain, 16 task queues. -/
def chainOk (k : ChainId) : Bool := dieOk k.die && decide (k.num < match k.kind with | .mxq => 16 | _ => 64)

/-- A sheave stream (R199). -/
def streamOk (k : StreamId) : Bool := dieOk k.die && decide (k.shv < 16) && decide (k.strm < 16)

/-- A BTE channel (R208). -/
def chanOk (k : ChanId) : Bool := dieOk k.die && decide (k.ch < 32)

/-- An issuer of commands (R116). -/
def issuerOk : Issuer → Bool
  | .seq _ => true
  | .chain k e => chainOk k && decide (0 < e)

/-- What a translation may be withheld for (R332). -/
def withheldOk : Withheld → Bool
  | .chain k => chainOk k
  | .seq _ => true
  | .inst _ => true
  | .eng _ => true

/-- A command of an opcode (Table 4.11). -/
def cmdIs (code : BitVec 8) (c : Cmd128) : Bool := c.extractLsb' 120 8 == code

/-- A word of the scalar stream that is no instruction (R120). -/
def isIllegal (w : BitVec 32) : Bool :=
  match decodeWord w with
  | .ok _ => false
  | .bad _ => true

/-- An access within the window of BAR2 (R280). -/
def inBar2 (off len : Nat) : Bool := decide (off + len ≤ 2 ^ 36)

/-- The sizes of the AtomicOps that the device completes (Table 13.1). -/
def atomicSizeOk (op : PcieAtomic) (size : Nat) : Bool :=
  match op with
  | .cas => size == 4 || size == 8 || size == 16
  | _ => size == 4 || size == 8

/-- Is the term an instruction or step of this device? -/
def Instr.wf (i : Instr) : Bool :=
  match i with
  | .add _ _ _ => true
  | .sub _ _ _ => true
  | .and _ _ _ => true
  | .or _ _ _ => true
  | .xor _ _ _ => true
  | .sll _ _ _ => true
  | .srl _ _ _ => true
  | .sra _ _ _ => true
  | .mul _ _ _ => true
  | .mulh _ _ _ => true
  | .div _ _ _ => true
  | .rem _ _ _ => true
  | .slt _ _ _ => true
  | .sltu _ _ _ => true
  | .min _ _ _ => true
  | .max _ _ _ => true
  | .addi _ _ _ => true
  | .andi _ _ _ => true
  | .ori _ _ _ => true
  | .xori _ _ _ => true
  | .slli _ _ _ => true
  | .srli _ _ _ => true
  | .srai _ _ _ => true
  | .lui _ _ => true
  | .ld _ _ _ => true
  | .lw _ _ _ => true
  | .lwu _ _ _ => true
  | .lh _ _ _ => true
  | .lhu _ _ _ => true
  | .lb _ _ _ => true
  | .lbu _ _ _ => true
  | .sd _ _ _ => true
  | .sw _ _ _ => true
  | .sh _ _ _ => true
  | .sb _ _ _ => true
  | .pset _ _ _ _ => true
  | .plog _ fn _ pb => fn != .not || pb == 0
  | .br _ _ _ => true
  | .jal _ _ => true
  | .jalr _ _ _ => true
  | .csrrw _ _ _ => true
  | .csrrs _ _ _ => true
  | .csrrc _ _ _ => true
  | .gset _ _ => true
  | .gget _ _ => true
  | .cfgld _ _ _ => true
  | .cmd _ _ _ => true
  | .launch _ _ => true
  | .launchNb _ _ => true
  | .yield _ => true
  | .waitNtf _ _ => true
  | .waitLvl _ _ => true
  | .waitGeu _ _ _ => true
  | .waitEq _ _ _ => true
  | .trap _ _ => true
  | .eret => true
  | .fence _ => true
  | .endUnit => true
  | .waitingInstructionResume _ => true
  | .waitTimeout _ => true
  | .opAdd e => opSite e
  | .opSub e => opSite e
  | .opAdds e => opSite e
  | .opSubs e => opSite e
  | .opMul e => opSite e
  | .opMulh e => opSite e
  | .opMulhu e => opSite e
  | .opDiv e => opSite e
  | .opDivu e => opSite e
  | .opRem e => opSite e
  | .opRemu e => opSite e
  | .opNeg e => opSite e
  | .opAbs e => opSite e
  | .opMin e => opSite e
  | .opMax e => opSite e
  | .opAnd e => opSite e
  | .opOr e => opSite e
  | .opXor e => opSite e
  | .opAndn e => opSite e
  | .opNot e => opSite e
  | .opShl e => opSite e
  | .opShr e => opSite e
  | .opSar e => opSite e
  | .opRol e => opSite e
  | .opRor e => opSite e
  | .opClz e => opSite e
  | .opPopc e => opSite e
  | .opBext e => opSite e
  | .opBins e => opSite e
  | .opBrev e => opSite e
  | .opBswap e => opSite e
  | .opCeq e => opSite e
  | .opCne e => opSite e
  | .opClt e => opSite e
  | .opCle e => opSite e
  | .opCltu e => opSite e
  | .opCleu e => opSite e
  | .opFceq e => opSite e
  | .opFclt e => opSite e
  | .opFcle e => opSite e
  | .opFcun e => opSite e
  | .opSel e => opSite e
  | .opMov e => opSite e
  | .opFadd e => opSite e
  | .opFsub e => opSite e
  | .opFmul e => opSite e
  | .opFma e => opSite e
  | .opFms e => opSite e
  | .opFnma e => opSite e
  | .opFnms e => opSite e
  | .opFmin e => opSite e
  | .opFmax e => opSite e
  | .opFabs e => opSite e
  | .opFneg e => opSite e
  | .opFcpsgn e => opSite e
  | .opFrcps e => opSite e
  | .opFrcpi e => opSite e
  | .opFrsqs e => opSite e
  | .opFrsqi e => opSite e
  | .opFexpr e => opSite e
  | .opFexpp e => opSite e
  | .opFlogr e => opSite e
  | .opFlogp e => opSite e
  | .opFsinr e => opSite e
  | .opFsinp e => opSite e
  | .opFclass e => opSite e
  | .opFround e => opSite e
  | .opFscale e => opSite e
  | .opFmant e => opSite e
  | .opFexpo e => opSite e
  | .opLgmul e => opSite e
  | .opLgsum e => opSite e
  | .opLgenc e => opSite e
  | .opBsapply e => opSite e
  | .opBsfind e => opSite e
  | .opBshdr e => opSite e
  | .opBsstrip e => opSite e
  | .opAmaxr e => opSite e
  | .opCvtfi e => opSite e
  | .opCvtif e => opSite e
  | .opCvtfr e => opSite e
  | .opCvtsat e => opSite e
  | .opLfld e => opSite e
  | .opLfst e => opSite e
  | .opLfldi e => opSite e
  | .opLfsti e => opSite e
  | .opPerm e => opSite e
  | .opPermi e => opSite e
  | .opBcast e => opSite e
  | .opLsum e => opSite e
  | .opSteer e => rtrSite e
  | .opMergeOrd e => rtrSite e
  | .opMergeArr e => rtrSite e
  | .opCarry e => rtrSite e
  | .opJoin e => opSite e
  | .opGate e => opSite e
  | .opSink e => opSite e
  | .opCtok e => opSite e
  | .opConst e => opSite e
  | .opIota e => opSite e
  | .opVld e => opSite e
  | .opVst e => opSite e
  | .opMemnop e => opSite e
  | .opLdfe e => opSite e
  | .opVldx e => opSite e
  | .opVstx e => opSite e
  | .opApst e => opSite e
  | .opFence e => opSite e
  | .opMonwait e => opSite e
  | .opRedFx e => opSite e
  | .opAmoAdd e => opSite e
  | .opAmoAnd e => opSite e
  | .opAmoOr e => opSite e
  | .opAmoXor e => opSite e
  | .opAmoMin e => opSite e
  | .opAmoMax e => opSite e
  | .opAmoMinu e => opSite e
  | .opAmoMaxu e => opSite e
  | .opAmoSwap e => opSite e
  | .opAmoCas e => opSite e
  | .opAmoFadd e => opSite e
  | .opVote3 e => opSite e
  | .opCsumRow e => opSite e
  | .opCsumCol e => opSite e
  | .opCsumChk e => opSite e
  | .opEmit e => opSite e
  | .opTbread e => opSite e
  | .opChkr e => opSite e
  | .emitAck e => opSite e
  | .waveIssue _ => true
  | .blockCommit _ => true
  | .monwaitTimeout _ => true
  | .faultedUnitEnd _ => true
  | .snop iss c => issuerOk iss && cmdIs 0x00 c
  | .sync iss c => issuerOk iss && cmdIs 0x01 c
  | .syncWrite _ => true
  | .fxregion iss c => issuerOk iss && cmdIs 0x02 c
  | .aprLoad iss c => issuerOk iss && cmdIs 0x10 c
  | .aprStore iss c => issuerOk iss && cmdIs 0x11 c
  | .aprDim iss c => issuerOk iss && cmdIs 0x12 c
  | .aprPad iss c => issuerOk iss && cmdIs 0x13 c
  | .aprEnd iss c => issuerOk iss && cmdIs 0x14 c
  | .sheaveRecordStart k => streamOk k
  | .sheaveLoadEmit k => streamOk k
  | .sheaveStoreFill k => streamOk k
  | .cptDef iss c => issuerOk iss && cmdIs 0x20 c
  | .cptDim iss c => issuerOk iss && cmdIs 0x21 c
  | .cptGo iss c => issuerOk iss && cmdIs 0x22 c
  | .cptCancel iss c => issuerOk iss && cmdIs 0x23 c
  | .mcPermit iss c => issuerOk iss && cmdIs 0x24 c
  | .permitPortToken tp port => tpOk tp && decide (port < 4095)
  | .bteLanding k _ => chanOk k
  | .gathRow iss c => issuerOk iss && cmdIs 0x30 c
  | .gathRed iss c => issuerOk iss && cmdIs 0x31 c
  | .gathIdxList iss c => issuerOk iss && cmdIs 0x32 c && !c.getLsbD 112
  | .gathIdxBag iss c => issuerOk iss && cmdIs 0x32 c && c.getLsbD 112
  | .gathChainBind iss c => issuerOk iss && cmdIs 0x33 c && !c.getLsbD 105
  | .gathChainUnbind iss c => issuerOk iss && cmdIs 0x33 c && c.getLsbD 105
  | .gathTail iss c => issuerOk iss && cmdIs 0x34 c
  | .greRow _ _ => true
  | .qntBlk iss c => issuerOk iss && cmdIs 0x40 c
  | .qntDq iss c => issuerOk iss && cmdIs 0x41 c
  | .qntChainBind iss c => issuerOk iss && cmdIs 0x42 c && !c.getLsbD 105
  | .qntChainUnbind iss c => issuerOk iss && cmdIs 0x42 c && c.getLsbD 105
  | .qntTail iss c => issuerOk iss && cmdIs 0x43 c
  | .qeBlock _ => true
  | .mxtask iss c => issuerOk iss && cmdIs 0x50 c
  | .mxqSetBind iss c => issuerOk iss && cmdIs 0x51 c && (!c.getLsbD 112 && !c.getLsbD 91)
  | .mxqSetUnbind iss c => issuerOk iss && cmdIs 0x51 c && (!c.getLsbD 112 && c.getLsbD 91)
  | .mxqSetTail iss c => issuerOk iss && cmdIs 0x51 c && c.getLsbD 112
  | .ldstat iss c => issuerOk iss && cmdIs 0x52 c
  | .ldstatComplete die mxe => dieOk die && decide (mxe < 16)
  | .mxswap iss c => issuerOk iss && cmdIs 0x53 c
  | .mxswapExchange die mxe => dieOk die && decide (mxe < 16)
  | .mxeTaskStart _ mxe => decide (mxe < 16)
  | .mxeTaskEnd _ => true
  | .nmcSgd iss c => issuerOk iss && cmdIs 0x60 c
  | .nmcDecay iss c => issuerOk iss && cmdIs 0x61 c
  | .nmcRed iss c => issuerOk iss && cmdIs 0x62 c
  | .nmcChainBind iss c => issuerOk iss && cmdIs 0x63 c && !c.getLsbD 105
  | .nmcChainUnbind iss c => issuerOk iss && cmdIs 0x63 c && c.getLsbD 105
  | .nmcTail iss c => issuerOk iss && cmdIs 0x64 c
  | .nmcElementUpdate _ _ => true
  | .deadSet iss c => issuerOk iss && cmdIs 0x70 c
  | .deadClr iss c => issuerOk iss && cmdIs 0x71 c
  | .emitJnl iss c => issuerOk iss && cmdIs 0x80 c
  | .emitSeq iss c => issuerOk iss && cmdIs 0x81 c
  | .chainTailPoll k => chainOk k
  | .chainDoorbell k => chainOk k
  | .chainEntryStart k => chainOk k
  | .chainEntryFinish _ => true
  | .engineOpComplete _ => true
  | .hostBar2Write off bytes => !bytes.isEmpty && inBar2 off bytes.length
  | .hostBar2Read off len => decide (0 < len) && inBar2 off len
  | .peerBar2Write off bytes _ => !bytes.isEmpty && inBar2 off bytes.length
  | .hostAtomicop off size op _ _ => atomicSizeOk op size && off % size == 0 && inBar2 off size
  | .registerWrite f off _ => fnOk f && off % 8 == 0
  | .drst _ => true
  | .perst => true
  | .pfFlr => true
  | .vfFlr vf => decide (vf < 64)
  | .standbyPowerUp => true
  | .mbdb f => fnOk f
  | .qcreate f => fnOk f
  | .qdestroy f => fnOk f
  | .jobopen f => fnOk f
  | .jobclose f => fnOk f
  | .phasebnd f => fnOk f
  | .grant f => fnOk f
  | .revoke f => fnOk f
  | .ctmode f => fnOk f
  | .ctmodeComplete stack => decide (stack < 8)
  | .share f => fnOk f
  | .resync f => fnOk f
  | .fwupdFirmware f => fnOk f
  | .fwupdFabricOut f => fnOk f
  | .fwupdFabricIn f => fnOk f
  | .fwupdSailOut f => fnOk f
  | .fwupdSailIn f => fnOk f
  | .fwupdLinkOut f => fnOk f
  | .fwupdLinkIn f => fnOk f
  | .fwupdPowerClass f => fnOk f
  | .getVersion => true
  | .getCapabilities => true
  | .negotiateAlgorithms _ _ => true
  | .getDigests => true
  | .getCertificate _ _ _ => true
  | .challenge _ _ => true
  | .getMeasurements _ => true
  | .atsInvalidation _ va len => decide (va + len ≤ 2 ^ 57)
  | .notify k _ => queueOk k
  | .packetAccept k => queueOk k
  | .cancel k _ => queueOk k
  | .lqry k _ => queueOk k
  | .bindRecord die _ => dieOk die
  | .unitComplete _ => true
  | .preemptRequest _ _ => true
  | .preemptDeadline _ => true
  | .unitSaveComplete _ => true
  | .unitRestore _ tp => tpOk tp
  | .frameEntryEnd die => dieOk die
  | .gangReadySend die => dieOk die
  | .gangReadyReceive die _ => dieOk die
  | .gangGraceExpiry die => dieOk die
  | .gangGoReceive die => dieOk die
  | .gangSkipReceive die => dieOk die
  | .gangDecisionTimeout die => dieOk die
  | .wdcfgWrite k _ => queueOk k
  | .wdctlKick k => queueOk k
  | .wdctlPartitionReset k => queueOk k
  | .watchdogExpiry k => queueOk k
  | .partitionResetDone k => queueOk k
  | .xlatRewalk w => withheldOk w
  | .ahaltWrite die _ => dieOk die
  | .bperExpiry => true
  | .boundaryStart => true
  | .boundaryInstant => true
  | .fullCheckpointDone => true
  | .rollback _ => true
  | .scrub _ => true
  | .elementReplay e _ => opSite e
  | .fatalError cause _ => cause == 3 || cause == 5
  | .thermalLimit die => dieOk die
  | .thermalTrip die _ => dieOk die
  | .flitCrcFail link => decide (link < 16)
  | .linkTrainingLoss link => decide (link < 16)
  | .lnkctlRateWrite link _ => decide (link < 16)
  | .lnkctlRetrain link => decide (link < 28)
  | .linkRetrainDone link _ => decide (link < 28)
  | .halyardFrameCrcFail port => decide (port < 12)
  | .halyardDown port => decide (port < 12)
  | .journalLostExpiry die j => dieOk die && decide (j < 16)
  | .journalEntryReceive _ _ _ _ => true
  | .journalEndRecord _ _ => true
  | .journalTruncate _ _ => true
  | .illegalInstruction w => isIllegal w
  | .journalAckReceive die j _ _ => dieOk die && decide (j < 16)
  | .halyardRemoteAccess port _ => decide (port < 12)
  | .doeDiscovery _ => true
  | .mxeResidueFail die mxe => dieOk die && decide (mxe < 16)
  | .thermalLimitEnd die => dieOk die

end Sys2Proof
end

