-- ==== Sys2Proof/Certificates/Slice0/Obligations.lean ====
section
/-! DEFINITION. The statements of this row for the provers, one definition each: what the docstring says, in Lean. -/

open Sys2Proof Sys2Proof.Machine Sys2Proof.Safety

/-- The sixteen format-R instructions compute Table 9.3 and do nothing else (R237). -/
def Obligations.RegisterArithmetic : Prop :=
  ∀ rd rs1 rs2 : Reg,
    Computes2 (encR 0x01 rd rs1 rs2 0) (.add rd rs1 rs2) rd rs1 rs2 (fun a b => BitVec.ofNat 64 (a.toNat + b.toNat)) ∧
    Computes2 (encR 0x02 rd rs1 rs2 0) (.sub rd rs1 rs2) rd rs1 rs2 (fun a b => BitVec.ofInt 64 (a.toInt - b.toInt)) ∧
    Computes2 (encR 0x03 rd rs1 rs2 0) (.and rd rs1 rs2) rd rs1 rs2 (fun a b => a &&& b) ∧
    Computes2 (encR 0x04 rd rs1 rs2 0) (.or rd rs1 rs2) rd rs1 rs2 (fun a b => a ||| b) ∧
    Computes2 (encR 0x05 rd rs1 rs2 0) (.xor rd rs1 rs2) rd rs1 rs2 (fun a b => a ^^^ b) ∧
    Computes2 (encR 0x06 rd rs1 rs2 0) (.sll rd rs1 rs2) rd rs1 rs2 (fun a b => BitVec.ofNat 64 (a.toNat * 2 ^ (b.toNat % 64))) ∧
    Computes2 (encR 0x07 rd rs1 rs2 0) (.srl rd rs1 rs2) rd rs1 rs2 (fun a b => BitVec.ofNat 64 (a.toNat / 2 ^ (b.toNat % 64))) ∧
    Computes2 (encR 0x08 rd rs1 rs2 0) (.sra rd rs1 rs2) rd rs1 rs2 (fun a b => BitVec.ofInt 64 (a.toInt / 2 ^ (b.toNat % 64))) ∧
    Computes2 (encR 0x09 rd rs1 rs2 0) (.mul rd rs1 rs2) rd rs1 rs2 (fun a b => BitVec.ofInt 64 (a.toInt * b.toInt)) ∧
    Computes2 (encR 0x0A rd rs1 rs2 0) (.mulh rd rs1 rs2) rd rs1 rs2 (fun a b => BitVec.ofInt 64 (a.toInt * b.toInt / 2 ^ 64)) ∧
    Computes2 (encR 0x0B rd rs1 rs2 0) (.div rd rs1 rs2) rd rs1 rs2 (fun a b => if b = 0 then BitVec.ofInt 64 (-1) else BitVec.ofInt 64 (a.toInt.tdiv b.toInt)) ∧
    Computes2 (encR 0x0C rd rs1 rs2 0) (.rem rd rs1 rs2) rd rs1 rs2 (fun a b => if b = 0 then a else BitVec.ofInt 64 (a.toInt - b.toInt * a.toInt.tdiv b.toInt)) ∧
    Computes2 (encR 0x0D rd rs1 rs2 0) (.slt rd rs1 rs2) rd rs1 rs2 (fun a b => if a.toInt < b.toInt then 1 else 0) ∧
    Computes2 (encR 0x0E rd rs1 rs2 0) (.sltu rd rs1 rs2) rd rs1 rs2 (fun a b => if a.toNat < b.toNat then 1 else 0) ∧
    Computes2 (encR 0x0F rd rs1 rs2 0) (.min rd rs1 rs2) rd rs1 rs2 (fun a b => if a.toInt < b.toInt then a else b) ∧
    Computes2 (encR 0x10 rd rs1 rs2 0) (.max rd rs1 rs2) rd rs1 rs2 (fun a b => if a.toInt < b.toInt then b else a)

/-- The format-I arithmetic instructions and `lui` compute R238 and do nothing else (R238). -/
def Obligations.ImmediateArithmetic : Prop :=
  (∀ (rd rs1 : Reg) (imm : BitVec 15),
    Computes1 (encI 0x11 rd rs1 imm) (.addi rd rs1 imm) rd rs1 (fun a => BitVec.ofInt 64 (a.toInt + imm.toInt)) ∧
    Computes1 (encI 0x12 rd rs1 imm) (.andi rd rs1 imm) rd rs1 (fun a => a &&& BitVec.ofInt 64 imm.toInt) ∧
    Computes1 (encI 0x13 rd rs1 imm) (.ori rd rs1 imm) rd rs1 (fun a => a ||| BitVec.ofInt 64 imm.toInt) ∧
    Computes1 (encI 0x14 rd rs1 imm) (.xori rd rs1 imm) rd rs1 (fun a => a ^^^ BitVec.ofInt 64 imm.toInt)) ∧
  (∀ (rd rs1 : Reg) (imm : BitVec 6),
    Computes1 (encShift 0x15 rd rs1 imm) (.slli rd rs1 imm) rd rs1 (fun a => BitVec.ofNat 64 (a.toNat * 2 ^ imm.toNat)) ∧
    Computes1 (encShift 0x16 rd rs1 imm) (.srli rd rs1 imm) rd rs1 (fun a => BitVec.ofNat 64 (a.toNat / 2 ^ imm.toNat)) ∧
    Computes1 (encShift 0x17 rd rs1 imm) (.srai rd rs1 imm) rd rs1 (fun a => BitVec.ofInt 64 (a.toInt / 2 ^ imm.toNat))) ∧
  (∀ (rd rs1 : Reg) (imm : BitVec 15), 64 ≤ imm.toNat →
    decodeWord (encI 0x15 rd rs1 imm) = .bad .zeroField ∧ decodeWord (encI 0x16 rd rs1 imm) = .bad .zeroField ∧
      decodeWord (encI 0x17 rd rs1 imm) = .bad .zeroField) ∧
  ∀ (rd : Reg) (imm : BitVec 20), Computes (encU 0x18 rd imm) (.lui rd imm) rd fun _ => BitVec.ofInt 64 (imm.toInt * 2 ^ 15)

/-- Register s0 reads zero and discards writes; every other register holds what was written last (R119, R231). -/
def Obligations.RegisterFile : Prop :=
  ∀ (w : WorkUnit) (r q : Reg) (v : Word),
    w.reg 0 = 0 ∧ w.setReg 0 v = w ∧ (r ≠ 0 → (w.setReg r v).reg r = v) ∧ (q ≠ r → (w.setReg r v).reg q = w.reg q)

/-- `pset` sets the relation and `plog` the function of R239, and nothing else changes (09_scalar_stream_reference.md R239). -/
def Obligations.PredicatesSet : Prop :=
  (∀ s u w (pd : Pred) (c : Cond) (rs1 rs2 : Reg), Acts s u w →
    ∃ w1 : WorkUnit, exec (.pset pd c rs1 rs2) s = .next (putUnit s u { w with preds := w1.preds, pc := w.pc + 4 }) ∧
      (∀ q, q ≠ pd → w1.pred q = w.pred q) ∧
      (w1.pred pd = true ↔
        match c with
        | .eq => w.reg rs1 = w.reg rs2
        | .ne => w.reg rs1 ≠ w.reg rs2
        | .lt => (w.reg rs1).toInt < (w.reg rs2).toInt
        | .ge => (w.reg rs2).toInt ≤ (w.reg rs1).toInt
        | .ltu => (w.reg rs1).toNat < (w.reg rs2).toNat
        | .geu => (w.reg rs2).toNat ≤ (w.reg rs1).toNat)) ∧
  (∀ s u w (pd pa pb : Pred) (f : LogFn), Acts s u w →
    ∃ w1 : WorkUnit, exec (.plog pd f pa pb) s = .next (putUnit s u { w with preds := w1.preds, pc := w.pc + 4 }) ∧
      (∀ q, q ≠ pd → w1.pred q = w.pred q) ∧
      (w1.pred pd = true ↔
        match f with
        | .and => w.pred pa = true ∧ w.pred pb = true
        | .or => w.pred pa = true ∨ w.pred pb = true
        | .xor => ¬ (w.pred pa = w.pred pb)
        | .andn => w.pred pa = true ∧ w.pred pb = false
        | .not => w.pred pa = false)) ∧
  (∀ (pd : Pred) (c : BitVec 3) (rs1 rs2 : Reg), 6 ≤ c.toNat → decodeWord (encP pd c rs1 rs2) = .bad .badCond) ∧
  (∀ (pd pa pb : Pred) (f : BitVec 3), 5 ≤ f.toNat → decodeWord (encL pd pa pb f) = .bad .badFn) ∧
  ∀ pd pa pb : Pred, pb ≠ 0 → decodeWord (encL pd pa pb 4) = .bad .zeroField

/-- `gset` writes a plane seed register and `gget` reads it (R243). -/
def Obligations.SeedRegisters : Prop :=
  (∀ (rs : Reg) (g : SeedReg), decodeWord (encG 0x44 rs g) = .ok (.gset rs g) ∧
    ∀ s u w, Acts s u w →
      ∃ w1 : WorkUnit, exec (.gset rs g) s = .next (putUnit s u { w with seeds := w1.seeds, pc := w.pc + 4 }) ∧
        w1.seed g = w.reg rs ∧ ∀ q, q ≠ g → w1.seed q = w.seed q) ∧
  (∀ (rs : Reg) (g : SeedReg), Computes (encG 0x45 rs g) (.gget rs g) rs fun w => w.seed g) ∧
  decodeWord 0x88730000 = .ok (.gset 7 3)

/-- Taken branches, `jal` and `jalr` go to aligned targets and write the link, trap at others; a branch not taken goes on
(09_scalar_stream_reference.md R240, R256, 01_execution_model.md, 04_encodings_and_opcode_maps.md R121, R122). -/
def Obligations.Branches : Prop :=
  ∀ s u w, Acts s u w →
    let link : Word := BitVec.ofNat 64 ((w.pc.toNat / 64 * 64 + 64) % 2 ^ 57)
    let far (off : Int) : BitVec 57 := BitVec.ofInt 57 (w.pc.toNat + 4 * off)
    let trapped (target : BitVec 57) (i : Instr) : Res := .next (settle (trapSeq s u w w.pc 3 (target.setWidth 64) (wordOfInstr i) 0))
    (∀ (p : Pred) (neg : Bool) (off : BitVec 21), (w.pred p ^^ neg) = true → (far off.toInt).toNat % 64 = 0 →
      exec (.br p neg off) s = .next (putUnit s u { w with pc := far off.toInt, fblock := none })) ∧
    (∀ (p : Pred) (neg : Bool) (off : BitVec 21), (w.pred p ^^ neg) = false →
      exec (.br p neg off) s = .next (putUnit s u { w with pc := w.pc + 4 })) ∧
    (∀ (rd : Reg) (off : BitVec 20), (far off.toInt).toNat % 64 = 0 →
      exec (.jal rd off) s = .next (putUnit s u { w.setReg rd link with pc := far off.toInt, fblock := none })) ∧
    (∀ (rd rs1 : Reg) (imm : BitVec 15),
      let target : BitVec 57 := BitVec.ofInt 57 ((w.reg rs1).toNat + imm.toInt)
      target.toNat % 64 = 0 →
      exec (.jalr rd rs1 imm) s = .next (putUnit s u { w.setReg rd link with pc := target, fblock := none })) ∧
    (∀ (p : Pred) (neg : Bool) (off : BitVec 21), (w.pred p ^^ neg) = true → (far off.toInt).toNat % 64 ≠ 0 →
      exec (.br p neg off) s = trapped (far off.toInt) (.br p neg off)) ∧
    (∀ (rd : Reg) (off : BitVec 20), (far off.toInt).toNat % 64 ≠ 0 → exec (.jal rd off) s = trapped (far off.toInt) (.jal rd off)) ∧
    ∀ (rd rs1 : Reg) (imm : BitVec 15),
      let target : BitVec 57 := BitVec.ofInt 57 ((w.reg rs1).toNat + imm.toInt)
      target.toNat % 64 ≠ 0 → exec (.jalr rd rs1 imm) s = trapped target (.jalr rd rs1 imm)

/-- A trap of a sequencer enters its handler, or ends the unit faulted with a fault record (09_scalar_stream_reference.md R256,
14_preemption_faults_translation.md R327, R329, 13_host_queues_and_launch.md R307). -/
def Obligations.TrapTaken : Prop :=
  ∀ (s : State) (u : UnitId) (w : WorkUnit) (resume : BitVec 57) (cause : BitVec 16) (val val2 : Word) (word : BitVec 32),
    let s1 : State := { s with watches := kdel s.watches (2 * u) }
    trapSeq s u w resume cause val word val2 =
      if w.hmode = false ∧ w.hvecEn = true then
        putUnit s1 u { w with hepc := resume, hcause := cause, hval := val, hmode := true, pc := w.hvecVec ++ (0 : BitVec 6), fblock := none,
                              seq := .run, held := none, winWait := [], poisoned := false }
      else
        recordSeq (launchFaults (putUnit s1 u { w with seq := .dead, held := none, faulted := true, cause := if w.faulted then w.cause else cause,
                                                       winWait := [], poisoned := false }) w cause)
          w cause word (if cause = 0x20 then 0x21 else val) val2

/-- `trap`, an illegal instruction, `eret` in unit mode and CSRs out of reach take their traps (09_scalar_stream_reference.md R234, R253, R254, R256,
04_encodings_and_opcode_maps.md R119, R120). -/
def Obligations.TrapsRaised : Prop :=
  ∀ s u w, Acts s u w →
    (∀ (rs1 : Reg) (code : BitVec 10),
      exec (.trap rs1 code) s = .next (settle (trapSeq s u w (w.pc + 4) 4 (w.reg rs1) (encR 0x56 0 rs1 0 code) (code.setWidth 64)))) ∧
    (∀ x : BitVec 32, exec (.illegalInstruction x) s = .next (settle (trapSeq s u w w.pc 1 (x.setWidth 64) x 0))) ∧
    (w.hmode = false → exec .eret s = .next (settle (trapSeq s u w w.pc 2 0xAE000000 0xAE000000 0))) ∧
    ∀ (rd rs1 : Reg) (n : BitVec 12),
      let trapped (cause : BitVec 16) (x : BitVec 32) : Res := .next (settle (trapSeq s u w w.pc cause (x.setWidth 64) x 0))
      (csrRead s w n = none →
        exec (.csrrw rd rs1 n) s = trapped 1 (encC 0x40 rd rs1 n) ∧ exec (.csrrs rd rs1 n) s = trapped 1 (encC 0x41 rd rs1 n) ∧
          exec (.csrrc rd rs1 n) s = trapped 1 (encC 0x42 rd rs1 n)) ∧
      (csrRead s w n ≠ none → 0x100 ≤ n.toNat → n.toNat < 0x200 → w.hmode = false →
        exec (.csrrw rd rs1 n) s = trapped 2 (encC 0x40 rd rs1 n) ∧ exec (.csrrs rd rs1 n) s = trapped 2 (encC 0x41 rd rs1 n) ∧
          exec (.csrrc rd rs1 n) s = trapped 2 (encC 0x42 rd rs1 n))

/-- The CSRs of Table 9.1; `csrrw`, `csrrs` and `csrrc` read one and write it field by field by its access codes (09_scalar_stream_reference.md R234,
R235, R236). -/
def Obligations.CsrAccess : Prop :=
  (∀ (s : State) (w : WorkUnit),
    csrRead s w 0x000 = some s.tb ∧ csrRead s w 0x002 = some w.unitWord ∧
    csrRead s w 0x010 = some ((dget TpRegs.initial s.tps w.tp.key).numst.setWidth 64) ∧
    csrRead s w 0x011 = some (dget TpRegs.initial s.tps w.tp.key).warnWord ∧
    csrRead s w 0x012 = some (dget TpRegs.initial s.tps w.tp.key).vrecWord ∧
    csrRead s w 0x020 = some w.ntfc ∧ csrRead s w 0x021 = some (w.wto.setWidth 64) ∧ csrRead s w 0x030 = some (prqWord s w) ∧
    csrRead s w 0x100 = some w.hvecWord ∧ csrRead s w 0x101 = some (w.hepc.setWidth 64) ∧ csrRead s w 0x102 = some (w.hcause.setWidth 64) ∧
    csrRead s w 0x103 = some w.hval ∧ csrRead s w 0x104 = some w.hscr ∧
    (∀ ch k : Nat, ch < 32 → k < 3 → csrRead s w (BitVec.ofNat 12 (0x800 + 4 * ch + k)) = some (chanReg s w.tp.die ch k)) ∧
    ∀ n : BitVec 12, csrRead s w n = none ↔
      ¬ (n.toNat ∈ [0x000, 0x002, 0x010, 0x011, 0x012, 0x020, 0x021, 0x030, 0x100, 0x101, 0x102, 0x103, 0x104] ∨
        (0x800 ≤ n.toNat ∧ n.toNat < 0x880 ∧ n.toNat % 4 ≠ 3))) ∧
  ∀ s u w, Acts s u w → ∀ (n : BitVec 12) (old : Word), csrRead s w n = some old → (0x100 ≤ n.toNat → n.toNat < 0x200 → w.hmode = true) →
    let goes (m : CsrOp) (i : Instr) (rd rs1 : Reg) : Prop :=
        (rs1 = 0 ∧ m ≠ .rw → exec i s = .next (putUnit s u (w.setReg rd old).advance)) ∧
        (¬ (rs1 = 0 ∧ m ≠ .rw) →
          let x : Word := w.reg rs1
          let v : Word := match m with | .rw => x | .rs => old ||| x | .rc => old &&& ~~~x
          let clr : Word := match m with | .rc => 0 | _ => x
          let r : TpRegs := dget TpRegs.initial s.tps w.tp.key
          let own (r1 : TpRegs) : State := { s with tps := dset TpRegs.initial s.tps w.tp.key r1 }
          let left : BitVec 7 := r.warn &&& ~~~(clr.setWidth 7)
          let out (s1 : State) (w1 : WorkUnit) : Prop := exec i s = .next (putUnit s1 u (w1.setReg rd old).advance)
          match n.toNat with
          | 0x010 => out (own { r with numst := r.numst &&& ~~~(clr.setWidth 5) }) w
          | 0x011 => out (own { r with warn := left, firstOp := if left = 0 then 0 else r.firstOp, firstLy := if left = 0 then 0 else r.firstLy }) w
          | 0x012 => out (own { r with vcnt := v.extractLsb' 32 16, vv := r.vv && !clr.getLsbD 0 }) w
          | 0x020 => out s { w with ntfc := v }
          | 0x021 => out s { w with wto := v.setWidth 32 }
          | 0x100 => out s { w with hvecVec := v.extractLsb' 6 51, hvecEn := v.getLsbD 0 }
          | 0x101 => out s { w with hepc := v.setWidth 57 }
          | 0x104 => out s { w with hscr := v }
          | _ => out s w)
    ∀ rd rs1 : Reg, goes .rw (.csrrw rd rs1 n) rd rs1 ∧ goes .rs (.csrrs rd rs1 n) rd rs1 ∧ goes .rc (.csrrc rd rs1 n) rd rs1

/-- The loads read 8, 4, 2 or 1 bytes at s[rs1] + sext(imm15), extend them, and change no memory (09_scalar_stream_reference.md R241, R242,
03_memory_model.md R70, R89). -/
def Obligations.LoadsRead : Prop :=
  ∀ s u w, Acts s u w → ∀ (rd rs1 : Reg) (imm : BitVec 15) (p : Phys),
    let va : Nat := (BitVec.ofInt 57 ((w.reg rs1).toNat + imm.toInt)).toNat
    let reads (i : Instr) (n : Nat) (value : Nat → Word) : Prop :=
      va % n = 0 → w.poisoned = false → place s w.asid va n .read = .ok p → windowed s none p n = false → tierBusy s p = false →
        exec i s = .next (putUnit s u ({ w with winWait := [] }.setReg rd (value (leNat (readPhys s w.tp.die p n)))).advance)
    let waits (i : Instr) (n : Nat) : Prop :=
      va % n = 0 → w.poisoned = false → place s w.asid va n .read = .ok p → (windowed s none p n || tierBusy s p) = true →
        exec i s = .next (putUnit s u { w with winWait := if windowed s none p n then [(p, n)] else [] })
    reads (.ld rd rs1 imm) 8 (fun v => BitVec.ofNat 64 v) ∧ waits (.ld rd rs1 imm) 8 ∧
    reads (.lw rd rs1 imm) 4 (fun v => BitVec.ofInt 64 (BitVec.ofNat 32 v).toInt) ∧ waits (.lw rd rs1 imm) 4 ∧
    reads (.lwu rd rs1 imm) 4 (fun v => BitVec.ofNat 64 v) ∧ waits (.lwu rd rs1 imm) 4 ∧
    reads (.lh rd rs1 imm) 2 (fun v => BitVec.ofInt 64 (BitVec.ofNat 16 v).toInt) ∧ waits (.lh rd rs1 imm) 2 ∧
    reads (.lhu rd rs1 imm) 2 (fun v => BitVec.ofNat 64 v) ∧ waits (.lhu rd rs1 imm) 2 ∧
    reads (.lb rd rs1 imm) 1 (fun v => BitVec.ofInt 64 (BitVec.ofNat 8 v).toInt) ∧ waits (.lb rd rs1 imm) 1 ∧
    reads (.lbu rd rs1 imm) 1 (fun v => BitVec.ofNat 64 v) ∧ waits (.lbu rd rs1 imm) 1

/-- The stores write the low 8, 4, 2 or 1 bytes of s[rs2] at s[rs1] + sext(imm15) and no other byte (09_scalar_stream_reference.md R241, R242,
14_preemption_faults_translation.md R338). -/
def Obligations.StoresWrite : Prop :=
  ∀ s u w, Acts s u w → ∀ (rs2 rs1 : Reg) (imm : BitVec 15) (p : Phys),
    let va : Nat := (BitVec.ofInt 57 ((w.reg rs1).toNat + imm.toInt)).toNat
    let byte (k : Nat) : Byte := BitVec.ofNat 8 ((w.reg rs2).toNat / 256 ^ k)
    let at_ (m : KMap Byte) (a n k : Nat) : Byte := if a ≤ k ∧ k < a + n then byte (k - a) else dget 0 m k
    let stores (i : Instr) (n : Nat) : Prop :=
      va % n = 0 → place s w.asid va n .write = .ok p → writeHeld s none p n = false →
        ∃ t, exec i s = .next t ∧ t.units = kput s.units u w.advance ∧
          (match p with
            | .dpa a => (∀ k, dget 0 t.mem k = at_ s.mem a n k) ∧ t.sysMem = s.sysMem
            | .rep a set =>
              (∀ k, (∀ d ∈ diesOf set, k < replicaAddr a d ∨ replicaAddr a d + n ≤ k) → dget 0 t.mem k = dget 0 s.mem k) ∧ t.sysMem = s.sysMem
            | .sys a => t.mem = s.mem ∧ ∀ k, dget 0 t.sysMem k = at_ s.sysMem a n k
            | _ => False) ∧
          t = markExternal (writePhys (putUnit s u w.advance) p (leBytes n (w.reg rs2).toNat)) w.job p
    Memory.wf s.mem = true → Memory.wf s.sysMem = true →
    stores (.sd rs2 rs1 imm) 8 ∧
    stores (.sw rs2 rs1 imm) 4 ∧
    stores (.sh rs2 rs1 imm) 2 ∧
    stores (.sb rs2 rs1 imm) 1

/-- Unaligned accesses raise mem.align, refused ones the cause of their page, poisoned loads data.poison; an xlat fault withholds the access
(09_scalar_stream_reference.md R241, R242, R256, 03_memory_model.md R91, 14_preemption_faults_translation.md R332, R339). -/
def Obligations.AccessTraps : Prop :=
  ∀ s u w, Acts s u w → ∀ (r rs1 : Reg) (imm : BitVec 15),
    let va : Nat := (BitVec.ofInt 57 ((w.reg rs1).toNat + imm.toInt)).toNat
    let trapped (cause : BitVec 16) (i : Instr) : Res := .next (settle (trapSeq s u w w.pc cause (BitVec.ofNat 64 va) (wordOfInstr i) 0))
    let withheld (cause : BitVec 16) (acc : Access) (i : Instr) : Res :=
      .next (settle (recordSeq (putUnit s u { w with held := some { va := va, acc := acc, at_ := s.tb } }) w cause (wordOfInstr i) (BitVec.ofNat 64 va) 0))
    let stops (c : BitVec 16) (acc : Access) (i : Instr) : Prop :=
      (c ≠ 0x13 → c ≠ 0x14 → c ≠ 0x15 → exec i s = trapped c i) ∧ ((c = 0x13 ∨ c = 0x14) → exec i s = withheld c acc i)
    let unaligned (i : Instr) (n : Nat) : Prop := va % n ≠ 0 → exec i s = trapped 0x10 i
    let load (i : Instr) (n : Nat) : Prop :=
      unaligned i n ∧ (va % n = 0 → ∀ d off, translate s w.asid va .read = .ok (.aperture d off) → w.poisoned = false → exec i s = trapped 0x12 i) ∧
        (va % n = 0 → (∀ d g off, translate s w.asid va .read ≠ .ok (.queue d g off)) →
          (w.poisoned = true → exec i s = trapped 0x20 i) ∧
          (w.poisoned = false → ∀ c, translate s w.asid va .read = .bad c → stops c .read i))
    let store (i : Instr) (n : Nat) : Prop :=
      unaligned i n ∧ (va % n = 0 → ∀ d off, translate s w.asid va .write = .ok (.aperture d off) → exec i s = trapped 0x12 i) ∧
        (va % n = 0 → ∀ c, translate s w.asid va .write = .bad c → stops c .write i)
    load (.ld r rs1 imm) 8 ∧
    load (.lw r rs1 imm) 4 ∧
    load (.lwu r rs1 imm) 4 ∧
    load (.lh r rs1 imm) 2 ∧
    load (.lhu r rs1 imm) 2 ∧
    load (.lb r rs1 imm) 1 ∧
    load (.lbu r rs1 imm) 1 ∧
    store (.sd r rs1 imm) 8 ∧
    store (.sw r rs1 imm) 4 ∧
    store (.sh r rs1 imm) 2 ∧
    store (.sb r rs1 imm) 1

/-- `fence` goes on, `eret` returns from the handler, and `end` ends the sequencer (09_scalar_stream_reference.md R252, R254, R255,
04_encodings_and_opcode_maps.md R124, R126). -/
def Obligations.FenceReturnEnd : Prop :=
  ∀ s u w, Acts s u w →
    (∀ sc : BitVec 3, sc.toNat < 5 → exec (.fence sc) s = .next (putUnit s u { w with pc := w.pc + 4 })) ∧
    (∀ sc : BitVec 3, 5 ≤ sc.toNat →
      let r : TpRegs := dget TpRegs.initial s.tps w.tp.key
      let r1 : TpRegs := { r with warn := r.warn ||| 2, firstOp := if r.warn = 0 then 0x58 else r.firstOp,
                                  firstLy := if r.warn = 0 then 3 else r.firstLy }
      exec (.fence sc) s = .next (putUnit { s with tps := dset TpRegs.initial s.tps w.tp.key r1 } u { w with pc := w.pc + 4 })) ∧
    (w.hmode = true → exec .eret s = .next (putUnit s u
      { w with hmode := false, pc := w.hepc.extractLsb' 2 55 ++ (0 : BitVec 2), fblock := none })) ∧
    (w.hmode = false → exec .endUnit s = .next (putUnit s u { w with pc := w.pc + 4, seq := .ended })) ∧
    (w.hmode = true → exec .endUnit s = .next (launchFaults (putUnit s u
      { w with pc := w.pc + 4, seq := .ended, faulted := true, cause := if w.faulted then w.cause else w.hcause }) w w.hcause))

/-- A `wait` whose condition holds ends with its status, at first or on resumption; otherwise its sequencer waits in it (09_scalar_stream_reference.md
R233, R250, Table 9.4). -/
def Obligations.WaitsEvaluate : Prop :=
  ∀ s u w t pk,
    let waits (s1 : State) (i : Instr) : Res := .next (waitsIn s1 u w i t [] [])
    (∀ rd rs1 : Reg,
      let ends (v : Word) : Res := .next (retired s u w rd v)
      ((w.reg rs1).toNat ≤ w.ntfc.toNat → Runs s u w (.waitNtf rd rs1) t pk (ends 0)) ∧
      (w.ntfc.toNat < (w.reg rs1).toNat → Runs s u w (.waitNtf rd rs1) t pk (waits s (.waitNtf rd rs1))) ∧
      (levelOf s w.job (w.reg rs1) = none → Runs s u w (.waitLvl rd rs1) t pk (ends 4)) ∧
      (∀ l, levelOf s w.job (w.reg rs1) = some l → Runs s u w (.waitLvl rd rs1) t pk
        (match (viewLevel s w.job l).status with
        | .done => ends 0
        | .cancelled => ends 2
        | .faulted => ends 3
        | .running => waits s (.waitLvl rd rs1)))) ∧
    ∀ rd rs1 rs2 : Reg,
      let va : Nat := (w.reg rs1).toNat % 2 ^ 57
      let word (i : Instr) (c : BitVec 3) (holds : Word → Prop) : Prop :=
        (va % 8 ≠ 0 → Runs s u w i t pk (.next (settle (trapSeq s u w w.pc 0x10 (BitVec.ofNat 64 va) (wordOfInstr i) 0)))) ∧
        (va % 8 = 0 → waitHit s u = true → Runs s u w i t pk (.next (retired s u w rd 0))) ∧
        (va % 8 = 0 → waitHit s u = false → ∀ (bs : List Byte) (p : Phys), seqRead s w va 8 .read = .ok bs → translate s w.asid va .read = .ok p →
          (holds (wordOf bs) → Runs s u w i t pk (.next (retired s u w rd 0))) ∧
          (¬ holds (wordOf bs) → Runs s u w i t pk
            (waits { s with watches := kput s.watches (2 * u) { p := p, die := w.tp.die, n := 8, cond := c, bits := 64, val := w.reg rs2, hit := none } } i)))
      word (.waitGeu rd rs1 rs2) 5 (fun v => (w.reg rs2).toNat ≤ v.toNat) ∧ word (.waitEq rd rs1 rs2) 0 (fun v => v = w.reg rs2)

/-- At its timeout a `wait` is evaluated once more: it ends as it would have, or with 1 where its condition still fails (09_scalar_stream_reference.md
R233, R250, R257). -/
def Obligations.WaitsResume : Prop :=
  ∀ s u w t i pk, Waits s u w i t pk →
    let due : Prop := w.wto ≠ 0 ∧ w.wto.toNat ≤ (s.tb - t).toNat
    let timesOut (r : Res) : Prop := exec (.waitTimeout u) s = r
    (¬ due → timesOut (.next s)) ∧
    (∀ rd rs1 : Reg,
      let ends (v : Word) : Res := .next (retired s u w rd v)
      (i = .waitNtf rd rs1 →
        ((w.reg rs1).toNat ≤ w.ntfc.toNat → exec (.waitingInstructionResume u) s = ends 0 ∧ (due → timesOut (ends 0))) ∧
        (w.ntfc.toNat < (w.reg rs1).toNat →
          exec (.waitingInstructionResume u) s = .next (waitsIn s u w i t [] []) ∧ (due → timesOut (ends 1)))) ∧
      (i = .waitLvl rd rs1 → due →
        (levelOf s w.job (w.reg rs1) = none → timesOut (ends 4)) ∧
        ∀ l, levelOf s w.job (w.reg rs1) = some l → timesOut
          (match (viewLevel s w.job l).status with
          | .done => ends 0
          | .cancelled => ends 2
          | .faulted => ends 3
          | .running => ends 1))) ∧
    ∀ rd rs1 rs2 : Reg,
      let va : Nat := (w.reg rs1).toNat % 2 ^ 57
      let word (c : BitVec 3) (holds : Word → Prop) : Prop :=
        due → va % 8 = 0 →
          (waitHit s u = true → timesOut (.next (retired s u w rd 0))) ∧
          (waitHit s u = false → ∀ (bs : List Byte) (p : Phys), seqRead s w va 8 .read = .ok bs → translate s w.asid va .read = .ok p →
            let s1 : State := { s with watches := kput s.watches (2 * u) { p := p, die := w.tp.die, n := 8, cond := c, bits := 64, val := w.reg rs2, hit := none } }
            (holds (wordOf bs) → timesOut (.next (retired s u w rd 0))) ∧ (¬ holds (wordOf bs) → timesOut (.next (retired s1 u w rd 1))))
      (i = .waitGeu rd rs1 rs2 → word 5 (fun v => (w.reg rs2).toNat ≤ v.toNat)) ∧ (i = .waitEq rd rs1 rs2 → word 0 (fun v => v = w.reg rs2))

/-- `yield` answers 0 without a request, and with one it begins the save of its whole unit (09_scalar_stream_reference.md R249,
14_preemption_faults_translation.md R310, R311, R312, 01_execution_model.md R32). -/
def Obligations.YieldAnswers : Prop :=
  ∀ s u w (rd : Reg), Acts s u w →
    (w.req = false → exec (.yield rd) s = .next (putUnit s u (w.setReg rd 0).advance)) ∧
    (w.req = true → ∃ t, exec (.yield rd) s = .next t ∧
      kget t.units u = some { w with pc := w.pc + 4, yieldRd := some rd, life := .saving 1 (settleEnded s u).tb, req := false, deadline := 0,
                                     winWait := if w.poisoned then w.winWait else [], feWait := none } ∧
      t.mem = (settleEnded s u).mem ∧ t.sysMem = (settleEnded s u).sysMem ∧ t.full = (settleEnded s u).full ∧
      ((∀ n ∈ s.insts, n.2.unit ≠ u) →
        settleEnded s u = s ∧ ∀ v, v ≠ u → kget t.units v = kget s.units v))

/-- `launch` and `launch.nb` post the packet as R248 lays down and write its code to s[rd] (09_scalar_stream_reference.md R233, R248,
13_host_queues_and_launch.md R300). -/
def Obligations.LaunchPosts : Prop :=
  ∀ s u w (rd rs1 : Reg) t pk,
    let va : Nat := (w.reg rs1).toNat % 2 ^ 57
    let ends (s1 : State) (v : Word) : Res := .next (retired s1 u ((kget s1.units u).getD w) rd v)
    let settled (r : Res) : Res := match r with | .next t => .next (settle t) | r => r
    let nb (r : Res) : Prop := Acts s u w → exec (.launchNb rd rs1) s = r
    let lau (r : Res) : Prop := Runs s u w (.launch rd rs1) t pk r
    (va % 64 ≠ 0 →
      lau (.next (settle (trapSeq s u w w.pc 0x10 (BitVec.ofNat 64 va) (wordOfInstr (.launch rd rs1)) 0))) ∧
      nb (.next (settle (trapSeq s u w w.pc 0x10 (BitVec.ofNat 64 va) (wordOfInstr (.launchNb rd rs1)) 0)))) ∧
    (va % 64 = 0 → kget s.units u = some w → ∀ ws : List Word,
      let p : Packet := packetOf ws
      let l : Launch := { Launch.ofPacket p (.unit u) w.asid (rootOf s (some w.launch)) with srcCpath := w.cpath }
      let mine : Bool := (spillOf s p.die).any fun x => ((kget s.launches x).map fun y => y.src) = some (LaunchSrc.unit u)
      let place : Option Nat := match spareEntry s p.die with
        | some e => some e
        | none => if w.cpath && !mine then freeReserve s p.die else none
      let both (runs : Res → Prop) (full : Res) : Prop :=
        (checkPacket s p (some w.job) (planeRefused p false) ≠ 0 → runs (ends s 3)) ∧
        (checkPacket s p (some w.job) (planeRefused p false) = 0 →
          (∀ e, place = some e → runs (settled (ends (settleLevels (postTo s l e)) 0))) ∧
          (place = none → (spillOf s p.die).length < s.blob.spill →
            runs (settled (ends { (addLaunch s l).1 with spills := kput (addLaunch s l).1.spills p.die (spillOf s p.die ++ [(addLaunch s l).2]) } 1))) ∧
          (place = none → s.blob.spill ≤ (spillOf s p.die).length → runs full))
      (pk = [] ∧ (∃ bs, seqRead s w va 64 .read = .ok bs ∧ ws = wordsOf bs 8) ∨ pk ≠ [] ∧ ws = pk → both lau (.next (waitsIn s u w (.launch rd rs1) t ws []))) ∧
      ((∃ bs, seqRead s w va 64 .read = .ok bs ∧ ws = wordsOf bs 8) → both nb (ends s 2)))

/-- `cmd` issues {s[rs2], s[rs1]} to its engine and writes the issue status to s[rd] (09_scalar_stream_reference.md R233, R247,
08_stream_and_engine_commands.md R189, R190, 12_programs_tensor.md R275, 04_encodings_and_opcode_maps.md R117, R118). -/
def Obligations.CmdIssues : Prop :=
  (∀ s u w (rd rs1 rs2 : Reg) t pk,
    let i : Instr := .cmd rd rs1 rs2
    let c : Cmd128 := w.reg rs2 ++ w.reg rs1
    (∀ n, w.feWait = some n →
      (emptying s n = true → Runs s u w i t pk (.next s)) ∧
      (emptying s n = false → Runs s u w i t pk (.next (retired s u { w with feWait := none } rd 0)))) ∧
    (w.feWait = none →
      (Sopc.ofCode (c.extractLsb' 120 8) = none →
        Runs s u w i t pk (.next (settle (trapSeq s u w w.pc 1 ((encR 0x51 rd rs1 rs2 0).setWidth 64) (encR 0x51 rd rs1 rs2 0) 0)))) ∧
      ∀ o, Sopc.ofCode (c.extractLsb' 120 8) = some o →
        (∀ on, issueCmd o s (Ctx.ofUnit u w) c = .waits on → Runs s u w i t pk (.next (waitsIn s u w i t [] on))) ∧
        ∀ s1 code, issueCmd o s (Ctx.ofUnit u w) c = .st s1 code →
          let w1 : WorkUnit := (kget s1.units u).getD w
          ((cmdFe c = true → code = 0 → emptying s1 s.nextId = false) →
            Runs s u w i t pk (.next (settle (retired s1 u w1 rd (BitVec.ofNat 64 code))))) ∧
          (cmdFe c = true → code = 0 → emptying s1 s.nextId = true → w1.seq = w.seq → s1.tb = s.tb →
            Runs s u w i t pk (.next (waitsIn s1 u { w1 with feWait := some s.nextId } i t [] []))))) ∧
  (∀ x : BitVec 8, (Sopc.ofCode x).isSome = true ↔ ∃ r ∈ [(0x00, 0x02), (0x10, 0x14), (0x20, 0x24), (0x30, 0x34), (0x40, 0x43), (0x50, 0x53), (0x60, 0x64), (0x70, 0x71), (0x80, 0x81)],
    r.1 ≤ x.toNat ∧ x.toNat ≤ r.2) ∧
  ∀ s (k : ChainId) b bs base, (chainOf s k).bound = some b → s.dies.getLsbD k.die = true → b.stopped = false → b.unbinding = none →
    b.fault = none → b.poisoned = false → b.head + 1 ≤ b.tail → b.head + 1 ≤ b.pub + b.nent →
    let mx : Bool := decide (k.kind = .mxq)
    let va : Nat := b.entryVa mx (b.head + 1)
    loadVa s b.asid k.die va (if mx then 64 else 32) none = .ok bs → loadVa s b.asid k.die b.basea 128 none = .ok base →
    let x : Nat := fieldAt bs 15 1
    let s1 : State := modBound s k fun b => { b with stopped := true, fault := none }
    let misplaced (lo hi n : Nat) : Prop := ¬ (lo ≤ x ∧ x ≤ hi) → Ends (.chainEntryStart k) s
      (writeRecord s1 b.job ((rootOf s1 b.launch).or (firstQueue s1 b.job)) { FaultRec.plain 1 3 ((b.launch.map (handleOfLaunch s1)).getD 0) (BitVec.ofNat 64 va) with
        where_ := whereEng k.die n k.num, val2 := BitVec.ofNat 64 va })
    match k.kind with
    | .gre => misplaced 0x30 0x32 2
    | .qe => misplaced 0x40 0x41 3
    | .mxq => misplaced 0x50 0x50 4
    | .nmc => misplaced 0x60 0x62 5

/-- `cfgld` refuses, traps, waits or loads by the steps of R245 (who holds a slot: log entry 35) (09_scalar_stream_reference.md R233, R245, R246,
04_encodings_and_opcode_maps.md R113). -/
def Obligations.CfgldLoads : Prop :=
  ∀ s u w (rd rs1 rs2 : Reg) from_ pk,
    let t : Nat := (w.reg rs2).toNat
    let plane : Nat := t / 64 % 8
    let tile : Nat := 8 * (t / 8 % 8) + t % 8
    let key : Nat := 320 * w.tp.die + 5 * tile + plane
    let sl : Slot := dget Slot.initial s.slots key
    let va : Nat := (w.reg rs1).toNat % 2 ^ 57
    let i : Instr := .cfgld rd rs1 rs2
    let ends (s1 : State) (v : Nat) : Res := .next (retired s1 u w rd (BitVec.ofNat 64 v))
    let runs (r : Res) : Prop := Runs s u w i from_ pk r
    let held : Prop := sl.held = true ∧ sl.asid = w.asid ∧ (plane = 4 → w.hmode = true)
    let free : Prop := sl.bound = true → sl.unit = some u
    (5 ≤ plane → runs (ends s 1)) ∧
    (plane < 5 → ¬ held → runs (.next (settle (trapSeq s u w w.pc 2 ((encR 0x50 rd rs1 rs2 0).setWidth 64) (encR 0x50 rd rs1 rs2 0) 0)))) ∧
    (plane < 5 → held → ¬ free → runs (ends s 13)) ∧
    (plane < 5 → held → free → tpQuiet s key = false → runs (.next (waitsIn s u w i from_ [] []))) ∧
    (plane < 5 → held → free → tpQuiet s key = true → va % 64 ≠ 0 → runs (ends s 1)) ∧
    (plane < 5 → held → free → tpQuiet s key = true → va % 64 = 0 → ∀ h src, seqRead s w va 64 .read = .ok h →
      64 ≤ fieldAt h 8 4 → fieldAt h 8 4 ≤ 0x400000 → seqRead s w va (fieldAt h 8 4) .read = .ok src →
      let r := placeImage s u w w.tp.die tile plane src va
      (r.status ≠ 2 → runs (ends r.s r.status)) ∧
      (r.status = 2 → runs (.next (settle
        (trapSeq r.s u (w.setReg rd 2) (w.pc + 4) 1 (BitVec.ofNat 64 r.where_) (encR 0x50 rd rs1 rs2 0) 0)))))

/-- The fifteen integer operators fire and emit the lane results of Table 6.2, with the division cases of R148 (06_operators_compute.md R143, R147,
R148, 01_execution_model.md R13, R16, R17). -/
def Obligations.IntegerOperators : Prop :=
  let clampS (v : Int) : Lane := BitVec.ofInt 40 (if v < -2 ^ 39 then -2 ^ 39 else if 2 ^ 39 - 1 < v then 2 ^ 39 - 1 else v)
  let clampU (v : Int) : Lane := BitVec.ofInt 40 (if v < 0 then 0 else if 2 ^ 40 - 1 < v then 2 ^ 40 - 1 else v)
  FiresLanes .add .opAdd 2 .data (fun _ a b _ => BitVec.ofInt 40 (a.toInt + b.toInt)) ∧
  FiresLanes .sub .opSub 2 .data (fun _ a b _ => BitVec.ofInt 40 (a.toInt - b.toInt)) ∧
  FiresLanes .adds .opAdds 2 .data (fun w a b _ => if w.mod.getLsbD 0 then clampU ((a.toNat : Int) + b.toNat) else clampS (a.toInt + b.toInt)) ∧
  FiresLanes .subs .opSubs 2 .data (fun w a b _ => if w.mod.getLsbD 0 then clampU ((a.toNat : Int) - b.toNat) else clampS (a.toInt - b.toInt)) ∧
  FiresLanes .mul .opMul 2 .data (fun _ a b _ => BitVec.ofInt 40 (a.toInt * b.toInt)) ∧
  FiresLanes .mulh .opMulh 2 .data (fun _ a b _ => BitVec.ofInt 40 (a.toInt * b.toInt / 2 ^ 40)) ∧
  FiresLanes .mulhu .opMulhu 2 .data (fun _ a b _ => BitVec.ofNat 40 (a.toNat * b.toNat / 2 ^ 40)) ∧
  FiresLanes .div .opDiv 2 .data (fun _ a b _ => if b = 0 then BitVec.ofInt 40 (-1) else BitVec.ofInt 40 (a.toInt.tdiv b.toInt)) ∧
  FiresLanes .divu .opDivu 2 .data (fun _ a b _ => if b = 0 then BitVec.ofNat 40 (2 ^ 40 - 1) else BitVec.ofNat 40 (a.toNat / b.toNat)) ∧
  FiresLanes .rem .opRem 2 .data (fun _ a b _ => if b = 0 then a else BitVec.ofInt 40 (a.toInt - b.toInt * a.toInt.tdiv b.toInt)) ∧
  FiresLanes .remu .opRemu 2 .data (fun _ a b _ => if b = 0 then a else BitVec.ofNat 40 (a.toNat % b.toNat)) ∧
  FiresLanes .neg .opNeg 1 .data (fun _ a _ _ => BitVec.ofInt 40 (-a.toInt)) ∧
  FiresLanes .abs .opAbs 1 .data (fun _ a _ _ => BitVec.ofNat 40 a.toInt.natAbs) ∧
  FiresLanes .min .opMin 2 .data (fun w a b _ => if w.mod.getLsbD 0 then (if a.toNat ≤ b.toNat then a else b) else if a.toInt ≤ b.toInt then a else b) ∧
  FiresLanes .max .opMax 2 .data (fun w a b _ => if w.mod.getLsbD 0 then (if a.toNat ≤ b.toNat then b else a) else if a.toInt ≤ b.toInt then b else a)

/-- The sixteen logic, shift and bit-field operators fire and emit the lane results of Table 6.3 (06_operators_compute.md R149, R150). -/
def Obligations.LogicOperators : Prop :=
  FiresLanes .and .opAnd 2 .data (fun _ a b _ => a &&& b) ∧
  FiresLanes .or .opOr 2 .data (fun _ a b _ => a ||| b) ∧
  FiresLanes .xor .opXor 2 .data (fun _ a b _ => a ^^^ b) ∧
  FiresLanes .andn .opAndn 2 .data (fun _ a b _ => a &&& ~~~b) ∧
  FiresLanes .not .opNot 1 .data (fun _ a _ _ => ~~~a) ∧
  FiresLanes .shl .opShl 2 .data (fun _ a b _ => BitVec.ofNat 40 (a.toNat * 2 ^ (b.toNat % 64))) ∧
  FiresLanes .shr .opShr 2 .data (fun _ a b _ => BitVec.ofNat 40 (a.toNat / 2 ^ (b.toNat % 64))) ∧
  FiresLanes .sar .opSar 2 .data (fun _ a b _ => BitVec.ofInt 40 (a.toInt / 2 ^ (b.toNat % 64))) ∧
  FiresLanes .rol .opRol 2 .data (fun _ a b _ => a.rotateLeft (b.toNat % 64 % 40)) ∧
  FiresLanes .ror .opRor 2 .data (fun _ a b _ => a.rotateRight (b.toNat % 64 % 40)) ∧
  FiresLanes .clz .opClz 1 .data (fun _ a _ _ => if a = 0 then 40 else BitVec.ofNat 40 (39 - a.toNat.log2)) ∧
  FiresLanes .popc .opPopc 1 .data (fun _ a _ _ => BitVec.ofNat 40 ((List.range 40).filter fun i => a.getLsbD i).length) ∧
  FiresLanes .bext .opBext 2 .data (fun w a b _ => let pos := b.toNat % 64; let n := if 40 ≤ pos then 0 else Nat.min (b.toNat / 64 % 64) (40 - pos)
      let f := a.toNat / 2 ^ pos % 2 ^ n
      if n = 0 then 0 else if w.mod.getLsbD 0 ∧ 2 ^ (n - 1) ≤ f then BitVec.ofInt 40 ((f : Int) - 2 ^ n) else BitVec.ofNat 40 f) ∧
  FiresLanes .bins .opBins 3 .data (fun _ a b c => let pos := c.toNat % 64; let n := if 40 ≤ pos then 0 else Nat.min (c.toNat / 64 % 64) (40 - pos)
      let msk : Lane := BitVec.ofNat 40 ((2 ^ n - 1) * 2 ^ pos)
      (a &&& ~~~msk) ||| (BitVec.ofNat 40 (b.toNat * 2 ^ pos) &&& msk)) ∧
  FiresLanes .brev .opBrev 1 .data (fun _ a _ _ => BitVec.ofFnLE fun i : Fin 40 => a.getLsbD (39 - i.val)) ∧
  FiresLanes .bswap .opBswap 1 .data (fun _ a _ _ => a.extractLsb' 0 8 ++ a.extractLsb' 8 8 ++ a.extractLsb' 16 8 ++ a.extractLsb' 24 8 ++ a.extractLsb' 32 8)

/-- Compares emit control tokens of 1 and 0; `sel`, `mov` and `ctok` copy and test lanes as Table 6.4 says (06_operators_compute.md R151, Table 6.4,
07_operators_flow_and_memory.md R169). -/
def Obligations.CompareOperators : Prop :=
  FiresLanes .ceq .opCeq 2 .control (fun _ a b _ => if a = b then 1 else 0) ∧
  FiresLanes .cne .opCne 2 .control (fun _ a b _ => if a ≠ b then 1 else 0) ∧
  FiresLanes .clt .opClt 2 .control (fun _ a b _ => if a.toInt < b.toInt then 1 else 0) ∧
  FiresLanes .cle .opCle 2 .control (fun _ a b _ => if a.toInt ≤ b.toInt then 1 else 0) ∧
  FiresLanes .cltu .opCltu 2 .control (fun _ a b _ => if a.toNat < b.toNat then 1 else 0) ∧
  FiresLanes .cleu .opCleu 2 .control (fun _ a b _ => if a.toNat ≤ b.toNat then 1 else 0) ∧
  (let cmp (rel : FwVal → FwVal → Bool) (onNan quiet : Bool) (a b _ : Lane) : Lane × Flags :=
    if (fwUnpack a).isNan ∨ (fwUnpack b).isNan then
      (if onNan then 1 else 0, { Flags.none with nv := quiet || (fwUnpack a).isSnan || (fwUnpack b).isSnan })
    else (if rel (fwUnpack a) (fwUnpack b) then 1 else 0, Flags.none)
  FiresAs .fceq .opFceq (fun _ => lanewise 2 .control (cmp (fun x y => x.le y && y.le x) false false)) ∧
  FiresAs .fclt .opFclt (fun _ => lanewise 2 .control (cmp (fun x y => x.le y && !y.le x) false true)) ∧
  FiresAs .fcle .opFcle (fun _ => lanewise 2 .control (cmp (fun x y => x.le y) false true)) ∧
  FiresAs .fcun .opFcun (fun _ => lanewise 2 .control (cmp (fun _ _ => false) true false))) ∧
  FiresAs .sel .opSel (fun _ a b c =>
    (Token.make (fun k => if (a.lane k).getLsbD 0 then b.lane k else c.lane k)
      (maskOf fun k => a.valid k && (if (a.lane k).getLsbD 0 then b.valid k else c.valid k)) .data, Flags.none)) ∧
  FiresAs .mov .opMov (fun w a _ _ => (Token.make a.lane a.mask (if w.mod.getLsbD 0 then .control else .data), Flags.none)) ∧
  FiresLanes .ctok .opCtok 1 .control (fun _ a _ _ => if a ≠ 0 then 1 else 0)

/-- The sixteen FW40 arithmetic operators fire, emit their lane results, and set their flags (06_operators_compute.md R152, R153, R154, R155,
02_number_formats.md R49, R51, R67, R68). -/
def Obligations.FloatOperators : Prop :=
  let port (w : OpWord) (a b : Lane) : Lane := if w.mod.getLsbD 7 then apxB a b else b
  FiresFw .fadd .opFadd 2 (fun _ a b _ => fwAdd a b) ∧
  FiresFw .fsub .opFsub 2 (fun _ a b _ => fwSub a b) ∧
  FiresFw .fmul .opFmul 2 (fun w a b _ => fwMul a (port w a b)) ∧
  FiresFw .fma .opFma 3 (fun w a b c => fwFma false false a (port w a b) c) ∧
  FiresFw .fms .opFms 3 (fun w a b c => fwFma false true a (port w a b) c) ∧
  FiresFw .fnma .opFnma 3 (fun w a b c => fwFma true false a (port w a b) c) ∧
  FiresFw .fnms .opFnms 3 (fun w a b c => fwFma true true a (port w a b) c) ∧
  FiresFw .fmin .opFmin 2 (fun w a b _ => fwMinMax false (w.mod.getLsbD 5) a b) ∧
  FiresFw .fmax .opFmax 2 (fun w a b _ => fwMinMax true (w.mod.getLsbD 5) a b) ∧
  FiresFw .fabs .opFabs 1 (fun _ a _ _ => (a &&& 0x7FFFFFFFFF, Flags.none)) ∧
  FiresFw .fneg .opFneg 1 (fun _ a _ _ => (a ^^^ 0x8000000000, Flags.none)) ∧
  FiresFw .fcpsgn .opFcpsgn 2 (fun w a b _ => ((a &&& 0x7FFFFFFFFF) ||| ((if w.mod.getLsbD 0 then a ^^^ b else b) &&& 0x8000000000), Flags.none)) ∧
  FiresFw .frcps .opFrcps 2 (fun _ a b _ => newtonStep 2 0 0 a b) ∧
  FiresFw .frcpi .opFrcpi 1 (fun _ a _ _ => laneFrcpi a) ∧
  FiresFw .frsqs .opFrsqs 2 (fun _ a b _ => newtonStep 3 (-1) (-1) a b) ∧
  FiresFw .frsqi .opFrsqi 1 (fun _ a _ _ => laneFrsqi a)

/-- The reduction, class, scale, LG6, block-exponent and conversion operators fire and emit their lane results and flags (06_operators_compute.md
R156, R157, R158, R159, R160). -/
def Obligations.ElementaryOperators : Prop :=
  (FiresFw .fexpr .opFexpr 1 (fun _ a _ _ => laneReduce false a) ∧
  FiresFw .fexpp .opFexpp 2 (fun _ a b _ => laneFexpp a b) ∧
  FiresFw .flogr .opFlogr 1 (fun _ a _ _ => laneFlogr a) ∧
  FiresFw .flogp .opFlogp 2 (fun _ a b _ => laneFlogp a b) ∧
  FiresFw .fsinr .opFsinr 1 (fun _ a _ _ => laneReduce true a) ∧
  FiresFw .fsinp .opFsinp 2 (fun _ a b _ => laneFsinp a b) ∧
  FiresFw .fclass .opFclass 1 (fun _ a _ _ => (laneFclass a, Flags.none)) ∧
  FiresFw .fround .opFround 1 (fun _ a _ _ => laneFround a) ∧
  FiresFw .fscale .opFscale 2 (fun _ a b _ => laneFscale a b) ∧
  FiresFw .fmant .opFmant 1 (fun _ a _ _ => laneFmant a) ∧
  FiresFw .fexpo .opFexpo 1 (fun _ a _ _ => laneFexpo a) ∧
  FiresFw .lgmul .opLgmul 2 (fun _ a b _ => laneLgmul a b) ∧
  FiresFw .lgsum .opLgsum 3 (fun _ a b c => laneLgsum a b c) ∧
  FiresFw .lgenc .opLgenc 1 (fun w a _ _ => laneLgenc (w.mod.getLsbD 0) a) ∧
  FiresFw .bsfind .opBsfind 2 (fun _ a b _ => laneBsfind a b) ∧
  FiresFw .cvtfi .opCvtfi 1 (fun w a _ _ => laneCvtfi (w.mod.getLsbD 0) a) ∧
  FiresFw .cvtif .opCvtif 1 (fun w a _ _ => fwOfInt (if w.mod.getLsbD 0 then (a.toNat : Int) else a.toInt)) ∧
  FiresFw .cvtfr .opCvtfr 1 (fun w a _ _ => laneCvtfr w.ty (w.mod.getLsbD 0) a) ∧
  FiresFw .cvtsat .opCvtsat 1 (fun w a _ _ => (laneCvtsat w.ty (w.mod.getLsbD 0) a, Flags.none))) ∧
  let one : Int := 2 ^ 1080
  let rne (v : Int) (d : Nat) : Int := if 2 * (v % d) < d ∨ 2 * (v % d) = d ∧ v / d % 2 = 0 then v / d else v / d + 1
  let clamp (lo hi n : Int) : Int := max lo (min hi n)
  let nan (s : Bool) : Lane × Flags := (0x7FF0000000, { Flags.none with nv := s })
  let plain (x : Lane) : Lane × Flags := (x, Flags.none)
  let inexact (x : Lane) (b : Prop) [Decidable b] : Lane × Flags := (x, { Flags.none with nx := decide b })
  let scaled (a : Lane) (n : Int) (r : Lane × Flags) : Prop :=
    (fwUnits a = 0 → r = plain a) ∧ (fwUnits a ≠ 0 → RoundsOver (fwUnits a * 2 ^ n.toNat) (-n).toNat r)
  (∀ a : Lane,
    let v : Int := fwUnits a
    let k : Nat := v.natAbs.log2
    let n : Int := rne v (2 ^ 1080)
    let neg : Bool := fwSign a
    let snan : Bool := (fwUnpack a).isSnan
    (laneFclass a).toNat = 2 ^ (
      if fwExp a = 1023 then (if fwFrac a = 0 then (if neg then 0 else 7) else if fwFrac a < 2 ^ 28 then 8 else 9)
      else if fwExp a = 0 then (if fwFrac a = 0 then (if neg then 3 else 4) else if neg then 2 else 5) else if neg then 1 else 6) ∧
    (fwFinite a = true →
      (let r : Lane := (laneFround a).1
       laneFround a = inexact r (n * one ≠ v) ∧ fwFinite r = true ∧ fwUnits r = n * one ∧ fwSign r = neg) ∧
      (v = 0 → laneFmant a = plain a ∧ laneFexpo a = plain (BitVec.ofInt 40 (-2 ^ 39)) ∧ laneReduce false a = plain 0 ∧ laneReduce true a = plain a ∧
        ∀ b, laneBsfind a b = plain 127) ∧
      (v ≠ 0 →
        (let r : Lane := (laneFmant a).1
         laneFmant a = plain r ∧ fwFinite r = true ∧ fwUnits r * 2 ^ k = v * one) ∧
        laneFexpo a = plain (BitVec.ofInt 40 (k - 1080)) ∧
        (∀ b : Lane, laneBsfind a b = plain (BitVec.ofInt 40 (clamp 0 254 (k - 1080 - b.toInt + 127)))) ∧
        ∀ keep : Bool, let r : Lane := (laneReduce keep a).1
          laneReduce keep a = plain r ∧ fwFinite r = true ∧ fwUnits r = v - n * one ∧ (fwUnits r = 0 → r = 0)) ∧
      (0 < v → let r : Lane := (laneFlogr a).1
        laneFlogr a = plain r ∧ fwFinite r = true ∧ fwUnits r * 2 ^ (if 0x0D413CCD ≤ v.toNat * 2 ^ 29 / 2 ^ k - 2 ^ 29 then k + 1 else k) = v * one) ∧
      (∀ u : Bool, let lo : Int := if u then 0 else -2 ^ 39
        let hi : Int := if u then 2 ^ 40 - 1 else 2 ^ 39 - 1
        laneCvtfi u a = if lo ≤ n ∧ n ≤ hi then inexact (BitVec.ofInt 40 n) (n * one ≠ v) else (BitVec.ofInt 40 (clamp lo hi n), Flags.invalid)) ∧
      ∀ t p lo hi, (t, p, lo, hi) ∈ [((2 : BitVec 4), 23, 385, 638), (3, 7, 385, 638), (4, 10, 497, 526), (5, 3, 505, 519), (6, 2, 497, 526)] →
        lo ≤ fwExp a → fwExp a < hi → ∀ fin : Bool,
          let q : Nat := 2 ^ (fwExp a + 569 - p)
          let r : Lane := (laneCvtfr t fin a).1
          laneCvtfr t fin a = inexact r (q * rne v q ≠ v) ∧ fwFinite r = true ∧ fwUnits r = q * rne v q) ∧
    (¬ (fwFinite a = true ∧ 0 < v) → laneFlogr a = plain 0x3FE0000000) ∧
    (a = fwInf neg → laneFround a = plain a ∧ laneFmant a = plain a ∧ laneFexpo a = plain (BitVec.ofInt 40 (2 ^ 39 - 1)) ∧
      (∀ keep, laneReduce keep a = plain 0) ∧ (∀ b, laneBsfind a b = plain 255) ∧
      laneCvtfi false a = (BitVec.ofInt 40 (if neg then -2 ^ 39 else 2 ^ 39 - 1), Flags.invalid) ∧
      laneCvtfi true a = (BitVec.ofInt 40 (if neg then 0 else 2 ^ 40 - 1), Flags.invalid)) ∧
    ((fwUnpack a).isNan = true → laneFround a = nan snan ∧ laneFmant a = nan snan ∧ laneFexpo a = (BitVec.ofInt 40 (2 ^ 39 - 1), Flags.invalid) ∧
      (∀ keep, laneReduce keep a = nan snan) ∧ (∀ b, laneBsfind a b = (255, { Flags.none with nv := snan })) ∧ ∀ u, laneCvtfi u a = (0, Flags.invalid))) ∧
  (∀ a b : Lane,
    let n : Int := rne (fwUnits b) (2 ^ 1080)
    let k : Nat := (fwUnits b).toNat.log2
    let kb : Int := (if 0x0D413CCD ≤ (fwUnits b).toNat * 2 ^ 29 / 2 ^ k - 2 ^ 29 then k + 1 else k) - 1080
    let sum : Int := fwUnits a + kb * one
    let inf (x : Lane) : Prop := x = fwInf (fwSign x)
    let eitherNan : Prop := (fwUnpack a).isNan = true ∨ (fwUnpack b).isNan = true
    (fwFinite a = true → scaled a (clamp (-1100) 1100 b.toInt) (laneFscale a b)) ∧
    (inf a → laneFscale a b = plain a) ∧ ((fwUnpack a).isNan = true → laneFscale a b = nan (fwUnpack a).isSnan) ∧
    (eitherNan → let r : Lane × Flags := nan ((fwUnpack a).isSnan || (fwUnpack b).isSnan)
      laneFexpp a b = r ∧ laneFlogp a b = r ∧ laneFsinp a b = r) ∧
    (¬ eitherNan →
      (fwFinite b = true →
        (fwFinite a = true → scaled a (clamp (-1100) 1100 n) (laneFexpp a b)) ∧ (inf a → laneFexpp a b = plain a) ∧
        laneFsinp a b = plain (if n % 2 = 0 then a else a ^^^ 0x8000000000)) ∧
      (b = fwInf false → laneFexpp a b = if fwFinite a = true ∧ fwUnits a = 0 then nan true else plain (fwInf (fwSign a))) ∧
      (b = fwInf true → laneFexpp a b = if fwFinite a = true then plain (fwZero (fwSign a)) else nan true) ∧
      (inf b → laneFsinp a b = nan true) ∧
      (fwFinite b = true → 0 < fwUnits b →
        (fwFinite a = true → sum ≠ 0 → RoundsTo sum (laneFlogp a b)) ∧ (fwFinite a = true → sum = 0 → laneFlogp a b = plain 0) ∧
        (inf a → laneFlogp a b = plain a)) ∧
      (fwFinite b = true → fwUnits b = 0 → laneFlogp a b = plain (fwInf true)) ∧ (b = fwInf false → laneFlogp a b = plain (fwInf false)) ∧
      (b = fwInf true ∨ fwFinite b = true ∧ fwUnits b < 0 → laneFlogp a b = nan true))) ∧
  (∀ i : Int, i ≠ 0 → RoundsTo (i * one) (fwOfInt i)) ∧ fwOfInt 0 = plain 0 ∧
  ∀ (t : BitVec 4) (n : Nat) (sgn : Bool), (t, n, sgn) ∈ [((8 : BitVec 4), 8, true), (9, 16, true), (10, 32, true), (11, 8, false), (12, 16, false), (13, 32, false)] →
    ∀ a : Lane,
      (laneCvtsat t false a).toInt = (if sgn then clamp (-2 ^ (n - 1)) (2 ^ (n - 1) - 1) a.toInt else clamp 0 (2 ^ n - 1) a.toInt) ∧
      (laneCvtsat t true a).toInt = if sgn then a.toInt.bmod (2 ^ n) else a.toInt % 2 ^ n

/-- FW40 sums, products, fused product-sums and Newton steps are the exact results rounded once to nearest, ties to even (02_number_formats.md R48,
R49, R50, R51, R57, 06_operators_compute.md R152, R153, R154, R155, R158). -/
def Obligations.FloatRounding : Prop :=
  (∀ a b : Lane, fwFinite a = true → fwFinite b = true →
    let x : Int := fwUnits a
    let y : Int := fwUnits b
    let p : Int := x * y / 2 ^ 1080
    let neg : Bool := fwSign a != fwSign b
    (x + y ≠ 0 → RoundsTo (x + y) (fwAdd a b)) ∧ (x + y = 0 → fwAdd a b = (fwZero (fwSign a && fwSign b), Flags.none)) ∧
    (x - y ≠ 0 → RoundsTo (x - y) (fwSub a b)) ∧ (x - y = 0 → fwSub a b = (fwZero (fwSign a && !fwSign b), Flags.none)) ∧
    (p ≠ 0 → RoundsTo p (fwMul a b)) ∧ (p = 0 → fwMul a b = (fwZero neg, Flags.none)) ∧
    (2 ^ 1081 - p ≠ 0 → RoundsTo (2 ^ 1081 - p) (newtonStep 2 0 0 a b)) ∧ (2 ^ 1081 - p = 0 → newtonStep 2 0 0 a b = (0, Flags.none)) ∧
    (3 * 2 ^ 1080 - p ≠ 0 → RoundsTo ((3 * 2 ^ 1080 - p) / 2) (newtonStep 3 (-1) (-1) a b)) ∧
    (3 * 2 ^ 1080 - p = 0 → newtonStep 3 (-1) (-1) a b = (0, Flags.none)) ∧
    ∀ (c : Lane) (np nc : Bool), fwFinite c = true →
      let v : Int := (if np then -p else p) + (if nc then -fwUnits c else fwUnits c)
      (v ≠ 0 → RoundsTo v (fwFma np nc a b c)) ∧ (v = 0 → fwFma np nc a b c = (fwZero ((neg != np) && (fwSign c != nc)), Flags.none))) ∧
  (∀ a b : Lane, (fwUnpack a).isNan = true ∨ (fwUnpack b).isNan = true →
    let r : Lane × Flags := (0x7FF0000000, { Flags.none with nv := (fwUnpack a).isSnan || (fwUnpack b).isSnan })
    fwAdd a b = r ∧ fwSub a b = r ∧ fwMul a b = r ∧ newtonStep 2 0 0 a b = r ∧ newtonStep 3 (-1) (-1) a b = r) ∧
  (∀ (a b c : Lane) (np nc : Bool), let undef (x y : Lane) : Prop := ∃ s z, x = fwInf s ∧ y = fwZero z
    (undef a b ∨ undef b a → fwFma np nc a b c = (0x7FF0000000, Flags.invalid)) ∧
    (¬ (undef a b ∨ undef b a) → (fwUnpack a).isNan = true ∨ (fwUnpack b).isNan = true ∨ (fwUnpack c).isNan = true →
      fwFma np nc a b c = (0x7FF0000000, { Flags.none with nv := (fwUnpack a).isSnan || (fwUnpack b).isSnan || (fwUnpack c).isSnan }))) ∧
  (∀ (s t np nc : Bool) (b c : Lane), fwFinite b = true → fwUnits b ≠ 0 →
    let neg : Bool := s != fwSign b
    newtonStep 2 0 0 (fwInf s) b = (fwInf !neg, Flags.none) ∧ newtonStep 3 (-1) (-1) (fwInf s) b = (fwInf !neg, Flags.none) ∧
    (fwFinite c = true → fwFma np nc (fwInf s) b c = (fwInf (neg != np), Flags.none)) ∧
    fwFma np nc (fwInf s) b (fwInf t) = if (neg != np) = (t != nc) then (fwInf (neg != np), Flags.none) else (0x7FF0000000, Flags.invalid)) ∧
  (∀ s z : Bool, newtonStep 2 0 0 (fwInf s) (fwZero z) = (0x4000000000, Flags.none) ∧ newtonStep 2 0 0 (fwZero z) (fwInf s) = (0x4000000000, Flags.none) ∧
    newtonStep 3 (-1) (-1) (fwInf s) (fwZero z) = (0x3FF0000000, Flags.none) ∧ newtonStep 3 (-1) (-1) (fwZero z) (fwInf s) = (0x3FF0000000, Flags.none)) ∧
  (∀ neg : Bool, fwAdd (fwInf neg) (fwInf !neg) = (0x7FF0000000, Flags.invalid)) ∧
  (∀ neg sgn : Bool, fwMul (fwInf neg) (fwZero sgn) = (0x7FF0000000, Flags.invalid)) ∧
  (∀ j : Nat, j < 256 → 2 * (((513 + 2 * j) * frcpiTable j : Int) - 2 ^ 19).natAbs ≤ 513 + 2 * j) ∧
  (∀ j : Nat, j < 192 → (2 * frsqiTable j - 1) ^ 2 * (129 + 2 * j) ≤ 2 ^ 29 ∧ 2 ^ 29 ≤ (2 * frsqiTable j + 1) ^ 2 * (129 + 2 * j)) ∧
  (∀ a : Lane, fwExp a ≠ 0 → fwExp a ≠ 1023 →
    (laneFrcpi a).2 = Flags.none ∧ fwSign (laneFrcpi a).1 = fwSign a ∧
      (fwUnits (laneFrcpi a).1).natAbs = frcpiTable (fwFrac a / 2 ^ 21) * 2 ^ (1581 - fwExp a)) ∧
  (∀ a : Lane, fwFinite a = true → 0 < fwUnits a →
    let v : Nat := (fwUnits a).toNat
    let k : Nat := v.log2
    let j : Nat := if k % 2 = 0 then 64 * v / 2 ^ k - 64 else 128 * v / 2 ^ k - 64
    (laneFrsqi a).2 = Flags.none ∧ fwUnits (laneFrsqi a).1 = frsqiTable j * 2 ^ (1610 - k / 2)) ∧
  (∀ a : Lane, (∀ neg, a = fwZero neg → laneFrcpi a = (fwInf neg, { Flags.none with dz := true }) ∧ laneFrsqi a = (fwInf neg, { Flags.none with dz := true })) ∧
    (∀ neg, a = fwInf neg → laneFrcpi a = (fwZero neg, Flags.none)) ∧ (a = fwInf false → laneFrsqi a = (0, Flags.none)) ∧
    (a = fwInf true ∨ fwFinite a = true ∧ fwUnits a < 0 → laneFrsqi a = (0x7FF0000000, Flags.invalid)) ∧
    ((fwUnpack a).isNan = true → let r : Lane × Flags := (0x7FF0000000, { Flags.none with nv := (fwUnpack a).isSnan })
      laneFrcpi a = r ∧ laneFrsqi a = r)) ∧
  ∀ a b : BitVec 6, a.toNat % 32 ≠ 0 → b.toNat % 32 ≠ 0 →
    let n : Int := (a.toNat % 32 : Int) + b.toNat % 32 - 32
    let r : Lane := (lg6Mul a b).1
    let m : Nat := 2 ^ 29 + fwFrac r
    (lg6Mul a b).2 = Flags.none ∧ fwSign r = (a.getLsbD 5 != b.getLsbD 5) ∧ (fwExp r : Int) = 511 + n / 4 ∧
      (2 * m - 1) ^ 4 < 2 ^ (120 + (n % 4).toNat) ∧ 2 ^ (120 + (n % 4).toNat) < (2 * m + 1) ^ 4

/-- The operators that arrange or reduce whole tokens fire and emit what Tables 6.9, 6.12, 7.3 and 7.8 say (06_operators_compute.md R159, R164, R165,
07_operators_flow_and_memory.md R169, R170, R185). -/
def Obligations.TokenOperators : Prop :=
  FiresAs .perm .opPerm (fun _ a b _ =>
    (Token.make (fun k => a.lane ((b.lane k).toNat % 16)) (maskOf fun k => a.valid ((b.lane k).toNat % 16) && b.valid k) .data, Flags.none)) ∧
  FiresAs .permi .opPermi (fun w a _ _ =>
    let n := w.mod.toNat % 16
    let src (k : Nat) : Nat := if w.mod.getLsbD 4 then (k + n) % 16 else Nat.xor k n
    (Token.make (fun k => a.lane (src k)) (maskOf fun k => a.valid (src k)) .data, Flags.none)) ∧
  FiresAs .bcast .opBcast (fun _ a b _ =>
    let n := (b.lane 0).toNat % 16
    (Token.make (fun _ => a.lane n) (maskOf fun _ => a.valid n && b.valid 0) .data, Flags.none)) ∧
  FiresAs .lsum .opLsum (fun w a _ _ =>
    let fw : Bool := w.ty == 0
    let comb (x y : Option Lane × Flags) : Option Lane × Flags :=
      match x.1, y.1 with
      | some u, some v =>
        let r := if fw then fwAdd u v else (u + v, Flags.none)
        (some r.1, (x.2.or y.2).or r.2)
      | none, _ => (y.1, x.2.or y.2)
      | _, none => (x.1, x.2.or y.2)
    let leaf (k : Nat) : Option Lane × Flags := (if a.valid k then some (a.lane k) else none, Flags.none)
    let pairs (f : Nat → Option Lane × Flags) (k : Nat) : Option Lane × Flags := comb (f (2 * k)) (f (2 * k + 1))
    let v := pairs (pairs (pairs (pairs leaf))) 0
    let sum : Lane := v.1.getD 0
    let nan : Bool := fw && (fwUnpack sum).isNan
    (Token.make (fun _ => if nan then fwNaN else sum) (if w.mod.getLsbD 0 then 0xFFFF else 1) .data,
      if nan then v.2.or { Flags.none with nv := (fwUnpack sum).isSnan } else v.2)) ∧
  FiresAs .amaxr .opAmaxr (fun _ a b _ =>
    let vs := (lanesOf a.mask).map (fun k => a.lane k) ++ (if b.valid 0 then [b.lane 0] else [])
    let r : Lane := if vs.any fun v => (fwUnpack v).isNan then fwNaN else (vs.map fun v => v &&& 0x7FFFFFFFFF).foldl amaxStep 0
    (Token.make (fun _ => r) 0xFFFF .data, { Flags.none with nv := vs.any fun v => (fwUnpack v).isSnan })) ∧
  FiresAs .bshdr .opBshdr (fun _ a b _ =>
    let h : Hdr := { scale := if a.valid 0 && 0 ≤ (a.lane 0).toInt && (a.lane 0).toInt ≤ 255 then (a.lane 0).setWidth 8 else 0xFF
                     len := if b.valid 0 then (b.lane 0).setWidth 8 else 255
                     last := b.valid 0 && (b.lane 0).getLsbD 8
                     clip := false }
    (Token.ofHdr h 0, Flags.none)) ∧
  FiresAs .join .opJoin (fun _ _ _ _ => (Token.make (fun _ => 1) 0xFFFF .control, Flags.none)) ∧
  FiresAs .const .opConst (fun _ a b _ => (Token.make (fun _ => b.lane 0) (if b.valid 0 then a.mask else 0) .data, Flags.none)) ∧
  FiresAs .iota .opIota (fun _ a _ _ =>
    (Token.make (fun k => (if a.valid 0 then a.lane 0 else 0) + BitVec.ofNat 40 k) a.mask .data, Flags.none)) ∧
  FiresAs .csumRow .opCsumRow (fun _ a _ _ =>
    (Token.make (fun _ => (lanesOf a.mask).foldl (fun acc k => acc + a.lane k) 0) 1 .data, Flags.none))

/-- `tbread`, `gate`, `sink`, `chkr`, the checksums, `bsapply`, `bsstrip` and `vote3` fire, trap and record as their rules say
(07_operators_flow_and_memory.md R169, R183, R184, R185, 06_operators_compute.md R159, 01_execution_model.md R34, R44, 02_number_formats.md R60). -/
def Obligations.StatefulOperators : Prop :=
  ∀ s e img sl hs, kget s.images e.tp.key = some img →
    let tok (p : Nat) : Token := tokenAt sl.word hs p
    let cp : OpCopy := (sl.copies[sl.turn]?).getD { tile := 0, elem := 0, hdr := Hdr.initial, acc := Vector.replicate 16 0, cnt := 0 }
    let goes (i : Instr) (sl1 : OpSlot) (out : Option Token) (f : Flags) : Prop := exec i s = .next (settle (firedTo s e img sl hs sl1 out f))
    let room : Prop := img.hasRoom e allTargets = true
    let traps (i : Instr) (cause : BitVec 16) (val : Word) : Prop := exec i s = .next (settle (trappedAt s e img sl hs cause val))
    (Ready s .tbread e img sl hs → Plain hs → room →
      goes (.opTbread e) sl (some (Token.make (fun k => if k = 0 then s.tb.setWidth 40 else (s.tb >>> 40).setWidth 40) 3 .data)) Flags.none) ∧
    (Ready s .gate e img sl hs → Plain hs →
      ((tok 1).tset = 0 → goes (.opGate e) sl none Flags.none) ∧
      ((tok 1).tset ≠ 0 → room → goes (.opGate e) sl (some (Token.make (tok 0).lane ((tok 0).mask &&& (tok 1).tset) (tok 0).cls)) Flags.none)) ∧
    (Ready s .sink e img sl hs → Plain hs → goes (.opSink e) sl none Flags.none) ∧
    (Ready s .chkr e img sl hs → Plain hs → room →
      (∀ k, (tok 0).valid k = true → ((tok 1).valid 0 = true → ((tok 1).lane 0).toInt ≤ ((tok 0).lane k).toInt) ∧
        ((tok 1).valid 1 = true → ((tok 0).lane k).toInt ≤ ((tok 1).lane 1).toInt)) →
      goes (.opChkr e) sl (some (tok 0)) Flags.none) ∧
    (Ready s .chkr e img sl hs → Plain hs →
      let out (k : Nat) : Bool := (tok 0).valid k && (((tok 1).valid 0 && ((tok 0).lane k).toInt < ((tok 1).lane 0).toInt) ||
        ((tok 1).valid 1 && ((tok 1).lane 1).toInt < ((tok 0).lane k).toInt))
      maskOf out ≠ 0 → traps (.opChkr e) 0x31 ((maskOf out).setWidth 64)) ∧
    (Ready s .csumChk e img sl hs → Plain hs →
      let m : BitVec 16 := (tok 0).mask &&& (tok 1).mask
      let bad : BitVec 16 := maskOf fun k => m.getLsbD k && (tok 0).lane k != (tok 1).lane k
      (sl.word.mod.getLsbD 0 = false ∨ bad = 0 → room →
        goes (.opCsumChk e) sl (some (Token.make (fun k => if (tok 0).lane k = (tok 1).lane k then 1 else 0) m .control)) Flags.none) ∧
      (sl.word.mod.getLsbD 0 = true → bad ≠ 0 → traps (.opCsumChk e) 0x32 (bad.setWidth 64))) ∧
    (Ready s .csumCol e img sl hs → Plain hs →
      let v : Nat := ((tok 1).lane 0).toNat
      let n : Nat := if (tok 1).valid 0 then (if v < 1 then 1 else if 2 ^ 24 < v then 2 ^ 24 else v) else 1
      let acc : Vector Lane 16 := Vector.ofFn fun k => cp.acc[k] + (if (tok 0).valid k.val then (tok 0).lane k.val else 0)
      (n ≤ cp.cnt + 1 → room →
        goes (.opCsumCol e) (sl.setCopy sl.turn { cp with acc := Vector.replicate 16 0, cnt := 0 }) (some { lanes := acc, mask := 0xFFFF, cls := .data }) Flags.none) ∧
      (cp.cnt + 1 < n → goes (.opCsumCol e) (sl.setCopy sl.turn { cp with acc := acc, cnt := cp.cnt + 1 }) none Flags.none)) ∧
    (Ready s .bsapply e img sl hs → Plain hs → room →
      let r := lanewise 1 .data (fun x _ _ => bsScale (sl.word.mod.getLsbD 0) cp.hdr x) (tok 0) (tok 0) (tok 0)
      goes (.opBsapply e) sl (some r.1) r.2) ∧
    (Ready s .bsapply e img sl hs → (∀ h ∈ hs, h.2.1.cls = .header) → room →
      let h : Hdr := Hdr.ofLane ((tok 0).lane 0)
      let out : Token := if sl.word.mod.getLsbD 0 then tok 0 else { tok 0 with lanes := (tok 0).lanes.set 0 (((tok 0).lane 0 &&& 0xFFFFFFFF00) ||| 127) }
      let sl1 : OpSlot := if sl.trip then sl.setCopy sl.turn { cp with hdr := h } else { sl with copies := sl.copies.map fun c => { c with hdr := h } }
      exec (.opBsapply e) s = .next (settle (headerTo s e img sl1 hs (arcPorts sl.word) (some out)))) ∧
    (Ready s .bsstrip e img sl hs → Plain hs → room → goes (.opBsstrip e) sl (some (tok 0)) Flags.none) ∧
    (Ready s .bsstrip e img sl hs → (∀ h ∈ hs, h.2.1.cls = .header) →
      exec (.opBsstrip e) s = .next (settle (headerTo s e img sl hs (arcPorts sl.word) none))) ∧
    (Ready s .vote3 e img sl hs → (∃ h ∈ hs, h.2.1.cls ≠ .header) →
      let differ (x y : Token) : BitVec 16 := if x.cls = y.cls then maskOf fun k => x.lane k != y.lane k || x.valid k != y.valid k else 0xFFFF
      let voted (copy : BitVec 2) (x y : Token) : Prop :=
        let t : State := firedTo s e img sl hs sl (some y) Flags.none
        let key : Nat := img.tpKey (turnTile img sl)
        let r : TpRegs := dget TpRegs.initial t.tps key
        let r1 : TpRegs := { r with vcnt := if r.vcnt = 0xFFFF then r.vcnt else r.vcnt + 1, vlanes := differ x y, vslot := BitVec.ofNat 5 e.slot,
                                    vbsel := ((img.blocks[e.blk]?).map fun b => b.bsel).getD false, vcopy := copy, vv := true }
        room → exec (.opVote3 e) s = .next (settle { t with tps := dset TpRegs.initial t.tps key r1 })
      (tok 0 = tok 1 → tok 1 = tok 2 → room → goes (.opVote3 e) sl (some (tok 0)) Flags.none) ∧
      (tok 0 = tok 1 → tok 2 ≠ tok 0 → voted 2 (tok 2) (tok 0)) ∧ (tok 0 = tok 2 → tok 1 ≠ tok 0 → voted 1 (tok 1) (tok 0)) ∧
      (tok 1 = tok 2 → tok 0 ≠ tok 1 → voted 0 (tok 0) (tok 1)) ∧
      (tok 0 ≠ tok 1 → tok 0 ≠ tok 2 → tok 1 ≠ tok 2 → traps (.opVote3 e) 0x33 0))

/-- Lane-file reads emit the words at base + index, writes replace them and emit the old ones, and an index out of range traps
(06_operators_compute.md R161, R162). -/
def Obligations.LaneFileOperators : Prop :=
  ∀ s o e img sl hs, Ready s o e img sl hs → Plain hs → img.hasRoom e allTargets = true →
    let a : Token := tokenAt sl.word hs 0
    let b : Token := tokenAt sl.word hs 1
    let cp : OpCopy := (sl.copies[sl.turn]?).getD { tile := 0, elem := 0, hdr := Hdr.initial, acc := Vector.replicate 16 0, cnt := 0 }
    let base : Nat := (sl.lfw.getD (0, 0)).1
    let len : Nat := (sl.lfw.getD (0, 0)).2
    let idx (k : Nat) : Int := if o = .lfldi ∨ o = .lfsti then (b.lane 0).toInt else (a.lane k).toInt
    let m : BitVec 16 := if o = .lfldi ∨ o = .lfsti then (if b.valid 0 then a.mask else 0) else if o = .lfst then a.mask &&& b.mask else a.mask
    let at_ (k : Nat) : Nat := laneKey img.die cp.tile cp.elem k (base + (if sl.word.mod.getLsbD 0 then idx k % len else idx k).toNat)
    let inside : Prop := ∀ k, m.getLsbD k = true → 0 < len ∧ (sl.word.mod.getLsbD 0 = false → 0 ≤ idx k ∧ idx k < len)
    let outside : BitVec 16 := maskOf fun k => m.getLsbD k && !(decide (0 < len) && (sl.word.mod.getLsbD 0 || (decide (0 ≤ idx k) && decide (idx k < len))))
    let old : Token := Token.make (fun k => dget 0 s.lanes (at_ k)) m .data
    let t : State := firedTo s e img sl hs sl (some old) Flags.none
    let wrote (v : Nat → Lane) : State := { t with lanes := (lanesOf m).foldl (fun x k => dset 0 x (at_ k) (v k)) s.lanes }
    (o ∈ [Opc.lfld, .lfldi, .lfst, .lfsti] → outside ≠ 0 → exec (o.instr e) s = .next (settle (trappedAt s e img sl hs 0x30 (outside.setWidth 64)))) ∧
    (inside →
      (o = .lfld → exec (.opLfld e) s = .next (settle t)) ∧ (o = .lfldi → exec (.opLfldi e) s = .next (settle t)) ∧
      (o = .lfst → exec (.opLfst e) s = .next (settle (wrote b.lane))) ∧ (o = .lfsti → exec (.opLfsti e) s = .next (settle (wrote a.lane))))

/-- Poison passes through a compute operator, raises data.poison at `sink`, stores and atomics; burst headers pass without data (01_execution_model.md
R14, 07_operators_flow_and_memory.md R169, R173, 02_number_formats.md R60, 11_programs_dataflow.md R274). -/
def Obligations.PoisonPropagates : Prop :=
  (∀ s o e img sl hs k t, Ready s o e img sl hs → o.form = .c → o ≠ .vote3 → hs.find? (fun h => h.2.1.cls = .poison) = some (k, t) →
    (o ≠ .sink → img.hasRoom e allTargets = true → exec (o.instr e) s = .next (settle (firedTo s e img sl hs sl (some t.1) Flags.none))) ∧
    (o = .sink → exec (.opSink e) s = .next (settle (trappedAt s e img sl hs 0x20 ((t.1.lane 0).setWidth 64 &&& 0xFFFF))))) ∧
  (∀ s o e img sl hs k t, Ready s o e img sl hs → o.form = .m → o ∉ [Opc.emit, .vld, .vldx, .memnop, .ldfe, .fence, .monwait] →
    hs.find? (fun h => h.2.1.cls = .poison) = some (k, t) →
    exec (o.instr e) s = .next (settle (trappedAt s e img sl hs 0x20 ((t.1.lane 0).setWidth 64 &&& 0xFFFF)))) ∧
  ∀ s o e img sl hs k t, Stands s o e img sl hs → (∀ h ∈ hs, h.2.1.cls ≠ .poison) →
    (o.form = .c ∧ o ∉ [Opc.bsapply, .bsstrip, .join, .sink, .vote3] ∨ o.form = .m ∧ o ≠ .emit ∧ ∃ h ∈ hs, h.2.1.cls ≠ .header) →
    hs.find? (fun h => h.2.1.cls = .header) = some (k, t) →
    let ports : List Nat := (hs.filter fun h => h.2.1.cls = .header).map fun h => h.1
    takesHalted s img e ports = false → img.hasRoom e allTargets = true →
      exec (o.instr e) s = .next (settle (headerTo s e img sl hs ports (some t.1)))

/-- A router takes and forwards tokens by its control: steer, merge in order, merge by arrival, carry (01_execution_model.md R14, R16, R17, R26, R27,
R28, R29, 07_operators_flow_and_memory.md R166, R167). -/
def Obligations.RouterFirings : Prop :=
  ∀ s e img r, kget s.images e.tp.key = some img → img.rtrAt e = some r → mayFire s img = true →
    img.elemStopped r.tile r.elem = false → jibFirst s e = false →
    let at_ (p : Nat) : Option (Token × Tag) := img.headOf (inputOf e p)
    let goes (i : Instr) (take : List Nat) (outs : List (List Nat × Token)) (r1 : RtrSlot) : Prop :=
      (∀ o ∈ outs, img.hasRoom e o.1 = true) → (∀ p ∈ take, portHalted s img (inputOf e p) = false) →
        let tag : Tag := img.routerTag e r (take.filterMap fun p => (at_ p).map fun x => (p, x))
        exec i s = .next (settle (putImage s e.tp.key
          ((img.setRtr e { r1 with count := r.count + if tag.n.any (2 ^ 40 ≤ ·) then 0 else outs.length }).fire e take outs tag)))
    let first (x y : Token) : Token := if x.cls = .poison then x else y
    (r.word.opc = .steer → ∀ d k, at_ 0 = some d → at_ 1 = some k →
      (k.1.cls = .poison → goes (.opSteer e) [0, 1] [([0, 1], first d.1 k.1), ([2, 3], first d.1 k.1)] r) ∧
      (k.1.cls ≠ .poison →
      let part (m : BitVec 16) : Token := if d.1.cls = .poison then d.1 else { d.1 with mask := d.1.mask &&& m }
      let t := k.1.tset
      goes (.opSteer e) [0, 1] ((if t = 0 then [] else [([0, 1], part t)]) ++ (if t = 0xFFFF then [] else [([2, 3], part (~~~t))])) r)) ∧
    (r.word.opc = .mergeOrd → ∀ k, at_ 2 = some k →
      (k.1.cls = .poison → ∀ x y, at_ 0 = some x → at_ 1 = some y →
        goes (.opMergeOrd e) [0, 1, 2] [([0, 1, 2, 3], first x.1 (first y.1 k.1))] r) ∧
      (k.1.cls ≠ .poison →
      (∀ x, at_ 0 = some x → k.1.tset = 0xFFFF → goes (.opMergeOrd e) [0, 2] [([0, 1, 2, 3], x.1)] r) ∧
      (∀ y, at_ 1 = some y → k.1.tset = 0 → goes (.opMergeOrd e) [1, 2] [([0, 1, 2, 3], y.1)] r) ∧
      (∀ x y, at_ 0 = some x → at_ 1 = some y → k.1.tset ≠ 0 → k.1.tset ≠ 0xFFFF →
        goes (.opMergeOrd e) [0, 1, 2] [([0, 1, 2, 3], if x.1.cls = .poison then x.1 else if y.1.cls = .poison then y.1 else
          { lanes := Vector.ofFn fun i => if k.1.tset.getLsbD i.val then x.1.lane i.val else y.1.lane i.val
            mask := x.1.mask ||| y.1.mask, cls := x.1.cls })] r))) ∧
    (r.word.opc = .mergeArr →
      (∀ x, at_ 0 = some x → (at_ 1 = none ∨ r.tookX = false) → goes (.opMergeArr e) [0] [([0, 1, 2, 3], x.1)] { r with tookX := true }) ∧
      (∀ y, at_ 1 = some y → (at_ 0 = none ∨ r.tookX = true) → goes (.opMergeArr e) [1] [([0, 1, 2, 3], y.1)] { r with tookX := false })) ∧
    (r.word.opc = .carry →
      (r.loop = false → ∀ i, at_ 0 = some i → goes (.opCarry e) [0] [([0, 1, 2, 3], i.1)] { r with loop := true }) ∧
      (r.loop = true → ∀ k, at_ 2 = some k →
        (k.1.cls = .poison → (∀ b, at_ 1 = some b → goes (.opCarry e) [1, 2] [([0, 1, 2, 3], first b.1 k.1)] r) ∧
          (at_ 1 = none → goes (.opCarry e) [2] [([0, 1, 2, 3], k.1)] r)) ∧
        (k.1.cls ≠ .poison →
        (k.1.tset = 0 → goes (.opCarry e) [2] [] { r with loop := false }) ∧
        (k.1.tset ≠ 0 → ∀ b, at_ 1 = some b → goes (.opCarry e) [1, 2] [([0, 1, 2, 3], b.1)] r))))

/-- A memory operator that fires takes its tokens, reserves its result and enters its instance's wave chain (01_execution_model.md R31,
03_memory_model.md R76, 07_operators_flow_and_memory.md R173, 09_scalar_stream_reference.md R244). -/
def Obligations.MemoryOperatorsEnter : Prop :=
  ∀ s o e img sl hs, o ∈ [Opc.vld, .vst, .memnop, .ldfe, .vldx, .vstx, .apst, .fence, .monwait, .redFx, .amoAdd, .amoAnd, .amoOr, .amoXor, .amoMin,
      .amoMax, .amoMinu, .amoMaxu, .amoSwap, .amoCas, .amoFadd] →
    Ready s o e img sl hs → Plain hs → img.hasRoom e allTargets = true →
    let g : Tag := tagOf hs
    let x : MemFire := { op := s.nextId, slot := e.slot, copy := sl.turn, a := tokenAt sl.word hs 0, b := tokenAt sl.word hs 1,
                         c := tokenAt sl.word hs 2, seeds := seedsAt s img.unit, started := none, fault := none, winWait := [], poisoned := false,
                         issued := none, queued := none, entry := none, again := false }
    let img1 : Image := (img.setSlot e { sl with dealt := sl.dealt + 1 }).fire e (arcPorts sl.word) [] g
    let images := kput s.images e.tp.key
      { img1 with arcs := img1.arcs.map fun a => if a.fromSite e allTargets then a.reserve s.nextId g false else a }
    let it0 : Inst := { unit := img.unit, ended := false, fenced := false, img := e.tp.key, blk := e.blk, tag := g.n.getD 0, lastW := 0, lastS := 63, pre := g.pre, via := g.via, waiting := [x],
                        deferred := [], fault := none, rel := false, entries := [] }
    (∀ n, instOf s e.tp.key e.blk (g.n.getD 0) = some n →
      exec (o.instr e) s = .next (settle { s with images := images, nextId := s.nextId + 1, insts := kmod s.insts n fun it =>
        { it with waiting := it.waiting ++ [x], pre := it.pre ++ g.pre.filter fun p => !it.pre.contains p, via := joinVia it.via g.via } })) ∧
    (instOf s e.tp.key e.blk (g.n.getD 0) = none →
      exec (o.instr e) s = .next (settle { s with images := images, nextId := s.nextId + 2, insts := kput s.insts (s.nextId + 1) it0 }))

/-- `emit` sends one journal entry per firing, and its store enters the wave chain at the acknowledgement (07_operators_flow_and_memory.md R186, R187,
17_links_and_backstay_journal.md R382). -/
def Obligations.EmitSendsAndTakesAcks : Prop :=
  (∀ s e img sl u hs j, kget s.images e.tp.key = some img → img.slotAt e = some sl → sl.word.opc = .emit → sl.halts = false →
    mayFire s img = true → jibFirst s e = false → img.headsOf e [0, 1] = some hs → takesHalted s img e [0, 1] = false → Plain hs → kget s.units img.unit = some u → emitStream img e = some j →
    (tokenAt sl.word hs 0).valid 0 = true → (tokenAt sl.word hs 1).valid 0 = true → img.hasRoom e allTargets = true →
    let a := tokenAt sl.word hs 0
    let b := tokenAt sl.word hs 1
    let x := journalOf s img.die j
    let ws := entryWords s img.die j (x.ackn.toNat + x.pend.length + 1) x.gseq b
    let g := tagOf hs
    let img1 := (img.setSlot e { sl with dealt := sl.dealt + 1, pend := sl.pend ++ [{ op := s.nextId, tag := g, a := a, b := b, seeds := u.seeds }] }).fire e [0, 1] [] g
    (4 ≤ sl.pend.length → exec (.opEmit e) s = .next (settle s)) ∧
    (sl.pend.length < 4 → x.state = 1 → x.asid = u.asid →
      exec (.opEmit e) s = .next (settle
        { s with images := kput s.images e.tp.key { img1 with arcs := img1.arcs.map fun c => if c.fromSite e allTargets then c.reserve s.nextId g false else c },
                 nextId := s.nextId + 1,
                 journals := dset JStream.initial s.journals (16 * img.die + j) { x with pend := x.pend ++ [{ words := ws, site := e, unit := img.unit }] },
                 halOut := .entry x.port.toNat ws :: s.halOut }))) ∧
  ∀ s e img sl t g p rest, kget s.images e.tp.key = some img → img.slotAt e = some sl → sl.word.opc = .emit → sl.halts = false →
    mayFire s img = true → jibFirst s e = false → takesHalted s img e [2] = false → img.headOf (inputOf e 2) = some (t, g) → t.cls ≠ .poison → sl.pend = p :: rest →
    let s0 := putImage s e.tp.key ((img.setSlot e { sl with pend := rest }).fire e [2] [] Tag.none)
    let s1 := match emitStream img e with | some j => settleAcks s0 img.die j | none => s0
    exec (.emitAck e) s = .next (settle (enterChain s1 img.unit e p.tag
      { op := p.op, slot := e.slot, copy := sl.turn, a := p.a, b := p.b, c := t, seeds := p.seeds, again := false, started := none, fault := none, winWait := [], poisoned := false,
        issued := none, queued := none, entry := (emitStream img e).map fun j => (16 * img.die + j, (t.lane 0).toNat) }))

/-- The next wave operation loads through its own thread's stores, or defers its stores to the commit (03_memory_model.md R76, R78,
02_number_formats.md R63, 07_operators_flow_and_memory.md R173, R174, R175, R176, R177, 01_execution_model.md R14, R31). -/
def Obligations.WaveLoadsAndStores : Prop :=
  (∀ s n it img u w x sl p, Chosen s n it img u w x sl → firstPoison [x.a, x.b, x.c] = some p →
    sl.word.opc ∈ [Opc.vld, .vldx, .memnop, .ldfe, .fence, .monwait] → Ends (.waveIssue n) s (chainDone s n it x sl.word p)) ∧
  ∀ s n it img u w x sl, Issuable s n it img u w x sl →
    let sz : Nat := elemSize sl.word.ty
    let key : Nat := img.tpKey (sl.place x.copy img).1
    let row (i : Nat) : Nat := (addrOf x (x.a.lane 0) + i * sz) % 2 ^ 57
    let each (i : Nat) : Nat := addrOf x (x.a.lane i)
    let lanesAt (m : BitVec 16) (A : Nat → Nat) (acc : Access) (P : Nat → Phys) : Prop :=
      checkLanes s w sz acc ((lanesOf m).map fun i => (i, A i)) = .ok ((lanesOf m).map fun i => (i, P i))
    let gives (val : Nat → Lane × Flags) : State :=
      chainDone (orNumst s key (flagsOf (fun i => (val i).2) x.a.mask)) n it x sl.word (Token.make (fun i => (val i).1) x.a.mask .data)
    let loads (P : Nat → Phys) : State := gives fun i => loadElem sl.word.ty (sl.word.mod.getLsbD 0) (readOwn s n x img.die (P i) sz)
    let window (p : Phys) : Option Int := match p with
      | .dpa a => fxWindow s w.job a
      | _ => none
    let cells (P : Nat → Phys) (W : Nat → Int) : State := gives fun i => fxRead (W i) (BitVec.ofNat 128 (leNat (readOwn s n x img.die (P i) 16)))
    let load (A : Nat → Nat) (P : Nat → Phys) : Prop :=
      lanesAt x.a.mask A .read P → x.poisoned = false → (∀ i ∈ lanesOf x.a.mask, Clear s (P i) sz) →
        (sl.word.ty ≠ 14 → Ends (.waveIssue n) s (loads P)) ∧
        (sl.word.ty = 14 → ∀ W : Nat → Int, (∀ i ∈ lanesOf x.a.mask, window (P i) = some (W i)) → Ends (.waveIssue n) s (cells P W))
    let outside (A : Nat → Nat) (P : Nat → Phys) : Prop :=
      lanesAt x.a.mask A .read P → sl.word.ty = 14 → ∀ i, (lanesOf x.a.mask).find? (fun i => (window (P i)).isNone) = some i →
        Ends (.waveIssue n) s (memTrap s n it img x sl 0x12 (BitVec.ofNat 64 (A i)))
    let stores (m : BitVec 16) (A : Nat → Nat) (P : Nat → Phys) : State :=
      let el (i : Nat) : List Byte × Flags := storeElem sl.word.ty (sl.word.mod.extractLsb' 0 2) (x.b.lane i)
      let put : List Deferred := (lanesOf m).map fun i => .store (A i) (P i) (el i).1 (sl.word.mod.getLsbD 2)
      chainDone (orNumst { s with insts := kmod s.insts n fun it =>
        { it with deferred := it.deferred ++ put, rel := it.rel || decide (memOrd sl.word = .rel) } } key (flagsOf (fun i => (el i).2) m))
        n it x sl.word (Token.control m)
    (sl.word.opc = .memnop → Ends (.waveIssue n) s (chainDone s n it x sl.word x.a)) ∧
    (∀ P : Nat → Phys,
      (sl.word.opc = .vld → x.a.valid 0 = true → load row P ∧ outside row P) ∧ (sl.word.opc = .vldx → load each P ∧ outside each P)) ∧
    (∀ P : Nat → Phys,
      let free (m : BitVec 16) : Prop := ∀ i ∈ lanesOf m, tierBusy s (P i) = false ∧ (sl.word.mod.getLsbD 2 = true → (caddyOf (P i)).isSome = true)
      (sl.word.opc = .vst → x.a.valid 0 = true → free x.b.mask → lanesAt x.b.mask row .write P → Ends (.waveIssue n) s (stores x.b.mask row P)) ∧
      (sl.word.opc = .vstx → free (x.a.mask &&& x.b.mask) → lanesAt (x.a.mask &&& x.b.mask) each .write P → Ends (.waveIssue n) s (stores (x.a.mask &&& x.b.mask) each P))) ∧
    (sl.word.opc = .ldfe → x.a.valid 0 = true → x.poisoned = false → ∀ p a, checkLane s w (each 0) 16 .read = .ok p →
      caddyOf p = some a → windowed s none p 16 = false → isFull s a = true → granuleAhead s a x = false →
      (sl.word.ty = 14 → (fxWindow s w.job a).isSome = true) →
      let bs : List Byte := readOwn s n x img.die p 16
      let m : BitVec 16 := BitVec.ofNat 16 (2 ^ (16 / sz) - 1)
      let val (i : Nat) : Lane × Flags :=
        if sl.word.ty = 14 then fxRead ((fxWindow s w.job a).getD 0) (BitVec.ofNat 128 (leNat bs))
        else loadElem sl.word.ty false ((bs.drop (i * sz)).take sz)
      let s1 : State := if sl.word.mod.getLsbD 0 then setFull s a false else s
      Ends (.waveIssue n) s (chainDone (orNumst s1 key (flagsOf (fun i => (val i).2) m)) n it x sl.word (Token.make (fun i => (val i).1) m .data)))

/-- The next wave operation fences, starts a copy, waits on a location, or adds into FX128 cells, as R178 to R181 say (07_operators_flow_and_memory.md
R173, R178, R179, R180, R181, 03_memory_model.md R76, R80, R81, 02_number_formats.md R61, R62). -/
def Obligations.WaveSystemOperators : Prop :=
  (∀ s n it img u w x sl, Issuable s n it img u w x sl →
    let o : Opc := sl.word.opc
    let va : Nat := addrOf x (x.a.lane 0)
    let goesOn (s1 : State) (t : Token) : Prop := Ends (.waveIssue n) s (chainDone s1 n it x sl.word t)
    let waits (s1 : State) (on : List (Phys × Nat)) : Prop :=
      Ends (.waveIssue n) s { s1 with insts := kmod s1.insts n fun i => { i.moved x sl.word with waiting := i.waiting.map fun y => if y.op ≠ x.op then y else
        { y with winWait := on, started := some (y.started.getD s1.tb), fault := none, again := false, issued := some (y.issued.getD i.deferred.length) } } }
    let release : Prop := memOrd sl.word = .rel ∨ memOrd sl.word = .ar
    (o = .fence → (earlierLeft s n x = false → goesOn s x.a) ∧ (earlierLeft s n x = true → waits s [])) ∧
    (o = .apst → x.a.valid 0 = true → x.b.valid 0 = true →
      (∀ d off, translate s w.asid va .write = .ok (.aperture d off) →
        let disp (i : Nat) : Int := if x.b.valid i then (x.b.lane i).toInt else 0
        (off % 128 ≠ 0 → Ends (.waveIssue n) s (memTrap s n it img x sl 0x10 (BitVec.ofNat 64 va))) ∧
        (off % 128 = 0 → 4096 ≤ off ∨ (chanOf s d (off / 128)).holder ≠ some w.asid → Ends (.waveIssue n) s (memTrap s n it img x sl 0x12 (BitVec.ofNat 64 va))) ∧
        (off % 128 = 0 → off < 4096 → (chanOf s d (off / 128)).holder = some w.asid →
          goesOn { s with insts := kmod s.insts n fun i =>
            { i with deferred := i.deferred ++ [.copy va d (off / 128) ((x.b.lane 0).toNat % 256) (disp 1) (disp 2)] } } (Token.control 1))) ∧
      ((∀ d off, translate s w.asid va .write ≠ .ok (.aperture d off)) → (∀ c, translate s w.asid va .write ≠ .bad c) →
        Ends (.waveIssue n) s (memTrap s n it img x sl 0x12 (BitVec.ofNat 64 va)))) ∧
    (o = .apst ∨ o = .monwait → x.a.valid 0 = false ∨ x.b.valid 0 = false → goesOn s x.a) ∧
    (o = .monwait → x.a.valid 0 = true → x.b.valid 0 = true → x.poisoned = false → ∀ p,
      let sz : Nat := if sl.word.ty = 13 then 4 else 8
      checkLane s w va sz .read = .ok p → Clear s p sz →
        let hit : Option Word := (kget s.watches (2 * x.op + 1)).bind fun h => h.hit
        let v : Word := wordOf (readOwn s n x img.die p sz)
        let c : BitVec 3 := sl.word.mod.extractLsb' 0 3
        let y : Word := (x.b.lane 0).setWidth 64
        let ends (v : Word) (late : Lane) : Prop := goesOn s (Token.make (fun i => if i = 0 then v.setWidth 40 else late) 3 .data)
        (∀ h, hit = some h → ends h 0) ∧
        (hit = none →
          (condHolds c 40 v y = true → ends v 0) ∧
          (condHolds c 40 v y = false →
            (x.b.valid 1 = true → (x.b.lane 1).toInt ≤ 0 → ends v 1) ∧
            (¬ (x.b.valid 1 = true ∧ (x.b.lane 1).toInt ≤ 0) →
              waits { s with watches := kput s.watches (2 * x.op + 1) { p := p, die := img.die, n := sz, cond := c, bits := 40, val := y, hit := none } } [])))) ∧
    (∀ (P : Nat → Nat) (W : Nat → Int),
      let row : Bool := decide (o = .amoFadd)
      let m : BitVec 16 := if row then x.b.mask else x.a.mask &&& x.b.mask
      let A (i : Nat) : Nat := if row then (va + 16 * i) % 2 ^ 57 else addrOf x (x.a.lane i)
      (o = .redFx ∨ o = .amoFadd ∧ x.a.valid 0 = true ∧ x.poisoned = false ∧ ∀ i ∈ lanesOf m, Clear s (.dpa (P i)) 16) →
      checkLanes s w 16 .atomic ((lanesOf m).map fun i => (i, A i)) = .ok ((lanesOf m).map fun i => (i, .dpa (P i))) →
      (∀ i ∈ lanesOf m, fxWindow s w.job (P i) = some (W i) ∧ undoFull s (.dpa (P i)) 16 = false ∧ entryHeld s (some n) (.dpa (P i)) 16 = false) →
      (release → earlierLeft s n x = true → waits s []) ∧
      (¬ (release ∧ earlierLeft s n x = true) →
        goesOn ((lanesOf m).foldl (fun t i => writePhys t (.dpa (P i))
          (leBytes 16 (fxAdd (W i) (BitVec.ofNat 128 (leNat (getBytes t.mem (P i) 16))) (x.b.lane i)).toNat)) s) (Token.control 1)))) ∧
  ∀ s n it img u w x sl h p, issuedFire s n x.op = some (it, img, u, w, x, sl) → it.waiting = [x] → x.fault = none → x.poisoned = false →
    sl.word.opc = .monwait → firstPoison [x.a, x.b, x.c] = none → x.a.cls ≠ .header → x.a.valid 0 = true → x.b.valid 0 = true →
    barredByEarlier s it img = false → sameLocationLeft s it img sl.word w x = false →
    let sz : Nat := if sl.word.ty = 13 then 4 else 8
    checkLane s w (addrOf x (x.a.lane 0)) sz .read = .ok p → Clear s p sz →
    ((kget s.watches (2 * x.op + 1)).bind fun k => k.hit) = some h →
    Ends (.waveIssue n) s (chainDone s n it x sl.word (Token.make (fun i => if i = 0 then h.setWidth 40 else 0) 3 .data))

/-- The next wave operation performs an integer atomic at its issue, lane by lane, and returns the old values (07_operators_flow_and_memory.md R173,
R182, 03_memory_model.md R76, R95, R97). -/
def Obligations.WaveAtomics : Prop :=
  ∀ s n it img u w x sl, Issuable s n it img u w x sl → x.poisoned = false →
    sl.word.opc ∈ [Opc.amoAdd, .amoAnd, .amoOr, .amoXor, .amoMin, .amoMax, .amoMinu, .amoMaxu, .amoSwap, .amoCas] → ∀ P : Nat → Phys,
    let o : Opc := sl.word.opc
    let sz : Nat := if sl.word.ty = 1 then 8 else 4
    let m : BitVec 16 := x.a.mask &&& x.b.mask &&& (if o = .amoCas then x.c.mask else 0xFFFF)
    let opnd (t : Token) (i : Nat) : Word := if sl.word.ty = 1 then (t.lane i).signExtend 64 else (t.lane i).setWidth 64
    let sInt (v : Word) : Int := if sl.word.ty = 1 then v.toInt else (v.setWidth 32).toInt
    let uInt (v : Word) : Nat := if sl.word.ty = 1 then v.toNat else (v.setWidth 32).toNat
    let new (old b c : Word) : Option Word := match o with
      | .amoAdd => some (old + b)
      | .amoAnd => some (old &&& b)
      | .amoOr => some (old ||| b)
      | .amoXor => some (old ^^^ b)
      | .amoMin => some (if sInt old ≤ sInt b then old else b)
      | .amoMax => some (if sInt old ≤ sInt b then b else old)
      | .amoMinu => some (if uInt old ≤ uInt b then old else b)
      | .amoMaxu => some (if uInt old ≤ uInt b then b else old)
      | .amoSwap => some b
      | _ => if uInt old = uInt b then some c else none
    let lane (r : State × (Nat → Word)) (i : Nat) : State × (Nat → Word) :=
      let old : Word := wordOf (readPhys r.1 0 (P i) sz)
      (match new old (opnd x.b i) (opnd x.c i) with
        | some v => writePhys r.1 (P i) (leBytes sz v.toNat)
        | none => r.1,
       fun k => if k = i then old else r.2 k)
    let ends : State × (Nat → Word) := (lanesOf m).foldl lane (s, fun _ => 0)
    let ret (v : Word) : Lane := if sl.word.ty = 10 then (v.setWidth 32).signExtend 40 else v.setWidth 40
    let completes (i : Nat) : Bool := match P i with
      | .sys a => decide (o ∈ [Opc.amoAdd, .amoSwap, .amoCas]) && decide (a % 2 ^ 58 < 2 ^ 57) && Config.completesAtomics a
      | _ => true
    checkLanes s w sz .atomic ((lanesOf m).map fun i => (i, addrOf x (x.a.lane i))) = .ok ((lanesOf m).map fun i => (i, P i)) →
      (∀ i, (lanesOf m).find? (fun i => !completes i) = some i → Ends (.waveIssue n) s (memTrap s n it img x sl 0x12 (BitVec.ofNat 64 (addrOf x (x.a.lane i))))) ∧
      ((∀ i ∈ lanesOf m, completes i = true ∧ Clear s (P i) sz ∧ undoFull s (P i) sz = false ∧ entryHeld s (some n) (P i) sz = false) →
        (memOrd sl.word = .rel ∨ memOrd sl.word = .ar → earlierLeft s n x = false) →
        Ends (.waveIssue n) s (chainDone ((lanesOf m).foldl (fun t i => markExternal t w.job (P i)) ends.1) n it x sl.word
          (Token.make (fun i => ret (ends.2 i)) m .data)))

/-- A block instance that has ended commits all its effects in wave order; a monwait ends at its timeout (01_execution_model.md R31, R32,
03_memory_model.md R78, R80, R86, 07_operators_flow_and_memory.md R173, R175, R178, R180). -/
def Obligations.BlockCommits : Prop :=
  (∀ s n it w, kget s.insts n = some it → kget s.units it.unit = some w →
    let ends : Prop := (it.ended = true ∨ (w.life = .bound ∧ w.cancelled = false ∧ instDone s it = true)) ∧ orderHeld s it = false ∧
      ∀ img, instImage s it = some img → commitHeld s it img w = false
    let acts (d : Deferred) (t t1 : State) : Prop := match d with
      | .store _ p bs fill =>
        let t2 : State := markExternal (writePhys t p bs) w.job p
        (fill = false ∨ caddyOf p = none → t1 = t2) ∧
          ∀ a, fill = true → caddyOf p = some a → t1 = (List.range ((a % 16 + bs.length + 15) / 16)).foldl (fun t i => setFull t (a + 16 * i) true) t2
      | .copy _ die ch tmpl ds dd =>
        ((chanOf t die ch).holder ≠ some w.asid → t1 = t) ∧
          ((chanOf t die ch).holder = some w.asid → ∃ code, startCopy t (fabricOp it.unit w die) ch tmpl ds dd false = .ok (t1, code))
    (¬ (ends ∧ it.fault = none) → Ends (.blockCommit n) s s) ∧
    (ends → it.fault = none → (∀ d ∈ it.deferred, deferredHeld s n d = false) → ∀ ts : Nat → State, ts 0 = { s with insts := kdel s.insts n } →
      (∀ i d, it.deferred[i]? = some d → acts d (ts i) (ts (i + 1))) → Ends (.blockCommit n) s (ts it.deferred.length))) ∧
  ∀ s n it img u w x sl t0 p, issuedFire s n x.op = some (it, img, u, w, x, sl) → (∀ y ∈ it.waiting, y ≠ x → y.op ≠ x.op ∧ y.started = none) →
    sl.word.opc = .monwait → x.fault = none → x.poisoned = false → x.started = some t0 → x.b.valid 1 = true →
    (x.b.lane 1).toInt ≤ ((s.tb - t0).toNat : Int) →
    let sz : Nat := if sl.word.ty = 13 then 4 else 8
    checkLane s w (addrOf x (x.a.lane 0)) sz .read = .ok p → Clear s p sz →
    let hit : Option Word := (kget s.watches (2 * x.op + 1)).bind fun h => h.hit
    let v : Word := hit.getD (wordOf (readOwn s n x img.die p sz))
    let met : Bool := condHolds (sl.word.mod.extractLsb' 0 3) 40 v ((x.b.lane 0).setWidth 64)
    Ends (.monwaitTimeout n) s (chainDone s n it x sl.word
      (Token.make (fun i => if i = 0 then v.setWidth 40 else if hit.isSome ∨ met = true then 0 else 1) 3 .data))

/-- `snop`, `sync` and `fxregion` take effect as R197 and R198 say, and a sync writes its value once all earlier commands are done
(08_stream_and_engine_commands.md R189, R190, R192, R197, R198, 04_encodings_and_opcode_maps.md R116). -/
def Obligations.SyncAndRegions : Prop :=
  (∀ s u w c,
    let x : Ctx := Ctx.ofUnit u w
    let va : Nat := x.va (fld c 111 72)
    (Offers s u w .snop c → (fld c 111 0 = 0 → Ends (.snop (.seq u) c) s (noted s u c)) ∧ (fld c 111 0 ≠ 0 → Ends (.snop (.seq u) c) s s)) ∧
    (Offers s u w .sync c → fld c 71 67 = 0 → 2 ≤ fld c 66 64 → fld c 66 64 < 5 → va % 8 = 0 →
      Ends (.sync (.seq u) c) s (entered s u w .any c (.sync va (BitVec.ofNat 64 (fld c 63 0))))) ∧
    (Offers s u w .fxregion c → fld c 27 0 = 0 → va % 16 = 0 →
      (fld c 71 40 = 0 → (∃ r ∈ s.fxregs, r.job = w.job ∧ r.vbase = va) →
        Ends (.fxregion (.seq u) c) s (noted { s with fxregs := s.fxregs.filter fun r => !(r.job = w.job && r.vbase = va) } u c)) ∧
      (fld c 71 40 ≠ 0 → fxWLegal (sfld c 39 29) = true → ∀ ps, mapRange s w.asid va (16 * fld c 71 40) .atomic = .ok ps →
        (regionsOf s w.job).length < 256 → fxPlacement ps = true →
        (∀ r ∈ regionsOf s w.job, ∀ q ∈ r.pieces, ∀ p ∈ dpaPieces ps, p.1 + p.2 ≤ q.1 ∨ q.1 + q.2 ≤ p.1) →
        (∀ p ∈ ps, tierBusy s p.2.1 = false ∧ (fld c 28 28 = 1 → writeHeld s none p.2.1 p.2.2 = false)) →
        let s1 : State := { s with fxregs := s.fxregs ++ [{ job := w.job, asid := w.asid, vbase := va, pieces := dpaPieces ps, w := sfld c 39 29 }] }
        Ends (.fxregion (.seq u) c) s
          (noted (if fld c 28 28 = 1 then ps.foldl (fun t p => writePhys t p.2.1 (List.replicate p.2.2 0)) s1 else s1) u c)))) ∧
  ∀ s n o va val s1, kget s.ops n = some o → o.body = .sync va val → o.fin = none → o.fault = none →
    (∀ p ∈ s.ops, p.1 < n → p.2.byFabric = false → p.2.unit ≠ o.unit) → storeVa s o.asid (some o.job) va (wordBytes val) = .ok s1 →
    Ends (.syncWrite n) s (finishOp s1 n 0)

/-- The `apr` commands build a record on a stream and start it, and the sheave moves its tokens (with the model's readings in log entries 37 and 39)
(08_stream_and_engine_commands.md R199, R200, R201, R202, R203, 02_number_formats.md R60). -/
def Obligations.SheaveRecords : Prop :=
  (∀ s u w c,
    let shv : Nat := fld c 111 108
    let strm : Nat := fld c 107 104
    let x : Ctx := Ctx.ofUnit u w
    let st : Stream := streamFor s u w.tp.die shv strm
    let d : AprDim := { count := 1, valid := 1, stride := 0 }
    let opens (store : Bool) : State :=
      let r : AprRec := { op := 0, unit := u, after := [], store := store, fmt := BitVec.ofNat 4 (fld c 103 100), vs40 := fld c 99 99 = 1,
                          cvm := BitVec.ofNat 2 (fld c 98 97), hdr := fld c 96 96 = 1, blen := fld c 95 88, base := x.va (fld c 79 40),
                          dims := [d, d, d, d], pad := 0, recVa := 0, scales := 0, scv := false, pos := 0, padn := 0, hdrs := 0, hdrSent := false,
                          conv := Flags.none, fin := none, owed := false }
      noted (putStream s w.tp.die shv strm { st with opened := some r }) u c
    let sets (r : AprRec) : State := noted (putStream s w.tp.die shv strm { st with opened := some r }) u c
    (fld c 87 80 = 0 → fld c 39 0 = 0 → fld c 103 100 ≠ 15 → ¬ (fld c 103 100 = 7 ∧ fld c 99 99 = 1) → (st.opened.isSome ∨ st.held < 4) →
      (Offers s u w .aprLoad c → fld c 98 97 = 0 → Ends (.aprLoad (.seq u) c) s (opens false)) ∧
      (Offers s u w .aprStore c → fld c 98 97 ≠ 3 → fld c 103 100 ≠ 14 → Ends (.aprStore (.seq u) c) s (opens true))) ∧
    (∀ r, st.opened = some r →
      (Offers s u w .aprDim c → fld c 101 96 = 0 → fld c 95 64 ≠ 0 → Ends (.aprDim (.seq u) c) s
        (sets { r with dims := setAt r.dims (fld c 103 102) { count := fld c 95 64, valid := fld c 63 32, stride := sfld c 31 0 } })) ∧
      (Offers s u w .aprPad c → fld c 63 0 = 0 → Ends (.aprPad (.seq u) c) s (sets { r with pad := BitVec.ofNat 40 (fld c 103 64) })) ∧
      (Offers s u w .aprEnd c → fld c 23 17 = 0 → fld c 15 0 = 0 → x.va (fld c 103 64) % 32 = 0 → r.fmt ≠ 7 → r.fin = none → r.after = [] →
        cmdSer c = false → bindsStream s u w.tp.die shv strm = some (if r.store then 1 else 0) →
        let r1 : AprRec := { r with op := s.nextId, recVa := x.va (fld c 103 64), scales := x.va (fld c 63 24), scv := fld c 16 16 = 1 }
        let s1 : State := entered s u w .sheave c (.record shv strm)
        (st.running = none → st.queued = [] →
          Ends (.aprEnd (.seq u) c) s (putStream s1 w.tp.die shv strm { st with opened := none, running := some r1 })) ∧
        (∀ r0, st.running = some r0 →
          Ends (.aprEnd (.seq u) c) s (putStream s1 w.tp.die shv strm { st with opened := none, queued := st.queued ++ [r1] }))))) ∧
  ∀ s (k : StreamId) o,
    let st : Stream := streamOf s k.die k.shv k.strm
    (∀ r rest, st.running = none → st.queued = r :: rest → r.fin = none → kget s.ops r.op = some o → mayStart s r.op o = true → (∀ n ∈ r.after, opOver s n = true) →
      Ends (.sheaveRecordStart k) s (putStream s k.die k.shv k.strm { st with running := some r, queued := rest })) ∧
    (∀ r key n, st.running = some r → r.fin = none → r.owed = false → kget s.ops r.op = some o → o.fault = none →
      (r.store = false → findPort s r.unit k.die 0 k.shv k.strm = some (key, n) → portsOpen s key = true → portRoom s key n = true →
        let opens : Bool := r.hdr && !r.hdrSent && decide (r.pos % (r.blen + 1) = 0)
        let left : Nat := r.total - r.pos
        let m : Nat := if r.hdr then min 16 (min left (r.blen + 1 - r.pos % (r.blen + 1))) else min 16 left
        (opens = true → ∀ sc, (if r.scv then loadVa s o.asid k.die ((r.scales + r.pos / (r.blen + 1)) % 2 ^ 57) 1 none else .ok [127]) = .ok [sc] →
          let t : Token := Token.ofHdr { scale := sc, len := BitVec.ofNat 8 (min (r.blen + 1) left - 1), last := left ≤ r.blen + 1, clip := r.pads ≠ 0 }
            (if r.pads = 0 then 0 else BitVec.ofNat 24 (min r.pads (2 ^ 24 - 1)))
          Ends (.sheaveLoadEmit k) s (setRun (portEmit (opReads s r.op) key n t) k.die k.shv k.strm { r with hdrSent := true })) ∧
        (opens = false → ∀ vs fl pads, readSpan s o r m r.pos = .ok (vs, fl, pads) →
        let t : Token := Token.make (fun i => vs.getD i 0) (BitVec.ofNat 16 (2 ^ m - 1)) .data
        let r1 : AprRec := { r with pos := r.pos + m, padn := r.padn + pads, hdrSent := false, conv := r.conv.or fl,
                                    fin := if r.pos + m = r.total then some 0 else none }
        Ends (.sheaveLoadEmit k) s (endRecord (setRun (portEmit (opReads s r.op) key n t) k.die k.shv k.strm r1) k.die k.shv k.strm))) ∧
      (r.store = true → findPort s r.unit k.die 1 k.shv k.strm = some (key, n) → portsOpen s key = true →
        ∀ t, portHead s key n = some t →
        (t.cls = .header →
          let latched (s : State) : State := setRun (portPop (portLatch s key n t) key n) k.die k.shv k.strm { r with hdrs := r.hdrs + 1 }
          ((r.hdr && r.scv) = false → Ends (.sheaveStoreFill k) s (latched s)) ∧
          ((r.hdr && r.scv) = true → ∀ s1, storeVa s o.asid (some o.job) ((r.scales + r.hdrs) % 2 ^ 57) [(t.lane 0).setWidth 8] = .ok s1 →
            Ends (.sheaveStoreFill k) s (latched (opReads s1 r.op)))) ∧
        (t.cls ≠ .poison → t.cls ≠ .header →
        let f : Filled := fillLanes o (portScale s key n) t (lanesOf t.mask) { s := s, r := r, left := t.mask, bad := none }
        f.bad = none →
        Ends (.sheaveStoreFill k) s (endRecord (setRun (portKeep (opReads f.s r.op) key n f.left) k.die k.shv k.strm
          { f.r with fin := if f.r.pos = f.r.total then some 0 else none }) k.die k.shv k.strm)))) ∧
  ∀ (h : Option Hdr) (r : AprRec) (x : Lane), storedValue h r x = match h with
    | some h => if r.vs40 then (x, Flags.none) else hdrScale h x
    | none => (x, Flags.none)

/-- Templates are defined and set, copies start with their windows, permits add up, and a channel lands its bytes in order
(08_stream_and_engine_commands.md R205, R206, R207, R208, R209, R212, R213). -/
def Obligations.CopyCommands : Prop :=
  (∀ s u w c,
    let x : Ctx := Ctx.ofUnit u w
    let ch : Nat := fld c 111 107
    let t : Nat := fld c 111 104
    let die : Nat := w.tp.die
    let d0 : TmplDef := { src := x.va (fld c 103 64), dst := x.va (fld c 63 24), counts := [1, 1, 1, 1], valids := [1, 1, 1, 1], sstr := [0, 0, 0, 0],
                          dstr := [0, 0, 0, 0], extra := [none, none, none], stamp := none, perm := false, npre := 0, ntile := 1, ststr := 0, dtstr := 0 }
    (Offers s u w .cptDef c → fld c 23 0 = 0 → (tmplOf s die t).holder = some w.asid → Ends (.cptDef (.seq u) c) s
      (noted (putTmpl s die t { holder := some w.asid, def_ := some d0 }) u c)) ∧
    (Offers s u w .cptDim c → (tmplOf s die t).holder = some w.asid → ∀ d, (tmplOf s die t).def_ = some d → (cptDimPart x c d).1 = 0 →
      Ends (.cptDim (.seq u) c) s (noted (putTmpl s die t { holder := some w.asid, def_ := some (cptDimPart x c d).2 }) u c)) ∧
    ((chanOf s die ch).holder = some w.asid →
      (Offers s u w .cptGo c → fld c 106 104 = 0 → fld c 15 0 = 0 → ∀ d ws, (tmplOf s die (fld c 103 96)).def_ = some d →
        (tmplOf s die (fld c 103 96)).holder = some w.asid → d.badRange (sfld c 55 16) = false →
        (∀ p ∈ copyPages d (sfld c 55 16), ∃ q, place s w.asid p.1 p.2 .write = .ok q) →
        copyWindows s w.asid s.nextId d (sfld c 55 16) (List.range d.ntile) = .ok ws →
        let k : Chan := chanOf s die ch
        let cp : Copy := { op := s.nextId, asid := w.asid, job := w.job, def_ := d, sdisp := sfld c 95 56, ddisp := sfld c 55 16,
                           first := k.ctr.toNat + 1, tile := 0, at_ := 0, landed := 0, permits := 0, granted := false, saved := [], cut := [] }
        let k1 : Chan := { k with ctr := k.ctr + BitVec.ofNat 40 d.ntile, copies := k.copies ++ [cp],
                                  bwm := if k.copies.isEmpty then BitVec.ofNat 57 (offsetVa d.dst (sfld c 55 16)) else k.bwm }
        Ends (.cptGo (.seq u) c) s { putChan (entered s u w .bte c (.copy ch)) die ch k1 with wins := s.wins ++ ws }) ∧
      (Offers s u w .cptCancel c → fld c 106 40 = 0 → Ends (.cptCancel (.seq u) c) s
        (noted (cutCopies s die ch (fld c 39 0) 7 fun k => k.tile < k.def_.ntile) u c)) ∧
      (Offers s u w .mcPermit c → fld c 106 16 = 0 → fld c 15 0 ≠ 0 → Ends (.mcPermit (.seq u) c) s
        (noted (settleChan (putChan s die ch { chanOf s die ch with
          pcnt := BitVec.ofNat 16 (min 0xFFFF ((chanOf s die ch).pcnt.toNat + fld c 15 0)) }) die ch) u c)))) ∧
  (∀ s (tp : Tp) n img p t w, kget s.images tp.key = some img → img.ports[n]? = some p → p.kind = 2 → portHead s tp.key n = some t →
    kget s.units img.unit = some w → w.life = .bound → w.cancelled = false → (chanOf s img.die p.chan).holder = some w.asid → t.cls ≠ .poison →
    Ends (.permitPortToken tp n) s (addPermits (portPop s tp.key n) img.die p.chan 1)) ∧
  (∀ (d : TmplDef) (disp : Int) (p q : Nat), d.badRange disp = false → d.counts.length = d.dstr.length → p < q → q < d.total →
    patOffset (patIndex d.counts p) d.dstr < patOffset (patIndex d.counts q) d.dstr) ∧
  ∀ s (k : ChanId) n,
    ((chanOf s k.die k.ch).copies = [] → Ends (.bteLanding k n) s s) ∧
    (∀ cp rest o, (chanOf s k.die k.ch).copies = cp :: rest → kget s.ops cp.op = some o → o.fault = none →
      (o.ser = true → serMet s cp.op o.iss o.die o.row = true) → cp.cutOf cp.tile = none → cp.granted = true →
      cp.tile < cp.def_.ntile → cp.at_ < cp.def_.total →
      let d : TmplDef := cp.def_
      let idx : List Nat := patIndex d.counts cp.at_
      let src : Nat := offsetVa (offsetVa d.src cp.sdisp) (cp.tile * d.ststr + patOffset idx d.sstr)
      let dsts : List Nat := (d.dests cp.ddisp).map fun a => offsetVa a (cp.tile * d.dtstr + patOffset idx d.dstr)
      ∀ b ps, copySource s k.die cp src = .ok b → landPlaces s cp.asid dsts = .ok ps →
        let s1 : State := opReads (ps.foldl (fun t p => markExternal (writePhys t p [b]) cp.job p) s) cp.op
        let next : Nat × Int := nextOffset d cp.tile (d.total + 1) (cp.at_ + 1)
        let cp1 : Copy := { cp with at_ := next.1, landed := cp.landed + 1, saved := (landAt cp.job k.die b ps (s, cp.saved)).2 }
        let s2 : State := putChan s1 k.die k.ch { chanOf s1 k.die k.ch with
          bwm := BitVec.ofNat 57 (offsetVa (offsetVa d.dst cp.ddisp) (cp.tile * d.dtstr + next.2)), copies := cp1 :: rest }
        let s3 : State := { s2 with wins := s2.wins.map fun w => if w.op = cp.op ∧ w.tile = cp.tile then { w with wm := next.2.toNat } else w }
        Ends (.bteLanding k n) s (settleChan (landBytes (max n 1 - 1) s3 k.die k.ch) k.die k.ch))

/-- Gather commands set indices, enter their operations, and land or reduce one row at a time (08_stream_and_engine_commands.md R214, R215, R216). -/
def Obligations.GatherAndReduce : Prop :=
  (∀ s u w c,
    let x : Ctx := Ctx.ofUnit u w
    let i : IdxState := dget IdxState.initial s.idxs u
    let set (i : IdxState) : State := noted { s with idxs := dset IdxState.initial s.idxs u i } u c
    let fmt : Nat := fld c 71 68
    let l : Nat × BitVec 4 × Nat × Nat := i.list.getD (0, 0, 0, 0)
    let g (red : Bool) : GathOp :=
      { red := red, tab := x.va (fld c 111 72), dst := x.va (fld c 71 32), rown := fld c 31 20, fmt := BitVec.ofNat 4 (fld c 19 16), pol := fld c 15 14,
        fe := false, idx := l.1, ifmt := l.2.1, nidx := l.2.2.1, limit := l.2.2.2, bags := i.bags, ready := false, done := [] }
    (Offers s u w .gathIdx c →
      (c.getLsbD 112 = false → fld c 67 64 = 0 → fmt = 12 ∨ fmt = 10 ∨ fmt = 13 → fld c 63 32 ≠ 0 → fld c 31 0 ≠ 0 → Ends (.gathIdxList (.seq u) c) s
        (set { list := some (x.va (fld c 111 72), BitVec.ofNat 4 fmt, fld c 63 32, fld c 31 0), bags := none })) ∧
      (c.getLsbD 112 = true → fld c 71 64 = 0 → fld c 31 0 = 0 → fld c 63 32 ≠ 0 → fld c 63 32 ≠ 2 ^ 32 - 1 → Ends (.gathIdxBag (.seq u) c) s
        (set { i with bags := some (x.va (fld c 111 72), fld c 63 32) }))) ∧
    (i.list.isSome = true → cmdFe c = false → fld c 13 0 = 0 →
      (Offers s u w .gathRow c → fld c 19 16 = 0 → Ends (.gathRow (.seq u) c) s (entered s u w .gre c (.gath (g false)))) ∧
      (Offers s u w .gathRed c → fld c 19 16 ≠ 7 → fld c 19 16 < 14 → Ends (.gathRed (.seq u) c) s (entered s u w .gre c (.gath (g true)))))) ∧
  ∀ s n j o g, kget s.ops n = some o → o.body = .gath g → g.ready = true → o.fin = none → o.fault = none → j < g.rows → g.done.contains j = false →
    let g1 : GathOp := { g with done := j :: g.done }
    let ends (s1 : State) (f : Flags) : Prop :=
      let s2 : State := modOp (opReads s1 n) n fun o => { o with body := .gath g1, conv := o.conv.or f }
      Ends (.greRow n j) s (if g1.done.length = g.rows then finishOp s2 n 0 else s2)
    (g.red = false → g.fe = false → ∀ k bs s1, idxAt s o g j = .ok (k : Int) → 0 ≤ k → k < g.limit →
      loadVa s o.asid o.die ((g.tab + 16 * (g.rown + 1) * k.toNat) % 2 ^ 57) (16 * (g.rown + 1)) none = .ok bs →
      storeVa s o.asid (some o.job) ((g.dst + 16 * (g.rown + 1) * j) % 2 ^ 57) bs = .ok s1 → ends s1 Flags.none) ∧
    (g.red = true → ∀ s1 f, reduceBag s o g j = .ok (s1, f) → ends s1 f)

/-- Quantisation and near-memory commands enter their operations and update one block or element at a time (08_stream_and_engine_commands.md R217,
R218, R226, R227, 18_program_near_memory_update.md R391). -/
def Obligations.BlocksAndNearMemory : Prop :=
  (∀ s u w c,
    let x : Ctx := Ctx.ofUnit u w
    let q (dq : Bool) : QntOp :=
      { dq := dq, a := x.va (fld c 111 72), q := x.va (fld c 71 32), wfmt := BitVec.ofNat 4 (fld c 31 28), qfmt := BitVec.ofNat 4 (fld c 27 24),
        blen := fld c 23 16, cvm := BitVec.ofNat 2 (fld c 15 14), nblk := fld c 13 0 + 1, next := 0 }
    (x.va (fld c 71 32) % 64 = 0 → fld c 31 28 ∈ [0, 2, 3, 4] → fld c 27 24 ∈ [5, 6, 7, 8] → (fld c 27 24 = 7 → (fld c 23 16 + 1) % 4 = 0) → fld c 15 14 ≠ 3 →
      (Offers s u w .qntBlk c → Ends (.qntBlk (.seq u) c) s (entered s u w .qe c (.qnt (q false)))) ∧
      (Offers s u w .qntDq c → Ends (.qntDq (.seq u) c) s (entered s u w .qe c (.qnt (q true))))) ∧
    (∀ k yf, let cells : Nat := (if k = NmcKind.red then 16 else 4) * (fld c 23 0 + 1)
      let b : NmcOp := { kind := k, x := x.va (fld c 111 72), y := x.va (fld c 71 32), sa := x.scalar (fld c 31 28), sb := x.scalar (fld c 27 24),
                         n := fld c 23 0 + 1, yfmt := yf, done := [] }
      ∀ xs ys, mapRange s w.asid b.x cells .atomic = .ok xs → mapRange s w.asid b.y (elemSize yf * b.n) .read = .ok ys → rangesOverlap xs ys = false →
      oneStack (xs ++ ys) = true → b.y % 4 = 0 →
      (k = .sgd → b.x % 4 = 0 → yf = (if c.getLsbD 112 then 3 else 2) → Offers s u w .nmcSgd c →
        Ends (.nmcSgd (.seq u) c) s (entered s u w .nmc c (.nmc b))) ∧
      (k = .decay → b.x % 4 = 0 → yf = (if c.getLsbD 112 then 3 else 2) → Offers s u w .nmcDecay c →
        Ends (.nmcDecay (.seq u) c) s (entered s u w .nmc c (.nmc b))) ∧
      (k = .red → b.x % 16 = 0 → yf = c.extractLsb' 112 4 → yf ≠ 7 → yf.toNat < 14 → Offers s u w .nmcRed c →
        Ends (.nmcRed (.seq u) c) s (entered s u w .nmc c (.nmc b))))) ∧
  ∀ s n o, kget s.ops n = some o → mayStart s n o = true → o.fault = none →
    let ends (i : Instr) (s1 : State) (f : Flags) (b : OpBody) (last : Prop) : Prop :=
      let s2 : State := modOp (opReads s1 n) n fun o => { o with body := b, conv := o.conv.or f }
      (last → Ends i s (finishOp s2 n 0)) ∧ (¬ last → Ends i s s2)
    (∀ q s1 f, o.body = .qnt q → (if q.dq then dequantBlock s o q q.next else quantBlock s o q q.next) = .ok (s1, f) →
      ends (.qeBlock n) s1 f (.qnt { q with next := q.next + 1 }) (q.next + 1 = q.nblk)) ∧
    (∀ b i s1 f, o.body = .nmc b → i < b.n → b.done.contains i = false → nmcUce s n i = none → nmcElem s o b i = .ok (s1, f) →
      ends (.nmcElementUpdate n i) s1 f (.nmc { b with done := i :: b.done }) (b.done.length + 1 = b.n)) ∧
    (∀ i a, nmcUce s n i = some a → Ends (.nmcElementUpdate n i) s (rollback s a))

/-- Binding a granted, free chain or task queue, its tail commands, and unbinding it (08_stream_and_engine_commands.md R193, R195, R196, R219). -/
def Obligations.ChainsBindAndUnbind : Prop :=
  (∀ s u w c,
    let x : Ctx := Ctx.ofUnit u w
    let family (kind : ChainKind) (row : Engine) (num : Nat) (mask : BitVec 16) (form : Prop) (bind unbind : Instr) (ob ou : Prop) : Prop :=
      let k : ChainId := { kind := kind, die := w.tp.die, num := num }
      let ch : Chain := chainOf s k
      let desc : Nat := x.va (fld c 79 40)
      (ob → form → desc % 64 = 0 → ch.holder = some w.asid → boundSoon s k = false → mask &&& ~~~ch.mxes = 0 →
        ∀ bs h, x.load s desc 64 = .ok bs → (readDesc k x mask s.tb bs).1 = 0 → x.load s (readDesc k x mask s.tb bs).2.seqa 8 = .ok h →
        let n : Nat := (wordOf h).toNat % 2 ^ 40
        let b : Bound := { (readDesc k x mask s.tb bs).2 with head := n, pub := n, tail := n }
        Ends bind s (noted (putChain s k { ch with bound := some b }) u c)) ∧
      (ou → form → ∀ b, ch.bound = some b → b.asid = w.asid → b.unbinding = none →
        Ends unbind s (settleUnbind
          (modBound (entered s u w row c (.unbind kind num)) k fun b => { b with unbinding := some s.nextId }) k))
    let plain : Prop := fld c 104 80 = 0 ∧ fld c 39 0 = 0
    let six : Nat := fld c 111 106
    let undo : Prop := c.getLsbD 105 = true
    family .gre .gre six 0 plain (.gathChainBind (.seq u) c) (.gathChainUnbind (.seq u) c) (Offers s u w .gathChain c ∧ ¬ undo) (Offers s u w .gathChain c ∧ undo) ∧
    family .qe .qe six 0 plain (.qntChainBind (.seq u) c) (.qntChainUnbind (.seq u) c) (Offers s u w .qntChain c ∧ ¬ undo) (Offers s u w .qntChain c ∧ undo) ∧
    family .nmc .nmc six 0 plain (.nmcChainBind (.seq u) c) (.nmcChainUnbind (.seq u) c) (Offers s u w .nmcChain c ∧ ¬ undo) (Offers s u w .nmcChain c ∧ undo) ∧
    family .mxq .mxe (fld c 111 108) (BitVec.ofNat 16 (fld c 107 92)) (fld c 90 80 = 0 ∧ fld c 39 0 = 0) (.mxqSetBind (.seq u) c) (.mxqSetUnbind (.seq u) c)
      (Offers s u w .mxqSet c ∧ c.getLsbD 112 = false ∧ c.getLsbD 91 = false ∧ BitVec.ofNat 16 (fld c 107 92) ≠ 0)
      (Offers s u w .mxqSet c ∧ c.getLsbD 112 = false ∧ c.getLsbD 91 = true)) ∧
  ∀ s (k : ChainId) b v, (chainOf s k).bound = some b → s.dies.getLsbD k.die = true → loadWord s b.asid k.die b.taila = .ok v →
    b.poisoned = false →
    let read (s : State) : State := modBound s k fun b => { b with tail := v.toNat, tailDue := false, waitsOn := [], fault := if faultAt b.fault b.taila then none else b.fault }
    Ends (.chainDoorbell k) s (read s) ∧
    (b.tailDue = false → b.pollt ≠ 0 → b.pollt ≤ (s.tb - b.polled).toNat → Ends (.chainTailPoll k) s (read (modBound s k fun b => { b with polled := s.tb }))) ∧
    (∀ u w c, kget s.units u = some w → b.asid = w.asid → k.die = w.tp.die →
      let plain : Prop := fld c 104 80 = 0 ∧ fld c 39 0 = 0 ∧ k.num = fld c 111 106
      (Offers s u w .gathTail c → k.kind = .gre → plain → Ends (.gathTail (.seq u) c) s (noted (read s) u c)) ∧
      (Offers s u w .qntTail c → k.kind = .qe → plain → Ends (.qntTail (.seq u) c) s (noted (read s) u c)) ∧
      (Offers s u w .nmcTail c → k.kind = .nmc → plain → Ends (.nmcTail (.seq u) c) s (noted (read s) u c)) ∧
      (Offers s u w .mxqSet c → c.getLsbD 112 = true → k.kind = .mxq → k.num = fld c 111 108 → Ends (.mxqSetTail (.seq u) c) s (noted (read s) u c)))

/-- A chain starts its next entry when it may, and publishes each finished entry in its status and sequence words (08_stream_and_engine_commands.md
R192, R193, R194, R195). -/
def Obligations.EntriesStartAndFinish : Prop :=
  (∀ s (k : ChainId) b bs base o s1 code, (chainOf s k).bound = some b → s.dies.getLsbD k.die = true → b.stopped = false → b.unbinding = none →
    b.fault = none → b.poisoned = false → b.head + 1 ≤ b.tail → b.head + 1 ≤ b.pub + b.nent → 
    let mx : Prop := k.kind = .mxq
    loadVa s b.asid k.die (b.entryVa (decide mx) (b.head + 1)) (if mx then 64 else 32) none = .ok bs → loadVa s b.asid k.die b.basea 128 none = .ok base →
    let c : Cmd128 := BitVec.ofNat 128 (fieldAt bs 0 16)
    Sopc.ofCode (c.extractLsb' 120 8) = some o → entryAdmits k.kind o = true → flagFallback o c = (c, {}) →
    (cmdSer c = true → b.pub = b.head) → (¬ mx → waitRes s b.asid (BitVec.ofNat 64 (fieldAt bs 16 8)) = .met) →
    let x : Ctx := { iss := .chain k (b.head + 1), unit := none, launch := b.launch, job := b.job, asid := b.asid, die := k.die,
                     bases := (List.range 16).map fun i => BitVec.ofNat 64 (fieldAt base (8 * i) 8), tpKey := 0 }
    (if mx then issueRecord s x c k.num (b.head + 1) b.lastRing (bs.drop 16) else issueBy o s x c) = .st s1 code →
    Ends (.chainEntryStart k) s (entryStarted s s1 x k (b.head + 1) o.engine c code {})) ∧
  (∀ s n o (k : ChainId) e b st s1 s2 s3, kget s.ops n = some o → o.iss = .chain k e → o.fin = some st → o.fault = none → (chainOf s k).bound = some b →
    let word : Word := statusWord e st o.conv o.warn o.corrected
    let p : Nat × List Nat := advancePub (b.finished.length + 1) b.pub (e :: b.finished)
    storeObj s b.job b.asid (b.statVa (k.kind = .mxq) e) (leBytes 8 word.toNat) = .ok s1 →
    (if p.1 = b.pub then s2 = s1 else storeObj s1 b.job b.asid b.seqa (leBytes 8 p.1) = .ok s2) →
    (if o.ntf = true ∧ b.ntfa ≠ 0 then storeObj s2 b.job b.asid b.ntfa (leBytes 8 e) = .ok s3 else s3 = s2) →
    b.vec = none →
    Ends (.chainEntryFinish n) s
      (settleUnbind (modBound { s3 with ops := kdel s3.ops n } k fun b =>
        { b with pub := p.1, finished := p.2, streamed := (if o.streams = true then e :: b.streamed else b.streamed).filter fun t => p.1 < t }) k)) ∧
  ∀ s n o u st, kget s.ops n = some o → o.iss = .seq u → o.fin = some st → o.fault = none →
    Ends (.engineOpComplete n) s (if o.ntf then notifyUnit { s with ops := kdel s.ops n } u else { s with ops := kdel s.ops n })

/-- Matrix commands load and swap planes, and tasks start, accumulate, rerun and end on an MXE (CONV as log entry 46 reads it)
(08_stream_and_engine_commands.md R194, R219, R220, R221, R222, R223, R224, 16_reliability_and_determinism.md R359). -/
def Obligations.MatrixCommands : Prop :=
  (∀ s u w c,
    let x : Ctx := Ctx.ofUnit u w
    let die : Nat := w.tp.die
    let ms : List Nat := mxesOf (fld c 111 96)
    let l : LdstatOp := { waddr := x.va (fld c 95 56), wfmt := BitVec.ofNat 4 (fld c 55 52), k := fld c 51 44 + 1, n := fld c 43 36 + 1,
                          wstr := fld c 35 12, scl := c.getLsbD 112, left := ms }
    let q (n : Nat) : Option Bound := (chainOf s { kind := .mxq, die := die, num := n }).bound
    (Offers s u w .ldstat c → fld c 11 0 = 0 → fld c 55 52 ∈ [3, 5, 6, 7, 8] → (fld c 55 52 = 7 → (fld c 43 36 + 1) % 4 = 0) → ms ≠ [] → Ends (.ldstat (.seq u) c) s
      (ms.foldl (fun t m => putMxe t die m { mxeOf t die m with loads := (mxeOf t die m).loads ++ [s.nextId] }) (entered s u w .mxe c (.ldstat l)))) ∧
    (∀ b, q (fld c 95 92) = some b → b.asid = w.asid → Offers s u w .mxswap c → fld c 51 0 = 0 →
      BitVec.ofNat 16 (fld c 111 96) &&& ~~~b.mask = 0 → ms ≠ [] → Ends (.mxswap (.seq u) c) s
      (ms.foldl (fun t m => putMxe t die m { mxeOf t die m with swaps := (mxeOf t die m).swaps ++ [s.nextId] })
        (entered s u w .mxe c (.swap { queue := fld c 95 92, bseq := fld c 91 52, left := ms, met := false })))) ∧
    (∀ b, q (fld c 111 108) = some b → b.asid = w.asid → Offers s u w .mxtask c → lowest (taskChecks c) = 0 → (taskWarn c) = {} →
      x.va (fld c 107 68) % 64 = 0 → Ends (.mxtask (.seq u) c) s
        (modBound (entered s u w .mxe c (.task (taskOf x c 0 b.lastTask))) { kind := .mxq, die := die, num := fld c 111 108 }
          fun b => { b with lastTask := s.nextId }))) ∧
  ∀ s die m,
    let e : Mxe := mxeOf s die m
    let after (t : State) (n : OpId) (left : List Nat) : State := if left.isEmpty then finishOp t n 0 else t
    (∀ n rest o l p, e.loads = n :: rest → kget s.ops n = some o → o.body = .ldstat l → mayStart s n o = true → o.fault = none → readTile s o l = .ok p →
      Ends (.ldstatComplete die m) s (after (modOp (opReads (putMxe s die m { e with loads := rest, shadow := p }) n) n fun o =>
        { o with body := .ldstat { l with left := l.left.filter fun i => i ≠ m } }) n (l.left.filter fun i => i ≠ m))) ∧
    (∀ n rest o y, e.swaps = n :: rest → kget s.ops n = some o → o.body = .swap y → mayStart s n o = true → e.task = none →
      (∀ l ∈ e.loads, n ≤ l) → (∃ p, published s { kind := .mxq, die := die, num := y.queue } = some p ∧ y.bseq ≤ p) →
      Ends (.mxswapExchange die m) s (after (modOp (putMxe s die m { e with swaps := rest, stat := e.shadow, shadow := e.stat }) n fun o =>
        { o with body := .swap { y with left := y.left.filter fun i => i ≠ m } }) n (y.left.filter fun i => i ≠ m))) ∧
    (∀ n o t b own, kget s.ops n = some o → o.body = .task t → o.die = die → mayStart s n o = true → o.fault = none → t.mxe = none → t.rec_ = none →
      depsMet s o t = true → (chainOf s { kind := .mxq, die := die, num := t.queue }).bound = some b → b.mask.getLsbD m = true →
      e.task = none → swapBlocks s e t = false → planeFit t e.stat = 0 →
      (t.cont = false ∧ e.acc = none ∧ own = none ∨
        ∃ a, e.acc = some a ∧ own = some a ∧ t.continues o.asid a = true ∧ a.mode = t.mode ∧ accAt s die o.asid t = some m ∧ spilledFor s die o.asid t = none) →
      Ends (.mxeTaskStart n m) s
        (modOp (putMxe s die m { e with acc := own, task := some n }) n fun o => { o with body := .task { t with mxe := some m, start := own } })) ∧
    (∀ n o t act rows, kget s.ops n = some o → o.body = .task t → o.die = die → o.fin = none → o.fault = none → t.mxe = some m → t.results = none →
      t.act = some act → t.rel = false → memRows s o t act t.m 0 = .ok rows →
      let r : MxAcc × Flags := runTask o t e.stat rows
      Ends (.mxeTaskEnd n) s
        (leaveMxe (modOp (opReads (setTask s n t) n) n fun o => { o with conv := (o.conv.or t.operandFlags).or r.2 }) n m 0 o t (some r.1))) ∧
    (∀ n o t, e.task = some n → kget s.ops n = some o → o.body = .task t → t.results = none →
      Ends (.mxeResidueFail die m) s (putMxe (modOp s n fun o => { o with conv := Flags.none }) die m { e with acc := t.start }))

/-- `dead.set` and `dead.clr` zero and mark or unmark their units; `emit.jnl` binds a stream, `emit.seq` sends the end record
(08_stream_and_engine_commands.md R228, R229, 17_links_and_backstay_journal.md R381, R386, R388). -/
def Obligations.DeadRegionsAndJournals : Prop :=
  ∀ s u w c,
    let va : Nat := (Ctx.ofUnit u w).va (fld c 111 72)
    let j : Nat := fld c 111 108
    let t : JStream := journalOf s w.tp.die j
    (fld c 39 0 = 0 → va % 65536 = 0 → fld c 71 40 ≠ 0 → ∀ ps, mapRange { s with lost := [] } w.asid va (65536 * fld c 71 40) .write = .ok ps →
      tablesLost s w.asid va (65536 * fld c 71 40) = false → oneStack ps = true →
      let us : List Nat := deadUnits ps
      let clean : State := us.foldl unlose s
      let zeroed : State := ps.foldl (fun t p => writePhys t p.2.1 (List.replicate p.2.2 0)) clean
      (∀ p ∈ ps, writeHeld s none p.2.1 p.2.2 = false) →
      (Offers s u w .deadSet c → Ends (.deadSet (.seq u) c) s (noted { zeroed with dead := us.foldl (fun m k => dset false m k true) zeroed.dead } u c)) ∧
      (Offers s u w .deadClr c → Ends (.deadClr (.seq u) c) s
        (noted { zeroed with dead := us.foldl (fun m k => dset false m k false) zeroed.dead } u c))) ∧
    (t.holder = some w.asid →
      (Offers s u w .emitJnl c → fld c 55 0 = 0 → fld c 107 104 < 12 → t.pend = [] → t.acks = [] →
        let port : Nat := fld c 107 104
        let dev : BitVec 16 := BitVec.ofNat 16 (fld c 103 88)
        let gseq : BitVec 32 := BitVec.ofNat 32 (fld c 87 56)
        (dev = 0xFFFF ∨ (linkOf s (16 + port)).peer = dev ∧ (linkOf s (16 + port)).state ≠ 2) →
        (∀ y ∈ s.journals, y.1 ≠ 16 * w.tp.die + j → y.2.state = 1 → (linkOf s (16 + y.2.port.toNat)).state ≠ 2 ∧ (linkOf s (16 + y.2.port.toNat)).peer = y.2.bsdev) →
        Ends (.emitJnl (.seq u) c) s (noted (putJournal s w.tp.die j
          { t with state := if dev = 0xFFFF then 3 else 1, port := BitVec.ofNat 4 port, bsdev := dev, gseq := gseq,
                   ackn := if t.state ≠ 0 ∧ t.gseq = gseq then t.ackn else 0, asid := w.asid, job := w.job, unit := some u, expired := false }) u c)) ∧
      (Offers s u w .emitSeq c → fld c 35 0 = 0 → fld c 75 36 ≤ t.ackn.toNat + t.pend.length → t.state ≠ 0 →
        (t.state ≠ 1 → Ends (.emitSeq (.seq u) c) s (noted s u c)) ∧
        (t.state = 1 → Ends (.emitSeq (.seq u) c) s (noted (halSend s
          (.endRecord t.port.toNat (BitVec.ofNat 32 (fld c 107 76)) (BitVec.ofNat 40 (fld c 75 36)))) u c))))

/-- A step of a sequencer runs the instruction that the word at its pc decodes to; a turn (log entries 5, 10, 92, 125) runs its event
(04_encodings_and_opcode_maps.md R120, R121, R123, 09_scalar_stream_reference.md R231, 00_scope.md R3, 00_scope.md R5). -/
def Obligations.StepRunsDecoded : Prop :=
  (∀ (t : State) (u : UnitId) (w w1 : WorkUnit), t.cur = some u → kget t.units u = some w → w.running = true →
    let a : Nat := w.pc.toNat / 64 * 64
    ((∃ xs, w.fblock = some (a, xs) ∧ w1 = w) ∨
      ∃ bs, (∀ xs, w.fblock ≠ some (a, xs)) ∧ seqRead t w a 64 .fetch = .ok bs ∧ w1 = { w with fblock := some (a, blockWords bs), winWait := [] }) →
    ∀ xs, w1.fblock = some (a, xs) →
    let x : BitVec 32 := xs.getD (w.pc.toNat / 4 % 16) 0
    let i : Instr := match decodeWord x with
      | .ok i => i
      | .bad _ => .illegalInstruction x
    (t.turns = [] → step t = exec i (putUnit t u w1)) ∧
    ∀ s rest, s.turns = .seq u :: rest → t = { s with turns := rest, cur := some u } → step s = exec i (putUnit t u w1)) ∧
  (∀ (bs : List Byte) (k : Nat), bs.length = 64 → k < 16 → (blockWords bs).getD k 0 = BitVec.ofNat 32 (leNat ((bs.drop (4 * k)).take 4))) ∧
  (∀ (s : State) (rest : List Turn) (i : Instr), s.turns = .ev i :: rest →
    (isEvent i = true → step s = exec i { s with turns := rest }) ∧ (isEvent i = false → step s = .next { s with turns := rest })) ∧
  ∀ (s : State) (rest : List Turn) (n : Nat), s.turns = .tick n :: rest → (∀ l ∈ s.launches, l.2.complete = true) → s.flrs = [] →
    ∃ t k, step s = .next t ∧ k ≤ n ∧ t.tb = s.tb + BitVec.ofNat 64 k ∧ (s.fwState ≠ .running → k = n) ∧ t.units = s.units ∧ t.mem = s.mem

/-- The spec's worked encodings decode to the instructions that it gives for them (04_encodings_and_opcode_maps.md R119, R120). -/
def Obligations.DecodeWords : Prop :=
  decodeWord 0x02308800 = .ok (.add 3 1 2) ∧ decodeWord 0x22000000 = .ok (.addi 0 0 0) ∧ decodeWord 0x60508600 = .ok (.pset 1 .lt 2 3) ∧
  decodeWord 0x40428010 = .ok (.ld 4 5 16) ∧ decodeWord 0x88730000 = .ok (.gset 7 3) ∧ decodeWord 0xB0000003 = .ok (.fence 3) ∧
  decodeWord 0xA2431C00 = .ok (.cmd 4 6 7) ∧ decodeWord 0x00000000 = .bad .unassignedOpcode ∧ decode [0x00, 0x88, 0x30, 0x02] = .ok (.add 3 1 2)

/-- A word decodes to an instruction exactly when the instruction is well-formed and has that word (04_encodings_and_opcode_maps.md R119, R120). -/
def Obligations.WordsAgree : Prop :=
  ∀ (i : Instr) (x : BitVec 32), decodeWord x = .ok i ↔ i.wf = true ∧ encode i = some x

/-- An operator or router word decodes to its fields exactly when the encoder gives that word for them (04_encodings_and_opcode_maps.md R105, R114,
R115). -/
def Obligations.OperatorWordsAgree : Prop :=
  (∀ (w : OpWord) (x : BitVec 64), decodeOp x = .ok w ↔ w.wf = true ∧ encodeOp w = x) ∧
  ∀ x : BitVec 64, decodeOp x = .bad .opc ↔ Opc.ofCode (x.extractLsb' 56 8) = none

/-- Every step keeps memory in its canonical form (03_memory_model.md R72, 16_reliability_and_determinism.md R351). -/
def Obligations.MemoryStaysCanonical : Prop :=
  Kept MemOk

/-- The state after reset is the one that the spec describes, and it holds the canonical form (13_host_queues_and_launch.md R283, R284,
03_memory_model.md R72). -/
def Obligations.ResetState : Prop :=
  State.reset.tb = 0 ∧ State.reset.mem = [] ∧ State.reset.full = [] ∧ State.reset.units = [] ∧ State.reset.launches = [] ∧ State.reset.queues = [] ∧
  State.reset.jobs = [] ∧ State.reset.images = [] ∧ State.reset.roots = [] ∧ State.reset.fwState = .rom ∧ fwstWord State.reset = 0 ∧
  State.reset.bnum = 0 ∧ State.reset.snap = none ∧ State.reset.lanes = [] ∧ State.reset.dead = [] ∧ State.reset.cur = none ∧
  (∀ k, (chainOf State.reset k).bound = none ∧ (chainOf State.reset k).holder = none) ∧
  (∀ die ch, (chanOf State.reset die ch).holder = none) ∧ (∀ die j, (journalOf State.reset die j).state = 0) ∧
  (∀ die shv strm, streamOf State.reset die shv strm = Stream.initial) ∧ MemOk State.reset ∧ (∀ s, s.flash = none → Ends .standbyPowerUp s { deviceReset s with tb := 0 }) ∧
  ∀ s, (deviceReset s).tb = s.tb ∧ (deviceReset s).toDev = Dev.reset ∧ (deviceReset s).fwState = .rom ∧ (deviceReset s).sysMem = s.sysMem

/-- Units complete, end after a fault (log entry 34), walk again, leave at a deadline or not (121), are saved and are restored (01_execution_model.md
R39, R40, R41, 14_preemption_faults_translation.md R310, R312, R314, R316, R331, R332). -/
def Obligations.UnitsEndAndMove : Prop :=
  (∀ s u w, kget s.units u = some w →
    let shut : State := { s with streams := s.streams.map fun x => if x.2.unit = u then (x.1, { x.2 with opened := none }) else x }
    (w.cancelled = false → unitDone s u w = true → Ends (.unitComplete u) s (unitEnds shut u w (if w.faulted then .faulted else .done))) ∧
    (w.cancelled = true → opsDone s u = true → (∀ n ∈ s.insts, n.2.unit ≠ u) →
      Ends (.unitComplete u) s (unitEnds shut u w (if w.faulted then .faulted else .cancelled))) ∧
    (w.faulted = true → w.cancelled = false → w.life = .bound → (w.seq = .run → w.held ≠ none) → (∀ o ∈ s.ops, o.2.unit = some u → opRuns s o.1 o.2 = false) →
      instsStuck s u = true → (∀ x ∈ s.images, x.2.unit = u → imageFires s x.1 x.2 = false) →
      Ends (.faultedUnitEnd u) s (unitComplete (cancelUnit s u) u)) ∧
    (∀ h p, w.held = some h → w.life = .bound → w.cancelled = false → 10000 ≤ (s.tb - h.at_).toNat → translate s w.asid h.va h.acc = .ok p →
      Ends (.xlatRewalk (.seq u)) s (putUnit s u { w with held := none })) ∧
    (∀ d, w.life = .bound → w.cancelled = false → w.tp.plane ≠ 4 → w.req = false → 0 < d → d ≤ 2 ^ 24 → outranked s w = true →
      unitDone s u w = false → Ends (.preemptRequest u d) s (putUnit s u { w with req := true, deadline := s.tb + BitVec.ofNat 64 d })) ∧
    (w.life = .bound → w.req = true → w.forBoundary = false → Ends (.preemptRequest u 0) s (putUnit s u { w with req := false, deadline := 0 })) ∧
    (w.life = .bound → w.cancelled = false → w.req = true → earlier s.tb w.deadline = false → unitDone s u w = false →
      ¬ (s.tb = w.deadline ∧ yieldsNext s u w = true) → Ends (.preemptDeadline u) s (beginSave s u w 2)) ∧
    (∀ r start, w.life = .saving r start →
      let sv : SavedUnit := captureUnit s u w r start
      (w.forBoundary = true ∨ r = 3 → Ends (.unitSaveComplete u) s (startWanted (unloadUnit s u w sv r 0))) ∧
      ∀ j off s1, w.forBoundary = false → r ≠ 3 → kget s.jobs w.job = some j → recordPlace s w.job j sv.bytes.length = some off →
        tierWaits s j.asid (j.savea + off) sv.bytes.length = false →
        storeExempt s j.asid (j.savea + off) sv.bytes = .ok s1 →
        Ends (.unitSaveComplete u) s (startWanted (setNunit (unloadUnit s1 u w sv r (j.savea + off)) w.job (j.nunit + 1)))) ∧
    ∀ sv r rec tp, kget s.saves u = some sv → w.life = .saved r rec → mayRestore s w tp = true →
      (∀ s1, restoreAt s u w sv rec tp = .ok s1 → Ends (.unitRestore u tp) s s1) ∧
      ∀ toks, w.forBoundary = true → sv.images = [] → sv.streams = [] → readTokens sv.bytes = some toks →
        ∃ t, Ends (.unitRestore u tp) s t ∧ t.saves = kdel s.saves u ∧
          t.units = kput s.units u (w.fromRecord sv.bytes sv.bytes tp) ∧
          t.slots = dset Slot.initial s.slots tp.key { dget Slot.initial s.slots tp.key with bound := true, entry := sv.entry, unit := some u } ∧
          t.mem = s.mem) ∧
  (∀ s n it w, kget s.insts n = some it → kget s.units it.unit = some w →
    (it.fault = none → Ends (.xlatRewalk (.inst n)) s ((instOps s n).foldl (replayFire n) s)) ∧
    (∀ c va at_, it.fault = some (c, va, at_) → rewalk s w.asid (c, va, at_, .write) = .walks → Ends (.xlatRewalk (.inst n)) s (commitInst s n it w))) ∧
  (∀ s n op it img u w x sl c va at_, fireNow s n op = some (it, img, u, w, x, sl) → x.fault = some (c, va, at_) → (c = cXlatMiss ∨ c = cXlatProt) →
    10000 ≤ (s.tb - at_).toNat → replayFire n s op = issueFire s n it img u w x sl) ∧
  (∀ s n o f, kget s.ops n = some o → o.fault = some f → (∀ va bs num, o.body ≠ .object va bs num) → rewalk s o.asid f = .walks →
    Ends (.xlatRewalk (.eng n)) s (modOp s n fun o => { o with fault := none })) ∧
  ∀ s k b f, (chainOf s k).bound = some b → b.fault = some f → b.tailDue = false → rewalk s b.asid f = .walks → f.2.1.toNat ≠ b.taila →
    Ends (.xlatRewalk (.chain k)) s (chainReads s k)

/-- Accesses through the BARs act on device memory and registers (ones out of reach: log entry 59); the resets bring the device up again (log entries
7, 63) (13_host_queues_and_launch.md R278, R280, R281, R283, R284, 03_memory_model.md R74, 15_programs_system.md R346). -/
def Obligations.HostWindow : Prop :=
  (∀ s off, s.fwState = .running →
    let a : Nat := s.winbase.toNat * 2 ^ 36 + off
    (∀ bs relaxed, off + bs.length ≤ 2 ^ 36 → outsideReach s a bs.length = true → outsideWaits s a bs.length true = false →
      Ends (.hostBar2Write off bs) s (writePhys (logItem s (.bar2 a bs)) (.dpa a) bs) ∧
      Ends (.peerBar2Write off bs relaxed) s (writePhys (logItem s (.bar2 a bs)) (.dpa a) bs)) ∧
    (∀ len, off + len ≤ 2 ^ 36 → outsideWaits s a len false = false →
      Ends (.hostBar2Read off len) s { s with barData := if outsideReach s a len = true then getBytes s.mem a len else List.replicate len 0xFF }) ∧
    ∀ size op opnd cmp, (size = 4 ∨ size = 8 ∨ op = .cas ∧ size = 16) → off % size = 0 → off + size ≤ 2 ^ 36 → outsideReach s a size = true →
      outsideWaits s a size true = false → outsideWaits s a size false = false →
      let old : Nat := leNat (getBytes s.mem a size)
      let m : Nat := 2 ^ (8 * size)
      let new : List Byte := leBytes size (match op with
        | .fetchAdd => (old + opnd) % m
        | .swap => opnd % m
        | .cas => if old = cmp % m then opnd % m else old)
      Ends (.hostAtomicop off size op opnd cmp) s (writePhys { logItem s (.bar2 a new) with barData := getBytes s.mem a size } (.dpa a) new)) ∧
  (∀ s f off val, s.fwState = .running → off % 8 = 0 → fnPresent f = true → (∀ r, barReg s f off = some r → Ends (.registerWrite f off val) s (writeReg s f r val)) ∧
    (barReg s f off = none → Ends (.registerWrite f off val) s s)) ∧
  (∀ s (val : Word), s.fwState = .running →
    Ends (.registerWrite .pf 0x18 val) s { s with winbase := val.extractLsb' 36 6 } ∧
    (∀ f, fnPresent f = true → Ends (.registerWrite f 0x20 val) s (putMbox s f { mboxOf s f with addr := val }) ∧
      Ends (.registerWrite f 0x30 val) s
        (putMbox s f { mboxOf s f with done := (mboxOf s f).done && !val.getLsbD 1, ovr := (mboxOf s f).ovr && !val.getLsbD 2 }))) ∧
  (∀ s (val : Word), (val.toNat % 256 = 0xD5 → Ends (.drst val) s (bringUp (deviceReset s))) ∧ (val.toNat % 256 ≠ 0xD5 → Ends (.drst val) s s)) ∧
  (∀ s, Ends .perst s (bringUp (deviceReset s)) ∧ Ends .pfFlr s (bringUp (deviceReset s)) ∧ Ends .standbyPowerUp s (bringUp { deviceReset s with tb := 0 }) ∧
    (s.flash = none → bringUp (deviceReset s) = deviceReset s) ∧
    ∀ o, s.flash = some o → o.valid = true → (bringUp (deviceReset s)).fwState = .running ∧ (bringUp (deviceReset s)).blob = o.blob) ∧
  (∀ s v, s.fwState = .running → v < 64 →
    (kget s.flrs v = none →
      let mine : List (Nat × Job) := s.jobs.filter fun j => decide (j.2.fn = .vf v) && decide (fnOfAsid s j.2.asid = some (.vf v))
      let r : Flr := { jobs := jobsOf s (.vf v), roots := mine.map fun j => j.2.root, asids := (mine.map fun j => j.2.asid).eraseDups }
      let deaf : KMap Job := s.jobs.map fun j => (j.1, { j.2 with phasebnd := j.2.phasebnd.filter fun b => b.2 ≠ .vf v })
      let s1 : State := r.jobs.foldl (fun s j => killJob s j none) { s with mboxes := kdel s.mboxes (mboxKey (.vf v)), flrs := kput s.flrs v r, jobs := deaf }
      Ends (.vfFlr v) s (settleFlr ((s1.queues.filter fun q => decide (q.2.fn = .vf v)).foldl (fun s q => removeQueue s q.1) s1) v r)) ∧
    (∀ r, kget s.flrs v = some r → Ends (.mbdb (.vf v)) s s ∧
      settleFlr s v r = if r.jobs.all (jobOver s) then zeroCaddies (takeGrants { s with flrs := kdel s.flrs v } r.asids.contains) r.roots else s)) ∧
  ∀ s, s.fwState = .rom → s.flash = none →
    (kget s.hostOffers (mboxOf s .pf).addr.toNat = none → Ends (.mbdb .pf) s { s with fwState := .authfail }) ∧
    ∀ o, kget s.hostOffers (mboxOf s .pf).addr.toNat = some o → Ends (.mbdb .pf) s (if o.valid then startFirmware s o else { s with fwState := .authfail })

/-- MBDB submits a request, and the mailbox commands act on queues, jobs, phases, grants, shares and modes and answer (log entries 52, 54, 58, 76)
(13_host_queues_and_launch.md R288, R289, R290, R301, R309, 14_preemption_faults_translation.md R315, 16_reliability_and_determinism.md R349, R367).
-/
def Obligations.MailboxCommands : Prop :=
  (∀ s f, fnPresent f = true → s.fwState = .running →
    let m : Mailbox := mboxOf s f
    let ws : List Word := wordsOf (getBytes s.sysMem m.addr.toNat 64) 8
    flrRuns s f = false →
    (m.busy = true → Ends (.mbdb f) s (putMbox s f { m with ovr := true })) ∧
    (m.busy = false → 1 ≤ opOf ws → opOf ws ≤ 10 → Ends (.mbdb f) s (putMbox s f { m with busy := true, req := some ws, buf := m.addr.toNat }))) ∧
  (∀ s f ws,
    let a : Word := ws.getD 1 0
    let b : Word := ws.getD 2 0
    let asid : BitVec 12 := BitVec.ofNat 12 (wf a 11 0)
    let job : Nat := wf a 27 12
    (request s f 1 = some ws →
      let key : Nat := 1024 * wf a 1 0 + wf a 11 2
      let who : BitVec 12 := BitVec.ofNat 12 (wf a 23 12)
      (f = .pf ∨ ownsAsid s f who = true ∧ (wb a 52 = true → wf a 51 41 < 64) ∧ queueCount s f < 256) → wf b 5 0 = 0 → wf (ws.getD 4 0) 2 0 = 0 →
      powerIn (wf (ws.getD 3 0) 31 0) 16 65536 = true → kget s.queues key = none → jobOpenFor s (wf a 39 24) who = true →
      Ends (.qcreate f) s (respond { s with queues := kput s.queues key (Queue.fresh f s.nextId ws), nextId := s.nextId + 1 } f 0 0)) ∧
    (request s f 2 = some ws → ∀ q, kget s.queues (1024 * wf a 1 0 + wf a 11 2) = some q → (f = .pf ∨ q.fn = f) →
      Ends (.qdestroy f) s (respond (removeQueue s (1024 * wf a 1 0 + wf a 11 2)) f 0 0)) ∧
    (request s f 3 = some ws →
      let j : Job := Job.fresh f ws
      (f = .pf ∨ fnOfAsid s j.asid = none ∨ fnOfAsid s j.asid = some f) → j.nbase + j.ncount ≤ 8192 → j.savea % 65536 = 0 → j.size % 65536 = 0 →
      0x5000000 ≤ j.size → saveAreaOk { s with roots := kput s.roots j.asid.toNat j.root } j.asid j.savea j.size = true →
      (∀ x ∈ s.jobs, x.2.level.complete = false → x.2.nbase + x.2.ncount ≤ j.nbase ∨ j.nbase + j.ncount ≤ x.2.nbase) →
      (∀ x ∈ s.jobs, x.2.level.complete = false → x.2.asid = j.asid → x.2.root = j.root) → jobOpen s job = false →
      Ends (.jobopen f) s (respond (openJob s job j) f 0 0)) ∧
    (request s f 4 = some ws → ownsAsid s f asid = true → jobOpenFor s job asid = true →
      Ends (.jobclose f) s
        (respond (settleJob { s with jobs := kmod s.jobs job fun j => { j with level := { j.level with closed := true } } } job) f 0 0)) ∧
    (request s f 5 = some ws → ownsAsid s f asid = true → jobOpenFor s job asid = true → b.toNat < 2 →
      (∀ j, kget s.jobs job = some j → j.phasebnd = none) →
      Ends (.phasebnd f) s { s with jobs := kmod s.jobs job fun j => { j with phasebnd := some (b.getLsbD 0, f) }, bnd := if s.bnd = .idle then .wanted else s.bnd,
                                    bndFull := s.bndFull || b.getLsbD 0 }) ∧
    (request s f 6 = some ws →
      let g : GrantReq := GrantReq.of ws
      ownsAsid s f g.asid = true → inShare s f g = true → lowest g.formChecks = 0 → (∀ h ∈ g.holders s, h = none ∨ h = some g.asid) →
      (∀ s1, giveGrant s g = some s1 → Ends (.grant f) s (respond s1 f 0 0)) ∧
      (g.kind = 0 → Ends (.grant f) s (respond (holdSlots s g (grantJob s g.asid)) f 0 0)) ∧
      (g.kind = 3 → Ends (.grant f) s (respond (putChain s g.chain { chainOf s g.chain with holder := some g.asid }) f 0 0))) ∧
    (request s f 7 = some ws →
      let g : GrantReq := GrantReq.of ws
      ownsAsid s f g.asid = true → lowest g.formChecks = 0 → (∀ h ∈ g.holders s, h = some g.asid) → g.inUse s = false → (g.kind = 6 → g.isJib s = true) →
      ((g.kind = 0 ∨ g.kind = 6) → g.boundUnits s = []) → Ends (.revoke f) s (respond (takeGrant s g) f 0 0)) ∧
    (request s f 8 = some ws → f = .pf →
      let st : Nat := wf a 2 0
      kget s.ctBusy st = none → s.ctMode.getLsbD st ≠ a.getLsbD 3 → tierInUse s st = false →
      Ends (.ctmode f) s (respond { s with ctBusy := kput s.ctBusy st (a.getLsbD 3) } f 0 0)) ∧
    (request s f 9 = some ws → f = .pf →
      Ends (.share f) s (respond { s with shares := kput s.shares (wf a 5 0) [b.toNat, (ws.getD 3 0).toNat, (ws.getD 4 0).toNat] } f 0 0)) ∧
    (request s f 10 = some ws → 4096 ≤ b.toNat →
      let jobs : KMap Job := s.jobs.filter fun j => decide (f = .pf) || decide (j.2.fn = f)
      let fit : KMap Job := jobs.take ((b.toNat - 256) / 640)
      let bs : List Byte := summaryHead s (f = .pf) fit.length jobs.length ++ fit.flatMap fun j => jobRecord s j.1 j.2
      Ends (.resync f) s (respond (writePhys s (.sys a.toNat) bs) f 0 bs.length))) ∧
  ∀ s st m, kget s.ctBusy st = some m → tierInFlight s st = false →
    let bit : BitVec 8 := (1 : BitVec 8) <<< st
    Ends (.ctmodeComplete st) s (s.owed.foldl payOwed
      { s with ctBusy := kdel s.ctBusy st, ctMode := if m = true then s.ctMode ||| bit else s.ctMode &&& ~~~bit,
               mem := s.mem.filter fun b => !inTier st b.1, owed := [] })

/-- Service actions update, take out and bring back (log entries 86, 97); the SPDM responder answers in the order of its negotiation (60)
(13_host_queues_and_launch.md R278, R285, R286, 16_reliability_and_determinism.md R368, R369, R370, R371, 17_links_and_backstay_journal.md R379). -/
def Obligations.ServiceAndAttestation : Prop :=
  (∀ s ws, request s .pf 11 = some ws → s.service = none →
    let c : Word := ws.getD 2 0
    let die : Nat := c.toNat / 16 % 4
    let sail : Nat := c.toNat / 64 % 8
    let l : Nat := (ws.getD 3 0).toNat
    let ends (i : Instr) (k : Nat) (t : State) : Prop := c.toNat % 16 = k → Ends i s (respond { t with service := none } .pf 0 0)
    (∀ o, kget s.hostOffers (ws.getD 1 0).toNat = some o → o.valid = true → ends (.fwupdFirmware .pf) 0 { s with fwver := o.fwver }) ∧
    ((∀ x ∈ s.units, x.2.tp.die ≠ die) → ends (.fwupdFabricOut .pf) 1 { s with dies := s.dies &&& ~~~((1 : BitVec 4) <<< die) }) ∧
    ends (.fwupdFabricIn .pf) 2 (retryJibs { s with dies := s.dies ||| (((1 : BitVec 4) <<< die) &&& s.blob.dies), service := some ws }) ∧
    (sail < 4 → (∀ x ∈ s.units, ¬ (x.2.tp.die = die ∧ x.2.tp.plane = sail)) →
      ends (.fwupdSailOut .pf) 3 { s with sailsOut := dset false s.sailsOut (4 * die + sail) true }) ∧
    (sail < 4 → ends (.fwupdSailIn .pf) 4 { s with sailsOut := dset false s.sailsOut (4 * die + sail) false }) ∧
    (l < 16 → (linkOf s l).state ≠ 1 →
      let s1 : State := putLink { s with service := some ws } l { linkOf s l with state := 3, width := 0, rate := 0, wanted := false, outTold := false, since := none }
      ends (.fwupdLinkOut .pf) 5 (checkRoutes (if (linkOf s l).width ≠ 0 ∧ (linkOf s l).outTold = false then degrade s1 l else s1))) ∧
    (c.toNat % 16 = 5 → l < 16 → (linkOf s l).state = 1 → Ends (.fwupdLinkOut .pf) s { s with service := some ws }) ∧
    (c.toNat % 16 = 6 → l < 16 → (linkOf s l).back = .none →
      Ends (.fwupdLinkIn .pf) s (startWanted (putLink { s with service := some ws } l { linkOf s l with back := .asked }))) ∧
    (l < 16 → (linkOf s l).back = .over → ends (.fwupdLinkIn .pf) 6 (putLink { s with service := some ws } l { linkOf s l with back := .none })) ∧
    ((ws.getD 3 0).toNat % 8 ≤ formClass s.blob.form → (ws.getD 3 0).toNat % 8 ≤ s.blob.maxClass →
      ends (.fwupdPowerClass .pf) 7 { s with power := (ws.getD 3 0).toNat % 8 })) ∧
  (∀ s, s.fwState = .running →
    let replies (i : Instr) (r : SpdmResp) (st : SpdmSt) : Prop := Ends i s { s with doe := some r, spdm := st }
    let chain : List Byte := Config.certificate 0
    let block (k : Nat) : Nat × List Byte := (k, measurementBlock s k)
    replies .getVersion (.version [(1, 2), (1, 3)]) .versioned ∧
    (s.spdm = .versioned → replies .getCapabilities .capabilities .capable) ∧
    (s.spdm ≠ .versioned → replies .getCapabilities .unexpectedRequest s.spdm) ∧
    (s.spdm = .capable → ∀ sm2 sm3 : Bool, (sm2 || sm3) = true → replies (.negotiateAlgorithms sm2 sm3) .algorithms .negotiated) ∧
    (s.spdm = .capable → replies (.negotiateAlgorithms false false) .unsupportedRequest .capable) ∧
    (s.spdm = .negotiated →
      replies .getDigests (.digests [Config.digest chain]) .negotiated ∧
      (∀ off len, replies (.getCertificate 0 off len) (.certificate 0 ((chain.drop off).take len) (chain.length - (off + len))) .negotiated) ∧
      (∀ nonce, let own : List Byte := leBytes 32 (Config.freeNat s.freeCount)
        Ends (.challenge 0 nonce) s
          { s with doe := some (.challengeAuth 0 own (Config.signature (nonce ++ own))), spdm := .negotiated, freeCount := s.freeCount + 1 }) ∧
      replies (.getMeasurements 0) (.measurements 4 []) .negotiated ∧
      (∀ k, 1 ≤ k → k ≤ 4 → replies (.getMeasurements k) (.measurements 4 [block k]) .negotiated) ∧
      replies (.getMeasurements 255) (.measurements 4 [block 1, block 2, block 3, block 4]) .negotiated)) ∧
  (∀ s, measurementBlock s 4 = leBytes 8 (devidWord s).toNat) ∧
  ∀ s, Ends (.doeDiscovery 0) s { s with doe := some (.discovery 1 0 1) } ∧ Ends (.doeDiscovery 1) s { s with doe := some (.discovery 1 1 0) } ∧
    ∀ k, 2 ≤ k → Ends (.doeDiscovery k) s { s with doe := some (.discovery 0xFFFF 0xFF 0) }

/-- Queues are notified, packets are accepted or refused (log entry 49), ranges invalidated (98), units bound, and watchdogs count, expire and reset
(13_host_queues_and_launch.md R290, R293, R294, R299, R302, R303, R306, R308, 14_preemption_faults_translation.md R334, R335, R340,
16_reliability_and_determinism.md R355). -/
def Obligations.QueuesAndBinding : Prop :=
  (∀ s k q, s.fwState = .running → kget s.queues (queueKey k) = some q →
    let key : Nat := queueKey k
    (∀ val : Word, q.resetStopped = false →
      Ends (.notify k val) s (modQueue (logItem s (.notify k val q.ridx)) key fun q =>
        if q.resetStopped then q
        else if val.toNat < q.notify ∨ q.ridx + q.nent < val.toNat then { q with badn := true } else { q with notify := val.toNat })) ∧
    (∀ ws e s0, s.bnd ≠ .saving → q.qstState ≠ 1 → q.ridx < q.notify → liveReplay s = [] →
      (q.head = some ws ∧ s0 = { s with replay := [] } ∨ q.head = none ∧ q.fault = none ∧
        ∃ r bs, mcLoad s (3 * key) q.asid k.die (q.ring + 64 * (q.ridx % q.nent)) 64 = (r, .ok bs) ∧ ws = wordsOf bs 8 ∧ s0 = { r with replay := [] }) →
      let p : Packet := packetOf ws
      let code : Nat := checkPacket s0 p (some q.job) (planeRefused p q.jib)
      (code ≠ 0 → Ends (.packetAccept k) s (modQueue s0 key fun q =>
        { q with qstState := 1, errcode := BitVec.ofNat 8 code, erridx := BitVec.ofNat 16 q.ridx, fault := none, head := none })) ∧
      (code = 0 → (entryTurn s0 key p.die = false ∨ poolEntry s0 p.die = none) →
        Ends (.packetAccept k) s (modQueue s0 key fun q => { q with qstState := 2, fault := none, head := some ws })) ∧
      (code = 0 → entryTurn s0 key p.die = true → poolEntry s0 p.die = some e → storeWaits s0 q.asid q.ridxa 8 = false →
        let s1 : State := postTo { s0 with acceptRr := kput s0.acceptRr p.die key } (Launch.ofPacket p (.queue key q.ridx) q.asid (some key)) e
        let s2 : State := modQueue s1 key fun q => { q with ridx := q.ridx + 1, qstState := 0, fault := none, head := none }
        Ends (.packetAccept k) s
          (settleLevels (logItem (raiseQueue (storeOr s2 q.job q.asid q.ridxa (leBytes 8 (q.ridx + 1))) key) (.packet k ws))))) ∧
    (∀ h : Word, q.resetStopped = false →
      (∀ r, levelOf (logItem s (.cancel k h)) q.job h = some r →
        ((viewLevel s q.job r).status = .running → Ends (.cancel k h) s (cancelLevel (logItem s (.cancel k h)) q.job r)) ∧
        ((viewLevel s q.job r).status ≠ .running →
          Ends (.cancel k h) s (modQueue (logItem s (.cancel k h)) key fun y => { y with lqres := lqresOf (logItem s (.cancel k h)) q.job h }))) ∧
      (levelOf (logItem s (.cancel k h)) q.job h = none →
        Ends (.cancel k h) s (modQueue (logItem s (.cancel k h)) key fun q => { q with badc := true })) ∧
      Ends (.lqry k h) s (modQueue (logItem s (.lqry k h)) key fun y =>
        { y with lqres := lqresOf (logItem s (.lqry k h)) q.job h,
                 badc := y.badc || (!y.resetStopped && (levelOf (logItem s (.lqry k h)) q.job h).isNone) })) ∧
    (∀ val : Word, Ends (.wdcfgWrite k val) s (modQueue (logItem s (.wdcfg k val)) key fun q =>
      { q with wdEn := val.getLsbD 63, wdHnd := val.getLsbD 62, wdAuto := val.getLsbD 61, wdTicks := val.setWidth 40, wdCount := 0, wdStopped := false })) ∧
    Ends (.wdctlKick k) s (modQueue (logItem s (.wdctl k 0x01)) key fun q => { q with wdCount := 0, wdStopped := false }) ∧
    ((∀ y ∈ s.queues, y.2.job = q.job → y.2.wdResetting = false) →
      let stop (y : Queue) : Queue :=
        if y.job = q.job then { y with qstState := 1, errcode := 0, erridx := BitVec.ofNat 16 y.ridx, fault := none, head := none } else y
      Ends (.wdctlPartitionReset k) s (killJob { logItem s (.wdctl k 0x5A) with
        queues := s.queues.map fun y => (y.1, if y.1 = key then { stop y.2 with wdResetting := true } else stop y.2) } q.job (some 0x52))) ∧
    (q.wdResetting = true → (∀ j, kget s.jobs q.job = some j → j.level.complete = true) →
      Ends (.partitionResetDone k) s (modQueue s key fun q => { q with wdResetting := false, wdReset := true })) ∧
    (kickDue s k = false → countQueue s key = s → q.wdPost = false → q.wdEn = true → q.wdTicks ≠ 0 → q.wdStopped = false → q.wdTicks.toNat ≤ q.wdCount.toNat → q.wdHnd = false →
      let s1 : State := modQueue s key fun q =>
        { q with wdExpired := true, wdExpn := if q.wdExpn = 0xFFFF then q.wdExpn else q.wdExpn + 1, wdStopped := true, wdCount := 0 }
      Ends (.watchdogExpiry k) s (raiseQueue (if q.wdAuto then partitionReset s1 key else s1) key))) ∧
  (∀ s key asid die va n,
    let clear : State := { s with mcReads := kdel s.mcReads key }
    (∀ r, kget s.mcReads key = some r → r.poisoned = true → mcLoad s key asid die va n = (clear, .bad cDataPoison va)) ∧
    ((∀ r, kget s.mcReads key = some r → r.poisoned = false) →
      (∀ bs, loadVa s asid die va n none = .ok bs → mcLoad s key asid die va n = (clear, .ok bs)) ∧
      ∀ on, loadVa s asid die va n none = .waits on → mcLoad s key asid die va n = ({ s with mcReads := kput s.mcReads key { on := on, poisoned := false } }, .waits on))) ∧
  (∀ s asid va len, drainsRange s asid va len = true → Ends (.atsInvalidation asid va len) s { s with ats := (asid, va, len) :: s.ats }) ∧
  ∀ s die (rec : Word) lid l,
    let e : Nat := rec.toNat % 2048
    let tp : Tp := { die := die, tile := rec.toNat / 2 ^ 11 % 64, plane := rec.toNat / 2 ^ 17 % 8 }
    let sl : Slot := dget Slot.initial s.slots tp.key
    let mine : Prop := sl.held = true ∧ sl.asid = l.asid ∧ sl.job.toNat = l.pkt.job
    s.launches.find? (fun x => decide (x.2.pkt.die = die) && decide (x.2.entry = some e)) = some (lid, l) → mayBind s die tp.plane = true →
    launchReady s lid l = true → launchBad s l = false → bindTurn s lid l = true → l.toBind.contains tp.tile = true → bindPlane s l = some tp.plane →
    (∀ t seeds, mine → sl.bound = false → seedsOf s lid l = (t, some seeds) → Ends (.bindRecord die rec) s (bindUnit (turnTaken t l tp.tile) lid l e tp seeds)) ∧
    (¬ mine → Ends (.bindRecord die rec) s (bindHeld (turnTaken s l tp.tile) lid l tp))

/-- Frame entries follow one another by `tb`, and gang slices go or are skipped together (what is active before the decision: log entry 81)
(14_preemption_faults_translation.md R319, R320, R323). -/
def Obligations.FramesAndGangs : Prop :=
  (∀ s die, die < 4 → s.fwState = .running →
    let f : Frame := frameOf s die
    ∀ e, f.entries[f.cur]? = some e → earlier s.tb (f.start + e.ticks.setWidth 64) = false →
      let t : Word := f.start + e.ticks.setWidth 64
      (∀ j e', entryFrom? s die f.entries (f.cur + 1) = some (j, e') →
        (e'.gang = false → Ends (.frameEntryEnd die) s (putFrame s die { f with cur := j, start := t, active := e'.sail.toNat, gang := none })) ∧
        (e'.gang = true → Ends (.frameEntryEnd die) s (putFrame s die
          { f with cur := j, start := t, gang := some { start := t, sentReady := false, readyFrom := [], decision := none, lost := false } }))) ∧
      (entryFrom? s die f.entries (f.cur + 1) = none → Ends (.frameEntryEnd die) s (nextFrame s die f t))) ∧
  ∀ s die f e g, openSlice s die = some (f, e, g) →
    let late : Prop := earlier (g.start + e.grace.setWidth 64) s.tb = true
    let goes (t : State) (g : GangSt) : State :=
      putFrame (halSend t (.go e.gid g.start)) die { f with active := e.sail.toNat, gang := some { g with decision := some true } }
    (g.sentReady = false → saving s die e.sail.toNat = false →
      let g1 : GangSt := { g with sentReady := true, readyFrom := s.blob.devid.toNat :: g.readyFrom }
      (leads s e.gid = false → Ends (.gangReadySend die) s (halSend (putFrame s die { f with gang := some g1 }) (.ready e.gid g.start))) ∧
      (leads s e.gid = true → ¬ late → (∀ m ∈ gangMembers s e.gid, m ∈ g1.readyFrom) → Ends (.gangReadySend die) s (goes s g1))) ∧
    (∀ dev, leads s e.gid = true → ¬ late →
      let g1 : GangSt := { g with readyFrom := dev :: g.readyFrom }
      ((∀ m ∈ gangMembers s e.gid, m ∈ g1.readyFrom) → Ends (.gangReadyReceive die dev) s (goes s g1)) ∧
      (¬ (∀ m ∈ gangMembers s e.gid, m ∈ g1.readyFrom) → Ends (.gangReadyReceive die dev) s (putFrame s die { f with gang := some g1 }))) ∧
    (leads s e.gid = true → earlier s.tb (g.start + e.grace.setWidth 64) = false →
      Ends (.gangGraceExpiry die) s (sliceSkip (halSend s (.skip e.gid g.start)) die f e g false)) ∧
    (leads s e.gid = false →
      Ends (.gangGoReceive die) s (putFrame s die { f with active := e.sail.toNat, gang := some { g with decision := some true } }) ∧
      Ends (.gangSkipReceive die) s (sliceSkip s die f e g false)) ∧
    (earlier s.tb (g.start + e.grace.setWidth 64 + 20000) = false → Ends (.gangDecisionTimeout die) s (sliceSkip s die f e g true))

/-- Boundaries are taken and returned to; corrections, failed checks, fatal errors and temperature act as chapter 16 says (log entries 73, 96, 110)
(16_reliability_and_determinism.md R349, R350, R354, R356, R357, R359, R360, R361, R365, R366, R371, 11_programs_dataflow.md R274). -/
def Obligations.BoundariesAndRollback : Prop :=
  (∀ s, s.fwState = .running → s.blob.bper ≠ 0 → s.blob.bper ≤ (s.tb - s.bperFrom).toNat →
    Ends .bperExpiry s { s with bperFrom := s.bperFrom + BitVec.ofNat 64 s.blob.bper, bnd := if s.bnd = .idle then .wanted else s.bnd }) ∧
  (∀ s, s.fwState = .running → s.service = none → s.bnd = .wanted →
    let leave (w : WorkUnit) : WorkUnit := if w.life = .bound ∧ w.cancelled = false ∧ w.tp.plane ≠ 4 then w.askLeave (s.tb + BitVec.ofNat 64 s.blob.bdl) else w
    Ends .boundaryStart s { s with bnd := .saving, units := s.units.map fun u => (u.1, leave u.2) }) ∧
  (∀ s, s.bnd = .saving → allSaved s = true →
    ∃ t : State, Ends .boundaryInstant s (settleBackstay { t with snap := some t.toDev }) ∧ t.bnum = (checkpointDone s).bnum + 1 ∧ t.bnd = .idle ∧ t.undo = [] ∧
      t.log = [] ∧ t.rollbacks = 0 ∧ t.mem = (advancePhases { checkpointDone s with bnum := (checkpointDone s).bnum + 1, bnd := .idle }).mem) ∧
  (∀ s b, s.fc.running = some b → Ends .fullCheckpointDone s (sendTruncations { s with fc := s.fc.finish s.mem, fcnum := b })) ∧
  (∀ s d dpa, s.fwState = .running → kget s.lost (dpa / 4096) = none → (∀ st, regionOf dpa = .tier st → s.ctMode.getLsbD st = false) →
    (∀ st, regionOf dpa ≠ .tierReserved st) →
    (s.snap = some d → s.rollbacks < 2 → restoreError s (dpa / 4096) = none → Ends (.rollback dpa) s (rollBack s d (dpa / 4096))) ∧
    (∀ a, s.snap = some d → s.rollbacks < 2 → restoreError s (dpa / 4096) = some a → Ends (.rollback dpa) s (fatal s 1 (BitVec.ofNat 64 a))) ∧
    (s.snap = some d → 2 ≤ s.rollbacks → Ends (.rollback dpa) s (fatal s 2 (BitVec.ofNat 64 dpa))) ∧
    (s.snap = none → Ends (.rollback dpa) s (fatal s 1 (BitVec.ofNat 64 dpa)))) ∧
  (∀ s dpa st, s.fwState = .running → kget s.lost (dpa / 4096) = none → regionOf dpa = .tier st → s.ctMode.getLsbD st = true →
    Ends (.rollback dpa) s (lineError s)) ∧
  (∀ s dpa, Ends (.scrub dpa) s { s with counters := { s.counters with
    corrected := s.counters.corrected.set (storageKind dpa) (s.counters.corrected[storageKind dpa] + 1) } }) ∧
  (∀ s e copy tile elem, siteElem s e copy = some (tile, elem) →
    let h : Health := healthOf s e.tp.die tile elem
    let s1 : State := { setHealth s e.tp.die tile elem { h with fails := h.fails + 1 } with
                        counters := { s.counters with replays := s.counters.replays + 1 } }
    h.retired = false → (h.fails < 2 → Ends (.elementReplay e copy) s s1) ∧ (2 ≤ h.fails → Ends (.elementReplay e copy) s (spareMove s1 e.tp.die tile elem))) ∧
  (∀ s, s.fwState = .running →
    let dead (cause : Nat) (val : Word) : State :=
      let s1 : State := { s with toDev := { Dev.reset with toMemState := s.toMemState }, fwState := .fatal, dump := true }
      raiseMsix { s1 with mem := putBytes s1.mem 0x23C80000000 (dumpBytes s cause val) } .pf 0
    (∀ val, Ends (.fatalError 3 val) s (dead 3 val) ∧ Ends (.fatalError 5 val) s (dead 5 val)) ∧
    (∀ die val, die < 4 → Ends (.thermalTrip die val) s (dead 4 val))) ∧
  (∀ s cause val, (dumpBytes s cause val).length ≤ 2 ^ 30) ∧
  (∀ s die, Ends (.thermalLimit die) s { s with hot := s.hot ||| ((1 : BitVec 4) <<< die) } ∧ Ends (.thermalLimitEnd die) s { s with hot := s.hot &&& ~~~((1 : BitVec 4) <<< die) }) ∧
  ∀ s die val, die < 4 → Ends (.ahaltWrite die val) s { s with ahalt := dset 0 s.ahalt die (val &&& 0xBFFFF00000000000) }

/-- Links resend, retrain and go down (log entry 84); halyards carry other devices' accesses; the backstay stores, acknowledges (87) and frees
(17_links_and_backstay_journal.md R376, R377, R378, R379, R380, R383, R384, R385, R388, R389, 07_operators_flow_and_memory.md R186). -/
def Obligations.LinksAndBackstay : Prop :=
  (∀ s l,
    let x : Link := linkOf s l
    let n (k : Nat) : Nat := Config.freeNat (s.freeCount + k)
    let self (y : Link) : Link :=
      { y with state := 1, target := if y.rateDue then limited s l y.ctlRate else BitVec.ofNat 3 ((y.rate.toNat - 32) / 4), rateDue := false, streak := 0, since := some s.tb }
    let sat16 (v : BitVec 32) (k : Nat) : BitVec 32 := BitVec.ofNat 32 (min (2 ^ 32 - 1) (v.toNat + k))
    (l < 16 → x.state = 0 →
      let streak : Nat := if n 0 % 2 = 0 then x.streak + 1 else 1
      let y : Link := { x with crcerr := sat16 x.crcerr 1, replay := sat16 x.replay (1 + n 1), streak := streak }
      Ends (.flitCrcFail l) s (putLink { s with freeCount := s.freeCount + 2 } l (if 4 ≤ streak then self y else y))) ∧
    (l < 28 → x.state = 0 → Ends (.linkTrainingLoss l) s (putLink s l (self x))) ∧
    (∀ r : BitVec 3, l < 16 → r.toNat < 5 →
      let s1 : State := putLink s l { x with ctlRate := r, rqrate := BitVec.ofNat 8 (gtOf (limited s l r)), rateDue := x.rateDue || decide (x.ctlRate ≠ r) }
      Ends (.lnkctlRateWrite l r) s (if x.ctlRate = r then s1 else wantRetrain s1 l)) ∧
    (l < 28 → Ends (.lnkctlRetrain l) s (wantRetrain s l)) ∧
    (∀ o, l < 28 → x.state = 1 →
      let y : Link := if l < 16 then x.moduleDone o else x.halyardDone o
      let drops : Bool := decide (y.width.toNat < x.trainedFrom)
      let z : Link := { y with outTold := x.outTold || drops && outWaits s l, rtd := true, retrn := satAdd y.retrn 1, replay := satAdd y.replay (n 0), back := if x.back = .running then .over else x.back, since := none }
      let s1 : State := putLink { s with freeCount := s.freeCount + 1 } l z
      let s2 : State := if drops then degrade s1 l else s1
      Ends (.linkRetrainDone l o) s (startWanted (if l < 16 then checkRoutes s2 else loseStreams s2)))) ∧
  (∀ s port, port < 12 →
    let x : Link := linkOf s (16 + port)
    (x.state = 0 → Ends (.halyardFrameCrcFail port) s (putLink { s with freeCount := s.freeCount + 2 } (16 + port)
      { x with crcerr := satAdd x.crcerr 1, replay := satAdd x.replay (1 + Config.freeNat s.freeCount % 64),
               fecunc := satAdd x.fecunc (Config.freeNat (s.freeCount + 1)) })) ∧
    (∀ t, x.state = 1 → x.since = some t → 100000 ≤ (s.tb - t).toNat →
      let s1 : State := putLink s (16 + port) { x with state := 2, width := 0, rate := 0, since := none }
      Ends (.halyardDown port) s (startWanted (loseStreams (if x.width ≠ 0 then degrade s1 (16 + port) else s1)))) ∧
    (x.state = 0 → s.fwState = .running →
      (∀ dpa len, outsideWaits s dpa len false = false →
        Ends (.halyardRemoteAccess port (.read dpa len)) s (halSend s (.remoteData port (outsideRead s dpa len)))) ∧
      ∀ dpa bs, outsideWaits s dpa bs.length true = false → outsideReach s dpa bs.length = true →
        Ends (.halyardRemoteAccess port (.write dpa bs)) s (writePhys s (.dpa dpa) bs))) ∧
  (∀ s w0 w1 w2 w3 p, findPart s (w1.setWidth 32) = some p → s.held = [] →
    let h : Part := partOf s p
    let n : Nat := w0.toNat % 2 ^ 40
    let ws : List Word := [w0, w1, w2, w3]
    let ack (t : State) (poison : Bool) : State := halSend t (.ack (w0.toNat / 2 ^ 48) (w0.toNat / 2 ^ 44 % 4) (w0.toNat / 2 ^ 40 % 16) n poison)
    (n = h.lastn + 1 → h.trunc < n → h.basen < n → h.lastn - h.trunc < s.blob.jlen → slotHeld s (slotAddr s p n) = false → headerHeld s p = false →
      Ends (.journalEntryReceive w0 w1 w2 w3) s (ack (putPart (writePhys s (.dpa (slotAddr s p n)) (ws.flatMap wordBytes)) p { h with lastn := n }) false)) ∧
    (n ≤ h.trunc ∨ n ≤ h.basen → Ends (.journalEntryReceive w0 w1 w2 w3) s (ack s false)) ∧
    (h.trunc < n → h.basen < n → n ≤ h.lastn →
      Ends (.journalEntryReceive w0 w1 w2 w3) s (ack s (getBytes s.mem (slotAddr s p n + 8) 24 != [w1, w2, w3].flatMap wordBytes))) ∧
    (h.trunc < n → h.basen < n → (h.lastn + 1 < n ∨ n = h.lastn + 1 ∧ s.blob.jlen ≤ h.lastn - h.trunc) →
      Ends (.journalEntryReceive w0 w1 w2 w3) s { s with held := [{ gseq := w1.setWidth 32, n := n, words := ws, kind := .entry }] }) ∧
    (∀ lastn : BitVec 40, headerHeld s p = false →
      (lastn.toNat = h.lastn → Ends (.journalEndRecord (w1.setWidth 32) lastn) s (putPart s p { h with v := false, trunc := max h.trunc lastn.toNat })) ∧
      (lastn.toNat < h.lastn → Ends (.journalEndRecord (w1.setWidth 32) lastn) s
        (putPart s p { h with basen := max h.basen lastn.toNat, trunc := max h.trunc lastn.toNat }))) ∧
    ∀ k : BitVec 40, headerHeld s p = false → Ends (.journalTruncate (w1.setWidth 32) k) s (putPart s p { h with trunc := max h.trunc k.toNat })) ∧
  (∀ (s : State) (w0 w1 w2 w3 : Word) (p : Nat), findPart s (w1.setWidth 32) = none → s.held = [] →
    (List.range s.blob.npart).find? (fun p => !(partOf s p).v) = some p →
    let n : Nat := w0.toNat % 2 ^ 40
    0 < s.blob.jlen → slotHeld s (slotAddr s p n) = false → headerHeld s p = false →
      Ends (.journalEntryReceive w0 w1 w2 w3) s (halSend (putPart (writePhys s (.dpa (slotAddr s p n)) ([w0, w1, w2, w3].flatMap wordBytes)) p
        { gseq := w1.setWidth 32, v := true, lastn := n, basen := n - 1, trunc := n - 1 }) (.ack (w0.toNat / 2 ^ 48) (w0.toNat / 2 ^ 44 % 4) (w0.toNat / 2 ^ 40 % 16) n false))) ∧
  ∀ s die j,
    let x : JStream := journalOf s die j
    (∀ e rest (m : BitVec 40) poison, x.pend = e :: rest → m = x.ackn + 1 → x.state ≠ 0 → x.state ≠ 3 →
      Ends (.journalAckReceive die j m poison) s (settleAcks (putJournal s die j
        { x with ackn := m, pend := rest, acks := x.acks ++ [{ site := e.site, unit := e.unit, num := m.toNat, status := 0, poison := poison }] }) die j)) ∧
    (x.state = 2 → x.expired = false → 1000000 < (s.tb - x.lostAt).toNat →
      Ends (.journalLostExpiry die j) s (settleAcks (putJournal s die j { ackAll x 0 true with expired := true }) die j))

/-- Every float, conversion, lane-arranging and lane-file operator completes where it may fire and has its tokens and room (01_execution_model.md R13,
R16, R17, R34, 06_operators_compute.md R143, R161, R162, R164, R165, 07_operators_flow_and_memory.md R169, R170, R185). -/
def Obligations.OperatorsComplete : Prop :=
  let completes (o : Opc) (i : Site → Instr) (cls : TokClass) (mask : OpWord → Token → Token → Token → BitVec 16) : Prop :=
    ∀ s e img sl hs, Ready s o e img sl hs → Plain hs → img.hasRoom e allTargets = true →
      ∃ (out : Token) (f : Flags), exec (i e) s = .next (settle (firedTo s e img sl hs sl (some out) f)) ∧ out.cls = cls ∧
        out.mask = mask sl.word (tokenAt sl.word hs 0) (tokenAt sl.word hs 1) (tokenAt sl.word hs 2) ∧
        ∀ k, k < 16 → out.valid k = false → out.lane k = 0
  let one : OpWord → Token → Token → Token → BitVec 16 := fun _ a _ _ => a.mask
  let two : OpWord → Token → Token → Token → BitVec 16 := fun _ a b _ => a.mask &&& b.mask
  let three : OpWord → Token → Token → Token → BitVec 16 := fun _ a b c => a.mask &&& b.mask &&& c.mask
  (completes .fadd .opFadd .data two ∧ completes .fsub .opFsub .data two ∧ completes .fmul .opFmul .data two ∧ completes .fma .opFma .data three) ∧
  (completes .fms .opFms .data three ∧ completes .fnma .opFnma .data three ∧ completes .fnms .opFnms .data three ∧ completes .fmin .opFmin .data two) ∧
  (completes .fmax .opFmax .data two ∧ completes .fabs .opFabs .data one ∧ completes .fneg .opFneg .data one ∧ completes .fcpsgn .opFcpsgn .data two) ∧
  (completes .frcps .opFrcps .data two ∧ completes .frcpi .opFrcpi .data one ∧ completes .frsqs .opFrsqs .data two ∧ completes .frsqi .opFrsqi .data one) ∧
  (completes .fexpr .opFexpr .data one ∧ completes .fexpp .opFexpp .data two ∧ completes .flogr .opFlogr .data one ∧ completes .flogp .opFlogp .data two) ∧
  (completes .fsinr .opFsinr .data one ∧ completes .fsinp .opFsinp .data two ∧ completes .fclass .opFclass .data one ∧ completes .fround .opFround .data one) ∧
  (completes .fscale .opFscale .data two ∧ completes .fmant .opFmant .data one ∧ completes .fexpo .opFexpo .data one ∧ completes .lgmul .opLgmul .data two) ∧
  (completes .lgsum .opLgsum .data three ∧ completes .lgenc .opLgenc .data one ∧ completes .bsfind .opBsfind .data two ∧ completes .cvtfi .opCvtfi .data one) ∧
  (completes .cvtif .opCvtif .data one ∧ completes .cvtfr .opCvtfr .data one ∧ completes .cvtsat .opCvtsat .data one) ∧
  completes .perm .opPerm .data (fun _ a b _ => maskOf fun k => a.valid ((b.lane k).toNat % 16) && b.valid k) ∧
  completes .permi .opPermi .data (fun w a _ _ => maskOf fun k => a.valid (if w.mod.getLsbD 4 then (k + w.mod.toNat % 16) % 16 else Nat.xor k (w.mod.toNat % 16))) ∧
  completes .bcast .opBcast .data (fun _ a b _ => if a.valid ((b.lane 0).toNat % 16) && b.valid 0 then 0xFFFF else 0) ∧
  completes .lsum .opLsum .data (fun w _ _ _ => if w.mod.getLsbD 0 then 0xFFFF else 1) ∧
  completes .amaxr .opAmaxr .data (fun _ _ _ _ => 0xFFFF) ∧
  completes .bshdr .opBshdr .header (fun _ _ _ _ => 3) ∧
  completes .join .opJoin .control (fun _ _ _ _ => 0xFFFF) ∧
  completes .const .opConst .data (fun _ a b _ => if b.valid 0 then a.mask else 0) ∧
  completes .iota .opIota .data (fun _ a _ _ => a.mask) ∧
  completes .csumRow .opCsumRow .data (fun _ _ _ _ => 1) ∧
  ∀ s o e img sl hs, Ready s o e img sl hs → Plain hs → img.hasRoom e allTargets = true →
    let a : Token := tokenAt sl.word hs 0
    let b : Token := tokenAt sl.word hs 1
    let cp : OpCopy := (sl.copies[sl.turn]?).getD { tile := 0, elem := 0, hdr := Hdr.initial, acc := Vector.replicate 16 0, cnt := 0 }
    let base : Nat := (sl.lfw.getD (0, 0)).1
    let len : Nat := (sl.lfw.getD (0, 0)).2
    let goes (i : Instr) (m : BitVec 16) (idx : Nat → Int) (stores : Prop) : Prop :=
      (∀ k, m.getLsbD k = true → 0 < len ∧ (sl.word.mod.getLsbD 0 = false → 0 ≤ idx k ∧ idx k < len)) →
        ∃ (out : Token) (lanes : KMap Lane), exec i s = .next (settle { firedTo s e img sl hs sl (some out) Flags.none with lanes := lanes }) ∧
          out.cls = .data ∧ out.mask = m ∧ (¬ stores → lanes = s.lanes) ∧
          ∀ x, (∀ k i, m.getLsbD k = true → i < len → x ≠ laneKey img.die cp.tile cp.elem k (base + i)) → dget 0 lanes x = dget 0 s.lanes x
    (o = .lfld → goes (.opLfld e) a.mask (fun k => (a.lane k).toInt) False) ∧
    (o = .lfldi → goes (.opLfldi e) (if b.valid 0 then a.mask else 0) (fun _ => (b.lane 0).toInt) False) ∧
    (o = .lfst → goes (.opLfst e) (a.mask &&& b.mask) (fun k => (a.lane k).toInt) True) ∧
    (o = .lfsti → goes (.opLfsti e) (if b.valid 0 then a.mask else 0) (fun _ => (b.lane 0).toInt) True)
end

