-- ==== Sys2Proof/Laws/Dispatch.lean ====
section
/-! SUPPORT. What `exec` calls for each constructor. -/

set_option Elab.async false

namespace Sys2Proof.Machine

theorem exec_add (rd rs1 rs2 : Reg) (s : State) : exec (.add rd rs1 rs2) s = execAdd rd rs1 rs2 s := rfl
theorem exec_sub (rd rs1 rs2 : Reg) (s : State) : exec (.sub rd rs1 rs2) s = execSub rd rs1 rs2 s := rfl
theorem exec_and (rd rs1 rs2 : Reg) (s : State) : exec (.and rd rs1 rs2) s = execAnd rd rs1 rs2 s := rfl
theorem exec_or (rd rs1 rs2 : Reg) (s : State) : exec (.or rd rs1 rs2) s = execOr rd rs1 rs2 s := rfl
theorem exec_xor (rd rs1 rs2 : Reg) (s : State) : exec (.xor rd rs1 rs2) s = execXor rd rs1 rs2 s := rfl
theorem exec_sll (rd rs1 rs2 : Reg) (s : State) : exec (.sll rd rs1 rs2) s = execSll rd rs1 rs2 s := rfl
theorem exec_srl (rd rs1 rs2 : Reg) (s : State) : exec (.srl rd rs1 rs2) s = execSrl rd rs1 rs2 s := rfl
theorem exec_sra (rd rs1 rs2 : Reg) (s : State) : exec (.sra rd rs1 rs2) s = execSra rd rs1 rs2 s := rfl
theorem exec_mul (rd rs1 rs2 : Reg) (s : State) : exec (.mul rd rs1 rs2) s = execMul rd rs1 rs2 s := rfl
theorem exec_mulh (rd rs1 rs2 : Reg) (s : State) : exec (.mulh rd rs1 rs2) s = execMulh rd rs1 rs2 s := rfl
theorem exec_div (rd rs1 rs2 : Reg) (s : State) : exec (.div rd rs1 rs2) s = execDiv rd rs1 rs2 s := rfl
theorem exec_rem (rd rs1 rs2 : Reg) (s : State) : exec (.rem rd rs1 rs2) s = execRem rd rs1 rs2 s := rfl
theorem exec_slt (rd rs1 rs2 : Reg) (s : State) : exec (.slt rd rs1 rs2) s = execSlt rd rs1 rs2 s := rfl
theorem exec_sltu (rd rs1 rs2 : Reg) (s : State) : exec (.sltu rd rs1 rs2) s = execSltu rd rs1 rs2 s := rfl
theorem exec_min (rd rs1 rs2 : Reg) (s : State) : exec (.min rd rs1 rs2) s = execMin rd rs1 rs2 s := rfl
theorem exec_max (rd rs1 rs2 : Reg) (s : State) : exec (.max rd rs1 rs2) s = execMax rd rs1 rs2 s := rfl
theorem exec_addi (rd rs1 : Reg) (imm : BitVec 15) (s : State) : exec (.addi rd rs1 imm) s = execAddi rd rs1 imm s := rfl
theorem exec_andi (rd rs1 : Reg) (imm : BitVec 15) (s : State) : exec (.andi rd rs1 imm) s = execAndi rd rs1 imm s := rfl
theorem exec_ori (rd rs1 : Reg) (imm : BitVec 15) (s : State) : exec (.ori rd rs1 imm) s = execOri rd rs1 imm s := rfl
theorem exec_xori (rd rs1 : Reg) (imm : BitVec 15) (s : State) : exec (.xori rd rs1 imm) s = execXori rd rs1 imm s := rfl
theorem exec_slli (rd rs1 : Reg) (sh : BitVec 6) (s : State) : exec (.slli rd rs1 sh) s = execSlli rd rs1 sh s := rfl
theorem exec_srli (rd rs1 : Reg) (sh : BitVec 6) (s : State) : exec (.srli rd rs1 sh) s = execSrli rd rs1 sh s := rfl
theorem exec_srai (rd rs1 : Reg) (sh : BitVec 6) (s : State) : exec (.srai rd rs1 sh) s = execSrai rd rs1 sh s := rfl
theorem exec_lui (rd : Reg) (imm : BitVec 20) (s : State) : exec (.lui rd imm) s = execLui rd imm s := rfl
theorem exec_ld (rd rs1 : Reg) (imm : BitVec 15) (s : State) : exec (.ld rd rs1 imm) s = execLd rd rs1 imm s := rfl
theorem exec_lw (rd rs1 : Reg) (imm : BitVec 15) (s : State) : exec (.lw rd rs1 imm) s = execLw rd rs1 imm s := rfl
theorem exec_lwu (rd rs1 : Reg) (imm : BitVec 15) (s : State) : exec (.lwu rd rs1 imm) s = execLwu rd rs1 imm s := rfl
theorem exec_lh (rd rs1 : Reg) (imm : BitVec 15) (s : State) : exec (.lh rd rs1 imm) s = execLh rd rs1 imm s := rfl
theorem exec_lhu (rd rs1 : Reg) (imm : BitVec 15) (s : State) : exec (.lhu rd rs1 imm) s = execLhu rd rs1 imm s := rfl
theorem exec_lb (rd rs1 : Reg) (imm : BitVec 15) (s : State) : exec (.lb rd rs1 imm) s = execLb rd rs1 imm s := rfl
theorem exec_lbu (rd rs1 : Reg) (imm : BitVec 15) (s : State) : exec (.lbu rd rs1 imm) s = execLbu rd rs1 imm s := rfl
theorem exec_sd (rs2 rs1 : Reg) (imm : BitVec 15) (s : State) : exec (.sd rs2 rs1 imm) s = execSd rs2 rs1 imm s := rfl
theorem exec_sw (rs2 rs1 : Reg) (imm : BitVec 15) (s : State) : exec (.sw rs2 rs1 imm) s = execSw rs2 rs1 imm s := rfl
theorem exec_sh (rs2 rs1 : Reg) (imm : BitVec 15) (s : State) : exec (.sh rs2 rs1 imm) s = execSh rs2 rs1 imm s := rfl
theorem exec_sb (rs2 rs1 : Reg) (imm : BitVec 15) (s : State) : exec (.sb rs2 rs1 imm) s = execSb rs2 rs1 imm s := rfl
theorem exec_pset (pd : Pred) (cond : Cond) (rs1 rs2 : Reg) (s : State) : exec (.pset pd cond rs1 rs2) s = execPset pd cond rs1 rs2 s := rfl
theorem exec_plog (pd : Pred) (fn : LogFn) (pa pb : Pred) (s : State) : exec (.plog pd fn pa pb) s = execPlog pd fn pa pb s := rfl
theorem exec_br (p : Pred) (neg : Bool) (off : BitVec 21) (s : State) : exec (.br p neg off) s = execBr p neg off s := rfl
theorem exec_jal (rd : Reg) (off : BitVec 20) (s : State) : exec (.jal rd off) s = execJal rd off s := rfl
theorem exec_jalr (rd rs1 : Reg) (imm : BitVec 15) (s : State) : exec (.jalr rd rs1 imm) s = execJalr rd rs1 imm s := rfl
theorem exec_csrrw (rd rs1 : Reg) (csr : BitVec 12) (s : State) : exec (.csrrw rd rs1 csr) s = execCsrrw rd rs1 csr s := rfl
theorem exec_csrrs (rd rs1 : Reg) (csr : BitVec 12) (s : State) : exec (.csrrs rd rs1 csr) s = execCsrrs rd rs1 csr s := rfl
theorem exec_csrrc (rd rs1 : Reg) (csr : BitVec 12) (s : State) : exec (.csrrc rd rs1 csr) s = execCsrrc rd rs1 csr s := rfl
theorem exec_gset (rs : Reg) (g : SeedReg) (s : State) : exec (.gset rs g) s = execGset rs g s := rfl
theorem exec_gget (rs : Reg) (g : SeedReg) (s : State) : exec (.gget rs g) s = execGget rs g s := rfl
theorem exec_cfgld (rd rs1 rs2 : Reg) (s : State) : exec (.cfgld rd rs1 rs2) s = execCfgld rd rs1 rs2 s := rfl
theorem exec_cmd (rd rs1 rs2 : Reg) (s : State) : exec (.cmd rd rs1 rs2) s = execCmd rd rs1 rs2 s := rfl
theorem exec_launch (rd rs1 : Reg) (s : State) : exec (.launch rd rs1) s = execLaunch rd rs1 s := rfl
theorem exec_launchNb (rd rs1 : Reg) (s : State) : exec (.launchNb rd rs1) s = execLaunchNb rd rs1 s := rfl
theorem exec_yield (rd : Reg) (s : State) : exec (.yield rd) s = execYield rd s := rfl
theorem exec_waitNtf (rd rs1 : Reg) (s : State) : exec (.waitNtf rd rs1) s = execWaitNtf rd rs1 s := rfl
theorem exec_waitLvl (rd rs1 : Reg) (s : State) : exec (.waitLvl rd rs1) s = execWaitLvl rd rs1 s := rfl
theorem exec_waitGeu (rd rs1 rs2 : Reg) (s : State) : exec (.waitGeu rd rs1 rs2) s = execWaitGeu rd rs1 rs2 s := rfl
theorem exec_waitEq (rd rs1 rs2 : Reg) (s : State) : exec (.waitEq rd rs1 rs2) s = execWaitEq rd rs1 rs2 s := rfl
theorem exec_trap (rs1 : Reg) (code : BitVec 10) (s : State) : exec (.trap rs1 code) s = execTrap rs1 code s := rfl
theorem exec_eret (s : State) : exec .eret s = execEret s := rfl
theorem exec_fence (scope : BitVec 3) (s : State) : exec (.fence scope) s = execFence scope s := rfl
theorem exec_endUnit (s : State) : exec .endUnit s = execEndUnit s := rfl
theorem exec_waitingInstructionResume (u : UnitId) (s : State) : exec (.waitingInstructionResume u) s = execWaitingInstructionResume u s := rfl
theorem exec_waitTimeout (u : UnitId) (s : State) : exec (.waitTimeout u) s = execWaitTimeout u s := rfl
theorem exec_opAdd (e : Site) (s : State) : exec (.opAdd e) s = execOpAdd e s := rfl
theorem exec_opSub (e : Site) (s : State) : exec (.opSub e) s = execOpSub e s := rfl
theorem exec_opAdds (e : Site) (s : State) : exec (.opAdds e) s = execOpAdds e s := rfl
theorem exec_opSubs (e : Site) (s : State) : exec (.opSubs e) s = execOpSubs e s := rfl
theorem exec_opMul (e : Site) (s : State) : exec (.opMul e) s = execOpMul e s := rfl
theorem exec_opMulh (e : Site) (s : State) : exec (.opMulh e) s = execOpMulh e s := rfl
theorem exec_opMulhu (e : Site) (s : State) : exec (.opMulhu e) s = execOpMulhu e s := rfl
theorem exec_opDiv (e : Site) (s : State) : exec (.opDiv e) s = execOpDiv e s := rfl
theorem exec_opDivu (e : Site) (s : State) : exec (.opDivu e) s = execOpDivu e s := rfl
theorem exec_opRem (e : Site) (s : State) : exec (.opRem e) s = execOpRem e s := rfl
theorem exec_opRemu (e : Site) (s : State) : exec (.opRemu e) s = execOpRemu e s := rfl
theorem exec_opNeg (e : Site) (s : State) : exec (.opNeg e) s = execOpNeg e s := rfl
theorem exec_opAbs (e : Site) (s : State) : exec (.opAbs e) s = execOpAbs e s := rfl
theorem exec_opMin (e : Site) (s : State) : exec (.opMin e) s = execOpMin e s := rfl
theorem exec_opMax (e : Site) (s : State) : exec (.opMax e) s = execOpMax e s := rfl
theorem exec_opAnd (e : Site) (s : State) : exec (.opAnd e) s = execOpAnd e s := rfl
theorem exec_opOr (e : Site) (s : State) : exec (.opOr e) s = execOpOr e s := rfl
theorem exec_opXor (e : Site) (s : State) : exec (.opXor e) s = execOpXor e s := rfl
theorem exec_opAndn (e : Site) (s : State) : exec (.opAndn e) s = execOpAndn e s := rfl
theorem exec_opNot (e : Site) (s : State) : exec (.opNot e) s = execOpNot e s := rfl
theorem exec_opShl (e : Site) (s : State) : exec (.opShl e) s = execOpShl e s := rfl
theorem exec_opShr (e : Site) (s : State) : exec (.opShr e) s = execOpShr e s := rfl
theorem exec_opSar (e : Site) (s : State) : exec (.opSar e) s = execOpSar e s := rfl
theorem exec_opRol (e : Site) (s : State) : exec (.opRol e) s = execOpRol e s := rfl
theorem exec_opRor (e : Site) (s : State) : exec (.opRor e) s = execOpRor e s := rfl
theorem exec_opClz (e : Site) (s : State) : exec (.opClz e) s = execOpClz e s := rfl
theorem exec_opPopc (e : Site) (s : State) : exec (.opPopc e) s = execOpPopc e s := rfl
theorem exec_opBext (e : Site) (s : State) : exec (.opBext e) s = execOpBext e s := rfl
theorem exec_opBins (e : Site) (s : State) : exec (.opBins e) s = execOpBins e s := rfl
theorem exec_opBrev (e : Site) (s : State) : exec (.opBrev e) s = execOpBrev e s := rfl
theorem exec_opBswap (e : Site) (s : State) : exec (.opBswap e) s = execOpBswap e s := rfl
theorem exec_opCeq (e : Site) (s : State) : exec (.opCeq e) s = execOpCeq e s := rfl
theorem exec_opCne (e : Site) (s : State) : exec (.opCne e) s = execOpCne e s := rfl
theorem exec_opClt (e : Site) (s : State) : exec (.opClt e) s = execOpClt e s := rfl
theorem exec_opCle (e : Site) (s : State) : exec (.opCle e) s = execOpCle e s := rfl
theorem exec_opCltu (e : Site) (s : State) : exec (.opCltu e) s = execOpCltu e s := rfl
theorem exec_opCleu (e : Site) (s : State) : exec (.opCleu e) s = execOpCleu e s := rfl
theorem exec_opFceq (e : Site) (s : State) : exec (.opFceq e) s = execOpFceq e s := rfl
theorem exec_opFclt (e : Site) (s : State) : exec (.opFclt e) s = execOpFclt e s := rfl
theorem exec_opFcle (e : Site) (s : State) : exec (.opFcle e) s = execOpFcle e s := rfl
theorem exec_opFcun (e : Site) (s : State) : exec (.opFcun e) s = execOpFcun e s := rfl
theorem exec_opSel (e : Site) (s : State) : exec (.opSel e) s = execOpSel e s := rfl
theorem exec_opMov (e : Site) (s : State) : exec (.opMov e) s = execOpMov e s := rfl
theorem exec_opFadd (e : Site) (s : State) : exec (.opFadd e) s = execOpFadd e s := rfl
theorem exec_opFsub (e : Site) (s : State) : exec (.opFsub e) s = execOpFsub e s := rfl
theorem exec_opFmul (e : Site) (s : State) : exec (.opFmul e) s = execOpFmul e s := rfl
theorem exec_opFma (e : Site) (s : State) : exec (.opFma e) s = execOpFma e s := rfl
theorem exec_opFms (e : Site) (s : State) : exec (.opFms e) s = execOpFms e s := rfl
theorem exec_opFnma (e : Site) (s : State) : exec (.opFnma e) s = execOpFnma e s := rfl
theorem exec_opFnms (e : Site) (s : State) : exec (.opFnms e) s = execOpFnms e s := rfl
theorem exec_opFmin (e : Site) (s : State) : exec (.opFmin e) s = execOpFmin e s := rfl
theorem exec_opFmax (e : Site) (s : State) : exec (.opFmax e) s = execOpFmax e s := rfl
theorem exec_opFabs (e : Site) (s : State) : exec (.opFabs e) s = execOpFabs e s := rfl
theorem exec_opFneg (e : Site) (s : State) : exec (.opFneg e) s = execOpFneg e s := rfl
theorem exec_opFcpsgn (e : Site) (s : State) : exec (.opFcpsgn e) s = execOpFcpsgn e s := rfl
theorem exec_opFrcps (e : Site) (s : State) : exec (.opFrcps e) s = execOpFrcps e s := rfl
theorem exec_opFrcpi (e : Site) (s : State) : exec (.opFrcpi e) s = execOpFrcpi e s := rfl
theorem exec_opFrsqs (e : Site) (s : State) : exec (.opFrsqs e) s = execOpFrsqs e s := rfl
theorem exec_opFrsqi (e : Site) (s : State) : exec (.opFrsqi e) s = execOpFrsqi e s := rfl
theorem exec_opFexpr (e : Site) (s : State) : exec (.opFexpr e) s = execOpFexpr e s := rfl
theorem exec_opFexpp (e : Site) (s : State) : exec (.opFexpp e) s = execOpFexpp e s := rfl
theorem exec_opFlogr (e : Site) (s : State) : exec (.opFlogr e) s = execOpFlogr e s := rfl
theorem exec_opFlogp (e : Site) (s : State) : exec (.opFlogp e) s = execOpFlogp e s := rfl
theorem exec_opFsinr (e : Site) (s : State) : exec (.opFsinr e) s = execOpFsinr e s := rfl
theorem exec_opFsinp (e : Site) (s : State) : exec (.opFsinp e) s = execOpFsinp e s := rfl
theorem exec_opFclass (e : Site) (s : State) : exec (.opFclass e) s = execOpFclass e s := rfl
theorem exec_opFround (e : Site) (s : State) : exec (.opFround e) s = execOpFround e s := rfl
theorem exec_opFscale (e : Site) (s : State) : exec (.opFscale e) s = execOpFscale e s := rfl
theorem exec_opFmant (e : Site) (s : State) : exec (.opFmant e) s = execOpFmant e s := rfl
theorem exec_opFexpo (e : Site) (s : State) : exec (.opFexpo e) s = execOpFexpo e s := rfl
theorem exec_opLgmul (e : Site) (s : State) : exec (.opLgmul e) s = execOpLgmul e s := rfl
theorem exec_opLgsum (e : Site) (s : State) : exec (.opLgsum e) s = execOpLgsum e s := rfl
theorem exec_opLgenc (e : Site) (s : State) : exec (.opLgenc e) s = execOpLgenc e s := rfl
theorem exec_opBsapply (e : Site) (s : State) : exec (.opBsapply e) s = execOpBsapply e s := rfl
theorem exec_opBsfind (e : Site) (s : State) : exec (.opBsfind e) s = execOpBsfind e s := rfl
theorem exec_opBshdr (e : Site) (s : State) : exec (.opBshdr e) s = execOpBshdr e s := rfl
theorem exec_opBsstrip (e : Site) (s : State) : exec (.opBsstrip e) s = execOpBsstrip e s := rfl
theorem exec_opAmaxr (e : Site) (s : State) : exec (.opAmaxr e) s = execOpAmaxr e s := rfl
theorem exec_opCvtfi (e : Site) (s : State) : exec (.opCvtfi e) s = execOpCvtfi e s := rfl
theorem exec_opCvtif (e : Site) (s : State) : exec (.opCvtif e) s = execOpCvtif e s := rfl
theorem exec_opCvtfr (e : Site) (s : State) : exec (.opCvtfr e) s = execOpCvtfr e s := rfl
theorem exec_opCvtsat (e : Site) (s : State) : exec (.opCvtsat e) s = execOpCvtsat e s := rfl
theorem exec_opLfld (e : Site) (s : State) : exec (.opLfld e) s = execOpLfld e s := rfl
theorem exec_opLfst (e : Site) (s : State) : exec (.opLfst e) s = execOpLfst e s := rfl
theorem exec_opLfldi (e : Site) (s : State) : exec (.opLfldi e) s = execOpLfldi e s := rfl
theorem exec_opLfsti (e : Site) (s : State) : exec (.opLfsti e) s = execOpLfsti e s := rfl
theorem exec_opPerm (e : Site) (s : State) : exec (.opPerm e) s = execOpPerm e s := rfl
theorem exec_opPermi (e : Site) (s : State) : exec (.opPermi e) s = execOpPermi e s := rfl
theorem exec_opBcast (e : Site) (s : State) : exec (.opBcast e) s = execOpBcast e s := rfl
theorem exec_opLsum (e : Site) (s : State) : exec (.opLsum e) s = execOpLsum e s := rfl
theorem exec_opSteer (e : Site) (s : State) : exec (.opSteer e) s = execOpSteer e s := rfl
theorem exec_opMergeOrd (e : Site) (s : State) : exec (.opMergeOrd e) s = execOpMergeOrd e s := rfl
theorem exec_opMergeArr (e : Site) (s : State) : exec (.opMergeArr e) s = execOpMergeArr e s := rfl
theorem exec_opCarry (e : Site) (s : State) : exec (.opCarry e) s = execOpCarry e s := rfl
theorem exec_opJoin (e : Site) (s : State) : exec (.opJoin e) s = execOpJoin e s := rfl
theorem exec_opGate (e : Site) (s : State) : exec (.opGate e) s = execOpGate e s := rfl
theorem exec_opSink (e : Site) (s : State) : exec (.opSink e) s = execOpSink e s := rfl
theorem exec_opCtok (e : Site) (s : State) : exec (.opCtok e) s = execOpCtok e s := rfl
theorem exec_opConst (e : Site) (s : State) : exec (.opConst e) s = execOpConst e s := rfl
theorem exec_opIota (e : Site) (s : State) : exec (.opIota e) s = execOpIota e s := rfl
theorem exec_opVld (e : Site) (s : State) : exec (.opVld e) s = execOpVld e s := rfl
theorem exec_opVst (e : Site) (s : State) : exec (.opVst e) s = execOpVst e s := rfl
theorem exec_opMemnop (e : Site) (s : State) : exec (.opMemnop e) s = execOpMemnop e s := rfl
theorem exec_opLdfe (e : Site) (s : State) : exec (.opLdfe e) s = execOpLdfe e s := rfl
theorem exec_opVldx (e : Site) (s : State) : exec (.opVldx e) s = execOpVldx e s := rfl
theorem exec_opVstx (e : Site) (s : State) : exec (.opVstx e) s = execOpVstx e s := rfl
theorem exec_opApst (e : Site) (s : State) : exec (.opApst e) s = execOpApst e s := rfl
theorem exec_opFence (e : Site) (s : State) : exec (.opFence e) s = execOpFence e s := rfl
theorem exec_opMonwait (e : Site) (s : State) : exec (.opMonwait e) s = execOpMonwait e s := rfl
theorem exec_opRedFx (e : Site) (s : State) : exec (.opRedFx e) s = execOpRedFx e s := rfl
theorem exec_opAmoAdd (e : Site) (s : State) : exec (.opAmoAdd e) s = execOpAmoAdd e s := rfl
theorem exec_opAmoAnd (e : Site) (s : State) : exec (.opAmoAnd e) s = execOpAmoAnd e s := rfl
theorem exec_opAmoOr (e : Site) (s : State) : exec (.opAmoOr e) s = execOpAmoOr e s := rfl
theorem exec_opAmoXor (e : Site) (s : State) : exec (.opAmoXor e) s = execOpAmoXor e s := rfl
theorem exec_opAmoMin (e : Site) (s : State) : exec (.opAmoMin e) s = execOpAmoMin e s := rfl
theorem exec_opAmoMax (e : Site) (s : State) : exec (.opAmoMax e) s = execOpAmoMax e s := rfl
theorem exec_opAmoMinu (e : Site) (s : State) : exec (.opAmoMinu e) s = execOpAmoMinu e s := rfl
theorem exec_opAmoMaxu (e : Site) (s : State) : exec (.opAmoMaxu e) s = execOpAmoMaxu e s := rfl
theorem exec_opAmoSwap (e : Site) (s : State) : exec (.opAmoSwap e) s = execOpAmoSwap e s := rfl
theorem exec_opAmoCas (e : Site) (s : State) : exec (.opAmoCas e) s = execOpAmoCas e s := rfl
theorem exec_opAmoFadd (e : Site) (s : State) : exec (.opAmoFadd e) s = execOpAmoFadd e s := rfl
theorem exec_opVote3 (e : Site) (s : State) : exec (.opVote3 e) s = execOpVote3 e s := rfl
theorem exec_opCsumRow (e : Site) (s : State) : exec (.opCsumRow e) s = execOpCsumRow e s := rfl
theorem exec_opCsumCol (e : Site) (s : State) : exec (.opCsumCol e) s = execOpCsumCol e s := rfl
theorem exec_opCsumChk (e : Site) (s : State) : exec (.opCsumChk e) s = execOpCsumChk e s := rfl
theorem exec_opEmit (e : Site) (s : State) : exec (.opEmit e) s = execOpEmit e s := rfl
theorem exec_opTbread (e : Site) (s : State) : exec (.opTbread e) s = execOpTbread e s := rfl
theorem exec_opChkr (e : Site) (s : State) : exec (.opChkr e) s = execOpChkr e s := rfl
theorem exec_emitAck (e : Site) (s : State) : exec (.emitAck e) s = execEmitAck e s := rfl
theorem exec_waveIssue (n : InstId) (s : State) : exec (.waveIssue n) s = execWaveIssue n s := rfl
theorem exec_blockCommit (n : InstId) (s : State) : exec (.blockCommit n) s = execBlockCommit n s := rfl
theorem exec_monwaitTimeout (n : InstId) (s : State) : exec (.monwaitTimeout n) s = execMonwaitTimeout n s := rfl
theorem exec_faultedUnitEnd (u : UnitId) (s : State) : exec (.faultedUnitEnd u) s = execFaultedUnitEnd u s := rfl
theorem exec_snop (iss : Issuer) (c : Cmd128) (s : State) : exec (.snop iss c) s = execSnop iss c s := rfl
theorem exec_sync (iss : Issuer) (c : Cmd128) (s : State) : exec (.sync iss c) s = execSync iss c s := rfl
theorem exec_syncWrite (n : OpId) (s : State) : exec (.syncWrite n) s = execSyncWrite n s := rfl
theorem exec_fxregion (iss : Issuer) (c : Cmd128) (s : State) : exec (.fxregion iss c) s = execFxregion iss c s := rfl
theorem exec_aprLoad (iss : Issuer) (c : Cmd128) (s : State) : exec (.aprLoad iss c) s = execAprLoad iss c s := rfl
theorem exec_aprStore (iss : Issuer) (c : Cmd128) (s : State) : exec (.aprStore iss c) s = execAprStore iss c s := rfl
theorem exec_aprDim (iss : Issuer) (c : Cmd128) (s : State) : exec (.aprDim iss c) s = execAprDim iss c s := rfl
theorem exec_aprPad (iss : Issuer) (c : Cmd128) (s : State) : exec (.aprPad iss c) s = execAprPad iss c s := rfl
theorem exec_aprEnd (iss : Issuer) (c : Cmd128) (s : State) : exec (.aprEnd iss c) s = execAprEnd iss c s := rfl
theorem exec_sheaveRecordStart (k : StreamId) (s : State) : exec (.sheaveRecordStart k) s = execSheaveRecordStart k s := rfl
theorem exec_sheaveLoadEmit (k : StreamId) (s : State) : exec (.sheaveLoadEmit k) s = execSheaveLoadEmit k s := rfl
theorem exec_sheaveStoreFill (k : StreamId) (s : State) : exec (.sheaveStoreFill k) s = execSheaveStoreFill k s := rfl
theorem exec_cptDef (iss : Issuer) (c : Cmd128) (s : State) : exec (.cptDef iss c) s = execCptDef iss c s := rfl
theorem exec_cptDim (iss : Issuer) (c : Cmd128) (s : State) : exec (.cptDim iss c) s = execCptDim iss c s := rfl
theorem exec_cptGo (iss : Issuer) (c : Cmd128) (s : State) : exec (.cptGo iss c) s = execCptGo iss c s := rfl
theorem exec_cptCancel (iss : Issuer) (c : Cmd128) (s : State) : exec (.cptCancel iss c) s = execCptCancel iss c s := rfl
theorem exec_mcPermit (iss : Issuer) (c : Cmd128) (s : State) : exec (.mcPermit iss c) s = execMcPermit iss c s := rfl
theorem exec_permitPortToken (tp : Tp) (port : Nat) (s : State) : exec (.permitPortToken tp port) s = execPermitPortToken tp port s := rfl
theorem exec_bteLanding (k : ChanId) (n : Nat) (s : State) : exec (.bteLanding k n) s = execBteLanding k n s := rfl
theorem exec_gathRow (iss : Issuer) (c : Cmd128) (s : State) : exec (.gathRow iss c) s = execGathRow iss c s := rfl
theorem exec_gathRed (iss : Issuer) (c : Cmd128) (s : State) : exec (.gathRed iss c) s = execGathRed iss c s := rfl
theorem exec_gathIdxList (iss : Issuer) (c : Cmd128) (s : State) : exec (.gathIdxList iss c) s = execGathIdxList iss c s := rfl
theorem exec_gathIdxBag (iss : Issuer) (c : Cmd128) (s : State) : exec (.gathIdxBag iss c) s = execGathIdxBag iss c s := rfl
theorem exec_gathChainBind (iss : Issuer) (c : Cmd128) (s : State) : exec (.gathChainBind iss c) s = execGathChainBind iss c s := rfl
theorem exec_gathChainUnbind (iss : Issuer) (c : Cmd128) (s : State) : exec (.gathChainUnbind iss c) s = execGathChainUnbind iss c s := rfl
theorem exec_gathTail (iss : Issuer) (c : Cmd128) (s : State) : exec (.gathTail iss c) s = execGathTail iss c s := rfl
theorem exec_greRow (n : OpId) (j : Nat) (s : State) : exec (.greRow n j) s = execGreRow n j s := rfl
theorem exec_qntBlk (iss : Issuer) (c : Cmd128) (s : State) : exec (.qntBlk iss c) s = execQntBlk iss c s := rfl
theorem exec_qntDq (iss : Issuer) (c : Cmd128) (s : State) : exec (.qntDq iss c) s = execQntDq iss c s := rfl
theorem exec_qntChainBind (iss : Issuer) (c : Cmd128) (s : State) : exec (.qntChainBind iss c) s = execQntChainBind iss c s := rfl
theorem exec_qntChainUnbind (iss : Issuer) (c : Cmd128) (s : State) : exec (.qntChainUnbind iss c) s = execQntChainUnbind iss c s := rfl
theorem exec_qntTail (iss : Issuer) (c : Cmd128) (s : State) : exec (.qntTail iss c) s = execQntTail iss c s := rfl
theorem exec_qeBlock (n : OpId) (s : State) : exec (.qeBlock n) s = execQeBlock n s := rfl
theorem exec_mxtask (iss : Issuer) (c : Cmd128) (s : State) : exec (.mxtask iss c) s = execMxtask iss c s := rfl
theorem exec_mxqSetBind (iss : Issuer) (c : Cmd128) (s : State) : exec (.mxqSetBind iss c) s = execMxqSetBind iss c s := rfl
theorem exec_mxqSetUnbind (iss : Issuer) (c : Cmd128) (s : State) : exec (.mxqSetUnbind iss c) s = execMxqSetUnbind iss c s := rfl
theorem exec_mxqSetTail (iss : Issuer) (c : Cmd128) (s : State) : exec (.mxqSetTail iss c) s = execMxqSetTail iss c s := rfl
theorem exec_ldstat (iss : Issuer) (c : Cmd128) (s : State) : exec (.ldstat iss c) s = execLdstat iss c s := rfl
theorem exec_ldstatComplete (die mxe : Nat) (s : State) : exec (.ldstatComplete die mxe) s = execLdstatComplete die mxe s := rfl
theorem exec_mxswap (iss : Issuer) (c : Cmd128) (s : State) : exec (.mxswap iss c) s = execMxswap iss c s := rfl
theorem exec_mxswapExchange (die mxe : Nat) (s : State) : exec (.mxswapExchange die mxe) s = execMxswapExchange die mxe s := rfl
theorem exec_mxeTaskStart (n : OpId) (mxe : Nat) (s : State) : exec (.mxeTaskStart n mxe) s = execMxeTaskStart n mxe s := rfl
theorem exec_mxeTaskEnd (n : OpId) (s : State) : exec (.mxeTaskEnd n) s = execMxeTaskEnd n s := rfl
theorem exec_nmcSgd (iss : Issuer) (c : Cmd128) (s : State) : exec (.nmcSgd iss c) s = execNmcSgd iss c s := rfl
theorem exec_nmcDecay (iss : Issuer) (c : Cmd128) (s : State) : exec (.nmcDecay iss c) s = execNmcDecay iss c s := rfl
theorem exec_nmcRed (iss : Issuer) (c : Cmd128) (s : State) : exec (.nmcRed iss c) s = execNmcRed iss c s := rfl
theorem exec_nmcChainBind (iss : Issuer) (c : Cmd128) (s : State) : exec (.nmcChainBind iss c) s = execNmcChainBind iss c s := rfl
theorem exec_nmcChainUnbind (iss : Issuer) (c : Cmd128) (s : State) : exec (.nmcChainUnbind iss c) s = execNmcChainUnbind iss c s := rfl
theorem exec_nmcTail (iss : Issuer) (c : Cmd128) (s : State) : exec (.nmcTail iss c) s = execNmcTail iss c s := rfl
theorem exec_nmcElementUpdate (n : OpId) (elem : Nat) (s : State) : exec (.nmcElementUpdate n elem) s = execNmcElementUpdate n elem s := rfl
theorem exec_deadSet (iss : Issuer) (c : Cmd128) (s : State) : exec (.deadSet iss c) s = execDeadSet iss c s := rfl
theorem exec_deadClr (iss : Issuer) (c : Cmd128) (s : State) : exec (.deadClr iss c) s = execDeadClr iss c s := rfl
theorem exec_emitJnl (iss : Issuer) (c : Cmd128) (s : State) : exec (.emitJnl iss c) s = execEmitJnl iss c s := rfl
theorem exec_emitSeq (iss : Issuer) (c : Cmd128) (s : State) : exec (.emitSeq iss c) s = execEmitSeq iss c s := rfl
theorem exec_chainTailPoll (k : ChainId) (s : State) : exec (.chainTailPoll k) s = execChainTailPoll k s := rfl
theorem exec_chainDoorbell (k : ChainId) (s : State) : exec (.chainDoorbell k) s = execChainDoorbell k s := rfl
theorem exec_chainEntryStart (k : ChainId) (s : State) : exec (.chainEntryStart k) s = execChainEntryStart k s := rfl
theorem exec_chainEntryFinish (n : OpId) (s : State) : exec (.chainEntryFinish n) s = execChainEntryFinish n s := rfl
theorem exec_engineOpComplete (n : OpId) (s : State) : exec (.engineOpComplete n) s = execEngineOpComplete n s := rfl
theorem exec_hostBar2Write (off : Nat) (bytes : List Byte) (s : State) : exec (.hostBar2Write off bytes) s = execHostBar2Write off bytes s := rfl
theorem exec_hostBar2Read (off len : Nat) (s : State) : exec (.hostBar2Read off len) s = execHostBar2Read off len s := rfl
theorem exec_peerBar2Write (off : Nat) (bytes : List Byte) (relaxed : Bool) (s : State) : exec (.peerBar2Write off bytes relaxed) s = execPeerBar2Write off bytes relaxed s := rfl
theorem exec_hostAtomicop (off size : Nat) (op : PcieAtomic) (opnd cmp : Nat) (s : State) : exec (.hostAtomicop off size op opnd cmp) s = execHostAtomicop off size op opnd cmp s := rfl
theorem exec_registerWrite (f : PcieFn) (off : Nat) (val : Word) (s : State) : exec (.registerWrite f off val) s = execRegisterWrite f off val s := rfl
theorem exec_drst (val : Word) (s : State) : exec (.drst val) s = execDrst val s := rfl
theorem exec_perst (s : State) : exec .perst s = execPerst s := rfl
theorem exec_pfFlr (s : State) : exec .pfFlr s = execPfFlr s := rfl
theorem exec_vfFlr (vf : Nat) (s : State) : exec (.vfFlr vf) s = execVfFlr vf s := rfl
theorem exec_standbyPowerUp (s : State) : exec .standbyPowerUp s = execStandbyPowerUp s := rfl
theorem exec_mbdb (f : PcieFn) (s : State) : exec (.mbdb f) s = execMbdb f s := rfl
theorem exec_qcreate (f : PcieFn) (s : State) : exec (.qcreate f) s = execQcreate f s := rfl
theorem exec_qdestroy (f : PcieFn) (s : State) : exec (.qdestroy f) s = execQdestroy f s := rfl
theorem exec_jobopen (f : PcieFn) (s : State) : exec (.jobopen f) s = execJobopen f s := rfl
theorem exec_jobclose (f : PcieFn) (s : State) : exec (.jobclose f) s = execJobclose f s := rfl
theorem exec_phasebnd (f : PcieFn) (s : State) : exec (.phasebnd f) s = execPhasebnd f s := rfl
theorem exec_grant (f : PcieFn) (s : State) : exec (.grant f) s = execGrant f s := rfl
theorem exec_revoke (f : PcieFn) (s : State) : exec (.revoke f) s = execRevoke f s := rfl
theorem exec_ctmode (f : PcieFn) (s : State) : exec (.ctmode f) s = execCtmode f s := rfl
theorem exec_ctmodeComplete (stack : Nat) (s : State) : exec (.ctmodeComplete stack) s = execCtmodeComplete stack s := rfl
theorem exec_share (f : PcieFn) (s : State) : exec (.share f) s = execShare f s := rfl
theorem exec_resync (f : PcieFn) (s : State) : exec (.resync f) s = execResync f s := rfl
theorem exec_fwupdFirmware (f : PcieFn) (s : State) : exec (.fwupdFirmware f) s = execFwupdFirmware f s := rfl
theorem exec_fwupdFabricOut (f : PcieFn) (s : State) : exec (.fwupdFabricOut f) s = execFwupdFabricOut f s := rfl
theorem exec_fwupdFabricIn (f : PcieFn) (s : State) : exec (.fwupdFabricIn f) s = execFwupdFabricIn f s := rfl
theorem exec_fwupdSailOut (f : PcieFn) (s : State) : exec (.fwupdSailOut f) s = execFwupdSailOut f s := rfl
theorem exec_fwupdSailIn (f : PcieFn) (s : State) : exec (.fwupdSailIn f) s = execFwupdSailIn f s := rfl
theorem exec_fwupdLinkOut (f : PcieFn) (s : State) : exec (.fwupdLinkOut f) s = execFwupdLinkOut f s := rfl
theorem exec_fwupdLinkIn (f : PcieFn) (s : State) : exec (.fwupdLinkIn f) s = execFwupdLinkIn f s := rfl
theorem exec_fwupdPowerClass (f : PcieFn) (s : State) : exec (.fwupdPowerClass f) s = execFwupdPowerClass f s := rfl
theorem exec_getVersion (s : State) : exec .getVersion s = execGetVersion s := rfl
theorem exec_getCapabilities (s : State) : exec .getCapabilities s = execGetCapabilities s := rfl
theorem exec_negotiateAlgorithms (sm2 sm3 : Bool) (s : State) : exec (.negotiateAlgorithms sm2 sm3) s = execNegotiateAlgorithms sm2 sm3 s := rfl
theorem exec_getDigests (s : State) : exec .getDigests s = execGetDigests s := rfl
theorem exec_getCertificate (slot off len : Nat) (s : State) : exec (.getCertificate slot off len) s = execGetCertificate slot off len s := rfl
theorem exec_challenge (slot : Nat) (nonce : List Byte) (s : State) : exec (.challenge slot nonce) s = execChallenge slot nonce s := rfl
theorem exec_getMeasurements (index : Nat) (s : State) : exec (.getMeasurements index) s = execGetMeasurements index s := rfl
theorem exec_atsInvalidation (asid : BitVec 12) (va len : Nat) (s : State) : exec (.atsInvalidation asid va len) s = execAtsInvalidation asid va len s := rfl
theorem exec_notify (k : QueueId) (val : Word) (s : State) : exec (.notify k val) s = execNotify k val s := rfl
theorem exec_packetAccept (k : QueueId) (s : State) : exec (.packetAccept k) s = execPacketAccept k s := rfl
theorem exec_cancel (k : QueueId) (handle : Word) (s : State) : exec (.cancel k handle) s = execCancel k handle s := rfl
theorem exec_lqry (k : QueueId) (handle : Word) (s : State) : exec (.lqry k handle) s = execLqry k handle s := rfl
theorem exec_bindRecord (die : Nat) (rec : Word) (s : State) : exec (.bindRecord die rec) s = execBindRecord die rec s := rfl
theorem exec_unitComplete (u : UnitId) (s : State) : exec (.unitComplete u) s = execUnitComplete u s := rfl
theorem exec_preemptRequest (u : UnitId) (deadline : Nat) (s : State) : exec (.preemptRequest u deadline) s = execPreemptRequest u deadline s := rfl
theorem exec_preemptDeadline (u : UnitId) (s : State) : exec (.preemptDeadline u) s = execPreemptDeadline u s := rfl
theorem exec_unitSaveComplete (u : UnitId) (s : State) : exec (.unitSaveComplete u) s = execUnitSaveComplete u s := rfl
theorem exec_unitRestore (u : UnitId) (tp : Tp) (s : State) : exec (.unitRestore u tp) s = execUnitRestore u tp s := rfl
theorem exec_frameEntryEnd (die : Nat) (s : State) : exec (.frameEntryEnd die) s = execFrameEntryEnd die s := rfl
theorem exec_gangReadySend (die : Nat) (s : State) : exec (.gangReadySend die) s = execGangReadySend die s := rfl
theorem exec_gangReadyReceive (die : Nat) (dev : Nat) (s : State) : exec (.gangReadyReceive die dev) s = execGangReadyReceive die dev s := rfl
theorem exec_gangGraceExpiry (die : Nat) (s : State) : exec (.gangGraceExpiry die) s = execGangGraceExpiry die s := rfl
theorem exec_gangGoReceive (die : Nat) (s : State) : exec (.gangGoReceive die) s = execGangGoReceive die s := rfl
theorem exec_gangSkipReceive (die : Nat) (s : State) : exec (.gangSkipReceive die) s = execGangSkipReceive die s := rfl
theorem exec_gangDecisionTimeout (die : Nat) (s : State) : exec (.gangDecisionTimeout die) s = execGangDecisionTimeout die s := rfl
theorem exec_wdcfgWrite (k : QueueId) (val : Word) (s : State) : exec (.wdcfgWrite k val) s = execWdcfgWrite k val s := rfl
theorem exec_wdctlKick (k : QueueId) (s : State) : exec (.wdctlKick k) s = execWdctlKick k s := rfl
theorem exec_wdctlPartitionReset (k : QueueId) (s : State) : exec (.wdctlPartitionReset k) s = execWdctlPartitionReset k s := rfl
theorem exec_watchdogExpiry (k : QueueId) (s : State) : exec (.watchdogExpiry k) s = execWatchdogExpiry k s := rfl
theorem exec_partitionResetDone (k : QueueId) (s : State) : exec (.partitionResetDone k) s = execPartitionResetDone k s := rfl
theorem exec_xlatRewalk (w : Withheld) (s : State) : exec (.xlatRewalk w) s = execXlatRewalk w s := rfl
theorem exec_ahaltWrite (die : Nat) (val : Word) (s : State) : exec (.ahaltWrite die val) s = execAhaltWrite die val s := rfl
theorem exec_bperExpiry (s : State) : exec .bperExpiry s = execBperExpiry s := rfl
theorem exec_boundaryStart (s : State) : exec .boundaryStart s = execBoundaryStart s := rfl
theorem exec_boundaryInstant (s : State) : exec .boundaryInstant s = execBoundaryInstant s := rfl
theorem exec_fullCheckpointDone (s : State) : exec .fullCheckpointDone s = execFullCheckpointDone s := rfl
theorem exec_rollback (dpa : Nat) (s : State) : exec (.rollback dpa) s = execRollback dpa s := rfl
theorem exec_scrub (dpa : Nat) (s : State) : exec (.scrub dpa) s = execScrub dpa s := rfl
theorem exec_elementReplay (e : Site) (copy : Nat) (s : State) : exec (.elementReplay e copy) s = execElementReplay e copy s := rfl
theorem exec_fatalError (cause : BitVec 16) (val : Word) (s : State) : exec (.fatalError cause val) s = execFatalError cause val s := rfl
theorem exec_thermalLimit (die : Nat) (s : State) : exec (.thermalLimit die) s = execThermalLimit die s := rfl
theorem exec_thermalTrip (die : Nat) (val : Word) (s : State) : exec (.thermalTrip die val) s = execThermalTrip die val s := rfl
theorem exec_flitCrcFail (link : Nat) (s : State) : exec (.flitCrcFail link) s = execFlitCrcFail link s := rfl
theorem exec_linkTrainingLoss (link : Nat) (s : State) : exec (.linkTrainingLoss link) s = execLinkTrainingLoss link s := rfl
theorem exec_lnkctlRateWrite (link : Nat) (rate : BitVec 3) (s : State) : exec (.lnkctlRateWrite link rate) s = execLnkctlRateWrite link rate s := rfl
theorem exec_lnkctlRetrain (link : Nat) (s : State) : exec (.lnkctlRetrain link) s = execLnkctlRetrain link s := rfl
theorem exec_linkRetrainDone (link : Nat) (o : TrainOutcome) (s : State) : exec (.linkRetrainDone link o) s = execLinkRetrainDone link o s := rfl
theorem exec_halyardFrameCrcFail (port : Nat) (s : State) : exec (.halyardFrameCrcFail port) s = execHalyardFrameCrcFail port s := rfl
theorem exec_halyardDown (port : Nat) (s : State) : exec (.halyardDown port) s = execHalyardDown port s := rfl
theorem exec_journalLostExpiry (die j : Nat) (s : State) : exec (.journalLostExpiry die j) s = execJournalLostExpiry die j s := rfl
theorem exec_journalEntryReceive (w0 w1 w2 w3 : Word) (s : State) : exec (.journalEntryReceive w0 w1 w2 w3) s = execJournalEntryReceive w0 w1 w2 w3 s := rfl
theorem exec_journalEndRecord (gseq : BitVec 32) (lastn : BitVec 40) (s : State) : exec (.journalEndRecord gseq lastn) s = execJournalEndRecord gseq lastn s := rfl
theorem exec_journalTruncate (gseq : BitVec 32) (n : BitVec 40) (s : State) : exec (.journalTruncate gseq n) s = execJournalTruncate gseq n s := rfl
theorem exec_illegalInstruction (w : BitVec 32) (s : State) : exec (.illegalInstruction w) s = execIllegalInstruction w s := rfl
theorem exec_journalAckReceive (die j : Nat) (n : BitVec 40) (poison : Bool) (s : State) : exec (.journalAckReceive die j n poison) s = execJournalAckReceive die j n poison s := rfl
theorem exec_halyardRemoteAccess (port : Nat) (a : RemoteAccess) (s : State) : exec (.halyardRemoteAccess port a) s = execHalyardRemoteAccess port a s := rfl
theorem exec_doeDiscovery (index : Nat) (s : State) : exec (.doeDiscovery index) s = execDoeDiscovery index s := rfl
theorem exec_mxeResidueFail (die mxe : Nat) (s : State) : exec (.mxeResidueFail die mxe) s = execMxeResidueFail die mxe s := rfl
theorem exec_thermalLimitEnd (die : Nat) (s : State) : exec (.thermalLimitEnd die) s = execThermalLimitEnd die s := rfl

end Sys2Proof.Machine
end

