-- ==== Sys2Proof/Laws/Encoding.lean ====
section
/-! SUPPORT. The fields of the words that `encode` makes: each field that the decoder reads is the one the encoder put there (Table 4.12). -/

set_option Elab.async false

namespace Sys2Proof

/-- A field wholly inside the lower part of an append. -/
theorem extract_append_low {m n : Nat} (x : BitVec m) (y : BitVec n) (i k : Nat) (h : i + k ≤ n) :
    (x ++ y).extractLsb' i k = y.extractLsb' i k := by
  ext j hj
  simp [show i + j < n by omega, BitVec.getLsbD_append]

/-- A field wholly inside the upper part of an append. -/
theorem extract_append_high {m n : Nat} (x : BitVec m) (y : BitVec n) (i k : Nat) (h : n ≤ i) :
    (x ++ y).extractLsb' i k = x.extractLsb' (i - n) k := by
  ext j hj
  simp [BitVec.getLsbD_append, show ¬ i + j < n by omega, show i + j - n = i - n + j by omega]

/-- A word as one field. -/
theorem extract_whole {n : Nat} (x : BitVec n) : x.extractLsb' 0 n = x := by
  ext j hj
  simp

@[simp] theorem Cond.ofCode_code (c : Cond) : Cond.ofCode c.code = some c := by cases c <;> rfl
@[simp] theorem LogFn.ofCode_code (f : LogFn) : LogFn.ofCode f.code = some f := by cases f <;> rfl

theorem ofBool_getLsbD (b : Bool) : (BitVec.ofBool b).getLsbD 0 = b := by cases b <;> rfl

theorem getLsbD_append_high {m n : Nat} (x : BitVec m) (y : BitVec n) (i : Nat) (h : n ≤ i) : (x ++ y).getLsbD i = x.getLsbD (i - n) := by
  simp [BitVec.getLsbD_append, show ¬ i < n by omega]

theorem getLsbD_append_low {m n : Nat} (x : BitVec m) (y : BitVec n) (i : Nat) (h : i < n) : (x ++ y).getLsbD i = y.getLsbD i := by
  simp [BitVec.getLsbD_append, h]

/-! The fields of format R. -/

@[simp] theorem encR_op (op : BitVec 7) (rd : Reg) (rs1 : Reg) (rs2 : Reg) (fn : BitVec 10) : (encR op rd rs1 rs2 fn).extractLsb' 25 7 = op := by
  unfold encR
  rw [extract_append_high (m := 22) (n := 10) _ _ _ _ (by decide), extract_append_high (m := 17) (n := 5) _ _ _ _ (by decide), extract_append_high (m := 12) (n := 5) _ _ _ _ (by decide), extract_append_high (m := 7) (n := 5) _ _ _ _ (by decide)]
  exact extract_whole _

@[simp] theorem encR_rd (op : BitVec 7) (rd : Reg) (rs1 : Reg) (rs2 : Reg) (fn : BitVec 10) : (encR op rd rs1 rs2 fn).extractLsb' 20 5 = rd := by
  unfold encR
  rw [extract_append_high (m := 22) (n := 10) _ _ _ _ (by decide), extract_append_high (m := 17) (n := 5) _ _ _ _ (by decide), extract_append_high (m := 12) (n := 5) _ _ _ _ (by decide), extract_append_low (m := 7) (n := 5) _ _ _ _ (by decide)]
  exact extract_whole _

@[simp] theorem encR_rs1 (op : BitVec 7) (rd : Reg) (rs1 : Reg) (rs2 : Reg) (fn : BitVec 10) : (encR op rd rs1 rs2 fn).extractLsb' 15 5 = rs1 := by
  unfold encR
  rw [extract_append_high (m := 22) (n := 10) _ _ _ _ (by decide), extract_append_high (m := 17) (n := 5) _ _ _ _ (by decide), extract_append_low (m := 12) (n := 5) _ _ _ _ (by decide)]
  exact extract_whole _

@[simp] theorem encR_rs2 (op : BitVec 7) (rd : Reg) (rs1 : Reg) (rs2 : Reg) (fn : BitVec 10) : (encR op rd rs1 rs2 fn).extractLsb' 10 5 = rs2 := by
  unfold encR
  rw [extract_append_high (m := 22) (n := 10) _ _ _ _ (by decide), extract_append_low (m := 17) (n := 5) _ _ _ _ (by decide)]
  exact extract_whole _

@[simp] theorem encR_fn (op : BitVec 7) (rd : Reg) (rs1 : Reg) (rs2 : Reg) (fn : BitVec 10) : (encR op rd rs1 rs2 fn).extractLsb' 0 10 = fn := by
  unfold encR
  rw [extract_append_low (m := 22) (n := 10) _ _ _ _ (by decide)]
  exact extract_whole _

/-! The fields of formats I and S. -/

@[simp] theorem encI_op (op : BitVec 7) (r : Reg) (rs1 : Reg) (imm : BitVec 15) : (encI op r rs1 imm).extractLsb' 25 7 = op := by
  unfold encI
  rw [extract_append_high (m := 17) (n := 15) _ _ _ _ (by decide), extract_append_high (m := 12) (n := 5) _ _ _ _ (by decide), extract_append_high (m := 7) (n := 5) _ _ _ _ (by decide)]
  exact extract_whole _

@[simp] theorem encI_r (op : BitVec 7) (r : Reg) (rs1 : Reg) (imm : BitVec 15) : (encI op r rs1 imm).extractLsb' 20 5 = r := by
  unfold encI
  rw [extract_append_high (m := 17) (n := 15) _ _ _ _ (by decide), extract_append_high (m := 12) (n := 5) _ _ _ _ (by decide), extract_append_low (m := 7) (n := 5) _ _ _ _ (by decide)]
  exact extract_whole _

@[simp] theorem encI_rs1 (op : BitVec 7) (r : Reg) (rs1 : Reg) (imm : BitVec 15) : (encI op r rs1 imm).extractLsb' 15 5 = rs1 := by
  unfold encI
  rw [extract_append_high (m := 17) (n := 15) _ _ _ _ (by decide), extract_append_low (m := 12) (n := 5) _ _ _ _ (by decide)]
  exact extract_whole _

@[simp] theorem encI_imm (op : BitVec 7) (r : Reg) (rs1 : Reg) (imm : BitVec 15) : (encI op r rs1 imm).extractLsb' 0 15 = imm := by
  unfold encI
  rw [extract_append_low (m := 17) (n := 15) _ _ _ _ (by decide)]
  exact extract_whole _

/-! The fields of the immediate shifts. -/

@[simp] theorem encShift_op (op : BitVec 7) (rd : Reg) (rs1 : Reg) (sh : BitVec 6) : (encShift op rd rs1 sh).extractLsb' 25 7 = op := by
  unfold encShift
  rw [extract_append_high (m := 26) (n := 6) _ _ _ _ (by decide), extract_append_high (m := 17) (n := 9) _ _ _ _ (by decide), extract_append_high (m := 12) (n := 5) _ _ _ _ (by decide), extract_append_high (m := 7) (n := 5) _ _ _ _ (by decide)]
  exact extract_whole _

@[simp] theorem encShift_rd (op : BitVec 7) (rd : Reg) (rs1 : Reg) (sh : BitVec 6) : (encShift op rd rs1 sh).extractLsb' 20 5 = rd := by
  unfold encShift
  rw [extract_append_high (m := 26) (n := 6) _ _ _ _ (by decide), extract_append_high (m := 17) (n := 9) _ _ _ _ (by decide), extract_append_high (m := 12) (n := 5) _ _ _ _ (by decide), extract_append_low (m := 7) (n := 5) _ _ _ _ (by decide)]
  exact extract_whole _

@[simp] theorem encShift_rs1 (op : BitVec 7) (rd : Reg) (rs1 : Reg) (sh : BitVec 6) : (encShift op rd rs1 sh).extractLsb' 15 5 = rs1 := by
  unfold encShift
  rw [extract_append_high (m := 26) (n := 6) _ _ _ _ (by decide), extract_append_high (m := 17) (n := 9) _ _ _ _ (by decide), extract_append_low (m := 12) (n := 5) _ _ _ _ (by decide)]
  exact extract_whole _

@[simp] theorem encShift_zero (op : BitVec 7) (rd : Reg) (rs1 : Reg) (sh : BitVec 6) : (encShift op rd rs1 sh).extractLsb' 6 9 = 0 := by
  unfold encShift
  rw [extract_append_high (m := 26) (n := 6) _ _ _ _ (by decide), extract_append_low (m := 17) (n := 9) _ _ _ _ (by decide)]
  exact extract_whole _

@[simp] theorem encShift_sh (op : BitVec 7) (rd : Reg) (rs1 : Reg) (sh : BitVec 6) : (encShift op rd rs1 sh).extractLsb' 0 6 = sh := by
  unfold encShift
  rw [extract_append_low (m := 26) (n := 6) _ _ _ _ (by decide)]
  exact extract_whole _

/-! The fields of format C. -/

@[simp] theorem encC_op (op : BitVec 7) (rd : Reg) (rs1 : Reg) (csr : BitVec 12) : (encC op rd rs1 csr).extractLsb' 25 7 = op := by
  unfold encC
  rw [extract_append_high (m := 29) (n := 3) _ _ _ _ (by decide), extract_append_high (m := 17) (n := 12) _ _ _ _ (by decide), extract_append_high (m := 12) (n := 5) _ _ _ _ (by decide), extract_append_high (m := 7) (n := 5) _ _ _ _ (by decide)]
  exact extract_whole _

@[simp] theorem encC_rd (op : BitVec 7) (rd : Reg) (rs1 : Reg) (csr : BitVec 12) : (encC op rd rs1 csr).extractLsb' 20 5 = rd := by
  unfold encC
  rw [extract_append_high (m := 29) (n := 3) _ _ _ _ (by decide), extract_append_high (m := 17) (n := 12) _ _ _ _ (by decide), extract_append_high (m := 12) (n := 5) _ _ _ _ (by decide), extract_append_low (m := 7) (n := 5) _ _ _ _ (by decide)]
  exact extract_whole _

@[simp] theorem encC_rs1 (op : BitVec 7) (rd : Reg) (rs1 : Reg) (csr : BitVec 12) : (encC op rd rs1 csr).extractLsb' 15 5 = rs1 := by
  unfold encC
  rw [extract_append_high (m := 29) (n := 3) _ _ _ _ (by decide), extract_append_high (m := 17) (n := 12) _ _ _ _ (by decide), extract_append_low (m := 12) (n := 5) _ _ _ _ (by decide)]
  exact extract_whole _

@[simp] theorem encC_csr (op : BitVec 7) (rd : Reg) (rs1 : Reg) (csr : BitVec 12) : (encC op rd rs1 csr).extractLsb' 3 12 = csr := by
  unfold encC
  rw [extract_append_high (m := 29) (n := 3) _ _ _ _ (by decide), extract_append_low (m := 17) (n := 12) _ _ _ _ (by decide)]
  exact extract_whole _

@[simp] theorem encC_zero (op : BitVec 7) (rd : Reg) (rs1 : Reg) (csr : BitVec 12) : (encC op rd rs1 csr).extractLsb' 0 3 = 0 := by
  unfold encC
  rw [extract_append_low (m := 29) (n := 3) _ _ _ _ (by decide)]
  exact extract_whole _

/-! The fields of format G. -/

@[simp] theorem encG_op (op : BitVec 7) (rs : Reg) (g : SeedReg) : (encG op rs g).extractLsb' 25 7 = op := by
  unfold encG
  rw [extract_append_high (m := 16) (n := 16) _ _ _ _ (by decide), extract_append_high (m := 12) (n := 4) _ _ _ _ (by decide), extract_append_high (m := 7) (n := 5) _ _ _ _ (by decide)]
  exact extract_whole _

@[simp] theorem encG_rs (op : BitVec 7) (rs : Reg) (g : SeedReg) : (encG op rs g).extractLsb' 20 5 = rs := by
  unfold encG
  rw [extract_append_high (m := 16) (n := 16) _ _ _ _ (by decide), extract_append_high (m := 12) (n := 4) _ _ _ _ (by decide), extract_append_low (m := 7) (n := 5) _ _ _ _ (by decide)]
  exact extract_whole _

@[simp] theorem encG_g (op : BitVec 7) (rs : Reg) (g : SeedReg) : (encG op rs g).extractLsb' 16 4 = g := by
  unfold encG
  rw [extract_append_high (m := 16) (n := 16) _ _ _ _ (by decide), extract_append_low (m := 12) (n := 4) _ _ _ _ (by decide)]
  exact extract_whole _

@[simp] theorem encG_zero (op : BitVec 7) (rs : Reg) (g : SeedReg) : (encG op rs g).extractLsb' 0 16 = 0 := by
  unfold encG
  rw [extract_append_low (m := 16) (n := 16) _ _ _ _ (by decide)]
  exact extract_whole _

/-! The fields of format P. -/

@[simp] theorem encP_op (pd : Pred) (c : BitVec 3) (rs1 : Reg) (rs2 : Reg) : (encP pd c rs1 rs2).extractLsb' 25 7 = 0x30 := by
  unfold encP
  rw [extract_append_high (m := 23) (n := 9) _ _ _ _ (by decide), extract_append_high (m := 18) (n := 5) _ _ _ _ (by decide), extract_append_high (m := 13) (n := 5) _ _ _ _ (by decide), extract_append_high (m := 10) (n := 3) _ _ _ _ (by decide), extract_append_high (m := 7) (n := 3) _ _ _ _ (by decide)]
  exact extract_whole _

@[simp] theorem encP_pd (pd : Pred) (c : BitVec 3) (rs1 : Reg) (rs2 : Reg) : (encP pd c rs1 rs2).extractLsb' 22 3 = pd := by
  unfold encP
  rw [extract_append_high (m := 23) (n := 9) _ _ _ _ (by decide), extract_append_high (m := 18) (n := 5) _ _ _ _ (by decide), extract_append_high (m := 13) (n := 5) _ _ _ _ (by decide), extract_append_high (m := 10) (n := 3) _ _ _ _ (by decide), extract_append_low (m := 7) (n := 3) _ _ _ _ (by decide)]
  exact extract_whole _

@[simp] theorem encP_c (pd : Pred) (c : BitVec 3) (rs1 : Reg) (rs2 : Reg) : (encP pd c rs1 rs2).extractLsb' 19 3 = c := by
  unfold encP
  rw [extract_append_high (m := 23) (n := 9) _ _ _ _ (by decide), extract_append_high (m := 18) (n := 5) _ _ _ _ (by decide), extract_append_high (m := 13) (n := 5) _ _ _ _ (by decide), extract_append_low (m := 10) (n := 3) _ _ _ _ (by decide)]
  exact extract_whole _

@[simp] theorem encP_rs1 (pd : Pred) (c : BitVec 3) (rs1 : Reg) (rs2 : Reg) : (encP pd c rs1 rs2).extractLsb' 14 5 = rs1 := by
  unfold encP
  rw [extract_append_high (m := 23) (n := 9) _ _ _ _ (by decide), extract_append_high (m := 18) (n := 5) _ _ _ _ (by decide), extract_append_low (m := 13) (n := 5) _ _ _ _ (by decide)]
  exact extract_whole _

@[simp] theorem encP_rs2 (pd : Pred) (c : BitVec 3) (rs1 : Reg) (rs2 : Reg) : (encP pd c rs1 rs2).extractLsb' 9 5 = rs2 := by
  unfold encP
  rw [extract_append_high (m := 23) (n := 9) _ _ _ _ (by decide), extract_append_low (m := 18) (n := 5) _ _ _ _ (by decide)]
  exact extract_whole _

@[simp] theorem encP_zero (pd : Pred) (c : BitVec 3) (rs1 : Reg) (rs2 : Reg) : (encP pd c rs1 rs2).extractLsb' 0 9 = 0 := by
  unfold encP
  rw [extract_append_low (m := 23) (n := 9) _ _ _ _ (by decide)]
  exact extract_whole _

/-! The fields of format L. -/

@[simp] theorem encL_op (pd : Pred) (pa : Pred) (pb : Pred) (f : BitVec 3) : (encL pd pa pb f).extractLsb' 25 7 = 0x31 := by
  unfold encL
  rw [extract_append_high (m := 19) (n := 13) _ _ _ _ (by decide), extract_append_high (m := 16) (n := 3) _ _ _ _ (by decide), extract_append_high (m := 13) (n := 3) _ _ _ _ (by decide), extract_append_high (m := 10) (n := 3) _ _ _ _ (by decide), extract_append_high (m := 7) (n := 3) _ _ _ _ (by decide)]
  exact extract_whole _

@[simp] theorem encL_pd (pd : Pred) (pa : Pred) (pb : Pred) (f : BitVec 3) : (encL pd pa pb f).extractLsb' 22 3 = pd := by
  unfold encL
  rw [extract_append_high (m := 19) (n := 13) _ _ _ _ (by decide), extract_append_high (m := 16) (n := 3) _ _ _ _ (by decide), extract_append_high (m := 13) (n := 3) _ _ _ _ (by decide), extract_append_high (m := 10) (n := 3) _ _ _ _ (by decide), extract_append_low (m := 7) (n := 3) _ _ _ _ (by decide)]
  exact extract_whole _

@[simp] theorem encL_pa (pd : Pred) (pa : Pred) (pb : Pred) (f : BitVec 3) : (encL pd pa pb f).extractLsb' 19 3 = pa := by
  unfold encL
  rw [extract_append_high (m := 19) (n := 13) _ _ _ _ (by decide), extract_append_high (m := 16) (n := 3) _ _ _ _ (by decide), extract_append_high (m := 13) (n := 3) _ _ _ _ (by decide), extract_append_low (m := 10) (n := 3) _ _ _ _ (by decide)]
  exact extract_whole _

@[simp] theorem encL_pb (pd : Pred) (pa : Pred) (pb : Pred) (f : BitVec 3) : (encL pd pa pb f).extractLsb' 16 3 = pb := by
  unfold encL
  rw [extract_append_high (m := 19) (n := 13) _ _ _ _ (by decide), extract_append_high (m := 16) (n := 3) _ _ _ _ (by decide), extract_append_low (m := 13) (n := 3) _ _ _ _ (by decide)]
  exact extract_whole _

@[simp] theorem encL_f (pd : Pred) (pa : Pred) (pb : Pred) (f : BitVec 3) : (encL pd pa pb f).extractLsb' 13 3 = f := by
  unfold encL
  rw [extract_append_high (m := 19) (n := 13) _ _ _ _ (by decide), extract_append_low (m := 16) (n := 3) _ _ _ _ (by decide)]
  exact extract_whole _

@[simp] theorem encL_zero (pd : Pred) (pa : Pred) (pb : Pred) (f : BitVec 3) : (encL pd pa pb f).extractLsb' 0 13 = 0 := by
  unfold encL
  rw [extract_append_low (m := 19) (n := 13) _ _ _ _ (by decide)]
  exact extract_whole _

/-! The fields of format B. -/

@[simp] theorem encB_op (p : Pred) (neg : BitVec 1) (off : BitVec 21) : (encB p neg off).extractLsb' 25 7 = 0x38 := by
  unfold encB
  rw [extract_append_high (m := 11) (n := 21) _ _ _ _ (by decide), extract_append_high (m := 10) (n := 1) _ _ _ _ (by decide), extract_append_high (m := 7) (n := 3) _ _ _ _ (by decide)]
  exact extract_whole _

@[simp] theorem encB_p (p : Pred) (neg : BitVec 1) (off : BitVec 21) : (encB p neg off).extractLsb' 22 3 = p := by
  unfold encB
  rw [extract_append_high (m := 11) (n := 21) _ _ _ _ (by decide), extract_append_high (m := 10) (n := 1) _ _ _ _ (by decide), extract_append_low (m := 7) (n := 3) _ _ _ _ (by decide)]
  exact extract_whole _

@[simp] theorem encB_neg (p : Pred) (neg : BitVec 1) (off : BitVec 21) : (encB p neg off).extractLsb' 21 1 = neg := by
  unfold encB
  rw [extract_append_high (m := 11) (n := 21) _ _ _ _ (by decide), extract_append_low (m := 10) (n := 1) _ _ _ _ (by decide)]
  exact extract_whole _

@[simp] theorem encB_off (p : Pred) (neg : BitVec 1) (off : BitVec 21) : (encB p neg off).extractLsb' 0 21 = off := by
  unfold encB
  rw [extract_append_low (m := 11) (n := 21) _ _ _ _ (by decide)]
  exact extract_whole _

/-! The fields of formats U and J. -/

@[simp] theorem encU_op (op : BitVec 7) (rd : Reg) (imm : BitVec 20) : (encU op rd imm).extractLsb' 25 7 = op := by
  unfold encU
  rw [extract_append_high (m := 12) (n := 20) _ _ _ _ (by decide), extract_append_high (m := 7) (n := 5) _ _ _ _ (by decide)]
  exact extract_whole _

@[simp] theorem encU_rd (op : BitVec 7) (rd : Reg) (imm : BitVec 20) : (encU op rd imm).extractLsb' 20 5 = rd := by
  unfold encU
  rw [extract_append_high (m := 12) (n := 20) _ _ _ _ (by decide), extract_append_low (m := 7) (n := 5) _ _ _ _ (by decide)]
  exact extract_whole _

@[simp] theorem encU_imm (op : BitVec 7) (rd : Reg) (imm : BitVec 20) : (encU op rd imm).extractLsb' 0 20 = imm := by
  unfold encU
  rw [extract_append_low (m := 12) (n := 20) _ _ _ _ (by decide)]
  exact extract_whole _

/-! Fields that several parts of a word make up. -/

@[simp] theorem encB_neg_bit (p : Pred) (neg : BitVec 1) (off : BitVec 21) : (encB p neg off)[21] = neg[0] := by
  rw [← BitVec.getLsbD_eq_getElem, ← BitVec.getLsbD_eq_getElem]
  unfold encB
  rw [getLsbD_append_high (m := 11) (n := 21) _ _ _ (by decide), getLsbD_append_low (m := 10) (n := 1) _ _ _ (by decide)]

/-- The low 15 bits of a word of format R. -/
theorem encR_low15 (op : BitVec 7) (rd rs1 rs2 : Reg) (fn : BitVec 10) : (encR op rd rs1 rs2 fn).extractLsb' 0 15 = rs2 ++ fn := by
  ext j hj
  unfold encR
  rw [BitVec.getElem_extractLsb', Nat.zero_add]
  by_cases h : j < 10
  · rw [getLsbD_append_low (m := 22) (n := 10) _ _ _ h, ← BitVec.getLsbD_eq_getElem, getLsbD_append_low _ _ _ h]
  · rw [getLsbD_append_high (m := 22) (n := 10) _ _ _ (by omega), getLsbD_append_low (m := 17) (n := 5) _ _ _ (by omega),
      ← BitVec.getLsbD_eq_getElem, getLsbD_append_high _ _ _ (by omega)]

/-- The low 20 bits of a word of format R. -/
theorem encR_low20 (op : BitVec 7) (rd rs1 rs2 : Reg) (fn : BitVec 10) : (encR op rd rs1 rs2 fn).extractLsb' 0 20 = rs1 ++ (rs2 ++ fn) := by
  ext j hj
  unfold encR
  rw [BitVec.getElem_extractLsb', Nat.zero_add, ← BitVec.getLsbD_eq_getElem]
  by_cases h : j < 10
  · rw [getLsbD_append_low (m := 22) (n := 10) _ _ _ h, getLsbD_append_low (n := 15) _ _ _ (by omega), getLsbD_append_low (n := 10) _ _ _ h]
  · rw [getLsbD_append_high (m := 22) (n := 10) _ _ _ (by omega)]
    by_cases h2 : j < 15
    · rw [getLsbD_append_low (m := 17) (n := 5) _ _ _ (by omega), getLsbD_append_low (n := 15) _ _ _ (by omega),
        getLsbD_append_high (n := 10) _ _ _ (by omega)]
    · rw [getLsbD_append_high (m := 17) (n := 5) _ _ _ (by omega), getLsbD_append_low (m := 12) (n := 5) _ _ _ (by omega),
        getLsbD_append_high (n := 15) _ _ _ (by omega), show j - 10 - 5 = j - 15 by omega]

/-- The low 25 bits of a word of format R. -/
theorem encR_low25 (op : BitVec 7) (rd rs1 rs2 : Reg) (fn : BitVec 10) : (encR op rd rs1 rs2 fn).extractLsb' 0 25 = rd ++ (rs1 ++ (rs2 ++ fn)) := by
  ext j hj
  by_cases h : j < 20
  · have e := congrArg (fun x => x.getLsbD j) (encR_low20 op rd rs1 rs2 fn)
    simp only [BitVec.getLsbD_extractLsb', h, decide_true, Bool.true_and] at e
    rw [BitVec.getElem_extractLsb', e, ← BitVec.getLsbD_eq_getElem, getLsbD_append_low (n := 20) _ _ _ h]
  · unfold encR
    rw [BitVec.getElem_extractLsb', Nat.zero_add, ← BitVec.getLsbD_eq_getElem, getLsbD_append_high (m := 22) (n := 10) _ _ _ (by omega),
      getLsbD_append_high (m := 17) (n := 5) _ _ _ (by omega), getLsbD_append_high (m := 12) (n := 5) _ _ _ (by omega),
      getLsbD_append_low (m := 7) (n := 5) _ _ _ (by omega), getLsbD_append_high (n := 20) _ _ _ (by omega), show j - 10 - 5 - 5 = j - 20 by omega]

/-- `fence`: its scope, and the zero above it. -/
@[simp] theorem encR_scope (op : BitVec 7) (sc : BitVec 3) : (encR op 0#5 0#5 0#5 (0#7 ++ sc)).extractLsb' 0 3 = sc := by
  unfold encR
  rw [extract_append_low (m := 22) (n := 10) _ _ _ _ (by decide), extract_append_low (m := 7) (n := 3) _ _ _ _ (by decide)]
  exact extract_whole _

@[simp] theorem encR_scope_zero (op : BitVec 7) (sc : BitVec 3) : (encR op 0#5 0#5 0#5 (0#7 ++ sc)).extractLsb' 3 22 = 0 := by
  ext j hj
  have e := congrArg (fun x => x.getLsbD (3 + j)) (encR_low25 op 0#5 0#5 0#5 (0#7 ++ sc))
  simp only [BitVec.getLsbD_extractLsb', show 3 + j < 25 by omega, decide_true, Bool.true_and, Nat.zero_add] at e
  rw [BitVec.getElem_extractLsb', e]
  clear e
  revert j sc
  decide

end Sys2Proof
end

