-- ==== Sys2Proof/Laws/Fabric.lean ====
section
/-! SUPPORT. What one firing of an operator of form C does, said once (R14, R17, R60): the prover of a statement about an operator cites these and
shows only what the operator computes. Beside them stand the laws of a command's issue (R116, R394) and of lost tables (R356). -/

set_option Elab.async false

namespace Sys2Proof.Machine

open Sys2Proof.Safety

theorem fireKind_plain {o : Opc} {hs : List (Nat × Token × Tag)} (hp : Plain hs) : fireKind o hs = .data := by
  have h1 : hs.find? (fun h => h.2.1.cls = .poison) = none := by
    rw [List.find?_eq_none]; intro h hm; simpa using (hp h hm).1
  have h2 : hs.filter (fun h => h.2.1.cls = .header) = [] := by
    rw [List.filter_eq_nil_iff]; intro h hm; simpa using (hp h hm).2
  unfold fireKind
  rw [h1]; simp only []; rw [h2]; split <;> rfl

theorem deals_data {hs : List (Nat × Token × Tag)} (hp : Plain hs) (hn : hs ≠ []) : deals .data hs = true := by
  unfold deals
  cases hs with
  | nil => exact absurd rfl hn
  | cons x xs => have := (hp x (by simp)).2; simp [this]

/-- A ready operator with plain tokens fires on the tokens at its ports. -/
theorem fireOp_data {s : State} {o : Opc} {e : Site} {img : Image} {sl : OpSlot} {hs : List (Nat × Token × Tag)} (h : Ready s o e img sl hs)
    (hp : Plain hs) :
    fireOp o e s = applyEffect s img e sl .data hs (arcPorts sl.word)
      (dataEffect s img sl (tokenAt sl.word hs 0) (tokenAt sl.word hs 1) (tokenAt sl.word hs 2)) := by
  obtain ⟨⟨h1, h2, h3, h4, h5, _, h6⟩, _, _⟩ := h
  unfold fireOp
  rw [h1]; simp only []; rw [h2]; simp only []
  rw [if_neg (by simp [h3, h4, h5]), h6]
  simp only [fireKind_plain hp]

theorem applyEffect_emits {s : State} {img : Image} {e : Site} {sl sl1 : OpSlot} {hs : List (Nat × Token × Tag)} {t : Token} {f : Flags}
    (hp : Plain hs) (hn : hs ≠ []) (hh : takesHalted s img e (arcPorts sl.word) = false) (hr : img.hasRoom e allTargets = true) :
    applyEffect s img e sl .data hs (arcPorts sl.word) { fired := Fired.emits t f, slot := sl1, lanes := [], vrec := none } =
      .fired (firedTo s e img sl hs sl1 (some t) f) := by
  unfold applyEffect
  simp only [Fired.emits, deals_data hp hn, hh, if_true, Bool.false_eq_true, if_false]
  rw [if_neg (by simp [hr])]
  rfl

theorem applyEffect_nothing {s : State} {img : Image} {e : Site} {sl sl1 : OpSlot} {hs : List (Nat × Token × Tag)}
    (hp : Plain hs) (hn : hs ≠ []) (hh : takesHalted s img e (arcPorts sl.word) = false) :
    applyEffect s img e sl .data hs (arcPorts sl.word) { fired := Fired.nothing, slot := sl1, lanes := [], vrec := none } =
      .fired (firedTo s e img sl hs sl1 none Flags.none) := by
  unfold applyEffect
  simp only [Fired.nothing, deals_data hp hn, hh, if_true, Bool.false_eq_true, if_false]
  rw [if_neg (by simp)]
  rfl

/-- Where no firing of the storm jib goes first, a firing has its effect (R36). -/
theorem fired_goes {s s1 : State} {e : Site} (h : jibFirst s e = false) : fired (.fired s1) e s = .next (settle s1) := by
  simp [fired, h, FireRes.after, done]

/-- An operator whose effect is to emit what `g` makes of its tokens fires as `g`. -/
theorem firesAs {o : Opc} {i : Site → Instr} {g : OpWord → Token → Token → Token → Token × Flags}
    (hi : ∀ e s, exec (i e) s = operatorFires o e s)
    (hg : ∀ s img sl a b c, sl.word.opc = o → dataEffect s img sl a b c =
      { fired := Fired.emits (g sl.word a b c).1 (g sl.word a b c).2, slot := sl, lanes := [], vrec := none }) : FiresAs o i g := by
  intro s e img sl hs h hp hr
  rw [hi, operatorFires, fireOp_data h hp, hg _ _ _ _ _ _ h.1.2.2.1, applyEffect_emits hp h.2.2 h.2.1 hr,
    fired_goes h.1.2.2.2.2.2.1]

/-- The same for an operator whose lanes are computed apart (R143). -/
theorem firesLane {o : Opc} {i : Site → Instr} {ports : Nat} {cls : TokClass} {f : OpWord → Lane → Lane → Lane → Lane × Flags}
    (hi : ∀ e s, exec (i e) s = operatorFires o e s)
    (hd : ∀ s img sl a b c, sl.word.opc = o → dataEffect s img sl a b c = { fired := fireLanes sl.word a b c, slot := sl, lanes := [], vrec := none })
    (hm : ∀ (w : OpWord) a b c, w.opc = o →
      resultMask w a b c = a.mask &&& (if 2 ≤ ports then b.mask else 0xFFFF) &&& (if 3 ≤ ports then c.mask else 0xFFFF))
    (hc : ∀ (w : OpWord), w.opc = o → resultClass w = cls)
    (hf : ∀ (w : OpWord) a b c, w.opc = o → laneFn w a b c = f w a b c) : FiresAs o i (fun w => lanewise ports cls (f w)) := by
  apply firesAs hi
  intro s img sl a b c ho
  rw [hd _ _ _ _ _ _ ho]
  simp only [fireLanes, lanewise, hm _ _ _ _ ho, hc _ ho, hf _ _ _ _ ho]

/-- A router that may fire at an element that no trap has stopped, whose inputs its kind takes and no arc halt holds, and whose outputs have room,
fires (R24, R26 to R29, R274). -/
theorem fireRouter_goes {s : State} {o : Opc} {e : Site} {img : Image} {r : RtrSlot} {ro : Routed} (h1 : kget s.images e.tp.key = some img)
    (h2 : img.rtrAt e = some r) (h3 : mayFire s img = true) (h4 : img.elemStopped r.tile r.elem = false) (ho : r.word.opc = o)
    (hr : route r ((img.headOf (inputOf e 0)).map fun x => x.1) ((img.headOf (inputOf e 1)).map fun x => x.1)
      ((img.headOf (inputOf e 2)).map fun x => x.1) = some ro)
    (hh : ∀ p ∈ ro.take, portHalted s img (inputOf e p) = false) (hm : ∀ x ∈ ro.outs, img.hasRoom e x.1 = true) :
    fireRouter o e s =
      let tag := img.routerTag e r (ro.take.filterMap fun p => (img.headOf (inputOf e p)).map fun x => (p, x))
      .fired (putImage s e.tp.key ((img.setRtr e { ro.rtr with count := r.count + (if tag.n.any (2 ^ 40 ≤ ·) then 0 else ro.outs.length) }).fire e ro.take ro.outs tag)) := by
  unfold fireRouter
  rw [h1]; simp only []; rw [h2]; simp only []
  rw [if_neg (by simp [ho, h3, h4])]; simp only [hr]
  rw [if_pos]
  simp only [takesHalted, Bool.and_eq_true, List.all_eq_true, Bool.not_eq_true', List.any_eq_false]
  exact ⟨fun x hx => by simpa using hm x hx, fun p hp => by simpa using hh p hp⟩

/-! ## Operations of the memory interface -/

/-- The instance of the next operation. -/
theorem nextFire_inst {s : State} {n : InstId} {it : Inst} {img : Image} {u : UnitId} {w : WorkUnit} {x : MemFire} {sl : OpSlot}
    (h1 : nextFire s n = some (it, img, u, w, x, sl)) : kget s.insts n = some it := by
  unfold nextFire at h1
  simp only [Option.bind_eq_some_iff] at h1
  obtain ⟨a, ha, b, hb, c, hc, hd⟩ := h1
  split at hd
  · simp only [Option.map_eq_some_iff] at hd
    obtain ⟨q, hq, he⟩ := hd
    simp at he
    rw [← he.1]; exact ha
  · simp at hd

/-- With nothing waiting behind the chain there is nothing to look at again. -/
theorem retry_none {s : State} {n : InstId} {it : Inst} (h1 : kget s.insts n = some it) (h2 : it.outstanding = []) :
    ∀ ops : List Nat, ops.foldl (retryIssued n) s = s
  | [] => rfl
  | op :: ops => by
    have h : retryIssued n s op = s := by
      have : issuedFire s n op = none := by
        unfold issuedFire
        cases h3 : kget s.images it.img with
        | none => simp [h1, h3]
        | some img => cases h4 : kget s.units img.unit <;> simp [h1, h2, h3]
      simp [retryIssued, this]
    rw [List.foldl_cons, h, retry_none h1 h2 ops]

/-- What WAVE_ISSUE does then: it issues the next operation of the chain. -/
theorem waveIssue_next {s : State} {n : InstId} {it : Inst} {img : Image} {u : UnitId} {w : WorkUnit} {x : MemFire} {sl : OpSlot}
    (h1 : nextFire s n = some (it, img, u, w, x, sl)) (hi : kget s.insts n = some it) (h2 : x.fault = none) (h3 : it.outstanding = []) :
    waveIssue s n = issueFire s n it img u w x sl := by
  simp [waveIssue, retry_none hi h3, h1, h2]

/-- An issue that is done, of an operation that writes nothing at its issue, ends the operation. -/
theorem waveIssue_done {s s1 : State} {n : InstId} {it : Inst} {img : Image} {u : UnitId} {w : WorkUnit} {x : MemFire} {sl : OpSlot} {t : Token}
    (h1 : nextFire s n = some (it, img, u, w, x, sl)) (h2 : x.fault = none) (h3 : it.outstanding = [])
    (hb : barredByEarlier s it img = false) (h4 : sameLocationLeft s it img sl.word w x = false) (hw : (writesAtIssue sl.word x).1 = [])
    (hi : ∀ key holds, key = img.tpKey (sl.place x.copy img).1 → issueOp s w key n img.die holds sl.word x = .done s1 t)
    (hu : kget s1.units u = some w) : exec (.waveIssue n) s = .next (settle (chainDone s1 n it x sl.word t)) := by
  have h5 := nextFire_inst h1
  rw [exec_waveIssue, execWaveIssue, waveIssue_next h1 h5 h2 h3]
  have hn : barred s it img x = false := by simp [barred, Inst.aheadOf, h3, hb]
  simp only [issueFire, h4, hn, Bool.or_self, Bool.and_false, Bool.false_eq_true, if_false]
  rw [hi _ _ rfl]
  simp [hw, placesOf, hu, done]

theorem nextFire_unit {s : State} {n : InstId} {it : Inst} {img : Image} {u : UnitId} {w : WorkUnit} {x : MemFire} {sl : OpSlot}
    (h1 : nextFire s n = some (it, img, u, w, x, sl)) : kget s.units u = some w := by
  unfold nextFire at h1
  simp only [Option.bind_eq_some_iff] at h1
  obtain ⟨a, ha, b, hb, c, hc, hd⟩ := h1
  split at hd
  · simp only [Option.map_eq_some_iff] at hd
    obtain ⟨q, hq, he⟩ := hd
    simp at he
    obtain ⟨_, _, h3, h4, _⟩ := he
    rw [← h3, ← h4]; exact hc
  · simp at hd

theorem mem_lanesOf {m : BitVec 16} {i : Nat} (h : i < 16) (hm : m.getLsbD i = true) : i ∈ lanesOf m := by
  simp [lanesOf, h, hm]

/-- A token depends only on its valid lanes. -/
theorem make_congr {f g : Nat → Lane} {m : BitVec 16} {c : TokClass} (h : ∀ i, i < 16 → m.getLsbD i = true → f i = g i) :
    Token.make f m c = Token.make g m c := by
  unfold Token.make
  congr 1
  apply Vector.ext
  intro i hi
  simp only [Vector.getElem_ofFn]
  by_cases hm : m.getLsbD i = true
  · simp [hm, h i hi hm]
  · simp [hm]

/-- What the issue of a command that has made its accesses can do: it waits under SER as an operation, a store of it waits, or it takes effect at once
(R116, R394). -/
theorem settleAt_cases (s : State) (x : Ctx) (row : Engine) (c : Cmd128) (e : Settled) :
    (serWaits s x row c = true ∧ settleAt s x row c e = .st (addOp s (x.op row c (.settled e) {})).1 0) ∨
    (serWaits s x row c = false ∧ e.perform s = none ∧ settleAt s x row c e = .waits []) ∨
    (∃ s1, serWaits s x row c = false ∧ e.perform s = some s1 ∧ settleAt s x row c e = atOnce s x row c (.st s1 0)) := by
  unfold settleAt
  by_cases h : serWaits s x row c = true
  · exact .inl ⟨h, if_pos h⟩
  · have hf : serWaits s x row c = false := by simpa using h
    cases hp : e.perform s with
    | none => exact .inr (.inl ⟨hf, rfl, if_neg h⟩)
    | some s1 => exact .inr (.inr ⟨s1, hf, rfl, if_neg h⟩)

/-- A translation that reads a lost page of the tables is an uncorrectable error (R356). -/
theorem translate_lost {s : State} {asid : BitVec 12} {va root : Nat} {acc : Access} (hr : kget s.roots asid.toNat = some root)
    (hl : walkLost s (va % 2 ^ 57) root = true) : translate s asid va acc = .bad cMemUce := by
  simp only [translate, hr, hl, if_true]

/-- Without lost pages no walk is lost. -/
@[simp] theorem walkLost_none {s : State} (h : s.lost = []) (va root : Nat) : walkLost s va root = false := by
  simp [walkLost, h]

end Sys2Proof.Machine
end

