-- ==== Sys2Proof/Laws/Maps.lean ====
section
/-! SUPPORT. What reading gives after writing a sparse map, and that every map operation keeps the canonical form. -/

set_option Elab.async false

namespace Sys2Proof.Machine

@[simp] theorem kget_nil {α : Type} (n : Nat) : kget ([] : KMap α) n = none := rfl

@[simp] theorem kget_kput_same {α : Type} (m : KMap α) (n : Nat) (x : α) : kget (kput m n x) n = some x := by
  induction m with
  | nil => simp [kput, kget]
  | cons p m ih =>
    obtain ⟨k, v⟩ := p
    simp only [kput]
    split
    · simp [kget]
    · split
      · simp [kget]
      · rename_i h2
        simp [kget, h2, ih]

theorem kget_kput_other {α : Type} (m : KMap α) {n k : Nat} (x : α) (h : k ≠ n) : kget (kput m n x) k = kget m k := by
  induction m with
  | nil => simp [kput, kget, Ne.symm h]
  | cons p m ih =>
    obtain ⟨j, v⟩ := p
    simp only [kput]
    split
    · simp [kget, Ne.symm h]
    · split
      · rename_i h2
        subst h2
        simp [kget, Ne.symm h]
      · simp only [kget, ih]

theorem kget_kput {α : Type} (m : KMap α) (n k : Nat) (x : α) : kget (kput m n x) k = if k = n then some x else kget m k := by
  split
  · subst_vars
    simp
  · exact kget_kput_other m x ‹_›

/-- Keys of a sorted map are greater than the key before them. -/
theorem ksorted_tail {α : Type} {p : Nat × α} {m : KMap α} (h : ksorted (p :: m) = true) : ksorted m = true := by
  cases m with
  | nil => rfl
  | cons q m => obtain ⟨k, v⟩ := p; obtain ⟨k', v'⟩ := q; simp only [ksorted, Bool.and_eq_true] at h; exact h.2

theorem kget_below {α : Type} {m : KMap α} {k : Nat} {v : α} (h : ksorted ((k, v) :: m) = true) {n : Nat} (hn : n ≤ k) : kget m n = none := by
  induction m generalizing k v with
  | nil => rfl
  | cons q m ih =>
    obtain ⟨k', v'⟩ := q
    simp only [ksorted, Bool.and_eq_true, decide_eq_true_eq] at h
    simp only [kget]
    rw [if_neg (by omega)]
    exact ih h.2 (by omega)

/-- The keys of a sorted map stand above any key below its head. -/
theorem ksorted_cons {α : Type} {m : KMap α} {k : Nat} {v : α} (h : ksorted m = true)
    (hlt : ∀ q ∈ m.head?, k < q.1) : ksorted ((k, v) :: m) = true := by
  cases m with
  | nil => rfl
  | cons q m =>
    obtain ⟨k', v'⟩ := q
    simp only [ksorted, Bool.and_eq_true, decide_eq_true_eq]
    exact ⟨hlt (k', v') (by simp), h⟩

theorem kput_head {α : Type} (m : KMap α) (n : Nat) (x : α) {k : Nat} (hk : k < n) (h : ∀ q ∈ m.head?, k < q.1) :
    ∀ q ∈ (kput m n x).head?, k < q.1 := by
  cases m with
  | nil => simp [kput, hk]
  | cons p m =>
    obtain ⟨j, v⟩ := p
    simp only [kput]
    split
    · simp [hk]
    · split
      · simp [hk]
      · simpa using h (j, v) (by simp)

theorem ksorted_head {α : Type} {m : KMap α} {k : Nat} {v : α} (h : ksorted ((k, v) :: m) = true) : ∀ q ∈ m.head?, k < q.1 := by
  cases m with
  | nil => simp
  | cons q m =>
    obtain ⟨k', v'⟩ := q
    simp only [ksorted, Bool.and_eq_true, decide_eq_true_eq] at h
    simpa using h.1

theorem ksorted_kput {α : Type} (m : KMap α) (n : Nat) (x : α) (h : ksorted m = true) : ksorted (kput m n x) = true := by
  induction m with
  | nil => rfl
  | cons p m ih =>
    obtain ⟨k, v⟩ := p
    simp only [kput]
    split
    · rename_i h1
      exact ksorted_cons h (by simpa using h1)
    · split
      · rename_i h1 h2
        subst h2
        exact ksorted_cons (ksorted_tail h) (ksorted_head h)
      · rename_i h1 h2
        exact ksorted_cons (ih (ksorted_tail h)) (kput_head m n x (by omega) (ksorted_head h))

theorem kdel_head {α : Type} (m : KMap α) (n k : Nat) (hm : ksorted m = true) (h : ∀ q ∈ m.head?, k < q.1) :
    ∀ q ∈ (kdel m n).head?, k < q.1 := by
  cases m with
  | nil => simp [kdel]
  | cons p m =>
    obtain ⟨j, v⟩ := p
    have hj : k < j := by simpa using h (j, v) (by simp)
    simp only [kdel]
    split
    · intro q hq
      exact Nat.lt_trans hj (ksorted_head hm q hq)
    · simpa using hj

theorem ksorted_kdel {α : Type} (m : KMap α) (n : Nat) (h : ksorted m = true) : ksorted (kdel m n) = true := by
  induction m with
  | nil => rfl
  | cons p m ih =>
    obtain ⟨k, v⟩ := p
    simp only [kdel]
    split
    · exact ksorted_tail h
    · exact ksorted_cons (ih (ksorted_tail h)) (kdel_head m n k (ksorted_tail h) (ksorted_head h))

theorem kget_kdel_same {α : Type} (m : KMap α) (n : Nat) (h : ksorted m = true) : kget (kdel m n) n = none := by
  induction m with
  | nil => rfl
  | cons p m ih =>
    obtain ⟨k, v⟩ := p
    simp only [kdel]
    split
    · rename_i h1
      subst h1
      exact kget_below h (Nat.le_refl _)
    · rename_i h1
      simp [kget, h1, ih (ksorted_tail h)]

theorem kget_kdel_other {α : Type} (m : KMap α) {n k : Nat} (h : k ≠ n) : kget (kdel m n) k = kget m k := by
  induction m with
  | nil => rfl
  | cons p m ih =>
    obtain ⟨j, v⟩ := p
    simp only [kdel]
    split
    · rename_i h1
      subst h1
      simp [kget, Ne.symm h]
    · simp only [kget, ih]

theorem kget_kmod_same {α : Type} (m : KMap α) (n : Nat) (f : α → α) : kget (kmod m n f) n = (kget m n).map f := by
  induction m with
  | nil => rfl
  | cons p m ih =>
    obtain ⟨k, v⟩ := p
    simp only [kmod, List.map_cons] at ih ⊢
    by_cases h : k = n
    · simp [kget, h]
    · simp [kget, h, ih]

theorem kget_kmod_other {α : Type} (m : KMap α) {n k : Nat} (f : α → α) (h : k ≠ n) : kget (kmod m n f) k = kget m k := by
  induction m with
  | nil => rfl
  | cons p m ih =>
    obtain ⟨j, v⟩ := p
    simp only [kmod, List.map_cons] at ih ⊢
    by_cases hj : j = n
    · subst hj
      simp [kget, Ne.symm h, ih]
    · simp [kget, hj, ih]

/-- Reading a map with a default after writing one key of it. -/
theorem dget_dset_same {α : Type} [DecidableEq α] (d : α) (m : KMap α) (n : Nat) (x : α) (h : ksorted m = true) :
    dget d (dset d m n x) n = x := by
  unfold dset dget
  split
  · rename_i hx
    rw [kget_kdel_same m n h]
    simp [hx]
  · simp

theorem dget_dset_other {α : Type} [DecidableEq α] (d : α) (m : KMap α) {n k : Nat} (x : α) (h : k ≠ n) :
    dget d (dset d m n x) k = dget d m k := by
  unfold dset dget
  split
  · rw [kget_kdel_other m h]
  · rw [kget_kput_other m x h]

theorem mem_kput {α : Type} (m : KMap α) (n : Nat) (x : α) (p : Nat × α) (h : p ∈ kput m n x) : p = (n, x) ∨ p ∈ m := by
  induction m with
  | nil => simpa [kput] using h
  | cons q m ih =>
    obtain ⟨k, v⟩ := q
    simp only [kput] at h
    split at h
    · simpa using h
    · split at h
      · simp only [List.mem_cons] at h ⊢
        rcases h with h | h
        · exact .inl h
        · exact .inr (.inr h)
      · simp only [List.mem_cons] at h ⊢
        rcases h with h | h
        · exact .inr (.inl h)
        · rcases ih h with h | h
          · exact .inl h
          · exact .inr (.inr h)

theorem mem_kdel {α : Type} (m : KMap α) (n : Nat) (p : Nat × α) (h : p ∈ kdel m n) : p ∈ m := by
  induction m with
  | nil => simp [kdel] at h
  | cons q m ih =>
    obtain ⟨k, v⟩ := q
    simp only [kdel] at h
    split at h
    · exact List.mem_cons_of_mem _ h
    · simp only [List.mem_cons] at h ⊢
      rcases h with h | h
      · exact .inl h
      · exact .inr (ih h)

/-- Writing a map with a default keeps the canonical form. -/
theorem dwf_dset {α : Type} [DecidableEq α] (d : α) (m : KMap α) (n : Nat) (x : α) (h : dwf d m = true) : dwf d (dset d m n x) = true := by
  simp only [dwf, Bool.and_eq_true, List.all_eq_true, decide_eq_true_eq] at h ⊢
  unfold dset
  split
  · exact ⟨ksorted_kdel m n h.1, fun p hp => h.2 p (mem_kdel m n p hp)⟩
  · rename_i hx
    refine ⟨ksorted_kput m n x h.1, fun p hp => ?_⟩
    rcases mem_kput m n x p hp with rfl | hp
    · exact hx
    · exact h.2 p hp

/-- A sorted map stays sorted where some of its entries are taken out. -/
theorem ksorted_filter {α : Type} (m : KMap α) (f : Nat × α → Bool) (h : ksorted m = true) : ksorted (m.filter f) = true := by
  have below : ∀ (m : KMap α) (k : Nat), ksorted m = true → (∀ q ∈ m.head?, k < q.1) → ∀ q ∈ (m.filter f).head?, k < q.1 := by
    intro m
    induction m with
    | nil => simp
    | cons p m ih =>
      intro k hs hk
      have hp : k < p.1 := by simpa using hk p (by simp)
      rw [List.filter_cons]
      split
      · simpa using hp
      · exact ih k (ksorted_tail hs) fun q hq => Nat.lt_trans hp (ksorted_head (k := p.1) (v := p.2) hs q hq)
  induction m with
  | nil => rfl
  | cons p m ih =>
    rw [List.filter_cons]
    split
    · exact ksorted_cons (ih (ksorted_tail h)) (below m p.1 (ksorted_tail h) (ksorted_head (k := p.1) (v := p.2) h))
    · exact ih (ksorted_tail h)

theorem dwf_filter {α : Type} [DecidableEq α] (d : α) (m : KMap α) (f : Nat × α → Bool) (h : dwf d m = true) : dwf d (m.filter f) = true := by
  simp only [dwf, Bool.and_eq_true, List.all_eq_true, decide_eq_true_eq] at h ⊢
  exact ⟨ksorted_filter m f h.1, fun p hp => h.2 p (List.mem_of_mem_filter hp)⟩

end Sys2Proof.Machine
end

