-- ==== Sys2Proof/Laws/Memory.lean ====
section
/-! SUPPORT. What a write to memory leaves: the bytes read back, every other byte untouched, and the canonical form. -/

set_option Elab.async false

namespace Sys2Proof.Machine

/-! ## Little-endian numbers (R5) -/

@[simp] theorem length_leBytes (n x : Nat) : (leBytes n x).length = n := by
  induction n generalizing x with
  | zero => rfl
  | succ n ih => simp [leBytes, ih]

theorem leNat_leBytes (n x : Nat) : leNat (leBytes n x) = x % 256 ^ n := by
  induction n generalizing x with
  | zero => simp [leBytes, leNat, Nat.mod_one]
  | succ n ih =>
    show (BitVec.ofNat 8 x).toNat + 256 * leNat (leBytes n (x / 256)) = x % 256 ^ (n + 1)
    rw [ih, Nat.pow_succ', Nat.mod_mul]
    rfl

theorem leNat_lt (bs : List Byte) : leNat bs < 256 ^ bs.length := by
  induction bs with
  | nil => simp [leNat]
  | cons b bs ih =>
    simp only [leNat, List.length_cons, Nat.pow_succ]
    have := b.isLt
    omega

/-! ## Byte maps -/

@[simp] theorem length_getBytes (m : KMap Byte) (a n : Nat) : (getBytes m a n).length = n := by
  induction n generalizing a with
  | zero => rfl
  | succ n ih => simp [getBytes, ih]

theorem putBytes_wf (m : KMap Byte) (a : Nat) (bs : List Byte) (h : Memory.wf m = true) : Memory.wf (putBytes m a bs) = true := by
  induction bs generalizing m a with
  | nil => exact h
  | cons b bs ih => exact ih _ _ (dwf_dset 0 m a b h)

/-- A byte outside the written ones reads as before. -/
theorem dget_putBytes_outside (m : KMap Byte) (a : Nat) (bs : List Byte) (k : Nat) (h : k < a ∨ a + bs.length ≤ k) :
    dget 0 (putBytes m a bs) k = dget 0 m k := by
  induction bs generalizing m a with
  | nil => rfl
  | cons b bs ih =>
    simp only [List.length_cons] at h
    simp only [putBytes]
    rw [ih _ _ (by omega), dget_dset_other 0 m b (by omega)]

theorem wf_ksorted {m : KMap Byte} (h : Memory.wf m = true) : ksorted m = true := by
  unfold Memory.wf dwf at h
  simp only [Bool.and_eq_true] at h
  exact h.1

/-- A written byte reads as what was written. -/
theorem dget_putBytes_inside (m : KMap Byte) (a : Nat) (bs : List Byte) (i : Nat) (h : Memory.wf m = true) (hi : i < bs.length) :
    dget 0 (putBytes m a bs) (a + i) = bs[i] := by
  induction bs generalizing m a i with
  | nil => simp at hi
  | cons b bs ih =>
    simp only [putBytes]
    cases i with
    | zero =>
      rw [Nat.add_zero a, dget_putBytes_outside _ _ _ a (by omega)]
      simpa using dget_dset_same 0 m a b (wf_ksorted h)
    | succ i =>
      have e : a + (i + 1) = a + 1 + i := by omega
      rw [e, ih _ _ _ (dwf_dset 0 m a b h) (by simpa using hi)]
      rfl

/-- Bytes that were written read back. -/
theorem getBytes_putBytes (m : KMap Byte) (a : Nat) (bs : List Byte) (h : Memory.wf m = true) :
    getBytes (putBytes m a bs) a bs.length = bs := by
  have key : ∀ (n k : Nat) (m' : KMap Byte), k + n = bs.length → m' = putBytes m a bs →
      getBytes m' (a + k) n = bs.drop k := by
    intro n
    induction n with
    | zero =>
      intro k m' hk _
      rw [List.drop_of_length_le (by omega)]
      rfl
    | succ n ih =>
      intro k m' hk hm
      have hk' : k < bs.length := by omega
      simp only [getBytes]
      rw [show a + k + 1 = a + (k + 1) by omega, ih (k + 1) m' (by omega) hm, hm, dget_putBytes_inside m a bs k h hk']
      exact (List.drop_eq_getElem_cons hk').symm
  simpa using key bs.length 0 _ (by omega) rfl

/-- Bytes that the written ones do not touch read as before. -/
theorem getBytes_putBytes_outside (m : KMap Byte) (a : Nat) (bs : List Byte) (k n : Nat) (h : k + n ≤ a ∨ a + bs.length ≤ k) :
    getBytes (putBytes m a bs) k n = getBytes m k n := by
  induction n generalizing k with
  | zero => rfl
  | succ n ih =>
    simp only [getBytes]
    rw [dget_putBytes_outside m a bs k (by omega), ih (k + 1) (by omega)]

/-! ## Writes to device memory (R351, R228) -/

/-- What `logPage` leaves alone: everything but the undo log and the full checkpoint. -/
theorem logPage_eq (s : State) (p : Nat) : logPage s p = { s with undo := (logPage s p).undo, fc := (logPage s p).fc } := rfl

theorem foldl_logPage_eq (ps : List Nat) (s : State) :
    ps.foldl logPage s = { s with undo := (ps.foldl logPage s).undo, fc := (ps.foldl logPage s).fc } := by
  induction ps generalizing s with
  | nil => rfl
  | cons p ps ih =>
    simp only [List.foldl_cons]
    rw [ih (logPage s p)]
    rfl

@[simp] theorem foldl_logPage_mem (ps : List Nat) (s : State) : (ps.foldl logPage s).mem = s.mem := by
  rw [foldl_logPage_eq]

/-- A write to device memory changes the bytes, the undo log, the full checkpoint, the dead units and the errors that it writes over, and nothing else. -/
theorem writeDpa_eq (s : State) (a : Nat) (bs : List Byte) :
    writeDpa s a bs = { s with mem := putBytes s.mem a bs, undo := (writeDpa s a bs).undo, fc := (writeDpa s a bs).fc,
                               dead := (writeDpa s a bs).dead, uce := (writeDpa s a bs).uce } := by
  unfold writeDpa
  rw [foldl_logPage_eq]

@[simp] theorem writeDpa_mem (s : State) (a : Nat) (bs : List Byte) : (writeDpa s a bs).mem = putBytes s.mem a bs := by
  rw [writeDpa_eq]

/-- A write where a translation leads changes only memory and what follows a write to it. -/
theorem writeRaw_eq (s : State) (p : Phys) (bs : List Byte) :
    writeRaw s p bs = { s with mem := (writeRaw s p bs).mem, sysMem := (writeRaw s p bs).sysMem, undo := (writeRaw s p bs).undo,
                               fc := (writeRaw s p bs).fc, dead := (writeRaw s p bs).dead, uce := (writeRaw s p bs).uce } := by
  have reps : ∀ (ds : List Nat) (s : State) (a : Nat),
      ds.foldl (fun s d => writeDpa s (replicaAddr a d) bs) s =
        { s with mem := (ds.foldl (fun s d => writeDpa s (replicaAddr a d) bs) s).mem,
                 undo := (ds.foldl (fun s d => writeDpa s (replicaAddr a d) bs) s).undo,
                 fc := (ds.foldl (fun s d => writeDpa s (replicaAddr a d) bs) s).fc,
                 dead := (ds.foldl (fun s d => writeDpa s (replicaAddr a d) bs) s).dead,
                 uce := (ds.foldl (fun s d => writeDpa s (replicaAddr a d) bs) s).uce } := by
    intro ds
    induction ds with
    | nil => intro s a; rfl
    | cons d ds ih =>
      intro s a
      simp only [List.foldl_cons]
      rw [ih, writeDpa_eq s (replicaAddr a d) bs]
  cases p with
  | dpa a => simp only [writeRaw]; rw [writeDpa_eq]
  | rep a set => simp only [writeRaw]; rw [reps]
  | sys a => rfl
  | aperture d o => rfl
  | queue d g o => rfl

/-- Every wait examines a write; the write itself is `writeRaw`. -/
theorem writePhys_eq (s : State) (p : Phys) (bs : List Byte) :
    writePhys s p bs = { writeRaw s p bs with watches := (writePhys s p bs).watches } := rfl

theorem writeDpa_wf (s : State) (a : Nat) (bs : List Byte) (h : Memory.wf s.mem = true) : Memory.wf (writeDpa s a bs).mem = true := by
  rw [writeDpa_mem]
  exact putBytes_wf _ _ _ h

/-- A write where a translation leads keeps the canonical form of device memory. -/
theorem writeRaw_wf (s : State) (p : Phys) (bs : List Byte) (h : Memory.wf s.mem = true) : Memory.wf (writeRaw s p bs).mem = true := by
  cases p with
  | dpa a => exact writeDpa_wf s a bs h
  | rep a set =>
    simp only [writeRaw]
    have go : ∀ (ds : List Nat) (s : State), Memory.wf s.mem = true →
        Memory.wf (ds.foldl (fun s d => writeDpa s (replicaAddr a d) bs) s).mem = true := by
      intro ds
      induction ds with
      | nil => intro s hs; exact hs
      | cons d ds ih => intro s hs; exact ih _ (writeDpa_wf s _ bs hs)
    exact go _ s h
  | sys a => exact h
  | aperture d o => exact h
  | queue d g o => exact h

theorem writePhys_wf (s : State) (p : Phys) (bs : List Byte) (h : Memory.wf s.mem = true) : Memory.wf (writePhys s p bs).mem = true :=
  writeRaw_wf s p bs h

/-- Memory outside the device keeps its canonical form too. -/
theorem writeRaw_sys_wf (s : State) (p : Phys) (bs : List Byte) (h : Memory.wf s.sysMem = true) : Memory.wf (writeRaw s p bs).sysMem = true := by
  cases p with
  | dpa a => simp only [writeRaw]; rw [writeDpa_eq]; exact h
  | rep a set =>
    simp only [writeRaw]
    have go : ∀ (ds : List Nat) (s : State), Memory.wf s.sysMem = true →
        Memory.wf (ds.foldl (fun s d => writeDpa s (replicaAddr a d) bs) s).sysMem = true := by
      intro ds
      induction ds with
      | nil => intro s hs; exact hs
      | cons d ds ih => intro s hs; exact ih _ (by show Memory.wf (writeDpa s _ bs).sysMem = true; rw [writeDpa_eq]; exact hs)
    exact go _ s h
  | sys a => exact putBytes_wf _ _ _ h
  | aperture d o => exact h
  | queue d g o => exact h

/-- Reset memory is canonical. -/
theorem reset_memory_wf : Memory.wf State.reset.mem = true := rfl

/-- What a write to one device address leaves at another. -/
theorem readPhys_writePhys_outside (s : State) (a : Nat) (bs : List Byte) (d k n : Nat) (h : k + n ≤ a ∨ a + bs.length ≤ k) :
    readPhys (writePhys s (.dpa a) bs) d (.dpa k) n = readPhys s d (.dpa k) n := by
  simp only [readPhys]
  rw [writePhys_eq]
  simp only [writeRaw]
  rw [writeDpa_eq]
  exact getBytes_putBytes_outside _ _ _ _ _ h

/-- A write to device memory reads back. -/
theorem readPhys_writePhys_same (s : State) (a : Nat) (bs : List Byte) (d : Nat) (h : Memory.wf s.mem = true) :
    readPhys (writePhys s (.dpa a) bs) d (.dpa a) bs.length = bs := by
  simp only [readPhys]
  rw [writePhys_eq]
  simp only [writeRaw]
  rw [writeDpa_eq]
  exact getBytes_putBytes _ _ _ h

end Sys2Proof.Machine
end

