-- ==== Sys2Proof/Laws/PerInstr.lean ====
section
/-! SUPPORT. Claims made for every instruction by its constructor: the round trip of the scalar words (R119, R120). -/

set_option Elab.async false

namespace Sys2Proof.Laws

/-- A well-formed instruction's word decodes to it; a step without a word of its own has none. -/
def RoundTrip.Statement (i : Instr) : Prop := ∀ w, i.wf = true → encode i = some w → decodeWord w = .ok i

namespace RoundTrip

theorem add (rd rs1 rs2 : Reg) : Statement (.add rd rs1 rs2) := by
  intro w _ e
  cases e
  simp [decodeWord, decR, zeroThen]

theorem sub (rd rs1 rs2 : Reg) : Statement (.sub rd rs1 rs2) := by
  intro w _ e
  cases e
  simp [decodeWord, decR, zeroThen]

theorem and (rd rs1 rs2 : Reg) : Statement (.and rd rs1 rs2) := by
  intro w _ e
  cases e
  simp [decodeWord, decR, zeroThen]

theorem or (rd rs1 rs2 : Reg) : Statement (.or rd rs1 rs2) := by
  intro w _ e
  cases e
  simp [decodeWord, decR, zeroThen]

theorem xor (rd rs1 rs2 : Reg) : Statement (.xor rd rs1 rs2) := by
  intro w _ e
  cases e
  simp [decodeWord, decR, zeroThen]

theorem sll (rd rs1 rs2 : Reg) : Statement (.sll rd rs1 rs2) := by
  intro w _ e
  cases e
  simp [decodeWord, decR, zeroThen]

theorem srl (rd rs1 rs2 : Reg) : Statement (.srl rd rs1 rs2) := by
  intro w _ e
  cases e
  simp [decodeWord, decR, zeroThen]

theorem sra (rd rs1 rs2 : Reg) : Statement (.sra rd rs1 rs2) := by
  intro w _ e
  cases e
  simp [decodeWord, decR, zeroThen]

theorem mul (rd rs1 rs2 : Reg) : Statement (.mul rd rs1 rs2) := by
  intro w _ e
  cases e
  simp [decodeWord, decR, zeroThen]

theorem mulh (rd rs1 rs2 : Reg) : Statement (.mulh rd rs1 rs2) := by
  intro w _ e
  cases e
  simp [decodeWord, decR, zeroThen]

theorem div (rd rs1 rs2 : Reg) : Statement (.div rd rs1 rs2) := by
  intro w _ e
  cases e
  simp [decodeWord, decR, zeroThen]

theorem rem (rd rs1 rs2 : Reg) : Statement (.rem rd rs1 rs2) := by
  intro w _ e
  cases e
  simp [decodeWord, decR, zeroThen]

theorem slt (rd rs1 rs2 : Reg) : Statement (.slt rd rs1 rs2) := by
  intro w _ e
  cases e
  simp [decodeWord, decR, zeroThen]

theorem sltu (rd rs1 rs2 : Reg) : Statement (.sltu rd rs1 rs2) := by
  intro w _ e
  cases e
  simp [decodeWord, decR, zeroThen]

theorem min (rd rs1 rs2 : Reg) : Statement (.min rd rs1 rs2) := by
  intro w _ e
  cases e
  simp [decodeWord, decR, zeroThen]

theorem max (rd rs1 rs2 : Reg) : Statement (.max rd rs1 rs2) := by
  intro w _ e
  cases e
  simp [decodeWord, decR, zeroThen]

theorem addi (rd rs1 : Reg) (imm : BitVec 15) : Statement (.addi rd rs1 imm) := by
  intro w _ e
  cases e
  simp [decodeWord, decI]

theorem andi (rd rs1 : Reg) (imm : BitVec 15) : Statement (.andi rd rs1 imm) := by
  intro w _ e
  cases e
  simp [decodeWord, decI]

theorem ori (rd rs1 : Reg) (imm : BitVec 15) : Statement (.ori rd rs1 imm) := by
  intro w _ e
  cases e
  simp [decodeWord, decI]

theorem xori (rd rs1 : Reg) (imm : BitVec 15) : Statement (.xori rd rs1 imm) := by
  intro w _ e
  cases e
  simp [decodeWord, decI]

theorem slli (rd rs1 : Reg) (sh : BitVec 6) : Statement (.slli rd rs1 sh) := by
  intro w _ e
  cases e
  simp [decodeWord, decShift, zeroThen]

theorem srli (rd rs1 : Reg) (sh : BitVec 6) : Statement (.srli rd rs1 sh) := by
  intro w _ e
  cases e
  simp [decodeWord, decShift, zeroThen]

theorem srai (rd rs1 : Reg) (sh : BitVec 6) : Statement (.srai rd rs1 sh) := by
  intro w _ e
  cases e
  simp [decodeWord, decShift, zeroThen]

theorem lui (rd : Reg) (imm : BitVec 20) : Statement (.lui rd imm) := by
  intro w _ e
  cases e
  simp [decodeWord]

theorem ld (rd rs1 : Reg) (imm : BitVec 15) : Statement (.ld rd rs1 imm) := by
  intro w _ e
  cases e
  simp [decodeWord, decI]

theorem lw (rd rs1 : Reg) (imm : BitVec 15) : Statement (.lw rd rs1 imm) := by
  intro w _ e
  cases e
  simp [decodeWord, decI]

theorem lwu (rd rs1 : Reg) (imm : BitVec 15) : Statement (.lwu rd rs1 imm) := by
  intro w _ e
  cases e
  simp [decodeWord, decI]

theorem lh (rd rs1 : Reg) (imm : BitVec 15) : Statement (.lh rd rs1 imm) := by
  intro w _ e
  cases e
  simp [decodeWord, decI]

theorem lhu (rd rs1 : Reg) (imm : BitVec 15) : Statement (.lhu rd rs1 imm) := by
  intro w _ e
  cases e
  simp [decodeWord, decI]

theorem lb (rd rs1 : Reg) (imm : BitVec 15) : Statement (.lb rd rs1 imm) := by
  intro w _ e
  cases e
  simp [decodeWord, decI]

theorem lbu (rd rs1 : Reg) (imm : BitVec 15) : Statement (.lbu rd rs1 imm) := by
  intro w _ e
  cases e
  simp [decodeWord, decI]

theorem sd (rs2 rs1 : Reg) (imm : BitVec 15) : Statement (.sd rs2 rs1 imm) := by
  intro w _ e
  cases e
  simp [decodeWord, decI]

theorem sw (rs2 rs1 : Reg) (imm : BitVec 15) : Statement (.sw rs2 rs1 imm) := by
  intro w _ e
  cases e
  simp [decodeWord, decI]

theorem sh (rs2 rs1 : Reg) (imm : BitVec 15) : Statement (.sh rs2 rs1 imm) := by
  intro w _ e
  cases e
  simp [decodeWord, decI]

theorem sb (rs2 rs1 : Reg) (imm : BitVec 15) : Statement (.sb rs2 rs1 imm) := by
  intro w _ e
  cases e
  simp [decodeWord, decI]

theorem pset (pd : Pred) (cond : Cond) (rs1 rs2 : Reg) : Statement (.pset pd cond rs1 rs2) := by
  intro w _ e
  cases e
  simp [decodeWord, decP, zeroThen]

theorem plog (pd : Pred) (fn : LogFn) (pa pb : Pred) : Statement (.plog pd fn pa pb) := by
  intro w h e
  cases e
  simp only [Instr.wf] at h
  cases fn <;> simp_all [decodeWord, decL, zeroThen]

theorem br (p : Pred) (neg : Bool) (off : BitVec 21) : Statement (.br p neg off) := by
  intro w _ e
  cases e
  cases neg <;> simp [decodeWord]

theorem jal (rd : Reg) (off : BitVec 20) : Statement (.jal rd off) := by
  intro w _ e
  cases e
  simp [decodeWord]

theorem jalr (rd rs1 : Reg) (imm : BitVec 15) : Statement (.jalr rd rs1 imm) := by
  intro w _ e
  cases e
  simp [decodeWord, decI]

theorem csrrw (rd rs1 : Reg) (csr : BitVec 12) : Statement (.csrrw rd rs1 csr) := by
  intro w _ e
  cases e
  simp [decodeWord, decC, zeroThen]

theorem csrrs (rd rs1 : Reg) (csr : BitVec 12) : Statement (.csrrs rd rs1 csr) := by
  intro w _ e
  cases e
  simp [decodeWord, decC, zeroThen]

theorem csrrc (rd rs1 : Reg) (csr : BitVec 12) : Statement (.csrrc rd rs1 csr) := by
  intro w _ e
  cases e
  simp [decodeWord, decC, zeroThen]

theorem gset (rs : Reg) (g : SeedReg) : Statement (.gset rs g) := by
  intro w _ e
  cases e
  simp [decodeWord, decG, zeroThen]

theorem gget (rs : Reg) (g : SeedReg) : Statement (.gget rs g) := by
  intro w _ e
  cases e
  simp [decodeWord, decG, zeroThen]

theorem cfgld (rd rs1 rs2 : Reg) : Statement (.cfgld rd rs1 rs2) := by
  intro w _ e
  cases e
  simp [decodeWord, decR, zeroThen]

theorem cmd (rd rs1 rs2 : Reg) : Statement (.cmd rd rs1 rs2) := by
  intro w _ e
  cases e
  simp [decodeWord, decR, zeroThen]

theorem launch (rd rs1 : Reg) : Statement (.launch rd rs1) := by
  intro w _ e
  cases e
  simp [decodeWord, zeroThen, encR_low15]

theorem launchNb (rd rs1 : Reg) : Statement (.launchNb rd rs1) := by
  intro w _ e
  cases e
  simp [decodeWord, zeroThen, encR_low15]

theorem yield (rd : Reg) : Statement (.yield rd) := by
  intro w _ e
  cases e
  simp [decodeWord, zeroThen, encR_low20]

theorem waitNtf (rd rs1 : Reg) : Statement (.waitNtf rd rs1) := by
  intro w _ e
  cases e
  simp [decodeWord, decWait, zeroThen]

theorem waitLvl (rd rs1 : Reg) : Statement (.waitLvl rd rs1) := by
  intro w _ e
  cases e
  simp [decodeWord, decWait, zeroThen]

theorem waitGeu (rd rs1 rs2 : Reg) : Statement (.waitGeu rd rs1 rs2) := by
  intro w _ e
  cases e
  simp [decodeWord, decWait]

theorem waitEq (rd rs1 rs2 : Reg) : Statement (.waitEq rd rs1 rs2) := by
  intro w _ e
  cases e
  simp [decodeWord, decWait]

theorem trap (rs1 : Reg) (code : BitVec 10) : Statement (.trap rs1 code) := by
  intro w _ e
  cases e
  simp [decodeWord, zeroThen]

theorem eret : Statement (.eret) := by
  intro w _ e
  cases e
  simp [decodeWord, zeroThen, encR_low25]

theorem fence (scope : BitVec 3) : Statement (.fence scope) := by
  intro w _ e
  cases e
  simp [decodeWord, zeroThen]

theorem endUnit : Statement (.endUnit) := by
  intro w _ e
  cases e
  simp [decodeWord, zeroThen, encR_low25]

theorem waitingInstructionResume (u : UnitId) : Statement (.waitingInstructionResume u) := fun _ _ e => nomatch e

theorem waitTimeout (u : UnitId) : Statement (.waitTimeout u) := fun _ _ e => nomatch e

theorem opAdd (e : Site) : Statement (.opAdd e) := fun _ _ e => nomatch e

theorem opSub (e : Site) : Statement (.opSub e) := fun _ _ e => nomatch e

theorem opAdds (e : Site) : Statement (.opAdds e) := fun _ _ e => nomatch e

theorem opSubs (e : Site) : Statement (.opSubs e) := fun _ _ e => nomatch e

theorem opMul (e : Site) : Statement (.opMul e) := fun _ _ e => nomatch e

theorem opMulh (e : Site) : Statement (.opMulh e) := fun _ _ e => nomatch e

theorem opMulhu (e : Site) : Statement (.opMulhu e) := fun _ _ e => nomatch e

theorem opDiv (e : Site) : Statement (.opDiv e) := fun _ _ e => nomatch e

theorem opDivu (e : Site) : Statement (.opDivu e) := fun _ _ e => nomatch e

theorem opRem (e : Site) : Statement (.opRem e) := fun _ _ e => nomatch e

theorem opRemu (e : Site) : Statement (.opRemu e) := fun _ _ e => nomatch e

theorem opNeg (e : Site) : Statement (.opNeg e) := fun _ _ e => nomatch e

theorem opAbs (e : Site) : Statement (.opAbs e) := fun _ _ e => nomatch e

theorem opMin (e : Site) : Statement (.opMin e) := fun _ _ e => nomatch e

theorem opMax (e : Site) : Statement (.opMax e) := fun _ _ e => nomatch e

theorem opAnd (e : Site) : Statement (.opAnd e) := fun _ _ e => nomatch e

theorem opOr (e : Site) : Statement (.opOr e) := fun _ _ e => nomatch e

theorem opXor (e : Site) : Statement (.opXor e) := fun _ _ e => nomatch e

theorem opAndn (e : Site) : Statement (.opAndn e) := fun _ _ e => nomatch e

theorem opNot (e : Site) : Statement (.opNot e) := fun _ _ e => nomatch e

theorem opShl (e : Site) : Statement (.opShl e) := fun _ _ e => nomatch e

theorem opShr (e : Site) : Statement (.opShr e) := fun _ _ e => nomatch e

theorem opSar (e : Site) : Statement (.opSar e) := fun _ _ e => nomatch e

theorem opRol (e : Site) : Statement (.opRol e) := fun _ _ e => nomatch e

theorem opRor (e : Site) : Statement (.opRor e) := fun _ _ e => nomatch e

theorem opClz (e : Site) : Statement (.opClz e) := fun _ _ e => nomatch e

theorem opPopc (e : Site) : Statement (.opPopc e) := fun _ _ e => nomatch e

theorem opBext (e : Site) : Statement (.opBext e) := fun _ _ e => nomatch e

theorem opBins (e : Site) : Statement (.opBins e) := fun _ _ e => nomatch e

theorem opBrev (e : Site) : Statement (.opBrev e) := fun _ _ e => nomatch e

theorem opBswap (e : Site) : Statement (.opBswap e) := fun _ _ e => nomatch e

theorem opCeq (e : Site) : Statement (.opCeq e) := fun _ _ e => nomatch e

theorem opCne (e : Site) : Statement (.opCne e) := fun _ _ e => nomatch e

theorem opClt (e : Site) : Statement (.opClt e) := fun _ _ e => nomatch e

theorem opCle (e : Site) : Statement (.opCle e) := fun _ _ e => nomatch e

theorem opCltu (e : Site) : Statement (.opCltu e) := fun _ _ e => nomatch e

theorem opCleu (e : Site) : Statement (.opCleu e) := fun _ _ e => nomatch e

theorem opFceq (e : Site) : Statement (.opFceq e) := fun _ _ e => nomatch e

theorem opFclt (e : Site) : Statement (.opFclt e) := fun _ _ e => nomatch e

theorem opFcle (e : Site) : Statement (.opFcle e) := fun _ _ e => nomatch e

theorem opFcun (e : Site) : Statement (.opFcun e) := fun _ _ e => nomatch e

theorem opSel (e : Site) : Statement (.opSel e) := fun _ _ e => nomatch e

theorem opMov (e : Site) : Statement (.opMov e) := fun _ _ e => nomatch e

theorem opFadd (e : Site) : Statement (.opFadd e) := fun _ _ e => nomatch e

theorem opFsub (e : Site) : Statement (.opFsub e) := fun _ _ e => nomatch e

theorem opFmul (e : Site) : Statement (.opFmul e) := fun _ _ e => nomatch e

theorem opFma (e : Site) : Statement (.opFma e) := fun _ _ e => nomatch e

theorem opFms (e : Site) : Statement (.opFms e) := fun _ _ e => nomatch e

theorem opFnma (e : Site) : Statement (.opFnma e) := fun _ _ e => nomatch e

theorem opFnms (e : Site) : Statement (.opFnms e) := fun _ _ e => nomatch e

theorem opFmin (e : Site) : Statement (.opFmin e) := fun _ _ e => nomatch e

theorem opFmax (e : Site) : Statement (.opFmax e) := fun _ _ e => nomatch e

theorem opFabs (e : Site) : Statement (.opFabs e) := fun _ _ e => nomatch e

theorem opFneg (e : Site) : Statement (.opFneg e) := fun _ _ e => nomatch e

theorem opFcpsgn (e : Site) : Statement (.opFcpsgn e) := fun _ _ e => nomatch e

theorem opFrcps (e : Site) : Statement (.opFrcps e) := fun _ _ e => nomatch e

theorem opFrcpi (e : Site) : Statement (.opFrcpi e) := fun _ _ e => nomatch e

theorem opFrsqs (e : Site) : Statement (.opFrsqs e) := fun _ _ e => nomatch e

theorem opFrsqi (e : Site) : Statement (.opFrsqi e) := fun _ _ e => nomatch e

theorem opFexpr (e : Site) : Statement (.opFexpr e) := fun _ _ e => nomatch e

theorem opFexpp (e : Site) : Statement (.opFexpp e) := fun _ _ e => nomatch e

theorem opFlogr (e : Site) : Statement (.opFlogr e) := fun _ _ e => nomatch e

theorem opFlogp (e : Site) : Statement (.opFlogp e) := fun _ _ e => nomatch e

theorem opFsinr (e : Site) : Statement (.opFsinr e) := fun _ _ e => nomatch e

theorem opFsinp (e : Site) : Statement (.opFsinp e) := fun _ _ e => nomatch e

theorem opFclass (e : Site) : Statement (.opFclass e) := fun _ _ e => nomatch e

theorem opFround (e : Site) : Statement (.opFround e) := fun _ _ e => nomatch e

theorem opFscale (e : Site) : Statement (.opFscale e) := fun _ _ e => nomatch e

theorem opFmant (e : Site) : Statement (.opFmant e) := fun _ _ e => nomatch e

theorem opFexpo (e : Site) : Statement (.opFexpo e) := fun _ _ e => nomatch e

theorem opLgmul (e : Site) : Statement (.opLgmul e) := fun _ _ e => nomatch e

theorem opLgsum (e : Site) : Statement (.opLgsum e) := fun _ _ e => nomatch e

theorem opLgenc (e : Site) : Statement (.opLgenc e) := fun _ _ e => nomatch e

theorem opBsapply (e : Site) : Statement (.opBsapply e) := fun _ _ e => nomatch e

theorem opBsfind (e : Site) : Statement (.opBsfind e) := fun _ _ e => nomatch e

theorem opBshdr (e : Site) : Statement (.opBshdr e) := fun _ _ e => nomatch e

theorem opBsstrip (e : Site) : Statement (.opBsstrip e) := fun _ _ e => nomatch e

theorem opAmaxr (e : Site) : Statement (.opAmaxr e) := fun _ _ e => nomatch e

theorem opCvtfi (e : Site) : Statement (.opCvtfi e) := fun _ _ e => nomatch e

theorem opCvtif (e : Site) : Statement (.opCvtif e) := fun _ _ e => nomatch e

theorem opCvtfr (e : Site) : Statement (.opCvtfr e) := fun _ _ e => nomatch e

theorem opCvtsat (e : Site) : Statement (.opCvtsat e) := fun _ _ e => nomatch e

theorem opLfld (e : Site) : Statement (.opLfld e) := fun _ _ e => nomatch e

theorem opLfst (e : Site) : Statement (.opLfst e) := fun _ _ e => nomatch e

theorem opLfldi (e : Site) : Statement (.opLfldi e) := fun _ _ e => nomatch e

theorem opLfsti (e : Site) : Statement (.opLfsti e) := fun _ _ e => nomatch e

theorem opPerm (e : Site) : Statement (.opPerm e) := fun _ _ e => nomatch e

theorem opPermi (e : Site) : Statement (.opPermi e) := fun _ _ e => nomatch e

theorem opBcast (e : Site) : Statement (.opBcast e) := fun _ _ e => nomatch e

theorem opLsum (e : Site) : Statement (.opLsum e) := fun _ _ e => nomatch e

theorem opSteer (e : Site) : Statement (.opSteer e) := fun _ _ e => nomatch e

theorem opMergeOrd (e : Site) : Statement (.opMergeOrd e) := fun _ _ e => nomatch e

theorem opMergeArr (e : Site) : Statement (.opMergeArr e) := fun _ _ e => nomatch e

theorem opCarry (e : Site) : Statement (.opCarry e) := fun _ _ e => nomatch e

theorem opJoin (e : Site) : Statement (.opJoin e) := fun _ _ e => nomatch e

theorem opGate (e : Site) : Statement (.opGate e) := fun _ _ e => nomatch e

theorem opSink (e : Site) : Statement (.opSink e) := fun _ _ e => nomatch e

theorem opCtok (e : Site) : Statement (.opCtok e) := fun _ _ e => nomatch e

theorem opConst (e : Site) : Statement (.opConst e) := fun _ _ e => nomatch e

theorem opIota (e : Site) : Statement (.opIota e) := fun _ _ e => nomatch e

theorem opVld (e : Site) : Statement (.opVld e) := fun _ _ e => nomatch e

theorem opVst (e : Site) : Statement (.opVst e) := fun _ _ e => nomatch e

theorem opMemnop (e : Site) : Statement (.opMemnop e) := fun _ _ e => nomatch e

theorem opLdfe (e : Site) : Statement (.opLdfe e) := fun _ _ e => nomatch e

theorem opVldx (e : Site) : Statement (.opVldx e) := fun _ _ e => nomatch e

theorem opVstx (e : Site) : Statement (.opVstx e) := fun _ _ e => nomatch e

theorem opApst (e : Site) : Statement (.opApst e) := fun _ _ e => nomatch e

theorem opFence (e : Site) : Statement (.opFence e) := fun _ _ e => nomatch e

theorem opMonwait (e : Site) : Statement (.opMonwait e) := fun _ _ e => nomatch e

theorem opRedFx (e : Site) : Statement (.opRedFx e) := fun _ _ e => nomatch e

theorem opAmoAdd (e : Site) : Statement (.opAmoAdd e) := fun _ _ e => nomatch e

theorem opAmoAnd (e : Site) : Statement (.opAmoAnd e) := fun _ _ e => nomatch e

theorem opAmoOr (e : Site) : Statement (.opAmoOr e) := fun _ _ e => nomatch e

theorem opAmoXor (e : Site) : Statement (.opAmoXor e) := fun _ _ e => nomatch e

theorem opAmoMin (e : Site) : Statement (.opAmoMin e) := fun _ _ e => nomatch e

theorem opAmoMax (e : Site) : Statement (.opAmoMax e) := fun _ _ e => nomatch e

theorem opAmoMinu (e : Site) : Statement (.opAmoMinu e) := fun _ _ e => nomatch e

theorem opAmoMaxu (e : Site) : Statement (.opAmoMaxu e) := fun _ _ e => nomatch e

theorem opAmoSwap (e : Site) : Statement (.opAmoSwap e) := fun _ _ e => nomatch e

theorem opAmoCas (e : Site) : Statement (.opAmoCas e) := fun _ _ e => nomatch e

theorem opAmoFadd (e : Site) : Statement (.opAmoFadd e) := fun _ _ e => nomatch e

theorem opVote3 (e : Site) : Statement (.opVote3 e) := fun _ _ e => nomatch e

theorem opCsumRow (e : Site) : Statement (.opCsumRow e) := fun _ _ e => nomatch e

theorem opCsumCol (e : Site) : Statement (.opCsumCol e) := fun _ _ e => nomatch e

theorem opCsumChk (e : Site) : Statement (.opCsumChk e) := fun _ _ e => nomatch e

theorem opEmit (e : Site) : Statement (.opEmit e) := fun _ _ e => nomatch e

theorem opTbread (e : Site) : Statement (.opTbread e) := fun _ _ e => nomatch e

theorem opChkr (e : Site) : Statement (.opChkr e) := fun _ _ e => nomatch e

theorem emitAck (e : Site) : Statement (.emitAck e) := fun _ _ e => nomatch e

theorem waveIssue (n : InstId) : Statement (.waveIssue n) := fun _ _ e => nomatch e

theorem blockCommit (n : InstId) : Statement (.blockCommit n) := fun _ _ e => nomatch e

theorem monwaitTimeout (n : InstId) : Statement (.monwaitTimeout n) := fun _ _ e => nomatch e

theorem faultedUnitEnd (u : UnitId) : Statement (.faultedUnitEnd u) := fun _ _ e => nomatch e

theorem snop (iss : Issuer) (c : Cmd128) : Statement (.snop iss c) := fun _ _ e => nomatch e

theorem sync (iss : Issuer) (c : Cmd128) : Statement (.sync iss c) := fun _ _ e => nomatch e

theorem syncWrite (n : OpId) : Statement (.syncWrite n) := fun _ _ e => nomatch e

theorem fxregion (iss : Issuer) (c : Cmd128) : Statement (.fxregion iss c) := fun _ _ e => nomatch e

theorem aprLoad (iss : Issuer) (c : Cmd128) : Statement (.aprLoad iss c) := fun _ _ e => nomatch e

theorem aprStore (iss : Issuer) (c : Cmd128) : Statement (.aprStore iss c) := fun _ _ e => nomatch e

theorem aprDim (iss : Issuer) (c : Cmd128) : Statement (.aprDim iss c) := fun _ _ e => nomatch e

theorem aprPad (iss : Issuer) (c : Cmd128) : Statement (.aprPad iss c) := fun _ _ e => nomatch e

theorem aprEnd (iss : Issuer) (c : Cmd128) : Statement (.aprEnd iss c) := fun _ _ e => nomatch e

theorem sheaveRecordStart (k : StreamId) : Statement (.sheaveRecordStart k) := fun _ _ e => nomatch e

theorem sheaveLoadEmit (k : StreamId) : Statement (.sheaveLoadEmit k) := fun _ _ e => nomatch e

theorem sheaveStoreFill (k : StreamId) : Statement (.sheaveStoreFill k) := fun _ _ e => nomatch e

theorem cptDef (iss : Issuer) (c : Cmd128) : Statement (.cptDef iss c) := fun _ _ e => nomatch e

theorem cptDim (iss : Issuer) (c : Cmd128) : Statement (.cptDim iss c) := fun _ _ e => nomatch e

theorem cptGo (iss : Issuer) (c : Cmd128) : Statement (.cptGo iss c) := fun _ _ e => nomatch e

theorem cptCancel (iss : Issuer) (c : Cmd128) : Statement (.cptCancel iss c) := fun _ _ e => nomatch e

theorem mcPermit (iss : Issuer) (c : Cmd128) : Statement (.mcPermit iss c) := fun _ _ e => nomatch e

theorem permitPortToken (tp : Tp) (port : Nat) : Statement (.permitPortToken tp port) := fun _ _ e => nomatch e

theorem bteLanding (k : ChanId) (n : Nat) : Statement (.bteLanding k n) := fun _ _ e => nomatch e

theorem gathRow (iss : Issuer) (c : Cmd128) : Statement (.gathRow iss c) := fun _ _ e => nomatch e

theorem gathRed (iss : Issuer) (c : Cmd128) : Statement (.gathRed iss c) := fun _ _ e => nomatch e

theorem gathIdxList (iss : Issuer) (c : Cmd128) : Statement (.gathIdxList iss c) := fun _ _ e => nomatch e

theorem gathIdxBag (iss : Issuer) (c : Cmd128) : Statement (.gathIdxBag iss c) := fun _ _ e => nomatch e

theorem gathChainBind (iss : Issuer) (c : Cmd128) : Statement (.gathChainBind iss c) := fun _ _ e => nomatch e

theorem gathChainUnbind (iss : Issuer) (c : Cmd128) : Statement (.gathChainUnbind iss c) := fun _ _ e => nomatch e

theorem gathTail (iss : Issuer) (c : Cmd128) : Statement (.gathTail iss c) := fun _ _ e => nomatch e

theorem greRow (n : OpId) (j : Nat) : Statement (.greRow n j) := fun _ _ e => nomatch e

theorem qntBlk (iss : Issuer) (c : Cmd128) : Statement (.qntBlk iss c) := fun _ _ e => nomatch e

theorem qntDq (iss : Issuer) (c : Cmd128) : Statement (.qntDq iss c) := fun _ _ e => nomatch e

theorem qntChainBind (iss : Issuer) (c : Cmd128) : Statement (.qntChainBind iss c) := fun _ _ e => nomatch e

theorem qntChainUnbind (iss : Issuer) (c : Cmd128) : Statement (.qntChainUnbind iss c) := fun _ _ e => nomatch e

theorem qntTail (iss : Issuer) (c : Cmd128) : Statement (.qntTail iss c) := fun _ _ e => nomatch e

theorem qeBlock (n : OpId) : Statement (.qeBlock n) := fun _ _ e => nomatch e

theorem mxtask (iss : Issuer) (c : Cmd128) : Statement (.mxtask iss c) := fun _ _ e => nomatch e

theorem mxqSetBind (iss : Issuer) (c : Cmd128) : Statement (.mxqSetBind iss c) := fun _ _ e => nomatch e

theorem mxqSetUnbind (iss : Issuer) (c : Cmd128) : Statement (.mxqSetUnbind iss c) := fun _ _ e => nomatch e

theorem mxqSetTail (iss : Issuer) (c : Cmd128) : Statement (.mxqSetTail iss c) := fun _ _ e => nomatch e

theorem ldstat (iss : Issuer) (c : Cmd128) : Statement (.ldstat iss c) := fun _ _ e => nomatch e

theorem ldstatComplete (die mxe : Nat) : Statement (.ldstatComplete die mxe) := fun _ _ e => nomatch e

theorem mxswap (iss : Issuer) (c : Cmd128) : Statement (.mxswap iss c) := fun _ _ e => nomatch e

theorem mxswapExchange (die mxe : Nat) : Statement (.mxswapExchange die mxe) := fun _ _ e => nomatch e

theorem mxeTaskStart (n : OpId) (mxe : Nat) : Statement (.mxeTaskStart n mxe) := fun _ _ e => nomatch e

theorem mxeTaskEnd (n : OpId) : Statement (.mxeTaskEnd n) := fun _ _ e => nomatch e

theorem nmcSgd (iss : Issuer) (c : Cmd128) : Statement (.nmcSgd iss c) := fun _ _ e => nomatch e

theorem nmcDecay (iss : Issuer) (c : Cmd128) : Statement (.nmcDecay iss c) := fun _ _ e => nomatch e

theorem nmcRed (iss : Issuer) (c : Cmd128) : Statement (.nmcRed iss c) := fun _ _ e => nomatch e

theorem nmcChainBind (iss : Issuer) (c : Cmd128) : Statement (.nmcChainBind iss c) := fun _ _ e => nomatch e

theorem nmcChainUnbind (iss : Issuer) (c : Cmd128) : Statement (.nmcChainUnbind iss c) := fun _ _ e => nomatch e

theorem nmcTail (iss : Issuer) (c : Cmd128) : Statement (.nmcTail iss c) := fun _ _ e => nomatch e

theorem nmcElementUpdate (n : OpId) (i : Nat) : Statement (.nmcElementUpdate n i) := fun _ _ e => nomatch e

theorem deadSet (iss : Issuer) (c : Cmd128) : Statement (.deadSet iss c) := fun _ _ e => nomatch e

theorem deadClr (iss : Issuer) (c : Cmd128) : Statement (.deadClr iss c) := fun _ _ e => nomatch e

theorem emitJnl (iss : Issuer) (c : Cmd128) : Statement (.emitJnl iss c) := fun _ _ e => nomatch e

theorem emitSeq (iss : Issuer) (c : Cmd128) : Statement (.emitSeq iss c) := fun _ _ e => nomatch e

theorem chainTailPoll (k : ChainId) : Statement (.chainTailPoll k) := fun _ _ e => nomatch e

theorem chainDoorbell (k : ChainId) : Statement (.chainDoorbell k) := fun _ _ e => nomatch e

theorem chainEntryStart (k : ChainId) : Statement (.chainEntryStart k) := fun _ _ e => nomatch e

theorem chainEntryFinish (n : OpId) : Statement (.chainEntryFinish n) := fun _ _ e => nomatch e

theorem engineOpComplete (n : OpId) : Statement (.engineOpComplete n) := fun _ _ e => nomatch e

theorem hostBar2Write (off : Nat) (bytes : List Byte) : Statement (.hostBar2Write off bytes) := fun _ _ e => nomatch e

theorem hostBar2Read (off len : Nat) : Statement (.hostBar2Read off len) := fun _ _ e => nomatch e

theorem peerBar2Write (off : Nat) (bytes : List Byte) (relaxed : Bool) : Statement (.peerBar2Write off bytes relaxed) := fun _ _ e => nomatch e

theorem hostAtomicop (off size : Nat) (op : PcieAtomic) (opnd cmp : Nat) : Statement (.hostAtomicop off size op opnd cmp) := fun _ _ e => nomatch e

theorem registerWrite (f : PcieFn) (off : Nat) (val : Word) : Statement (.registerWrite f off val) := fun _ _ e => nomatch e

theorem drst (val : Word) : Statement (.drst val) := fun _ _ e => nomatch e

theorem perst : Statement (.perst) := fun _ _ e => nomatch e

theorem pfFlr : Statement (.pfFlr) := fun _ _ e => nomatch e

theorem vfFlr (vf : Nat) : Statement (.vfFlr vf) := fun _ _ e => nomatch e

theorem standbyPowerUp : Statement (.standbyPowerUp) := fun _ _ e => nomatch e

theorem mbdb (f : PcieFn) : Statement (.mbdb f) := fun _ _ e => nomatch e

theorem qcreate (f : PcieFn) : Statement (.qcreate f) := fun _ _ e => nomatch e

theorem qdestroy (f : PcieFn) : Statement (.qdestroy f) := fun _ _ e => nomatch e

theorem jobopen (f : PcieFn) : Statement (.jobopen f) := fun _ _ e => nomatch e

theorem jobclose (f : PcieFn) : Statement (.jobclose f) := fun _ _ e => nomatch e

theorem phasebnd (f : PcieFn) : Statement (.phasebnd f) := fun _ _ e => nomatch e

theorem grant (f : PcieFn) : Statement (.grant f) := fun _ _ e => nomatch e

theorem revoke (f : PcieFn) : Statement (.revoke f) := fun _ _ e => nomatch e

theorem ctmode (f : PcieFn) : Statement (.ctmode f) := fun _ _ e => nomatch e

theorem ctmodeComplete (stack : Nat) : Statement (.ctmodeComplete stack) := fun _ _ e => nomatch e

theorem share (f : PcieFn) : Statement (.share f) := fun _ _ e => nomatch e

theorem resync (f : PcieFn) : Statement (.resync f) := fun _ _ e => nomatch e

theorem fwupdFirmware (f : PcieFn) : Statement (.fwupdFirmware f) := fun _ _ e => nomatch e

theorem fwupdFabricOut (f : PcieFn) : Statement (.fwupdFabricOut f) := fun _ _ e => nomatch e

theorem fwupdFabricIn (f : PcieFn) : Statement (.fwupdFabricIn f) := fun _ _ e => nomatch e

theorem fwupdSailOut (f : PcieFn) : Statement (.fwupdSailOut f) := fun _ _ e => nomatch e

theorem fwupdSailIn (f : PcieFn) : Statement (.fwupdSailIn f) := fun _ _ e => nomatch e

theorem fwupdLinkOut (f : PcieFn) : Statement (.fwupdLinkOut f) := fun _ _ e => nomatch e

theorem fwupdLinkIn (f : PcieFn) : Statement (.fwupdLinkIn f) := fun _ _ e => nomatch e

theorem fwupdPowerClass (f : PcieFn) : Statement (.fwupdPowerClass f) := fun _ _ e => nomatch e

theorem getVersion : Statement (.getVersion) := fun _ _ e => nomatch e

theorem getCapabilities : Statement (.getCapabilities) := fun _ _ e => nomatch e

theorem negotiateAlgorithms (sm2 sm3 : Bool) : Statement (.negotiateAlgorithms sm2 sm3) := fun _ _ e => nomatch e

theorem getDigests : Statement (.getDigests) := fun _ _ e => nomatch e

theorem getCertificate (slot off len : Nat) : Statement (.getCertificate slot off len) := fun _ _ e => nomatch e

theorem challenge (slot : Nat) (nonce : List Byte) : Statement (.challenge slot nonce) := fun _ _ e => nomatch e

theorem getMeasurements (index : Nat) : Statement (.getMeasurements index) := fun _ _ e => nomatch e

theorem atsInvalidation (asid : BitVec 12) (va len : Nat) : Statement (.atsInvalidation asid va len) := fun _ _ e => nomatch e

theorem notify (k : QueueId) (val : Word) : Statement (.notify k val) := fun _ _ e => nomatch e

theorem packetAccept (k : QueueId) : Statement (.packetAccept k) := fun _ _ e => nomatch e

theorem cancel (k : QueueId) (handle : Word) : Statement (.cancel k handle) := fun _ _ e => nomatch e

theorem lqry (k : QueueId) (handle : Word) : Statement (.lqry k handle) := fun _ _ e => nomatch e

theorem bindRecord (die : Nat) (rec : Word) : Statement (.bindRecord die rec) := fun _ _ e => nomatch e

theorem unitComplete (u : UnitId) : Statement (.unitComplete u) := fun _ _ e => nomatch e

theorem preemptRequest (u : UnitId) (deadline : Nat) : Statement (.preemptRequest u deadline) := fun _ _ e => nomatch e

theorem preemptDeadline (u : UnitId) : Statement (.preemptDeadline u) := fun _ _ e => nomatch e

theorem unitSaveComplete (u : UnitId) : Statement (.unitSaveComplete u) := fun _ _ e => nomatch e

theorem unitRestore (u : UnitId) (tp : Tp) : Statement (.unitRestore u tp) := fun _ _ e => nomatch e

theorem frameEntryEnd (die : Nat) : Statement (.frameEntryEnd die) := fun _ _ e => nomatch e

theorem gangReadySend (die : Nat) : Statement (.gangReadySend die) := fun _ _ e => nomatch e

theorem gangReadyReceive (die : Nat) (dev : Nat) : Statement (.gangReadyReceive die dev) := fun _ _ e => nomatch e

theorem gangGraceExpiry (die : Nat) : Statement (.gangGraceExpiry die) := fun _ _ e => nomatch e

theorem gangGoReceive (die : Nat) : Statement (.gangGoReceive die) := fun _ _ e => nomatch e

theorem gangSkipReceive (die : Nat) : Statement (.gangSkipReceive die) := fun _ _ e => nomatch e

theorem gangDecisionTimeout (die : Nat) : Statement (.gangDecisionTimeout die) := fun _ _ e => nomatch e

theorem wdcfgWrite (k : QueueId) (val : Word) : Statement (.wdcfgWrite k val) := fun _ _ e => nomatch e

theorem wdctlKick (k : QueueId) : Statement (.wdctlKick k) := fun _ _ e => nomatch e

theorem wdctlPartitionReset (k : QueueId) : Statement (.wdctlPartitionReset k) := fun _ _ e => nomatch e

theorem watchdogExpiry (k : QueueId) : Statement (.watchdogExpiry k) := fun _ _ e => nomatch e

theorem partitionResetDone (k : QueueId) : Statement (.partitionResetDone k) := fun _ _ e => nomatch e

theorem xlatRewalk (w : Withheld) : Statement (.xlatRewalk w) := fun _ _ e => nomatch e

theorem ahaltWrite (die : Nat) (val : Word) : Statement (.ahaltWrite die val) := fun _ _ e => nomatch e

theorem bperExpiry : Statement (.bperExpiry) := fun _ _ e => nomatch e

theorem boundaryStart : Statement (.boundaryStart) := fun _ _ e => nomatch e

theorem boundaryInstant : Statement (.boundaryInstant) := fun _ _ e => nomatch e

theorem fullCheckpointDone : Statement (.fullCheckpointDone) := fun _ _ e => nomatch e

theorem rollback (dpa : Nat) : Statement (.rollback dpa) := fun _ _ e => nomatch e

theorem scrub (dpa : Nat) : Statement (.scrub dpa) := fun _ _ e => nomatch e

theorem elementReplay (e : Site) (copy : Nat) : Statement (.elementReplay e copy) := fun _ _ e => nomatch e

theorem fatalError (cause : BitVec 16) (val : Word) : Statement (.fatalError cause val) := fun _ _ e => nomatch e

theorem thermalLimit (die : Nat) : Statement (.thermalLimit die) := fun _ _ e => nomatch e

theorem thermalTrip (die : Nat) (val : Word) : Statement (.thermalTrip die val) := fun _ _ e => nomatch e

theorem flitCrcFail (link : Nat) : Statement (.flitCrcFail link) := fun _ _ e => nomatch e

theorem linkTrainingLoss (link : Nat) : Statement (.linkTrainingLoss link) := fun _ _ e => nomatch e

theorem lnkctlRateWrite (link : Nat) (rate : BitVec 3) : Statement (.lnkctlRateWrite link rate) := fun _ _ e => nomatch e

theorem lnkctlRetrain (link : Nat) : Statement (.lnkctlRetrain link) := fun _ _ e => nomatch e

theorem linkRetrainDone (link : Nat) (o : TrainOutcome) : Statement (.linkRetrainDone link o) := fun _ _ e => nomatch e

theorem halyardFrameCrcFail (port : Nat) : Statement (.halyardFrameCrcFail port) := fun _ _ e => nomatch e

theorem halyardDown (port : Nat) : Statement (.halyardDown port) := fun _ _ e => nomatch e

theorem journalLostExpiry (die j : Nat) : Statement (.journalLostExpiry die j) := fun _ _ e => nomatch e

theorem journalEntryReceive (w0 w1 w2 w3 : Word) : Statement (.journalEntryReceive w0 w1 w2 w3) := fun _ _ e => nomatch e

theorem journalEndRecord (gseq : BitVec 32) (lastn : BitVec 40) : Statement (.journalEndRecord gseq lastn) := fun _ _ e => nomatch e

theorem journalTruncate (gseq : BitVec 32) (n : BitVec 40) : Statement (.journalTruncate gseq n) := fun _ _ e => nomatch e

theorem illegalInstruction (w : BitVec 32) : Statement (.illegalInstruction w) := fun _ _ e => nomatch e

theorem journalAckReceive (die j : Nat) (n : BitVec 40) (poison : Bool) : Statement (.journalAckReceive die j n poison) := fun _ _ e => nomatch e

theorem halyardRemoteAccess (port : Nat) (a : RemoteAccess) : Statement (.halyardRemoteAccess port a) := fun _ _ e => nomatch e

theorem doeDiscovery (index : Nat) : Statement (.doeDiscovery index) := fun _ _ e => nomatch e

theorem mxeResidueFail (die mxe : Nat) : Statement (.mxeResidueFail die mxe) := fun _ _ e => nomatch e

theorem thermalLimitEnd (die : Nat) : Statement (.thermalLimitEnd die) := fun _ _ e => nomatch e

end RoundTrip

end Sys2Proof.Laws
end

