-- ==== Sys2Proof/Laws/State.lean ====
section
/-! SUPPORT. One lemma per field per update of the state and of a unit's sequencer, so that no later proof unfolds a record update. -/

set_option Elab.async false

namespace Sys2Proof.Machine

/-! ## putUnit -/

@[simp] theorem putUnit_mem (s : State) (u : UnitId) (w : WorkUnit) : (putUnit s u w).mem = s.mem := rfl
@[simp] theorem putUnit_full (s : State) (u : UnitId) (w : WorkUnit) : (putUnit s u w).full = s.full := rfl
@[simp] theorem putUnit_ctMode (s : State) (u : UnitId) (w : WorkUnit) : (putUnit s u w).ctMode = s.ctMode := rfl
@[simp] theorem putUnit_ctBusy (s : State) (u : UnitId) (w : WorkUnit) : (putUnit s u w).ctBusy = s.ctBusy := rfl
@[simp] theorem putUnit_wins (s : State) (u : UnitId) (w : WorkUnit) : (putUnit s u w).wins = s.wins := rfl
@[simp] theorem putUnit_fxregs (s : State) (u : UnitId) (w : WorkUnit) : (putUnit s u w).fxregs = s.fxregs := rfl
@[simp] theorem putUnit_lanes (s : State) (u : UnitId) (w : WorkUnit) : (putUnit s u w).lanes = s.lanes := rfl
@[simp] theorem putUnit_dead (s : State) (u : UnitId) (w : WorkUnit) : (putUnit s u w).dead = s.dead := rfl
@[simp] theorem putUnit_tps (s : State) (u : UnitId) (w : WorkUnit) : (putUnit s u w).tps = s.tps := rfl
@[simp] theorem putUnit_images (s : State) (u : UnitId) (w : WorkUnit) : (putUnit s u w).images = s.images := rfl
@[simp] theorem putUnit_insts (s : State) (u : UnitId) (w : WorkUnit) : (putUnit s u w).insts = s.insts := rfl
@[simp] theorem putUnit_frames (s : State) (u : UnitId) (w : WorkUnit) : (putUnit s u w).frames = s.frames := rfl
@[simp] theorem putUnit_ahalt (s : State) (u : UnitId) (w : WorkUnit) : (putUnit s u w).ahalt = s.ahalt := rfl
@[simp] theorem putUnit_units (s : State) (u : UnitId) (w : WorkUnit) : (putUnit s u w).units = kput s.units u w := rfl
@[simp] theorem putUnit_launches (s : State) (u : UnitId) (w : WorkUnit) : (putUnit s u w).launches = s.launches := rfl
@[simp] theorem putUnit_jobs (s : State) (u : UnitId) (w : WorkUnit) : (putUnit s u w).jobs = s.jobs := rfl
@[simp] theorem putUnit_nodes (s : State) (u : UnitId) (w : WorkUnit) : (putUnit s u w).nodes = s.nodes := rfl
@[simp] theorem putUnit_slots (s : State) (u : UnitId) (w : WorkUnit) : (putUnit s u w).slots = s.slots := rfl
@[simp] theorem putUnit_queues (s : State) (u : UnitId) (w : WorkUnit) : (putUnit s u w).queues = s.queues := rfl
@[simp] theorem putUnit_roots (s : State) (u : UnitId) (w : WorkUnit) : (putUnit s u w).roots = s.roots := rfl
@[simp] theorem putUnit_spills (s : State) (u : UnitId) (w : WorkUnit) : (putUnit s u w).spills = s.spills := rfl
@[simp] theorem putUnit_saves (s : State) (u : UnitId) (w : WorkUnit) : (putUnit s u w).saves = s.saves := rfl
@[simp] theorem putUnit_jibs (s : State) (u : UnitId) (w : WorkUnit) : (putUnit s u w).jibs = s.jibs := rfl
@[simp] theorem putUnit_acceptRr (s : State) (u : UnitId) (w : WorkUnit) : (putUnit s u w).acceptRr = s.acceptRr := rfl
@[simp] theorem putUnit_bindRr (s : State) (u : UnitId) (w : WorkUnit) : (putUnit s u w).bindRr = s.bindRr := rfl
@[simp] theorem putUnit_laneJobs (s : State) (u : UnitId) (w : WorkUnit) : (putUnit s u w).laneJobs = s.laneJobs := rfl
@[simp] theorem putUnit_owed (s : State) (u : UnitId) (w : WorkUnit) : (putUnit s u w).owed = s.owed := rfl
@[simp] theorem putUnit_lostLines (s : State) (u : UnitId) (w : WorkUnit) : (putUnit s u w).lostLines = s.lostLines := rfl
@[simp] theorem putUnit_shares (s : State) (u : UnitId) (w : WorkUnit) : (putUnit s u w).shares = s.shares := rfl
@[simp] theorem putUnit_ops (s : State) (u : UnitId) (w : WorkUnit) : (putUnit s u w).ops = s.ops := rfl
@[simp] theorem putUnit_streams (s : State) (u : UnitId) (w : WorkUnit) : (putUnit s u w).streams = s.streams := rfl
@[simp] theorem putUnit_tmpls (s : State) (u : UnitId) (w : WorkUnit) : (putUnit s u w).tmpls = s.tmpls := rfl
@[simp] theorem putUnit_chans (s : State) (u : UnitId) (w : WorkUnit) : (putUnit s u w).chans = s.chans := rfl
@[simp] theorem putUnit_chains (s : State) (u : UnitId) (w : WorkUnit) : (putUnit s u w).chains = s.chains := rfl
@[simp] theorem putUnit_idxs (s : State) (u : UnitId) (w : WorkUnit) : (putUnit s u w).idxs = s.idxs := rfl
@[simp] theorem putUnit_mxes (s : State) (u : UnitId) (w : WorkUnit) : (putUnit s u w).mxes = s.mxes := rfl
@[simp] theorem putUnit_spilled (s : State) (u : UnitId) (w : WorkUnit) : (putUnit s u w).spilled = s.spilled := rfl
@[simp] theorem putUnit_journals (s : State) (u : UnitId) (w : WorkUnit) : (putUnit s u w).journals = s.journals := rfl
@[simp] theorem putUnit_watches (s : State) (u : UnitId) (w : WorkUnit) : (putUnit s u w).watches = s.watches := rfl
@[simp] theorem putUnit_blob (s : State) (u : UnitId) (w : WorkUnit) : (putUnit s u w).blob = s.blob := rfl
@[simp] theorem putUnit_fwState (s : State) (u : UnitId) (w : WorkUnit) : (putUnit s u w).fwState = s.fwState := rfl
@[simp] theorem putUnit_fwver (s : State) (u : UnitId) (w : WorkUnit) : (putUnit s u w).fwver = s.fwver := rfl
@[simp] theorem putUnit_dump (s : State) (u : UnitId) (w : WorkUnit) : (putUnit s u w).dump = s.dump := rfl
@[simp] theorem putUnit_flash (s : State) (u : UnitId) (w : WorkUnit) : (putUnit s u w).flash = s.flash := rfl
@[simp] theorem putUnit_hostOffers (s : State) (u : UnitId) (w : WorkUnit) : (putUnit s u w).hostOffers = s.hostOffers := rfl
@[simp] theorem putUnit_winbase (s : State) (u : UnitId) (w : WorkUnit) : (putUnit s u w).winbase = s.winbase := rfl
@[simp] theorem putUnit_mboxes (s : State) (u : UnitId) (w : WorkUnit) : (putUnit s u w).mboxes = s.mboxes := rfl
@[simp] theorem putUnit_dies (s : State) (u : UnitId) (w : WorkUnit) : (putUnit s u w).dies = s.dies := rfl
@[simp] theorem putUnit_sailsOut (s : State) (u : UnitId) (w : WorkUnit) : (putUnit s u w).sailsOut = s.sailsOut := rfl
@[simp] theorem putUnit_service (s : State) (u : UnitId) (w : WorkUnit) : (putUnit s u w).service = s.service := rfl
@[simp] theorem putUnit_power (s : State) (u : UnitId) (w : WorkUnit) : (putUnit s u w).power = s.power := rfl
@[simp] theorem putUnit_hot (s : State) (u : UnitId) (w : WorkUnit) : (putUnit s u w).hot = s.hot := rfl
@[simp] theorem putUnit_links (s : State) (u : UnitId) (w : WorkUnit) : (putUnit s u w).links = s.links := rfl
@[simp] theorem putUnit_bnum (s : State) (u : UnitId) (w : WorkUnit) : (putUnit s u w).bnum = s.bnum := rfl
@[simp] theorem putUnit_bnd (s : State) (u : UnitId) (w : WorkUnit) : (putUnit s u w).bnd = s.bnd := rfl
@[simp] theorem putUnit_bperFrom (s : State) (u : UnitId) (w : WorkUnit) : (putUnit s u w).bperFrom = s.bperFrom := rfl
@[simp] theorem putUnit_bndFull (s : State) (u : UnitId) (w : WorkUnit) : (putUnit s u w).bndFull = s.bndFull := rfl
@[simp] theorem putUnit_snap (s : State) (u : UnitId) (w : WorkUnit) : (putUnit s u w).snap = s.snap := rfl
@[simp] theorem putUnit_undo (s : State) (u : UnitId) (w : WorkUnit) : (putUnit s u w).undo = s.undo := rfl
@[simp] theorem putUnit_log (s : State) (u : UnitId) (w : WorkUnit) : (putUnit s u w).log = s.log := rfl
@[simp] theorem putUnit_replay (s : State) (u : UnitId) (w : WorkUnit) : (putUnit s u w).replay = s.replay := rfl
@[simp] theorem putUnit_rollbacks (s : State) (u : UnitId) (w : WorkUnit) : (putUnit s u w).rollbacks = s.rollbacks := rfl
@[simp] theorem putUnit_counters (s : State) (u : UnitId) (w : WorkUnit) : (putUnit s u w).counters = s.counters := rfl
@[simp] theorem putUnit_health (s : State) (u : UnitId) (w : WorkUnit) : (putUnit s u w).health = s.health := rfl
@[simp] theorem putUnit_lost (s : State) (u : UnitId) (w : WorkUnit) : (putUnit s u w).lost = s.lost := rfl
@[simp] theorem putUnit_fc (s : State) (u : UnitId) (w : WorkUnit) : (putUnit s u w).fc = s.fc := rfl
@[simp] theorem putUnit_fcnum (s : State) (u : UnitId) (w : WorkUnit) : (putUnit s u w).fcnum = s.fcnum := rfl
@[simp] theorem putUnit_spdm (s : State) (u : UnitId) (w : WorkUnit) : (putUnit s u w).spdm = s.spdm := rfl
@[simp] theorem putUnit_doe (s : State) (u : UnitId) (w : WorkUnit) : (putUnit s u w).doe = s.doe := rfl
@[simp] theorem putUnit_barData (s : State) (u : UnitId) (w : WorkUnit) : (putUnit s u w).barData = s.barData := rfl
@[simp] theorem putUnit_msix (s : State) (u : UnitId) (w : WorkUnit) : (putUnit s u w).msix = s.msix := rfl
@[simp] theorem putUnit_halOut (s : State) (u : UnitId) (w : WorkUnit) : (putUnit s u w).halOut = s.halOut := rfl
@[simp] theorem putUnit_ats (s : State) (u : UnitId) (w : WorkUnit) : (putUnit s u w).ats = s.ats := rfl
@[simp] theorem putUnit_held (s : State) (u : UnitId) (w : WorkUnit) : (putUnit s u w).held = s.held := rfl
@[simp] theorem putUnit_mcReads (s : State) (u : UnitId) (w : WorkUnit) : (putUnit s u w).mcReads = s.mcReads := rfl
@[simp] theorem putUnit_uce (s : State) (u : UnitId) (w : WorkUnit) : (putUnit s u w).uce = s.uce := rfl
@[simp] theorem putUnit_extJobs (s : State) (u : UnitId) (w : WorkUnit) : (putUnit s u w).extJobs = s.extJobs := rfl
@[simp] theorem putUnit_flrs (s : State) (u : UnitId) (w : WorkUnit) : (putUnit s u w).flrs = s.flrs := rfl
@[simp] theorem putUnit_tb (s : State) (u : UnitId) (w : WorkUnit) : (putUnit s u w).tb = s.tb := rfl
@[simp] theorem putUnit_sysMem (s : State) (u : UnitId) (w : WorkUnit) : (putUnit s u w).sysMem = s.sysMem := rfl
@[simp] theorem putUnit_turns (s : State) (u : UnitId) (w : WorkUnit) : (putUnit s u w).turns = s.turns := rfl
@[simp] theorem putUnit_cur (s : State) (u : UnitId) (w : WorkUnit) : (putUnit s u w).cur = s.cur := rfl
@[simp] theorem putUnit_nextId (s : State) (u : UnitId) (w : WorkUnit) : (putUnit s u w).nextId = s.nextId := rfl
@[simp] theorem putUnit_freeCount (s : State) (u : UnitId) (w : WorkUnit) : (putUnit s u w).freeCount = s.freeCount := rfl

/-! ## modOp -/

@[simp] theorem modOp_mem (s : State) (n : Nat) (f : EngOp → EngOp) : (modOp s n f).mem = s.mem := rfl
@[simp] theorem modOp_full (s : State) (n : Nat) (f : EngOp → EngOp) : (modOp s n f).full = s.full := rfl
@[simp] theorem modOp_ctMode (s : State) (n : Nat) (f : EngOp → EngOp) : (modOp s n f).ctMode = s.ctMode := rfl
@[simp] theorem modOp_ctBusy (s : State) (n : Nat) (f : EngOp → EngOp) : (modOp s n f).ctBusy = s.ctBusy := rfl
@[simp] theorem modOp_wins (s : State) (n : Nat) (f : EngOp → EngOp) : (modOp s n f).wins = s.wins := rfl
@[simp] theorem modOp_fxregs (s : State) (n : Nat) (f : EngOp → EngOp) : (modOp s n f).fxregs = s.fxregs := rfl
@[simp] theorem modOp_lanes (s : State) (n : Nat) (f : EngOp → EngOp) : (modOp s n f).lanes = s.lanes := rfl
@[simp] theorem modOp_dead (s : State) (n : Nat) (f : EngOp → EngOp) : (modOp s n f).dead = s.dead := rfl
@[simp] theorem modOp_tps (s : State) (n : Nat) (f : EngOp → EngOp) : (modOp s n f).tps = s.tps := rfl
@[simp] theorem modOp_images (s : State) (n : Nat) (f : EngOp → EngOp) : (modOp s n f).images = s.images := rfl
@[simp] theorem modOp_insts (s : State) (n : Nat) (f : EngOp → EngOp) : (modOp s n f).insts = s.insts := rfl
@[simp] theorem modOp_frames (s : State) (n : Nat) (f : EngOp → EngOp) : (modOp s n f).frames = s.frames := rfl
@[simp] theorem modOp_ahalt (s : State) (n : Nat) (f : EngOp → EngOp) : (modOp s n f).ahalt = s.ahalt := rfl
@[simp] theorem modOp_units (s : State) (n : Nat) (f : EngOp → EngOp) : (modOp s n f).units = s.units := rfl
@[simp] theorem modOp_launches (s : State) (n : Nat) (f : EngOp → EngOp) : (modOp s n f).launches = s.launches := rfl
@[simp] theorem modOp_jobs (s : State) (n : Nat) (f : EngOp → EngOp) : (modOp s n f).jobs = s.jobs := rfl
@[simp] theorem modOp_nodes (s : State) (n : Nat) (f : EngOp → EngOp) : (modOp s n f).nodes = s.nodes := rfl
@[simp] theorem modOp_slots (s : State) (n : Nat) (f : EngOp → EngOp) : (modOp s n f).slots = s.slots := rfl
@[simp] theorem modOp_queues (s : State) (n : Nat) (f : EngOp → EngOp) : (modOp s n f).queues = s.queues := rfl
@[simp] theorem modOp_roots (s : State) (n : Nat) (f : EngOp → EngOp) : (modOp s n f).roots = s.roots := rfl
@[simp] theorem modOp_spills (s : State) (n : Nat) (f : EngOp → EngOp) : (modOp s n f).spills = s.spills := rfl
@[simp] theorem modOp_saves (s : State) (n : Nat) (f : EngOp → EngOp) : (modOp s n f).saves = s.saves := rfl
@[simp] theorem modOp_jibs (s : State) (n : Nat) (f : EngOp → EngOp) : (modOp s n f).jibs = s.jibs := rfl
@[simp] theorem modOp_acceptRr (s : State) (n : Nat) (f : EngOp → EngOp) : (modOp s n f).acceptRr = s.acceptRr := rfl
@[simp] theorem modOp_bindRr (s : State) (n : Nat) (f : EngOp → EngOp) : (modOp s n f).bindRr = s.bindRr := rfl
@[simp] theorem modOp_laneJobs (s : State) (n : Nat) (f : EngOp → EngOp) : (modOp s n f).laneJobs = s.laneJobs := rfl
@[simp] theorem modOp_owed (s : State) (n : Nat) (f : EngOp → EngOp) : (modOp s n f).owed = s.owed := rfl
@[simp] theorem modOp_lostLines (s : State) (n : Nat) (f : EngOp → EngOp) : (modOp s n f).lostLines = s.lostLines := rfl
@[simp] theorem modOp_shares (s : State) (n : Nat) (f : EngOp → EngOp) : (modOp s n f).shares = s.shares := rfl
@[simp] theorem modOp_ops (s : State) (n : Nat) (f : EngOp → EngOp) : (modOp s n f).ops = kmod s.ops n f := rfl
@[simp] theorem modOp_streams (s : State) (n : Nat) (f : EngOp → EngOp) : (modOp s n f).streams = s.streams := rfl
@[simp] theorem modOp_tmpls (s : State) (n : Nat) (f : EngOp → EngOp) : (modOp s n f).tmpls = s.tmpls := rfl
@[simp] theorem modOp_chans (s : State) (n : Nat) (f : EngOp → EngOp) : (modOp s n f).chans = s.chans := rfl
@[simp] theorem modOp_chains (s : State) (n : Nat) (f : EngOp → EngOp) : (modOp s n f).chains = s.chains := rfl
@[simp] theorem modOp_idxs (s : State) (n : Nat) (f : EngOp → EngOp) : (modOp s n f).idxs = s.idxs := rfl
@[simp] theorem modOp_mxes (s : State) (n : Nat) (f : EngOp → EngOp) : (modOp s n f).mxes = s.mxes := rfl
@[simp] theorem modOp_spilled (s : State) (n : Nat) (f : EngOp → EngOp) : (modOp s n f).spilled = s.spilled := rfl
@[simp] theorem modOp_journals (s : State) (n : Nat) (f : EngOp → EngOp) : (modOp s n f).journals = s.journals := rfl
@[simp] theorem modOp_watches (s : State) (n : Nat) (f : EngOp → EngOp) : (modOp s n f).watches = s.watches := rfl
@[simp] theorem modOp_blob (s : State) (n : Nat) (f : EngOp → EngOp) : (modOp s n f).blob = s.blob := rfl
@[simp] theorem modOp_fwState (s : State) (n : Nat) (f : EngOp → EngOp) : (modOp s n f).fwState = s.fwState := rfl
@[simp] theorem modOp_fwver (s : State) (n : Nat) (f : EngOp → EngOp) : (modOp s n f).fwver = s.fwver := rfl
@[simp] theorem modOp_dump (s : State) (n : Nat) (f : EngOp → EngOp) : (modOp s n f).dump = s.dump := rfl
@[simp] theorem modOp_flash (s : State) (n : Nat) (f : EngOp → EngOp) : (modOp s n f).flash = s.flash := rfl
@[simp] theorem modOp_hostOffers (s : State) (n : Nat) (f : EngOp → EngOp) : (modOp s n f).hostOffers = s.hostOffers := rfl
@[simp] theorem modOp_winbase (s : State) (n : Nat) (f : EngOp → EngOp) : (modOp s n f).winbase = s.winbase := rfl
@[simp] theorem modOp_mboxes (s : State) (n : Nat) (f : EngOp → EngOp) : (modOp s n f).mboxes = s.mboxes := rfl
@[simp] theorem modOp_dies (s : State) (n : Nat) (f : EngOp → EngOp) : (modOp s n f).dies = s.dies := rfl
@[simp] theorem modOp_sailsOut (s : State) (n : Nat) (f : EngOp → EngOp) : (modOp s n f).sailsOut = s.sailsOut := rfl
@[simp] theorem modOp_service (s : State) (n : Nat) (f : EngOp → EngOp) : (modOp s n f).service = s.service := rfl
@[simp] theorem modOp_power (s : State) (n : Nat) (f : EngOp → EngOp) : (modOp s n f).power = s.power := rfl
@[simp] theorem modOp_hot (s : State) (n : Nat) (f : EngOp → EngOp) : (modOp s n f).hot = s.hot := rfl
@[simp] theorem modOp_links (s : State) (n : Nat) (f : EngOp → EngOp) : (modOp s n f).links = s.links := rfl
@[simp] theorem modOp_bnum (s : State) (n : Nat) (f : EngOp → EngOp) : (modOp s n f).bnum = s.bnum := rfl
@[simp] theorem modOp_bnd (s : State) (n : Nat) (f : EngOp → EngOp) : (modOp s n f).bnd = s.bnd := rfl
@[simp] theorem modOp_bperFrom (s : State) (n : Nat) (f : EngOp → EngOp) : (modOp s n f).bperFrom = s.bperFrom := rfl
@[simp] theorem modOp_bndFull (s : State) (n : Nat) (f : EngOp → EngOp) : (modOp s n f).bndFull = s.bndFull := rfl
@[simp] theorem modOp_snap (s : State) (n : Nat) (f : EngOp → EngOp) : (modOp s n f).snap = s.snap := rfl
@[simp] theorem modOp_undo (s : State) (n : Nat) (f : EngOp → EngOp) : (modOp s n f).undo = s.undo := rfl
@[simp] theorem modOp_log (s : State) (n : Nat) (f : EngOp → EngOp) : (modOp s n f).log = s.log := rfl
@[simp] theorem modOp_replay (s : State) (n : Nat) (f : EngOp → EngOp) : (modOp s n f).replay = s.replay := rfl
@[simp] theorem modOp_rollbacks (s : State) (n : Nat) (f : EngOp → EngOp) : (modOp s n f).rollbacks = s.rollbacks := rfl
@[simp] theorem modOp_counters (s : State) (n : Nat) (f : EngOp → EngOp) : (modOp s n f).counters = s.counters := rfl
@[simp] theorem modOp_health (s : State) (n : Nat) (f : EngOp → EngOp) : (modOp s n f).health = s.health := rfl
@[simp] theorem modOp_lost (s : State) (n : Nat) (f : EngOp → EngOp) : (modOp s n f).lost = s.lost := rfl
@[simp] theorem modOp_fc (s : State) (n : Nat) (f : EngOp → EngOp) : (modOp s n f).fc = s.fc := rfl
@[simp] theorem modOp_fcnum (s : State) (n : Nat) (f : EngOp → EngOp) : (modOp s n f).fcnum = s.fcnum := rfl
@[simp] theorem modOp_spdm (s : State) (n : Nat) (f : EngOp → EngOp) : (modOp s n f).spdm = s.spdm := rfl
@[simp] theorem modOp_doe (s : State) (n : Nat) (f : EngOp → EngOp) : (modOp s n f).doe = s.doe := rfl
@[simp] theorem modOp_barData (s : State) (n : Nat) (f : EngOp → EngOp) : (modOp s n f).barData = s.barData := rfl
@[simp] theorem modOp_msix (s : State) (n : Nat) (f : EngOp → EngOp) : (modOp s n f).msix = s.msix := rfl
@[simp] theorem modOp_halOut (s : State) (n : Nat) (f : EngOp → EngOp) : (modOp s n f).halOut = s.halOut := rfl
@[simp] theorem modOp_ats (s : State) (n : Nat) (f : EngOp → EngOp) : (modOp s n f).ats = s.ats := rfl
@[simp] theorem modOp_held (s : State) (n : Nat) (f : EngOp → EngOp) : (modOp s n f).held = s.held := rfl
@[simp] theorem modOp_mcReads (s : State) (n : Nat) (f : EngOp → EngOp) : (modOp s n f).mcReads = s.mcReads := rfl
@[simp] theorem modOp_uce (s : State) (n : Nat) (f : EngOp → EngOp) : (modOp s n f).uce = s.uce := rfl
@[simp] theorem modOp_extJobs (s : State) (n : Nat) (f : EngOp → EngOp) : (modOp s n f).extJobs = s.extJobs := rfl
@[simp] theorem modOp_flrs (s : State) (n : Nat) (f : EngOp → EngOp) : (modOp s n f).flrs = s.flrs := rfl
@[simp] theorem modOp_tb (s : State) (n : Nat) (f : EngOp → EngOp) : (modOp s n f).tb = s.tb := rfl
@[simp] theorem modOp_sysMem (s : State) (n : Nat) (f : EngOp → EngOp) : (modOp s n f).sysMem = s.sysMem := rfl
@[simp] theorem modOp_turns (s : State) (n : Nat) (f : EngOp → EngOp) : (modOp s n f).turns = s.turns := rfl
@[simp] theorem modOp_cur (s : State) (n : Nat) (f : EngOp → EngOp) : (modOp s n f).cur = s.cur := rfl
@[simp] theorem modOp_nextId (s : State) (n : Nat) (f : EngOp → EngOp) : (modOp s n f).nextId = s.nextId := rfl
@[simp] theorem modOp_freeCount (s : State) (n : Nat) (f : EngOp → EngOp) : (modOp s n f).freeCount = s.freeCount := rfl

/-! ## putChan -/

@[simp] theorem putChan_mem (s : State) (die ch : Nat) (x : Chan) : (putChan s die ch x).mem = s.mem := rfl
@[simp] theorem putChan_full (s : State) (die ch : Nat) (x : Chan) : (putChan s die ch x).full = s.full := rfl
@[simp] theorem putChan_ctMode (s : State) (die ch : Nat) (x : Chan) : (putChan s die ch x).ctMode = s.ctMode := rfl
@[simp] theorem putChan_ctBusy (s : State) (die ch : Nat) (x : Chan) : (putChan s die ch x).ctBusy = s.ctBusy := rfl
@[simp] theorem putChan_wins (s : State) (die ch : Nat) (x : Chan) : (putChan s die ch x).wins = s.wins := rfl
@[simp] theorem putChan_fxregs (s : State) (die ch : Nat) (x : Chan) : (putChan s die ch x).fxregs = s.fxregs := rfl
@[simp] theorem putChan_lanes (s : State) (die ch : Nat) (x : Chan) : (putChan s die ch x).lanes = s.lanes := rfl
@[simp] theorem putChan_dead (s : State) (die ch : Nat) (x : Chan) : (putChan s die ch x).dead = s.dead := rfl
@[simp] theorem putChan_tps (s : State) (die ch : Nat) (x : Chan) : (putChan s die ch x).tps = s.tps := rfl
@[simp] theorem putChan_images (s : State) (die ch : Nat) (x : Chan) : (putChan s die ch x).images = s.images := rfl
@[simp] theorem putChan_insts (s : State) (die ch : Nat) (x : Chan) : (putChan s die ch x).insts = s.insts := rfl
@[simp] theorem putChan_frames (s : State) (die ch : Nat) (x : Chan) : (putChan s die ch x).frames = s.frames := rfl
@[simp] theorem putChan_ahalt (s : State) (die ch : Nat) (x : Chan) : (putChan s die ch x).ahalt = s.ahalt := rfl
@[simp] theorem putChan_units (s : State) (die ch : Nat) (x : Chan) : (putChan s die ch x).units = s.units := rfl
@[simp] theorem putChan_launches (s : State) (die ch : Nat) (x : Chan) : (putChan s die ch x).launches = s.launches := rfl
@[simp] theorem putChan_jobs (s : State) (die ch : Nat) (x : Chan) : (putChan s die ch x).jobs = s.jobs := rfl
@[simp] theorem putChan_nodes (s : State) (die ch : Nat) (x : Chan) : (putChan s die ch x).nodes = s.nodes := rfl
@[simp] theorem putChan_slots (s : State) (die ch : Nat) (x : Chan) : (putChan s die ch x).slots = s.slots := rfl
@[simp] theorem putChan_queues (s : State) (die ch : Nat) (x : Chan) : (putChan s die ch x).queues = s.queues := rfl
@[simp] theorem putChan_roots (s : State) (die ch : Nat) (x : Chan) : (putChan s die ch x).roots = s.roots := rfl
@[simp] theorem putChan_spills (s : State) (die ch : Nat) (x : Chan) : (putChan s die ch x).spills = s.spills := rfl
@[simp] theorem putChan_saves (s : State) (die ch : Nat) (x : Chan) : (putChan s die ch x).saves = s.saves := rfl
@[simp] theorem putChan_jibs (s : State) (die ch : Nat) (x : Chan) : (putChan s die ch x).jibs = s.jibs := rfl
@[simp] theorem putChan_acceptRr (s : State) (die ch : Nat) (x : Chan) : (putChan s die ch x).acceptRr = s.acceptRr := rfl
@[simp] theorem putChan_bindRr (s : State) (die ch : Nat) (x : Chan) : (putChan s die ch x).bindRr = s.bindRr := rfl
@[simp] theorem putChan_laneJobs (s : State) (die ch : Nat) (x : Chan) : (putChan s die ch x).laneJobs = s.laneJobs := rfl
@[simp] theorem putChan_owed (s : State) (die ch : Nat) (x : Chan) : (putChan s die ch x).owed = s.owed := rfl
@[simp] theorem putChan_lostLines (s : State) (die ch : Nat) (x : Chan) : (putChan s die ch x).lostLines = s.lostLines := rfl
@[simp] theorem putChan_shares (s : State) (die ch : Nat) (x : Chan) : (putChan s die ch x).shares = s.shares := rfl
@[simp] theorem putChan_ops (s : State) (die ch : Nat) (x : Chan) : (putChan s die ch x).ops = s.ops := rfl
@[simp] theorem putChan_streams (s : State) (die ch : Nat) (x : Chan) : (putChan s die ch x).streams = s.streams := rfl
@[simp] theorem putChan_tmpls (s : State) (die ch : Nat) (x : Chan) : (putChan s die ch x).tmpls = s.tmpls := rfl
@[simp] theorem putChan_chans (s : State) (die ch : Nat) (x : Chan) : (putChan s die ch x).chans = dset Chan.initial s.chans (chanKey die ch) x := rfl
@[simp] theorem putChan_chains (s : State) (die ch : Nat) (x : Chan) : (putChan s die ch x).chains = s.chains := rfl
@[simp] theorem putChan_idxs (s : State) (die ch : Nat) (x : Chan) : (putChan s die ch x).idxs = s.idxs := rfl
@[simp] theorem putChan_mxes (s : State) (die ch : Nat) (x : Chan) : (putChan s die ch x).mxes = s.mxes := rfl
@[simp] theorem putChan_spilled (s : State) (die ch : Nat) (x : Chan) : (putChan s die ch x).spilled = s.spilled := rfl
@[simp] theorem putChan_journals (s : State) (die ch : Nat) (x : Chan) : (putChan s die ch x).journals = s.journals := rfl
@[simp] theorem putChan_watches (s : State) (die ch : Nat) (x : Chan) : (putChan s die ch x).watches = s.watches := rfl
@[simp] theorem putChan_blob (s : State) (die ch : Nat) (x : Chan) : (putChan s die ch x).blob = s.blob := rfl
@[simp] theorem putChan_fwState (s : State) (die ch : Nat) (x : Chan) : (putChan s die ch x).fwState = s.fwState := rfl
@[simp] theorem putChan_fwver (s : State) (die ch : Nat) (x : Chan) : (putChan s die ch x).fwver = s.fwver := rfl
@[simp] theorem putChan_dump (s : State) (die ch : Nat) (x : Chan) : (putChan s die ch x).dump = s.dump := rfl
@[simp] theorem putChan_flash (s : State) (die ch : Nat) (x : Chan) : (putChan s die ch x).flash = s.flash := rfl
@[simp] theorem putChan_hostOffers (s : State) (die ch : Nat) (x : Chan) : (putChan s die ch x).hostOffers = s.hostOffers := rfl
@[simp] theorem putChan_winbase (s : State) (die ch : Nat) (x : Chan) : (putChan s die ch x).winbase = s.winbase := rfl
@[simp] theorem putChan_mboxes (s : State) (die ch : Nat) (x : Chan) : (putChan s die ch x).mboxes = s.mboxes := rfl
@[simp] theorem putChan_dies (s : State) (die ch : Nat) (x : Chan) : (putChan s die ch x).dies = s.dies := rfl
@[simp] theorem putChan_sailsOut (s : State) (die ch : Nat) (x : Chan) : (putChan s die ch x).sailsOut = s.sailsOut := rfl
@[simp] theorem putChan_service (s : State) (die ch : Nat) (x : Chan) : (putChan s die ch x).service = s.service := rfl
@[simp] theorem putChan_power (s : State) (die ch : Nat) (x : Chan) : (putChan s die ch x).power = s.power := rfl
@[simp] theorem putChan_hot (s : State) (die ch : Nat) (x : Chan) : (putChan s die ch x).hot = s.hot := rfl
@[simp] theorem putChan_links (s : State) (die ch : Nat) (x : Chan) : (putChan s die ch x).links = s.links := rfl
@[simp] theorem putChan_bnum (s : State) (die ch : Nat) (x : Chan) : (putChan s die ch x).bnum = s.bnum := rfl
@[simp] theorem putChan_bnd (s : State) (die ch : Nat) (x : Chan) : (putChan s die ch x).bnd = s.bnd := rfl
@[simp] theorem putChan_bperFrom (s : State) (die ch : Nat) (x : Chan) : (putChan s die ch x).bperFrom = s.bperFrom := rfl
@[simp] theorem putChan_bndFull (s : State) (die ch : Nat) (x : Chan) : (putChan s die ch x).bndFull = s.bndFull := rfl
@[simp] theorem putChan_snap (s : State) (die ch : Nat) (x : Chan) : (putChan s die ch x).snap = s.snap := rfl
@[simp] theorem putChan_undo (s : State) (die ch : Nat) (x : Chan) : (putChan s die ch x).undo = s.undo := rfl
@[simp] theorem putChan_log (s : State) (die ch : Nat) (x : Chan) : (putChan s die ch x).log = s.log := rfl
@[simp] theorem putChan_replay (s : State) (die ch : Nat) (x : Chan) : (putChan s die ch x).replay = s.replay := rfl
@[simp] theorem putChan_rollbacks (s : State) (die ch : Nat) (x : Chan) : (putChan s die ch x).rollbacks = s.rollbacks := rfl
@[simp] theorem putChan_counters (s : State) (die ch : Nat) (x : Chan) : (putChan s die ch x).counters = s.counters := rfl
@[simp] theorem putChan_health (s : State) (die ch : Nat) (x : Chan) : (putChan s die ch x).health = s.health := rfl
@[simp] theorem putChan_lost (s : State) (die ch : Nat) (x : Chan) : (putChan s die ch x).lost = s.lost := rfl
@[simp] theorem putChan_fc (s : State) (die ch : Nat) (x : Chan) : (putChan s die ch x).fc = s.fc := rfl
@[simp] theorem putChan_fcnum (s : State) (die ch : Nat) (x : Chan) : (putChan s die ch x).fcnum = s.fcnum := rfl
@[simp] theorem putChan_spdm (s : State) (die ch : Nat) (x : Chan) : (putChan s die ch x).spdm = s.spdm := rfl
@[simp] theorem putChan_doe (s : State) (die ch : Nat) (x : Chan) : (putChan s die ch x).doe = s.doe := rfl
@[simp] theorem putChan_barData (s : State) (die ch : Nat) (x : Chan) : (putChan s die ch x).barData = s.barData := rfl
@[simp] theorem putChan_msix (s : State) (die ch : Nat) (x : Chan) : (putChan s die ch x).msix = s.msix := rfl
@[simp] theorem putChan_halOut (s : State) (die ch : Nat) (x : Chan) : (putChan s die ch x).halOut = s.halOut := rfl
@[simp] theorem putChan_ats (s : State) (die ch : Nat) (x : Chan) : (putChan s die ch x).ats = s.ats := rfl
@[simp] theorem putChan_held (s : State) (die ch : Nat) (x : Chan) : (putChan s die ch x).held = s.held := rfl
@[simp] theorem putChan_mcReads (s : State) (die ch : Nat) (x : Chan) : (putChan s die ch x).mcReads = s.mcReads := rfl
@[simp] theorem putChan_uce (s : State) (die ch : Nat) (x : Chan) : (putChan s die ch x).uce = s.uce := rfl
@[simp] theorem putChan_extJobs (s : State) (die ch : Nat) (x : Chan) : (putChan s die ch x).extJobs = s.extJobs := rfl
@[simp] theorem putChan_flrs (s : State) (die ch : Nat) (x : Chan) : (putChan s die ch x).flrs = s.flrs := rfl
@[simp] theorem putChan_tb (s : State) (die ch : Nat) (x : Chan) : (putChan s die ch x).tb = s.tb := rfl
@[simp] theorem putChan_sysMem (s : State) (die ch : Nat) (x : Chan) : (putChan s die ch x).sysMem = s.sysMem := rfl
@[simp] theorem putChan_turns (s : State) (die ch : Nat) (x : Chan) : (putChan s die ch x).turns = s.turns := rfl
@[simp] theorem putChan_cur (s : State) (die ch : Nat) (x : Chan) : (putChan s die ch x).cur = s.cur := rfl
@[simp] theorem putChan_nextId (s : State) (die ch : Nat) (x : Chan) : (putChan s die ch x).nextId = s.nextId := rfl
@[simp] theorem putChan_freeCount (s : State) (die ch : Nat) (x : Chan) : (putChan s die ch x).freeCount = s.freeCount := rfl

/-! ## putLink -/

@[simp] theorem putLink_mem (s : State) (l : Nat) (x : Link) : (putLink s l x).mem = s.mem := rfl
@[simp] theorem putLink_full (s : State) (l : Nat) (x : Link) : (putLink s l x).full = s.full := rfl
@[simp] theorem putLink_ctMode (s : State) (l : Nat) (x : Link) : (putLink s l x).ctMode = s.ctMode := rfl
@[simp] theorem putLink_ctBusy (s : State) (l : Nat) (x : Link) : (putLink s l x).ctBusy = s.ctBusy := rfl
@[simp] theorem putLink_wins (s : State) (l : Nat) (x : Link) : (putLink s l x).wins = s.wins := rfl
@[simp] theorem putLink_fxregs (s : State) (l : Nat) (x : Link) : (putLink s l x).fxregs = s.fxregs := rfl
@[simp] theorem putLink_lanes (s : State) (l : Nat) (x : Link) : (putLink s l x).lanes = s.lanes := rfl
@[simp] theorem putLink_dead (s : State) (l : Nat) (x : Link) : (putLink s l x).dead = s.dead := rfl
@[simp] theorem putLink_tps (s : State) (l : Nat) (x : Link) : (putLink s l x).tps = s.tps := rfl
@[simp] theorem putLink_images (s : State) (l : Nat) (x : Link) : (putLink s l x).images = s.images := rfl
@[simp] theorem putLink_insts (s : State) (l : Nat) (x : Link) : (putLink s l x).insts = s.insts := rfl
@[simp] theorem putLink_frames (s : State) (l : Nat) (x : Link) : (putLink s l x).frames = s.frames := rfl
@[simp] theorem putLink_ahalt (s : State) (l : Nat) (x : Link) : (putLink s l x).ahalt = s.ahalt := rfl
@[simp] theorem putLink_units (s : State) (l : Nat) (x : Link) : (putLink s l x).units = s.units := rfl
@[simp] theorem putLink_launches (s : State) (l : Nat) (x : Link) : (putLink s l x).launches = s.launches := rfl
@[simp] theorem putLink_jobs (s : State) (l : Nat) (x : Link) : (putLink s l x).jobs = s.jobs := rfl
@[simp] theorem putLink_nodes (s : State) (l : Nat) (x : Link) : (putLink s l x).nodes = s.nodes := rfl
@[simp] theorem putLink_slots (s : State) (l : Nat) (x : Link) : (putLink s l x).slots = s.slots := rfl
@[simp] theorem putLink_queues (s : State) (l : Nat) (x : Link) : (putLink s l x).queues = s.queues := rfl
@[simp] theorem putLink_roots (s : State) (l : Nat) (x : Link) : (putLink s l x).roots = s.roots := rfl
@[simp] theorem putLink_spills (s : State) (l : Nat) (x : Link) : (putLink s l x).spills = s.spills := rfl
@[simp] theorem putLink_saves (s : State) (l : Nat) (x : Link) : (putLink s l x).saves = s.saves := rfl
@[simp] theorem putLink_jibs (s : State) (l : Nat) (x : Link) : (putLink s l x).jibs = s.jibs := rfl
@[simp] theorem putLink_acceptRr (s : State) (l : Nat) (x : Link) : (putLink s l x).acceptRr = s.acceptRr := rfl
@[simp] theorem putLink_bindRr (s : State) (l : Nat) (x : Link) : (putLink s l x).bindRr = s.bindRr := rfl
@[simp] theorem putLink_laneJobs (s : State) (l : Nat) (x : Link) : (putLink s l x).laneJobs = s.laneJobs := rfl
@[simp] theorem putLink_owed (s : State) (l : Nat) (x : Link) : (putLink s l x).owed = s.owed := rfl
@[simp] theorem putLink_lostLines (s : State) (l : Nat) (x : Link) : (putLink s l x).lostLines = s.lostLines := rfl
@[simp] theorem putLink_shares (s : State) (l : Nat) (x : Link) : (putLink s l x).shares = s.shares := rfl
@[simp] theorem putLink_ops (s : State) (l : Nat) (x : Link) : (putLink s l x).ops = s.ops := rfl
@[simp] theorem putLink_streams (s : State) (l : Nat) (x : Link) : (putLink s l x).streams = s.streams := rfl
@[simp] theorem putLink_tmpls (s : State) (l : Nat) (x : Link) : (putLink s l x).tmpls = s.tmpls := rfl
@[simp] theorem putLink_chans (s : State) (l : Nat) (x : Link) : (putLink s l x).chans = s.chans := rfl
@[simp] theorem putLink_chains (s : State) (l : Nat) (x : Link) : (putLink s l x).chains = s.chains := rfl
@[simp] theorem putLink_idxs (s : State) (l : Nat) (x : Link) : (putLink s l x).idxs = s.idxs := rfl
@[simp] theorem putLink_mxes (s : State) (l : Nat) (x : Link) : (putLink s l x).mxes = s.mxes := rfl
@[simp] theorem putLink_spilled (s : State) (l : Nat) (x : Link) : (putLink s l x).spilled = s.spilled := rfl
@[simp] theorem putLink_journals (s : State) (l : Nat) (x : Link) : (putLink s l x).journals = s.journals := rfl
@[simp] theorem putLink_watches (s : State) (l : Nat) (x : Link) : (putLink s l x).watches = s.watches := rfl
@[simp] theorem putLink_blob (s : State) (l : Nat) (x : Link) : (putLink s l x).blob = s.blob := rfl
@[simp] theorem putLink_fwState (s : State) (l : Nat) (x : Link) : (putLink s l x).fwState = s.fwState := rfl
@[simp] theorem putLink_fwver (s : State) (l : Nat) (x : Link) : (putLink s l x).fwver = s.fwver := rfl
@[simp] theorem putLink_dump (s : State) (l : Nat) (x : Link) : (putLink s l x).dump = s.dump := rfl
@[simp] theorem putLink_flash (s : State) (l : Nat) (x : Link) : (putLink s l x).flash = s.flash := rfl
@[simp] theorem putLink_hostOffers (s : State) (l : Nat) (x : Link) : (putLink s l x).hostOffers = s.hostOffers := rfl
@[simp] theorem putLink_winbase (s : State) (l : Nat) (x : Link) : (putLink s l x).winbase = s.winbase := rfl
@[simp] theorem putLink_mboxes (s : State) (l : Nat) (x : Link) : (putLink s l x).mboxes = s.mboxes := rfl
@[simp] theorem putLink_dies (s : State) (l : Nat) (x : Link) : (putLink s l x).dies = s.dies := rfl
@[simp] theorem putLink_sailsOut (s : State) (l : Nat) (x : Link) : (putLink s l x).sailsOut = s.sailsOut := rfl
@[simp] theorem putLink_service (s : State) (l : Nat) (x : Link) : (putLink s l x).service = s.service := rfl
@[simp] theorem putLink_power (s : State) (l : Nat) (x : Link) : (putLink s l x).power = s.power := rfl
@[simp] theorem putLink_hot (s : State) (l : Nat) (x : Link) : (putLink s l x).hot = s.hot := rfl
@[simp] theorem putLink_links (s : State) (l : Nat) (x : Link) : (putLink s l x).links = dset Link.initial s.links l x := rfl
@[simp] theorem putLink_bnum (s : State) (l : Nat) (x : Link) : (putLink s l x).bnum = s.bnum := rfl
@[simp] theorem putLink_bnd (s : State) (l : Nat) (x : Link) : (putLink s l x).bnd = s.bnd := rfl
@[simp] theorem putLink_bperFrom (s : State) (l : Nat) (x : Link) : (putLink s l x).bperFrom = s.bperFrom := rfl
@[simp] theorem putLink_bndFull (s : State) (l : Nat) (x : Link) : (putLink s l x).bndFull = s.bndFull := rfl
@[simp] theorem putLink_snap (s : State) (l : Nat) (x : Link) : (putLink s l x).snap = s.snap := rfl
@[simp] theorem putLink_undo (s : State) (l : Nat) (x : Link) : (putLink s l x).undo = s.undo := rfl
@[simp] theorem putLink_log (s : State) (l : Nat) (x : Link) : (putLink s l x).log = s.log := rfl
@[simp] theorem putLink_replay (s : State) (l : Nat) (x : Link) : (putLink s l x).replay = s.replay := rfl
@[simp] theorem putLink_rollbacks (s : State) (l : Nat) (x : Link) : (putLink s l x).rollbacks = s.rollbacks := rfl
@[simp] theorem putLink_counters (s : State) (l : Nat) (x : Link) : (putLink s l x).counters = s.counters := rfl
@[simp] theorem putLink_health (s : State) (l : Nat) (x : Link) : (putLink s l x).health = s.health := rfl
@[simp] theorem putLink_lost (s : State) (l : Nat) (x : Link) : (putLink s l x).lost = s.lost := rfl
@[simp] theorem putLink_fc (s : State) (l : Nat) (x : Link) : (putLink s l x).fc = s.fc := rfl
@[simp] theorem putLink_fcnum (s : State) (l : Nat) (x : Link) : (putLink s l x).fcnum = s.fcnum := rfl
@[simp] theorem putLink_spdm (s : State) (l : Nat) (x : Link) : (putLink s l x).spdm = s.spdm := rfl
@[simp] theorem putLink_doe (s : State) (l : Nat) (x : Link) : (putLink s l x).doe = s.doe := rfl
@[simp] theorem putLink_barData (s : State) (l : Nat) (x : Link) : (putLink s l x).barData = s.barData := rfl
@[simp] theorem putLink_msix (s : State) (l : Nat) (x : Link) : (putLink s l x).msix = s.msix := rfl
@[simp] theorem putLink_halOut (s : State) (l : Nat) (x : Link) : (putLink s l x).halOut = s.halOut := rfl
@[simp] theorem putLink_ats (s : State) (l : Nat) (x : Link) : (putLink s l x).ats = s.ats := rfl
@[simp] theorem putLink_held (s : State) (l : Nat) (x : Link) : (putLink s l x).held = s.held := rfl
@[simp] theorem putLink_mcReads (s : State) (l : Nat) (x : Link) : (putLink s l x).mcReads = s.mcReads := rfl
@[simp] theorem putLink_uce (s : State) (l : Nat) (x : Link) : (putLink s l x).uce = s.uce := rfl
@[simp] theorem putLink_extJobs (s : State) (l : Nat) (x : Link) : (putLink s l x).extJobs = s.extJobs := rfl
@[simp] theorem putLink_flrs (s : State) (l : Nat) (x : Link) : (putLink s l x).flrs = s.flrs := rfl
@[simp] theorem putLink_tb (s : State) (l : Nat) (x : Link) : (putLink s l x).tb = s.tb := rfl
@[simp] theorem putLink_sysMem (s : State) (l : Nat) (x : Link) : (putLink s l x).sysMem = s.sysMem := rfl
@[simp] theorem putLink_turns (s : State) (l : Nat) (x : Link) : (putLink s l x).turns = s.turns := rfl
@[simp] theorem putLink_cur (s : State) (l : Nat) (x : Link) : (putLink s l x).cur = s.cur := rfl
@[simp] theorem putLink_nextId (s : State) (l : Nat) (x : Link) : (putLink s l x).nextId = s.nextId := rfl
@[simp] theorem putLink_freeCount (s : State) (l : Nat) (x : Link) : (putLink s l x).freeCount = s.freeCount := rfl

/-! ## modQueue -/

@[simp] theorem modQueue_mem (s : State) (q : Nat) (f : Queue → Queue) : (modQueue s q f).mem = s.mem := rfl
@[simp] theorem modQueue_full (s : State) (q : Nat) (f : Queue → Queue) : (modQueue s q f).full = s.full := rfl
@[simp] theorem modQueue_ctMode (s : State) (q : Nat) (f : Queue → Queue) : (modQueue s q f).ctMode = s.ctMode := rfl
@[simp] theorem modQueue_ctBusy (s : State) (q : Nat) (f : Queue → Queue) : (modQueue s q f).ctBusy = s.ctBusy := rfl
@[simp] theorem modQueue_wins (s : State) (q : Nat) (f : Queue → Queue) : (modQueue s q f).wins = s.wins := rfl
@[simp] theorem modQueue_fxregs (s : State) (q : Nat) (f : Queue → Queue) : (modQueue s q f).fxregs = s.fxregs := rfl
@[simp] theorem modQueue_lanes (s : State) (q : Nat) (f : Queue → Queue) : (modQueue s q f).lanes = s.lanes := rfl
@[simp] theorem modQueue_dead (s : State) (q : Nat) (f : Queue → Queue) : (modQueue s q f).dead = s.dead := rfl
@[simp] theorem modQueue_tps (s : State) (q : Nat) (f : Queue → Queue) : (modQueue s q f).tps = s.tps := rfl
@[simp] theorem modQueue_images (s : State) (q : Nat) (f : Queue → Queue) : (modQueue s q f).images = s.images := rfl
@[simp] theorem modQueue_insts (s : State) (q : Nat) (f : Queue → Queue) : (modQueue s q f).insts = s.insts := rfl
@[simp] theorem modQueue_frames (s : State) (q : Nat) (f : Queue → Queue) : (modQueue s q f).frames = s.frames := rfl
@[simp] theorem modQueue_ahalt (s : State) (q : Nat) (f : Queue → Queue) : (modQueue s q f).ahalt = s.ahalt := rfl
@[simp] theorem modQueue_units (s : State) (q : Nat) (f : Queue → Queue) : (modQueue s q f).units = s.units := rfl
@[simp] theorem modQueue_launches (s : State) (q : Nat) (f : Queue → Queue) : (modQueue s q f).launches = s.launches := rfl
@[simp] theorem modQueue_jobs (s : State) (q : Nat) (f : Queue → Queue) : (modQueue s q f).jobs = s.jobs := rfl
@[simp] theorem modQueue_nodes (s : State) (q : Nat) (f : Queue → Queue) : (modQueue s q f).nodes = s.nodes := rfl
@[simp] theorem modQueue_slots (s : State) (q : Nat) (f : Queue → Queue) : (modQueue s q f).slots = s.slots := rfl
@[simp] theorem modQueue_queues (s : State) (q : Nat) (f : Queue → Queue) : (modQueue s q f).queues = kmod s.queues q f := rfl
@[simp] theorem modQueue_roots (s : State) (q : Nat) (f : Queue → Queue) : (modQueue s q f).roots = s.roots := rfl
@[simp] theorem modQueue_spills (s : State) (q : Nat) (f : Queue → Queue) : (modQueue s q f).spills = s.spills := rfl
@[simp] theorem modQueue_saves (s : State) (q : Nat) (f : Queue → Queue) : (modQueue s q f).saves = s.saves := rfl
@[simp] theorem modQueue_jibs (s : State) (q : Nat) (f : Queue → Queue) : (modQueue s q f).jibs = s.jibs := rfl
@[simp] theorem modQueue_acceptRr (s : State) (q : Nat) (f : Queue → Queue) : (modQueue s q f).acceptRr = s.acceptRr := rfl
@[simp] theorem modQueue_bindRr (s : State) (q : Nat) (f : Queue → Queue) : (modQueue s q f).bindRr = s.bindRr := rfl
@[simp] theorem modQueue_laneJobs (s : State) (q : Nat) (f : Queue → Queue) : (modQueue s q f).laneJobs = s.laneJobs := rfl
@[simp] theorem modQueue_owed (s : State) (q : Nat) (f : Queue → Queue) : (modQueue s q f).owed = s.owed := rfl
@[simp] theorem modQueue_lostLines (s : State) (q : Nat) (f : Queue → Queue) : (modQueue s q f).lostLines = s.lostLines := rfl
@[simp] theorem modQueue_shares (s : State) (q : Nat) (f : Queue → Queue) : (modQueue s q f).shares = s.shares := rfl
@[simp] theorem modQueue_ops (s : State) (q : Nat) (f : Queue → Queue) : (modQueue s q f).ops = s.ops := rfl
@[simp] theorem modQueue_streams (s : State) (q : Nat) (f : Queue → Queue) : (modQueue s q f).streams = s.streams := rfl
@[simp] theorem modQueue_tmpls (s : State) (q : Nat) (f : Queue → Queue) : (modQueue s q f).tmpls = s.tmpls := rfl
@[simp] theorem modQueue_chans (s : State) (q : Nat) (f : Queue → Queue) : (modQueue s q f).chans = s.chans := rfl
@[simp] theorem modQueue_chains (s : State) (q : Nat) (f : Queue → Queue) : (modQueue s q f).chains = s.chains := rfl
@[simp] theorem modQueue_idxs (s : State) (q : Nat) (f : Queue → Queue) : (modQueue s q f).idxs = s.idxs := rfl
@[simp] theorem modQueue_mxes (s : State) (q : Nat) (f : Queue → Queue) : (modQueue s q f).mxes = s.mxes := rfl
@[simp] theorem modQueue_spilled (s : State) (q : Nat) (f : Queue → Queue) : (modQueue s q f).spilled = s.spilled := rfl
@[simp] theorem modQueue_journals (s : State) (q : Nat) (f : Queue → Queue) : (modQueue s q f).journals = s.journals := rfl
@[simp] theorem modQueue_watches (s : State) (q : Nat) (f : Queue → Queue) : (modQueue s q f).watches = s.watches := rfl
@[simp] theorem modQueue_blob (s : State) (q : Nat) (f : Queue → Queue) : (modQueue s q f).blob = s.blob := rfl
@[simp] theorem modQueue_fwState (s : State) (q : Nat) (f : Queue → Queue) : (modQueue s q f).fwState = s.fwState := rfl
@[simp] theorem modQueue_fwver (s : State) (q : Nat) (f : Queue → Queue) : (modQueue s q f).fwver = s.fwver := rfl
@[simp] theorem modQueue_dump (s : State) (q : Nat) (f : Queue → Queue) : (modQueue s q f).dump = s.dump := rfl
@[simp] theorem modQueue_flash (s : State) (q : Nat) (f : Queue → Queue) : (modQueue s q f).flash = s.flash := rfl
@[simp] theorem modQueue_hostOffers (s : State) (q : Nat) (f : Queue → Queue) : (modQueue s q f).hostOffers = s.hostOffers := rfl
@[simp] theorem modQueue_winbase (s : State) (q : Nat) (f : Queue → Queue) : (modQueue s q f).winbase = s.winbase := rfl
@[simp] theorem modQueue_mboxes (s : State) (q : Nat) (f : Queue → Queue) : (modQueue s q f).mboxes = s.mboxes := rfl
@[simp] theorem modQueue_dies (s : State) (q : Nat) (f : Queue → Queue) : (modQueue s q f).dies = s.dies := rfl
@[simp] theorem modQueue_sailsOut (s : State) (q : Nat) (f : Queue → Queue) : (modQueue s q f).sailsOut = s.sailsOut := rfl
@[simp] theorem modQueue_service (s : State) (q : Nat) (f : Queue → Queue) : (modQueue s q f).service = s.service := rfl
@[simp] theorem modQueue_power (s : State) (q : Nat) (f : Queue → Queue) : (modQueue s q f).power = s.power := rfl
@[simp] theorem modQueue_hot (s : State) (q : Nat) (f : Queue → Queue) : (modQueue s q f).hot = s.hot := rfl
@[simp] theorem modQueue_links (s : State) (q : Nat) (f : Queue → Queue) : (modQueue s q f).links = s.links := rfl
@[simp] theorem modQueue_bnum (s : State) (q : Nat) (f : Queue → Queue) : (modQueue s q f).bnum = s.bnum := rfl
@[simp] theorem modQueue_bnd (s : State) (q : Nat) (f : Queue → Queue) : (modQueue s q f).bnd = s.bnd := rfl
@[simp] theorem modQueue_bperFrom (s : State) (q : Nat) (f : Queue → Queue) : (modQueue s q f).bperFrom = s.bperFrom := rfl
@[simp] theorem modQueue_bndFull (s : State) (q : Nat) (f : Queue → Queue) : (modQueue s q f).bndFull = s.bndFull := rfl
@[simp] theorem modQueue_snap (s : State) (q : Nat) (f : Queue → Queue) : (modQueue s q f).snap = s.snap := rfl
@[simp] theorem modQueue_undo (s : State) (q : Nat) (f : Queue → Queue) : (modQueue s q f).undo = s.undo := rfl
@[simp] theorem modQueue_log (s : State) (q : Nat) (f : Queue → Queue) : (modQueue s q f).log = s.log := rfl
@[simp] theorem modQueue_replay (s : State) (q : Nat) (f : Queue → Queue) : (modQueue s q f).replay = s.replay := rfl
@[simp] theorem modQueue_rollbacks (s : State) (q : Nat) (f : Queue → Queue) : (modQueue s q f).rollbacks = s.rollbacks := rfl
@[simp] theorem modQueue_counters (s : State) (q : Nat) (f : Queue → Queue) : (modQueue s q f).counters = s.counters := rfl
@[simp] theorem modQueue_health (s : State) (q : Nat) (f : Queue → Queue) : (modQueue s q f).health = s.health := rfl
@[simp] theorem modQueue_lost (s : State) (q : Nat) (f : Queue → Queue) : (modQueue s q f).lost = s.lost := rfl
@[simp] theorem modQueue_fc (s : State) (q : Nat) (f : Queue → Queue) : (modQueue s q f).fc = s.fc := rfl
@[simp] theorem modQueue_fcnum (s : State) (q : Nat) (f : Queue → Queue) : (modQueue s q f).fcnum = s.fcnum := rfl
@[simp] theorem modQueue_spdm (s : State) (q : Nat) (f : Queue → Queue) : (modQueue s q f).spdm = s.spdm := rfl
@[simp] theorem modQueue_doe (s : State) (q : Nat) (f : Queue → Queue) : (modQueue s q f).doe = s.doe := rfl
@[simp] theorem modQueue_barData (s : State) (q : Nat) (f : Queue → Queue) : (modQueue s q f).barData = s.barData := rfl
@[simp] theorem modQueue_msix (s : State) (q : Nat) (f : Queue → Queue) : (modQueue s q f).msix = s.msix := rfl
@[simp] theorem modQueue_halOut (s : State) (q : Nat) (f : Queue → Queue) : (modQueue s q f).halOut = s.halOut := rfl
@[simp] theorem modQueue_ats (s : State) (q : Nat) (f : Queue → Queue) : (modQueue s q f).ats = s.ats := rfl
@[simp] theorem modQueue_held (s : State) (q : Nat) (f : Queue → Queue) : (modQueue s q f).held = s.held := rfl
@[simp] theorem modQueue_mcReads (s : State) (q : Nat) (f : Queue → Queue) : (modQueue s q f).mcReads = s.mcReads := rfl
@[simp] theorem modQueue_uce (s : State) (q : Nat) (f : Queue → Queue) : (modQueue s q f).uce = s.uce := rfl
@[simp] theorem modQueue_extJobs (s : State) (q : Nat) (f : Queue → Queue) : (modQueue s q f).extJobs = s.extJobs := rfl
@[simp] theorem modQueue_flrs (s : State) (q : Nat) (f : Queue → Queue) : (modQueue s q f).flrs = s.flrs := rfl
@[simp] theorem modQueue_tb (s : State) (q : Nat) (f : Queue → Queue) : (modQueue s q f).tb = s.tb := rfl
@[simp] theorem modQueue_sysMem (s : State) (q : Nat) (f : Queue → Queue) : (modQueue s q f).sysMem = s.sysMem := rfl
@[simp] theorem modQueue_turns (s : State) (q : Nat) (f : Queue → Queue) : (modQueue s q f).turns = s.turns := rfl
@[simp] theorem modQueue_cur (s : State) (q : Nat) (f : Queue → Queue) : (modQueue s q f).cur = s.cur := rfl
@[simp] theorem modQueue_nextId (s : State) (q : Nat) (f : Queue → Queue) : (modQueue s q f).nextId = s.nextId := rfl
@[simp] theorem modQueue_freeCount (s : State) (q : Nat) (f : Queue → Queue) : (modQueue s q f).freeCount = s.freeCount := rfl

/-! ## modLaunch -/

@[simp] theorem modLaunch_mem (s : State) (l : Nat) (f : Launch → Launch) : (modLaunch s l f).mem = s.mem := rfl
@[simp] theorem modLaunch_full (s : State) (l : Nat) (f : Launch → Launch) : (modLaunch s l f).full = s.full := rfl
@[simp] theorem modLaunch_ctMode (s : State) (l : Nat) (f : Launch → Launch) : (modLaunch s l f).ctMode = s.ctMode := rfl
@[simp] theorem modLaunch_ctBusy (s : State) (l : Nat) (f : Launch → Launch) : (modLaunch s l f).ctBusy = s.ctBusy := rfl
@[simp] theorem modLaunch_wins (s : State) (l : Nat) (f : Launch → Launch) : (modLaunch s l f).wins = s.wins := rfl
@[simp] theorem modLaunch_fxregs (s : State) (l : Nat) (f : Launch → Launch) : (modLaunch s l f).fxregs = s.fxregs := rfl
@[simp] theorem modLaunch_lanes (s : State) (l : Nat) (f : Launch → Launch) : (modLaunch s l f).lanes = s.lanes := rfl
@[simp] theorem modLaunch_dead (s : State) (l : Nat) (f : Launch → Launch) : (modLaunch s l f).dead = s.dead := rfl
@[simp] theorem modLaunch_tps (s : State) (l : Nat) (f : Launch → Launch) : (modLaunch s l f).tps = s.tps := rfl
@[simp] theorem modLaunch_images (s : State) (l : Nat) (f : Launch → Launch) : (modLaunch s l f).images = s.images := rfl
@[simp] theorem modLaunch_insts (s : State) (l : Nat) (f : Launch → Launch) : (modLaunch s l f).insts = s.insts := rfl
@[simp] theorem modLaunch_frames (s : State) (l : Nat) (f : Launch → Launch) : (modLaunch s l f).frames = s.frames := rfl
@[simp] theorem modLaunch_ahalt (s : State) (l : Nat) (f : Launch → Launch) : (modLaunch s l f).ahalt = s.ahalt := rfl
@[simp] theorem modLaunch_units (s : State) (l : Nat) (f : Launch → Launch) : (modLaunch s l f).units = s.units := rfl
@[simp] theorem modLaunch_launches (s : State) (l : Nat) (f : Launch → Launch) : (modLaunch s l f).launches = kmod s.launches l f := rfl
@[simp] theorem modLaunch_jobs (s : State) (l : Nat) (f : Launch → Launch) : (modLaunch s l f).jobs = s.jobs := rfl
@[simp] theorem modLaunch_nodes (s : State) (l : Nat) (f : Launch → Launch) : (modLaunch s l f).nodes = s.nodes := rfl
@[simp] theorem modLaunch_slots (s : State) (l : Nat) (f : Launch → Launch) : (modLaunch s l f).slots = s.slots := rfl
@[simp] theorem modLaunch_queues (s : State) (l : Nat) (f : Launch → Launch) : (modLaunch s l f).queues = s.queues := rfl
@[simp] theorem modLaunch_roots (s : State) (l : Nat) (f : Launch → Launch) : (modLaunch s l f).roots = s.roots := rfl
@[simp] theorem modLaunch_spills (s : State) (l : Nat) (f : Launch → Launch) : (modLaunch s l f).spills = s.spills := rfl
@[simp] theorem modLaunch_saves (s : State) (l : Nat) (f : Launch → Launch) : (modLaunch s l f).saves = s.saves := rfl
@[simp] theorem modLaunch_jibs (s : State) (l : Nat) (f : Launch → Launch) : (modLaunch s l f).jibs = s.jibs := rfl
@[simp] theorem modLaunch_acceptRr (s : State) (l : Nat) (f : Launch → Launch) : (modLaunch s l f).acceptRr = s.acceptRr := rfl
@[simp] theorem modLaunch_bindRr (s : State) (l : Nat) (f : Launch → Launch) : (modLaunch s l f).bindRr = s.bindRr := rfl
@[simp] theorem modLaunch_laneJobs (s : State) (l : Nat) (f : Launch → Launch) : (modLaunch s l f).laneJobs = s.laneJobs := rfl
@[simp] theorem modLaunch_owed (s : State) (l : Nat) (f : Launch → Launch) : (modLaunch s l f).owed = s.owed := rfl
@[simp] theorem modLaunch_lostLines (s : State) (l : Nat) (f : Launch → Launch) : (modLaunch s l f).lostLines = s.lostLines := rfl
@[simp] theorem modLaunch_shares (s : State) (l : Nat) (f : Launch → Launch) : (modLaunch s l f).shares = s.shares := rfl
@[simp] theorem modLaunch_ops (s : State) (l : Nat) (f : Launch → Launch) : (modLaunch s l f).ops = s.ops := rfl
@[simp] theorem modLaunch_streams (s : State) (l : Nat) (f : Launch → Launch) : (modLaunch s l f).streams = s.streams := rfl
@[simp] theorem modLaunch_tmpls (s : State) (l : Nat) (f : Launch → Launch) : (modLaunch s l f).tmpls = s.tmpls := rfl
@[simp] theorem modLaunch_chans (s : State) (l : Nat) (f : Launch → Launch) : (modLaunch s l f).chans = s.chans := rfl
@[simp] theorem modLaunch_chains (s : State) (l : Nat) (f : Launch → Launch) : (modLaunch s l f).chains = s.chains := rfl
@[simp] theorem modLaunch_idxs (s : State) (l : Nat) (f : Launch → Launch) : (modLaunch s l f).idxs = s.idxs := rfl
@[simp] theorem modLaunch_mxes (s : State) (l : Nat) (f : Launch → Launch) : (modLaunch s l f).mxes = s.mxes := rfl
@[simp] theorem modLaunch_spilled (s : State) (l : Nat) (f : Launch → Launch) : (modLaunch s l f).spilled = s.spilled := rfl
@[simp] theorem modLaunch_journals (s : State) (l : Nat) (f : Launch → Launch) : (modLaunch s l f).journals = s.journals := rfl
@[simp] theorem modLaunch_watches (s : State) (l : Nat) (f : Launch → Launch) : (modLaunch s l f).watches = s.watches := rfl
@[simp] theorem modLaunch_blob (s : State) (l : Nat) (f : Launch → Launch) : (modLaunch s l f).blob = s.blob := rfl
@[simp] theorem modLaunch_fwState (s : State) (l : Nat) (f : Launch → Launch) : (modLaunch s l f).fwState = s.fwState := rfl
@[simp] theorem modLaunch_fwver (s : State) (l : Nat) (f : Launch → Launch) : (modLaunch s l f).fwver = s.fwver := rfl
@[simp] theorem modLaunch_dump (s : State) (l : Nat) (f : Launch → Launch) : (modLaunch s l f).dump = s.dump := rfl
@[simp] theorem modLaunch_flash (s : State) (l : Nat) (f : Launch → Launch) : (modLaunch s l f).flash = s.flash := rfl
@[simp] theorem modLaunch_hostOffers (s : State) (l : Nat) (f : Launch → Launch) : (modLaunch s l f).hostOffers = s.hostOffers := rfl
@[simp] theorem modLaunch_winbase (s : State) (l : Nat) (f : Launch → Launch) : (modLaunch s l f).winbase = s.winbase := rfl
@[simp] theorem modLaunch_mboxes (s : State) (l : Nat) (f : Launch → Launch) : (modLaunch s l f).mboxes = s.mboxes := rfl
@[simp] theorem modLaunch_dies (s : State) (l : Nat) (f : Launch → Launch) : (modLaunch s l f).dies = s.dies := rfl
@[simp] theorem modLaunch_sailsOut (s : State) (l : Nat) (f : Launch → Launch) : (modLaunch s l f).sailsOut = s.sailsOut := rfl
@[simp] theorem modLaunch_service (s : State) (l : Nat) (f : Launch → Launch) : (modLaunch s l f).service = s.service := rfl
@[simp] theorem modLaunch_power (s : State) (l : Nat) (f : Launch → Launch) : (modLaunch s l f).power = s.power := rfl
@[simp] theorem modLaunch_hot (s : State) (l : Nat) (f : Launch → Launch) : (modLaunch s l f).hot = s.hot := rfl
@[simp] theorem modLaunch_links (s : State) (l : Nat) (f : Launch → Launch) : (modLaunch s l f).links = s.links := rfl
@[simp] theorem modLaunch_bnum (s : State) (l : Nat) (f : Launch → Launch) : (modLaunch s l f).bnum = s.bnum := rfl
@[simp] theorem modLaunch_bnd (s : State) (l : Nat) (f : Launch → Launch) : (modLaunch s l f).bnd = s.bnd := rfl
@[simp] theorem modLaunch_bperFrom (s : State) (l : Nat) (f : Launch → Launch) : (modLaunch s l f).bperFrom = s.bperFrom := rfl
@[simp] theorem modLaunch_bndFull (s : State) (l : Nat) (f : Launch → Launch) : (modLaunch s l f).bndFull = s.bndFull := rfl
@[simp] theorem modLaunch_snap (s : State) (l : Nat) (f : Launch → Launch) : (modLaunch s l f).snap = s.snap := rfl
@[simp] theorem modLaunch_undo (s : State) (l : Nat) (f : Launch → Launch) : (modLaunch s l f).undo = s.undo := rfl
@[simp] theorem modLaunch_log (s : State) (l : Nat) (f : Launch → Launch) : (modLaunch s l f).log = s.log := rfl
@[simp] theorem modLaunch_replay (s : State) (l : Nat) (f : Launch → Launch) : (modLaunch s l f).replay = s.replay := rfl
@[simp] theorem modLaunch_rollbacks (s : State) (l : Nat) (f : Launch → Launch) : (modLaunch s l f).rollbacks = s.rollbacks := rfl
@[simp] theorem modLaunch_counters (s : State) (l : Nat) (f : Launch → Launch) : (modLaunch s l f).counters = s.counters := rfl
@[simp] theorem modLaunch_health (s : State) (l : Nat) (f : Launch → Launch) : (modLaunch s l f).health = s.health := rfl
@[simp] theorem modLaunch_lost (s : State) (l : Nat) (f : Launch → Launch) : (modLaunch s l f).lost = s.lost := rfl
@[simp] theorem modLaunch_fc (s : State) (l : Nat) (f : Launch → Launch) : (modLaunch s l f).fc = s.fc := rfl
@[simp] theorem modLaunch_fcnum (s : State) (l : Nat) (f : Launch → Launch) : (modLaunch s l f).fcnum = s.fcnum := rfl
@[simp] theorem modLaunch_spdm (s : State) (l : Nat) (f : Launch → Launch) : (modLaunch s l f).spdm = s.spdm := rfl
@[simp] theorem modLaunch_doe (s : State) (l : Nat) (f : Launch → Launch) : (modLaunch s l f).doe = s.doe := rfl
@[simp] theorem modLaunch_barData (s : State) (l : Nat) (f : Launch → Launch) : (modLaunch s l f).barData = s.barData := rfl
@[simp] theorem modLaunch_msix (s : State) (l : Nat) (f : Launch → Launch) : (modLaunch s l f).msix = s.msix := rfl
@[simp] theorem modLaunch_halOut (s : State) (l : Nat) (f : Launch → Launch) : (modLaunch s l f).halOut = s.halOut := rfl
@[simp] theorem modLaunch_ats (s : State) (l : Nat) (f : Launch → Launch) : (modLaunch s l f).ats = s.ats := rfl
@[simp] theorem modLaunch_held (s : State) (l : Nat) (f : Launch → Launch) : (modLaunch s l f).held = s.held := rfl
@[simp] theorem modLaunch_mcReads (s : State) (l : Nat) (f : Launch → Launch) : (modLaunch s l f).mcReads = s.mcReads := rfl
@[simp] theorem modLaunch_uce (s : State) (l : Nat) (f : Launch → Launch) : (modLaunch s l f).uce = s.uce := rfl
@[simp] theorem modLaunch_extJobs (s : State) (l : Nat) (f : Launch → Launch) : (modLaunch s l f).extJobs = s.extJobs := rfl
@[simp] theorem modLaunch_flrs (s : State) (l : Nat) (f : Launch → Launch) : (modLaunch s l f).flrs = s.flrs := rfl
@[simp] theorem modLaunch_tb (s : State) (l : Nat) (f : Launch → Launch) : (modLaunch s l f).tb = s.tb := rfl
@[simp] theorem modLaunch_sysMem (s : State) (l : Nat) (f : Launch → Launch) : (modLaunch s l f).sysMem = s.sysMem := rfl
@[simp] theorem modLaunch_turns (s : State) (l : Nat) (f : Launch → Launch) : (modLaunch s l f).turns = s.turns := rfl
@[simp] theorem modLaunch_cur (s : State) (l : Nat) (f : Launch → Launch) : (modLaunch s l f).cur = s.cur := rfl
@[simp] theorem modLaunch_nextId (s : State) (l : Nat) (f : Launch → Launch) : (modLaunch s l f).nextId = s.nextId := rfl
@[simp] theorem modLaunch_freeCount (s : State) (l : Nat) (f : Launch → Launch) : (modLaunch s l f).freeCount = s.freeCount := rfl

/-! ## setFull -/

@[simp] theorem setFull_mem (s : State) (a : Nat) (b : Bool) : (setFull s a b).mem = s.mem := rfl
@[simp] theorem setFull_full (s : State) (a : Nat) (b : Bool) : (setFull s a b).full = dset false s.full (a / 16) b := rfl
@[simp] theorem setFull_ctMode (s : State) (a : Nat) (b : Bool) : (setFull s a b).ctMode = s.ctMode := rfl
@[simp] theorem setFull_ctBusy (s : State) (a : Nat) (b : Bool) : (setFull s a b).ctBusy = s.ctBusy := rfl
@[simp] theorem setFull_wins (s : State) (a : Nat) (b : Bool) : (setFull s a b).wins = s.wins := rfl
@[simp] theorem setFull_fxregs (s : State) (a : Nat) (b : Bool) : (setFull s a b).fxregs = s.fxregs := rfl
@[simp] theorem setFull_lanes (s : State) (a : Nat) (b : Bool) : (setFull s a b).lanes = s.lanes := rfl
@[simp] theorem setFull_dead (s : State) (a : Nat) (b : Bool) : (setFull s a b).dead = s.dead := rfl
@[simp] theorem setFull_tps (s : State) (a : Nat) (b : Bool) : (setFull s a b).tps = s.tps := rfl
@[simp] theorem setFull_images (s : State) (a : Nat) (b : Bool) : (setFull s a b).images = s.images := rfl
@[simp] theorem setFull_insts (s : State) (a : Nat) (b : Bool) : (setFull s a b).insts = s.insts := rfl
@[simp] theorem setFull_frames (s : State) (a : Nat) (b : Bool) : (setFull s a b).frames = s.frames := rfl
@[simp] theorem setFull_ahalt (s : State) (a : Nat) (b : Bool) : (setFull s a b).ahalt = s.ahalt := rfl
@[simp] theorem setFull_units (s : State) (a : Nat) (b : Bool) : (setFull s a b).units = s.units := rfl
@[simp] theorem setFull_launches (s : State) (a : Nat) (b : Bool) : (setFull s a b).launches = s.launches := rfl
@[simp] theorem setFull_jobs (s : State) (a : Nat) (b : Bool) : (setFull s a b).jobs = s.jobs := rfl
@[simp] theorem setFull_nodes (s : State) (a : Nat) (b : Bool) : (setFull s a b).nodes = s.nodes := rfl
@[simp] theorem setFull_slots (s : State) (a : Nat) (b : Bool) : (setFull s a b).slots = s.slots := rfl
@[simp] theorem setFull_queues (s : State) (a : Nat) (b : Bool) : (setFull s a b).queues = s.queues := rfl
@[simp] theorem setFull_roots (s : State) (a : Nat) (b : Bool) : (setFull s a b).roots = s.roots := rfl
@[simp] theorem setFull_spills (s : State) (a : Nat) (b : Bool) : (setFull s a b).spills = s.spills := rfl
@[simp] theorem setFull_saves (s : State) (a : Nat) (b : Bool) : (setFull s a b).saves = s.saves := rfl
@[simp] theorem setFull_jibs (s : State) (a : Nat) (b : Bool) : (setFull s a b).jibs = s.jibs := rfl
@[simp] theorem setFull_acceptRr (s : State) (a : Nat) (b : Bool) : (setFull s a b).acceptRr = s.acceptRr := rfl
@[simp] theorem setFull_bindRr (s : State) (a : Nat) (b : Bool) : (setFull s a b).bindRr = s.bindRr := rfl
@[simp] theorem setFull_laneJobs (s : State) (a : Nat) (b : Bool) : (setFull s a b).laneJobs = s.laneJobs := rfl
@[simp] theorem setFull_owed (s : State) (a : Nat) (b : Bool) : (setFull s a b).owed = s.owed := rfl
@[simp] theorem setFull_lostLines (s : State) (a : Nat) (b : Bool) : (setFull s a b).lostLines = s.lostLines := rfl
@[simp] theorem setFull_shares (s : State) (a : Nat) (b : Bool) : (setFull s a b).shares = s.shares := rfl
@[simp] theorem setFull_ops (s : State) (a : Nat) (b : Bool) : (setFull s a b).ops = s.ops := rfl
@[simp] theorem setFull_streams (s : State) (a : Nat) (b : Bool) : (setFull s a b).streams = s.streams := rfl
@[simp] theorem setFull_tmpls (s : State) (a : Nat) (b : Bool) : (setFull s a b).tmpls = s.tmpls := rfl
@[simp] theorem setFull_chans (s : State) (a : Nat) (b : Bool) : (setFull s a b).chans = s.chans := rfl
@[simp] theorem setFull_chains (s : State) (a : Nat) (b : Bool) : (setFull s a b).chains = s.chains := rfl
@[simp] theorem setFull_idxs (s : State) (a : Nat) (b : Bool) : (setFull s a b).idxs = s.idxs := rfl
@[simp] theorem setFull_mxes (s : State) (a : Nat) (b : Bool) : (setFull s a b).mxes = s.mxes := rfl
@[simp] theorem setFull_spilled (s : State) (a : Nat) (b : Bool) : (setFull s a b).spilled = s.spilled := rfl
@[simp] theorem setFull_journals (s : State) (a : Nat) (b : Bool) : (setFull s a b).journals = s.journals := rfl
@[simp] theorem setFull_watches (s : State) (a : Nat) (b : Bool) : (setFull s a b).watches = s.watches := rfl
@[simp] theorem setFull_blob (s : State) (a : Nat) (b : Bool) : (setFull s a b).blob = s.blob := rfl
@[simp] theorem setFull_fwState (s : State) (a : Nat) (b : Bool) : (setFull s a b).fwState = s.fwState := rfl
@[simp] theorem setFull_fwver (s : State) (a : Nat) (b : Bool) : (setFull s a b).fwver = s.fwver := rfl
@[simp] theorem setFull_dump (s : State) (a : Nat) (b : Bool) : (setFull s a b).dump = s.dump := rfl
@[simp] theorem setFull_flash (s : State) (a : Nat) (b : Bool) : (setFull s a b).flash = s.flash := rfl
@[simp] theorem setFull_hostOffers (s : State) (a : Nat) (b : Bool) : (setFull s a b).hostOffers = s.hostOffers := rfl
@[simp] theorem setFull_winbase (s : State) (a : Nat) (b : Bool) : (setFull s a b).winbase = s.winbase := rfl
@[simp] theorem setFull_mboxes (s : State) (a : Nat) (b : Bool) : (setFull s a b).mboxes = s.mboxes := rfl
@[simp] theorem setFull_dies (s : State) (a : Nat) (b : Bool) : (setFull s a b).dies = s.dies := rfl
@[simp] theorem setFull_sailsOut (s : State) (a : Nat) (b : Bool) : (setFull s a b).sailsOut = s.sailsOut := rfl
@[simp] theorem setFull_service (s : State) (a : Nat) (b : Bool) : (setFull s a b).service = s.service := rfl
@[simp] theorem setFull_power (s : State) (a : Nat) (b : Bool) : (setFull s a b).power = s.power := rfl
@[simp] theorem setFull_hot (s : State) (a : Nat) (b : Bool) : (setFull s a b).hot = s.hot := rfl
@[simp] theorem setFull_links (s : State) (a : Nat) (b : Bool) : (setFull s a b).links = s.links := rfl
@[simp] theorem setFull_bnum (s : State) (a : Nat) (b : Bool) : (setFull s a b).bnum = s.bnum := rfl
@[simp] theorem setFull_bnd (s : State) (a : Nat) (b : Bool) : (setFull s a b).bnd = s.bnd := rfl
@[simp] theorem setFull_bperFrom (s : State) (a : Nat) (b : Bool) : (setFull s a b).bperFrom = s.bperFrom := rfl
@[simp] theorem setFull_bndFull (s : State) (a : Nat) (b : Bool) : (setFull s a b).bndFull = s.bndFull := rfl
@[simp] theorem setFull_snap (s : State) (a : Nat) (b : Bool) : (setFull s a b).snap = s.snap := rfl
@[simp] theorem setFull_undo (s : State) (a : Nat) (b : Bool) : (setFull s a b).undo = s.undo := rfl
@[simp] theorem setFull_log (s : State) (a : Nat) (b : Bool) : (setFull s a b).log = s.log := rfl
@[simp] theorem setFull_replay (s : State) (a : Nat) (b : Bool) : (setFull s a b).replay = s.replay := rfl
@[simp] theorem setFull_rollbacks (s : State) (a : Nat) (b : Bool) : (setFull s a b).rollbacks = s.rollbacks := rfl
@[simp] theorem setFull_counters (s : State) (a : Nat) (b : Bool) : (setFull s a b).counters = s.counters := rfl
@[simp] theorem setFull_health (s : State) (a : Nat) (b : Bool) : (setFull s a b).health = s.health := rfl
@[simp] theorem setFull_lost (s : State) (a : Nat) (b : Bool) : (setFull s a b).lost = s.lost := rfl
@[simp] theorem setFull_fc (s : State) (a : Nat) (b : Bool) : (setFull s a b).fc = s.fc := rfl
@[simp] theorem setFull_fcnum (s : State) (a : Nat) (b : Bool) : (setFull s a b).fcnum = s.fcnum := rfl
@[simp] theorem setFull_spdm (s : State) (a : Nat) (b : Bool) : (setFull s a b).spdm = s.spdm := rfl
@[simp] theorem setFull_doe (s : State) (a : Nat) (b : Bool) : (setFull s a b).doe = s.doe := rfl
@[simp] theorem setFull_barData (s : State) (a : Nat) (b : Bool) : (setFull s a b).barData = s.barData := rfl
@[simp] theorem setFull_msix (s : State) (a : Nat) (b : Bool) : (setFull s a b).msix = s.msix := rfl
@[simp] theorem setFull_halOut (s : State) (a : Nat) (b : Bool) : (setFull s a b).halOut = s.halOut := rfl
@[simp] theorem setFull_ats (s : State) (a : Nat) (b : Bool) : (setFull s a b).ats = s.ats := rfl
@[simp] theorem setFull_held (s : State) (a : Nat) (b : Bool) : (setFull s a b).held = s.held := rfl
@[simp] theorem setFull_mcReads (s : State) (a : Nat) (b : Bool) : (setFull s a b).mcReads = s.mcReads := rfl
@[simp] theorem setFull_uce (s : State) (a : Nat) (b : Bool) : (setFull s a b).uce = s.uce := rfl
@[simp] theorem setFull_extJobs (s : State) (a : Nat) (b : Bool) : (setFull s a b).extJobs = s.extJobs := rfl
@[simp] theorem setFull_flrs (s : State) (a : Nat) (b : Bool) : (setFull s a b).flrs = s.flrs := rfl
@[simp] theorem setFull_tb (s : State) (a : Nat) (b : Bool) : (setFull s a b).tb = s.tb := rfl
@[simp] theorem setFull_sysMem (s : State) (a : Nat) (b : Bool) : (setFull s a b).sysMem = s.sysMem := rfl
@[simp] theorem setFull_turns (s : State) (a : Nat) (b : Bool) : (setFull s a b).turns = s.turns := rfl
@[simp] theorem setFull_cur (s : State) (a : Nat) (b : Bool) : (setFull s a b).cur = s.cur := rfl
@[simp] theorem setFull_nextId (s : State) (a : Nat) (b : Bool) : (setFull s a b).nextId = s.nextId := rfl
@[simp] theorem setFull_freeCount (s : State) (a : Nat) (b : Bool) : (setFull s a b).freeCount = s.freeCount := rfl

/-! ## The sequencer of a unit -/

@[simp] theorem WorkUnit.advance_launch (w : WorkUnit) : (w.advance).launch = w.launch := rfl
@[simp] theorem WorkUnit.advance_tp (w : WorkUnit) : (w.advance).tp = w.tp := rfl
@[simp] theorem WorkUnit.advance_home (w : WorkUnit) : (w.advance).home = w.home := rfl
@[simp] theorem WorkUnit.advance_asid (w : WorkUnit) : (w.advance).asid = w.asid := rfl
@[simp] theorem WorkUnit.advance_job (w : WorkUnit) : (w.advance).job = w.job := rfl
@[simp] theorem WorkUnit.advance_cpath (w : WorkUnit) : (w.advance).cpath = w.cpath := rfl
@[simp] theorem WorkUnit.advance_pc (w : WorkUnit) : (w.advance).pc = w.pc + 4 := rfl
@[simp] theorem WorkUnit.advance_regs (w : WorkUnit) : (w.advance).regs = w.regs := rfl
@[simp] theorem WorkUnit.advance_preds (w : WorkUnit) : (w.advance).preds = w.preds := rfl
@[simp] theorem WorkUnit.advance_seeds (w : WorkUnit) : (w.advance).seeds = w.seeds := rfl
@[simp] theorem WorkUnit.advance_hmode (w : WorkUnit) : (w.advance).hmode = w.hmode := rfl
@[simp] theorem WorkUnit.advance_ntfc (w : WorkUnit) : (w.advance).ntfc = w.ntfc := rfl
@[simp] theorem WorkUnit.advance_wto (w : WorkUnit) : (w.advance).wto = w.wto := rfl
@[simp] theorem WorkUnit.advance_req (w : WorkUnit) : (w.advance).req = w.req := rfl
@[simp] theorem WorkUnit.advance_deadline (w : WorkUnit) : (w.advance).deadline = w.deadline := rfl
@[simp] theorem WorkUnit.advance_hvecVec (w : WorkUnit) : (w.advance).hvecVec = w.hvecVec := rfl
@[simp] theorem WorkUnit.advance_hvecEn (w : WorkUnit) : (w.advance).hvecEn = w.hvecEn := rfl
@[simp] theorem WorkUnit.advance_hepc (w : WorkUnit) : (w.advance).hepc = w.hepc := rfl
@[simp] theorem WorkUnit.advance_hcause (w : WorkUnit) : (w.advance).hcause = w.hcause := rfl
@[simp] theorem WorkUnit.advance_hval (w : WorkUnit) : (w.advance).hval = w.hval := rfl
@[simp] theorem WorkUnit.advance_hscr (w : WorkUnit) : (w.advance).hscr = w.hscr := rfl
@[simp] theorem WorkUnit.advance_fblock (w : WorkUnit) : (w.advance).fblock = w.fblock := rfl
@[simp] theorem WorkUnit.advance_seq (w : WorkUnit) : (w.advance).seq = w.seq := rfl
@[simp] theorem WorkUnit.advance_held (w : WorkUnit) : (w.advance).held = w.held := rfl
@[simp] theorem WorkUnit.advance_winWait (w : WorkUnit) : (w.advance).winWait = w.winWait := rfl
@[simp] theorem WorkUnit.advance_poisoned (w : WorkUnit) : (w.advance).poisoned = w.poisoned := rfl
@[simp] theorem WorkUnit.advance_faulted (w : WorkUnit) : (w.advance).faulted = w.faulted := rfl
@[simp] theorem WorkUnit.advance_cause (w : WorkUnit) : (w.advance).cause = w.cause := rfl
@[simp] theorem WorkUnit.advance_cancelled (w : WorkUnit) : (w.advance).cancelled = w.cancelled := rfl
@[simp] theorem WorkUnit.advance_yieldRd (w : WorkUnit) : (w.advance).yieldRd = w.yieldRd := rfl
@[simp] theorem WorkUnit.advance_life (w : WorkUnit) : (w.advance).life = w.life := rfl
@[simp] theorem WorkUnit.advance_forBoundary (w : WorkUnit) : (w.advance).forBoundary = w.forBoundary := rfl
@[simp] theorem WorkUnit.advance_feWait (w : WorkUnit) : (w.advance).feWait = w.feWait := rfl

@[simp] theorem WorkUnit.goto_launch (w : WorkUnit) (t : BitVec 57) : (w.goto t).launch = w.launch := rfl
@[simp] theorem WorkUnit.goto_tp (w : WorkUnit) (t : BitVec 57) : (w.goto t).tp = w.tp := rfl
@[simp] theorem WorkUnit.goto_home (w : WorkUnit) (t : BitVec 57) : (w.goto t).home = w.home := rfl
@[simp] theorem WorkUnit.goto_asid (w : WorkUnit) (t : BitVec 57) : (w.goto t).asid = w.asid := rfl
@[simp] theorem WorkUnit.goto_job (w : WorkUnit) (t : BitVec 57) : (w.goto t).job = w.job := rfl
@[simp] theorem WorkUnit.goto_cpath (w : WorkUnit) (t : BitVec 57) : (w.goto t).cpath = w.cpath := rfl
@[simp] theorem WorkUnit.goto_pc (w : WorkUnit) (t : BitVec 57) : (w.goto t).pc = t := rfl
@[simp] theorem WorkUnit.goto_regs (w : WorkUnit) (t : BitVec 57) : (w.goto t).regs = w.regs := rfl
@[simp] theorem WorkUnit.goto_preds (w : WorkUnit) (t : BitVec 57) : (w.goto t).preds = w.preds := rfl
@[simp] theorem WorkUnit.goto_seeds (w : WorkUnit) (t : BitVec 57) : (w.goto t).seeds = w.seeds := rfl
@[simp] theorem WorkUnit.goto_hmode (w : WorkUnit) (t : BitVec 57) : (w.goto t).hmode = w.hmode := rfl
@[simp] theorem WorkUnit.goto_ntfc (w : WorkUnit) (t : BitVec 57) : (w.goto t).ntfc = w.ntfc := rfl
@[simp] theorem WorkUnit.goto_wto (w : WorkUnit) (t : BitVec 57) : (w.goto t).wto = w.wto := rfl
@[simp] theorem WorkUnit.goto_req (w : WorkUnit) (t : BitVec 57) : (w.goto t).req = w.req := rfl
@[simp] theorem WorkUnit.goto_deadline (w : WorkUnit) (t : BitVec 57) : (w.goto t).deadline = w.deadline := rfl
@[simp] theorem WorkUnit.goto_hvecVec (w : WorkUnit) (t : BitVec 57) : (w.goto t).hvecVec = w.hvecVec := rfl
@[simp] theorem WorkUnit.goto_hvecEn (w : WorkUnit) (t : BitVec 57) : (w.goto t).hvecEn = w.hvecEn := rfl
@[simp] theorem WorkUnit.goto_hepc (w : WorkUnit) (t : BitVec 57) : (w.goto t).hepc = w.hepc := rfl
@[simp] theorem WorkUnit.goto_hcause (w : WorkUnit) (t : BitVec 57) : (w.goto t).hcause = w.hcause := rfl
@[simp] theorem WorkUnit.goto_hval (w : WorkUnit) (t : BitVec 57) : (w.goto t).hval = w.hval := rfl
@[simp] theorem WorkUnit.goto_hscr (w : WorkUnit) (t : BitVec 57) : (w.goto t).hscr = w.hscr := rfl
@[simp] theorem WorkUnit.goto_fblock (w : WorkUnit) (t : BitVec 57) : (w.goto t).fblock = none := rfl
@[simp] theorem WorkUnit.goto_seq (w : WorkUnit) (t : BitVec 57) : (w.goto t).seq = w.seq := rfl
@[simp] theorem WorkUnit.goto_held (w : WorkUnit) (t : BitVec 57) : (w.goto t).held = w.held := rfl
@[simp] theorem WorkUnit.goto_winWait (w : WorkUnit) (t : BitVec 57) : (w.goto t).winWait = w.winWait := rfl
@[simp] theorem WorkUnit.goto_poisoned (w : WorkUnit) (t : BitVec 57) : (w.goto t).poisoned = w.poisoned := rfl
@[simp] theorem WorkUnit.goto_faulted (w : WorkUnit) (t : BitVec 57) : (w.goto t).faulted = w.faulted := rfl
@[simp] theorem WorkUnit.goto_cause (w : WorkUnit) (t : BitVec 57) : (w.goto t).cause = w.cause := rfl
@[simp] theorem WorkUnit.goto_cancelled (w : WorkUnit) (t : BitVec 57) : (w.goto t).cancelled = w.cancelled := rfl
@[simp] theorem WorkUnit.goto_yieldRd (w : WorkUnit) (t : BitVec 57) : (w.goto t).yieldRd = w.yieldRd := rfl
@[simp] theorem WorkUnit.goto_life (w : WorkUnit) (t : BitVec 57) : (w.goto t).life = w.life := rfl
@[simp] theorem WorkUnit.goto_forBoundary (w : WorkUnit) (t : BitVec 57) : (w.goto t).forBoundary = w.forBoundary := rfl
@[simp] theorem WorkUnit.goto_feWait (w : WorkUnit) (t : BitVec 57) : (w.goto t).feWait = w.feWait := rfl

@[simp] theorem WorkUnit.enter_launch (w : WorkUnit) (r : BitVec 57) (c : BitVec 16) (v : Word) : (w.enter r c v).launch = w.launch := rfl
@[simp] theorem WorkUnit.enter_tp (w : WorkUnit) (r : BitVec 57) (c : BitVec 16) (v : Word) : (w.enter r c v).tp = w.tp := rfl
@[simp] theorem WorkUnit.enter_home (w : WorkUnit) (r : BitVec 57) (c : BitVec 16) (v : Word) : (w.enter r c v).home = w.home := rfl
@[simp] theorem WorkUnit.enter_asid (w : WorkUnit) (r : BitVec 57) (c : BitVec 16) (v : Word) : (w.enter r c v).asid = w.asid := rfl
@[simp] theorem WorkUnit.enter_job (w : WorkUnit) (r : BitVec 57) (c : BitVec 16) (v : Word) : (w.enter r c v).job = w.job := rfl
@[simp] theorem WorkUnit.enter_cpath (w : WorkUnit) (r : BitVec 57) (c : BitVec 16) (v : Word) : (w.enter r c v).cpath = w.cpath := rfl
@[simp] theorem WorkUnit.enter_pc (w : WorkUnit) (r : BitVec 57) (c : BitVec 16) (v : Word) : (w.enter r c v).pc = w.hvecVec ++ (0 : BitVec 6) := rfl
@[simp] theorem WorkUnit.enter_regs (w : WorkUnit) (r : BitVec 57) (c : BitVec 16) (v : Word) : (w.enter r c v).regs = w.regs := rfl
@[simp] theorem WorkUnit.enter_preds (w : WorkUnit) (r : BitVec 57) (c : BitVec 16) (v : Word) : (w.enter r c v).preds = w.preds := rfl
@[simp] theorem WorkUnit.enter_seeds (w : WorkUnit) (r : BitVec 57) (c : BitVec 16) (v : Word) : (w.enter r c v).seeds = w.seeds := rfl
@[simp] theorem WorkUnit.enter_hmode (w : WorkUnit) (r : BitVec 57) (c : BitVec 16) (v : Word) : (w.enter r c v).hmode = true := rfl
@[simp] theorem WorkUnit.enter_ntfc (w : WorkUnit) (r : BitVec 57) (c : BitVec 16) (v : Word) : (w.enter r c v).ntfc = w.ntfc := rfl
@[simp] theorem WorkUnit.enter_wto (w : WorkUnit) (r : BitVec 57) (c : BitVec 16) (v : Word) : (w.enter r c v).wto = w.wto := rfl
@[simp] theorem WorkUnit.enter_req (w : WorkUnit) (r : BitVec 57) (c : BitVec 16) (v : Word) : (w.enter r c v).req = w.req := rfl
@[simp] theorem WorkUnit.enter_deadline (w : WorkUnit) (r : BitVec 57) (c : BitVec 16) (v : Word) : (w.enter r c v).deadline = w.deadline := rfl
@[simp] theorem WorkUnit.enter_hvecVec (w : WorkUnit) (r : BitVec 57) (c : BitVec 16) (v : Word) : (w.enter r c v).hvecVec = w.hvecVec := rfl
@[simp] theorem WorkUnit.enter_hvecEn (w : WorkUnit) (r : BitVec 57) (c : BitVec 16) (v : Word) : (w.enter r c v).hvecEn = w.hvecEn := rfl
@[simp] theorem WorkUnit.enter_hepc (w : WorkUnit) (r : BitVec 57) (c : BitVec 16) (v : Word) : (w.enter r c v).hepc = r := rfl
@[simp] theorem WorkUnit.enter_hcause (w : WorkUnit) (r : BitVec 57) (c : BitVec 16) (v : Word) : (w.enter r c v).hcause = c := rfl
@[simp] theorem WorkUnit.enter_hval (w : WorkUnit) (r : BitVec 57) (c : BitVec 16) (v : Word) : (w.enter r c v).hval = v := rfl
@[simp] theorem WorkUnit.enter_hscr (w : WorkUnit) (r : BitVec 57) (c : BitVec 16) (v : Word) : (w.enter r c v).hscr = w.hscr := rfl
@[simp] theorem WorkUnit.enter_fblock (w : WorkUnit) (r : BitVec 57) (c : BitVec 16) (v : Word) : (w.enter r c v).fblock = none := rfl
@[simp] theorem WorkUnit.enter_seq (w : WorkUnit) (r : BitVec 57) (c : BitVec 16) (v : Word) : (w.enter r c v).seq = .run := rfl
@[simp] theorem WorkUnit.enter_held (w : WorkUnit) (r : BitVec 57) (c : BitVec 16) (v : Word) : (w.enter r c v).held = none := rfl
@[simp] theorem WorkUnit.enter_winWait (w : WorkUnit) (r : BitVec 57) (c : BitVec 16) (v : Word) : (w.enter r c v).winWait = w.winWait := rfl
@[simp] theorem WorkUnit.enter_poisoned (w : WorkUnit) (r : BitVec 57) (c : BitVec 16) (v : Word) : (w.enter r c v).poisoned = w.poisoned := rfl
@[simp] theorem WorkUnit.enter_faulted (w : WorkUnit) (r : BitVec 57) (c : BitVec 16) (v : Word) : (w.enter r c v).faulted = w.faulted := rfl
@[simp] theorem WorkUnit.enter_cause (w : WorkUnit) (r : BitVec 57) (c : BitVec 16) (v : Word) : (w.enter r c v).cause = w.cause := rfl
@[simp] theorem WorkUnit.enter_cancelled (w : WorkUnit) (r : BitVec 57) (c : BitVec 16) (v : Word) : (w.enter r c v).cancelled = w.cancelled := rfl
@[simp] theorem WorkUnit.enter_yieldRd (w : WorkUnit) (r : BitVec 57) (c : BitVec 16) (v : Word) : (w.enter r c v).yieldRd = w.yieldRd := rfl
@[simp] theorem WorkUnit.enter_life (w : WorkUnit) (r : BitVec 57) (c : BitVec 16) (v : Word) : (w.enter r c v).life = w.life := rfl
@[simp] theorem WorkUnit.enter_forBoundary (w : WorkUnit) (r : BitVec 57) (c : BitVec 16) (v : Word) : (w.enter r c v).forBoundary = w.forBoundary := rfl
@[simp] theorem WorkUnit.enter_feWait (w : WorkUnit) (r : BitVec 57) (c : BitVec 16) (v : Word) : (w.enter r c v).feWait = w.feWait := rfl

@[simp] theorem WorkUnit.die_launch (w : WorkUnit) (c : BitVec 16) : (w.die c).launch = w.launch := rfl
@[simp] theorem WorkUnit.die_tp (w : WorkUnit) (c : BitVec 16) : (w.die c).tp = w.tp := rfl
@[simp] theorem WorkUnit.die_home (w : WorkUnit) (c : BitVec 16) : (w.die c).home = w.home := rfl
@[simp] theorem WorkUnit.die_asid (w : WorkUnit) (c : BitVec 16) : (w.die c).asid = w.asid := rfl
@[simp] theorem WorkUnit.die_job (w : WorkUnit) (c : BitVec 16) : (w.die c).job = w.job := rfl
@[simp] theorem WorkUnit.die_cpath (w : WorkUnit) (c : BitVec 16) : (w.die c).cpath = w.cpath := rfl
@[simp] theorem WorkUnit.die_pc (w : WorkUnit) (c : BitVec 16) : (w.die c).pc = w.pc := rfl
@[simp] theorem WorkUnit.die_regs (w : WorkUnit) (c : BitVec 16) : (w.die c).regs = w.regs := rfl
@[simp] theorem WorkUnit.die_preds (w : WorkUnit) (c : BitVec 16) : (w.die c).preds = w.preds := rfl
@[simp] theorem WorkUnit.die_seeds (w : WorkUnit) (c : BitVec 16) : (w.die c).seeds = w.seeds := rfl
@[simp] theorem WorkUnit.die_hmode (w : WorkUnit) (c : BitVec 16) : (w.die c).hmode = w.hmode := rfl
@[simp] theorem WorkUnit.die_ntfc (w : WorkUnit) (c : BitVec 16) : (w.die c).ntfc = w.ntfc := rfl
@[simp] theorem WorkUnit.die_wto (w : WorkUnit) (c : BitVec 16) : (w.die c).wto = w.wto := rfl
@[simp] theorem WorkUnit.die_req (w : WorkUnit) (c : BitVec 16) : (w.die c).req = w.req := rfl
@[simp] theorem WorkUnit.die_deadline (w : WorkUnit) (c : BitVec 16) : (w.die c).deadline = w.deadline := rfl
@[simp] theorem WorkUnit.die_hvecVec (w : WorkUnit) (c : BitVec 16) : (w.die c).hvecVec = w.hvecVec := rfl
@[simp] theorem WorkUnit.die_hvecEn (w : WorkUnit) (c : BitVec 16) : (w.die c).hvecEn = w.hvecEn := rfl
@[simp] theorem WorkUnit.die_hepc (w : WorkUnit) (c : BitVec 16) : (w.die c).hepc = w.hepc := rfl
@[simp] theorem WorkUnit.die_hcause (w : WorkUnit) (c : BitVec 16) : (w.die c).hcause = w.hcause := rfl
@[simp] theorem WorkUnit.die_hval (w : WorkUnit) (c : BitVec 16) : (w.die c).hval = w.hval := rfl
@[simp] theorem WorkUnit.die_hscr (w : WorkUnit) (c : BitVec 16) : (w.die c).hscr = w.hscr := rfl
@[simp] theorem WorkUnit.die_fblock (w : WorkUnit) (c : BitVec 16) : (w.die c).fblock = w.fblock := rfl
@[simp] theorem WorkUnit.die_seq (w : WorkUnit) (c : BitVec 16) : (w.die c).seq = .dead := rfl
@[simp] theorem WorkUnit.die_held (w : WorkUnit) (c : BitVec 16) : (w.die c).held = none := rfl
@[simp] theorem WorkUnit.die_winWait (w : WorkUnit) (c : BitVec 16) : (w.die c).winWait = w.winWait := rfl
@[simp] theorem WorkUnit.die_poisoned (w : WorkUnit) (c : BitVec 16) : (w.die c).poisoned = w.poisoned := rfl
@[simp] theorem WorkUnit.die_faulted (w : WorkUnit) (c : BitVec 16) : (w.die c).faulted = true := rfl
@[simp] theorem WorkUnit.die_cause (w : WorkUnit) (c : BitVec 16) : (w.die c).cause = if w.faulted then w.cause else c := rfl
@[simp] theorem WorkUnit.die_cancelled (w : WorkUnit) (c : BitVec 16) : (w.die c).cancelled = w.cancelled := rfl
@[simp] theorem WorkUnit.die_yieldRd (w : WorkUnit) (c : BitVec 16) : (w.die c).yieldRd = w.yieldRd := rfl
@[simp] theorem WorkUnit.die_life (w : WorkUnit) (c : BitVec 16) : (w.die c).life = w.life := rfl
@[simp] theorem WorkUnit.die_forBoundary (w : WorkUnit) (c : BitVec 16) : (w.die c).forBoundary = w.forBoundary := rfl
@[simp] theorem WorkUnit.die_feWait (w : WorkUnit) (c : BitVec 16) : (w.die c).feWait = w.feWait := rfl

@[simp] theorem WorkUnit.leave_launch (w : WorkUnit) : (w.leave).launch = w.launch := rfl
@[simp] theorem WorkUnit.leave_tp (w : WorkUnit) : (w.leave).tp = w.tp := rfl
@[simp] theorem WorkUnit.leave_home (w : WorkUnit) : (w.leave).home = w.home := rfl
@[simp] theorem WorkUnit.leave_asid (w : WorkUnit) : (w.leave).asid = w.asid := rfl
@[simp] theorem WorkUnit.leave_job (w : WorkUnit) : (w.leave).job = w.job := rfl
@[simp] theorem WorkUnit.leave_cpath (w : WorkUnit) : (w.leave).cpath = w.cpath := rfl
@[simp] theorem WorkUnit.leave_pc (w : WorkUnit) : (w.leave).pc = w.hepc.extractLsb' 2 55 ++ (0 : BitVec 2) := rfl
@[simp] theorem WorkUnit.leave_regs (w : WorkUnit) : (w.leave).regs = w.regs := rfl
@[simp] theorem WorkUnit.leave_preds (w : WorkUnit) : (w.leave).preds = w.preds := rfl
@[simp] theorem WorkUnit.leave_seeds (w : WorkUnit) : (w.leave).seeds = w.seeds := rfl
@[simp] theorem WorkUnit.leave_hmode (w : WorkUnit) : (w.leave).hmode = false := rfl
@[simp] theorem WorkUnit.leave_ntfc (w : WorkUnit) : (w.leave).ntfc = w.ntfc := rfl
@[simp] theorem WorkUnit.leave_wto (w : WorkUnit) : (w.leave).wto = w.wto := rfl
@[simp] theorem WorkUnit.leave_req (w : WorkUnit) : (w.leave).req = w.req := rfl
@[simp] theorem WorkUnit.leave_deadline (w : WorkUnit) : (w.leave).deadline = w.deadline := rfl
@[simp] theorem WorkUnit.leave_hvecVec (w : WorkUnit) : (w.leave).hvecVec = w.hvecVec := rfl
@[simp] theorem WorkUnit.leave_hvecEn (w : WorkUnit) : (w.leave).hvecEn = w.hvecEn := rfl
@[simp] theorem WorkUnit.leave_hepc (w : WorkUnit) : (w.leave).hepc = w.hepc := rfl
@[simp] theorem WorkUnit.leave_hcause (w : WorkUnit) : (w.leave).hcause = w.hcause := rfl
@[simp] theorem WorkUnit.leave_hval (w : WorkUnit) : (w.leave).hval = w.hval := rfl
@[simp] theorem WorkUnit.leave_hscr (w : WorkUnit) : (w.leave).hscr = w.hscr := rfl
@[simp] theorem WorkUnit.leave_fblock (w : WorkUnit) : (w.leave).fblock = none := rfl
@[simp] theorem WorkUnit.leave_seq (w : WorkUnit) : (w.leave).seq = w.seq := rfl
@[simp] theorem WorkUnit.leave_held (w : WorkUnit) : (w.leave).held = w.held := rfl
@[simp] theorem WorkUnit.leave_winWait (w : WorkUnit) : (w.leave).winWait = w.winWait := rfl
@[simp] theorem WorkUnit.leave_poisoned (w : WorkUnit) : (w.leave).poisoned = w.poisoned := rfl
@[simp] theorem WorkUnit.leave_faulted (w : WorkUnit) : (w.leave).faulted = w.faulted := rfl
@[simp] theorem WorkUnit.leave_cause (w : WorkUnit) : (w.leave).cause = w.cause := rfl
@[simp] theorem WorkUnit.leave_cancelled (w : WorkUnit) : (w.leave).cancelled = w.cancelled := rfl
@[simp] theorem WorkUnit.leave_yieldRd (w : WorkUnit) : (w.leave).yieldRd = w.yieldRd := rfl
@[simp] theorem WorkUnit.leave_life (w : WorkUnit) : (w.leave).life = w.life := rfl
@[simp] theorem WorkUnit.leave_forBoundary (w : WorkUnit) : (w.leave).forBoundary = w.forBoundary := rfl
@[simp] theorem WorkUnit.leave_feWait (w : WorkUnit) : (w.leave).feWait = w.feWait := rfl

@[simp] theorem WorkUnit.setSeed_launch (w : WorkUnit) (g : SeedReg) (v : Word) : (w.setSeed g v).launch = w.launch := rfl
@[simp] theorem WorkUnit.setSeed_tp (w : WorkUnit) (g : SeedReg) (v : Word) : (w.setSeed g v).tp = w.tp := rfl
@[simp] theorem WorkUnit.setSeed_home (w : WorkUnit) (g : SeedReg) (v : Word) : (w.setSeed g v).home = w.home := rfl
@[simp] theorem WorkUnit.setSeed_asid (w : WorkUnit) (g : SeedReg) (v : Word) : (w.setSeed g v).asid = w.asid := rfl
@[simp] theorem WorkUnit.setSeed_job (w : WorkUnit) (g : SeedReg) (v : Word) : (w.setSeed g v).job = w.job := rfl
@[simp] theorem WorkUnit.setSeed_cpath (w : WorkUnit) (g : SeedReg) (v : Word) : (w.setSeed g v).cpath = w.cpath := rfl
@[simp] theorem WorkUnit.setSeed_pc (w : WorkUnit) (g : SeedReg) (v : Word) : (w.setSeed g v).pc = w.pc := rfl
@[simp] theorem WorkUnit.setSeed_regs (w : WorkUnit) (g : SeedReg) (v : Word) : (w.setSeed g v).regs = w.regs := rfl
@[simp] theorem WorkUnit.setSeed_preds (w : WorkUnit) (g : SeedReg) (v : Word) : (w.setSeed g v).preds = w.preds := rfl
@[simp] theorem WorkUnit.setSeed_seeds (w : WorkUnit) (g : SeedReg) (v : Word) : (w.setSeed g v).seeds = w.seeds.set g.toNat v := rfl
@[simp] theorem WorkUnit.setSeed_hmode (w : WorkUnit) (g : SeedReg) (v : Word) : (w.setSeed g v).hmode = w.hmode := rfl
@[simp] theorem WorkUnit.setSeed_ntfc (w : WorkUnit) (g : SeedReg) (v : Word) : (w.setSeed g v).ntfc = w.ntfc := rfl
@[simp] theorem WorkUnit.setSeed_wto (w : WorkUnit) (g : SeedReg) (v : Word) : (w.setSeed g v).wto = w.wto := rfl
@[simp] theorem WorkUnit.setSeed_req (w : WorkUnit) (g : SeedReg) (v : Word) : (w.setSeed g v).req = w.req := rfl
@[simp] theorem WorkUnit.setSeed_deadline (w : WorkUnit) (g : SeedReg) (v : Word) : (w.setSeed g v).deadline = w.deadline := rfl
@[simp] theorem WorkUnit.setSeed_hvecVec (w : WorkUnit) (g : SeedReg) (v : Word) : (w.setSeed g v).hvecVec = w.hvecVec := rfl
@[simp] theorem WorkUnit.setSeed_hvecEn (w : WorkUnit) (g : SeedReg) (v : Word) : (w.setSeed g v).hvecEn = w.hvecEn := rfl
@[simp] theorem WorkUnit.setSeed_hepc (w : WorkUnit) (g : SeedReg) (v : Word) : (w.setSeed g v).hepc = w.hepc := rfl
@[simp] theorem WorkUnit.setSeed_hcause (w : WorkUnit) (g : SeedReg) (v : Word) : (w.setSeed g v).hcause = w.hcause := rfl
@[simp] theorem WorkUnit.setSeed_hval (w : WorkUnit) (g : SeedReg) (v : Word) : (w.setSeed g v).hval = w.hval := rfl
@[simp] theorem WorkUnit.setSeed_hscr (w : WorkUnit) (g : SeedReg) (v : Word) : (w.setSeed g v).hscr = w.hscr := rfl
@[simp] theorem WorkUnit.setSeed_fblock (w : WorkUnit) (g : SeedReg) (v : Word) : (w.setSeed g v).fblock = w.fblock := rfl
@[simp] theorem WorkUnit.setSeed_seq (w : WorkUnit) (g : SeedReg) (v : Word) : (w.setSeed g v).seq = w.seq := rfl
@[simp] theorem WorkUnit.setSeed_held (w : WorkUnit) (g : SeedReg) (v : Word) : (w.setSeed g v).held = w.held := rfl
@[simp] theorem WorkUnit.setSeed_winWait (w : WorkUnit) (g : SeedReg) (v : Word) : (w.setSeed g v).winWait = w.winWait := rfl
@[simp] theorem WorkUnit.setSeed_poisoned (w : WorkUnit) (g : SeedReg) (v : Word) : (w.setSeed g v).poisoned = w.poisoned := rfl
@[simp] theorem WorkUnit.setSeed_faulted (w : WorkUnit) (g : SeedReg) (v : Word) : (w.setSeed g v).faulted = w.faulted := rfl
@[simp] theorem WorkUnit.setSeed_cause (w : WorkUnit) (g : SeedReg) (v : Word) : (w.setSeed g v).cause = w.cause := rfl
@[simp] theorem WorkUnit.setSeed_cancelled (w : WorkUnit) (g : SeedReg) (v : Word) : (w.setSeed g v).cancelled = w.cancelled := rfl
@[simp] theorem WorkUnit.setSeed_yieldRd (w : WorkUnit) (g : SeedReg) (v : Word) : (w.setSeed g v).yieldRd = w.yieldRd := rfl
@[simp] theorem WorkUnit.setSeed_life (w : WorkUnit) (g : SeedReg) (v : Word) : (w.setSeed g v).life = w.life := rfl
@[simp] theorem WorkUnit.setSeed_forBoundary (w : WorkUnit) (g : SeedReg) (v : Word) : (w.setSeed g v).forBoundary = w.forBoundary := rfl
@[simp] theorem WorkUnit.setSeed_feWait (w : WorkUnit) (g : SeedReg) (v : Word) : (w.setSeed g v).feWait = w.feWait := rfl

@[simp] theorem WorkUnit.setPred_launch (w : WorkUnit) (p : Pred) (b : Bool) : (w.setPred p b).launch = w.launch := rfl
@[simp] theorem WorkUnit.setPred_tp (w : WorkUnit) (p : Pred) (b : Bool) : (w.setPred p b).tp = w.tp := rfl
@[simp] theorem WorkUnit.setPred_home (w : WorkUnit) (p : Pred) (b : Bool) : (w.setPred p b).home = w.home := rfl
@[simp] theorem WorkUnit.setPred_asid (w : WorkUnit) (p : Pred) (b : Bool) : (w.setPred p b).asid = w.asid := rfl
@[simp] theorem WorkUnit.setPred_job (w : WorkUnit) (p : Pred) (b : Bool) : (w.setPred p b).job = w.job := rfl
@[simp] theorem WorkUnit.setPred_cpath (w : WorkUnit) (p : Pred) (b : Bool) : (w.setPred p b).cpath = w.cpath := rfl
@[simp] theorem WorkUnit.setPred_pc (w : WorkUnit) (p : Pred) (b : Bool) : (w.setPred p b).pc = w.pc := rfl
@[simp] theorem WorkUnit.setPred_regs (w : WorkUnit) (p : Pred) (b : Bool) : (w.setPred p b).regs = w.regs := rfl
@[simp] theorem WorkUnit.setPred_seeds (w : WorkUnit) (p : Pred) (b : Bool) : (w.setPred p b).seeds = w.seeds := rfl
@[simp] theorem WorkUnit.setPred_hmode (w : WorkUnit) (p : Pred) (b : Bool) : (w.setPred p b).hmode = w.hmode := rfl
@[simp] theorem WorkUnit.setPred_ntfc (w : WorkUnit) (p : Pred) (b : Bool) : (w.setPred p b).ntfc = w.ntfc := rfl
@[simp] theorem WorkUnit.setPred_wto (w : WorkUnit) (p : Pred) (b : Bool) : (w.setPred p b).wto = w.wto := rfl
@[simp] theorem WorkUnit.setPred_req (w : WorkUnit) (p : Pred) (b : Bool) : (w.setPred p b).req = w.req := rfl
@[simp] theorem WorkUnit.setPred_deadline (w : WorkUnit) (p : Pred) (b : Bool) : (w.setPred p b).deadline = w.deadline := rfl
@[simp] theorem WorkUnit.setPred_hvecVec (w : WorkUnit) (p : Pred) (b : Bool) : (w.setPred p b).hvecVec = w.hvecVec := rfl
@[simp] theorem WorkUnit.setPred_hvecEn (w : WorkUnit) (p : Pred) (b : Bool) : (w.setPred p b).hvecEn = w.hvecEn := rfl
@[simp] theorem WorkUnit.setPred_hepc (w : WorkUnit) (p : Pred) (b : Bool) : (w.setPred p b).hepc = w.hepc := rfl
@[simp] theorem WorkUnit.setPred_hcause (w : WorkUnit) (p : Pred) (b : Bool) : (w.setPred p b).hcause = w.hcause := rfl
@[simp] theorem WorkUnit.setPred_hval (w : WorkUnit) (p : Pred) (b : Bool) : (w.setPred p b).hval = w.hval := rfl
@[simp] theorem WorkUnit.setPred_hscr (w : WorkUnit) (p : Pred) (b : Bool) : (w.setPred p b).hscr = w.hscr := rfl
@[simp] theorem WorkUnit.setPred_fblock (w : WorkUnit) (p : Pred) (b : Bool) : (w.setPred p b).fblock = w.fblock := rfl
@[simp] theorem WorkUnit.setPred_seq (w : WorkUnit) (p : Pred) (b : Bool) : (w.setPred p b).seq = w.seq := rfl
@[simp] theorem WorkUnit.setPred_held (w : WorkUnit) (p : Pred) (b : Bool) : (w.setPred p b).held = w.held := rfl
@[simp] theorem WorkUnit.setPred_winWait (w : WorkUnit) (p : Pred) (b : Bool) : (w.setPred p b).winWait = w.winWait := rfl
@[simp] theorem WorkUnit.setPred_poisoned (w : WorkUnit) (p : Pred) (b : Bool) : (w.setPred p b).poisoned = w.poisoned := rfl
@[simp] theorem WorkUnit.setPred_faulted (w : WorkUnit) (p : Pred) (b : Bool) : (w.setPred p b).faulted = w.faulted := rfl
@[simp] theorem WorkUnit.setPred_cause (w : WorkUnit) (p : Pred) (b : Bool) : (w.setPred p b).cause = w.cause := rfl
@[simp] theorem WorkUnit.setPred_cancelled (w : WorkUnit) (p : Pred) (b : Bool) : (w.setPred p b).cancelled = w.cancelled := rfl
@[simp] theorem WorkUnit.setPred_yieldRd (w : WorkUnit) (p : Pred) (b : Bool) : (w.setPred p b).yieldRd = w.yieldRd := rfl
@[simp] theorem WorkUnit.setPred_life (w : WorkUnit) (p : Pred) (b : Bool) : (w.setPred p b).life = w.life := rfl
@[simp] theorem WorkUnit.setPred_forBoundary (w : WorkUnit) (p : Pred) (b : Bool) : (w.setPred p b).forBoundary = w.forBoundary := rfl
@[simp] theorem WorkUnit.setPred_feWait (w : WorkUnit) (p : Pred) (b : Bool) : (w.setPred p b).feWait = w.feWait := rfl

@[simp] theorem WorkUnit.setReg_launch (w : WorkUnit) (r : Reg) (v : Word) : (w.setReg r v).launch = w.launch := by unfold WorkUnit.setReg; split <;> rfl
@[simp] theorem WorkUnit.setReg_tp (w : WorkUnit) (r : Reg) (v : Word) : (w.setReg r v).tp = w.tp := by unfold WorkUnit.setReg; split <;> rfl
@[simp] theorem WorkUnit.setReg_home (w : WorkUnit) (r : Reg) (v : Word) : (w.setReg r v).home = w.home := by unfold WorkUnit.setReg; split <;> rfl
@[simp] theorem WorkUnit.setReg_asid (w : WorkUnit) (r : Reg) (v : Word) : (w.setReg r v).asid = w.asid := by unfold WorkUnit.setReg; split <;> rfl
@[simp] theorem WorkUnit.setReg_job (w : WorkUnit) (r : Reg) (v : Word) : (w.setReg r v).job = w.job := by unfold WorkUnit.setReg; split <;> rfl
@[simp] theorem WorkUnit.setReg_cpath (w : WorkUnit) (r : Reg) (v : Word) : (w.setReg r v).cpath = w.cpath := by unfold WorkUnit.setReg; split <;> rfl
@[simp] theorem WorkUnit.setReg_pc (w : WorkUnit) (r : Reg) (v : Word) : (w.setReg r v).pc = w.pc := by unfold WorkUnit.setReg; split <;> rfl
@[simp] theorem WorkUnit.setReg_preds (w : WorkUnit) (r : Reg) (v : Word) : (w.setReg r v).preds = w.preds := by unfold WorkUnit.setReg; split <;> rfl
@[simp] theorem WorkUnit.setReg_seeds (w : WorkUnit) (r : Reg) (v : Word) : (w.setReg r v).seeds = w.seeds := by unfold WorkUnit.setReg; split <;> rfl
@[simp] theorem WorkUnit.setReg_hmode (w : WorkUnit) (r : Reg) (v : Word) : (w.setReg r v).hmode = w.hmode := by unfold WorkUnit.setReg; split <;> rfl
@[simp] theorem WorkUnit.setReg_ntfc (w : WorkUnit) (r : Reg) (v : Word) : (w.setReg r v).ntfc = w.ntfc := by unfold WorkUnit.setReg; split <;> rfl
@[simp] theorem WorkUnit.setReg_wto (w : WorkUnit) (r : Reg) (v : Word) : (w.setReg r v).wto = w.wto := by unfold WorkUnit.setReg; split <;> rfl
@[simp] theorem WorkUnit.setReg_req (w : WorkUnit) (r : Reg) (v : Word) : (w.setReg r v).req = w.req := by unfold WorkUnit.setReg; split <;> rfl
@[simp] theorem WorkUnit.setReg_deadline (w : WorkUnit) (r : Reg) (v : Word) : (w.setReg r v).deadline = w.deadline := by unfold WorkUnit.setReg; split <;> rfl
@[simp] theorem WorkUnit.setReg_hvecVec (w : WorkUnit) (r : Reg) (v : Word) : (w.setReg r v).hvecVec = w.hvecVec := by unfold WorkUnit.setReg; split <;> rfl
@[simp] theorem WorkUnit.setReg_hvecEn (w : WorkUnit) (r : Reg) (v : Word) : (w.setReg r v).hvecEn = w.hvecEn := by unfold WorkUnit.setReg; split <;> rfl
@[simp] theorem WorkUnit.setReg_hepc (w : WorkUnit) (r : Reg) (v : Word) : (w.setReg r v).hepc = w.hepc := by unfold WorkUnit.setReg; split <;> rfl
@[simp] theorem WorkUnit.setReg_hcause (w : WorkUnit) (r : Reg) (v : Word) : (w.setReg r v).hcause = w.hcause := by unfold WorkUnit.setReg; split <;> rfl
@[simp] theorem WorkUnit.setReg_hval (w : WorkUnit) (r : Reg) (v : Word) : (w.setReg r v).hval = w.hval := by unfold WorkUnit.setReg; split <;> rfl
@[simp] theorem WorkUnit.setReg_hscr (w : WorkUnit) (r : Reg) (v : Word) : (w.setReg r v).hscr = w.hscr := by unfold WorkUnit.setReg; split <;> rfl
@[simp] theorem WorkUnit.setReg_fblock (w : WorkUnit) (r : Reg) (v : Word) : (w.setReg r v).fblock = w.fblock := by unfold WorkUnit.setReg; split <;> rfl
@[simp] theorem WorkUnit.setReg_seq (w : WorkUnit) (r : Reg) (v : Word) : (w.setReg r v).seq = w.seq := by unfold WorkUnit.setReg; split <;> rfl
@[simp] theorem WorkUnit.setReg_held (w : WorkUnit) (r : Reg) (v : Word) : (w.setReg r v).held = w.held := by unfold WorkUnit.setReg; split <;> rfl
@[simp] theorem WorkUnit.setReg_winWait (w : WorkUnit) (r : Reg) (v : Word) : (w.setReg r v).winWait = w.winWait := by unfold WorkUnit.setReg; split <;> rfl
@[simp] theorem WorkUnit.setReg_poisoned (w : WorkUnit) (r : Reg) (v : Word) : (w.setReg r v).poisoned = w.poisoned := by unfold WorkUnit.setReg; split <;> rfl
@[simp] theorem WorkUnit.setReg_faulted (w : WorkUnit) (r : Reg) (v : Word) : (w.setReg r v).faulted = w.faulted := by unfold WorkUnit.setReg; split <;> rfl
@[simp] theorem WorkUnit.setReg_cause (w : WorkUnit) (r : Reg) (v : Word) : (w.setReg r v).cause = w.cause := by unfold WorkUnit.setReg; split <;> rfl
@[simp] theorem WorkUnit.setReg_cancelled (w : WorkUnit) (r : Reg) (v : Word) : (w.setReg r v).cancelled = w.cancelled := by unfold WorkUnit.setReg; split <;> rfl
@[simp] theorem WorkUnit.setReg_yieldRd (w : WorkUnit) (r : Reg) (v : Word) : (w.setReg r v).yieldRd = w.yieldRd := by unfold WorkUnit.setReg; split <;> rfl
@[simp] theorem WorkUnit.setReg_life (w : WorkUnit) (r : Reg) (v : Word) : (w.setReg r v).life = w.life := by unfold WorkUnit.setReg; split <;> rfl
@[simp] theorem WorkUnit.setReg_forBoundary (w : WorkUnit) (r : Reg) (v : Word) : (w.setReg r v).forBoundary = w.forBoundary := by unfold WorkUnit.setReg; split <;> rfl
@[simp] theorem WorkUnit.setReg_feWait (w : WorkUnit) (r : Reg) (v : Word) : (w.setReg r v).feWait = w.feWait := by unfold WorkUnit.setReg; split <;> rfl

/-- s0 reads zero (R231). -/
@[simp] theorem WorkUnit.reg_zero (w : WorkUnit) : w.reg 0 = 0 := rfl

/-- A write to s0 is discarded (R119). -/
@[simp] theorem WorkUnit.setReg_zero (w : WorkUnit) (v : Word) : w.setReg 0 v = w := rfl

/-- A register that was written reads as what was written. -/
theorem WorkUnit.reg_setReg_same (w : WorkUnit) (r : Reg) (v : Word) (h : r ≠ 0) : (w.setReg r v).reg r = v := by
  unfold WorkUnit.reg WorkUnit.setReg
  rw [if_neg h, if_neg h]
  simp

/-- Every other register reads as before. -/
theorem WorkUnit.reg_setReg_other (w : WorkUnit) (r k : Reg) (v : Word) (h : k ≠ r) : (w.setReg r v).reg k = w.reg k := by
  unfold WorkUnit.setReg
  split
  · rfl
  · have hk : r.toNat ≠ k.toNat := fun e => h (BitVec.eq_of_toNat_eq e.symm)
    unfold WorkUnit.reg
    split
    · rfl
    · exact Vector.getElem_set_ne r.isLt k.isLt hk

/-- The registers depend on nothing but the register file. -/
theorem WorkUnit.reg_congr (w w' : WorkUnit) (r : Reg) (h : w.regs = w'.regs) : w.reg r = w'.reg r := by
  simp [WorkUnit.reg, h]

/-- A unit that was put reads back. -/
@[simp] theorem kget_putUnit (s : State) (u : UnitId) (w : WorkUnit) : kget (putUnit s u w).units u = some w := by simp

theorem kget_putUnit_other (s : State) {u v : UnitId} (w : WorkUnit) (h : v ≠ u) : kget (putUnit s u w).units v = kget s.units v := by
  simp [kget_kput_other, h]

end Sys2Proof.Machine
end

