-- ==== Sys2Proof/Laws/Scalar.lean ====
section
/-! SUPPORT. What the shared operations of the scalar instructions do, said once: arithmetic, the unit that acts, control and status registers, and accesses
of one piece of memory. The prover of a statement about a scalar instruction cites these. -/

set_option Elab.async false

namespace Sys2Proof.Machine

open Sys2Proof.Safety

/-! ## Arithmetic -/

theorem signExtend_eq_ofInt {n m : Nat} (x : BitVec n) : x.signExtend m = BitVec.ofInt m x.toInt := rfl

theorem ofInt_toNat_self {n : Nat} (x : BitVec n) : BitVec.ofInt n x.toNat = x := by
  apply BitVec.eq_of_toNat_eq; simp

theorem mulHigh_eq_ofInt (a b : Word) : mulHigh a b = BitVec.ofInt 64 (a.toInt * b.toInt / 2 ^ 64) := by
  have hx : a.signExtend 128 * b.signExtend 128 = BitVec.ofInt 128 (a.toInt * b.toInt) := by rw [BitVec.ofInt_mul]; rfl
  unfold mulHigh
  rw [hx]
  generalize a.toInt * b.toInt = y
  apply BitVec.eq_of_toNat_eq
  simp only [BitVec.extractLsb'_toNat, BitVec.toNat_ofInt, Nat.shiftRight_eq_div_pow]
  norm_num
  omega

theorem sshiftRight_eq_ofInt (a : Word) (n : Nat) : a.sshiftRight n = BitVec.ofInt 64 (a.toInt / 2 ^ n) := by
  unfold BitVec.sshiftRight; rw [Int.shiftRight_eq_div_pow]; norm_num

theorem sdiv_eq_ofInt (a b : Word) : a.sdiv b = BitVec.ofInt 64 (a.toInt.tdiv b.toInt) := by
  apply BitVec.eq_of_toInt_eq; rw [BitVec.toInt_sdiv, BitVec.toInt_ofInt]

theorem srem_eq_ofInt (a b : Word) : a.srem b = BitVec.ofInt 64 (a.toInt.tmod b.toInt) := by
  rw [← BitVec.toInt_srem, BitVec.ofInt_toInt]

/-- A relative target (R240). -/
theorem relTarget_eq_ofInt {n : Nat} (pc : BitVec 57) (off : BitVec n) :
    relTarget pc (off.signExtend 57) = BitVec.ofInt 57 (pc.toNat + 4 * off.toInt) := by
  rw [relTarget, BitVec.ofInt_add, ofInt_toNat_self, BitVec.ofInt_mul, signExtend_eq_ofInt]
  congr 1
  apply BitVec.eq_of_toNat_eq
  rw [BitVec.toNat_shiftLeft, BitVec.toNat_mul, Nat.shiftLeft_eq, Nat.mul_comm]; rfl

theorem setWidth_ofInt (y : Int) : (BitVec.ofInt 64 y).setWidth 57 = BitVec.ofInt 57 y := by
  apply BitVec.eq_of_toNat_eq
  simp only [BitVec.toNat_setWidth, BitVec.toNat_ofInt]
  norm_num
  omega

theorem address_eq_ofInt (a : Word) (imm : BitVec 15) : (a + imm.signExtend 64).setWidth 57 = BitVec.ofInt 57 (a.toNat + imm.toInt) := by
  rw [← setWidth_ofInt, BitVec.ofInt_add, ofInt_toNat_self, signExtend_eq_ofInt]

/-- The address of a load or store (R241). -/
theorem memAddr_eq (w : WorkUnit) (rs1 : Reg) (imm : BitVec 15) : memAddr w rs1 imm = (BitVec.ofInt 57 ((w.reg rs1).toNat + imm.toInt)).toNat := by
  rw [memAddr, address_eq_ofInt]

/-! ## The unit that acts -/

theorem onUnit_acts {s : State} {u : UnitId} {w : WorkUnit} (h : Acts s u w) (f : UnitId → WorkUnit → Res) : onUnit s f = f u w := by
  obtain ⟨h, h2, h3⟩ := h
  simp [onUnit, h, h2, h3]

theorem acts_run {s : State} {u : UnitId} {w : WorkUnit} (h : Acts s u w) :
    w.seq = .run ∧ w.life = .bound ∧ w.held = none ∧ w.cancelled = false := by
  have := h.2.2
  simp only [WorkUnit.running, Bool.and_eq_true, decide_eq_true_eq, Option.isNone_iff_eq_none, Bool.not_eq_true'] at this
  exact ⟨this.1.1.2, this.1.1.1, this.1.2, this.2⟩

theorem onWaiting_waits {s : State} {u : UnitId} {w : WorkUnit} {t : Word} {i : Instr} {pk : List Word} (h1 : kget s.units u = some w)
    (h2 : w.life = .bound) (h3 : w.held = none) (h4 : w.cancelled = false) (hq : w.seq = .wait t i pk) (f : WorkUnit → Word → Instr → List Word → Res) :
    onWaiting s u f = f w t i pk := by simp [onWaiting, h1, h2, h3, h4, hq]

/-- An instruction that computes a function of two registers does so. -/
theorem computes2_of_aluR {x : BitVec 32} {i : Instr} {f g : Word → Word → Word} {rd rs1 rs2 : Reg} (hd : decodeWord x = .ok i)
    (he : ∀ s, exec i s = aluR f rd rs1 rs2 s) (hg : ∀ a b, f a b = g a b) : Computes2 x i rd rs1 rs2 g := by
  refine ⟨hd, ?_⟩
  intro s u w h
  rw [he, aluR, onUnit_acts h, hg]; rfl

/-- An instruction that computes a function of one register does so. -/
theorem computes1_of_aluI {x : BitVec 32} {i : Instr} {f g : Word → Word} {rd rs1 : Reg} (hd : decodeWord x = .ok i)
    (he : ∀ s, exec i s = aluI f rd rs1 s) (hg : ∀ a, f a = g a) : Computes1 x i rd rs1 g := by
  refine ⟨hd, ?_⟩
  intro s u w h
  rw [he, aluI, onUnit_acts h, hg]; rfl

/-! ## Control and status registers (R235, R236) -/

theorem csrAccess_absent {s : State} {u : UnitId} {w : WorkUnit} {n : BitVec 12} {m : CsrOp} {rd rs1 : Reg} {i : Instr} (h : Acts s u w)
    (hn : csrRead s w n = none) : csrAccess m rd rs1 n i s = trapHere s u w cIllInstr ((wordOfInstr i).setWidth 64) i := by
  unfold csrAccess; rw [onUnit_acts h, hn]

theorem csrAccess_private {s : State} {u : UnitId} {w : WorkUnit} {n : BitVec 12} {m : CsrOp} {rd rs1 : Reg} {i : Instr} (h : Acts s u w)
    (hn : csrRead s w n ≠ none) (h1 : 0x100 ≤ n.toNat) (h2 : n.toNat < 0x200) (hm : w.hmode = false) :
    csrAccess m rd rs1 n i s = trapHere s u w cPrivInstr ((wordOfInstr i).setWidth 64) i := by
  unfold csrAccess; rw [onUnit_acts h]
  cases hh : csrRead s w n with
  | none => exact absurd hh hn
  | some old => simp [h1, h2, hm]

theorem csrAccess_done {s : State} {u : UnitId} {w : WorkUnit} {n : BitVec 12} {m : CsrOp} {rd rs1 : Reg} {i : Instr} {old : Word} (h : Acts s u w)
    (hn : csrRead s w n = some old) (h1 : 0x100 ≤ n.toNat → n.toNat < 0x200 → w.hmode = true) :
    csrAccess m rd rs1 n i s = if rs1 = 0 ∧ m ≠ .rw then .next (putUnit s u (w.setReg rd old).advance) else
      let r := csrWrite s w n (m.value old (w.reg rs1)) (m.clears (w.reg rs1))
      .next (putUnit r.1 u (r.2.setReg rd old).advance) := by
  unfold csrAccess; rw [onUnit_acts h, hn]
  simp only []
  rw [if_neg]
  · rfl
  · rintro ⟨a, b, c⟩
    simp [h1 a b] at c

/-! ## Accesses of one piece -/

theorem chunks_one (va n : Nat) (h0 : 0 < n) (hn : n ≤ 65536 - va % 65536) (hv : va < 2 ^ 57) : chunks (n / 65536 + 2) 0 va n = [(0, va, n)] := by
  have e : min n (65536 - va % 65536) = n := by omega
  rw [show n / 65536 + 2 = (n / 65536 + 1) + 1 from rfl]
  unfold chunks
  rw [if_neg (by omega)]
  simp only [e, Nat.sub_self]
  unfold chunks
  simpa using hv

theorem mapRange_one (s : State) (asid : BitVec 12) (va n : Nat) (acc : Access) (h0 : 0 < n) (hn : n ≤ 65536 - va % 65536) (hv : va < 2 ^ 57) :
    mapRange s asid va n acc = (place s asid va n acc).map fun p => [(0, p, n)] := by
  unfold mapRange
  rw [chunks_one va n h0 hn hv]
  simp only [places]
  cases place s asid va n acc <;> rfl

theorem place_ok {s : State} {asid : BitVec 12} {va n : Nat} {acc : Access} {p : Phys} (h : place s asid va n acc = .ok p) :
    translate s asid va acc = .ok p ∧ touchesLost s p n = false ∧ (∀ d o, p ≠ .aperture d o) ∧ (∀ d g o, p ≠ .queue d g o) := by
  unfold place at h
  split at h <;> try contradiction
  rename_i q h1 h2 hq
  split at h <;> try contradiction
  split at h <;> try contradiction
  rename_i hl
  cases h
  refine ⟨hq, by simpa using hl, ?_, ?_⟩
  · rintro d o rfl; exact h1 d o rfl
  · rintro d g o rfl; exact h2 d g o rfl

/-- An aligned access of a power of two lies in one 64 KiB unit. -/
theorem aligned_in_unit {n v : Nat} (hn : n ∣ 65536) (ha : v % n = 0) : n ≤ 65536 - v % 65536 := by
  obtain ⟨k, hk⟩ := hn
  obtain ⟨c, rfl⟩ := Nat.dvd_of_mod_eq_zero ha
  have hk0 : 0 < k := by
    rcases k with _ | k
    · simp at hk
    · omega
  rw [hk, Nat.mul_mod_mul_left]
  have hlt : c % k < k := Nat.mod_lt _ hk0
  have : n * (c % k) + n ≤ n * k := by rw [← Nat.mul_succ]; exact Nat.mul_le_mul_left n hlt
  omega

theorem loadScalar_done {s : State} {u : UnitId} {w : WorkUnit} {n : Nat} {sg : Bool} {rd rs1 : Reg} {imm : BitVec 15} {i : Instr} {p : Phys}
    (h : Acts s u w) (h0 : 0 < n) (hn8 : n ∣ 65536) (ha : memAddr w rs1 imm % n = 0) (hp : w.poisoned = false)
    (hpl : place s w.asid (memAddr w rs1 imm) n .read = .ok p) (hw : windowed s none p n = false) (ht : tierBusy s p = false) :
    loadScalar n sg rd rs1 imm i s = .next (putUnit s u ({ w with winWait := [] }.setReg rd (loadValue n sg (readPhys s w.tp.die p n))).advance) := by
  unfold loadScalar
  rw [onUnit_acts h]
  simp only []
  rw [if_neg (by omega)]
  obtain ⟨h1, h2, h3, h4⟩ := place_ok hpl
  rw [h1]
  have hv : memAddr w rs1 imm < 2 ^ 57 := BitVec.isLt _
  have hm := mapRange_one s w.asid (memAddr w rs1 imm) n .read h0 (aligned_in_unit hn8 ha) hv
  rw [hpl] at hm
  have hs : seqRead s w (memAddr w rs1 imm) n .read = .ok (readPhys s w.tp.die p n) := by
    unfold seqRead
    rw [hm]
    simp [hp, Got.map, Got.bind, hw, ht]
  rw [hs]
  cases p <;> first | rfl | exact absurd rfl (h4 _ _ _)

theorem storeScalar_done {s : State} {u : UnitId} {w : WorkUnit} {n : Nat} {rs2 rs1 : Reg} {imm : BitVec 15} {i : Instr} {p : Phys} (h : Acts s u w)
    (ha : memAddr w rs1 imm % n = 0) (hpl : place s w.asid (memAddr w rs1 imm) n .write = .ok p) (hw : writeHeld s none p n = false) :
    storeScalar n rs2 rs1 imm i s = .next (markExternal (writePhys (putUnit s u w.advance) p (leBytes n (w.reg rs2).toNat)) w.job p) := by
  unfold storeScalar
  rw [onUnit_acts h]
  simp only []
  rw [if_neg (by omega)]
  obtain ⟨h1, h2, h3, h4⟩ := place_ok hpl
  rw [h1]
  cases p <;> first | exact absurd rfl (h4 _ _ _) | exact absurd rfl (h3 _ _) | simp [h2, hw]

end Sys2Proof.Machine
end

