-- ==== Sys2Proof/Machine/XanarFields.lean ====
section
/-! DEFINITION. What the parts of a Xanar statement stand for (R127–R132, R138): literals, the modifiers of an operator as its MOD byte, and the
named fields of a stream command. -/

namespace Sys2Proof.Machine

/-- The value of a digit in a base. -/
def digitOf (base : Nat) (c : Char) : Option Nat :=
  let v := if '0' ≤ c ∧ c ≤ '9' then some (c.toNat - 48)
    else if 'a' ≤ c ∧ c ≤ 'f' then some (c.toNat - 87)
    else if 'A' ≤ c ∧ c ≤ 'F' then some (c.toNat - 55)
    else none
  v.filter fun d => d < base

/-- The number that digits write, underscores apart. -/
def digitsOf (base : Nat) (s : List Char) : Option Nat :=
  match s.filter fun c => c ≠ '_' with
  | [] => none
  | ds => ds.foldl (fun a c => a.bind fun n => (digitOf base c).map fun d => base * n + d) (some 0)

/-- The value of an integer literal: hexadecimal with 0x, binary with 0b, else decimal (R127). -/
def literalOf : List Char → Option Nat
  | '0' :: 'x' :: ds => digitsOf 16 ds
  | '0' :: 'b' :: ds => digitsOf 2 ds
  | ds => if ds.contains '_' then none else digitsOf 10 ds

/-- An integer literal with its sign. -/
def intLiteral : List Char → Option Int
  | '-' :: ds => (literalOf ds).map fun n => -(n : Int)
  | ds => (literalOf ds).map fun n => (n : Int)

/-! ## Exact FW40 values (Table 5.1, R132) -/

/-- The FW40 word of ±`m` × 2^`e`; none where that is not exactly an FW40 value, for a value is never rounded. -/
def exactFw40 (neg : Bool) (m : Nat) (e : Int) : Option Lane :=
  let r := fwRound neg m e
  if r.2.nx || r.2.ov then none else some r.1

/-- The FW40 word of ±`m` × 10^`e`, where it is exact: a negative power of ten needs its fives among the factors of `m`. -/
def exactDecimal (neg : Bool) (m : Nat) (e : Int) : Option Lane :=
  if 0 ≤ e then exactFw40 neg (m * 10 ^ e.toNat) 0
  else
    let fives := 5 ^ (-e).toNat
    if m % fives = 0 then exactFw40 neg (m / fives) e else none

/-- Digits with at most one point: the number without the point, and how many digits follow the point. -/
def pointDigits (base : Nat) (cs : List Char) : Option (Nat × Nat) :=
  let whole := cs.takeWhile fun c => c ≠ '.'
  let part := (cs.dropWhile fun c => c ≠ '.').drop 1
  if cs.contains '_' then none else (digitsOf base (whole ++ part)).map fun n => (n, part.length)

/-- The exponent after its letter, with an optional sign; 0 where there is none. -/
def exponentOf : List Char → Option Int
  | [] => some 0
  | _ :: '-' :: ds => (digitsOf 10 ds).map fun n => -(n : Int)
  | _ :: '+' :: ds => (digitsOf 10 ds).map fun n => (n : Int)
  | _ :: ds => (digitsOf 10 ds).map fun n => (n : Int)

/-- A value without its sign: `inf`, a hexadecimal floating literal, or a decimal. -/
def fwMagnitude (neg : Bool) (cs : List Char) : Option Lane :=
  match cs with
  | ['i', 'n', 'f'] => some (fwInf neg)
  | '0' :: 'x' :: ds =>
    let isP (c : Char) : Bool := c = 'p' || c = 'P'
    if !ds.any isP then none
    else do
      let m ← pointDigits 16 (ds.takeWhile fun c => !isP c)
      let e ← exponentOf (ds.dropWhile fun c => !isP c)
      exactFw40 neg m.1 (e - 4 * m.2)
  | ds => do
    let isE (c : Char) : Bool := c = 'e' || c = 'E'
    let m ← pointDigits 10 (ds.takeWhile fun c => !isE c)
    let e ← exponentOf (ds.dropWhile fun c => !isE c)
    exactDecimal neg m.1 (e - m.2)

/-- The FW40 word of a value: a decimal, a hexadecimal floating literal, `inf`, `-inf` or `qnan`; none where it is no FW40 value (R132). -/
def fwLiteral : List Char → Option Lane
  | ['q', 'n', 'a', 'n'] => some fwNaN
  | '-' :: cs => fwMagnitude true cs
  | cs => fwMagnitude false cs

/-- An item of `.w40`: an integer literal is the raw word, every other one a value (Table 5.1). -/
def w40Item (cs : List Char) : Option Lane :=
  match intLiteral cs with
  | some v => if 0 ≤ v ∧ v < 2 ^ 40 then some (BitVec.ofInt 40 v) else none
  | none => fwLiteral cs

/-- The immediate of a `w40` statement: an FW40 word whose bits [12:0] are zero; none is an error (R132). -/
def immOfFw40 (x : Lane) : Option (BitVec 27) := if x.extractLsb' 0 13 = 0 then some (x.extractLsb' 13 27) else none

/-- The immediate of an `s40` statement (R132). -/
def immOfInt (v : Int) : Option (BitVec 27) := if -(2 ^ 26 : Int) ≤ v ∧ v < 2 ^ 26 then some (BitVec.ofInt 27 v) else none

/-- The immediate that a statement of a type writes (R132): of type w40 an FW40 value, also where the operator reads its port b as an integer (R144; DEDUCED,
log entry 143). -/
def immOf (ty : BitVec 4) (cs : List Char) : Option (BitVec 27) :=
  if ty = 0 then (fwLiteral cs).bind immOfFw40
  else if ty = 1 then (intLiteral cs).bind immOfInt
  else none

/-! ## Modifiers (R129, R108, Table 6.1, Table 7.5) -/

/-- The bits of MOD that a modifier writes, and their value. -/
structure ModField where
  name : String
  bits : BitVec 8
  val : BitVec 8
deriving DecidableEq, Repr

/-- One modifier for MOD[0]. -/
def flagMod (name : String) : List ModField := [{ name := name, bits := 1, val := 1 }]

/-- The ordering qualifiers and scopes of R108. -/
def orderMods : List ModField :=
  ([("rlx", 0), ("acq", 1), ("rel", 2), ("ar", 3)].map fun p => { name := p.1, bits := 0xC0, val := BitVec.ofNat 8 (64 * p.2) }) ++
    [("el", 0), ("tile", 1), ("die", 2), ("dev", 3), ("sys", 4)].map fun p => { name := p.1, bits := 0x38, val := BitVec.ofNat 8 (8 * p.2) }

/-- The modifiers that an operator's reference assigns to its own bits. -/
def ownMods : Opc → List ModField
  | .adds | .subs | .min | .max | .cvtfi | .cvtif => flagMod "u"
  | .bext => flagMod "s"
  | .mov => flagMod "k"
  | .fcpsgn | .vld | .vldx => flagMod "x"
  | .lgenc => flagMod "code"
  | .bsapply => flagMod "inv"
  | .cvtfr => flagMod "fin"
  | .cvtsat | .lfld | .lfst | .lfldi | .lfsti => flagMod "wrap"
  | .lsum => flagMod "bc"
  | .ldfe => flagMod "clr"
  | .csumChk => flagMod "t"
  | .permi => (List.range 16).flatMap fun k =>
      [{ name := "flip" ++ Nat.repr k, bits := 0x1F, val := BitVec.ofNat 8 k }, { name := "rot" ++ Nat.repr k, bits := 0x1F, val := BitVec.ofNat 8 (16 + k) }]
  | .fmin | .fmax => [{ name := "num", bits := 0x40, val := 0x40 }, { name := "nan", bits := 0x20, val := 0x20 }]
  | .join => (List.range 3).map fun k => { name := "in" ++ Nat.repr (k + 1), bits := 3, val := BitVec.ofNat 8 k }
  | .vst | .vstx => [{ name := "cvm1", bits := 3, val := 1 }, { name := "cvm2", bits := 3, val := 2 }, { name := "cvm3", bits := 3, val := 3 },
      { name := "fill", bits := 4, val := 4 }]
  | .monwait => ["eq", "ne", "lt", "ge", "ltu", "geu"].zipIdx.map fun c => { name := c.1, bits := 7, val := BitVec.ofNat 8 c.2 }
  | _ => []

/-- Every modifier that an operator's reference names: those of its own bits, `.apx` in the FW40 group, and the qualifiers and scopes of the memory
operators. One that Table 4.16 then ignores is named too, and gives a warning (R130).
`.num` and `.nan` are named by the references of `fmin` and `fmax` alone, so that any other operator makes them an error (R129; DEDUCED, log entry 141). -/
def modsOf (o : Opc) : List ModField :=
  ownMods o ++ (if isFw40Group o then [{ name := "apx", bits := 0x80, val := 0x80 }] else []) ++ if isMemOp o then orderMods else []

/-- Modifiers collected so far: the bits that they write and the byte; none once one is unknown or writes bits that stand already, as a repeated one does. -/
def addMod (o : Opc) (acc : Option (BitVec 8 × BitVec 8)) (name : String) : Option (BitVec 8 × BitVec 8) :=
  acc.bind fun a => ((modsOf o).find? fun m => m.name = name).bind fun m =>
    if a.1 &&& m.bits = 0 then some (a.1 ||| m.bits, a.2 ||| m.val) else none

/-- The MOD byte of an operator with modifiers in any order; none on an error (R129). `fmin` and `fmax` without one take `.num` (R146), `permi` needs
one (R164), and a qualifier other than `.rlx` is followed by a scope (R172). -/
def modOf (o : Opc) (names : List String) : Option (BitVec 8) :=
  (names.foldl (addMod o) (some (0, 0))).bind fun a =>
    if o = .permi ∧ a.1 = 0 then none
    else if isMemOp o ∧ a.2 &&& 0xC0 ≠ 0 ∧ a.1 &&& 0x38 = 0 then none
    else if (o = .fmin ∨ o = .fmax) ∧ a.1 &&& 0x60 = 0 then some (a.2 ||| 0x40)
    else some a.2

/-- Does Table 4.16 list the combination that a MOD byte encodes: does the loader take a fallback for it (R130)? -/
def modWarns (o : Opc) (m : BitVec 8) : Bool :=
  (applyFallbacks { opc := o, mod := m, ty := 0, repl := 0, imm := none, wp := 0, ww := 0, ws := 0, t0 := .none, t1 := .none, t2 := .none, t3 := .none }).2 ≠ {}

/-! ## Fields of stream commands (R138) -/

/-- What a field of a command holds: a number, a signed number, an address word or a scalar index (R188). -/
inductive FieldKind where
  | plain | signed | addr | index
deriving DecidableEq, Repr

/-- A field of a command by its name in lowercase, with its bits [hi:lo]. -/
structure CmdField where
  name : String
  hi : Nat
  lo : Nat
  kind : FieldKind
deriving DecidableEq, Repr

/-- A field that holds a number. -/
def numField (name : String) (hi lo : Nat) : CmdField := { name := name, hi := hi, lo := lo, kind := .plain }
/-- A field that holds a signed number. -/
def intField (name : String) (hi lo : Nat) : CmdField := { name := name, hi := hi, lo := lo, kind := .signed }
/-- A field that holds an address word. -/
def addrField (name : String) (lo : Nat) : CmdField := { name := name, hi := lo + 39, lo := lo, kind := .addr }

/-- The body fields of a command (08_stream_and_engine_commands.md). `sel` is KIND of `cpt.dim` and SPEC of every other one.
Table 8.9 leaves the destination of KIND 1 without a field name: it is `destination` here (DESIGN CHOICE, log entry 165). -/
def bodyFields (o : Sopc) (sel : Nat) : List CmdField :=
  let sheave : List CmdField := [numField "shv" 111 108, numField "strm" 107 104]
  let chain : List CmdField := [numField "chain" 111 106, numField "unb" 105 105, addrField "desc" 40]
  let table : List CmdField :=
    [addrField "tab" 72, addrField "dst" 32, numField "rown" 31 20, numField "fmt" 19 16, numField "pol" 15 14]
  let quant : List CmdField := [addrField "a" 72, addrField "q" 32, numField "wfmt" 31 28, numField "qfmt" 27 24, numField "blen" 23 16,
    numField "cvm" 15 14, numField "nblk" 13 0]
  let near : List CmdField := [addrField "x" 72, addrField "y" 32, { name := "sa", hi := 31, lo := 28, kind := .index },
    { name := "sb", hi := 27, lo := 24, kind := .index }, numField "n" 23 0]
  match o with
  | .snop => []
  | .sync => [addrField "addr" 72, numField "scope" 66 64, numField "val" 63 0]
  | .fxregion => [addrField "base" 72, numField "ncell" 71 40, intField "w" 39 29, numField "zero" 28 28]
  | .aprLoad | .aprStore => sheave ++ [numField "fmt" 103 100, numField "view" 99 99, numField "cvm" 98 97, numField "hdr" 96 96, numField "blen" 95 88,
      addrField "base" 40]
  | .aprDim => sheave ++ [numField "d" 103 102, numField "count" 95 64, numField "valid" 63 32, intField "stride" 31 0]
  | .aprPad => sheave ++ [numField "pad" 103 64]
  | .aprEnd => sheave ++ [addrField "rec" 64, addrField "scales" 24, numField "scv" 16 16]
  | .cptDef => [numField "tidx" 111 104, addrField "src" 64, addrField "dst" 24]
  | .cptDim => [numField "tidx" 111 104, numField "kind" 103 101] ++
      (match sel with
        | 0 => [numField "d" 100 99, numField "count" 95 64, intField "sstr" 63 32, intField "dstr" 31 0]
        | 1 => [numField "j" 100 99, addrField "destination" 40]
        | 2 => [addrField "stamp" 40]
        | 3 => [numField "perm" 100 100, numField "npre" 99 96, numField "ntile" 95 64, intField "ststr" 63 32, intField "dtstr" 31 0]
        | 4 => [numField "d" 100 99, numField "valid" 95 64]
        | _ => [])
  | .cptGo => [numField "ch" 111 107, numField "tidx" 103 96, intField "sdisp" 95 56, intField "ddisp" 55 16]
  | .cptCancel => [numField "ch" 111 107, numField "seq" 39 0]
  | .mcPermit => [numField "ch" 111 107, numField "n" 15 0]
  | .gathRow | .gathRed => table
  | .gathIdx =>
    if sel % 2 = 0 then [addrField "idx" 72, numField "ifmt" 71 68, numField "nidx" 63 32, numField "limit" 31 0]
    else [addrField "offs" 72, numField "nbag" 63 32]
  | .gathChain | .gathTail | .qntChain | .qntTail | .nmcChain | .nmcTail => chain
  | .qntBlk | .qntDq => quant
  | .mxtask => [numField "q" 111 108, addrField "rec" 68, numField "mode" 67 66, numField "afmt" 65 62, numField "cont" 61 61, numField "rel" 60 60,
      numField "csum" 59 59, intField "wexp" 58 48, numField "ofmt" 47 44, numField "cvm" 43 42]
  | .mxqSet => [numField "q" 111 108, numField "mask" 107 92, numField "unb" 91 91, addrField "desc" 40]
  | .ldstat => [numField "mask" 111 96, addrField "waddr" 56, numField "wfmt" 55 52, numField "k" 51 44, numField "n" 43 36, numField "wstr" 35 12]
  | .mxswap => [numField "mask" 111 96, numField "q" 95 92, numField "bseq" 91 52]
  | .nmcSgd | .nmcDecay | .nmcRed => near
  | .deadSet | .deadClr => [addrField "base" 72, numField "nunit" 71 40]
  | .emitJnl => [numField "j" 111 108, numField "port" 107 104, numField "bsdev" 103 88, numField "gseq" 87 56]
  | .emitSeq => [numField "j" 111 108, numField "gseq" 107 76, numField "lastn" 75 36]

/-- The fields of a command: its body's, and `spec` for its specific flags (R116). -/
def cmdFields (o : Sopc) (sel : Nat) : List CmdField := numField "spec" 116 112 :: bodyFields o sel

/-- The value of a field in a source: an integer, gN+off, gN, or the name of a symbol. -/
inductive XValue where
  | int (v : Int)
  | seed (g off : Nat)
  | index (g : Nat)
  | symbol (name : String)
deriving DecidableEq, Repr

/-- A statement of a `.stream` or `.template` section (R138): its command, its flags, and the fields that it names. -/
structure XCmd where
  op : Sopc
  ntf : Bool
  ser : Bool
  fe : Bool
  fields : List (String × XValue)
deriving DecidableEq, Repr

/-- The number that a value puts into a field; a symbol that is no absolute value leaves 0 to its relocation. None on an error: a value that does
not fit or is of another kind. `abs` gives the absolute symbols, which are the template names. -/
def fieldValue (abs : String → Option Nat) (f : CmdField) (v : XValue) : Option Nat :=
  let n := f.hi + 1 - f.lo
  match f.kind, v with
  | .addr, .seed g off => if g < 16 ∧ off < 2 ^ 36 then some (g * 2 ^ 36 + off) else none
  | .addr, .symbol _ => some 0
  | .index, .index g => if g < 16 then some g else none
  | .plain, .int i => if 0 ≤ i ∧ i < 2 ^ n then some i.toNat else none
  | .plain, .symbol s => (abs s).filter fun a => a < 2 ^ n
  | .signed, .int i => if -(2 ^ (n - 1) : Int) ≤ i ∧ i < 2 ^ (n - 1) then some (i % 2 ^ n).toNat else none
  | _, _ => none

/-- The selector of a command's fields, as its statement writes it. -/
def XCmd.sel (c : XCmd) : Nat :=
  let key := if c.op = .cptDim then "kind" else "spec"
  match c.fields.find? fun f => f.1 = key with
  | some (_, .int v) => v.toNat
  | _ => 0

/-- The field of a command that a name names. -/
def XCmd.field (c : XCmd) (name : String) : Option CmdField := (cmdFields c.op c.sel).find? fun f => f.name = name

/-- The 128-bit command of a statement: every field that it does not name is zero (R138). None where it names a field twice or one that the command
does not have, or where a value does not fit. -/
def XCmd.word (abs : String → Option Nat) (c : XCmd) : Option (BitVec 128) :=
  let flags := c.op.code.toNat * 2 ^ 120 + c.ntf.toNat * 2 ^ 119 + c.ser.toNat * 2 ^ 118 + c.fe.toNat * 2 ^ 117
  let add (acc : Option Nat) (x : String × XValue) : Option Nat :=
    acc.bind fun a => (c.field x.1).bind fun f => (fieldValue abs f x.2).map fun v => a + v * 2 ^ f.lo
  if (c.fields.map fun f => f.1).Nodup then (c.fields.foldl add (some flags)).map fun n => BitVec.ofNat 128 n else none

/-- The symbols that address fields of a statement name, with the fields' positions and widths (R142). -/
def XCmd.symbols (c : XCmd) : List (String × Nat × Nat) :=
  c.fields.filterMap fun x => match x.2, c.field x.1 with
    | .symbol s, some f => if f.kind = .addr then some (s, f.lo, 40) else none
    | _, _ => none

/-- Does Table 4.16 list a combination that a command encodes: a flag that it does not admit, CVM 3, a scope of 5 to 7, or what a task falls back on (R130)? -/
def cmdWarns (o : Sopc) (w : Cmd128) : Bool :=
  decide ((flagFallback o w).2 ≠ {}) || match o with
  | .aprLoad | .aprStore => fld w 98 97 = 3
  | .qntBlk | .qntDq => fld w 15 14 = 3
  | .sync => 5 ≤ fld w 66 64
  | .mxtask => decide (taskWarn w ≠ {})
  | _ => false

/-- Does a statement give a warning (R130)? -/
def XCmd.warns (abs : String → Option Nat) (c : XCmd) : Bool := (c.word abs).any (cmdWarns c.op)

end Sys2Proof.Machine
end

