-- ==== Sys2Proof/Machine/Xanar.lean ====
section
/-! DEFINITION. What the assembler `xnas` makes of a Xanar source (R127–R138): source lines, operator and target statements, arcs and marks,
wave numbers with the `memnop` operators that they need, the configuration image, and the sections of scalar instructions, stream commands and
data. A statement stands here as its parts (log entry 101). -/

namespace Sys2Proof.Machine

/-! ## Source lines (R127) -/

/-- The line without its comment. -/
def dropComment (line : List Char) : List Char := line.takeWhile fun c => c ≠ ';'

/-- A register name: s0–s31, p0–p7 or g0–g15. -/
def isRegName : List Char → Bool
  | 's' :: ds => (List.range 32).any fun n => (Nat.repr n).toList = ds
  | 'p' :: ds => (List.range 8).any fun n => (Nat.repr n).toList = ds
  | 'g' :: ds => (List.range 16).any fun n => (Nat.repr n).toList = ds
  | _ => false

/-- The type suffixes (Table 4.1), and the directives without their dots (Table 5.1). -/
def reservedNames : List String :=
  ["w40", "s40", "f32", "bf16", "f16", "e4m3", "e5m2", "lg6", "s8", "s16", "s32", "n8", "n16", "n32", "fx128"] ++
    ["graph", "plane", "block", "port", "arc", "mark", "lfw", "seq", "fblock", "stream", "template", "data", "d8", "d16", "d32", "d64", "zero",
     "global", "close"]

/-- Is a name written as an identifier is, and no type suffix or directive name? -/
def isWord (s : List Char) : Bool :=
  (match s with
    | c :: cs => c.isAlpha && cs.all fun d => d.isAlphanum || d = '_'
    | [] => false) && !(reservedNames.any fun r => r.toList = s)

/-- Is a name an identifier? -/
def isIdentifier (s : List Char) : Bool := isWord s && !isRegName s

/-- May a name be the label of a statement of a block? Two listings of the spec label operators `s1` and `s2`, so that a register name is let stand there
(DEDUCED, log entry 138). -/
def isLabel (s : List Char) : Bool := isWord s

/-! ## Statements of a graph (R128–R135) -/

/-- A target of a statement (R131): an operator or router port of the block, one in another block, or a stream port. -/
inductive XTarget where
  | near (label : String) (port : Char)
  | far (block label : String) (port : Char)
  | stream (name : String)
deriving DecidableEq, Repr

/-- An operator statement (R129): its label, operator and modifiers, TYPE, replication, the text of its immediate, its wave numbers where it gives
them, and its targets; a `steer` has its true targets in `targets` and its false ones in `falses`. -/
structure XStmt where
  label : String
  opc : Opc
  mods : List String
  ty : BitVec 4
  copies : Nat
  imm : Option String
  wave : Option (BitVec 6 × BitVec 6 × BitVec 6)
  targets : List XTarget
  falses : List XTarget
deriving DecidableEq, Repr

/-- A block of a source. -/
structure XBlock where
  name : String
  tdx : Int
  tdy : Int
  bsel : Bool
  stmts : List XStmt
deriving DecidableEq, Repr

/-- A `.port` (Table 5.1). -/
structure XPort where
  name : String
  kind : Nat
  eng : Nat
  chan : Nat
deriving DecidableEq, Repr

/-- An `.arc` statement (R133): from a port, or the arc of target K of a statement of a block; with CAP and DEPTH where they are written. -/
inductive XArc where
  | join (port block label : String) (letter : Char) (cap depth : Option Nat)
  | tune (block label : String) (k : Nat) (cap depth : Option Nat)
deriving DecidableEq, Repr

/-- A graph of a source, with its `.plane` (jib or not) and its id where they are written (Table 5.1); marks are given as (mark 0–3, block, label), windows
as (block, label, base, length). -/
structure XGraph where
  plane : Option Bool
  exact : Bool
  id : Option Word
  ports : List XPort
  blocks : List XBlock
  arcs : List XArc
  marks : List (Nat × String × String)
  lfws : List (String × String × Nat × Nat)
deriving DecidableEq, Repr

/-- FLAGS.JIB of a graph: a sail by default (Table 5.1). -/
def XGraph.jib (g : XGraph) : Bool := g.plane.getD false

/-- Operators of one block, and routers, take their numbers in source order (R129). -/
def xslotOf (ss : List XStmt) (i : Nat) : Nat :=
  match ss[i]? with
  | some s => ((ss.take i).filter fun x => isRouter x.opc == isRouter s.opc).length
  | none => 0

/-- A port of an operator or router by its letter (R131, Table 1.3). -/
def portLetter (o : Opc) (c : Char) : Option Nat :=
  let of (l : List Char) : Option Nat := l.findIdx? fun x => x = c
  match o with
  | .steer => of ['d', 'k']
  | .mergeOrd => of ['t', 'f', 'k']
  | .mergeArr => of ['x', 'y']
  | .carry => of ['i', 'b', 'k']
  | _ => of ['a', 'b', 'c']

/-- The statement that a label names. -/
def stmtAt (ss : List XStmt) (label : String) : Option Nat := if label = "" then none else ss.findIdx? fun s => s.label = label

/-- The targets of a statement with their places T0 to T3; the false targets of a `steer` begin at T2. -/
def XStmt.placed (s : XStmt) : List (Nat × XTarget) :=
  (s.targets.zipIdx.map fun t => (t.2, t.1)) ++ s.falses.zipIdx.map fun t => (t.2 + 2, t.1)

/-- Does a statement list no more targets than its word has (R106, R131)? -/
def XStmt.fits (s : XStmt) : Bool :=
  1 ≤ s.copies && s.copies ≤ 64 &&
    if s.opc = .steer then s.targets.length ≤ 2 && s.falses.length ≤ 2
    else s.falses.isEmpty && s.targets.length ≤ (if s.imm.isSome then 1 else if s.opc.form = .m then 2 else 4)

/-! ## Wave numbers (R136) -/

/-- An arc between statements of a block: the producer, its target, and the consumer. -/
structure XEdge where
  src : Nat
  k : Nat
  dst : Nat
deriving DecidableEq, Repr

/-- The arcs within a block. -/
def edgesOf (ss : List XStmt) : List XEdge :=
  ss.zipIdx.flatMap fun si => si.1.placed.filterMap fun kt => match kt.2 with
    | .near l _ => (stmtAt ss l).map fun j => { src := si.2, k := kt.1, dst := j }
    | _ => none

/-- The nodes that `n` rounds reach from some nodes, going on only through nodes that `via` admits. -/
def reachVia (es : List XEdge) (via : Nat → Bool) : Nat → List Nat → List Nat
  | 0, ks => ks
  | n + 1, ks =>
    reachVia es via n (es.foldl (fun acc e => if acc.contains e.src && via e.src && !acc.contains e.dst then acc ++ [e.dst] else acc) ks)

/-- The nodes on a side of a `steer`: the consumers of its true or false targets. -/
def sideHeads (es : List XEdge) (s : Nat) (side : Bool) : List Nat :=
  es.filterMap fun e => if e.src = s && (decide (e.k < 2) == side) then some e.dst else none

/-- A block as wave numbering sees it: the number of its nodes, which are memory operators, steers and merges, and its arcs. -/
structure XFlow where
  size : Nat
  mem : Nat → Bool
  steers : List Nat
  edges : List XEdge

/-- Everything on a side of a `steer`. -/
def XFlow.onSide (f : XFlow) (s : Nat) (side : Bool) : List Nat := reachVia f.edges (fun _ => true) (f.size + 1) (sideHeads f.edges s side)

/-- Two memory operators lie on a common path when no `steer` gives them opposite sides (R136, step 2). -/
def XFlow.common (f : XFlow) (x y : Nat) : Bool :=
  f.steers.all fun s =>
    let t := f.onSide s true
    let n := f.onSide s false
    let only (a b : List Nat) (z : Nat) : Bool := a.contains z && !b.contains z
    !((only t n x && only n t y) || (only n t x && only t n y))

/-- The successors of a memory operator in an order of them (R136, step 3). -/
def XFlow.successors (f : XFlow) (order : List Nat) (x : Nat) : List Nat :=
  let later := (order.dropWhile fun z => z ≠ x).drop 1
  (later.zipIdx.filter fun yi => f.common x yi.1 && !((later.take yi.2).any fun z => f.common x z && f.common z yi.1)).map fun yi => yi.1

/-- Where an inserted `memnop` stands in source order: before the first memory operator that follows the merge, be it in the text or, as in
Table 5.2, on a path from it (log entry 101), or after the last (R136, step 4). -/
structure XInsert where
  steer : Nat
  side : Bool
  before : Option Nat
deriving DecidableEq, Repr

/-- Does a path end at a statement: it has no consumers, or an arc of it leaves the block? -/
def XStmt.ends (s : XStmt) : Bool :=
  s.placed.isEmpty || s.placed.any fun kt => match kt.2 with
    | .near _ _ => false
    | _ => true

/-- The `memnop` operators that a block needs (R136, step 4). A path also ends at a side of a `steer` that has no targets: its tokens are discarded there
(R26; DEDUCED, log entry 146). `merges` asks for the operators of the first case; those of the second case are asked for with the flow and the order `later`
that have the first ones, since each of them is a memory operator of its side and a successor. -/
def insertsOf (ss : List XStmt) (f : XFlow) (order : List Nat) (merges : Bool) (later : XFlow × List Nat) : List XInsert :=
  let node (i : Nat) : Opc := match ss[i]? with | some s => s.opc | none => .sink
  let isMerge (i : Nat) : Bool := node i = .mergeOrd || node i = .carry
  let plain (i : Nat) : Bool := !f.mem i
  let after (x : Nat) : List Nat := reachVia f.edges plain (f.size + 1) (f.edges.filterMap fun e => if e.src = x then some e.dst else none)
  (f.steers.flatMap fun s => [(s, true), (s, false)]).filterMap fun (s, side) =>
    let heads := sideHeads f.edges s side
    let toMerge := (reachVia f.edges (fun i => plain i && !isMerge i) (f.size + 1) heads).filter isMerge
    let from_ := order.filter fun x => (after x).contains s
    let leaves : Bool := match ss[s]? with
      | some st =>
        let mine := st.placed.filter fun kt => decide (kt.1 < 2) == side
        mine.isEmpty || mine.any fun kt => match kt.2 with
          | .near _ _ => false
          | _ => true
      | none => false
    let ends : Bool := leaves || (reachVia f.edges plain (f.size + 1) heads).any fun i => plain i && match ss[i]? with
      | some st => st.ends
      | none => false
    let other (x : Nat) : Bool :=
      (later.1.successors later.2 x).any fun y => (later.1.onSide s (!side)).contains y && !(later.1.onSide s side).contains y
    if from_.isEmpty then none
    else
      match toMerge.foldl (fun m i => some (match m with | some k => min k i | none => i)) (none : Option Nat) with
      | some mg => if !merges then none else some { steer := s, side := side, before := order.find? fun x => mg < x || (reachVia f.edges (fun _ => true) (f.size + 1) [mg]).contains x }
      | none => if !merges && ends && from_.any other then some { steer := s, side := side, before := none } else none

/-- The first free target of a side of a `steer`. -/
def freeTarget (s : XStmt) (side : Bool) : Option Nat :=
  if side then if s.targets.length < 2 then some s.targets.length else none
  else if s.falses.length < 2 then some (s.falses.length + 2) else none

/-- The label of an inserted operator; no source can write it. -/
def insertedLabel (i : Nat) : String := ";" ++ Nat.repr i

/-- An inserted `memnop`, without targets. -/
def memnopStmt (i : Nat) : XStmt :=
  { label := insertedLabel i, opc := .memnop, mods := [], ty := 0, copies := 1, imm := none, wave := none, targets := [], falses := [] }

/-- Add `memnop` operators to the end of a block, each fed by the next free target of its side; none where no target is free. -/
def addInserts : List XStmt → List XInsert → Option (List XStmt)
  | ss, [] => some ss
  | ss, n :: ns =>
    match ss[n.steer]? with
    | none => none
    | some s =>
      if (freeTarget s n.side).isNone then none
      else
        let t := XTarget.near (insertedLabel ss.length) 'a'
        let s1 := if n.side then { s with targets := s.targets ++ [t] } else { s with falses := s.falses ++ [t] }
        addInserts (ss.set n.steer s1 ++ [memnopStmt ss.length]) ns

/-- The flow of a block. -/
def flowOf (ss : List XStmt) : XFlow :=
  { size := ss.length, mem := fun i => match ss[i]? with | some s => isMemOp s.opc | none => false,
    steers := (ss.zipIdx.filter fun s => s.1.opc = .steer).map fun s => s.2, edges := edgesOf ss }

/-- The memory operators in source order, those inserted at their places; inserted ones are numbered from `n`. -/
def waveOrder (n : Nat) (mems : List Nat) (ins : List XInsert) : List Nat :=
  let at_ (p : Option Nat) : List Nat := (ins.zipIdx.filter fun i => i.1.before = p).map fun i => n + i.2
  (mems.flatMap fun m => at_ (some m) ++ [m]) ++ at_ none

/-- A chain link: 0 for none, the number of one, 63 for several (R136, step 6). -/
def linkOfWaves (order ys : List Nat) : BitVec 6 :=
  match ys with
  | [] => 0
  | [y] => BitVec.ofNat 6 (((order.findIdx? fun z => z = y).getD 0) + 1)
  | _ => 63

/-- Number the memory operators of a block (R136, steps 5 and 6). -/
def numberWaves (ss : List XStmt) (order : List Nat) : List XStmt :=
  let f := flowOf ss
  let preds (y : Nat) : List Nat := order.filter fun x => (f.successors order x).contains y
  ss.zipIdx.map fun si =>
    if f.mem si.2 then
      { si.1 with wave := some (linkOfWaves order (preds si.2), linkOfWaves order [si.2], linkOfWaves order (f.successors order si.2)) }
    else si.1

/-- The statements of a block with their wave numbers, inserted operators at the end; none on an error of R136. Where a memory operator gives its
numbers every one must. -/
def deriveWaves (ss : List XStmt) : Option (List XStmt) :=
  let f := flowOf ss
  let mems := (ss.zipIdx.filter fun s => isMemOp s.1.opc).map fun s => s.2
  let given := ss.filter fun s => isMemOp s.opc && s.wave.isSome
  if !given.isEmpty then if given.length = mems.length then some ss else none
  else
    let reached (x : Nat) : List Nat := reachVia f.edges (fun _ => true) (f.size + 1) (f.edges.filterMap fun e => if e.src = x then some e.dst else none)
    if mems.any fun x => (reached x).any fun y => f.mem y && y ≤ x then none
    else
      let first := insertsOf ss f mems true (f, mems)
      (addInserts ss first).bind fun ss0 =>
      let ins := first ++ insertsOf ss f mems false (flowOf ss0, waveOrder ss.length mems first)
      (addInserts ss ins).bind fun ss1 =>
        let order := waveOrder ss.length mems ins
        if 62 < order.length then none else some (numberWaves ss1 order)

/-! ## Words and route-table entries -/

/-- The target of kind 01 or 11 that names a port of a statement of a block; none where there is no such port. -/
def targetTo (ss : List XStmt) (label : String) (letter : Char) : Option Target :=
  (stmtAt ss label).bind fun j => (ss[j]?).bind fun s => (portLetter s.opc letter).map fun p =>
    let n : BitVec 5 := BitVec.ofNat 5 (xslotOf ss j)
    if isRouter s.opc then .rtr n (BitVec.ofNat 2 p) else .op n (BitVec.ofNat 2 p)

/-- The exit arcs of a block in source order, as (statement, target): the position of an exit is its number (R131). -/
def exitsOf (ss : List XStmt) : List (Nat × Nat) :=
  ss.zipIdx.flatMap fun si => si.1.placed.filterMap fun kt => match kt.2 with
    | .near _ _ => none
    | _ => some (si.2, kt.1)

/-- The target of a statement at a place; none on an error. -/
def targetAt (ss : List XStmt) (i k : Nat) : Option Target :=
  match (ss[i]?).bind fun s => s.placed.find? fun kt => kt.1 = k with
  | none => some .none
  | some (_, .near l c) => targetTo ss l c
  | some _ => ((exitsOf ss).findIdx? fun e => e = (i, k)).bind fun n => if n < 128 then some (.exit (BitVec.ofNat 7 n)) else none

/-- The immediate of a statement, which only words of form C hold (R106); the outer none is an error (R132). -/
def XStmt.immediate (s : XStmt) : Option (Option (BitVec 27)) :=
  match s.imm with
  | none => some none
  | some x => if s.opc.form = .c then (immOf s.ty x.toList).map some else none

/-- The word of a statement (R105, R129). What w(P, W, S) gives on an operator that is no memory operator is left out: its word has no wave fields (DESIGN
CHOICE, log entry 140). -/
def stmtWord (ss : List XStmt) (i : Nat) : Option OpWord := do
  let s ← ss[i]?
  let t0 ← targetAt ss i 0
  let t1 ← targetAt ss i 1
  let t2 ← targetAt ss i 2
  let t3 ← targetAt ss i 3
  let w := s.wave.getD (0, 0, 0)
  let md ← modOf s.opc s.mods
  let imm ← s.immediate
  if s.fits then
    some { opc := s.opc, mod := md, ty := s.ty, repl := BitVec.ofNat 6 (s.copies - 1), imm := imm, wp := w.1, ww := w.2.1, ws := w.2.2,
           t0 := t0, t1 := t1, t2 := t2, t3 := t3 }
  else none

/-- All of a list, or none. -/
def allSome {α : Type} : List (Option α) → Option (List α)
  | [] => some []
  | x :: xs => x.bind fun a => (allSome xs).map fun as => a :: as

/-- The bits of a route-table entry (Table 4.7). -/
def routeBits (sblk srtr sslot stgt dblk dtgt cap depth port : Nat) : Word :=
  BitVec.ofNat 64 (sblk * 2 ^ 52 + srtr * 2 ^ 51 + sslot * 2 ^ 46 + stgt * 2 ^ 44 + dblk * 2 ^ 32 + dtgt * 2 ^ 23 + cap * 2 ^ 20 + depth * 2 ^ 15 + port)

/-- The CAP code and DEPTH of an arc: 0 where they are left out, a written CAP 1 to 4, a written DEPTH 0 to 31; none on an error (R133). -/
def arcTune (cap depth : Option Nat) : Option (Nat × Nat) :=
  if cap.all (fun c => 1 ≤ c && c ≤ 4) && depth.all (fun d => d ≤ 31) then some (cap.getD 0, depth.getD 0) else none

/-- A block of a graph by its name. -/
def XGraph.blockNo (g : XGraph) (name : String) : Option Nat := g.blocks.findIdx? fun b => b.name = name

/-- A port of a graph by its name. -/
def XGraph.portNo (g : XGraph) (name : String) : Option Nat := g.ports.findIdx? fun p => p.name = name

/-- CAP and DEPTH of an arc of a block, where an `.arc` tunes it. -/
def XGraph.tuning (g : XGraph) (block label : String) (k : Nat) : Option (Option Nat × Option Nat) :=
  g.arcs.findSome? fun a => match a with
    | .tune b l j c d => if b = block && l = label && j = k then some (c, d) else none
    | _ => none

/-- The entry of an arc from a port. -/
def joinEntry (g : XGraph) : XArc → Option Word
  | .tune .. => none
  | .join p b l c cap depth => do
    let pn ← g.portNo p
    let bn ← g.blockNo b
    let blk ← g.blocks[bn]?
    let t ← targetTo blk.stmts l c
    let cd ← arcTune cap depth
    some (routeBits 0xFFF 0 0 0 bn t.bits.toNat cd.1 cd.2 pn)

/-- The entry of target `k` of a statement: an exit arc always has one, an internal arc only where it is tuned; `some none` for no entry. A target written
with a block's name is an exit arc, also where it names the statement's own block (DESIGN CHOICE, log entry 142). -/
def arcEntry (g : XGraph) (bn : Nat) (b : XBlock) (i k : Nat) : Option (Option Word) :=
  match b.stmts[i]? with
  | none => some none
  | some s =>
    let tune := g.tuning b.name s.label k
    let (cap, depth) := tune.getD (none, none)
    let mk (dblk dtgt port : Nat) : Option (Option Word) :=
      (arcTune cap depth).map fun cd => some (routeBits bn (isRouter s.opc).toNat (xslotOf b.stmts i) k dblk dtgt cd.1 cd.2 port)
    match s.placed.find? fun kt => kt.1 = k with
    | none => if tune.isSome then none else some none
    | some (_, .near l c) => if tune.isSome then (targetTo b.stmts l c).bind fun t => mk bn t.bits.toNat 0 else some none
    | some (_, .far fb l c) => (g.blockNo fb).bind fun dn => (g.blocks[dn]?).bind fun d => (targetTo d.stmts l c).bind fun t => mk dn t.bits.toNat 0
    | some (_, .stream n) => (g.portNo n).bind fun pn => mk 0xFFF 0 pn

/-- The route table in the order of R133: arcs from ports in source order, then block by block those of the producers' slots, operators before routers
(DESIGN CHOICE, log entry 144). -/
def routesOf (g : XGraph) : Option (List Word) := do
  let joins ← allSome ((g.arcs.filter fun a => match a with | .join .. => true | .tune .. => false).map (joinEntry g))
  let ofBlock (bb : XBlock × Nat) : List (Option (Option Word)) :=
    let nodes (rtr : Bool) : List Nat := (bb.1.stmts.zipIdx.filter fun s => isRouter s.1.opc == rtr).map fun s => s.2
    (nodes false ++ nodes true).flatMap fun i => (List.range 4).map fun k => arcEntry g bb.2 bb.1 i k
  let inner ← allSome (g.blocks.zipIdx.flatMap ofBlock)
  some (joins ++ inner.filterMap fun x => x)

/-- What R133 asks of the arcs from ports: at most one from each, and a jack port feeds port c of an `emit` only. -/
def joinsOk (g : XGraph) : Bool :=
  distinct (g.arcs.filterMap fun a => match a with | .join p .. => some p | .tune .. => none) &&
    g.arcs.all fun a => match a with
      | .tune .. => true
      | .join p b l c _ _ =>
        ((g.portNo p).bind fun n => g.ports[n]?).all fun x => x.kind ≠ 5 ||
          (c = 'c' && (((g.blockNo b).bind fun n => g.blocks[n]?).bind fun k => (stmtAt k.stmts l).bind fun i => k.stmts[i]?).any fun s => s.opc = .emit)

/-- What R133 asks of the arcs that tune: each names a target T0 to T3 of a statement of its block. That no two tune one target is a DESIGN CHOICE (log
entry 164). -/
def tunesOk (g : XGraph) : Bool :=
  let tunes := g.arcs.filterMap fun a => match a with
    | .join .. => none
    | .tune b l k _ _ => some (b, l, k)
  distinct tunes && tunes.all fun t => t.2.2 ≤ 3 && (((g.blockNo t.1).bind fun n => g.blocks[n]?).bind fun b => stmtAt b.stmts t.2.1).isSome

/-! ## Counts of joins (R170) -/

/-- The ports of a statement that targets of the graph and arcs from its stream ports feed. -/
def fedPorts (g : XGraph) (b : XBlock) (label : String) : List Char :=
  (b.stmts.flatMap fun s => s.placed.filterMap fun t => match t.2 with | .near l c => if l = label then some c else none | _ => none) ++
    (g.blocks.flatMap fun x => x.stmts.flatMap fun s => s.placed.filterMap fun t => match t.2 with
      | .far bn l c => if bn = b.name && l = label then some c else none
      | _ => none) ++
    g.arcs.filterMap fun a => match a with
      | .join _ bn l c _ _ => if bn = b.name && l = label then some c else none
      | .tune .. => none

/-- A `join` without a count counts up to the highest port that is fed (R170). -/
def XGraph.withCounts (g : XGraph) : XGraph :=
  let count (b : XBlock) (s : XStmt) : XStmt :=
    if s.opc = .join && s.mods.isEmpty then
      let fed := if s.label = "" then [] else fedPorts g b s.label
      { s with mods := [if fed.contains 'c' then "in3" else if fed.contains 'b' then "in2" else "in1"] }
    else s
  { g with blocks := g.blocks.map fun b => { b with stmts := b.stmts.map (count b) } }

/-! ## The image (R103, R104, R110–R112) -/

/-- The words of a block: its header, its operators and its routers; none on an error. -/
def xblockWords (b : XBlock) : Option (List Word) := do
  let words ← allSome ((List.range b.stmts.length).map (stmtWord b.stmts))
  let ops := words.filter fun w => !isRouter w.opc
  let rtrs := words.filter fun w => isRouter w.opc
  let sx (v : Int) : Nat := (v % 8).toNat
  let mem := ops.any fun w => isMemOp w.opc
  let head := (ops.length - 1) * 2 ^ 59 + rtrs.length * 2 ^ 53 + sx b.tdx * 2 ^ 50 + sx b.tdy * 2 ^ 47 + b.bsel.toNat * 2 ^ 46 + mem.toNat * 2 ^ 45 +
    (exitsOf b.stmts).length * 2 ^ 37
  if 1 ≤ ops.length && ops.length ≤ 32 && rtrs.length ≤ 32 && -4 ≤ b.tdx && b.tdx ≤ 3 && -4 ≤ b.tdy && b.tdy ≤ 3 then
    some (BitVec.ofNat 64 head :: (ops ++ rtrs).map encodeOp)
  else none

/-- The marks entry of a block (R110); router words carry none, so a mark on a router is an error, as is a mark other than the four. A graph that
is exact marks every slot (R135). -/
def marksEntry (g : XGraph) (b : XBlock) : Option Nat :=
  let mine := g.marks.filter fun m => m.2.1 = b.name
  let every := if g.exact then (List.range (b.stmts.filter fun s => !isRouter s.opc).length).foldl (fun a i => a + 2 ^ (4 * i)) 0 else 0
  (allSome (mine.map fun m => (stmtAt b.stmts m.2.2).bind fun i => (b.stmts[i]?).bind fun s =>
    if isRouter s.opc || 4 ≤ m.1 then none else some (2 ^ (4 * xslotOf b.stmts i + m.1)))).map fun bits => bits.foldl (fun a x => a ||| x) every

/-- A lane-file window entry (R112): it names a slot, so a router's label is an error. -/
def lfwEntry (g : XGraph) (x : String × String × Nat × Nat) : Option Word := do
  let bn ← g.blockNo x.1
  let b ← g.blocks[bn]?
  let i ← stmtAt b.stmts x.2.1
  let s ← b.stmts[i]?
  if !isRouter s.opc && x.2.2.1 < 4096 && x.2.2.2 < 4096 then some (BitVec.ofNat 64 (bn * 2 ^ 52 + xslotOf b.stmts i * 2 ^ 47 + x.2.2.1 * 2 ^ 34 + x.2.2.2 * 2 ^ 22)) else none

/-- The bytes of a binding (R111). -/
def portEntry (p : XPort) : Word := BitVec.ofNat 64 (p.kind * 2 ^ 60 + p.eng * 2 ^ 56 + p.chan * 2 ^ 48)

/-- Lay out an image: header, blocks, route table, bindings, marks, windows, and zeros up to a multiple of 64 (R103; the order of the sections is
a choice, log entry 101). -/
def layOut (flags : Nat) (id : Word) (nblk : Nat) (blocks routes ports : List Word) (marks : List Nat) (lfws : List Word) : List Byte :=
  let o1 := 64
  let o2 := o1 + 8 * blocks.length
  let o3 := o2 + 8 * routes.length
  let o4 := o3 + 8 * ports.length
  let o5 := o4 + 16 * marks.length
  let fin := o5 + 8 * lfws.length
  let len := (fin + 63) / 64 * 64
  let head (crc : Nat) : List Byte :=
    leBytes 4 0x4E415843 ++ leBytes 2 0x0100 ++ leBytes 2 flags ++ leBytes 4 len ++ leBytes 2 nblk ++ leBytes 2 routes.length ++ leBytes 4 o1 ++
      leBytes 4 o2 ++ leBytes 4 o3 ++ leBytes 2 ports.length ++ leBytes 2 lfws.length ++ leBytes 4 o4 ++ leBytes 4 o5 ++ wordBytes id ++ leBytes 4 crc ++
      leBytes 12 0
  let body := (blocks ++ routes ++ ports).flatMap wordBytes ++ marks.flatMap (leBytes 16) ++ lfws.flatMap wordBytes ++ List.replicate (len - fin) 0
  head (crc32c (head 0 ++ body)).toNat ++ body

/-- A graph whose blocks have their wave numbers. -/
def XGraph.withWaves (g : XGraph) : Option XGraph :=
  (allSome (g.blocks.map fun b => (deriveWaves b.stmts).map fun ss => { b with stmts := ss })).map fun bs => { g with blocks := bs }

/-- A device on which nothing is loaded and every tile-plane of a plane of die 0 is held by one context. -/
def bareDie (plane : Nat) : State :=
  { State.reset with slots := (List.range 64).foldl (fun m t => dset Slot.initial m (5 * t + plane) { Slot.initial with held := true, asid := 0 }) [] }

/-- Does the loader admit an image on some tile of an empty die, its placement too? An image that it would refuse is an error of the source (R130). -/
def admitted (bytes : List Byte) : Bool :=
  match readImage bytes with
  | none => false
  | some im =>
    match decodeBlocks im.blocks im.marks with
    | none => false
    | some bs => (List.range 64).any fun tile => staticStatus bs im tile [] = 0 &&
        (let plane := if im.jib then 4 else 0
         (findPlacement (bareDie plane) { unit := 0, asid := 0, die := 0, tile := tile, plane := plane, windows := true, tiles := [], hosts := [] } im bs).isSome)

/-- Does a graph name its ports, blocks and statements as R127 asks? -/
def XGraph.namesOk (g : XGraph) : Bool :=
  let names := g.ports.map (fun p => p.name) ++ g.blocks.map fun b => b.name
  let labels (b : XBlock) : List String := (b.stmts.map fun s => s.label).filter fun l => l ≠ ""
  distinct names && names.all (fun n => isIdentifier n.toList) && g.blocks.all fun b => distinct (labels b) && (labels b).all fun l => isLabel l.toList

/-- The image of a graph; none where the source is in error. A port and a block of one name are one (DESIGN CHOICE, log entry 139). -/
def assembleGraph (g0 : XGraph) : Option (List Byte) := do
  let g ← g0.withCounts.withWaves
  let blocks ← allSome (g.blocks.map xblockWords)
  let routes ← routesOf g
  let marks ← allSome (g.blocks.map (marksEntry g))
  let lfws ← allSome (g.lfws.map (lfwEntry g))
  let bytes := layOut (g.jib.toNat + 2 * g.exact.toNat) (g.id.getD 0) g.blocks.length blocks.flatten routes (g.ports.map portEntry) marks lfws
  if joinsOk g && tunesOk g && g0.namesOk && (g.ports.all fun p => p.kind ≤ 5 && p.eng < 16 && p.chan < 256) &&
      admitted bytes then
    some bytes
  else none

/-- The statements of a graph whose modifiers encode a combination of Table 4.16, as (block, statement): each gives a warning (R130). -/
def graphWarnings (g : XGraph) : List (Nat × Nat) :=
  g.withCounts.blocks.zipIdx.flatMap fun b => b.1.stmts.zipIdx.filterMap fun s =>
    if (modOf s.1.opc s.1.mods).any (modWarns s.1.opc) then some (b.2, s.2) else none

/-! ## Scalar, command and data sections (R137, R138, Table 5.1) -/

/-- A statement of a `.seq` section: a label, `.fblock`, an instruction, or a branch to a label. -/
inductive XSeq where
  | label (name : String)
  | fblock
  | ins (i : Instr)
  | brTo (p : Pred) (neg : Bool) (name : String)
  | jalTo (rd : Reg) (name : String)
deriving DecidableEq, Repr

/-- The bytes that `.fblock` adds at an offset. -/
def padTo64 (off : Nat) : Nat := (64 - off % 64) % 64

/-- The offsets of the statements of a section, and its length. -/
def seqOffsets : Nat → List XSeq → List (Nat × XSeq) × Nat
  | off, [] => ([], off)
  | off, x :: xs =>
    let next := match x with
      | .label _ => off
      | .fblock => off + padTo64 off
      | _ => off + 4
    let r := seqOffsets next xs
    ((off, x) :: r.1, r.2)

/-- The place of a label of a section. -/
def seqLabel (os : List (Nat × XSeq)) (name : String) : Option Nat :=
  os.findSome? fun o => match o.2 with
    | .label n => if n = name then some o.1 else none
    | _ => none

/-- A word and the relocation that it needs: the label of another section and the width of the field. -/
structure XItem where
  off : Nat
  bytes : List Byte
  reloc : Option (String × Nat)
deriving DecidableEq, Repr

/-- A branch at an offset: within the section its target must be 64-byte aligned; else it leaves a relocation of kind 2 (R137, R142). -/
def branchItem (os : List (Nat × XSeq)) (off : Nat) (name : String) (width : Nat) (make : Int → Instr) : Option XItem :=
  match seqLabel os name with
  | some t =>
    let d : Int := ((t : Int) - off) / 4
    if t % 64 = 0 && -(2 ^ (width - 1) : Int) ≤ d && d < 2 ^ (width - 1) then
      (encode (make d)).map fun w => { off := off, bytes := leBytes 4 w.toNat, reloc := none }
    else none
  | none => (encode (make 0)).map fun w => { off := off, bytes := leBytes 4 w.toNat, reloc := some (name, width) }

/-- What a statement of a section emits; none on an error. -/
def seqItem (os : List (Nat × XSeq)) : Nat × XSeq → Option XItem
  | (off, .label _) => some { off := off, bytes := [], reloc := none }
  | (off, .fblock) => some { off := off, bytes := (List.replicate (padTo64 off / 4) (leBytes 4 0x22000000)).flatten, reloc := none }
  | (off, .ins i) => (encode i).map fun w => { off := off, bytes := leBytes 4 w.toNat, reloc := none }
  | (off, .brTo p neg n) => branchItem os off n 21 fun d => .br p neg (BitVec.ofInt 21 d)
  | (off, .jalTo rd n) => branchItem os off n 20 fun d => .jal rd (BitVec.ofInt 20 d)

/-- A `.seq` section. -/
def assembleSeq (xs : List XSeq) : Option (List XItem) :=
  let os := (seqOffsets 0 xs).1
  allSome (os.map (seqItem os))

/-- A line of a `.stream` or `.template` section: a label or a command. -/
inductive XLine where
  | label (name : String)
  | cmd (c : XCmd)
deriving DecidableEq, Repr

/-- The commands of a section. -/
def commandsOf (ls : List XLine) : List XCmd :=
  ls.filterMap fun l => match l with
    | .label _ => none
    | .cmd c => some c

/-- A `.stream` or `.template` section: its commands in source order; a template holds `cpt.def` and `cpt.dim` only (R138). -/
def assembleCommands (abs : String → Option Nat) (isTemplate : Bool) (ls : List XLine) : Option (List Byte) :=
  let cs := commandsOf ls
  if isTemplate && cs.any (fun c => c.op ≠ .cptDef && c.op ≠ .cptDim) then none
  else (allSome (cs.map (XCmd.word abs))).map fun ws => ws.flatMap fun w => leBytes 16 w.toNat

/-- The labels of a section of commands with their offsets from one on. -/
def commandLabels : Nat → List XLine → List (String × Nat)
  | _, [] => []
  | off, .label n :: ls => (n, off) :: commandLabels off ls
  | off, .cmd _ :: ls => commandLabels (off + 16) ls

/-- A line of a `.data` section: a label, an integer of some bytes, an FW40 word as it is written, `.zero`, or the address of a symbol. -/
inductive XData where
  | label (name : String)
  | item (size : Nat) (v : Nat)
  | w40 (text : String)
  | zero (n : Nat)
  | address (name : String)
deriving DecidableEq, Repr

/-- The bytes of an item; a literal that does not fit is an error (R127). No item of `.d8` to `.d64` is negative (DESIGN CHOICE, log entry 162). -/
def dataBytes : XData → Option (List Byte)
  | .label _ => some []
  | .item n v => if (n = 1 ∨ n = 2 ∨ n = 4 ∨ n = 8) ∧ v < 2 ^ (8 * n) then some (leBytes n v) else none
  | .w40 t => (w40Item t.toList).map fun x => leBytes 5 x.toNat
  | .zero n => some (List.replicate n 0)
  | .address _ => some (leBytes 8 0)

end Sys2Proof.Machine
end

