-- ==== Sys2Proof/Machine/ObjectFile.lean ====
section
/-! DEFINITION. The object file that `xnas` writes (R139–R142): its header and tables, the relocations, and the placing of an object in memory. -/

namespace Sys2Proof.Machine

/-- A section entry (R140). -/
structure ObjSection where
  name : Nat
  kind : Nat
  align : Nat
  offset : Nat
  size : Nat
deriving DecidableEq, Repr

/-- A symbol entry (R141). -/
structure ObjSymbol where
  name : Nat
  sect : Nat
  bind : Nat
  value : Nat
deriving DecidableEq, Repr

/-- A relocation entry (R142). -/
structure ObjReloc where
  offset : Nat
  addend : Int
  symbol : Nat
  sect : Nat
  kind : Nat
  pos : Nat
  width : Nat
  shift : Nat
deriving DecidableEq, Repr

/-- An object file taken apart: its tables, the contents of its sections and its names. -/
structure ObjFile where
  sections : List (ObjSection × List Byte)
  symbols : List ObjSymbol
  relocs : List ObjReloc
  strings : List Byte
deriving DecidableEq, Repr

/-- A string of the string table, up to its zero byte (R139). -/
def ObjFile.string (o : ObjFile) (n : Nat) : List Byte := (o.strings.drop n).takeWhile fun b => b ≠ 0

/-- Read the section entries. -/
def readSections (bs : List Byte) (off n : Nat) : List ObjSection :=
  (List.range n).map fun i =>
    let f (o len : Nat) := fieldAt bs (off + 32 * i + o) len
    { name := f 0 4, kind := f 4 1, align := f 5 1, offset := f 8 8, size := f 0x10 8 }

/-- Read the symbol entries. -/
def readSymbols (bs : List Byte) (off n : Nat) : List ObjSymbol :=
  (List.range n).map fun i =>
    let f (o len : Nat) := fieldAt bs (off + 16 * i + o) len
    { name := f 0 4, sect := f 4 2, bind := f 6 1, value := f 8 8 }

/-- Read the relocation entries; an addend is signed. -/
def readRelocs (bs : List Byte) (off n : Nat) : List ObjReloc :=
  (List.range n).map fun i =>
    let f (o len : Nat) := fieldAt bs (off + 32 * i + o) len
    { offset := f 0 8, addend := (BitVec.ofNat 64 (f 8 8)).toInt, symbol := f 0x10 4, sect := f 0x14 2, kind := f 0x16 1, pos := f 0x17 1,
      width := f 0x18 1, shift := f 0x19 1 }

/-- Take an object file apart (R139); none where it is none: another MAGIC or VERSION, or a table or section that runs past its end. -/
def readObject (bs : List Byte) : Option ObjFile :=
  let f (o n : Nat) := fieldAt bs o n
  let nsec := f 6 2
  let nsym := f 0x0C 4
  let nrel := f 0x14 4
  let ss := readSections bs (f 8 4) nsec
  let ok := 64 ≤ bs.length && f 0 4 = 0x424F4E58 && f 4 2 = 0x0100 && f 8 4 + 32 * nsec ≤ bs.length && f 0x10 4 + 16 * nsym ≤ bs.length &&
    f 0x18 4 + 32 * nrel ≤ bs.length && f 0x1C 4 + f 0x20 4 ≤ bs.length && ss.all fun s => s.offset + s.size ≤ bs.length
  if ok then
    some { sections := ss.map fun s => (s, (bs.drop s.offset).take s.size), symbols := readSymbols bs (f 0x10 4) nsym,
           relocs := readRelocs bs (f 0x18 4) nrel, strings := (bs.drop (f 0x1C 4)).take (f 0x20 4) }
  else none

/-- The placed address of a symbol: an absolute value, a place in a placed section, or what another object gives to an undefined name. -/
def symbolAddr (o : ObjFile) (places : List Nat) (ext : List Byte → Option Nat) (n : Nat) : Option Nat :=
  match o.symbols[n]? with
  | none => none
  | some s =>
    if s.bind = 2 then ext (o.string s.name)
    else if s.sect = 0xFFFF then some s.value
    else (places[s.sect]?).map fun a => a + s.value

/-- The value of a relocation's field, given the symbol's address S and the address P of the quantity; none for the errors of R142. -/
def relocField (r : ObjReloc) (sym at_ : Nat) : Option Nat :=
  let sa : Int := (sym : Int) + r.addend
  if r.kind = 1 then
    let v := sa / 2 ^ r.shift
    if sa % 2 ^ r.shift = 0 ∧ 0 ≤ v ∧ v < 2 ^ r.width then some v.toNat else none
  else if r.kind = 2 then
    let v := (sa - at_) / 4 / 2 ^ r.shift
    if sa % 64 = 0 ∧ -(2 ^ r.width : Int) ≤ 2 * v ∧ 2 * v < 2 ^ r.width then some (v % 2 ^ r.width).toNat else none
  else none

/-- Put a field of `width` bits at bit `pos` of the quantity that stands at an offset of some bytes. -/
def putField (bs : List Byte) (off pos width v : Nat) : List Byte :=
  let n := (pos + width + 7) / 8
  let old := fieldAt bs off n
  let kept := old % 2 ^ pos + old / 2 ^ (pos + width) * 2 ^ (pos + width)
  bs.take off ++ leBytes n (kept + v * 2 ^ pos) ++ bs.drop (off + n)

/-- Apply one relocation; none where it is an error: one against an image section, an unknown KIND or symbol, or a value that does not fit. -/
def applyReloc (o : ObjFile) (places : List Nat) (ext : List Byte → Option Nat) (cs : List (List Byte)) (r : ObjReloc) : Option (List (List Byte)) := do
  let s ← o.sections[r.sect]?
  let c ← cs[r.sect]?
  let a ← places[r.sect]?
  let sym ← symbolAddr o places ext r.symbol
  let v ← relocField r sym (a + r.offset)
  if s.1.kind ≠ 1 && r.offset + (r.pos + r.width + 7) / 8 ≤ c.length then some (cs.set r.sect (putField c r.offset r.pos r.width v)) else none

/-- Apply relocations in order. -/
def applyRelocs (o : ObjFile) (places : List Nat) (ext : List Byte → Option Nat) : List ObjReloc → List (List Byte) → Option (List (List Byte))
  | [], cs => some cs
  | r :: rs, cs => (applyReloc o places ext cs r).bind (applyRelocs o places ext rs)

/-- The contents of an object's sections placed at some addresses, each aligned as its entry asks; none where the object is not placed (R142). -/
def placeObject (o : ObjFile) (places : List Nat) (ext : List Byte → Option Nat) : Option (List (Nat × List Byte)) :=
  if places.length = o.sections.length && (o.sections.zip places).all (fun sp => sp.2 % 2 ^ sp.1.1.align = 0) then
    (applyRelocs o places ext o.relocs (o.sections.map fun s => s.2)).map fun cs => places.zip cs
  else none

/-- Device memory with an object placed in it. -/
def storeObject (m : KMap Byte) (ps : List (Nat × List Byte)) : KMap Byte := ps.foldl (fun m p => putBytes m p.1 p.2) m

/-! ## Writing an object file -/

/-- A section entry's bytes. -/
def ObjSection.bytes (s : ObjSection) : List Byte :=
  leBytes 4 s.name ++ leBytes 1 s.kind ++ leBytes 1 s.align ++ leBytes 2 0 ++ leBytes 8 s.offset ++ leBytes 8 s.size ++ leBytes 8 0

/-- A symbol entry's bytes. -/
def ObjSymbol.bytes (s : ObjSymbol) : List Byte := leBytes 4 s.name ++ leBytes 2 s.sect ++ leBytes 1 s.bind ++ leBytes 1 0 ++ leBytes 8 s.value

/-- A relocation entry's bytes. -/
def ObjReloc.bytes (r : ObjReloc) : List Byte :=
  leBytes 8 r.offset ++ wordBytes (BitVec.ofInt 64 r.addend) ++ leBytes 4 r.symbol ++ leBytes 2 r.sect ++ leBytes 1 r.kind ++ leBytes 1 r.pos ++
    leBytes 1 r.width ++ leBytes 1 r.shift ++ leBytes 6 0

/-- Give each section the offset at which its contents stand, one after another, each on a 64-byte boundary (log entry 101). -/
def withOffsets : Nat → List (ObjSection × List Byte) → List (ObjSection × List Byte)
  | _, [] => []
  | off, (s, bs) :: rest => ({ s with offset := off, size := bs.length }, bs) :: withOffsets ((off + bs.length + 63) / 64 * 64) rest

/-- Lay contents out from an offset on, with zeros between them. -/
def layContents : Nat → List (ObjSection × List Byte) → List Byte
  | _, [] => []
  | off, (s, bs) :: rest => List.replicate (s.offset - off) 0 ++ bs ++ layContents (s.offset + bs.length) rest

/-- The bytes of an object file (R139). -/
def ObjFile.bytes (o : ObjFile) : List Byte :=
  let o1 := 64
  let o2 := o1 + 32 * o.sections.length
  let o3 := o2 + 16 * o.symbols.length
  let o4 := o3 + 32 * o.relocs.length
  let fin := o4 + o.strings.length
  let ss := withOffsets ((fin + 63) / 64 * 64) o.sections
  leBytes 4 0x424F4E58 ++ leBytes 2 0x0100 ++ leBytes 2 o.sections.length ++ leBytes 4 o1 ++ leBytes 4 o.symbols.length ++ leBytes 4 o2 ++
    leBytes 4 o.relocs.length ++ leBytes 4 o3 ++ leBytes 4 o4 ++ leBytes 4 o.strings.length ++ leBytes 28 0 ++ (ss.flatMap fun s => s.1.bytes) ++
    (o.symbols.flatMap ObjSymbol.bytes) ++ (o.relocs.flatMap ObjReloc.bytes) ++ o.strings ++ layContents fin ss

/-- A scope of a source that becomes a section (R128): its name and what it holds. -/
inductive XScope where
  | graph (name : String) (g : XGraph)
  | seq (name : String) (xs : List XSeq)
  | stream (name : String) (ls : List XLine)
  | template (name : String) (index : Nat) (ls : List XLine)
  | data (name : String) (align : Option Nat) (xs : List XData)
deriving DecidableEq, Repr

/-- A section as assembled: kind, log2 of its alignment, contents, symbols as (name, offset) in it or absolute, and relocations as (offset, symbol,
kind, position, width). -/
structure XSection where
  kind : Nat
  align : Nat
  bytes : List Byte
  symbols : List (String × Option Nat × Nat)
  relocs : List (Nat × String × Nat × Nat × Nat)
deriving DecidableEq, Repr

/-- The relocations and bytes of data items from an offset on. -/
def assembleData : Nat → List XData → Option (List Byte × List (Nat × String × Nat × Nat × Nat))
  | _, [] => some ([], [])
  | off, x :: xs =>
    match dataBytes x with
    | none => none
    | some bs => (assembleData (off + bs.length) xs).map fun r =>
        (bs ++ r.1, (match x with | .address n => [(off, n, 1, 0, 64)] | _ => []) ++ r.2)

/-- The labels of data items with their offsets from one on. -/
def dataLabels : Nat → List XData → List (String × Nat)
  | _, [] => []
  | off, .label n :: xs => (n, off) :: dataLabels off xs
  | off, x :: xs => dataLabels (off + ((dataBytes x).getD []).length) xs

/-- The relocations of a section of commands: those of address fields that name a symbol (R142). -/
def commandRelocs (cs : List XCmd) : List (Nat × String × Nat × Nat × Nat) :=
  cs.zipIdx.flatMap fun c => c.1.symbols.map fun f => (16 * c.2, f.1, 1, f.2.1, f.2.2)

/-- Assemble a scope; none on an error. The alignment of data is written as a power of two from 1 to 4,096, and is 16 by default (Table 5.1). Its name is a symbol for its start, but a template's name is the absolute value of its index (Table 5.1);
labels of every section but an image are symbols too (R141). -/
def assembleScope (abs : String → Option Nat) : XScope → Option XSection
  | .graph n g => (assembleGraph g).map fun bs => { kind := 1, align := 6, bytes := bs, symbols := [(n, some 0, 0)], relocs := [] }
  | .seq n xs =>
    let os := (seqOffsets 0 xs).1
    let labels := os.filterMap fun o => match o.2 with | .label l => some (l, some o.1, o.1) | _ => none
    (assembleSeq xs).map fun is =>
      { kind := 2, align := 6, bytes := is.flatMap fun i => i.bytes, symbols := (n, some 0, 0) :: labels,
        relocs := is.filterMap fun i => i.reloc.map fun r => (i.off, r.1, 2, 0, r.2) }
  | .stream n ls => (assembleCommands abs false ls).map fun bs =>
      { kind := 3, align := 4, bytes := bs, symbols := (n, some 0, 0) :: (commandLabels 0 ls).map fun l => (l.1, some l.2, l.2),
        relocs := commandRelocs (commandsOf ls) }
  | .template n i ls => if i < 256 then
      (assembleCommands abs true ls).map fun bs =>
        { kind := 4, align := 4, bytes := bs, symbols := (n, none, i) :: (commandLabels 0 ls).map fun l => (l.1, some l.2, l.2),
          relocs := commandRelocs (commandsOf ls) } else none
  | .data n a xs => do
      let k ← (List.range 13).find? fun k => 2 ^ k = a.getD 16
      let r ← assembleData 0 xs
      some { kind := 5, align := k, bytes := r.1, symbols := (n, some 0, 0) :: (dataLabels 0 xs).map fun l => (l.1, some l.2, l.2), relocs := r.2 }

/-- The value of a template's name in a source (Table 5.1). -/
def templateIndex (src : List XScope) (name : String) : Option Nat :=
  src.findSome? fun x => match x with
    | .template n i _ => if n = name then some i else none
    | _ => none

/-- The warnings of a source (R130), as (scope, block, statement): operator modifiers and command flags that Table 4.16 lists. -/
def sourceWarnings (src : List XScope) : List (Nat × Nat × Nat) :=
  src.zipIdx.flatMap fun x => match x.1 with
    | .graph _ g => (graphWarnings g).map fun w => (x.2, w.1, w.2)
    | .stream _ ls | .template _ _ ls => (commandsOf ls).zipIdx.filterMap fun c => if c.1.warns (templateIndex src) then some (x.2, 0, c.2) else none
    | .seq .. | .data .. => []

/-- The characters of a name as bytes, and the zero byte that ends it. -/
def nameBytes (s : String) : List Byte := (s.toList.map fun c => BitVec.ofNat 8 c.toNat) ++ [0]

/-- The string table's offset of the name at a place of a list. -/
def nameOffset (ns : List String) (i : Nat) : Nat := ((ns.take i).flatMap nameBytes).length

/-- A symbol that a source defines: its name, its section or 0xFFFF, and its value. -/
structure XSymbol where
  name : String
  sect : Nat
  value : Nat
deriving DecidableEq, Repr

/-- The symbol that a name refers to from a section: one of that section, else the only one of any section. A section and labels of several sections
may share a name; one that is then ambiguous is an error, the outer none (log entry 101). -/
def resolveSymbol (defs : List XSymbol) (sect : Nat) (name : String) : Option (Option Nat) :=
  match (defs.zipIdx.filter fun d => d.1.name = name && d.1.sect = sect).getLast? with
  | some d => some (some d.2)
  | none =>
    match defs.zipIdx.filter fun d => d.1.name = name with
    | [] => some none
    | d :: ds => if ds.all fun e => e.1.sect = d.1.sect && e.1.value = d.1.value then some (some d.2) else none

/-- The object of a source: its sections in order, its symbols (those of `globals` global, names that only relocations use undefined), and its
relocations; none on an error. With `-strict`, a warning is one (R130). A `.global` of a name that nothing defines or uses has no effect (DESIGN CHOICE, log
entry 163). -/
def assemble (strict : Bool) (globals : List String) (src : List XScope) : Option ObjFile := do
  let ss ← allSome (src.map (assembleScope (templateIndex src)))
  let defs : List XSymbol := ss.zipIdx.flatMap fun s => s.1.symbols.map fun y => { name := y.1, sect := if y.2.1.isSome then s.2 else 0xFFFF, value := y.2.2 }
  let names := defs.map fun d => d.name
  let undef := ((ss.flatMap fun s => s.relocs.map fun r => r.2.1).filter fun n => !names.contains n).eraseDups
  let all := names ++ undef
  let syms := (defs.zipIdx.map fun d =>
      ({ name := nameOffset all d.2, sect := d.1.sect, bind := if globals.contains d.1.name then 1 else 0, value := d.1.value } : ObjSymbol)) ++
    undef.zipIdx.map fun u => { name := nameOffset all (names.length + u.2), sect := 0, bind := 2, value := 0 }
  let target (sect : Nat) (name : String) : Option Nat :=
    (resolveSymbol defs sect name).bind fun k => k.orElse fun _ => (undef.findIdx? fun n => n = name).map fun i => names.length + i
  let rels ← allSome (ss.zipIdx.flatMap fun s => s.1.relocs.map fun r => (target s.2 r.2.1).map fun k =>
    ({ offset := r.1, addend := 0, symbol := k, sect := s.2, kind := r.2.2.1, pos := r.2.2.2.1, width := r.2.2.2.2, shift := 0 } : ObjReloc))
  let starts (i : Nat) : Nat := ((ss.take i).map fun s => s.symbols.length).sum
  let own (x : XSection) : List String := (x.symbols.drop 1).map fun y => y.1
  if (all ++ globals).all (fun n => isIdentifier n.toList) && distinct (ss.filterMap fun s => s.symbols.head?.map fun y => y.1) && ss.all (fun s => distinct (own s)) && !(strict && !(sourceWarnings src).isEmpty) then
    some { sections := ss.zipIdx.map fun s =>
             ({ name := nameOffset all (starts s.2), kind := s.1.kind, align := s.1.align, offset := 0, size := s.1.bytes.length }, s.1.bytes),
           symbols := syms, relocs := rels, strings := all.flatMap nameBytes }
  else none

end Sys2Proof.Machine
end

