-- ==== Sys2Proof/Tests/Slice0.lean ====
section
/-! SUPPORT. Tests: ill-formed terms that the check refuses, words written out from the tables of the spec, and small states that meet the hypotheses
of the statements. -/

set_option Elab.async false

namespace Sys2Proof.Tests

open Sys2Proof.Machine Sys2Proof.Safety

/-! ## Ill-formed terms -/

/-- Tile-plane 0 of die 0. -/
def tp0 : Tp := { die := 0, tile := 0, plane := 0 }
/-- Operator slot 0 of block 0 there. -/
def op0 : Site := { tp := tp0, blk := 0, rtr := false, slot := 0 }
/-- Router slot 0 of block 0 there. -/
def rtr0 : Site := { tp := tp0, blk := 0, rtr := true, slot := 0 }

theorem test_wf_die : Instr.wf (.ahaltWrite 4 0) = false ∧ Instr.wf (.ahaltWrite 3 0) = true := by decide
theorem test_wf_tile : Instr.wf (.unitRestore 0 { tp0 with tile := 64 }) = false ∧ Instr.wf (.unitRestore 0 { tp0 with tile := 63 }) = true := by decide
theorem test_wf_plane : Instr.wf (.unitRestore 0 { tp0 with plane := 5 }) = false ∧ Instr.wf (.unitRestore 0 { tp0 with plane := 4 }) = true := by decide
theorem test_wf_operator : Instr.wf (.opAdd rtr0) = false ∧ Instr.wf (.opAdd { op0 with slot := 96 }) = false ∧ Instr.wf (.opAdd { op0 with slot := 95 }) = true ∧ Instr.wf (.opAdd op0) = true := by decide
theorem test_wf_router : Instr.wf (.opSteer op0) = false ∧ Instr.wf (.opSteer { rtr0 with blk := 4095 }) = false ∧ Instr.wf (.opSteer rtr0) = true := by decide
theorem test_wf_function : Instr.wf (.mbdb (.vf 64)) = false ∧ Instr.wf (.mbdb (.vf 63)) = true := by decide
theorem test_wf_queue : Instr.wf (.wdctlKick { die := 0, q := 1024 }) = false ∧ Instr.wf (.wdctlKick { die := 3, q := 1023 }) = true := by decide
theorem test_wf_chain : Instr.wf (.chainDoorbell { kind := .mxq, die := 0, num := 16 }) = false ∧
    Instr.wf (.chainDoorbell { kind := .gre, die := 0, num := 64 }) = false ∧ Instr.wf (.chainDoorbell { kind := .gre, die := 0, num := 63 }) = true := by decide
theorem test_wf_stream : Instr.wf (.sheaveLoadEmit { die := 0, shv := 16, strm := 0 }) = false ∧
    Instr.wf (.sheaveLoadEmit { die := 0, shv := 15, strm := 15 }) = true := by decide
theorem test_wf_channel : Instr.wf (.bteLanding { die := 0, ch := 32 } 1) = false ∧ Instr.wf (.bteLanding { die := 0, ch := 31 } 1) = true := by decide
theorem test_wf_issuer : Instr.wf (.snop (.chain { kind := .gre, die := 0, num := 0 } 0) 0) = false ∧ Instr.wf (.snop (.seq 0) 0) = true := by decide
theorem test_wf_withheld : Instr.wf (.xlatRewalk (.chain { kind := .qe, die := 4, num := 0 })) = false ∧ Instr.wf (.xlatRewalk (.eng 0)) = true := by decide
theorem test_wf_opcode : Instr.wf (.sync (.seq 0) 0) = false ∧ Instr.wf (.sync (.seq 0) (0x01#8 ++ 0#120)) = true := by decide
theorem test_wf_form : Instr.wf (.gathIdxBag (.seq 0) (0x32#8 ++ 0#120)) = false ∧ Instr.wf (.gathIdxList (.seq 0) (0x32#8 ++ 0#120)) = true := by decide
theorem test_wf_illegal : Instr.wf (.illegalInstruction 0x02000000) = false ∧ Instr.wf (.illegalInstruction 0) = true := by decide
theorem test_wf_window : Instr.wf (.hostBar2Read (2 ^ 36) 1) = false ∧ Instr.wf (.hostBar2Read (2 ^ 36 - 1) 1) = true := by decide
theorem test_wf_atomic : Instr.wf (.hostAtomicop 0 16 .swap 0 0) = false ∧ Instr.wf (.hostAtomicop 4 8 .cas 0 0) = false ∧
    Instr.wf (.hostAtomicop 0 16 .cas 0 0) = true := by decide
theorem test_wf_not : Instr.wf (.plog 1 .not 2 3) = false ∧ Instr.wf (.plog 1 .not 2 0) = true := by decide

/-! ## Words (Tables 4.12 and 4.13: the match value of the table, and each field at the bits that it gives) -/

theorem test_words_arithmetic_1 :
    decodeWord 0x02F43400 = .ok (.add 15 8 13) ∧
    decodeWord 0x05967C00 = .ok (.sub 25 12 31) ∧
    decodeWord 0x06384400 = .ok (.and 3 16 17) ∧
    decodeWord 0x08DA0C00 = .ok (.or 13 20 3) ∧
    decodeWord 0x0B7C5400 = .ok (.xor 23 24 21) ∧
    decodeWord 0x0C1E1C00 = .ok (.sll 1 28 7) ∧
    decodeWord 0x0EB06400 = .ok (.srl 11 0 25) ∧
    decodeWord 0x11522C00 = .ok (.sra 21 4 11) ∧
    decodeWord 0x13F47400 = .ok (.mul 31 8 29) := by
  decide

theorem test_words_arithmetic_2 :
    decodeWord 0x14963C00 = .ok (.mulh 9 12 15) ∧
    decodeWord 0x17380400 = .ok (.div 19 16 1) ∧
    decodeWord 0x19DA4C00 = .ok (.rem 29 20 19) ∧
    decodeWord 0x1A7C1400 = .ok (.slt 7 24 5) ∧
    decodeWord 0x1D1E5C00 = .ok (.sltu 17 28 23) ∧
    decodeWord 0x1FB02400 = .ok (.min 27 0 9) ∧
    decodeWord 0x20526C00 = .ok (.max 5 4 27) := by
  decide

theorem test_words_immediates :
    decodeWord 0x22F43C2D = .ok (.addi 15 8 15405) ∧
    decodeWord 0x25960EFF = .ok (.andi 25 12 3839) ∧
    decodeWord 0x263861D1 = .ok (.ori 3 16 25041) ∧
    decodeWord 0x28DA34A3 = .ok (.xori 13 20 13475) ∧
    decodeWord 0x2B7C0035 = .ok (.slli 23 24 53) ∧
    decodeWord 0x2C1E0007 = .ok (.srli 1 28 7) ∧
    decodeWord 0x2EB00019 = .ok (.srai 11 0 25) ∧
    decodeWord 0x315D2D04 = .ok (.lui 21 863492) := by
  decide

theorem test_words_memory_1 :
    decodeWord 0x41F452BD = .ok (.ld 31 8 21181) ∧
    decodeWord 0x4296258F = .ok (.lw 9 12 9615) ∧
    decodeWord 0x45387861 = .ok (.lwu 19 16 30817) ∧
    decodeWord 0x47DA4B33 = .ok (.lh 29 20 19251) ∧
    decodeWord 0x487C1E05 = .ok (.lhu 7 24 7685) ∧
    decodeWord 0x4B1E70D7 = .ok (.lb 17 28 28887) ∧
    decodeWord 0x4DB043A9 = .ok (.lbu 27 0 17321) ∧
    decodeWord 0x5052167B = .ok (.sd 5 4 5755) ∧
    decodeWord 0x52F4694D = .ok (.sw 15 8 26957) := by
  decide

theorem test_words_memory_2 :
    decodeWord 0x55963C1F = .ok (.sh 25 12 15391) ∧
    decodeWord 0x56380EF1 = .ok (.sb 3 16 3825) := by
  decide

theorem test_words_predicates :
    decodeWord 0x6140E000 = .ok (.pset 5 .eq 3 16) ∧
    decodeWord 0x63C52000 = .ok (.plog 7 .or 0 5) := by
  decide

theorem test_words_control :
    decodeWord 0x706B8767 = .ok (.br 1 true 755559) ∧
    decodeWord 0x72B1E1A0 = .ok (.jal 11 123296) ∧
    decodeWord 0x75522D0B = .ok (.jalr 21 4 11531) := by
  decide

theorem test_words_csrs :
    decodeWord 0x81F47EE8 = .ok (.csrrw 31 8 4061) ∧
    decodeWord 0x82961578 = .ok (.csrrs 9 12 687) ∧
    decodeWord 0x85382C08 = .ok (.csrrc 19 16 1409) ∧
    decodeWord 0x89D40000 = .ok (.gset 29 4) ∧
    decodeWord 0x8A780000 = .ok (.gget 7 8) := by
  decide

theorem test_words_system_1 :
    decodeWord 0xA11E5C00 = .ok (.cfgld 17 28 23) ∧
    decodeWord 0xA3B02400 = .ok (.cmd 27 0 9) ∧
    decodeWord 0xA4520000 = .ok (.launch 5 4) ∧
    decodeWord 0xA6F40000 = .ok (.launchNb 15 8) ∧
    decodeWord 0xA9900000 = .ok (.yield 25) ∧
    decodeWord 0xAA380000 = .ok (.waitNtf 3 16) ∧
    decodeWord 0xAADA0001 = .ok (.waitLvl 13 20) ∧
    decodeWord 0xAB7C5402 = .ok (.waitGeu 23 24 21) ∧
    decodeWord 0xAA1E1C03 = .ok (.waitEq 1 28 7) := by
  decide

theorem test_words_system_2 :
    decodeWord 0xAC0583E0 = .ok (.trap 11 992) ∧
    decodeWord 0xAE000000 = .ok (.eret) ∧
    decodeWord 0xB0000007 = .ok (.fence 7) ∧
    decodeWord 0xB2000000 = .ok (.endUnit) := by
  decide

/-- An operator word of form C: `add`, two results to port 1 of operator 3 and to exit 5 (Tables 4.4 to 4.6). -/
theorem test_words_operator :
    decodeOp (0x01#8 ++ 0x00#8 ++ 0#4 ++ 0#6 ++ 0#2 ++ (1#2 ++ 3#5 ++ 1#2) ++ (2#2 ++ 5#7) ++ 0#9 ++ 0#9) =
      .ok { opc := .add, mod := 0, ty := 0, repl := 0, imm := none, wp := 0, ww := 0, ws := 0, t0 := .op 3 1, t1 := .exit 5, t2 := .none, t3 := .none } ∧
    decodeOp (0x01#8 ++ 0x00#8 ++ 0#4 ++ 0#6 ++ 2#2 ++ (3#2 ++ 2#5 ++ 1#2) ++ 77#27) =
      .ok { opc := .add, mod := 0, ty := 0, repl := 0, imm := some 77, wp := 0, ww := 0, ws := 0, t0 := .rtr 2 1, t1 := .none, t2 := .none, t3 := .none } ∧
    decodeOp (0x01#8 ++ 0#16 ++ 0#2 ++ 1#2 ++ 0#36) = .bad .form ∧ decodeOp (0x00#8 ++ 0#56) = .bad .opc := by decide

/-- A word of form M: `vld` of wave numbers 1, 2 and 3; and one of form R: `steer`. -/
theorem test_words_memory_operator :
    decodeOp (0x90#8 ++ 0x00#8 ++ 1#4 ++ 0#6 ++ 1#6 ++ 2#6 ++ 3#6 ++ 0#2 ++ (2#2 ++ 5#7) ++ 0#9) =
      .ok { opc := .vld, mod := 0, ty := 1, repl := 0, imm := none, wp := 1, ww := 2, ws := 3, t0 := .exit 5, t1 := .none, t2 := .none, t3 := .none } ∧
    decodeOp (0x80#8 ++ 0x00#8 ++ 0#4 ++ 0#6 ++ 0#2 ++ (1#2 ++ 3#5 ++ 0#2) ++ 0#9 ++ (2#2 ++ 5#7) ++ 0#9) =
      .ok { opc := .steer, mod := 0, ty := 0, repl := 0, imm := none, wp := 0, ww := 0, ws := 0, t0 := .op 3 0, t1 := .none, t2 := .exit 5, t3 := .none } := by
  decide

/-! ## A small machine: one unit of job 7 runs on tile-plane 0, and the first GiB of its memory is the first of device memory -/

/-- The unit. -/
def unit0 : WorkUnit := { loadedUnit with job := 7, launch := 5 }

/-- Its job, open for the PF, with a save area at 64 KiB boundaries. -/
def job7 : Job :=
  { asid := 0xFFF, fn := .pf, nbase := 0, ncount := 16, root := 0x10000, savea := 0x10000000, size := 0x5000000, phase := 1,
    level := { Level.fresh with count := 1 }, phases := [(1, Level.fresh)], graphs := [], deperr := false, external := false, fhead := 0, nunit := 0,
    ended := [], armed := [], phasebnd := none, doom := none, killed := false }

/-- Tile-plane 0 as the slot table shows it: held by the ASID and the job, bound to unit 0. -/
def slot0 : Slot := { held := true, bound := true, entry := 0, job := 7, asid := 0xFFF, unit := some 0 }

/-- The machine. -/
def s0 : State :=
  { State.reset with cur := some 0, units := [(0, unit0)], jobs := [(7, job7)], roots := [(0xFFF, 0x10000)], slots := [(0, slot0)],
                     mem := loadedTable [], fwState := .running, nextId := 10 }

/-- The machine with another unit 0. -/
def sU (w : WorkUnit) : State := { s0 with units := [(0, w)] }

/-- The answer of an access that is done. -/
def okOf {α : Type} : Got α → Option α
  | .ok x => some x
  | _ => none

theorem of_okOf {α : Type} {g : Got α} {x : α} (h : okOf g = some x) : g = .ok x := by
  cases g with
  | ok y => simp only [okOf, Option.some.injEq] at h; rw [h]
  | bad c va => simp [okOf] at h
  | waits => simp [okOf] at h

/-- The bytes of a read by a sequencer that is done. -/
def readOf : SeqRead → Option (List Byte)
  | .ok bs => some bs
  | _ => none

theorem of_readOf {r : SeqRead} {bs : List Byte} (h : readOf r = some bs) : r = .ok bs := by
  cases r <;> simp_all [readOf]

/-! ## Scalar instructions -/

theorem test_acts : Acts s0 0 unit0 := ⟨rfl, rfl, by decide⟩

theorem test_shift_amount : decodeWord (encI 0x15 1 2 63) = .ok (.slli 1 2 63) ∧ decodeWord (encI 0x15 1 2 64) = .bad .zeroField := by decide

theorem test_codes : decodeWord (encP 1 5 2 3) = .ok (.pset 1 .geu 2 3) ∧ decodeWord (encP 1 6 2 3) = .bad .badCond ∧
    decodeWord (encL 1 2 0 4) = .ok (.plog 1 .not 2 0) ∧ decodeWord (encL 1 2 3 5) = .bad .badFn ∧ decodeWord (encL 1 2 3 4) = .bad .zeroField := by decide

theorem test_registers : (5 : Reg) ≠ 0 ∧ (6 : Reg) ≠ 5 := by decide

/-- Taken and not taken; aligned targets of each form from 0x20000. -/
theorem test_branch_targets : (unit0.pred 0 ^^ true) = true ∧ (unit0.pred 0 ^^ false) = false ∧
    (BitVec.ofInt 57 (unit0.pc.toNat + 4 * (16 : BitVec 21).toInt)).toNat % 64 = 0 ∧
    (BitVec.ofInt 57 (unit0.pc.toNat + 4 * (-16 : BitVec 20).toInt)).toNat % 64 = 0 ∧
    (BitVec.ofInt 57 ((unit0.reg 0).toNat + (0x40 : BitVec 15).toInt)).toNat % 64 = 0 := by decide

theorem test_unaligned_targets : (BitVec.ofInt 57 (unit0.pc.toNat + 4 * (1 : BitVec 21).toInt)).toNat % 64 ≠ 0 ∧
    (BitVec.ofInt 57 (unit0.pc.toNat + 4 * (15 : BitVec 20).toInt)).toNat % 64 ≠ 0 ∧
    (BitVec.ofInt 57 ((unit0.reg 0).toNat + (4 : BitVec 15).toInt)).toNat % 64 ≠ 0 := by decide

/-- The unit in handler mode. -/
def handler0 : WorkUnit := { unit0 with hmode := true, hepc := 0x20044, hcause := 4 }

theorem test_acts_handler : Acts (sU handler0) 0 handler0 ∧ handler0.hmode = true ∧ unit0.hmode = false := ⟨⟨rfl, rfl, by decide⟩, rfl, rfl⟩

theorem test_handles : ({ unit0 with hvecEn := true } : WorkUnit).hmode = false ∧ ({ unit0 with hvecEn := true } : WorkUnit).hvecEn = true := ⟨rfl, rfl⟩

/-- The CSR numbers at the edges of Table 9.1. -/
theorem test_csr_numbers : csrRead s0 unit0 0x001 = none ∧ csrRead s0 unit0 0x105 = none ∧ csrRead s0 unit0 0x87F = none ∧ csrRead s0 unit0 0x880 = none ∧
    csrRead s0 unit0 0x87E ≠ none ∧ csrRead s0 unit0 0x100 ≠ none ∧ csrRead s0 unit0 0x104 ≠ none := by decide

theorem test_csr_write : csrRead s0 unit0 0x021 = some 0 ∧ csrRead (sU handler0) handler0 0x104 = some 0 ∧ handler0.hmode = true := by decide

/-- An aligned load and store of the first page: their places, which nothing holds back. -/
theorem test_access_place : place s0 0xFFF 0x20000 8 .read = .ok (.dpa 0x20000) ∧ place s0 0xFFF 0x20000 8 .write = .ok (.dpa 0x20000) ∧
    windowed s0 none (.dpa 0x20000) 8 = false ∧ tierBusy s0 (.dpa 0x20000) = false ∧ writeHeld s0 none (.dpa 0x20000) 8 = false ∧ unit0.poisoned = false ∧
    Memory.wf s0.mem = true ∧ Memory.wf s0.sysMem = true :=
  ⟨of_okOf (by decide), of_okOf (by decide), by decide, by decide, by decide, rfl, by decide, by decide⟩

/-- A unit whose s2 holds 0x20000. -/
def unit2 : WorkUnit := { unit0 with regs := unit0.regs.set 2 0x20000 }

theorem test_access_address : (BitVec.ofInt 57 ((unit2.reg 2).toNat + (8 : BitVec 15).toInt)).toNat = 0x20008 ∧
    (BitVec.ofInt 57 ((unit2.reg 2).toNat + (-4 : BitVec 15).toInt)).toNat % 8 ≠ 0 ∧ Acts (sU unit2) 0 unit2 :=
  ⟨by decide, by decide, rfl, rfl, by decide⟩

/-- The machine with further pages: the second GiB is aperture, the third a system target, the fourth a replicated page, the fifth malformed. -/
def sP : State :=
  { s0 with mem := putBytes s0.mem 0x12008 (leBytes 8 0x9F ++ leBytes 8 (0x5F + 2 ^ 31) ++ leBytes 8 (0x61F + 2 * 2 ^ 8) ++ leBytes 8 0x1DF) }

theorem test_other_pages : translate sP 0xFFF 0x40000008 .read = .ok (.aperture 0 8) ∧ translate sP 0xFFF 0x40000008 .write = .ok (.aperture 0 8) ∧
    place sP 0xFFF 0x80000008 8 .write = .ok (.sys (0xFFF * 2 ^ 58 + 0x80000008)) ∧ translate sP 0xFFF 0x100000000 .write = .bad 0x12 :=
  ⟨by decide, by decide, of_okOf (by decide), by decide⟩

/-- Fence scopes at the edge, `eret` and `end` in both modes. -/
theorem test_scopes : (4 : BitVec 3).toNat < 5 ∧ 5 ≤ (5 : BitVec 3).toNat := by decide

/-- `wait` conditions: notifications at and above the count, a level of the job, and a location that holds 0. -/
theorem test_wait_conditions : (unit0.reg 0).toNat ≤ unit0.ntfc.toNat ∧ unit0.ntfc.toNat < (unit2.reg 2).toNat ∧
    levelOf s0 7 (unit2.reg 2) = none ∧ levelOf s0 7 (0x4000700000000000 : Word) ≠ none ∧
    waitHit s0 0 = false ∧ (unit2.reg 2).toNat % 2 ^ 57 % 8 = 0 ∧ (∃ bs, seqRead s0 unit0 0x20000 8 .read = .ok bs ∧ wordOf bs = unit0.reg 0) ∧
    translate s0 0xFFF 0x20000 .read = .ok (.dpa 0x20000) :=
  ⟨by decide, by decide, by decide, by decide, by decide, by decide, ⟨List.replicate 8 0, of_readOf (by decide), by decide⟩, by decide⟩

/-- A unit that has waited for a notification since tick 0, with a timeout of 5 ticks. -/
def unitW : WorkUnit := { unit2 with seq := .wait 0 (.waitNtf 3 2) [], wto := 5 }

theorem test_wait_times_out : kget (sU unitW).units 0 = some unitW ∧ unitW.life = .bound ∧ unitW.held = none ∧ unitW.cancelled = false ∧
    unitW.seq = .wait 0 (.waitNtf 3 2) [] ∧ (unitW.wto ≠ 0 ∧ unitW.wto.toNat ≤ (({ sU unitW with tb := 5 } : State).tb - 0).toNat) ∧
    ¬ (unitW.wto ≠ 0 ∧ unitW.wto.toNat ≤ (({ sU unitW with tb := 4 } : State).tb - 0).toNat) ∧ unitW.ntfc.toNat < (unitW.reg 2).toNat ∧
    (unitW.reg 0).toNat ≤ unitW.ntfc.toNat :=
  ⟨rfl, rfl, rfl, rfl, rfl, by decide, by decide, by decide, by decide⟩

/-- The same unit, whose awaited location has been written. -/
theorem test_wait_hit : waitHit { s0 with watches := [(0, { p := .dpa 0x20000, die := 0, n := 8, cond := 5, bits := 64, val := 1, hit := some 1 })] } 0 = true := by
  decide

theorem test_yield : unit0.req = false ∧ Acts (sU { unit0 with req := true }) 0 { unit0 with req := true } := ⟨rfl, rfl, rfl, by decide⟩

/-! ## Launches, commands and images -/

/-- A packet of one unit for job 7, phase 1. -/
def packet7 : List Word := [1, 0x10007, 0x20000, 0, 0, 0, 0, 0]

set_option maxRecDepth 20000 in
theorem test_launch_packet : checkPacket s0 (packetOf packet7) (some 7) (planeRefused (packetOf packet7) false) = 0 ∧
    checkPacket s0 (packetOf []) (some 7) (planeRefused (packetOf []) false) ≠ 0 ∧ poolEntry s0 0 = some 0 ∧ (unit2.reg 2).toNat % 2 ^ 57 % 64 = 0 ∧
    readOf (seqRead s0 unit0 0x20000 64 .read) = some (List.replicate 64 0) := by decide

theorem test_launch_no_entry : poolEntry { s0 with spills := [(0, [99])] } 0 = none ∧ unit0.cpath = false ∧ (spillOf { s0 with spills := [(0, [99])] } 0).length < 256 ∧
    s0.blob.spill = 256 ∧ Blob.spill { s0.blob with spill := 1 } ≤ (spillOf { s0 with spills := [(0, [99])] } 0).length := by decide

/-- The status of a command's issue; none where it waits or faults. -/
def codeOf : Issued → Option Nat
  | .st _ c => some c
  | _ => none

theorem of_codeOf {i : Issued} {c : Nat} (h : codeOf i = some c) : ∃ s, i = .st s c := by
  cases i with
  | st s d => simp only [codeOf, Option.some.injEq] at h; exact ⟨s, by rw [h]⟩
  | waits => simp [codeOf] at h
  | fault c v => simp [codeOf] at h

/-- Does a command's issue wait? -/
def isWaits : Issued → Bool
  | .waits _ => true
  | _ => false

theorem of_isWaits {i : Issued} (h : isWaits i = true) : ∃ on, i = .waits on := by cases i <;> simp_all [isWaits]

/-- A command of an opcode with some fields. -/
def cmdOf (o : BitVec 8) (fields : List (Nat × Nat)) : Cmd128 := o ++ BitVec.ofNat 120 (fields.foldl (fun a f => a + f.2 * 2 ^ f.1) 0)

/-- An operation of unit 0 on an engine. -/
def opOf0 (row : Engine) (b : OpBody) : EngOp := (Ctx.ofUnit 0 unit0).op row 0 b {}

/-- A machine with a full queue of the quantisation engine. -/
def sFull : State :=
  { s0 with ops := (List.range 64).map fun i => (i, opOf0 .qe (.qnt { dq := false, a := 0, q := 0, wfmt := 0, qfmt := 5, blen := 0, cvm := 0, nblk := 1, next := 0 })) }

theorem test_cmd_issues : (∃ s, issueCmd .snop s0 (Ctx.ofUnit 0 unit0) (cmdOf 0x00 []) = .st s 0) ∧ Sopc.ofCode 0x0F = none ∧ unit0.feWait = none ∧
    (∃ on, issueCmd .qntBlk sFull (Ctx.ofUnit 0 unit0) (cmdOf 0x40 [(24, 5)]) = .waits on) ∧ cmdFe (cmdOf 0x00 []) = false :=
  ⟨of_codeOf (by decide), by decide, rfl, of_isWaits (by decide), by decide⟩

/-- Tile-planes that `cfgld` may and may not load, by s2; a header of 64 bytes. -/
theorem test_cfgld_targets : (5 : Nat) ≤ 0x140 / 64 % 8 ∧ dget Slot.initial s0.slots 0 = slot0 ∧ (dget Slot.initial s0.slots 1).held = false ∧
    tpQuiet s0 0 = true ∧ ¬ (({ slot0 with unit := some 1 } : Slot).bound = true → ({ slot0 with unit := some 1 } : Slot).unit = some 0) ∧
    fieldAt (leBytes 8 0 ++ leBytes 4 64) 8 4 = 64 := by decide

/-! ## Firings -/

/-- A token of sixteen ones. -/
def ones : Token := Token.make (fun _ => 1) 0xFFFF .data

/-- An operator's or router's word. -/
def wordOfOpc (o : Opc) (imm : Option (BitVec 27)) : OpWord :=
  { opc := o, mod := 0, ty := 0, repl := 0, imm := imm, wp := 1, ww := 0, ws := 0, t0 := .exit 0, t1 := .none, t2 := .none, t3 := .none }

/-- An operator slot of one copy on element 0. -/
def slotOf (w : OpWord) : OpSlot :=
  { word := w, exact := false, comm := false, trip := false, voter := false, lfw := some (8, 4),
    copies := [{ tile := 0, elem := 0, hdr := Hdr.initial, acc := Vector.replicate 16 0, cnt := 0 }], dealt := 0, stopped := [], pend := [] }

/-- A router slot. -/
def routerOf (o : Opc) : RtrSlot := { word := wordOfOpc o none, tile := 0, elem := 0, loop := false, tookX := false, count := 0 }

/-- An arc from stream port `i` that holds a token. -/
def arcIn (d : ArcEnd) (i : Nat) (t : Token) : Arc :=
  { src := .port i, dst := d, cap := 4, depth := 0, entry := true, leavesMem := false, count := 1, hcount := 0, q := [.tok t { n := some 0, pre := [], via := [] }] }

/-- The image of unit 0 with one operator and one router, a token at each input, and a free result arc of each. -/
def imageOf (sl : OpSlot) (r : RtrSlot) (ts : List Token) : Image :=
  { unit := 0, job := 7, die := 0, tile := 0, plane := 0, graphid := 0,
    blocks := [{ tile := 0, bsel := false, ops := [sl], rtrs := [r] }],
    arcs := ts.mapIdx (fun i t => arcIn (.op 0 0 i) i t) ++ ts.mapIdx (fun i t => arcIn (.rtr 0 0 i) (8 + i) t) ++
      [{ arcIn (.port 20) 0 ones with src := .op 0 0 0, q := [], count := 0 }, { arcIn (.port 21) 0 ones with src := .rtr 0 0 0, q := [], count := 0 }],
    ports := List.replicate 24 { kind := 5, eng := 0, chan := 0, hdr := Hdr.initial, headed := false }, src := [], va := 0 }

/-- The machine with an image loaded. -/
def sI (img : Image) : State := { s0 with images := [(0, img)] }

/-- Do the hypotheses of a firing hold of an operator in a state: it is ready, its tokens are plain, and its result arcs have room? -/
def readyB (s : State) (img : Image) (sl : OpSlot) : Bool :=
  decide (kget s.images 0 = some img) && decide (img.slotAt op0 = some sl) && sl.halts == false && mayFire s img && jibFirst s op0 == false && img.hasRoom op0 allTargets &&
    takesHalted s img op0 (arcPorts sl.word) == false && match img.headsOf op0 (arcPorts sl.word) with
    | some hs => !hs.isEmpty && hs.all fun h => decide (h.2.1.cls ≠ .poison) && decide (h.2.1.cls ≠ .header)
    | none => false

theorem of_readyB {s : State} {img : Image} {sl : OpSlot} (h : readyB s img sl = true) :
    ∃ hs, Ready s sl.word.opc op0 img sl hs ∧ Plain hs ∧ img.hasRoom op0 allTargets = true := by
  simp only [readyB, Bool.and_eq_true, decide_eq_true_eq, beq_iff_eq] at h
  obtain ⟨⟨⟨⟨⟨⟨⟨h1, h2⟩, h3⟩, h4⟩, h7⟩, h5⟩, h8⟩, h6⟩ := h
  cases hh : img.headsOf op0 (arcPorts sl.word) with
  | none => simp [hh] at h6
  | some hs =>
    simp only [hh, Bool.and_eq_true, Bool.not_eq_eq_eq_not, Bool.not_true, List.isEmpty_eq_false_iff, List.all_eq_true, decide_eq_true_eq] at h6
    exact ⟨hs, ⟨⟨h1, h2, rfl, h3, h4, h7, hh⟩, h8, h6.1⟩, h6.2, h5⟩

/-- An operator fed by three tokens of ones. -/
def imgOpc (o : Opc) : Image := imageOf (slotOf (wordOfOpc o none)) (routerOf .steer) [ones, ones, ones]

/-- Every integer, logic and compare operator is ready in some state. -/
theorem test_integer_ready : ∀ o ∈ [Opc.add, .sub, .adds, .subs, .mul, .mulh, .mulhu, .div, .divu, .rem, .remu, .neg, .abs, .min, .max, .and, .or, .xor, .andn,
    .not, .shl, .shr, .sar, .rol, .ror, .clz, .popc, .bext, .bins, .brev, .bswap, .ceq, .cne, .clt, .cle, .cltu, .cleu, .fceq, .fclt, .fcle, .fcun, .sel,
    .mov, .ctok], readyB (sI (imgOpc o)) (imgOpc o) (slotOf (wordOfOpc o none)) = true := by decide

/-- Every FW40, conversion, token, lane-file and stateful operator. -/
theorem test_compute_ready : ∀ o ∈ [Opc.fadd, .fsub, .fmul, .fma, .fms, .fnma, .fnms, .fmin, .fmax, .fabs, .fneg, .fcpsgn, .frcps, .frcpi, .frsqs, .frsqi,
    .fexpr, .fexpp, .flogr, .flogp, .fsinr, .fsinp, .fclass, .fround, .fscale, .fmant, .fexpo, .lgmul, .lgsum, .lgenc, .bsfind, .cvtfi, .cvtif, .cvtfr,
    .cvtsat, .perm, .permi, .bcast, .lsum, .amaxr, .bshdr, .join, .const, .iota, .csumRow, .tbread, .gate, .sink, .chkr, .csumChk, .csumCol, .bsapply,
    .bsstrip, .vote3, .lfld, .lfst, .lfldi, .lfsti], readyB (sI (imgOpc o)) (imgOpc o) (slotOf (wordOfOpc o none)) = true := by decide

/-- Every memory operator. -/
theorem test_memory_ready : ∀ o ∈ [Opc.vld, .vst, .memnop, .ldfe, .vldx, .vstx, .apst, .fence, .monwait, .redFx, .amoAdd, .amoAnd, .amoOr, .amoXor, .amoMin,
    .amoMax, .amoMinu, .amoMaxu, .amoSwap, .amoCas, .amoFadd], readyB (sI (imgOpc o)) (imgOpc o) (slotOf (wordOfOpc o none)) = true := by decide

/-- The cases of `gate`, `chkr`, `csum.col` and `vote3`, on tokens of ones and of zeros. -/
theorem test_stateful_cases : ones.tset ≠ 0 ∧ (Token.make (fun _ => 0) 0xFFFF .control).tset = 0 ∧
    (∀ k : Fin 16, ones.valid k = true → ((ones.lane 0).toInt ≤ (ones.lane k).toInt) ∧ ((ones.lane k).toInt ≤ (ones.lane 1).toInt)) ∧
    ((slotOf (wordOfOpc .csumCol none)).copies.headD { tile := 0, elem := 0, hdr := Hdr.initial, acc := Vector.replicate 16 0, cnt := 5 }).cnt + 1 = 1 ∧
    (ones.lane 0).toNat = 1 := by decide

/-- Lane-file indices at the edges of a window of 4 words. -/
theorem test_lane_file_window : (slotOf (wordOfOpc .lfld none)).lfw = some (8, 4) ∧ (0 : Int) ≤ (ones.lane 0).toInt ∧ (ones.lane 0).toInt < 4 ∧
    (wordOfOpc .lfld none).mod.getLsbD 0 = false := by decide

/-- Poison at an input of `add` and of `sink`. -/
theorem test_poison : ∀ o ∈ [Opc.add, .sink], (((imageOf (slotOf (wordOfOpc o none)) (routerOf .steer) [Token.poison 0x20, ones]).headsOf op0 (arcPorts (wordOfOpc o none))).bind fun hs =>
        (hs.find? fun h => h.2.1.cls = .poison).map fun h => h.2.1) = some (Token.poison 0x20) := by decide

/-- Routers with a token at every input, and room. -/
theorem test_routers : ∀ o ∈ [Opc.steer, .mergeOrd, .mergeArr, .carry],
    let img := imageOf (slotOf (wordOfOpc .add none)) (routerOf o) [ones, ones, ones]
    kget (sI img).images 0 = some img ∧ img.rtrAt rtr0 = some (routerOf o) ∧ mayFire (sI img) img = true ∧
      img.elemStopped (routerOf o).tile (routerOf o).elem = false ∧ jibFirst (sI img) rtr0 = false ∧ img.hasRoom rtr0 [0, 1, 2, 3] = true ∧
      (∀ p : Fin 3, (img.headOf (inputOf rtr0 p)).map (fun h => h.1) = some ones ∧ portHalted (sI img) img (inputOf rtr0 p) = false) ∧ ones.cls ≠ .poison ∧ ones.tset = 0xFFFF := by decide

/-- The router of a loop that goes on, one that took x last, and a mixed control token. -/
theorem test_router_states : ({ routerOf .carry with loop := true } : RtrSlot).loop = true ∧ ({ routerOf .mergeArr with tookX := true } : RtrSlot).tookX = true ∧
    (Token.make (fun k => if k = 0 then 1 else 0) 0xFFFF .control).tset = 1 ∧ (Token.make (fun _ => 0) 0xFFFF .control).tset = 0 := by decide

/-! ## Journal entries and waves -/

/-- A stream bound over port 0 by unit 0's ASID. -/
def stream0 : JStream := { JStream.initial with holder := some 0xFFF, state := 1, asid := 0xFFF, job := 7 }

/-- `emit` may fire: its tokens, its stream, fewer than four and four entries under way. -/
theorem test_emit : (let img := imgOpc .emit
    let hs := (img.headsOf op0 [0, 1]).getD []
    hs.length = 2 ∧ kget (sI img).units img.unit = some unit0 ∧ emitStream img op0 = some 0 ∧ (tokenAt (wordOfOpc .emit none) hs 0).valid 0 = true ∧
      (tokenAt (wordOfOpc .emit none) hs 1).valid 0 = true ∧ img.hasRoom op0 allTargets = true ∧ mayFire (sI img) img = true ∧
      (slotOf (wordOfOpc .emit none)).halts = false ∧ jibFirst (sI img) op0 = false ∧ takesHalted (sI img) img op0 [0, 1] = false) ∧
    stream0.state = 1 ∧ stream0.asid = unit0.asid ∧ (List.replicate 4 ({ op := 1, tag := Tag.none, a := ones, b := ones, seeds := unit0.seeds } : EmitPend)).length = 4 := by decide

/-- An acknowledgement stands at an `emit` whose oldest entry waits. -/
theorem test_emit_ack : (let sl := { slotOf (wordOfOpc .emit none) with pend := [{ op := 1, tag := Tag.none, a := ones, b := ones, seeds := unit0.seeds }] }
    let img := imageOf sl (routerOf .steer) [ones, ones, ones]
    (img.headOf (inputOf op0 2)).map (fun h => h.1) = some ones ∧ takesHalted (sI img) img op0 [2] = false ∧ img.slotAt op0 = some sl ∧ mayFire (sI img) img = true ∧
      sl.halts = false ∧ jibFirst (sI img) op0 = false) ∧ ones.cls ≠ .poison := by
  decide

/-- An operation of a wave chain: its addresses start at 0x20000, and only lane 0 is valid. -/
def fire5 : MemFire :=
  { op := 5, slot := 0, copy := 0, a := Token.make (fun _ => 0x20000) 1 .data, b := Token.make (fun _ => 3) 1 .data, c := Token.make (fun _ => 4) 1 .data,
    seeds := unit0.seeds, started := none, fault := none, winWait := [], poisoned := false, issued := none, queued := none, entry := none, again := false }

/-- The word of a memory operator on 32-bit integers, first of its chain. -/
def memWord (o : Opc) : OpWord := { wordOfOpc o none with ty := 10 }

/-- Its image, instance and machine. -/
def imgMem (o : Opc) : Image := imageOf (slotOf (memWord o)) (routerOf .steer) []
def inst9 (x : MemFire) : Inst :=
  { unit := 0, ended := false, fenced := false, img := 0, blk := 0, tag := 0, lastW := 1, lastS := 63, pre := [], via := [], waiting := [x], deferred := [], fault := none, rel := false,
    entries := [] }
def sW (o : Opc) (x : MemFire) : State := { sI (imgMem o) with insts := [(9, inst9 x)] }

theorem test_issuable : ∀ o ∈ [Opc.vld, .vst, .memnop, .ldfe, .vldx, .vstx, .amoAdd, .amoAnd, .amoOr, .amoXor, .amoMin, .amoMax, .amoMinu, .amoMaxu, .amoSwap,
    .amoCas, .monwait, .fence, .apst, .redFx, .amoFadd], Issuable (sW o fire5) 9 (inst9 fire5) (imgMem o) 0 unit0 fire5 (slotOf (memWord o)) := by
  intro o ho
  refine ⟨⟨?_, rfl, rfl, ?_, ?_⟩, by decide, by decide⟩
  all_goals
    revert o
    decide

/-- The lane of such an operation can be read, written and updated, and nothing holds it back. -/
theorem test_wave_places : (checkLanes (sW .vld fire5) unit0 4 .read [(0, 0x20000)]).toOption = some [(0, .dpa 0x20000)] ∧
    (checkLanes (sW .vld fire5) unit0 4 .write [(0, 0x20000)]).toOption = some [(0, .dpa 0x20000)] ∧
    checkLane (sW .vld fire5) unit0 (addrOf fire5 (fire5.a.lane 0)) 4 .atomic = .ok (.dpa 0x20000) ∧ lanesOf fire5.a.mask = [0] ∧
    windowed (sW .vld fire5) none (.dpa 0x20000) 4 = false ∧ tierBusy (sW .vld fire5) (.dpa 0x20000) = false ∧
    undoFull (sW .vld fire5) (.dpa 0x20000) 4 = false ∧ earlierLeft (sW .vld fire5) 9 fire5 = false ∧ entryHeld (sW .vld fire5) (some 9) (.dpa 0x20000) 4 = false ∧ (memWord .vld).ty ≠ 14 ∧
    (memWord .vst).mod.getLsbD 2 = false := by decide

/-- The equal and unequal cases of a compare and swap. -/
theorem test_wave_cas : (wordOf (readPhys (sW .amoCas fire5) 0 (.dpa 0x20000) 4)).toNat ≠ ((fire5.b.lane 0).setWidth 32).toNat ∧
    (wordOf (readPhys { sW .amoCas fire5 with mem := putBytes s0.mem 0x20000 [3] } 0 (.dpa 0x20000) 4)).toNat = ((fire5.b.lane 0).setWidth 32).toNat := by decide

/-- A granule of a caddy that is full: page 2 of the unit's memory is the caddies. -/
def sFe : State :=
  { sW .ldfe { fire5 with a := Token.make (fun _ => 0x40000000) 1 .data } with
    mem := putBytes s0.mem 0x12008 (leBytes 8 (0x1F + 0x8000000000)), full := [(0x800000000, true)] }

theorem test_wave_ldfe : checkLane sFe unit0 0x40000000 16 .read = .ok (.dpa 0x8000000000) ∧ caddyOf (.dpa 0x8000000000) = some 0x8000000000 ∧
    windowed sFe none (.dpa 0x8000000000) 16 = false ∧ isFull sFe 0x8000000000 = true ∧
    granuleAhead sFe 0x8000000000 fire5 = false := by decide

/-- A poison operand of a load. -/
theorem test_wave_poison : firstPoison [{ fire5 with a := Token.poison 0x20 }.a, fire5.b, fire5.c] = some (Token.poison 0x20) := by decide

/-- An instance whose one store may be committed, and one that still waits. -/
theorem test_commit : (let it : Inst := { inst9 fire5 with lastS := 0, waiting := [], deferred := [.store 0x20000 (.dpa 0x20000) [1, 2, 3, 4] false] }
    let s := { sW .vst fire5 with insts := [(9, it)] }
    instDone s it = true ∧ orderHeld s it = false ∧ commitHeld s it (imgMem .vst) unit0 = false ∧ it.fault = none ∧ it.unit = 0 ∧ (∀ d ∈ it.deferred, deferredHeld s 9 d = false) ∧ instDone s (inst9 fire5) = false) ∧ unit0.life = .bound ∧
    unit0.cancelled = false := by decide

/-- A `monwait` whose timeout of 3 ticks has just come. -/
theorem test_monwait : (let x := { fire5 with started := some 0, b := Token.make (fun i => if i = 1 then 3 else 7) 3 .data }
    (x.b.lane 1).toInt ≤ ((({ sW .monwait x with tb := 3 } : State).tb - 0).toNat : Int) ∧ x.b.valid 1 = true ∧
      ¬ ((x.b.lane 1).toInt ≤ ((({ sW .monwait x with tb := 2 } : State).tb - 0).toNat : Int))) := by decide

/-! ## Stream and engine commands

Each command stands beside the conditions of its statement, in a machine in which unit 0's context holds the last of each kind of unit. -/

/-- The operation of unit 0 with a body, and the next. -/
def boundOf (f : Option (BitVec 16 × Word × Word × Access)) : Bound :=
  { asid := 0xFFF, job := 7, unit := some 0, launch := some 5, ring := 0x30000, nent := 2, vec := none, taila := 0x20008, seqa := 0x20010, basea := 0x31000,
    ntfa := 0x20018, pollt := 5, stata := 0, mask := 0x8000, head := 0, pub := 0, tail := 1, polled := 0, finished := [], streamed := [], stopped := false, lastRing := 0, lastTask := 0, unbinding := none,
    fault := f, tailDue := false, waitsOn := [], poisoned := false, idx := .initial }

/-- A template of 64 bytes from 0x20000 to 0x30000. -/
def tmpl64 : TmplDef :=
  { TmplDef.fresh 0x20000 0x30000 with counts := [64, 1, 1, 1], valids := [64, 1, 1, 1] }

/-- The machine. -/
def sC : State :=
  { s0 with
    chains := [(63, { holder := some 0xFFF, mxes := 0, bound := none }), (256, { holder := some 0xFFF, mxes := 0, bound := none }),
               (517, { holder := some 0xFFF, mxes := 0, bound := none }), (783, { holder := some 0xFFF, mxes := 0xFFFF, bound := none })],
    tmpls := [(255, { holder := some 0xFFF, def_ := some tmpl64 })],
    chans := [(31, { Chan.initial with holder := some 0xFFF })],
    idxs := [(0, { list := some (0x20000, 12, 4, 4), bags := none })],
    journals := [(15, { JStream.initial with holder := some 0xFFF })],
    images := [(0, { imageOf (slotOf (wordOfOpc .add none)) (routerOf .steer) [] with
      ports := [{ kind := 0, eng := 15, chan := 15, hdr := Hdr.initial, headed := false }, { kind := 1, eng := 15, chan := 14, hdr := Hdr.initial, headed := false }] })] }

/-- Commands at the edges of their fields. -/
def cSync : Cmd128 := cmdOf 0x01 [(72, 0x20000), (64, 4), (0, 7)]
def cFx : Cmd128 := cmdOf 0x02 [(72, 0x20000), (40, 2)]
def cFxEnd : Cmd128 := cmdOf 0x02 [(72, 0x20000)]
def cLoad : Cmd128 := cmdOf 0x10 [(108, 15), (104, 15), (100, 14), (40, 0x20000)]
def cStore : Cmd128 := cmdOf 0x11 [(108, 15), (104, 14), (100, 2), (97, 2), (40, 0x30000)]
def cDim : Cmd128 := cmdOf 0x12 [(108, 15), (104, 15), (102, 3), (64, 20), (32, 20), (0, 4)]
def cPad : Cmd128 := cmdOf 0x13 [(108, 15), (104, 15), (64, 5)]
def cEnd : Cmd128 := cmdOf 0x14 [(108, 15), (104, 15), (64, 0x20000)]
def cEndStore : Cmd128 := cmdOf 0x14 [(108, 15), (104, 14), (64, 0x20000)]
def cCptDef : Cmd128 := cmdOf 0x20 [(104, 255), (64, 0x20000), (24, 0x30000)]
def cCptDim : Cmd128 := cmdOf 0x21 [(104, 255), (64, 2)]
def cGo : Cmd128 := cmdOf 0x22 [(107, 31), (96, 255)]
def cCut : Cmd128 := cmdOf 0x23 [(107, 31), (0, 1)]
def cPermit : Cmd128 := cmdOf 0x24 [(107, 31), (0, 1)]
def cIdx : Cmd128 := cmdOf 0x32 [(72, 0x20000), (68, 12), (32, 1), (0, 1)]
def cBag : Cmd128 := cmdOf 0x32 [(112, 1), (72, 0x20000), (32, 1)]
def cRow : Cmd128 := cmdOf 0x30 [(72, 0x20000), (32, 0x30000)]
def cRed : Cmd128 := cmdOf 0x31 [(72, 0x20000), (32, 0x30000), (16, 13)]
def cQnt : Cmd128 := cmdOf 0x40 [(72, 0x20000), (32, 0x30000), (28, 4), (24, 7), (16, 3)]
def cDq : Cmd128 := cmdOf 0x41 [(72, 0x20000), (32, 0x30000), (28, 0), (24, 5)]
def cSgd : Cmd128 := cmdOf 0x60 [(112, 1), (72, 0x20000), (32, 0x30000), (0, 1)]
def cDecay : Cmd128 := cmdOf 0x61 [(72, 0x20000), (32, 0x30000)]
def cRedN : Cmd128 := cmdOf 0x62 [(112, 10), (72, 0x20000), (32, 0x30000)]
def cGre : Cmd128 := cmdOf 0x33 [(106, 63), (40, 0x20000)]
def cGreUn : Cmd128 := cmdOf 0x33 [(106, 63), (105, 1)]
def cGreTail : Cmd128 := cmdOf 0x34 [(106, 63)]
def cQe : Cmd128 := cmdOf 0x42 [(40, 0x20000)]
def cQeUn : Cmd128 := cmdOf 0x42 [(105, 1)]
def cQeTail : Cmd128 := cmdOf 0x43 []
def cNmc : Cmd128 := cmdOf 0x63 [(106, 5), (40, 0x20000)]
def cNmcUn : Cmd128 := cmdOf 0x63 [(106, 5), (105, 1)]
def cNmcTail : Cmd128 := cmdOf 0x64 [(106, 5)]
def cMxq : Cmd128 := cmdOf 0x51 [(108, 15), (92, 0x8000), (40, 0x20000)]
def cMxqUn : Cmd128 := cmdOf 0x51 [(108, 15), (91, 1)]
def cMxqTail : Cmd128 := cmdOf 0x51 [(112, 1), (108, 15)]
def cLdstat : Cmd128 := cmdOf 0x52 [(96, 0x8000), (56, 0x20000), (52, 8)]
def cSwap : Cmd128 := cmdOf 0x53 [(96, 0x8000), (92, 15)]
def cTask : Cmd128 := cmdOf 0x50 [(108, 15), (68, 0x20000), (62, 8)]
def cDead : Cmd128 := cmdOf 0x70 [(72, 0x20000), (40, 1)]
def cClr : Cmd128 := cmdOf 0x71 [(72, 0x20000), (40, 1)]
def cJnl : Cmd128 := cmdOf 0x80 [(108, 15), (104, 11), (88, 0xFFFF), (56, 3)]
def cJnlPeer : Cmd128 := cmdOf 0x80 [(108, 15), (104, 11), (56, 3)]
def cSeq : Cmd128 := cmdOf 0x81 [(108, 15)]

theorem test_offers : ∀ p ∈ [(Sopc.snop, cmdOf 0x00 []), (.snop, cmdOf 0x00 [(111, 1)]), (.sync, cSync), (.fxregion, cFx), (.fxregion, cFxEnd), (.aprLoad, cLoad),
    (.aprStore, cStore), (.aprDim, cDim), (.aprPad, cPad), (.aprEnd, cEnd), (.aprEnd, cEndStore), (.cptDef, cCptDef), (.cptDim, cCptDim), (.cptGo, cGo),
    (.cptCancel, cCut), (.mcPermit, cPermit), (.gathIdx, cIdx), (.gathIdx, cBag), (.gathRow, cRow), (.gathRed, cRed), (.qntBlk, cQnt), (.qntDq, cDq),
    (.nmcSgd, cSgd), (.nmcDecay, cDecay), (.nmcRed, cRedN), (.gathChain, cGre), (.gathChain, cGreUn), (.gathTail, cGreTail), (.qntChain, cQe),
    (.qntChain, cQeUn), (.qntTail, cQeTail), (.nmcChain, cNmc), (.nmcChain, cNmcUn), (.nmcTail, cNmcTail), (.mxqSet, cMxq), (.mxqSet, cMxqUn),
    (.mxqSet, cMxqTail), (.ldstat, cLdstat), (.mxswap, cSwap), (.mxtask, cTask), (.deadSet, cDead), (.deadClr, cClr), (.emitJnl, cJnl), (.emitJnl, cJnlPeer),
    (.emitSeq, cSeq)], Offers sC 0 unit0 p.1 p.2 := by unfold Offers; decide

/-- The same holds of every machine with the same units and operations, whose queues are as empty. -/
theorem test_offers_also {s : State} {o : Sopc} {c : Cmd128} (h : Offers sC 0 unit0 o c) (hu : s.units = sC.units) (ho : s.ops = sC.ops)
    (hn : s.nextId = sC.nextId) : Offers s 0 unit0 o c := by
  obtain ⟨h1, h2, h3, h4, h5, h6⟩ := h
  refine ⟨by rw [hu]; exact h1, h2, h3, ?_, h5, fun k => ?_⟩
  · rw [← h4]; simp only [queueFull, ho]
  · rw [← h6 k]; simp only [serMet, ho, hn]
/-- `sync`, and regions: one that begins over two cells, one that ends; nothing but the sync itself is outstanding. -/
def opSync : EngOp := opOf0 .any (.sync 0x20000 7)
def regionAt : FxRegion := { job := 7, asid := 0xFFF, vbase := 0x20000, pieces := [(0x20000, 32)], w := 0 }

theorem test_sync_and_regions : (fld cSync 71 67 = 0 ∧ fld cSync 66 64 = 4 ∧ (Ctx.ofUnit 0 unit0).va (fld cSync 111 72) % 8 = 0) ∧
    (fld cFx 27 0 = 0 ∧ fld cFx 28 28 = 0 ∧ (Ctx.ofUnit 0 unit0).va (fld cFx 111 72) = 0x20000 ∧ fld cFx 71 40 = 2 ∧ fxWLegal (sfld cFx 39 29) = true ∧
      okOf (mapRange sC 0xFFF 0x20000 32 .atomic) = some [(0, .dpa 0x20000, 32)] ∧ fxPlacement [(0, .dpa 0x20000, 32)] = true ∧ sC.fxregs = []) ∧
    (fld cFxEnd 71 40 = 0 ∧ ∃ r ∈ [regionAt], r.job = unit0.job ∧ r.vbase = 0x20000) ∧
    ((okOf (storeVa { sC with ops := [(3, opSync)] } 0xFFF none 0x20000 (leBytes 8 7))).isSome = true ∧ opSync.fin = none ∧ opSync.fault = none) := by decide +kernel

/-- Sheave commands: the fields of a load of 40-bit lanes and a store with CVM 2, and a free stream of each. -/
theorem test_sheave_commands : fld cLoad 87 80 = 0 ∧ fld cLoad 39 0 = 0 ∧ fld cLoad 103 100 = 14 ∧ fld cStore 87 80 = 0 ∧ fld cStore 39 0 = 0 ∧ fld cStore 103 100 = 2 ∧
    fld cLoad 98 97 = 0 ∧ fld cStore 98 97 = 2 ∧ (streamFor sC 0 0 15 15).held < 4 ∧
    fld cDim 101 96 = 0 ∧ fld cDim 95 64 = 20 ∧ fld cPad 63 0 = 0 ∧
    fld cEnd 23 17 = 0 ∧ fld cEnd 15 0 = 0 ∧ (Ctx.ofUnit 0 unit0).va (fld cEnd 103 64) % 32 = 0 ∧ cmdSer cEnd = false ∧
    fld cEndStore 23 17 = 0 ∧ fld cEndStore 15 0 = 0 ∧ (Ctx.ofUnit 0 unit0).va (fld cEndStore 103 64) % 32 = 0 ∧ cmdSer cEndStore = false ∧
    bindsStream sC 0 0 15 15 = some 0 ∧ bindsStream sC 0 0 15 14 = some 1 := by decide +kernel

/-- A record of 20 elements of 32 bits from 0x20000. -/
def rec20 (store : Bool) : AprRec :=
  { op := 3, unit := 0, after := [], store := store, fmt := 10, vs40 := false, cvm := 0, hdr := false, blen := 0, base := 0x20000,
    dims := [{ count := 20, valid := 20, stride := 4 }, { count := 1, valid := 1, stride := 0 }, { count := 1, valid := 1, stride := 0 },
             { count := 1, valid := 1, stride := 0 }],
    pad := 0, recVa := 0x20100, scales := 0, scv := false, pos := 16, padn := 0, hdrs := 0, hdrSent := false, conv := Flags.none, fin := none, owed := false }

def streamRun (store : Bool) : Stream := { Stream.initial with running := some (rec20 store) }

/-- The machine whose load runs on stream 15 and whose store runs on stream 14 of sheave 15, a token of ones waiting for the store. -/
def sSheave : State :=
  { sC with
    ops := [(3, opOf0 .sheave (.record 15 15))], streams := [(254, streamRun true), (255, streamRun false)],
    images := [(0, { imageOf (slotOf (wordOfOpc .add none)) (routerOf .steer) [] with
      ports := [{ kind := 0, eng := 15, chan := 15, hdr := Hdr.initial, headed := false }, { kind := 1, eng := 15, chan := 14, hdr := Hdr.initial, headed := false }],
      arcs := [{ arcIn (.op 0 0 0) 0 ones with q := [], count := 0 }, { arcIn (.port 1) 9 ones with src := .op 0 0 0 }] })] }

/-- The last four positions of the load, and a token for the store; a queued record of a free stream. -/
theorem test_sheave_moves : (rec20 false).total = 20 ∧ findPort sSheave 0 0 0 15 15 = some (0, 0) ∧ findPort sSheave 0 0 1 15 14 = some (0, 1) ∧
    portsOpen sSheave 0 = true ∧ portRoom sSheave 0 0 = true ∧ portHead sSheave 0 1 = some ones ∧
    (okOf (readSpan sSheave (opOf0 .sheave (.record 15 15)) (rec20 false) 4 16)).isSome = true ∧
    (fillLanes (opOf0 .sheave (.record 15 14)) none ones (lanesOf ones.mask) { s := sSheave, r := rec20 true, left := ones.mask, bad := none }).bad = none ∧
    mayStart sSheave 3 (opOf0 .sheave (.record 15 15)) = true ∧ (streamOf sSheave 0 15 15).running = some (rec20 false) := by decide +kernel

/-- Copies: the template's conditions, its windows, and a permit port with a token. -/
def sPermit : State :=
  { sC with images := [(0, { imageOf (slotOf (wordOfOpc .add none)) (routerOf .steer) [] with
      ports := [{ kind := 2, eng := 0, chan := 31, hdr := Hdr.initial, headed := false }], arcs := [{ arcIn (.port 0) 9 ones with src := .op 0 0 0 }] })] }

theorem test_copy_commands : fld cCptDef 23 0 = 0 ∧ tmplOf sC 0 255 = { holder := some 0xFFF, def_ := some tmpl64 } ∧
    (cptDimPart (Ctx.ofUnit 0 unit0) cCptDim tmpl64).1 = 0 ∧ (chanOf sC 0 31).holder = some 0xFFF ∧ fld cGo 106 104 = 0 ∧ fld cGo 15 0 = 0 ∧ fld cGo 103 96 = 255 ∧
    tmpl64.badRange 0 = false ∧ (okOf (copyWindows sC 0xFFF 10 tmpl64 0 (List.range tmpl64.ntile))).isSome = true ∧ fld cCut 106 40 = 0 ∧
    fld cPermit 106 16 = 0 ∧ fld cPermit 15 0 = 1 ∧ portHead sPermit 0 0 = some ones ∧ (chanOf sPermit 0 31).copies = [] := by decide +kernel

/-- A copy of the template with its permit, one byte before its end. -/
def copy64 : Copy :=
  { op := 3, asid := 0xFFF, job := 7, def_ := tmpl64, sdisp := 0, ddisp := 0, first := 1, tile := 0, at_ := 63, landed := 63, permits := 0, granted := true,
    saved := [], cut := [] }

theorem test_copy_lands : copy64.cutOf copy64.tile = none ∧ copy64.tile < copy64.def_.ntile ∧ copy64.at_ < copy64.def_.total := by decide +kernel

/-- Gathers: an index list of u16 at its edges, a bag list, and rows that can be read and stored. -/
def gath4 (red : Bool) : GathOp :=
  { red := red, tab := 0x20000, dst := 0x30000, rown := 0, fmt := 2, pol := 0, fe := false, idx := 0x20000, ifmt := 12, nidx := 4, limit := 4, bags := none,
    ready := true, done := [] }

def opGath (red : Bool) : EngOp := opOf0 .gre (.gath (gath4 red))

def sGath (red : Bool) : State := { sC with ops := [(3, opGath red)], fxregs := [{ regionAt with vbase := 0x30000, pieces := [(0x30000, 1024)] }] }

theorem test_gather : (cIdx.getLsbD 112 = false ∧ fld cIdx 67 64 = 0 ∧ fld cIdx 71 68 = 12 ∧ fld cIdx 63 32 = 1 ∧ fld cIdx 31 0 = 1) ∧
    (cBag.getLsbD 112 = true ∧ fld cBag 71 64 = 0 ∧ fld cBag 31 0 = 0 ∧ fld cBag 63 32 = 1) ∧
    cmdFe cRow = false ∧ fld cRow 13 0 = 0 ∧ cmdFe cRed = false ∧ fld cRed 13 0 = 0 ∧ fld cRow 19 16 = 0 ∧ fld cRed 19 16 = 13 ∧ (dget IdxState.initial sC.idxs 0).list.isSome = true ∧
    (okOf (idxAt (sGath false) (opGath false) (gath4 false) 3) = some 0 ∧ 3 < (gath4 false).rows) ∧
    (okOf (loadVa (sGath false) 0xFFF 0 0x20000 16 none)).isSome = true ∧
    (okOf (storeVa (sGath false) 0xFFF (some 7) 0x30030 (List.replicate 16 0))).isSome = true ∧
    (okOf (reduceBag (sGath true) (opGath true) (gath4 true) 0)).isSome = true := by decide +kernel

/-- Blocks and elements, the last of each. -/
def qnt1 (dq : Bool) : QntOp := { dq := dq, a := 0x20000, q := 0x30000, wfmt := 2, qfmt := 5, blen := 0, cvm := 0, nblk := 1, next := 0 }
def nmc1 (k : NmcKind) : NmcOp := { kind := k, x := 0x20000, y := 0x30000, sa := 0, sb := 0, n := 1, yfmt := 2, done := [] }
def opQnt (dq : Bool) : EngOp := opOf0 .qe (.qnt (qnt1 dq))
def opNmc (k : NmcKind) : EngOp := opOf0 .nmc (.nmc (nmc1 k))

theorem test_blocks : (Ctx.ofUnit 0 unit0).va (fld cQnt 71 32) % 64 = 0 ∧ fld cQnt 31 28 = 4 ∧ fld cQnt 27 24 = 7 ∧ (fld cQnt 23 16 + 1) % 4 = 0 ∧ fld cQnt 15 14 = 0 ∧
    (Ctx.ofUnit 0 unit0).va (fld cDq 71 32) % 64 = 0 ∧ fld cDq 31 28 = 0 ∧ fld cDq 27 24 = 5 ∧ fld cDq 15 14 = 0 ∧
    okOf (mapRange sC 0xFFF 0x20000 8 .atomic) = some [(0, .dpa 0x20000, 8)] ∧ okOf (mapRange sC 0xFFF 0x30000 8 .read) = some [(0, .dpa 0x30000, 8)] ∧
    rangesOverlap [(0, .dpa 0x20000, 8)] [(0, .dpa 0x30000, 8)] = false ∧ oneStack [(0, .dpa 0x20000, 8), (0, .dpa 0x30000, 8)] = true ∧
    cSgd.getLsbD 112 = true ∧ cDecay.getLsbD 112 = false ∧ cRedN.extractLsb' 112 4 = 10 := by decide +kernel

theorem test_block_runs : (okOf (quantBlock { sC with ops := [(3, opQnt false)] } (opQnt false) (qnt1 false) 0)).isSome = true ∧
    (okOf (dequantBlock { sC with ops := [(3, opQnt true)] } (opQnt true) (qnt1 true) 0)).isSome = true ∧
    (∀ k ∈ [NmcKind.sgd, .decay], (okOf (nmcElem { sC with ops := [(3, opNmc k)] } (opNmc k) (nmc1 k) 0)).isSome = true) ∧
    (okOf (nmcElem { sC with ops := [(3, opNmc .red)], fxregs := [regionAt] } (opNmc .red) (nmc1 .red) 0)).isSome = true ∧
    mayStart { sC with ops := [(3, opQnt false)] } 3 (opQnt false) = true := by decide +kernel
/-- A descriptor at 0x20000: a ring of 65,536 entries, tail word at 0x20040, sequence word at 0x20048. -/
def sBind : State :=
  { sC with mem := putBytes s0.mem 0x20000 (leBytes 8 0x40000 ++ leBytes 4 65536 ++ leBytes 4 0 ++ leBytes 8 0x20040 ++ leBytes 8 0x20048 ++
      leBytes 8 0x31000 ++ leBytes 16 0 ++ leBytes 8 0 ++ leBytes 8 0 ++ leBytes 8 5) }

def kGre : ChainId := { kind := .gre, die := 0, num := 63 }
def kMxq : ChainId := { kind := .mxq, die := 0, num := 15 }

theorem test_chain_bind : (∀ k ∈ [kGre, { kind := .qe, die := 0, num := 0 }, { kind := .nmc, die := 0, num := 5 }, kMxq],
      (chainOf sBind k).holder = some 0xFFF ∧ (chainOf sBind k).bound = none ∧
      ((okOf (loadVa sBind 0xFFF 0 0x20000 64 none)).map fun bs => (readDesc k (Ctx.ofUnit 0 unit0) 0 0 bs).1) = some 0) ∧
    okOf (loadWord sBind 0xFFF 0 0x20048) = some 5 ∧ (0x8000 : BitVec 16) &&& ~~~(chainOf sBind kMxq).mxes = 0 := by decide +kernel

theorem test_chain_forms : (fld cGre 104 80 = 0 ∧ fld cGre 39 0 = 0 ∧ fld cGre 111 106 = 63 ∧ cGre.getLsbD 105 = false ∧ cGreUn.getLsbD 105 = true) ∧
    (fld cQe 111 106 = 0 ∧ cQe.getLsbD 105 = false ∧ cQeUn.getLsbD 105 = true ∧ cNmc.getLsbD 105 = false ∧ cNmcUn.getLsbD 105 = true) ∧
    (fld cMxq 111 108 = 15 ∧ cMxq.getLsbD 112 = false ∧ cMxq.getLsbD 91 = false ∧ BitVec.ofNat 16 (fld cMxq 107 92) = 0x8000 ∧ fld cMxq 90 80 = 0) ∧
    (cMxqUn.getLsbD 112 = false ∧ cMxqUn.getLsbD 91 = true ∧ cMxqTail.getLsbD 112 = true ∧ fld cMxqTail 111 108 = 15) := by decide +kernel

/-- The same chains, bound; the first entry of the gather chain sets its index list. -/
def sBound : State :=
  { sC with
    chains := sC.chains.map fun c => (c.1, { c.2 with bound := some (boundOf none) }),
    mem := putBytes s0.mem 0x30000 (leBytes 16 cIdx.toNat), tb := 5 }

theorem test_chain_bound : (∀ k ∈ [kGre, { kind := .qe, die := 0, num := 0 }, { kind := .nmc, die := 0, num := 5 }, kMxq],
      (chainOf sBound k).bound = some (boundOf none) ∧ sBound.dies.getLsbD k.die = true ∧ okOf (loadWord sBound 0xFFF 0 0x20008) = some 0) ∧
    (boundOf none).unbinding = none ∧ (boundOf none).tailDue = false ∧ (boundOf none).poisoned = false ∧ (boundOf none).pollt ≠ 0 ∧ (boundOf none).pollt ≤ (sBound.tb - (boundOf none).polled).toNat ∧
    ¬ (boundOf none).pollt ≤ (({ sBound with tb := 4 } : State).tb - (boundOf none).polled).toNat := by decide +kernel

/-- The context of the entry that sets the list. -/
def ctxEntry : Ctx :=
  { iss := .chain kGre 1, unit := none, launch := some 5, job := 7, asid := 0xFFF, die := 0, bases := List.replicate 16 0, tpKey := 0 }

theorem test_entry_start : (boundOf none).entryVa false 1 = 0x30000 ∧ (boundOf none).head + 1 ≤ (boundOf none).tail ∧
    ((okOf (loadVa sBound 0xFFF 0 0x30000 32 none)).map fun bs => (BitVec.ofNat 128 (fieldAt bs 0 16) == cIdx) && fieldAt bs 16 8 == 0) = some true ∧
    okOf (loadVa sBound 0xFFF 0 0x31000 128 none) = some (List.replicate 128 0) ∧ Sopc.ofCode (cIdx.extractLsb' 120 8) = some .gathIdx ∧
    entryAdmits .gre .gathIdx = true ∧ (flagFallback .gathIdx cIdx = (cIdx, {})) ∧ cmdSer cIdx = false ∧
    codeOf (issueBy .gathIdx sBound ctxEntry cIdx) = some 0 := by decide +kernel

/-- An operation of entry 1 that has ended, with NTF; and one issued by `cmd`. -/
def opEnded (i : Issuer) : EngOp := { opOf0 .gre (.gath (gath4 false)) with iss := i, ntf := true, fin := some 0 }

theorem test_entry_finish : (okOf (storeObj { sBound with ops := [(3, opEnded (.chain kGre 1))] } 7 0xFFF ((boundOf none).statVa false 1)
      (leBytes 8 (statusWord 1 0 Flags.none 0 false).toNat))).isSome = true ∧ advancePub 1 0 [1] = (1, []) ∧
    (okOf (storeObj sBound 7 0xFFF 0x20010 (leBytes 8 1))).isSome = true ∧ (okOf (storeObj sBound 7 0xFFF 0x20018 (leBytes 8 1))).isSome = true ∧
    (boundOf none).ntfa ≠ 0 ∧ (boundOf none).vec = none ∧ (opEnded (.seq 0)).fault = none := by decide +kernel

/-! ## Matrix engines, dead units and journals -/

/-- A load of one element for MXE 15, a swap, and a task of one element. -/
def ldst1 : LdstatOp := { waddr := 0x20000, wfmt := 8, k := 1, n := 1, wstr := 0, scl := false, left := [15] }
def swap1 : SwapOp := { queue := 15, bseq := 0, left := [15], met := false }
def task1 : TaskOp :=
  { queue := 15, num := 0, prev := 0, exact := false, afmt := 8, cont := false, rel := false, csum := false, wexp := 0, ofmt := 10, cvm := 0, act := some 0x20000, astr := 1,
    m := 1, k := 1, n := 1, ablk := 1, out := none, ostr := 0, ascl := none, deps := [], rec_ := none, bases := [], mxe := none, rows := [], cur := [],
    results := none, cor := false, start := none }
def plane1 : MxPlane := { fmt := 8, k := 1, n := 1, elems := [1], scales := [127] }

/-- The machine with such an operation, and MXE 15 in a given condition. -/
def sMxe (b : OpBody) (e : Mxe) : State := { sBound with ops := [(3, opOf0 .mxe b)], mxes := [(15, e)] }

theorem test_matrix_commands : (fld cLdstat 11 0 = 0 ∧ fld cLdstat 55 52 = 8 ∧ mxesOf (fld cLdstat 111 96) = [15]) ∧
    (fld cSwap 51 0 = 0 ∧ fld cSwap 95 92 = 15 ∧ BitVec.ofNat 16 (fld cSwap 111 96) &&& ~~~(boundOf none).mask = 0 ∧ mxesOf (fld cSwap 111 96) = [15]) ∧
    (fld cTask 111 108 = 15 ∧ lowest (taskChecks cTask) = 0 ∧ taskWarn cTask = {} ∧ (Ctx.ofUnit 0 unit0).va (fld cTask 107 68) % 64 = 0) := by
  decide +kernel

theorem test_matrix_moves : (okOf (readTile (sMxe (.ldstat ldst1) { Mxe.initial with loads := [3] }) (opOf0 .mxe (.ldstat ldst1)) ldst1)).isSome = true ∧
    published (sMxe (.swap swap1) { Mxe.initial with swaps := [3] }) kMxq = some 0 ∧
    mayStart (sMxe (.task task1) { Mxe.initial with stat := plane1 }) 3 (opOf0 .mxe (.task task1)) = true ∧
    depsMet (sMxe (.task task1) { Mxe.initial with stat := plane1 }) (opOf0 .mxe (.task task1)) task1 = true ∧ (boundOf none).mask.getLsbD 15 = true ∧
    swapBlocks (sMxe (.task task1) { Mxe.initial with stat := plane1 }) { Mxe.initial with stat := plane1 } task1 = false ∧ planeFit task1 plane1 = 0 ∧
    (okOf (memRows (sMxe (.task task1) Mxe.initial) (opOf0 .mxe (.task task1)) task1 0x20000 1 0)).isSome = true := by decide +kernel

/-- `dead.set` and `dead.clr` over unit 2 of stack 0; a stream toward the local device, toward peer 0, and one that is bound. -/
theorem test_dead_and_journal : fld cDead 39 0 = 0 ∧ (Ctx.ofUnit 0 unit0).va (fld cDead 111 72) = 0x20000 ∧ fld cDead 71 40 = 1 ∧
    okOf (mapRange { sC with lost := [] } 0xFFF 0x20000 65536 .write) = some [(0, .dpa 0x20000, 65536)] ∧ oneStack [(0, .dpa 0x20000, 65536)] = true ∧
    writeHeld sC none (.dpa 0x20000) 65536 = false ∧ tierBusy sC (.dpa 0x20000) = false ∧
    (journalOf sC 0 15).holder = some 0xFFF ∧ (journalOf sC 0 15).pend = [] ∧ (journalOf sC 0 15).acks = [] ∧ fld cJnl 55 0 = 0 ∧ fld cJnl 107 104 = 11 ∧
    fld cJnl 103 88 = 0xFFFF ∧ fld cJnlPeer 107 104 = 11 ∧ (linkOf sC 27).peer = BitVec.ofNat 16 (fld cJnlPeer 103 88) ∧
    fld cSeq 35 0 = 0 ∧ fld cSeq 75 36 = 0 := by decide +kernel
/-! ## Units, windows and mailboxes -/

/-- Units that end: its sequencer has ended; a cancel has reached it; it faulted and its sequencer is withheld since tick 0. -/
def endedU : WorkUnit := { unit0 with seq := .ended }
def cancelU : WorkUnit := { unit0 with cancelled := true }
def heldU : WorkUnit := { unit0 with faulted := true, held := some { va := 0x20000, acc := .read, at_ := 0 } }

theorem test_units_end : unitDone (sU endedU) 0 endedU = true ∧ opsDone (sU cancelU) 0 = true ∧ (∀ n ∈ (sU cancelU).insts, n.2.unit ≠ 0) ∧ unitDone (sU { unit0 with req := true }) 0 unit0 = false ∧
    instsStuck (sU heldU) 0 = true ∧ ({ sU heldU with tb := 10000 } : State).tb - 0 = 10000 ∧
    translate { sU heldU with tb := 10000 } 0xFFF 0x20000 .read = .ok (.dpa 0x20000) ∧ unit0.tp.plane ≠ 4 ∧ unit0.req = false ∧ unit0.deadline = 0 ∧
    ({ unit0 with req := true } : WorkUnit).forBoundary = false ∧ earlier (10 : Word) 10 = false ∧ earlier (9 : Word) 10 = true ∧
    yieldsNext (sU { unit0 with req := true }) 0 { unit0 with req := true } = false := by
  decide +kernel

/-- A unit whose save is under way since tick 0, its record's place in the save area, and the unit saved for a boundary. -/
def savingU (b : Bool) : WorkUnit := { unit0 with life := .saving 2 0, forBoundary := b }
def sv0 : SavedUnit := { captureUnit (sU (savingU true)) 0 (savingU true) 2 0 with bytes := recordBytes (savingU true) none [] [] 2 0 }
def savedU : WorkUnit := { unit0 with life := .saved 2 0, forBoundary := true }
def sSaved : State := { sU savedU with saves := [(0, sv0)], slots := [(0, { slot0 with bound := false, unit := none })] }

theorem test_units_restore : mayRestore sSaved savedU unit0.tp = true ∧ sv0.images.isEmpty = true ∧ sv0.streams.isEmpty = true ∧ readTokens sv0.bytes = some [] ∧
    tierWaits (sU (savingU false)) 0xFFF 0x14500000 64 = false := by decide +kernel

/-- The journal store begins above the first GiB. -/
theorem test_no_store (acc : Access) (va n : Nat) (h : va + n ≤ 2 ^ 30) : storeBarred s0 acc (.dpa va) n = false := by
  have hi : inStore s0 va n = false := by
    have hj : s0.blob.jnlBase = 0x400000000 := rfl
    simp only [inStore, hj, Bool.and_eq_false_iff, decide_eq_false_iff_not]
    exact Or.inr (by omega)
  simp only [storeBarred, hi, Bool.and_false]

/-- The first GiB of the machine's virtual memory is the first of its device memory. -/
theorem test_first_gib (va : Nat) (acc : Access) (h : va < 2 ^ 30) : translate s0 0xFFF va acc = .ok (.dpa va) := by
  have h0 : va % 2 ^ 57 = va := Nat.mod_eq_of_lt (by omega)
  have h1 : va / 2 ^ 48 % 512 = 0 := by omega
  have h2 : va / 2 ^ 39 % 512 = 0 := by omega
  have h3 : va / 2 ^ 30 % 512 = 0 := by omega
  have e1 : readEntry s0.mem 0x10000 = 0x11001 := by decide +kernel
  have e2 : readEntry s0.mem 0x11000 = 0x12001 := by decide +kernel
  have e3 : readEntry s0.mem 0x12000 = 0x1F := by decide +kernel
  have e4 : leafOf 0x1F 0x40000000 = some { pa := 0, repset := 0, kind := 0, x := true, w := true, r := true, size := 0x40000000 } := by decide +kernel
  have hr : kget s0.roots 0xFFF = some 0x10000 := rfl
  have hw : walk s0.mem va levels 0x10000 =
      .leaf { pa := 0, repset := 0, kind := 0, x := true, w := true, r := true, size := 0x40000000 } := by
    rw [levels, walk, h1]; simp only [Nat.mul_zero, Nat.add_zero, e1]
    rw [if_neg (by decide), if_neg (by decide), if_neg (by decide)]
    rw [show (BitVec.extractLsb' 12 45 (0x11001 : BitVec 64)).toNat * 4096 = 0x11000 from rfl]
    rw [walk, h2]; simp only [Nat.mul_zero, Nat.add_zero, e2]
    rw [if_neg (by decide), if_neg (by decide), if_neg (by decide)]
    rw [show (BitVec.extractLsb' 12 45 (0x12001 : BitVec 64)).toNat * 4096 = 0x12000 from rfl]
    rw [walk, h3]; simp only [Nat.mul_zero, Nat.add_zero, e3]
    rw [if_neg (by decide), if_pos (by decide), e4]
  unfold Machine.translate
  rw [show (0xFFF : BitVec 12).toNat = 0xFFF from rfl, hr]
  have hl : walkLost s0 va 0x10000 = false := rfl
  simp only [h0, hl, hw, Leaf.allows, Leaf.phys, Nat.zero_add, Bool.and_self, Bool.false_eq_true, if_false]
  rw [show va % 0x40000000 = va from Nat.mod_eq_of_lt (by omega)]
  have hc : reachable (openTiers s0) va = true := by
    unfold reachable regionOf
    rw [if_pos (by omega)]
  have hb : storeBarred s0 acc (.dpa va) 1 = false := test_no_store _ _ _ (by omega)
  rw [hc, hb]
  cases acc <;> rfl

theorem test_save_area : saveAreaOk s0 0xFFF 0x10000000 0x5000000 = true := by
  simp only [saveAreaOk, List.all_eq_true, List.mem_range]
  intro i hi
  rw [test_first_gib _ _ (by omega)]

/-- A record of a unit without images, whatever its opaque sections hold. -/
theorem length_plain_record (w : WorkUnit) (xs : List Byte) (r : Nat) (t : Word) : (recordBytes w none [] xs r t).length = (575 + xs.length) / 64 * 64 := by
  have hf : ∀ ws : List Word, (ws.flatMap wordBytes).length = 8 * ws.length := by
    intro ws; induction ws with
    | nil => rfl
    | cons x xs ih => simp only [List.flatMap_cons, List.length_append, ih, wordBytes, length_leBytes, List.length_cons]; omega
  have hr : ((List.range 31).flatMap fun i => wordBytes (w.regs.toList.getD (i + 1) 0)).length = 248 := by
    rw [← List.flatMap_map (fun i => w.regs.toList.getD (i + 1) 0) wordBytes, hf]; simp
  simp only [recordBytes, WorkUnit.section, List.length_append, hr, hf, List.flatMap_nil, List.length_nil, List.length_replicate, Vector.length_toList,
    length_leBytes]
  simp only [wordBytes, length_leBytes]
  omega

/-- A range of that GiB can be written. -/
theorem test_gib_range (w : WorkUnit) (f off va n : Nat) (h : va + n ≤ 2 ^ 30) : ∃ ps, places (sU w) 0xFFF .write (chunks f off va n) = .ok ps := by
  induction f generalizing off va n with
  | zero => exact ⟨[], rfl⟩
  | succ f ih =>
    unfold chunks
    split
    · exact ⟨[], rfl⟩
    · obtain ⟨ps, hps⟩ := ih (off + min n (65536 - va % 65536)) (va + min n (65536 - va % 65536)) (n - min n (65536 - va % 65536)) (by omega)
      have ht : translate (sU w) 0xFFF (va % 2 ^ 57) .write = .ok (.dpa (va % 2 ^ 57)) := test_first_gib _ _ (by omega)
      have hl : touchesLost (sU w) (.dpa (va % 2 ^ 57)) (min n (65536 - va % 65536)) = false := by
        simp [touchesLost, sU, s0, State.reset, MgmtState.reset]
      have hb : storeBarred (sU w) .write (.dpa (va % 2 ^ 57)) (min n (65536 - va % 65536)) = false := test_no_store _ _ _ (by omega)
      simp only [places, place, ht, hl, hb, Got.bind, hps, Got.map]
      exact ⟨_, rfl⟩

/-- The record of the unit, its place in the save area of a job whose records region has room, and its store there. -/
theorem test_units_move : ∃ bs s1, (captureUnit (sU (savingU false)) 0 (savingU false) 2 0).bytes = bs ∧
    recordPlace (sU (savingU false)) 7 { job7 with size := 0x25000000 } bs.length = some 0x4500000 ∧
    storeExempt (sU (savingU false)) 0xFFF 0x14500000 bs = .ok s1 := by
  have hl := length_plain_record (savingU false) ((Config.saveSections 0).take (2 ^ 29)) 2 0
  have hn : (recordBytes (savingU false) none [] ((Config.saveSections 0).take (2 ^ 29)) 2 0).length ≤ 2 ^ 29 + 575 := by
    rw [hl, List.length_take]; omega
  have hb : (captureUnit (sU (savingU false)) 0 (savingU false) 2 0).bytes = recordBytes (savingU false) none [] ((Config.saveSections 0).take (2 ^ 29)) 2 0 := rfl
  rw [← hb] at hn
  generalize (captureUnit (sU (savingU false)) 0 (savingU false) 2 0).bytes = bs at hn
  obtain ⟨ps, hps⟩ := test_gib_range (savingU false) (bs.length / 65536 + 2) 0 0x14500000 bs.length (by omega)
  refine ⟨bs, ps.foldl (fun s x => writePhys s x.2.1 ((bs.drop x.1).take x.2.2)) (sU (savingU false)), rfl, ?_, ?_⟩
  · have hh : heldRecords (sU (savingU false)) 7 0x10000000 = [] := by decide
    unfold recordPlace
    rw [show heldRecords (sU (savingU false)) 7 ({ job7 with size := 0x25000000 } : Job).savea = [] from hh]
    have hc : 0x4500000 + bs.length ≤ 0x25000000 := by omega
    simp [hc]
  · have ht : (ps.any fun x => tierBusy (sU (savingU false)) x.2.1) = false := by
      have h0 : ∀ p, tierBusy (sU (savingU false)) p = false := fun p =>
        List.any_eq_false.2 fun a _ => by cases regionOf a <;> simp [sU, s0, State.reset, Dev.reset, MemState.reset, kget]
      simp only [h0, List.any_eq_false, Bool.false_eq_true, not_false_eq_true, implies_true]
    simp only [storeExempt, mapRange, hps, Got.map, Got.bind, ht, Bool.false_eq_true, if_false]

/-- Accesses withheld since tick 0: of an operation and of a chain, which walk again at tick 10,000; of an instance. -/
theorem test_rewalks : rewalk { s0 with tb := 10000 } 0xFFF (cXlatMiss, 0x20000, 0, .read) = .walks ∧ (0x20000 : Word).toNat ≠ (boundOf none).taila ∧
    rewalk { s0 with tb := 9999 } 0xFFF (cXlatMiss, 0x20000, 0, .read) ≠ .walks ∧
    (nextFire (sW .vld { fire5 with fault := some (cXlatMiss, 0x20000, 0) }) 9).isSome = true ∧ (inst9 fire5).fault = none := by decide +kernel

/-- BAR2 at its last bytes, each size of an AtomicOp, and registers at their offsets. -/
theorem test_host_window : s0.fwState = .running ∧ outsideReach s0 (s0.winbase.toNat * 2 ^ 36 + (2 ^ 36 - 16)) 16 = true ∧
    outsideWaits s0 (2 ^ 36 - 16) 16 true = false ∧ outsideWaits s0 (2 ^ 36 - 16) 16 false = false ∧ (2 ^ 36 - 16) % 16 = 0 ∧
    barReg s0 .pf 0x18 = some .winbase ∧ barReg s0 (.vf 63) 0x20 = some .mbaddr ∧ barReg s0 .pf 0x10001000 = none ∧ fnPresent (.vf 63) = true ∧
    (0xFFD5 : Word).toNat % 256 = 0xD5 ∧ State.reset.flash = some { fwver := 1, blob := .board, imageSigned := true, blobSigned := true, keyKnown := true, identity := true } := by decide +kernel

/-- The machine with a request in the PF's mailbox. -/
def sM (ws : List Word) : State := { s0 with mboxes := [(0, { Mailbox.initial with busy := true, req := some ws })] }
def word (fields : List (Nat × Nat)) : Word := BitVec.ofNat 64 (fields.foldl (fun a f => a + f.2 * 2 ^ f.1) 0)

/-- QCREATE of the last queue of die 3, QDESTROY, JOBOPEN, JOBCLOSE and PHASEBND. -/
def wQcreate : List Word := [1, word [(0, 3), (2, 1023), (12, 0xFFF), (24, 7)], 0x40000, 65536, 0x40000000, 0, 0, 0]
def wJobopen : List Word := [3, word [(0, 0xFFF), (12, 8)], word [(0, 8176), (16, 16)], 0x10000, 0x10000000, 0x5000000, 0, 0]

theorem test_mailbox_queues : request (sM wQcreate) .pf 1 = some wQcreate ∧ wf (wQcreate.getD 2 0) 5 0 = 0 ∧ wf (wQcreate.getD 4 0) 2 0 = 0 ∧
    powerIn (wf (wQcreate.getD 3 0) 31 0) 16 65536 = true ∧ jobOpenFor s0 (wf (wQcreate.getD 1 0) 39 24) (BitVec.ofNat 12 (wf (wQcreate.getD 1 0) 23 12)) = true ∧
    kget s0.queues (1024 * wf (wQcreate.getD 1 0) 1 0 + wf (wQcreate.getD 1 0) 11 2) = none ∧ 1 ≤ opOf wQcreate ∧ opOf wQcreate ≤ 10 ∧
    wordsOf (getBytes (putBytes [] 0x1000 (wQcreate.flatMap wordBytes)) 0x1000 64) 8 = wQcreate ∧
    1024 * wf 0 1 0 + wf 0 11 2 = 0 := by decide +kernel

theorem test_mailbox_jobs : request (sM wJobopen) .pf 3 = some wJobopen ∧ (Job.fresh .pf wJobopen).nbase + (Job.fresh .pf wJobopen).ncount = 8192 ∧
    (Job.fresh .pf wJobopen).size = 0x5000000 ∧ job7.nbase + job7.ncount ≤ (Job.fresh .pf wJobopen).nbase ∧ job7.root = (Job.fresh .pf wJobopen).root ∧
    jobOpen s0 8 = false ∧ jobOpenFor s0 7 0xFFF = true ∧ job7.phasebnd = none := by decide +kernel

/-- Grants of every kind of resource that is free, and their return; share, mode and summary. -/
def gReq (kind : Nat) (w2 : Nat) : List Word := [6, word [(0, 0xFFF), (12, kind)], BitVec.ofNat 64 w2, 0, 0, 0, 0, 0]

/-- May the PF grant a free resource, or take back one that is held and not in use? -/
def grantOk (s : State) (kind w2 : Nat) (h : Option (BitVec 12)) : Bool :=
  let g : GrantReq := GrantReq.of (gReq kind w2)
  ownsAsid s .pf g.asid && inShare s .pf g && (lowest g.formChecks == 0) && (g.holders s).all (fun x => x == h) && (g.asid == 0xFFF) && !g.inUse s

theorem test_mailbox_grants : grantOk s0 0 0x303F none = true ∧ grantOk s0 1 31 none = true ∧ grantOk s0 2 255 none = true ∧ grantOk s0 3 0xFC none = true ∧
    grantOk s0 4 15 none = true ∧ grantOk s0 5 15 none = true ∧ (giveGrant s0 (GrantReq.of (gReq 1 31))).isSome = true := by decide +kernel

theorem test_mailbox_revokes : grantOk sC 1 31 (some 0xFFF) = true ∧ grantOk sC 2 255 (some 0xFFF) = true ∧ grantOk sC 3 0xFC (some 0xFFF) = true ∧
    grantOk sC 5 15 (some 0xFFF) = true ∧ (GrantReq.of (gReq 0 0)).boundUnits sSaved = [] ∧ grantOk sSaved 0 0 (some 0xFFF) = true := by decide +kernel

theorem test_mailbox_modes : s0.ctBusy = [] ∧ s0.ctMode.getLsbD 7 ≠ (word [(3, 1)]).getLsbD 3 ∧ tierInUse s0 7 = false ∧ tierInFlight s0 7 = false ∧ opOf [10, 0, 4096] = 10 ∧
    request (sM [10, 0, 4096]) .pf 10 = some [10, 0, 4096] := by decide +kernel
/-! ## Service, queues, frames, boundaries, links -/

/-- FWUPD requests: of each action under its conditions. -/
def wFw (c arg : Nat) : List Word := [11, 0, BitVec.ofNat 64 c, BitVec.ofNat 64 arg, 0, 0, 0, 0]
def sLink (x : Link) (l : Nat) : State := { sM (wFw 5 15) with links := [(l, x)] }

theorem test_service : request (sM (wFw 0 0)) .pf 11 = some (wFw 0 0) ∧ s0.service = none ∧ ({ fwver := 2, blob := .board, imageSigned := true, blobSigned := true, keyKnown := true, identity := true } : Offer).valid = true ∧
    kget ({ s0 with hostOffers := [(0x1000, { fwver := 2, blob := .board, imageSigned := true, blobSigned := true, keyKnown := true, identity := true })] } : State).hostOffers 0x1000 ≠ none ∧
    (∀ x ∈ s0.units, x.2.tp.die ≠ (0x31 : Word).toNat / 16 % 4) ∧ (∀ x ∈ s0.units, ¬ (x.2.tp.die = 0 ∧ x.2.tp.plane = (0xC3 : Word).toNat / 64 % 8)) ∧
    (0xC3 : Word).toNat / 64 % 8 = 3 ∧ (linkOf (sLink (Link.trained 0 4) 15) 15).width ≠ 0 ∧ (linkOf (sLink (Link.trained 0 4) 15) 15).state = 0 ∧
    (linkOf (sLink { Link.trained 0 4 with state := 3 } 15) 15).state = 3 ∧ (linkOf s0 15).back = .none ∧ (linkOf (sLink { Link.trained 0 4 with back := .over } 15) 15).back = .over ∧ (linkOf (sLink { Link.trained 0 4 with state := 1 } 15) 15).state = 1 ∧ (3 : Nat) ≤ formClass s0.blob.form ∧ 3 ≤ s0.blob.maxClass := by
  decide +kernel

/-- A queue of job 7 with one packet to read at 0x40000, and a launch of it whose unit is to be bound on tile-plane 0. -/
def queue7 : Queue := { Queue.fresh .pf 0 wQcreate with prio := 1, notify := 1, nent := 16 }
def sQ (q : Queue) (ws : List Word) : State := { s0 with queues := [(0, q)], mem := putBytes s0.mem 0x40000 (ws.flatMap wordBytes) }
def q0 : QueueId := { die := 0, q := 0 }

theorem test_queues : kget (sQ queue7 packet7).queues (queueKey q0) = some queue7 ∧ queue7.qstState ≠ 1 ∧ queue7.ridx < queue7.notify ∧ queue7.fault = none ∧
    queue7.resetStopped = false ∧ liveReplay (sQ queue7 packet7) = [] ∧
    okOf (loadVa (sQ queue7 packet7) 0xFFF 0 0x40000 64 none) = some (packet7.flatMap wordBytes) ∧
    checkPacket (sQ queue7 packet7) (packetOf packet7) (some 7) (planeRefused (packetOf packet7) false) = 0 ∧ queue7.asid = 0xFFF ∧
    levelOf (sQ queue7 packet7) 7 0 = none ∧ levelOf (sQ queue7 packet7) 7 0x4000700000000000 ≠ none ∧ queue7.wdResetting = false ∧ queue7.head = none ∧
    entryTurn (sQ queue7 packet7) 0 0 = true ∧ poolEntry (sQ queue7 packet7) 0 = some 0 ∧ storeWaits (sQ queue7 packet7) 0xFFF queue7.ridxa 8 = false ∧
    entryTurn { sQ queue7 packet7 with queues := [(0, queue7), (1, { queue7 with qstState := 2, head := some packet7 })] } 0 0 = false := by decide +kernel

/-- A watchdog of 5 ticks that has counted 5; a queue whose partition reset waits for its job, which has completed. -/
theorem test_watchdogs : (let q : Queue := { queue7 with wdEn := true, wdTicks := 5, wdCount := 5 }
    q.wdEn = true ∧ q.wdTicks ≠ 0 ∧ q.wdStopped = false ∧ q.wdTicks.toNat ≤ q.wdCount.toNat ∧ q.wdHnd = false ∧ q.wdPost = false ∧ countQueue (sQ q packet7) 0 = sQ q packet7) ∧
    ({ job7 with level := { job7.level with complete := true } } : Job).level.complete = true ∧ drainsRange s0 0xFFF 0x20000 4096 = true := by decide +kernel

def launch7 : Launch := { Launch.ofPacket (packetOf packet7) (.queue 0 0) 0xFFF (some 0) with entry := some 0, toBind := [0] }

theorem test_bind : (let s : State := { s0 with launches := [(5, launch7)], slots := [(0, { slot0 with bound := false, unit := none })] }
    s.launches.find? (fun x => decide (x.2.pkt.die = 0) && decide (x.2.entry = some 0)) = some (5, launch7) ∧ mayBind s 0 0 = true ∧
      launchReady s 5 launch7 = true ∧ launchBad s launch7 = false ∧ bindTurn s 5 launch7 = true ∧ launch7.toBind.contains 0 = true ∧ bindPlane s launch7 = some 0 ∧
      (seedsOf s 5 launch7).2.isSome = true ∧ slot0.held = true ∧ slot0.asid = launch7.asid ∧ slot0.job.toNat = launch7.pkt.job) ∧
    (dget Slot.initial s0.slots 5).held = false := by decide +kernel

/-- A launch of a queue of priority 2 waits for the tile-plane of a unit whose queue has priority 1. -/
def launchHigh : Launch := { launch7 with src := .queue 1 0, root := some 1, entry := some 1 }
def sHigh : State :=
  { s0 with queues := [(0, queue7), (1, { queue7 with prio := 2 })], launches := [(5, { launch7 with toBind := [] }), (6, launchHigh)] }

theorem test_preempt : outranked sHigh unit0 = true ∧ unitDone sHigh 0 unit0 = false ∧ goesBefore sHigh 5 launch7 6 launchHigh = true ∧
    outranked { sHigh with queues := [(0, queue7), (1, queue7)] } unit0 = false := by decide +kernel

/-- A frame of two entries of 10 ticks, the second a slice of gang 9, which this device leads, with a grace of 3. -/
def entry10 (gang : Bool) : FrameEntry := { v := true, skip := false, gang := gang, sail := 1, fill := 2, gid := 9, grace := 3, ticks := 10 }
def gang0 : GangSt := { start := 0, sentReady := false, readyFrom := [], decision := none, lost := false }
def sFrame (cur : Nat) (g : Option GangSt) (members : List Nat) (tb : Word) : State :=
  { s0 with tb := tb, frames := [(3, { entries := [entry10 false, entry10 true], next := none, cur := cur, start := 0, active := 1, gang := g })],
            blob := { Blob.board with gangs := [{ gid := 9, members := members }] } }

theorem test_frames : (frameOf (sFrame 0 none [0x41] 10) 3).entries[0]? = some (entry10 false) ∧ earlier (10 : Word) (0 + (entry10 false).ticks.setWidth 64) = false ∧ earlier (9 : Word) (0 + (entry10 false).ticks.setWidth 64) = true ∧
    (entryFrom? (sFrame 0 none [0x41] 10) 3 [entry10 false, entry10 true] 1).map (fun x => x.1) = some 1 ∧
    (entryFrom? (sFrame 1 none [0x41] 10) 3 [entry10 false, entry10 true] 2) = none ∧
    (entryFrom? (sFrame 0 none [0x41] 10) 3 [entry10 false, entry10 false] 1).map (fun x => x.1) = some 1 := by decide +kernel

theorem test_gangs : (openSlice (sFrame 1 (some gang0) [0x41, 0x42] 3) 3).isSome = true ∧ saving (sFrame 1 (some gang0) [0x41, 0x42] 3) 3 1 = false ∧
    leads (sFrame 1 (some gang0) [0x41, 0x42] 3) 9 = true ∧ leads (sFrame 1 (some gang0) [0x42, 0x41] 3) 9 = false ∧
    earlier (gang0.start + (entry10 true).grace.setWidth 64) 3 = false ∧ earlier (gang0.start + (entry10 true).grace.setWidth 64) 4 = true ∧ (∀ m ∈ gangMembers (sFrame 1 (some gang0) [0x41] 3) 9, m ∈ [0x41]) ∧
    (∀ m ∈ gangMembers (sFrame 1 (some gang0) [0x41, 0x42] 3) 9, m ∈ [0x42, 0x41]) ∧
    ¬ (∀ m ∈ gangMembers (sFrame 1 (some gang0) [0x41, 0x42] 3) 9, m ∈ [0x42]) := by decide +kernel

/-- A boundary interval that ends, a boundary whose units are all saved, and a full checkpoint under way; a kept boundary for a rollback. -/
theorem test_boundaries : (let s : State := { s0 with tb := 100, blob := { Blob.board with bper := 100 } }
    s.blob.bper ≠ 0 ∧ s.blob.bper ≤ (s.tb - s.bperFrom).toNat ∧ s.service = none) ∧
    ({ s0 with bnd := .saving, units := [(0, savedU)] } : State).bnd = .saving ∧ allSaved { s0 with bnd := .saving, units := [(0, savedU)] } = true ∧
    allSaved s0 = false ∧ ({ FullCkpt.none with running := some 1 } : FullCkpt).running = some 1 ∧ kget s0.lost (0x20000 / 4096) = none ∧
    regionOf 0x20000 = .hbm 0 ∧ regionOf 0x20000000000 = .tier 0 ∧ ({ s0 with ctMode := 1 } : State).ctMode.getLsbD 0 = true ∧ ({ s0 with snap := some s0.toDev } : State).snap = some s0.toDev ∧
    siteElem (sI (imgOpc .add)) op0 0 = some (0, 0) ∧ (healthOf (sI (imgOpc .add)) 0 0 0).retired = false ∧ (healthOf (sI (imgOpc .add)) 0 0 0).fails < 2 := by
  decide +kernel

/-- Links in service, in a retrain, and down since 100,000 ticks. -/
theorem test_links : (linkOf s0 15).state = 0 ∧ (linkOf { s0 with links := [(27, Link.training 0)] } 27).state = 1 ∧ (4 : BitVec 3).toNat < 5 ∧
    (linkOf { s0 with links := [(27, Link.training 0)] } 27).since = some 0 ∧ 100000 ≤ (({ s0 with tb := 100000 } : State).tb - 0).toNat ∧
    outsideWaits s0 0x20000 8 false = false ∧ outsideWaits s0 0x20000 8 true = false ∧ outsideReach s0 0x20000 8 = true := by decide +kernel

/-- A partition that holds its sequence 3, and an entry of number 1, which is the next. -/
def sPart : State := putPart s0 15 { gseq := 3, v := true, lastn := 0, basen := 0, trunc := 0 }

theorem test_backstay : findPart sPart 3 = some 15 ∧ partOf sPart 15 = { gseq := 3, v := true, lastn := 0, basen := 0, trunc := 0 } ∧ sPart.held = [] ∧
    (0x41000000000001 : Word).toNat % 2 ^ 40 = (partOf sPart 15).lastn + 1 ∧ (partOf sPart 15).lastn - (partOf sPart 15).trunc < sPart.blob.jlen ∧
    stream0.state ≠ 3 ∧ (1 : BitVec 40) = stream0.ackn + 1 := by decide +kernel

theorem test_journal_lost : (let x : JStream := { stream0 with state := 2, lostAt := 0 }
    x.state = 2 ∧ x.expired = false ∧ 1000000 ≤ ((1000000 : Word) - x.lostAt).toNat) := by decide

/-! ## Steps -/

/-- Unit 0 runs, and its fetch block can be read. -/
theorem test_step_runs : s0.cur = some 0 ∧ kget s0.units 0 = some unit0 ∧ unit0.running = true ∧ unit0.fblock = none ∧
    readOf (seqRead s0 unit0 0x20000 64 .fetch) = some (List.replicate 64 0) ∧ s0.turns = [] ∧ s0.launches = [] ∧
    (blockWords (leBytes 64 0x22000000)).getD 0 0 = 0x22000000 ∧ isEvent (.thermalLimit 3) = true ∧ isEvent .eret = false := by decide +kernel

/-- A step of it, from a machine that holds the canonical form, runs the word at its pc. -/
theorem test_steps_kept : MemOk s0 ∧ (match step (s0.withFetchWord 32 0x22000000) with
    | .next t => (kget t.units 0).map fun w => w.pc
    | _ => none) = some 0x20004 := ⟨⟨by decide, by decide, by intro d h; cases h⟩, by decide +kernel⟩
/-! ## The assembler (spec 05) -/

/-- A statement of the example of spec 05. -/
def stx (l : String) (o : Opc) (md : List String) (ty : BitVec 4) (t f : List XTarget) : XStmt :=
  { label := l, opc := o, mods := md, ty := ty, copies := 1, imm := none, wave := none, targets := t, falses := f }

/-- The block of the example wavedemo. -/
def waveDemo : List XStmt :=
  [stx "ka" .mov [] 1 [.near "st" 'k', .near "mg" 'k'] [], stx "aa" .mov [] 1 [.near "sv" 'a', .near "sw" 'a'] [], stx "ld1" .vld [] 0 [.near "st" 'd'] [],
    stx "sv" .vst [] 0 [.near "mg" 't'] [], stx "sw" .vst ["rel", "die"] 0 [] [], stx "st" .steer [] 0 [.near "sv" 'b'] [.near "mg" 'f'],
    stx "mg" .mergeOrd [] 0 [.near "sw" 'b'] []]

/-- Table 5.2: P, W and S of slots 2, 3, 4 and of the inserted `memnop`. -/
theorem test_wave_demo : (deriveWaves waveDemo).map (fun ss => ss.filterMap fun s => s.wave) = some [(0, 1, 63), (1, 2, 4), (63, 4, 0), (1, 3, 4)] := by
  decide +kernel

/-- The word that spec 05 gives for the `memnop`, and the target T3 of the `steer`. -/
theorem test_wave_words : ((deriveWaves waveDemo).bind fun ss => stmtWord ss 7).map encodeOp = some 0x920000010C400000 ∧
    (((deriveWaves waveDemo).bind fun ss => stmtWord ss 5).map fun w => w.t3.bits) = some 0x094 := by decide +kernel

/-- R142: a branch from 0x2044 to 0x2400 is 239 instructions on, and a target that is not 64-byte aligned is an error. -/
theorem test_reloc : relocField { offset := 68, addend := 0, symbol := 0, sect := 1, kind := 2, pos := 0, width := 20, shift := 0 } 0x2400 0x2044 = some 239 ∧
    relocField { offset := 68, addend := 0, symbol := 0, sect := 1, kind := 2, pos := 0, width := 20, shift := 0 } 0x2404 0x2044 = none := by decide +kernel

/-- R127: names. -/
theorem test_names : isIdentifier "ld1".toList = true ∧ isIdentifier "s31".toList = false ∧ isIdentifier "w40".toList = false ∧
    literalOf "0x1_0".toList = some 16 := by decide +kernel

/-! ## Further witnesses of hypotheses -/

/-- Units that wait in each kind of `wait`, with a timeout that has come. -/
theorem test_waits : ∀ i ∈ [Instr.waitNtf 3 2, .waitLvl 3 2, .waitGeu 3 2 4, .waitEq 3 2 4, .cmd 3 2 4, .launch 3 2, .cfgld 3 2 4],
    let w : WorkUnit := { unit2 with seq := .wait 0 i [], wto := 5 }
    Waits (sU w) 0 w i 0 [] ∧ Waits { sU w with tb := 5 } 0 w i 0 [] ∧ (w.wto ≠ 0 ∧ w.wto.toNat ≤ (({ sU w with tb := 5 } : State).tb - 0).toNat) := by
  intro i _
  exact ⟨⟨rfl, rfl, rfl, rfl, rfl⟩, ⟨rfl, rfl, rfl, rfl, rfl⟩, (by decide : (5 : BitVec 32) ≠ 0),
    (by decide : (5 : BitVec 32).toNat ≤ ((5 : Word) - 0).toNat)⟩

/-- The tokens at the ports of an operator that may fire, where it takes none from a halted arc. -/
def headsB (s : State) (img : Image) (sl : OpSlot) : Option (List (Nat × Token × Tag)) :=
  if decide (kget s.images 0 = some img) && decide (img.slotAt op0 = some sl) && sl.halts == false && mayFire s img && jibFirst s op0 == false &&
      img.hasRoom op0 allTargets && !takesHalted s img op0 (arcPorts sl.word) then img.headsOf op0 (arcPorts sl.word) else none

/-- The operator fed by some tokens. -/
def imgOn (o : Opc) (ts : List Token) : Image := imageOf (slotOf (wordOfOpc o none)) (routerOf .steer) ts

/-- The classes of the tokens it finds. -/
def classes (o : Opc) (ts : List Token) : Option (List TokClass) := (headsB (sI (imgOn o ts)) (imgOn o ts) (slotOf (wordOfOpc o none))).map fun hs => hs.map fun h => h.2.1.cls

/-- A burst header, and a token of ones and one nine. -/
def header0 : Token := Token.ofHdr { scale := 130, len := 3, last := false, clip := false } 0
def nine : Token := Token.make (fun k => if k = 1 then 9 else 1) 0xFFFF .data

/-- Headers at every port, a header beside data, and poison at a store. -/
theorem test_headers_stand : classes .add [header0, header0] = some [.header, .header] ∧ classes .add [header0, ones] = some [.header, .data] ∧
    classes .vst [header0, ones] = some [.header, .data] ∧ classes .bsapply [header0] = some [.header] ∧ classes .bsstrip [header0] = some [.header] ∧
    classes .vst [Token.poison 0x20, ones] = some [.poison, .data] ∧ classes .amoAdd [ones, Token.poison 0x20, ones] = some [.data, .poison] := by decide

/-- Votes with each copy dissenting and with three different tokens; a lane out of its range, checksums that differ, and an index beyond the lane file. -/
theorem test_votes : classes .vote3 [ones, ones, nine] = some [.data, .data, .data] ∧ ones ≠ nine ∧ ones ≠ header0 ∧ nine ≠ header0 ∧
    (maskOf fun k => nine.valid k && ((ones.valid 1 && (ones.lane 1).toInt < (nine.lane k).toInt) : Bool)) ≠ 0 ∧
    (maskOf fun k => (ones.mask &&& nine.mask).getLsbD k && ones.lane k != nine.lane k) ≠ 0 ∧
    (maskOf fun k => nine.mask.getLsbD k && !(decide ((nine.lane k).toInt < 4))) ≠ 0 ∧ (ones.lane 1).toInt = 1 := by decide

/-- Finite numbers whose sum, difference and product are 0 and are not; a NaN; exponents that `frcpi` takes. -/
theorem test_finite : fwFinite 0x3FE0000000 = true ∧ fwFinite 0xBFE0000000 = true ∧ fwUnits 0x3FE0000000 = 2 ^ 1080 ∧ fwUnits 0xBFE0000000 = -2 ^ 1080 ∧
    fwUnits 0 = 0 ∧ fwFinite 0 = true ∧ (fwUnpack 0x7FF0000000).isNan = true ∧ fwExp 0x3FE0000000 = 511 ∧ (1 : BitVec 6).toNat % 32 ≠ 0 := by decide +kernel

/-- A wave operation that took poison is the next of its instance. -/
theorem test_wave_poisoned : ∀ o ∈ [Opc.vld, .vldx, .memnop, .ldfe, .fence, .monwait],
    let x : MemFire := { fire5 with a := Token.poison 0x20 }
    Chosen (sW o x) 9 (inst9 x) (imgMem o) 0 unit0 x (slotOf (memWord o)) ∧ firstPoison [x.a, x.b, x.c] = some (Token.poison 0x20) := by
  intro o ho
  refine ⟨⟨?_, rfl, rfl, ?_, ?_⟩, by decide⟩
  all_goals
    revert o
    decide

/-- A cell within a region of the job and one without; the range of an update on it. -/
def sCell : State := { sW .redFx fire5 with fxregs := [regionAt] }

theorem test_wave_cells : fxWindow sCell unit0.job 0x20000 = some 0 ∧ fxWindow sCell unit0.job 0x20020 = none ∧
    (checkLanes sCell unit0 16 .atomic [(0, 0x20000)]).toOption = some [(0, .dpa 0x20000)] ∧
    (checkLanes sCell unit0 16 .read [(0, 0x20020)]).toOption = some [(0, .dpa 0x20020)] ∧ lanesOf (fire5.a.mask &&& fire5.b.mask) = [0] ∧
    undoFull sCell (.dpa 0x20000) 16 = false ∧ entryHeld sCell (some 9) (.dpa 0x20000) 16 = false := by decide

/-- An earlier instance of the thread that a fence and a release wait for. -/
theorem test_wave_fence :
    (let s : State := { sW .fence fire5 with insts := [(8, { inst9 fire5 with blk := 1 }), (9, { inst9 fire5 with pre := [(1, 0)] })] }
     earlierLeft s 9 fire5 = true) ∧ earlierLeft (sW .fence fire5) 9 fire5 = false := by decide

/-- `apst` onto channel 0 of die 0, beside it, off its start, and onto plain memory. -/
def sApst : State := { sP with images := [(0, imgMem .apst)], insts := [(9, inst9 fire5)], chans := [(0, { Chan.initial with holder := some 0xFFF })] }

theorem test_wave_apst : translate sApst 0xFFF 0x40000000 .write = .ok (.aperture 0 0) ∧ (chanOf sApst 0 0).holder = some unit0.asid ∧
    translate sApst 0xFFF 0x40000080 .write = .ok (.aperture 0 128) ∧ (chanOf sApst 0 1).holder ≠ some unit0.asid ∧
    translate sApst 0xFFF 0x40001000 .write = .ok (.aperture 0 4096) ∧ translate sApst 0xFFF 0x20000 .write = .ok (.dpa 0x20000) := by decide

/-- A `monwait` whose value is met at its issue, one that waits, and one whose write has come. -/
def xMon (b1 : Lane) : MemFire := { fire5 with b := Token.make (fun i => if i = 0 then 3 else b1) 3 .data }

theorem test_wave_monwait : condHolds 0 40 3 3 = true ∧ condHolds 0 40 0 3 = false ∧ (xMon 0).b.valid 1 = true ∧ ((xMon 0).b.lane 1).toInt ≤ 0 ∧
    ¬ ((xMon 5).b.lane 1).toInt ≤ 0 ∧
    (let x : MemFire := { xMon 5 with issued := some 0, started := some 0 }
     let s : State := { sW .monwait x with watches := [(11, { p := .dpa 0x20000, die := 0, n := 4, cond := 0, bits := 40, val := 3, hit := some 3 })] }
     (issuedFire s 9 5).isSome = true ∧ barredByEarlier s (inst9 x) (imgMem .monwait) = false ∧
       sameLocationLeft s (inst9 x) (imgMem .monwait) (memWord .monwait) unit0 x = false ∧ ((kget s.watches 11).bind fun k => k.hit) = some 3 ∧
       checkLane s unit0 0x20000 4 .read = .ok (.dpa 0x20000)) := by decide

/-- An atomic on a system target that takes none, and on two lanes of one word. -/
theorem test_wave_atomic_places : (checkLanes { sP with insts := [] } unit0 4 .atomic [(0, 0x80000000)]).toOption = some [(0, .sys (0xFFF * 2 ^ 58 + 0x80000000))] ∧
    (checkLanes (sW .amoAdd fire5) unit0 4 .atomic [(0, 0x20000), (1, 0x20000)]).toOption = some [(0, .dpa 0x20000), (1, .dpa 0x20000)] := by decide

/-- An instance that has ended, whose fill store and copy can be done; a channel that its context no longer holds. -/
def sCommit : State :=
  { sW .vst fire5 with chans := [(0, { Chan.initial with holder := some 0xFFF })], tmpls := [(5, { holder := some 0xFFF, def_ := some tmpl64 })] }

theorem test_commit_effects : (okOf (startCopy sCommit (fabricOp 0 unit0 0) 0 5 0 0 false)).isSome = true ∧ (chanOf sCommit 0 1).holder ≠ some unit0.asid ∧
    caddyOf (.dpa 0x8000000000) = some 0x8000000000 ∧ caddyOf (.dpa 0x20000) = none ∧ deferredHeld sCommit 9 (.copy 0x40000000 0 0 5 0 0) = false :=
  by decide +kernel

/-- Burst headers at a load that opens a burst and at a store with and without a scale area. -/
def sHdr (scv : Bool) : State :=
  { sSheave with
    streams := [(254, { Stream.initial with running := some { rec20 true with hdr := true, scv := scv, scales := 0x20200 } }),
                (255, { Stream.initial with running := some { rec20 false with hdr := true, scv := scv, scales := 0x20200 } })],
    images := sSheave.images.map fun x => (x.1, { x.2 with arcs := [{ arcIn (.op 0 0 0) 0 ones with q := [], count := 0 },
                                                                     { arcIn (.port 1) 9 header0 with src := .op 0 0 0 }] }) }

theorem test_sheave_headers : (portHead (sHdr true) 0 1).map (fun t => t.cls) = some .header ∧ portsOpen (sHdr true) 0 = true ∧ portRoom (sHdr false) 0 0 = true ∧
    (16 : Nat) % ((rec20 false).blen + 1) = 0 ∧ (okOf (loadVa (sHdr true) 0xFFF 0 0x20200 1 none)).map (fun bs => bs.length) = some 1 ∧
    (okOf (storeVa (sHdr true) 0xFFF (some 7) 0x20200 [130])).isSome = true := by decide +kernel

/-- The next byte of the copy under way, its pages and offsets. -/
theorem test_copy_bytes : (okOf (copySource { sC with ops := [(3, opOf0 .bte (.copy 31))] } 0 copy64 (0x20000 + 63))) = some 0 ∧
    okOf (landPlaces sC 0xFFF [0x30000 + 63]) = some [.dpa 0x3003F] ∧ (copyPages tmpl64 0).all (fun p => (okOf (place sC 0xFFF p.1 p.2 .write)).isSome) = true ∧
    tmpl64.counts.length = tmpl64.dstr.length ∧ 0 < 63 ∧ 63 < tmpl64.total := by decide +kernel

/-- A near-memory update that meets an uncorrectable error, and one that meets none. -/
theorem test_nmc_errors : nmcUce { sC with ops := [(3, opNmc .sgd)] } 3 0 = none ∧
    nmcUce { sC with ops := [(3, opNmc .sgd)], uce := [(0x1800, true)] } 3 0 = some 0x30000 := by decide +kernel

/-- A task that continues the accumulator of the queue's previous task on its MXE; the queue's last task. -/
def acc1 : MxAcc := { asid := 0xFFF, job := 7, queue := 15, mode := .int40, wexp := 0, last := 0, lastOp := 2, m := 1, n := 1, cells := [0], rowChk := [], colChk := [] }
def taskCont : TaskOp := { task1 with cont := true, prev := 2 }

theorem test_cont_task : (let s := sMxe (.task taskCont) { Mxe.initial with stat := plane1, acc := some acc1 }
    taskCont.continues 0xFFF acc1 = true ∧ acc1.mode = taskCont.mode ∧ accAt s 0 0xFFF taskCont = some 15 ∧ spilledFor s 0 0xFFF taskCont = none ∧
      depsMet s (opOf0 .mxe (.task taskCont)) taskCont = true ∧ mayStart s 3 (opOf0 .mxe (.task taskCont)) = true ∧
      swapBlocks s { Mxe.initial with stat := plane1, acc := some acc1 } taskCont = false) := by decide +kernel

/-- Withheld operations and commits that walk again after 10,000 ticks, with what they belong to. -/
theorem test_fire_rewalk : (let x : MemFire := { fire5 with fault := some (cXlatProt, 0x20000, 0) }
    let s : State := { sW .vld x with tb := 10000 }
    (fireNow s 9 5).isSome = true ∧ 10000 ≤ (s.tb - 0).toNat ∧ rewalk { s0 with tb := 10000 } 0xFFF (cXlatProt, 0x20000, 0, .write) = .walks) := by decide

/-- A VF without a reset under way, and one whose reset waits; the mailbox of each. -/
theorem test_resets : kget s0.flrs 5 = none ∧ s0.flrs = [] ∧ flrRuns s0 (.vf 5) = false ∧ flrRuns s0 .pf = false ∧
    (let r : Flr := { jobs := [7], roots := [0x10000], asids := [0xFFF] }
     kget ({ s0 with flrs := [(5, r)] } : State).flrs 5 = some r ∧ r.jobs.all (jobOver s0) = false) ∧
    State.reset.fwState = .rom ∧ kget State.reset.hostOffers (mboxOf State.reset .pf).addr.toNat = none ∧ ({ State.reset with flash := none } : State).flash = none := by decide

/-- Reads of the packet processor: poisoned, and not; an expiry with a kick at its moment and with none. -/
theorem test_reads : (let s : State := { sQ queue7 packet7 with mcReads := [(0, { on := [], poisoned := true })] }
    (kget s.mcReads 0).map (fun r => r.poisoned) = some true) ∧ kget s0.mcReads 0 = none ∧ kickDue (sQ queue7 packet7) q0 = false ∧
    kickDue { sQ queue7 packet7 with turns := [.ev (.wdctlKick q0), .tick 1] } q0 = true ∧
    okOf (mcLoad (sQ queue7 packet7) 0 0xFFF 0 0x40000 64).2 = some (packet7.flatMap wordBytes) := by decide +kernel

/-- A rollback whose restore meets another error, and one that meets none. -/
theorem test_restore_errors : restoreError s0 0x20 = none ∧ restoreError { s0 with turns := [.ev (.rollback 0x20008)] } 0x20 = some 0x20008 := by decide

/-- Neither a slot nor a header of the partition is held back; a link of a halyard that trains. -/
theorem test_backstay_room : slotHeld sPart (slotAddr sPart 15 1) = false ∧ headerHeld sPart 15 = false ∧ (0 : BitVec 40).toNat = (partOf sPart 15).lastn ∧
    (4 : BitVec 40).toNat < (partOf (putPart s0 15 { gseq := 3, v := true, lastn := 5, basen := 0, trunc := 0 }) 15).lastn ∧
    1000000 < ((1000001 : Word) - stream0.lostAt).toNat := by decide +kernel

/-- A turn of a sequencer stands first. -/
theorem test_turns : ({ s0 with turns := [.seq 0, .tick 3] } : State).turns = .seq 0 :: [.tick 3] ∧ (∀ l ∈ s0.launches, l.2.complete = true) := ⟨rfl, by decide⟩

/-! ## Lanes computed by hand, and the last witnesses -/

/-- The reciprocal square root of 1 is 1, and that of 4 is 1/2 (R154). -/
theorem test_frsqi : frsqiTable 0 = 1020 ∧ frsqiTable 191 = 513 ∧ (laneFrsqi 0).1 = fwInf false ∧ (laneFrsqi 0).2.dz = true := by decide +kernel

/-- 2 − inf × 0 is 2, 3 − inf × 0 over 2 is 1.5, and 1 fused with inf × 0 is a NaN (R155). -/
theorem test_newton : newtonStep 2 0 0 (fwInf false) (fwZero true) = (0x4000000000, Flags.none) ∧
    newtonStep 3 (-1) (-1) (fwZero false) (fwInf false) = (0x3FF0000000, Flags.none) ∧
    fwFma false false (fwInf true) (fwZero false) 0x3FE0000000 = (0x7FF0000000, Flags.invalid) := by decide +kernel

/-- 2.5 rounds to 2, inexactly; 1.5 is of class 6, minus infinity of class 0; the exponent of 2 is 1 (R156). -/
theorem test_elements : (laneFround 0x4008000000).1 = 0x4000000000 ∧ (laneFround 0x4008000000).2.nx = true ∧ laneFclass 0x3FF0000000 = 64 ∧
    laneFclass (fwInf true) = 1 ∧ laneFexpo 0x4000000000 = (1, Flags.none) ∧ laneFmant 0x4000000000 = (0x3FE0000000, Flags.none) := by decide +kernel

/-- Conversions: 2.5 to 2; −1 to an unsigned integer is invalid and 0; 300 saturates to 127 and wraps to 44 (R160). -/
theorem test_conversions : laneCvtfi false 0x4008000000 = (2, { Flags.none with nx := true }) ∧ laneCvtfi true 0xBFE0000000 = (0, Flags.invalid) ∧
    fwOfInt 2 = (0x4000000000, Flags.none) ∧ laneCvtsat 8 false 300 = 127 ∧ laneCvtsat 8 true 300 = 44 ∧ laneCvtsat 11 false (-1) = 0 := by decide +kernel

/-- Routers whose control, and whose data, are poison; a `carry` in its loop whose back edge has no token. -/
theorem test_routers_poison : ∀ o ∈ [Opc.steer, .mergeOrd, .carry],
    let p := Token.poison 0x20
    let img := imageOf (slotOf (wordOfOpc .add none)) { routerOf o with loop := true } [p, p, p]
    img.rtrAt rtr0 = some { routerOf o with loop := true } ∧ mayFire (sI img) img = true ∧ img.hasRoom rtr0 [0, 1, 2, 3] = true ∧
      (∀ k : Fin 3, (img.headOf (inputOf rtr0 k)).map (fun h => h.1) = some p ∧ portHalted (sI img) img (inputOf rtr0 k) = false) ∧ p.cls = .poison := by decide

/-- Chain entries beside those each kind admits (R117, R118): an index list at a near-memory chain. -/
theorem test_misplaced : ∀ k ∈ [kGre, { kind := .qe, die := 0, num := 0 }, { kind := .nmc, die := 0, num := 5 }, kMxq],
    (chainOf sBound k).bound = some (boundOf none) ∧ (boundOf none).stopped = false ∧ (boundOf none).fault = none ∧
    (boundOf none).head + 1 ≤ (boundOf none).pub + (boundOf none).nent ∧
    ((okOf (loadVa sBound 0xFFF 0 ((boundOf none).entryVa (decide (k.kind = .mxq)) 1) (if k.kind = .mxq then 64 else 32) none)).map fun bs => fieldAt bs 15 1)
      = some (fld cIdx 127 120) ∧ (okOf (loadVa sBound 0xFFF 0 0x31000 128 none)).isSome = true ∧
    ((okOf (loadVa { sBound with mem := putBytes sBound.mem 0x3000F [0x40] } 0xFFF 0 0x30000 32 none)).map fun bs => fieldAt bs 15 1) = some 0x40 := by decide +kernel

/-- A chain that is free and that no command held under SER will bind; a job's regions, with and without one that waits; tables that can be read. -/
theorem test_held_none : boundSoon sC kGre = false ∧ boundSoon sBound kGre = true ∧ regionsOf sC 7 = [] ∧ regionsOf sCell 7 = [regionAt] ∧
    tablesLost s0 0xFFF 0x20000 65536 = false ∧ tablesLost { s0 with lost := [(0x11, true)] } 0xFFF 0x20000 65536 = true := by decide +kernel

/-- An entry that the partition holds, one the partition does not reach yet, and one of a sequence that no partition holds (R383). -/
theorem test_backstay_held : (let h : Part := { gseq := 3, v := true, lastn := 5, basen := 0, trunc := 0 }
    let s := putPart s0 15 h
    findPart s 3 = some 15 ∧ partOf s 15 = h ∧ h.trunc < 5 ∧ h.basen < 5 ∧ 5 ≤ h.lastn ∧ h.lastn + 1 < 7 ∧
      (getBytes s.mem (slotAddr s 15 5 + 8) 24 != [3, 0, 0].flatMap wordBytes) = true) ∧
    findPart sPart 4 = none ∧ (List.range sPart.blob.npart).find? (fun p => !(partOf sPart p).v) = some 0 ∧ 0 < sPart.blob.jlen ∧
    slotHeld sPart (slotAddr sPart 0 1) = false ∧ headerHeld sPart 0 = false := by decide +kernel

/-- The edges of the opcode table of commands (R117): 0x02 and 0x81 stand in it, 0x03 and 0x82 do not. -/
theorem test_command_edges : (Sopc.ofCode 0x02).isSome = true ∧ (Sopc.ofCode 0x03).isSome = false ∧ (Sopc.ofCode 0x81).isSome = true ∧
    (Sopc.ofCode 0x82).isSome = false := by decide

/-- R136 step 4, both cases on one `steer`: a path to the merge takes a `memnop`, so the load has a successor on that side and the path that ends takes
another; both lie at the end of the block with S = 0, and the load takes S = 63. -/
theorem test_wave_ends : (deriveWaves [stx "ka" .mov [] 1 [.near "st" 'k', .near "mg" 'k'] [], stx "fa" .mov [] 1 [.near "mg" 'f'] [],
      stx "ld1" .vld [] 0 [.near "st" 'd'] [], stx "st" .steer [] 0 [.near "mg" 't'] [.stream "po"], stx "mg" .mergeOrd [] 0 [.stream "po"] []]).map
    (fun ss => ss.filterMap fun s => s.wave) = some [(0, 1, 63), (1, 2, 0), (1, 3, 0)] := by decide +kernel
end Sys2Proof.Tests
end

section
/-! SUPPORT. Firings, said once for all operators: what `exec` calls for an opcode of form C or M, how an operator fires on poison and on headers, and what
the effect of a firing leaves (R14, R17, R60, R173). -/

namespace Sys2Proof.Machine

open Sys2Proof.Safety

/-! ## What `exec` calls for an opcode -/

/-- The event of an opcode of form C is one firing of it. -/
theorem exec_instr_formC {o : Opc} (h : o.form = .c) (e : Site) (s : State) : exec (o.instr e) s = operatorFires o e s := by
  cases o <;> simp [Opc.form] at h <;> rfl

/-- The event of a memory operator other than `emit` is one firing of it. -/
theorem exec_instr_formM {o : Opc} (h : o.form = .m) (hn : o ≠ .emit) (e : Site) (s : State) : exec (o.instr e) s = memoryFires o e s := by
  cases o <;> simp [Opc.form] at h hn <;> rfl

/-! ## How an operator fires on the tokens at its ports -/

variable {s : State} {o : Opc} {e : Site} {img : Image} {sl : OpSlot} {hs : List (Nat × Token × Tag)} {k : Nat} {t : Token × Tag}

theorem fireKind_poison (ho : o ≠ .vote3) (h : hs.find? (fun h => h.2.1.cls = .poison) = some (k, t)) : fireKind o hs = .poison t.1 := by
  simp [fireKind, h, ho]

theorem fireKind_headers (ho : takesHeaders o = false) (hp : ∀ h ∈ hs, h.2.1.cls ≠ .poison)
    (h : hs.find? (fun h => h.2.1.cls = .header) = some (k, t)) :
    fireKind o hs = .headers ((hs.filter fun h => h.2.1.cls = .header).map fun h => h.1) t.1 := by
  have hn : hs.find? (fun h => h.2.1.cls = .poison) = none := by simpa [List.find?_eq_none] using hp
  have hd : (hs.filter fun h => h.2.1.cls = .header).head? = some (k, t) := by rw [List.head?_filter, h]
  obtain ⟨rest, hf⟩ := List.head?_eq_some_iff.mp hd
  simp [fireKind, hn, ho, hf]

/-- A firing on poison is one that the dealing to copies counts (R34). -/
theorem deals_poison (h : hs.find? (fun h => h.2.1.cls = .poison) = some (k, t)) (p : Token) : deals (.poison p) hs = true := by
  have hm := List.mem_of_find?_eq_some h
  have hc : t.1.cls = .poison := by simpa using List.find?_some h
  have hall : hs.all (fun h => h.2.1.cls = .header) = false := List.all_eq_false.mpr ⟨(k, t), hm, by simp [hc]⟩
  simp [deals, hall]

/-- Tokens of which one is no header are not headers alone. -/
theorem allHeaders_of_mem (h : ∃ h ∈ hs, h.2.1.cls ≠ .header) : allHeaders hs = false := by
  have hall : hs.all (fun h => h.2.1.cls = .header) = false := by simpa [List.all_eq_false] using h
  simp [allHeaders, hall]

/-! ## The effect of a firing -/

/-- The effect of a firing that emits: one event takes the tokens and writes the result, and the lane-file words are written. -/
theorem applyEffect_emitting {kind : FireKind} {take : List Nat} {sl1 : OpSlot} {p : Token} {f : Flags} {ls : List (Nat × Lane)}
    (hh : takesHalted s img e take = false) (hr : img.hasRoom e allTargets = true) :
    applyEffect s img e sl kind hs take { fired := Fired.emits p f, slot := sl1, lanes := ls, vrec := none } =
      .fired { orNumst (putImage s e.tp.key ((img.setSlot e { sl1 with dealt := if deals kind hs then sl.dealt + 1 else sl.dealt }).fire e take
          [(allTargets, p)] (tagOf hs))) (img.tpKey (turnTile img sl)) f with lanes := ls.foldl (fun m kv => dset 0 m kv.1 kv.2) s.lanes } := by
  simp only [applyEffect, Fired.emits, hh, Bool.false_eq_true, if_false]
  rw [if_neg (by simp [hr])]
  rfl

/-- The effect of a firing that traps: its element stops, and its tokens stay (R44). -/
theorem applyEffect_trapping {kind : FireKind} {take : List Nat} {sl1 : OpSlot} {c : BitVec 16} {v : Word}
    (hh : takesHalted s img e take = false) :
    applyEffect s img e sl kind hs take { fired := Fired.traps c v, slot := sl1, lanes := [], vrec := none } =
      .trapped (putImage s e.tp.key (img.setSlot e (sl.stop sl.turn))) c v (hs.map fun h => h.2.1) := by
  simp [applyEffect, Fired.traps, hh]

/-- Where no firing of the storm jib goes first, a firing that traps leaves the state of its trap. -/
theorem trapped_goes {c : BitVec 16} {v : Word} (h : jibFirst s e = false) :
    fired (.trapped (putImage s e.tp.key (img.setSlot e (sl.stop sl.turn))) c v (hs.map fun h => h.2.1)) e s =
      .next (settle (trappedAt s e img sl hs c v)) := by
  simp [fired, h, FireRes.after, done, trappedAt]

/-! ## One firing of an operator that stands ready -/

theorem stands_opc (h : Stands s o e img sl hs) : sl.word.opc = o := by
  obtain ⟨_, _, ho, _⟩ := h
  exact ho

theorem stands_jibFirst (h : Stands s o e img sl hs) : jibFirst s e = false := by
  obtain ⟨_, _, _, _, _, hj, _⟩ := h
  exact hj

/-- An operator fires on poison at its ports. -/
theorem fireOp_poison (h : Stands s o e img sl hs) (hk : fireKind o hs = .poison t.1) :
    fireOp o e s = applyEffect s img e sl (.poison t.1) hs (arcPorts sl.word) (poisonEffect sl t.1) := by
  obtain ⟨himg, hsl, ho, hstop, hfire, _, hheads⟩ := h
  simp [fireOp, himg, hsl, ho, hstop, hfire, hheads, hk]

/-- An operator passes the headers at its ports on. -/
theorem fireOp_headers {ps : List Nat} (h : Stands s o e img sl hs) (hk : fireKind o hs = .headers ps t.1) :
    fireOp o e s = applyEffect s img e sl (.headers ps t.1) hs ps { fired := Fired.emits t.1 Flags.none, slot := sl, lanes := [], vrec := none } := by
  obtain ⟨himg, hsl, ho, hstop, hfire, _, hheads⟩ := h
  simp [fireOp, himg, hsl, ho, hstop, hfire, hheads, hk]

/-- A memory operator that writes traps on poison at its ports (R14). -/
theorem fireMem_poison (h : Stands s o e img sl hs) (hk : fireKind o hs = .poison t.1) (ht : trapsOnPoison o = true)
    (hh : takesHalted s img e (arcPorts sl.word) = false) :
    fireMem o e s = .trapped (putImage s e.tp.key (img.setSlot e (sl.stop sl.turn))) 0x20 ((t.1.lane 0).setWidth 64 &&& 0xFFFF) (hs.map fun h => h.2.1) := by
  obtain ⟨himg, hsl, ho, hstop, hfire, _, hheads⟩ := h
  simp [fireMem, himg, hsl, ho, hstop, hfire, hheads, hk, ht, hh]

/-- A memory operator passes the headers at some of its ports on (R60). -/
theorem fireMem_headers {ps : List Nat} (h : Stands s o e img sl hs) (hk : fireKind o hs = .headers ps t.1) (ha : allHeaders hs = false) :
    fireMem o e s = applyEffect s img e sl (.headers ps t.1) hs ps { fired := Fired.emits t.1 Flags.none, slot := sl, lanes := [], vrec := none } := by
  obtain ⟨himg, hsl, ho, hstop, hfire, _, hheads⟩ := h
  simp [fireMem, himg, hsl, ho, hstop, hfire, hheads, hk, ha]

end Sys2Proof.Machine
end

section
/-! SUPPORT. Poison and burst headers at the operators of forms C and M (R14, R60, R169, R173, R274). -/

namespace Sys2Proof.Machine

open Sys2Proof.Safety

variable {s : State} {o : Opc} {e : Site} {img : Image} {sl : OpSlot} {hs : List (Nat × Token × Tag)} {k : Nat} {t : Token × Tag}

/-- A compute operator with poison at a port emits a copy of it (R14). -/
theorem exec_poison_passes (h : Ready s o e img sl hs) (hc : o.form = .c) (hv : o ≠ .vote3)
    (hp : hs.find? (fun h => h.2.1.cls = .poison) = some (k, t)) (hn : o ≠ .sink) (hr : img.hasRoom e allTargets = true) :
    exec (o.instr e) s = .next (settle (firedTo s e img sl hs sl (some t.1) Flags.none)) := by
  obtain ⟨hst, hh, _⟩ := h
  have ho := stands_opc hst
  have hef : poisonEffect sl t.1 = { fired := Fired.emits t.1 Flags.none, slot := sl, lanes := [], vrec := none } := by
    simp [poisonEffect, ho, hn]
  rw [exec_instr_formC hc, operatorFires, fireOp_poison hst (fireKind_poison hv hp), hef, applyEffect_emitting hh hr, deals_poison hp,
    fired_goes (stands_jibFirst hst)]
  rfl

/-- `sink` raises `data.poison` (R169). -/
theorem exec_sink_poison (h : Ready s .sink e img sl hs) (hp : hs.find? (fun h => h.2.1.cls = .poison) = some (k, t)) :
    exec (.opSink e) s = .next (settle (trappedAt s e img sl hs 0x20 ((t.1.lane 0).setWidth 64 &&& 0xFFFF))) := by
  obtain ⟨hst, hh, _⟩ := h
  have ho := stands_opc hst
  have hef : poisonEffect sl t.1 = { fired := Fired.traps 0x20 ((t.1.lane 0).setWidth 64 &&& 0xFFFF), slot := sl, lanes := [], vrec := none } := by
    simp [poisonEffect, ho]
  rw [exec_opSink, execOpSink, operatorFires, fireOp_poison hst (fireKind_poison (by decide) hp), hef, applyEffect_trapping hh,
    trapped_goes (stands_jibFirst hst)]

/-- A memory operator that writes raises `data.poison` (R14). -/
theorem exec_memory_poison (h : Ready s o e img sl hs) (hm : o.form = .m) (he : o ≠ .emit) (ht : trapsOnPoison o = true)
    (hp : hs.find? (fun h => h.2.1.cls = .poison) = some (k, t)) :
    exec (o.instr e) s = .next (settle (trappedAt s e img sl hs 0x20 ((t.1.lane 0).setWidth 64 &&& 0xFFFF))) := by
  obtain ⟨hst, hh, _⟩ := h
  have hv : o ≠ .vote3 := by rintro rfl; exact absurd hm (by decide)
  rw [exec_instr_formM hm he, memoryFires, fireMem_poison hst (fireKind_poison hv hp) ht hh, trapped_goes (stands_jibFirst hst)]

/-- A header passes through an operator that is not header-aware, and nothing else is taken (R60). -/
theorem exec_header_passes (h : Stands s o e img sl hs) (hp : ∀ h ∈ hs, h.2.1.cls ≠ .poison) (ho : takesHeaders o = false)
    (hf : o.form = .c ∨ o.form = .m ∧ o ≠ .emit ∧ ∃ h ∈ hs, h.2.1.cls ≠ .header)
    (hk : hs.find? (fun h => h.2.1.cls = .header) = some (k, t))
    (hh : takesHalted s img e ((hs.filter fun h => h.2.1.cls = .header).map fun h => h.1) = false) (hr : img.hasRoom e allTargets = true) :
    exec (o.instr e) s =
      .next (settle (headerTo s e img sl hs ((hs.filter fun h => h.2.1.cls = .header).map fun h => h.1) (some t.1))) := by
  have hkind := fireKind_headers ho hp hk
  rcases hf with hc | ⟨hm, he, ha⟩
  · rw [exec_instr_formC hc, operatorFires, fireOp_headers h hkind, applyEffect_emitting hh hr, fired_goes (stands_jibFirst h)]
    rfl
  · rw [exec_instr_formM hm he, memoryFires, fireMem_headers h hkind (allHeaders_of_mem ha), applyEffect_emitting hh hr, fired_goes (stands_jibFirst h)]
    rfl

/-- The memory operators that the poison rule names trap on poison. -/
theorem trapsOnPoison_of_not_mem (h : o ∉ [Opc.emit, .vld, .vldx, .memnop, .ldfe, .fence, .monwait]) : trapsOnPoison o = true := by
  cases o <;> simp at h <;> rfl

/-- Which operators take headers themselves (R60): none of form M, and of form C those that the header rule leaves out. -/
theorem takesHeaders_of_passes {p : Prop} (h : o.form = .c ∧ o ∉ [Opc.bsapply, .bsstrip, .join, .sink, .vote3] ∨ o.form = .m ∧ p) :
    takesHeaders o = false := by
  cases o <;> simp [Opc.form] at h <;> rfl

end Sys2Proof.Machine
end

section
/-! SUPPORT. What each router takes and forwards (R26 to R29, R166, R167), and its firing (R14, R16, R17). -/

namespace Sys2Proof.Machine

/-- Of two tokens of which at least one is poison, with the lower-numbered port first: the one that is copied (R14). -/
def poisonOf (x y : Token) : Token := if x.cls = .poison then x else y

/-! ## The poison that is copied -/

theorem firstPoison_clean {x : Token} (h : x.cls ≠ .poison) (xs : List Token) : firstPoison (x :: xs) = firstPoison xs := by
  simp [firstPoison, h]

theorem firstPoison_cons (x d : Token) (xs : List Token) : (firstPoison (x :: xs)).getD d = poisonOf x ((firstPoison xs).getD d) := by
  by_cases h : x.cls = .poison <;> simp [firstPoison, poisonOf, h]

@[simp] theorem firstPoison_nil : firstPoison [] = none := rfl

theorem poisonOf_poison {x : Token} (h : x.cls = .poison) (y : Token) : poisonOf x y = x := if_pos h

theorem poisonOf_self (x : Token) : poisonOf x x = x := ite_self _

/-! ## What a merge makes of its tokens -/

/-- The lanes of a token, read one by one, are its lanes. -/
theorem lanes_ofFn (x : Token) : (Vector.ofFn fun i : Fin 16 => x.lane i.val) = x.lanes := by
  ext i hi
  simp [Token.lane]

@[simp] theorem make_mask (f : Nat → Lane) (m : BitVec 16) (c : TokClass) : (Token.make f m c).mask = m := rfl

@[simp] theorem make_cls (f : Nat → Lane) (m : BitVec 16) (c : TokClass) : (Token.make f m c).cls = c := rfl

/-- Under a control that selects every lane of x, a merge forwards x whole (R27). -/
theorem mergeTokens_full (x : Token) : mergeTokens 65535#16 (some x) none = x := by
  have hsel (i : Fin 16) : (0xFFFF#16).getLsbD i.val = true := by revert i; decide
  simp [mergeTokens, hsel, lanes_ofFn]

/-- Under a control that selects no lane of x, a merge forwards y whole (R27). -/
theorem mergeTokens_empty (y : Token) : mergeTokens 0#16 none (some y) = y := by
  simp [mergeTokens, lanes_ofFn]

/-- Under a control that selects some lanes, a merge takes those of x and the others of y, and the class of x (R27). -/
theorem mergeTokens_both {m : BitVec 16} (hm : m ≠ 0#16) (x y : Token) : mergeTokens m (some x) (some y) =
    { lanes := Vector.ofFn fun i => if m.getLsbD i.val then x.lane i.val else y.lane i.val, mask := x.mask ||| y.mask, cls := x.cls } := by
  simp [mergeTokens, hm]

theorem not_eq_zero_iff (m : BitVec 16) : ~~~m = 0#16 ↔ m = 65535#16 := by
  constructor
  · intro h
    rw [← BitVec.not_not (b := m), h]
    rfl
  · rintro rfl
    rfl

/-! ## What each router does -/

variable (r : RtrSlot)

theorem routeSteer_poison (d : Token) {k : Token} (hk : k.cls = .poison) :
    routeSteer r (some d) (some k) = some { take := [0, 1], outs := [([0, 1], poisonOf d k), ([2, 3], poisonOf d k)], rtr := r } := by
  simp [routeSteer, hk, firstPoison_cons, poisonOf_self]

theorem routeSteer_splits (d : Token) {k : Token} (hk : k.cls ≠ .poison) :
    routeSteer r (some d) (some k) = some
      { take := [0, 1]
        outs := (if k.tset = 0#16 then [] else [([0, 1], splitTo d k.tset)]) ++ (if k.tset = 65535#16 then [] else [([2, 3], splitTo d (~~~k.tset))])
        rtr := r } := by
  simp [routeSteer, hk, not_eq_zero_iff]

theorem routeMergeOrd_poison (x y : Token) {k : Token} (hk : k.cls = .poison) :
    routeMergeOrd r (some x) (some y) (some k) = some { take := [0, 1, 2], outs := [(allTargets, poisonOf x (poisonOf y k))], rtr := r } := by
  simp [routeMergeOrd, hk, firstPoison_cons, poisonOf_poison hk]

theorem routeMergeOrd_first (x : Token) (y : Option Token) {k : Token} (hk : k.cls ≠ .poison) (ht : k.tset = 65535#16) :
    routeMergeOrd r (some x) y (some k) = some { take := [0, 2], outs := [(allTargets, x)], rtr := r } := by
  simp [routeMergeOrd, hk, ht, firstPoison_cons, firstPoison_clean hk, mergeTokens_full, poisonOf_self]

theorem routeMergeOrd_second (x : Option Token) (y : Token) {k : Token} (hk : k.cls ≠ .poison) (ht : k.tset = 0#16) :
    routeMergeOrd r x (some y) (some k) = some { take := [1, 2], outs := [(allTargets, y)], rtr := r } := by
  simp [routeMergeOrd, hk, ht, firstPoison_cons, firstPoison_clean hk, mergeTokens_empty, poisonOf_self]

theorem routeMergeOrd_both (x y : Token) {k : Token} (hk : k.cls ≠ .poison) (h0 : k.tset ≠ 0#16) (h1 : k.tset ≠ 65535#16) :
    routeMergeOrd r (some x) (some y) (some k) =
      some { take := [0, 1, 2], outs := [(allTargets, poisonOf x (poisonOf y (mergeTokens k.tset (some x) (some y))))], rtr := r } := by
  simp [routeMergeOrd, hk, h0, h1, not_eq_zero_iff, firstPoison_cons, firstPoison_clean hk]

theorem routeMergeArr_first (x : Token) {y : Option Token} (h : y = none ∨ r.tookX = false) :
    routeMergeArr r (some x) y = some { take := [0], outs := [(allTargets, x)], rtr := { r with tookX := true } } := by
  cases y with
  | none => rfl
  | some y => simp [routeMergeArr, h.resolve_left (by simp)]

theorem routeMergeArr_second {x : Option Token} (y : Token) (h : x = none ∨ r.tookX = true) :
    routeMergeArr r x (some y) = some { take := [1], outs := [(allTargets, y)], rtr := { r with tookX := false } } := by
  cases x with
  | none => rfl
  | some x => simp [routeMergeArr, h.resolve_left (by simp)]

theorem routeCarry_initial (i : Token) (b k : Option Token) (h : r.loop = false) :
    routeCarry r (some i) b k = some { take := [0], outs := [(allTargets, i)], rtr := { r with loop := true } } := by
  simp [routeCarry, h]

theorem routeCarry_poison (i : Option Token) (b : Token) {k : Token} (h : r.loop = true) (hk : k.cls = .poison) :
    routeCarry r i (some b) (some k) = some { take := [1, 2], outs := [(allTargets, poisonOf b k)], rtr := r } := by
  simp [routeCarry, h, hk, firstPoison_cons, poisonOf_self]

theorem routeCarry_poison_alone (i : Option Token) {k : Token} (h : r.loop = true) (hk : k.cls = .poison) :
    routeCarry r i none (some k) = some { take := [2], outs := [(allTargets, k)], rtr := r } := by
  simp [routeCarry, h, hk, firstPoison_cons, poisonOf_self]

theorem routeCarry_leaves (i b : Option Token) {k : Token} (h : r.loop = true) (hk : k.cls ≠ .poison) (ht : k.tset = 0#16) :
    routeCarry r i b (some k) = some { take := [2], outs := [], rtr := { r with loop := false } } := by
  simp [routeCarry, h, hk, ht]

theorem routeCarry_again (i : Option Token) (b : Token) {k : Token} (h : r.loop = true) (hk : k.cls ≠ .poison) (ht : k.tset ≠ 0#16) :
    routeCarry r i (some b) (some k) = some { take := [1, 2], outs := [(allTargets, b)], rtr := r } := by
  simp [routeCarry, h, hk, ht]

/-! ## One firing -/

/-- A router of an image that may fire, at an element that no trap has stopped, no firing of the storm jib going first (R25, R36, R44). -/
structure RouterStands (s : State) (e : Site) (img : Image) (r : RtrSlot) : Prop where
  image : kget s.images e.tp.key = some img
  slot : img.rtrAt e = some r
  fires : mayFire s img = true
  runs : img.elemStopped r.tile r.elem = false
  first : jibFirst s e = false

/-- The state after a firing of a router: one event takes the oldest tokens of the ports `take` and writes `outs` (R16). -/
def routedTo (s : State) (e : Site) (img : Image) (r : RtrSlot) (ro : Routed) : State :=
  let tag := img.routerTag e r (ro.take.filterMap fun p => (img.headOf (inputOf e p)).map fun x => (p, x))
  putImage s e.tp.key ((img.setRtr e { ro.rtr with count := r.count + if tag.n.any (2 ^ 40 ≤ ·) then 0 else ro.outs.length }).fire e ro.take ro.outs tag)

/-- The oldest token at an input port of a site. -/
def Image.portToken (img : Image) (e : Site) (p : Nat) : Option Token := (img.headOf (inputOf e p)).map fun x => x.1

theorem portToken_some {img : Image} {e : Site} {p : Nat} {x : Token × Tag} (h : img.headOf (inputOf e p) = some x) : img.portToken e p = some x.1 := by
  simp [Image.portToken, h]

theorem portToken_none {img : Image} {e : Site} {p : Nat} (h : img.headOf (inputOf e p) = none) : img.portToken e p = none := by
  simp [Image.portToken, h]

/-- A router whose opcode does `ro` with the tokens at its ports fires so, where it has room and takes from no halted arc (R17, R274). -/
theorem routerFires_goes {s : State} {o : Opc} {e : Site} {img : Image} {r : RtrSlot} {ro : Routed} (h : RouterStands s e img r) (ho : r.word.opc = o)
    (hr : route r (img.portToken e 0) (img.portToken e 1) (img.portToken e 2) = some ro)
    (hm : ∀ x ∈ ro.outs, img.hasRoom e x.1 = true) (hh : ∀ p ∈ ro.take, portHalted s img (inputOf e p) = false) :
    routerFires o e s = .next (settle (routedTo s e img r ro)) := by
  rw [routerFires, fireRouter_goes h.image h.slot h.fires h.runs ho hr hh hm, fired_goes h.first]
  rfl

theorem route_steer {r : RtrSlot} (h : r.word.opc = .steer) (x y z : Option Token) : route r x y z = routeSteer r x y := by simp [route, h]

theorem route_mergeOrd {r : RtrSlot} (h : r.word.opc = .mergeOrd) (x y z : Option Token) : route r x y z = routeMergeOrd r x y z := by simp [route, h]

theorem route_mergeArr {r : RtrSlot} (h : r.word.opc = .mergeArr) (x y z : Option Token) : route r x y z = routeMergeArr r x y := by simp [route, h]

theorem route_carry {r : RtrSlot} (h : r.word.opc = .carry) (x y z : Option Token) : route r x y z = routeCarry r x y z := by simp [route, h]

end Sys2Proof.Machine
end

section
/-! SUPPORT. A memory operator that fires on plain tokens enters its wave chain (R31, R76, R173, R244). -/

namespace Sys2Proof.Machine

open Sys2Proof.Safety

variable {s : State} {o : Opc} {e : Site} {img : Image} {sl : OpSlot} {hs : List (Nat × Token × Tag)}

theorem allHeaders_of_plain (hp : Plain hs) (hn : hs ≠ []) : allHeaders hs = false := by
  obtain ⟨h, hm⟩ := List.exists_mem_of_ne_nil hs hn
  exact allHeaders_of_mem ⟨h, hm, (hp h hm).2⟩

/-- What the memory interface holds of a firing: the tokens that it took and the g registers as it read them (R171, R244). -/
def firedMem (s : State) (e : Site) (img : Image) (sl : OpSlot) (hs : List (Nat × Token × Tag)) : MemFire :=
  { op := s.nextId, slot := e.slot, copy := sl.turn, a := tokenAt sl.word hs 0, b := tokenAt sl.word hs 1,
    c := tokenAt sl.word hs 2, seeds := seedsAt s img.unit, started := none, fault := none, winWait := [], poisoned := false,
    issued := none, queued := none, entry := none, again := false }

/-- The image once a firing of a memory operator has taken its tokens and reserved its result (R16, R173). -/
def reservedTo (s : State) (e : Site) (img : Image) (sl : OpSlot) (hs : List (Nat × Token × Tag)) : Image :=
  let img1 := (img.setSlot e { sl with dealt := sl.dealt + 1 }).fire e (arcPorts sl.word) [] (tagOf hs)
  { img1 with arcs := img1.arcs.map fun a => if a.fromSite e allTargets then a.reserve s.nextId (tagOf hs) false else a }

/-- The state in which a firing of a memory operator has taken its tokens, before it enters a chain. -/
def memoryTaken (s : State) (e : Site) (img : Image) (sl : OpSlot) (hs : List (Nat × Token × Tag)) : State :=
  { putImage s e.tp.key (reservedTo s e img sl hs) with nextId := s.nextId + 1 }

@[simp] theorem instOf_memoryTaken (key blk tag : Nat) : instOf (memoryTaken s e img sl hs) key blk tag = instOf s key blk tag := rfl

/-- A memory operator that is ready, with plain tokens and room, enters its chain (R173). -/
theorem fireMem_data (h : Ready s o e img sl hs) (hp : Plain hs) (hr : img.hasRoom e allTargets = true) :
    fireMem o e s = .fired (enterChain (memoryTaken s e img sl hs) img.unit e (tagOf hs) (firedMem s e img sl hs)) := by
  obtain ⟨⟨himg, hsl, ho, hstop, hfire, _, hheads⟩, hh, hn⟩ := h
  have hstands : ¬ (sl.word.opc ≠ o ∨ sl.halts = true ∨ (!mayFire s img) = true) := by simp [ho, hstop, hfire]
  simp only [fireMem, himg, hsl, hheads, fireKind_plain hp, allHeaders_of_plain hp hn, hr, hh, if_neg hstands]
  rfl

theorem exec_memory_enters (hm : o.form = .m) (he : o ≠ .emit) (h : Ready s o e img sl hs) (hp : Plain hs) (hr : img.hasRoom e allTargets = true) :
    exec (o.instr e) s = .next (settle (enterChain (memoryTaken s e img sl hs) img.unit e (tagOf hs) (firedMem s e img sl hs))) := by
  rw [exec_instr_formM hm he, memoryFires, fireMem_data h hp hr, fired_goes (stands_jibFirst h.1)]

/-- An operation joins the chain of its thread that is open in its block. -/
theorem enterChain_open {u : UnitId} {g : Tag} {x : MemFire} {n : Nat} (h : instOf s e.tp.key e.blk (g.n.getD 0) = some n) :
    enterChain s u e g x = { s with insts := kmod s.insts n fun it =>
      { it with waiting := it.waiting ++ [x], pre := it.pre ++ (g.pre.filter fun p => !it.pre.contains p), via := joinVia it.via g.via } } := by
  simp [enterChain, h]

/-- An operation of a thread that has no chain open in the block opens one. -/
theorem enterChain_new {u : UnitId} {g : Tag} {x : MemFire} (h : instOf s e.tp.key e.blk (g.n.getD 0) = none) :
    enterChain s u e g x =
      { s with
        insts := kput s.insts s.nextId
          { unit := u, ended := false, fenced := false, img := e.tp.key, blk := e.blk, tag := g.n.getD 0, lastW := 0, lastS := 63,
            pre := g.pre, via := g.via, waiting := [x], deferred := [], fault := none, rel := false, entries := [] }
        nextId := s.nextId + 1 } := by
  simp [enterChain, h]

end Sys2Proof.Machine
end

section
/-! SUPPORT. Which operators complete: one firing of every float, conversion, lane-arranging and lane-file operator emits one token (R13, R16, R17, R143,
R161, R162). -/

namespace Sys2Proof.Machine

open Sys2Proof.Safety

/-! ## Lanes of tokens -/

theorem make_lane (f : Nat → Lane) (m : BitVec 16) (c : TokClass) {k : Nat} (hk : k < 16) :
    (Token.make f m c).lane k = if m.getLsbD k then f k else 0 := by
  simp [Token.make, Token.lane, hk]

/-- The invalid lanes of a token hold 0 (R13). -/
def ZeroedLanes (t : Token) : Prop := ∀ k, k < 16 → t.valid k = false → t.lane k = 0

theorem make_zeroed (f : Nat → Lane) (m : BitVec 16) (c : TokClass) : ZeroedLanes (Token.make f m c) := by
  intro k hk hv
  have hm : m.getLsbD k = false := hv
  simp [make_lane f m c hk, hm]

theorem ofHdr_zeroed (h : Hdr) (n : BitVec 24) : ZeroedLanes (Token.ofHdr h n) := by
  intro k hk hv
  have hm : (0x0003#16).getLsbD k = false := hv
  have h0 : k ≠ 0 := by rintro rfl; simp at hm
  have h1 : k ≠ 1 := by rintro rfl; simp at hm
  simp [Token.ofHdr, Token.lane, hk, h0, h1]

/-- Two masks made of the same bits are one. -/
theorem maskOf_congr {f g : Nat → Bool} (h : ∀ k, k < 16 → f k = g k) : maskOf f = maskOf g := by
  simp only [maskOf]
  congr
  funext i
  exact h i.val i.isLt

theorem and_fullMask (m : BitVec 16) : m &&& 65535#16 = m := BitVec.and_allOnes

/-- A mask whose bits are all alike. -/
theorem maskOf_const (p : Bool) : maskOf (fun _ => p) = if p then 65535#16 else 0#16 := by
  cases p <;> decide

theorem maskOf_eq_zero {f : Nat → Bool} (h : ∀ k, k < 16 → f k = false) : maskOf f = 0 :=
  (maskOf_congr h).trans (maskOf_const false)

/-! ## Operators that emit one token -/

/-- A firing that emits one token, of a class and a mask, whose invalid lanes hold 0. -/
def EmitsAs (cls : TokClass) (m : BitVec 16) (r : Fired) : Prop :=
  ∃ (out : Token) (f : Flags), r = Fired.emits out f ∧ out.cls = cls ∧ out.mask = m ∧ ZeroedLanes out

theorem emits_make (f : Nat → Lane) (m : BitVec 16) (cls : TokClass) (fl : Flags) : EmitsAs cls m (Fired.emits (Token.make f m cls) fl) :=
  ⟨Token.make f m cls, fl, rfl, rfl, rfl, make_zeroed f m cls⟩

/-- An operator that fires on plain tokens, with room, emits one token of a class and a mask, whose invalid lanes hold 0. -/
def CompletesAs (o : Opc) (i : Site → Instr) (cls : TokClass) (mask : OpWord → Token → Token → Token → BitVec 16) : Prop :=
  ∀ s e img sl hs, Ready s o e img sl hs → Plain hs → img.hasRoom e allTargets = true →
    ∃ (out : Token) (f : Flags), exec (i e) s = .next (settle (firedTo s e img sl hs sl (some out) f)) ∧ out.cls = cls ∧
      out.mask = mask sl.word (tokenAt sl.word hs 0) (tokenAt sl.word hs 1) (tokenAt sl.word hs 2) ∧
      ∀ k, k < 16 → out.valid k = false → out.lane k = 0

variable {o : Opc} {cls : TokClass} {mask : OpWord → Token → Token → Token → BitVec 16}

/-- An operator of form C that keeps no state and writes no lane-file word completes, where what it makes of its word and tokens emits. -/
theorem completes_of_emits {fire : OpWord → Token → Token → Token → Fired} (hc : o.form = .c)
    (hd : ∀ (s : State) (img : Image) (sl : OpSlot) (a b c : Token), sl.word.opc = o →
      dataEffect s img sl a b c = { fired := fire sl.word a b c, slot := sl, lanes := [], vrec := none })
    (hf : ∀ w a b c, w.opc = o → EmitsAs cls (mask w a b c) (fire w a b c)) : CompletesAs o (fun e => o.instr e) cls mask := by
  intro s e img sl hs h hp hr
  obtain ⟨hst, hh, hn⟩ := h
  obtain ⟨out, f, hout, hcls, hmask, hz⟩ := hf sl.word (tokenAt sl.word hs 0) (tokenAt sl.word hs 1) (tokenAt sl.word hs 2) (stands_opc hst)
  refine ⟨out, f, ?_, hcls, hmask, hz⟩
  rw [exec_instr_formC hc, operatorFires, fireOp_data ⟨hst, hh, hn⟩ hp, hd _ _ _ _ _ _ (stands_opc hst), hout, applyEffect_emits hp hn hh hr,
    fired_goes (stands_jibFirst hst)]

/-! ## Operators whose lanes are computed apart -/

/-- The operators of one port that compute their lanes apart and give data (R143). -/
def unaryLaneOps : List Opc :=
  [.fabs, .fneg, .frcpi, .frsqi, .fexpr, .flogr, .fsinr, .fclass, .fround, .fmant, .fexpo, .lgenc, .cvtfi, .cvtif, .cvtfr, .cvtsat]

/-- Those of two ports. -/
def binaryLaneOps : List Opc :=
  [.fadd, .fsub, .fmul, .fmin, .fmax, .fcpsgn, .frcps, .frsqs, .fexpp, .flogp, .fsinp, .fscale, .lgmul, .bsfind]

/-- Those of three ports. -/
def ternaryLaneOps : List Opc := [.fma, .fms, .fnma, .fnms, .lgsum]

/-- Those of any number of ports. -/
def laneOps : List Opc := unaryLaneOps ++ binaryLaneOps ++ ternaryLaneOps

theorem dataEffect_laneOp (ho : o ∈ laneOps) (s : State) (img : Image) (sl : OpSlot) (a b c : Token) (h : sl.word.opc = o) :
    dataEffect s img sl a b c = { fired := fireLanes sl.word a b c, slot := sl, lanes := [], vrec := none } := by
  unfold dataEffect fireTokens
  rw [h]
  fin_cases ho <;> rfl

/-- A lane operator gives data, on the lanes valid at each of its ports. -/
theorem laneOp_result (ho : o ∈ laneOps) {w : OpWord} (h : w.opc = o) (a b c : Token) : resultClass w = .data ∧
    resultMask w a b c = a.mask &&& (if 2 ≤ portCount w then b.mask else 0xFFFF) &&& (if 3 ≤ portCount w then c.mask else 0xFFFF) := by
  unfold resultClass resultMask
  rw [h]
  fin_cases ho <;> exact ⟨rfl, rfl⟩

theorem portCount_unary {w : OpWord} (ho : o ∈ unaryLaneOps) (h : w.opc = o) : portCount w = 1 := by
  unfold portCount
  rw [h]
  fin_cases ho <;> rfl

theorem portCount_binary {w : OpWord} (ho : o ∈ binaryLaneOps) (h : w.opc = o) : portCount w = 2 := by
  unfold portCount
  rw [h]
  fin_cases ho <;> rfl

theorem portCount_ternary {w : OpWord} (ho : o ∈ ternaryLaneOps) (h : w.opc = o) : portCount w = 3 := by
  unfold portCount
  rw [h]
  fin_cases ho <;> rfl

theorem fireLanes_emits (w : OpWord) (a b c : Token) : EmitsAs (resultClass w) (resultMask w a b c) (fireLanes w a b c) :=
  emits_make (fun k => (laneFn w (a.lane k) (b.lane k) (c.lane k)).1) (resultMask w a b c) (resultClass w)
    (flagsOf (fun k => (laneFn w (a.lane k) (b.lane k) (c.lane k)).2) (resultMask w a b c))

/-- A lane operator completes, on the lanes valid at each of its ports. -/
theorem completes_laneOp (ho : o ∈ laneOps)
    (hm : ∀ (w : OpWord) (a b c : Token), w.opc = o →
      a.mask &&& (if 2 ≤ portCount w then b.mask else 0xFFFF) &&& (if 3 ≤ portCount w then c.mask else 0xFFFF) = mask w a b c) :
    CompletesAs o (fun e => o.instr e) .data mask := by
  refine completes_of_emits (by fin_cases ho <;> rfl) (dataEffect_laneOp ho) fun w a b c h => ?_
  obtain ⟨hc, hr⟩ := laneOp_result ho h a b c
  have hemit := fireLanes_emits w a b c
  rwa [hc, hr, hm w a b c h] at hemit

theorem completes_unary (ho : o ∈ unaryLaneOps) : CompletesAs o (fun e => o.instr e) .data fun _ a _ _ => a.mask :=
  completes_laneOp (by simp [laneOps, ho]) fun w a b c h => by simp [portCount_unary ho h, and_fullMask]

theorem completes_binary (ho : o ∈ binaryLaneOps) : CompletesAs o (fun e => o.instr e) .data fun _ a b _ => a.mask &&& b.mask :=
  completes_laneOp (by simp [laneOps, ho]) fun w a b c h => by simp [portCount_binary ho h, and_fullMask]

theorem completes_ternary (ho : o ∈ ternaryLaneOps) : CompletesAs o (fun e => o.instr e) .data fun _ a b c => a.mask &&& b.mask &&& c.mask :=
  completes_laneOp (by simp [laneOps, ho]) fun w a b c h => by simp [portCount_ternary ho h]

/-! ## Operators on whole tokens -/

/-- The operators that read or arrange whole tokens and always emit. -/
def tokenOps : List Opc := [.perm, .permi, .bcast, .lsum, .amaxr, .bshdr, .join, .const, .iota, .csumRow]

theorem dataEffect_tokenOp (ho : o ∈ tokenOps) (s : State) (img : Image) (sl : OpSlot) (a b c : Token) (h : sl.word.opc = o) :
    dataEffect s img sl a b c = { fired := fireTokens sl.word a b c, slot := sl, lanes := [], vrec := none } := by
  unfold dataEffect
  rw [h]
  fin_cases ho <;> rfl

/-- Such an operator completes as what it makes of its word and tokens. -/
theorem completes_tokenOp {fire : OpWord → Token → Token → Token → Fired} (ho : o ∈ tokenOps)
    (hw : ∀ w a b c, w.opc = o → fireTokens w a b c = fire w a b c) (hf : ∀ w a b c, EmitsAs cls (mask w a b c) (fire w a b c)) :
    CompletesAs o (fun e => o.instr e) cls mask :=
  completes_of_emits (by fin_cases ho <;> rfl) (dataEffect_tokenOp ho) fun w a b c h => hw w a b c h ▸ hf w a b c

theorem low4_toNat {n : Nat} (x : BitVec n) : (x.extractLsb' 0 4).toNat = x.toNat % 16 := by simp [BitVec.extractLsb'_toNat]

theorem completes_perm : CompletesAs .perm (fun e => Opc.perm.instr e) .data fun _ a b _ => maskOf fun k => a.valid ((b.lane k).toNat % 16) && b.valid k := by
  refine completes_tokenOp (by decide) (fun w a b c h => by simp only [fireTokens, h]; rfl) fun w a b c => ?_
  simp only [firePerm, low4_toNat]
  exact emits_make _ _ _ _

theorem completes_permi : CompletesAs .permi (fun e => Opc.permi.instr e) .data
    fun w a _ _ => maskOf fun k => a.valid (if w.mod.getLsbD 4 then (k + w.mod.toNat % 16) % 16 else Nat.xor k (w.mod.toNat % 16)) := by
  refine completes_tokenOp (by decide) (fun w a b c h => by simp only [fireTokens, h]; rfl) fun w a b c => ?_
  simp only [firePerm, low4_toNat, Bool.and_true]
  exact emits_make _ _ _ _

theorem completes_bcast : CompletesAs .bcast (fun e => Opc.bcast.instr e) .data
    fun _ a b _ => if a.valid ((b.lane 0).toNat % 16) && b.valid 0 then 0xFFFF else 0 := by
  refine completes_tokenOp (by decide) (fun w a b c h => by simp only [fireTokens, h]; rfl) fun w a b c => ?_
  simp only [firePerm, low4_toNat, maskOf_const]
  exact emits_make _ _ _ _

theorem completes_lsum : CompletesAs .lsum (fun e => Opc.lsum.instr e) .data fun w _ _ _ => if w.mod.getLsbD 0 then 0xFFFF else 1 :=
  completes_tokenOp (by decide) (fun w a b c h => by simp only [fireTokens, h, fireLsum]; rfl) fun w a b c => emits_make _ _ _ _

theorem completes_amaxr : CompletesAs .amaxr (fun e => Opc.amaxr.instr e) .data fun _ _ _ _ => 0xFFFF :=
  completes_tokenOp (by decide) (fun w a b c h => by simp only [fireTokens, h, fireAmaxr]; rfl) fun w a b c => emits_make _ _ _ _

theorem completes_bshdr : CompletesAs .bshdr (fun e => Opc.bshdr.instr e) .header fun _ _ _ _ => 3 :=
  completes_tokenOp (by decide) (fun w a b c h => by simp only [fireTokens, h, fireBshdr]; rfl) fun w a b c => ⟨_, _, rfl, rfl, rfl, ofHdr_zeroed _ _⟩

theorem completes_join : CompletesAs .join (fun e => Opc.join.instr e) .control fun _ _ _ _ => 0xFFFF :=
  completes_tokenOp (by decide) (fun w a b c h => by simp only [fireTokens, h]; rfl) fun w a b c => emits_make _ _ _ _

theorem completes_const : CompletesAs .const (fun e => Opc.const.instr e) .data fun _ a b _ => if b.valid 0 then a.mask else 0 :=
  completes_tokenOp (by decide) (fun w a b c h => by simp only [fireTokens, h]; rfl) fun w a b c => emits_make _ _ _ _

theorem completes_iota : CompletesAs .iota (fun e => Opc.iota.instr e) .data fun _ a _ _ => a.mask :=
  completes_tokenOp (by decide) (fun w a b c h => by simp only [fireTokens, h]; rfl) fun w a b c => emits_make _ _ _ _

theorem completes_csumRow : CompletesAs .csumRow (fun e => Opc.csumRow.instr e) .data fun _ _ _ _ => 1 :=
  completes_tokenOp (by decide) (fun w a b c h => by simp only [fireTokens, h, fireCsumRow]; rfl) fun w a b c => emits_make _ _ _ _

end Sys2Proof.Machine
end

section
/-! SUPPORT. Lane-file operators complete where each index that they use lies in the window or is wrapped (R161, R162). -/

namespace Sys2Proof.Machine

open Sys2Proof.Safety

theorem getLsbD_of_mem_lanesOf {m : BitVec 16} {k : Nat} (h : k ∈ lanesOf m) : m.getLsbD k = true := by
  simp only [lanesOf, List.mem_filter] at h
  exact h.2

/-- Words written at other places leave a lane-file word as it is. -/
theorem dget_writes_other {x : Nat} (ls : List (Nat × Lane)) (m : KMap Lane) (h : ∀ kv ∈ ls, x ≠ kv.1) :
    dget 0 (ls.foldl (fun m kv => dset 0 m kv.1 kv.2) m) x = dget 0 m x := by
  induction ls generalizing m with
  | nil => rfl
  | cons kv ls ih =>
    rw [List.foldl_cons, ih _ fun y hy => h y (List.mem_cons_of_mem _ hy), dget_dset_other 0 m kv.2 (h kv List.mem_cons_self)]

/-- An index inside the window, or one that is wrapped into it, names a word of the window (R162). -/
theorem windowWord_inside (base : Nat) {len : Nat} {wrap : Bool} {i : Int} (hlen : 0 < len) (h : wrap = false → 0 ≤ i ∧ i < len) :
    ∃ j, j < len ∧ windowWord base len wrap i = some (base + j) := by
  have hpos : (0 : Int) < len := by exact_mod_cast hlen
  by_cases hin : 0 ≤ i ∧ i < len
  · exact ⟨i.toNat, by omega, by simp [windowWord, hin]⟩
  · have hwrap : wrap = true := by
      by_contra hw
      exact hin (h (by simpa using hw))
    have hlow := Int.emod_nonneg i hpos.ne'
    have hhigh := Int.emod_lt_of_pos i hpos
    exact ⟨(i % len).toNat, by omega, by simp [windowWord, hin, hwrap, hlen]⟩

/-- The index that a lane-file operator uses at a lane: of every lane that of port b, or its own of port a (R161). -/
def laneFileIndex (w : OpWord) (a b : Token) (k : Nat) : Int :=
  if w.opc = .lfldi || w.opc = .lfsti then (b.lane 0).toInt else (a.lane k).toInt

/-- The lanes of a lane-file operator (R161). -/
def laneFileMask (w : OpWord) (a b : Token) : BitVec 16 :=
  if w.opc = .lfldi || w.opc = .lfsti then (if b.valid 0 then a.mask else 0) else if w.opc = .lfst then a.mask &&& b.mask else a.mask

/-- Each index that a lane-file operator uses lies in the window of its slot or is wrapped (R162). -/
def LaneFileInside (sl : OpSlot) (a b : Token) : Prop :=
  ∀ k, (laneFileMask sl.word a b).getLsbD k = true → 0 < (sl.lfw.getD (0, 0)).2 ∧
    (sl.word.mod.getLsbD 0 = false → 0 ≤ laneFileIndex sl.word a b k ∧ laneFileIndex sl.word a b k < (sl.lfw.getD (0, 0)).2)

/-- The number of the word that a lane-file operator uses at a lane (R112, R162). -/
def laneFileKey (img : Image) (sl : OpSlot) (c : OpCopy) (a b : Token) (k : Nat) : Nat :=
  laneKey img.die c.tile c.elem k ((windowWord (sl.lfw.getD (0, 0)).1 (sl.lfw.getD (0, 0)).2 (sl.word.mod.getLsbD 0) (laneFileIndex sl.word a b k)).getD 0)

/-- The words that a lane-file operator writes. -/
def laneFileWrites (img : Image) (sl : OpSlot) (c : OpCopy) (a b : Token) : List (Nat × Lane) :=
  if sl.word.opc = .lfst || sl.word.opc = .lfsti then
    (lanesOf (laneFileMask sl.word a b)).map fun k => (laneFileKey img sl c a b k, if sl.word.opc = .lfst then b.lane k else a.lane k)
  else []

variable {s : State} {img : Image} {sl : OpSlot} {c : OpCopy} {a b : Token}

theorem windowWord_of_inside (h : LaneFileInside sl a b) {k : Nat} (hk : (laneFileMask sl.word a b).getLsbD k = true) :
    ∃ j, j < (sl.lfw.getD (0, 0)).2 ∧
      windowWord (sl.lfw.getD (0, 0)).1 (sl.lfw.getD (0, 0)).2 (sl.word.mod.getLsbD 0) (laneFileIndex sl.word a b k) = some ((sl.lfw.getD (0, 0)).1 + j) := by
  obtain ⟨hlen, hidx⟩ := h k hk
  exact windowWord_inside _ hlen hidx

/-- Where its indices lie inside, a lane-file operator emits the words of its lanes, and writes its words. -/
theorem laneFileEffect_inside (h : LaneFileInside sl a b) : laneFileEffect s img sl c a b =
    { fired := Fired.emits (Token.make (fun k => dget 0 s.lanes (laneFileKey img sl c a b k)) (laneFileMask sl.word a b) .data) Flags.none
      slot := sl, lanes := laneFileWrites img sl c a b, vrec := none } := by
  have hbad : (maskOf fun k => (laneFileMask sl.word a b).getLsbD k &&
      (windowWord (sl.lfw.getD (0, 0)).1 (sl.lfw.getD (0, 0)).2 (sl.word.mod.getLsbD 0) (laneFileIndex sl.word a b k)).isNone) = 0 := by
    refine maskOf_eq_zero fun k _ => ?_
    by_cases hk : (laneFileMask sl.word a b).getLsbD k = true
    · obtain ⟨j, _, hj⟩ := windowWord_of_inside h hk
      rw [hj, Option.isNone_some, Bool.and_false]
    · simp [hk]
  exact if_neg (not_not.mpr hbad)

/-- A load writes no lane-file word. -/
theorem laneFileWrites_load (h : ¬ (sl.word.opc = .lfst ∨ sl.word.opc = .lfsti)) : laneFileWrites img sl c a b = [] := by
  simp [laneFileWrites, h]

/-- A store writes words of its window only. -/
theorem laneFileWrites_window (h : LaneFileInside sl a b) {kv : Nat × Lane} (hm : kv ∈ laneFileWrites img sl c a b) :
    ∃ k i, (laneFileMask sl.word a b).getLsbD k = true ∧ i < (sl.lfw.getD (0, 0)).2 ∧
      kv.1 = laneKey img.die c.tile c.elem k ((sl.lfw.getD (0, 0)).1 + i) := by
  unfold laneFileWrites at hm
  split at hm
  case isFalse => simp at hm
  case isTrue =>
    obtain ⟨k, hk, rfl⟩ := List.mem_map.mp hm
    have hbit := getLsbD_of_mem_lanesOf hk
    obtain ⟨j, hj, hw⟩ := windowWord_of_inside h hbit
    exact ⟨k, j, hbit, hj, by simp only [laneFileKey, hw, Option.getD_some]⟩

/-- The copy of an operator that takes its turn. -/
def OpSlot.copyAtTurn (sl : OpSlot) : OpCopy :=
  (sl.copies[sl.turn]?).getD { tile := 0, elem := 0, hdr := Hdr.initial, acc := Vector.replicate 16 0, cnt := 0 }

theorem dataEffect_laneFile (ho : sl.word.opc ∈ [Opc.lfld, .lfldi, .lfst, .lfsti]) (c : Token) :
    dataEffect s img sl a b c = laneFileEffect s img sl sl.copyAtTurn a b := by
  unfold dataEffect
  generalize hw : sl.word.opc = o at ho
  fin_cases ho <;> rfl

/-- A lane-file operator whose indices lie inside completes: it emits data on its lanes, a load writes no word, and a store words of its window only. -/
theorem completes_laneFile {o : Opc} {e : Site} {hs : List (Nat × Token × Tag)} (ho : o ∈ [Opc.lfld, .lfldi, .lfst, .lfsti])
    (h : Ready s o e img sl hs) (hp : Plain hs) (hr : img.hasRoom e allTargets = true) (ha : a = tokenAt sl.word hs 0) (hb : b = tokenAt sl.word hs 1)
    (hin : LaneFileInside sl a b) :
    ∃ (out : Token) (lanes : KMap Lane),
      exec (o.instr e) s = .next (settle { firedTo s e img sl hs sl (some out) Flags.none with lanes := lanes }) ∧
      out.cls = .data ∧ out.mask = laneFileMask sl.word a b ∧ (¬ (o = .lfst ∨ o = .lfsti) → lanes = s.lanes) ∧
      ∀ x, (∀ k i, (laneFileMask sl.word a b).getLsbD k = true → i < (sl.lfw.getD (0, 0)).2 →
        x ≠ laneKey img.die sl.copyAtTurn.tile sl.copyAtTurn.elem k ((sl.lfw.getD (0, 0)).1 + i)) → dget 0 lanes x = dget 0 s.lanes x := by
  obtain ⟨hst, hh, hn⟩ := h
  have hopc := stands_opc hst
  refine ⟨Token.make (fun k => dget 0 s.lanes (laneFileKey img sl sl.copyAtTurn a b k)) (laneFileMask sl.word a b) .data,
    (laneFileWrites img sl sl.copyAtTurn a b).foldl (fun m kv => dset 0 m kv.1 kv.2) s.lanes, ?_, rfl, rfl, ?_, ?_⟩
  · rw [exec_instr_formC (by fin_cases ho <;> rfl), operatorFires, fireOp_data ⟨hst, hh, hn⟩ hp, ← ha, ← hb, dataEffect_laneFile (hopc ▸ ho),
      laneFileEffect_inside hin, applyEffect_emitting hh hr, deals_data hp hn, fired_goes (stands_jibFirst hst)]
    rfl
  · intro hload
    rw [laneFileWrites_load (hopc.symm ▸ hload)]
    rfl
  · intro x hx
    refine dget_writes_other _ _ fun kv hkv hxe => ?_
    obtain ⟨k, i, hk, hi, hkey⟩ := laneFileWrites_window hin hkv
    exact hx k i hk hi (hxe.trans hkey)

end Sys2Proof.Machine
end

section
/-! SUPPORT. The commit of an `Inst` (R31, R32, R78, R178). -/

namespace Sys2Proof.Machine

open Sys2Proof.Safety

variable {s : State} {n : Nat} {it : Inst} {w : WorkUnit}

/-- When an `Inst` may commit: it has ended, and neither an earlier one of its block nor one of its thread holds it back (R31, R32). -/
theorem instEnds_iff : instEnds s it w = true ↔
    (it.ended = true ∨ (w.life = .bound ∧ w.cancelled = false ∧ instDone s it = true)) ∧ orderHeld s it = false ∧
      ∀ img, instImage s it = some img → commitHeld s it img w = false := by
  cases h : instImage s it <;> simp [instEnds, h, and_assoc]

theorem blockCommit_stays (hit : kget s.insts n = some it) (hw : kget s.units it.unit = some w) (h : ¬ (instEnds s it w = true ∧ it.fault = none)) :
    blockCommit s n = s := by
  have hcond : (!instEnds s it w || it.fault.isSome) = true := by
    by_cases he : instEnds s it w = true
    · simpa [he, Option.isSome_iff_ne_none] using h
    · simp [he]
  simp [blockCommit, hit, hw, hcond]

theorem blockCommit_commits (hit : kget s.insts n = some it) (hw : kget s.units it.unit = some w) (he : instEnds s it w = true) (hf : it.fault = none) :
    blockCommit s n = commitInst s n it w := by
  simp [blockCommit, hit, hw, he, hf]

/-- A run of deferred effects, one after another, gives the last state (R78). -/
theorem applyAll_run {u : UnitId} (ds : List Deferred) (ts : Nat → State)
    (h : ∀ i d, ds[i]? = some d → applyDeferred u w (ts i) d = .ok (ts (i + 1))) : applyAll u w ds (ts 0) = .ok (ts ds.length) := by
  induction ds generalizing ts with
  | nil => rfl
  | cons d ds ih =>
    have hd : applyDeferred u w (ts 0) d = .ok (ts 1) := h 0 d rfl
    have hds := ih (fun i => ts (i + 1)) fun i d hi => h (i + 1) d hi
    simp only [applyAll, hd, Got.bind]
    exact hds

/-- A commit none of whose stores waits performs the deferred effects in their order, and the `Inst` is gone. -/
theorem commitInst_run (hd : ∀ d ∈ it.deferred, deferredHeld s n d = false) (ts : Nat → State) (h0 : ts 0 = { s with insts := kdel s.insts n })
    (h : ∀ i d, it.deferred[i]? = some d → applyDeferred it.unit w (ts i) d = .ok (ts (i + 1))) : commitInst s n it w = ts it.deferred.length := by
  have hany : it.deferred.any (deferredHeld s n) = false := by simpa using hd
  simp [commitInst, hany, ← h0, applyAll_run it.deferred ts h]

/-- A deferred store that fills no caddy granule writes its bytes. -/
theorem applyDeferred_store {u : UnitId} {t : State} (va : Nat) {p : Phys} (bs : List Byte) {fill : Bool} (h : fill = false ∨ caddyOf p = none) :
    applyDeferred u w t (.store va p bs fill) = .ok (markExternal (writePhys t p bs) w.job p) := by
  rcases h with h | h <;> simp [applyDeferred, h]

/-- A deferred store with `.fill` to a caddy fills the granules that it writes to (R175). -/
theorem applyDeferred_fill {u : UnitId} {t : State} (va : Nat) {p : Phys} (bs : List Byte) {a : Nat} (h : caddyOf p = some a) :
    applyDeferred u w t (.store va p bs true) =
      .ok ((List.range ((a % 16 + bs.length + 15) / 16)).foldl (fun t i => setFull t (a + 16 * i) true) (markExternal (writePhys t p bs) w.job p)) := by
  simp [applyDeferred, h]

/-- An aperture store whose context no longer holds the channel starts nothing (R178). -/
theorem applyDeferred_lost {u : UnitId} {t : State} (va die ch tmpl : Nat) (ds dd : Int) (h : (chanOf t die ch).holder ≠ some w.asid) :
    applyDeferred u w t (.copy va die ch tmpl ds dd) = .ok t := if_pos h

/-- An aperture store whose context holds the channel starts its copy (R178). -/
theorem applyDeferred_copy {u : UnitId} {t t1 : State} {code : Nat} (va die ch tmpl : Nat) (ds dd : Int) (h : (chanOf t die ch).holder = some w.asid)
    (hs : startCopy t (fabricOp u w die) ch tmpl ds dd false = .ok (t1, code)) : applyDeferred u w t (.copy va die ch tmpl ds dd) = .ok t1 := by
  have hcopy : applyDeferred u w t (.copy va die ch tmpl ds dd) = (startCopy t (fabricOp u w die) ch tmpl ds dd false).map fun r => r.1 :=
    if_neg (not_not.mpr h)
  rw [hcopy, hs]
  rfl

end Sys2Proof.Machine
end

section
/-! SUPPORT. A `monwait` ends at its timeout (R180). -/

namespace Sys2Proof.Machine

open Sys2Proof.Safety

variable {s : State} {n op : Nat} {it : Inst} {img : Image} {u : UnitId} {w : WorkUnit} {x : MemFire} {sl : OpSlot}

theorem issuedFire_spec (h : issuedFire s n op = some (it, img, u, w, x, sl)) :
    kget s.insts n = some it ∧ x ∈ it.waiting ∧ x.op = op ∧ x.issued.isSome = true := by
  unfold issuedFire at h
  simp only [Option.bind_eq_some_iff] at h
  obtain ⟨it', hit, img', himg, w', hw, h⟩ := h
  split at h
  case isFalse => simp at h
  case isTrue =>
    simp only [Option.bind_eq_some_iff, Option.map_eq_some_iff, Prod.mk.injEq] at h
    obtain ⟨y, hy, sl', _, rfl, _, _, _, rfl, _⟩ := h
    have hm := List.mem_of_find?_eq_some hy
    simp only [Inst.outstanding, List.mem_filter] at hm
    exact ⟨hit, hm.1, by simpa using List.find?_some hy, hm.2⟩

theorem nextFire_spec (h : nextFire s n = some (it, img, u, w, x, sl)) : kget s.insts n = some it ∧ x ∈ it.waiting ∧ x.issued = none := by
  unfold nextFire at h
  simp only [Option.bind_eq_some_iff] at h
  obtain ⟨it', hit, img', himg, w', hw, h⟩ := h
  split at h
  case isFalse => simp at h
  case isTrue =>
    simp only [Option.map_eq_some_iff, Prod.mk.injEq] at h
    obtain ⟨⟨y, sl'⟩, hy, rfl, _, _, _, rfl, _⟩ := h
    unfold nextInChain at hy
    split at hy
    · simp at hy
    · obtain ⟨z, hz, hzy⟩ := List.exists_of_findSome?_eq_some hy
      simp only [Option.bind_eq_some_iff] at hzy
      obtain ⟨sl'', _, hzy⟩ := hzy
      split at hzy
      case isFalse => simp at hzy
      case isTrue hc =>
        simp only [Option.some.injEq, Prod.mk.injEq] at hzy
        obtain ⟨rfl, rfl⟩ := hzy
        simp at hc
        exact ⟨hit, hz, hc.1⟩

/-- An operation that `fireNow` finds in an `Inst` is one of those that wait there. -/
theorem fireNow_spec (h : fireNow s n op = some (it, img, u, w, x, sl)) : kget s.insts n = some it ∧ x ∈ it.waiting ∧ x.op = op := by
  unfold fireNow at h
  split at h
  case h_1 f hf =>
    split at h
    case isTrue hop =>
      cases h
      obtain ⟨hit, hx, _⟩ := nextFire_spec hf
      exact ⟨hit, hx, hop⟩
    case isFalse =>
      obtain ⟨hit, hx, hop, _⟩ := issuedFire_spec h
      exact ⟨hit, hx, hop⟩
  case h_2 =>
    obtain ⟨hit, hx, hop, _⟩ := issuedFire_spec h
    exact ⟨hit, hx, hop⟩

/-- Where no operation with some number that waits in an `Inst` has started: there is no `monwait` to end. -/
theorem monExpire_unstarted (h : ∀ it y, kget s.insts n = some it → y ∈ it.waiting → y.op = op → y.started = none) : monExpire n s op = s := by
  unfold monExpire
  split
  case h_1 => rfl
  case h_2 it img u w y sl hf =>
    obtain ⟨hit, hy, hop⟩ := fireNow_spec hf
    rw [h it y hit hy hop]
    split
    case h_1 => contradiction
    case h_2 => rfl

/-- The token with which a `monwait` ends at its timeout: the write that satisfied it, if one came, or what its thread reads now (R180). -/
def timeoutToken (s : State) (n : Nat) (img : Image) (x : MemFire) (w : OpWord) (p : Phys) (sz : Nat) : Token :=
  match (kget s.watches (2 * x.op + 1)).bind fun h => h.hit with
  | some v => monToken v false
  | none =>
    let v := wordOf (readOwn s n x img.die p sz)
    monToken v !(condHolds (w.mod.extractLsb' 0 3) 40 v ((x.b.lane 0).setWidth 64))

/-- A `monwait` whose timeout has come, at a readable place that nothing holds back, ends. -/
theorem monExpire_expires {t0 : Word} {p : Phys} (hf : fireNow s n op = some (it, img, u, w, x, sl)) (ho : sl.word.opc = .monwait) (hfault : x.fault = none)
    (hpoison : x.poisoned = false) (hstart : x.started = some t0) (hv : x.b.valid 1 = true) (ht : (x.b.lane 1).toInt ≤ ((s.tb - t0).toNat : Int))
    (hp : checkLane s w (addrOf x (x.a.lane 0)) (if sl.word.ty = 13 then 4 else 8) .read = .ok p) (hc : Clear s p (if sl.word.ty = 13 then 4 else 8)) :
    monExpire n s op = chainDone s n it x sl.word (timeoutToken s n img x sl.word p (if sl.word.ty = 13 then 4 else 8)) := by
  obtain ⟨hwin, htier⟩ := hc
  have hearly : (!x.b.valid 1 || decide (((s.tb - t0).toNat : Int) < (x.b.lane 1).toInt)) = false := by
    rw [hv, decide_eq_false (not_lt.mpr ht)]
    rfl
  unfold monExpire
  rw [hf]
  simp only [ho, hstart, hfault, hearly, hp, hpoison, hwin, htier, Bool.or_self, Bool.false_eq_true, if_false]
  rfl

/-- A fold all of whose elements but one change nothing, before and after, is that one's change. -/
theorem foldl_once {α β : Type} {f : α → β → α} {s t : α} {b : β} {bs : List β} (hb : b ∈ bs) (hf : f s b = t) (hbefore : ∀ c, c ≠ b → f s c = s)
    (hafter : ∀ c, f t c = t) : bs.foldl f s = t := by
  have hrest (cs : List β) : cs.foldl f t = t := by
    induction cs with
    | nil => rfl
    | cons c cs ih => rw [List.foldl_cons, hafter c, ih]
  induction bs with
  | nil => simp at hb
  | cons c bs ih =>
    rw [List.foldl_cons]
    by_cases hcb : c = b
    · rw [hcb, hf, hrest]
    · rw [hbefore c hcb]
      exact ih ((List.mem_cons.mp hb).resolve_left (Ne.symm hcb))

/-- What waits in an `Inst` after one operation of it has ended. -/
theorem waiting_chainDone {o : OpWord} {t : Token} (hit : kget s.insts n = some it) {it1 : Inst} (h : kget (chainDone s n it x o t).insts n = some it1) :
    it1.waiting = it.waiting.filter fun y => y.op ≠ x.op := by
  simp only [chainDone, kget_kmod_same, hit, Option.map_some, Option.some.injEq] at h
  rw [← h]

/-- MONWAIT_TIMEOUT of an `Inst` with one `monwait` whose timeout has come, alone behind its chain, ends it and changes nothing else. -/
theorem monTimeout_ends {t0 : Word} {p : Phys} (hf : issuedFire s n x.op = some (it, img, u, w, x, sl))
    (halone : ∀ y ∈ it.waiting, y ≠ x → y.op ≠ x.op ∧ y.started = none) (ho : sl.word.opc = .monwait) (hfault : x.fault = none)
    (hpoison : x.poisoned = false) (hstart : x.started = some t0) (hv : x.b.valid 1 = true) (ht : (x.b.lane 1).toInt ≤ ((s.tb - t0).toNat : Int))
    (hp : checkLane s w (addrOf x (x.a.lane 0)) (if sl.word.ty = 13 then 4 else 8) .read = .ok p) (hc : Clear s p (if sl.word.ty = 13 then 4 else 8)) :
    monTimeout s n = chainDone s n it x sl.word (timeoutToken s n img x sl.word p (if sl.word.ty = 13 then 4 else 8)) := by
  obtain ⟨hit, hx, _, hissued⟩ := issuedFire_spec hf
  have hnow : fireNow s n x.op = some (it, img, u, w, x, sl) := by
    unfold fireNow
    split
    case h_2 => exact hf
    case h_1 f hfire =>
      obtain ⟨it', img', u', w', y, sl'⟩ := f
      obtain ⟨hit', hy, hnot⟩ := nextFire_spec hfire
      obtain rfl : it' = it := by simpa [hit] using hit'.symm
      have hyx : y ≠ x := by
        rintro rfl
        simp [hnot] at hissued
      rw [if_neg (halone y hy hyx).1, hf]
  have hops : instOps s n = it.waiting.map fun y => y.op := by simp [instOps, hit]
  unfold monTimeout
  refine foldl_once (b := x.op) (by rw [hops]; exact List.mem_map_of_mem hx) (monExpire_expires hnow ho hfault hpoison hstart hv ht hp hc) ?_ ?_
  · intro c hcx
    refine monExpire_unstarted fun it' y hit' hy hop => ?_
    obtain rfl : it' = it := by simpa [hit] using hit'.symm
    exact (halone y hy fun h => hcx (by rw [← hop, h])).2
  · intro c
    refine monExpire_unstarted fun it' y hit' hy _ => ?_
    rw [waiting_chainDone hit hit', List.mem_filter] at hy
    exact (halone y hy.1 fun h => by simp [h] at hy).2

/-- The token of a `monwait` at its timeout, as O36 states it. -/
theorem timeoutToken_eq (s : State) (n : Nat) (img : Image) (x : MemFire) (w : OpWord) (p : Phys) (sz : Nat) :
    let hit : Option Word := (kget s.watches (2 * x.op + 1)).bind fun h => h.hit
    let v : Word := hit.getD (wordOf (readOwn s n x img.die p sz))
    let met : Bool := condHolds (w.mod.extractLsb' 0 3) 40 v ((x.b.lane 0).setWidth 64)
    timeoutToken s n img x w p sz = Token.make (fun i => if i = 0 then v.setWidth 40 else if hit.isSome ∨ met = true then 0 else 1) 3 .data := by
  intro hit v met
  unfold timeoutToken
  split
  case h_1 v0 hv0 =>
    have hhit : hit = some v0 := hv0
    simp [monToken, v, hhit]
  case h_2 hv0 =>
    have hhit : hit = none := hv0
    have hval : v = wordOf (readOwn s n x img.die p sz) := by simp [v, hhit]
    rw [← hval]
    show monToken v (!met) = _
    clear_value v met
    cases met <;> simp [monToken, hhit]

end Sys2Proof.Machine
end

section
/-! SUPPORT. How units end, are asked to leave, are saved and restored (R39 to R41, R310 to R317, R331, R332). -/

namespace Sys2Proof.Machine

open Sys2Proof.Safety

/-- A meaning that is done in a state ends in it. -/
theorem ends_of_done {i : Instr} {s t1 t : State} (h : exec i s = done t1) (ht : t1 = t) : Ends i s t := ht ▸ h

variable {s : State} {u : UnitId} {w : WorkUnit}

/-! ## The end of a unit (R39 to R41, R331) -/

/-- A unit that no cancel has reached ends where R39 holds. -/
theorem unitComplete_done (hw : kget s.units u = some w) (hc : w.cancelled = false) (hd : unitDone s u w = true) :
    unitComplete s u = endUnit s u w := by
  simp [unitComplete, hw, hc, hd]

/-- A cancelled unit ends where its operations are done and no `Inst` of it is left. -/
theorem unitComplete_cancelled (hw : kget s.units u = some w) (hc : w.cancelled = true) (ho : opsDone s u = true)
    (hn : ∀ n ∈ s.insts, n.2.unit ≠ u) : unitComplete s u = endUnit s u w := by
  have hany : (s.insts.any fun n => decide (n.2.unit = u)) = false := by simpa using hn
  simp [unitComplete, hw, hc, cancelDone, ho, hany]

/-- A faulted unit of which nothing can go on ends as by a cancel (R331). -/
theorem faultedUnitEnd_ends (hw : kget s.units u = some w) (hf : w.faulted = true) (hc : w.cancelled = false) (hl : w.life = .bound)
    (hs : w.seq = .run → w.held ≠ none) (ho : ∀ o ∈ s.ops, o.2.unit = some u → opRuns s o.1 o.2 = false) (hi : instsStuck s u = true)
    (hx : ∀ x ∈ s.images, x.2.unit = u → imageFires s x.1 x.2 = false) : faultedUnitEnd s u = unitComplete (cancelUnit s u) u := by
  have hheld (h : w.seq = .run) : w.held.isSome = true := Option.isSome_iff_ne_none.mpr (hs h)
  have hops : (s.ops.any fun o => decide (o.2.unit = some u) && opRuns s o.1 o.2) = false := by
    simp only [List.any_eq_false, Bool.and_eq_true, decide_eq_true_eq, not_and, Bool.not_eq_true]
    exact ho
  have himgs : (s.images.any fun x => decide (x.2.unit = u) && imageFires s x.1 x.2) = false := by
    simp only [List.any_eq_false, Bool.and_eq_true, decide_eq_true_eq, not_and, Bool.not_eq_true]
    exact hx
  cases hq : w.seq with
  | run => simp [faultedUnitEnd, hw, hf, hc, hl, hq, hheld hq, hops, hi, himgs]
  | _ => simp [faultedUnitEnd, hw, hf, hc, hl, hq, hops, hi, himgs]

/-! ## The re-walk of a withheld access (R332) -/

/-- The walk of a sequencer's withheld access that succeeds lets it go on. -/
theorem seqRewalk_walks {h : SeqFault} {p : Phys} (hw : kget s.units u = some w) (hh : w.held = some h) (hl : w.life = .bound) (hc : w.cancelled = false)
    (ht : 10000 ≤ (s.tb - h.at_).toNat) (hp : translate s w.asid h.va h.acc = .ok p) : seqRewalk s u = putUnit s u { w with held := none } := by
  have hlate : ¬ (s.tb - h.at_).toNat < 10000 := Nat.not_lt.mpr ht
  unfold seqRewalk
  simp only [hw, hh, hp]
  exact if_neg (by simp only [hl, hc, hlate]; decide)

/-! ## The request to leave (R310, R311, R342) -/

theorem preemptRequest_raises {d : Nat} (hw : kget s.units u = some w) (hl : w.life = .bound) (hc : w.cancelled = false) (hj : w.tp.plane ≠ 4)
    (hr : w.req = false) (h0 : 0 < d) (hd : d ≤ 2 ^ 24) (ho : outranked s w = true) (hn : unitDone s u w = false) :
    preemptRequest s u d = putUnit s u { w with req := true, deadline := s.tb + BitVec.ofNat 64 d } := by
  have hpos : d ≠ 0 := by omega
  have hmax : ¬ 16777216 < d := by omega
  simp [preemptRequest, raiseReq, hw, hl, hc, hj, hr, hpos, hmax, ho, hn]

theorem preemptRequest_withdraws (hw : kget s.units u = some w) (hl : w.life = .bound) (hr : w.req = true) (hb : w.forBoundary = false) :
    preemptRequest s u 0 = putUnit s u { w with req := false, deadline := 0 } := by
  simp [preemptRequest, withdrawReq, hw, hl, hr, hb]

theorem preemptDeadline_saves (hw : kget s.units u = some w) (hl : w.life = .bound) (hc : w.cancelled = false) (hr : w.req = true)
    (he : earlier s.tb w.deadline = false) (hn : unitDone s u w = false) (hy : ¬ (s.tb = w.deadline ∧ yieldsNext s u w = true)) :
    preemptDeadline s u = beginSave s u w 2 := by
  have hyield : (decide (s.tb = w.deadline) && yieldsNext s u w) = false := by simpa using hy
  simp [preemptDeadline, hw, hl, hc, hr, he, hn, hyield]

/-! ## The save (R312, R316) -/

/-- A save whose record is kept, at a boundary or for a jib move, unloads the unit. -/
theorem saveComplete_kept {r : Nat} {start : Word} (hw : kget s.units u = some w) (hl : w.life = .saving r start) (h : w.forBoundary = true ∨ r = 3) :
    saveComplete s u = unloadUnit s u w (captureUnit s u w r start) r 0 := by
  simp [saveComplete, hw, hl, h]

/-- Any other save writes the record to its place in the save area, and NUNIT rises. -/
theorem saveComplete_written {r : Nat} {start : Word} {j : Job} {off : Nat} {s1 : State} (hw : kget s.units u = some w) (hl : w.life = .saving r start)
    (hb : w.forBoundary = false) (hr : r ≠ 3) (hj : kget s.jobs w.job = some j)
    (hp : recordPlace s w.job j (captureUnit s u w r start).bytes.length = some off)
    (ht : tierWaits s j.asid (j.savea + off) (captureUnit s u w r start).bytes.length = false)
    (hs : storeExempt s j.asid (j.savea + off) (captureUnit s u w r start).bytes = .ok s1) :
    saveComplete s u = setNunit (unloadUnit s1 u w (captureUnit s u w r start) r (j.savea + off)) w.job (j.nunit + 1) := by
  simp [saveComplete, hw, hl, hb, hr, hj, hp, ht, hs]

/-! ## The restore (R314) -/

/-- A restore that the tile-plane takes. -/
theorem unitRestore_ok {sv : SavedUnit} {r rec : Nat} {tp : Tp} {s1 : State} (hw : kget s.units u = some w) (hv : kget s.saves u = some sv)
    (hl : w.life = .saved r rec) (hm : mayRestore s w tp = true) (h : restoreAt s u w sv rec tp = .ok s1) : unitRestore s u tp = s1 := by
  simp [unitRestore, restoreFirst, hw, hv, hl, hm, h]

end Sys2Proof.Machine
end

section
/-! SUPPORT. What a restore at a boundary leaves (R314, R353), and the re-walks of `Inst`s, operations and chains (R191, R332). -/

namespace Sys2Proof.Machine

open Sys2Proof.Safety

variable {s t : State} {u : UnitId} {w : WorkUnit}

/-! ## Acknowledgements that are placed change images and journals only (R187) -/

/-- `t` is `s` but for its images and its journals. -/
def AcksPlaced (s t : State) : Prop := ∃ images journals, t = { s with images := images, journals := journals }

theorem acksPlaced_refl (s : State) : AcksPlaced s s := ⟨s.images, s.journals, rfl⟩

theorem acksPlaced_placeAck {r : State × List JAck} (a : JAck) (h : AcksPlaced s r.1) : AcksPlaced s (placeAck r a).1 := by
  obtain ⟨images, journals, he⟩ := h
  unfold placeAck
  split
  next t kept =>
    simp only at he
    subst he
    split
    · exact ⟨_, _, rfl⟩
    · split
      · split <;> exact ⟨_, _, rfl⟩
      · exact ⟨_, _, rfl⟩

theorem acksPlaced_settleAcks (die j : Nat) (h : AcksPlaced s t) : AcksPlaced s (settleAcks t die j) := by
  have hfold : AcksPlaced s ((journalOf t die j).acks.foldl placeAck (t, [])).1 :=
    List.foldlRecOn (motive := fun r : State × List JAck => AcksPlaced s r.1) _ _ h fun r hr a _ => acksPlaced_placeAck a hr
  obtain ⟨images, journals, he⟩ := hfold
  exact ⟨_, _, by rw [settleAcks, putJournal, he]⟩

theorem acksPlaced_settleAllAcks (s : State) : AcksPlaced s (settleAllAcks s) :=
  List.foldlRecOn (motive := AcksPlaced s) _ _ (acksPlaced_refl s) fun t ht j _ => by
    split
    · exact ht
    · exact acksPlaced_settleAcks _ _ ht

@[simp] theorem settleAllAcks_saves (s : State) : (settleAllAcks s).saves = s.saves := by
  obtain ⟨_, _, h⟩ := acksPlaced_settleAllAcks s
  rw [h]

@[simp] theorem settleAllAcks_units (s : State) : (settleAllAcks s).units = s.units := by
  obtain ⟨_, _, h⟩ := acksPlaced_settleAllAcks s
  rw [h]

@[simp] theorem settleAllAcks_slots (s : State) : (settleAllAcks s).slots = s.slots := by
  obtain ⟨_, _, h⟩ := acksPlaced_settleAllAcks s
  rw [h]

@[simp] theorem settleAllAcks_mem (s : State) : (settleAllAcks s).mem = s.mem := by
  obtain ⟨_, _, h⟩ := acksPlaced_settleAllAcks s
  rw [h]

/-! ## The restore at a boundary -/

/-- The registers of the unit's own tile-plane come with it, and nothing else changes. -/
theorem restoreOwn_eq (s : State) (sv : SavedUnit) (tp : Tp) : restoreOwn s sv tp = { s with tps := (restoreOwn s sv tp).tps } := by
  unfold restoreOwn
  split <;> rfl

/-- A unit without images and streams whose record is kept, at a boundary, comes back from it: it is bound to its slot with the sequencer of its record,
the record is gone, and memory stays. -/
theorem restoreAt_boundary {sv : SavedUnit} {rec : Nat} {tp : Tp} {toks : List (Nat × Nat × Token)} (hb : w.forBoundary = true) (hi : sv.images = [])
    (hst : sv.streams = []) (ht : readTokens sv.bytes = some toks) :
    ∃ t, restoreAt s u w sv rec tp = .ok t ∧ t.saves = kdel s.saves u ∧ t.units = kput s.units u (w.fromRecord sv.bytes sv.bytes tp) ∧
      t.slots = dset Slot.initial s.slots tp.key { dget Slot.initial s.slots tp.key with bound := true, entry := sv.entry, unit := some u } ∧
      t.mem = s.mem := by
  unfold restoreAt
  simp only [hb, hi, hst, ht, Bool.true_or, if_true, ne_eq, not_true, decide_false, Bool.false_and, Bool.false_eq_true, if_false, restoreImages,
    List.foldl_nil]
  refine ⟨_, rfl, ?_⟩
  simp only [settleAllAcks_saves, settleAllAcks_units, settleAllAcks_slots, settleAllAcks_mem]
  rw [restoreOwn_eq]
  exact ⟨rfl, rfl, rfl, rfl⟩

/-! ## Re-walks (R191, R332) -/

variable {n : Nat}

/-- The re-walk of an `Inst` whose commit no fault withholds replays its withheld operations. -/
theorem waveRewalk_fires {it : Inst} (hit : kget s.insts n = some it) (hf : it.fault = none) :
    waveRewalk s n = (instOps s n).foldl (replayFire n) s := by
  simp [waveRewalk, hit, hf, fireRewalk]

/-- The re-walk of an `Inst`'s withheld commit that succeeds commits it. -/
theorem waveRewalk_commits {it : Inst} {c : BitVec 16} {va at_ : Word} (hit : kget s.insts n = some it) (hw : kget s.units it.unit = some w)
    (hf : it.fault = some (c, va, at_)) (hr : rewalk s w.asid (c, va, at_, .write) = .walks) : waveRewalk s n = commitInst s n it w := by
  simp [waveRewalk, hit, hw, hf, hr]

/-- The re-walk of a withheld operation issues it again, 10 µs after its last walk. -/
theorem replayFire_issues {op : Nat} {it : Inst} {img : Image} {v : UnitId} {x : MemFire} {sl : OpSlot} {c : BitVec 16} {va at_ : Word}
    (hn : fireNow s n op = some (it, img, v, w, x, sl)) (hf : x.fault = some (c, va, at_)) (hc : c = cXlatMiss ∨ c = cXlatProt)
    (ht : 10000 ≤ (s.tb - at_).toNat) : replayFire n s op = issueFire s n it img v w x sl := by
  unfold replayFire
  simp only [hn, hf]
  exact if_pos ⟨hc, ht⟩

/-- An operation that has no completion object to write is left alone. -/
theorem writeObject_none {o : EngOp} (ho : kget s.ops n = some o) (hb : ∀ va bs num, o.body ≠ .object va bs num) : writeObject s n = s := by
  rw [writeObject, ho]
  dsimp only
  split
  case h_1 va bs num h => exact absurd h (hb va bs num)
  case h_2 => rfl

/-- The re-walk of an engine operation's access that succeeds lets it go on. -/
theorem opRewalk_walks {o : EngOp} {f : BitVec 16 × Word × Word × Access} (ho : kget s.ops n = some o) (hf : o.fault = some f)
    (hb : ∀ va bs num, o.body ≠ .object va bs num) (hr : rewalk s o.asid f = .walks) : opRewalk s n = modOp s n fun o => { o with fault := none } := by
  have hop : kget (modOp s n fun o => { o with fault := none }).ops n = some { o with fault := none } := by simp [kget_kmod_same, ho]
  simp [opRewalk, ho, hf, hr, writeObject_none hop hb]

/-- The re-walk of a chain's access, not of its tail, that succeeds lets it go on. -/
theorem chainRewalk_walks {k : ChainId} {b : Bound} {f : BitVec 16 × Word × Word × Access} (hb : (chainOf s k).bound = some b) (hf : b.fault = some f)
    (hd : b.tailDue = false) (hr : rewalk s b.asid f = .walks) (ht : f.2.1.toNat ≠ b.taila) : chainRewalk s k = chainReads s k := by
  simp [chainRewalk, hb, hf, hr, hd, ht]

end Sys2Proof.Machine
end

section
/-! SUPPORT. The statements on the execution model, settled: each is put together from the lemmas above. -/

namespace Sys2Proof.Machine

open Sys2Proof.Safety

/-- Settles O29, case by case: poison at an operator of form C, at one of form M, and headers at either. -/
theorem poisonPropagates : Obligations.PoisonPropagates := by
  unfold Obligations.PoisonPropagates
  refine ⟨?compute, ?memory, ?headers⟩
  case compute =>
    intro s o e img sl hs k t h hc hv hp
    exact ⟨exec_poison_passes h hc hv hp, by rintro rfl; exact exec_sink_poison h hp⟩
  case memory =>
    intro s o e img sl hs k t h hm hw hp
    exact exec_memory_poison h hm (fun he => hw (by simp [he])) (trapsOnPoison_of_not_mem hw) hp
  case headers =>
    intro s o e img sl hs k t h hp hf hk ports hh hr
    exact exec_header_passes h hp (takesHeaders_of_passes hf) (hf.imp_left And.left) hk hh hr

/-- Settles O30: each router's case is what `route` makes of the tokens at its ports. -/
theorem routerFirings : Obligations.RouterFirings := by
  unfold Obligations.RouterFirings
  intro s e img r himg hslot hfire hrun hjib at_ goes first
  have hst : RouterStands s e img r := ⟨himg, hslot, hfire, hrun, hjib⟩
  have go {o : Opc} {i : Instr} {ro : Routed} (hi : exec i s = routerFires o e s) (ho : r.word.opc = o)
      (hro : route r (img.portToken e 0) (img.portToken e 1) (img.portToken e 2) = some ro) : goes i ro.take ro.outs ro.rtr :=
    fun hm hh => hi.trans (routerFires_goes hst ho hro hm hh)
  have tok {p : Nat} {x : Token × Tag} (h : at_ p = some x) : img.portToken e p = some x.1 := portToken_some h
  refine ⟨?steer, ?mergeOrd, ?mergeArr, ?carry⟩
  case steer =>
    intro ho d k hd hk
    have goSteer {ro : Routed} (h : routeSteer r (some d.1) (some k.1) = some ro) : goes (.opSteer e) ro.take ro.outs ro.rtr :=
      go (exec_opSteer e s) ho (by rw [route_steer ho, tok hd, tok hk, h])
    exact ⟨fun hp => goSteer (routeSteer_poison r d.1 hp), fun hp => goSteer (routeSteer_splits r d.1 hp)⟩
  case mergeOrd =>
    intro ho k hk
    have goOrd {ro : Routed} (h : routeMergeOrd r (img.portToken e 0) (img.portToken e 1) (some k.1) = some ro) :
        goes (.opMergeOrd e) ro.take ro.outs ro.rtr := go (exec_opMergeOrd e s) ho (by rw [route_mergeOrd ho, tok hk, h])
    refine ⟨?poison, fun hp => ⟨?first, ?second, ?both⟩⟩
    case poison =>
      intro hp x y hx hy
      exact goOrd (by rw [tok hx, tok hy, routeMergeOrd_poison r x.1 y.1 hp])
    case first =>
      intro x hx ht
      exact goOrd (by rw [tok hx, routeMergeOrd_first r x.1 _ hp ht])
    case second =>
      intro y hy ht
      exact goOrd (by rw [tok hy, routeMergeOrd_second r _ y.1 hp ht])
    case both =>
      intro x y hx hy h0 h1
      exact goOrd (by rw [tok hx, tok hy, routeMergeOrd_both r x.1 y.1 hp h0 h1, mergeTokens_both h0])
  case mergeArr =>
    intro ho
    have goArr {ro : Routed} (h : routeMergeArr r (img.portToken e 0) (img.portToken e 1) = some ro) : goes (.opMergeArr e) ro.take ro.outs ro.rtr :=
      go (exec_opMergeArr e s) ho (by rw [route_mergeArr ho, h])
    constructor
    · intro x hx hy
      exact goArr (by rw [tok hx, routeMergeArr_first r x.1 (hy.imp_left portToken_none)])
    · intro y hy hx
      exact goArr (by rw [tok hy, routeMergeArr_second r y.1 (hx.imp_left portToken_none)])
  case carry =>
    intro ho
    have goCarry {ro : Routed} (h : routeCarry r (img.portToken e 0) (img.portToken e 1) (img.portToken e 2) = some ro) :
        goes (.opCarry e) ro.take ro.outs ro.rtr := go (exec_opCarry e s) ho (by rw [route_carry ho, h])
    refine ⟨fun hl i hi => goCarry (by rw [tok hi, routeCarry_initial r i.1 _ _ hl]), fun hl k hk => ⟨fun hp => ⟨?poison, ?alone⟩, fun hp => ⟨?leaves, ?again⟩⟩⟩
    case poison =>
      intro b hb
      exact goCarry (by rw [tok hb, tok hk, routeCarry_poison r _ b.1 hl hp])
    case alone =>
      intro hb
      exact goCarry (by rw [portToken_none hb, tok hk, routeCarry_poison_alone r _ hl hp])
    case leaves =>
      intro ht
      exact goCarry (by rw [tok hk, routeCarry_leaves r _ _ hl hp ht])
    case again =>
      intro ht b hb
      exact goCarry (by rw [tok hb, tok hk, routeCarry_again r _ b.1 hl hp ht])

/-- Settles O31: the firing enters a chain that is open or opens one. -/
theorem memoryOperatorsEnter : Obligations.MemoryOperatorsEnter := by
  unfold Obligations.MemoryOperatorsEnter
  intro s o e img sl hs ho h hp hr g x img1 images it0
  have hform : o.form = .m ∧ o ≠ .emit := by
    revert ho
    cases o <;> decide
  have hexec := exec_memory_enters hform.1 hform.2 h hp hr
  constructor
  · intro n hn
    rw [hexec, enterChain_open (by rwa [instOf_memoryTaken])]
    rfl
  · intro hn
    rw [hexec, enterChain_new (by rwa [instOf_memoryTaken])]
    rfl

/-- Settles O36: what an ended `Inst` commits, effect by effect, and the one `monwait` that MONWAIT_TIMEOUT ends. -/
theorem blockCommits : Obligations.BlockCommits := by
  unfold Obligations.BlockCommits
  refine ⟨?commit, ?timeout⟩
  case commit =>
    intro s n it w hit hw ends acts
    have hends : instEnds s it w = true ↔ ends := instEnds_iff
    constructor
    · intro hn
      rw [← hends] at hn
      exact ends_of_done rfl (blockCommit_stays hit hw hn)
    · intro he hf hd ts h0 hacts
      have hdo (d : Deferred) (t t1 : State) (h : acts d t t1) : applyDeferred it.unit w t d = .ok t1 := by
        cases d with
        | store va p bs fill =>
          obtain ⟨hplain, hfill⟩ := h
          by_cases hno : fill = false ∨ caddyOf p = none
          · rw [hplain hno, applyDeferred_store va bs hno]
          · obtain ⟨hyes, hsome⟩ := not_or.mp hno
            obtain rfl : fill = true := by simpa using hyes
            obtain ⟨a, ha⟩ := Option.ne_none_iff_exists'.mp hsome
            rw [hfill a rfl ha, applyDeferred_fill va bs ha]
        | copy va die ch tmpl ds dd =>
          obtain ⟨hlost, hheld⟩ := h
          by_cases hch : (chanOf t die ch).holder = some w.asid
          · obtain ⟨code, hstart⟩ := hheld hch
            exact applyDeferred_copy va die ch tmpl ds dd hch hstart
          · rw [hlost hch, applyDeferred_lost va die ch tmpl ds dd hch]
      exact ends_of_done rfl ((blockCommit_commits hit hw (hends.mpr he) hf).trans (commitInst_run hd ts h0 fun i d hi => hdo d _ _ (hacts i d hi)))
  case timeout =>
    intro s n it img u w x sl t0 p hf halone ho hfault hpoison hstart hv ht sz hp hc hit v met
    have hends := monTimeout_ends hf halone ho hfault hpoison hstart hv ht hp hc
    rw [timeoutToken_eq] at hends
    exact ends_of_done rfl hends

/-- Settles O52: each event of a unit by the lemma that says what it does there. -/
theorem unitsEndAndMove : Obligations.UnitsEndAndMove := by
  unfold Obligations.UnitsEndAndMove
  refine ⟨?units, ?insts, ?fires, ?ops, ?chains⟩
  case units =>
    intro s u w hw shut
    refine ⟨?done, ?cancelled, ?faulted, ?rewalk, ?request, ?withdraw, ?deadline, ?save, ?restore⟩
    case done =>
      intro hc hd
      have hend : endUnit s u w = unitEnds shut u w (if w.faulted then .faulted else .done) := by simp [endUnit, WorkUnit.endStatus, hc, shut]
      exact ends_of_done rfl ((unitComplete_done hw hc hd).trans hend)
    case cancelled =>
      intro hc ho hn
      have hend : endUnit s u w = unitEnds shut u w (if w.faulted then .faulted else .cancelled) := by simp [endUnit, WorkUnit.endStatus, hc, shut]
      exact ends_of_done rfl ((unitComplete_cancelled hw hc ho hn).trans hend)
    case faulted =>
      intro hf hc hl hs ho hi hx
      exact ends_of_done rfl (faultedUnitEnd_ends hw hf hc hl hs ho hi hx)
    case rewalk =>
      intro h p hh hl hc ht hp
      exact ends_of_done rfl (seqRewalk_walks hw hh hl hc ht hp)
    case request =>
      intro d hl hc hj hr h0 hd ho hn
      exact ends_of_done rfl (preemptRequest_raises hw hl hc hj hr h0 hd ho hn)
    case withdraw =>
      intro hl hr hb
      exact ends_of_done rfl (preemptRequest_withdraws hw hl hr hb)
    case deadline =>
      intro hl hc hr he hn hy
      exact ends_of_done rfl (preemptDeadline_saves hw hl hc hr he hn hy)
    case save =>
      intro r start hl sv
      constructor
      · intro h
        exact ends_of_done rfl (congrArg startWanted (saveComplete_kept hw hl h))
      · intro j off s1 hb hr hj hp ht hs
        exact ends_of_done rfl (congrArg startWanted (saveComplete_written hw hl hb hr hj hp ht hs))
    case restore =>
      intro sv r rec tp hv hl hm
      have hok (s1 : State) (h : restoreAt s u w sv rec tp = .ok s1) : Ends (.unitRestore u tp) s s1 :=
        ends_of_done rfl (unitRestore_ok hw hv hl hm h)
      refine ⟨hok, fun toks hb hi hst ht => ?_⟩
      obtain ⟨t, hres, hleft⟩ := restoreAt_boundary (s := s) (u := u) (rec := rec) (tp := tp) hb hi hst ht
      exact ⟨t, hok t hres, hleft⟩
  case insts =>
    intro s n it w hit hw
    refine ⟨fun hf => ?_, fun c va at_ hf hr => ?_⟩
    · exact ends_of_done rfl (waveRewalk_fires hit hf)
    · exact ends_of_done rfl (waveRewalk_commits hit hw hf hr)
  case fires =>
    intro s n op it img u w x sl c va at_ hn hf hc ht
    exact replayFire_issues hn hf hc ht
  case ops =>
    intro s n o f ho hf hb hr
    exact ends_of_done rfl (opRewalk_walks ho hf hb hr)
  case chains =>
    intro s k b f hb hf hd hr ht
    exact ends_of_done rfl (chainRewalk_walks hb hf hd hr ht)

/-- Settles O60: the lane operators by their number of ports, the token operators one by one, and the lane-file operators by their common effect. -/
theorem operatorsComplete : Obligations.OperatorsComplete := by
  unfold Obligations.OperatorsComplete
  intro completes one two three
  have h1 {o : Opc} (ho : o ∈ unaryLaneOps) := completes_unary ho
  have h2 {o : Opc} (ho : o ∈ binaryLaneOps) := completes_binary ho
  have h3 {o : Opc} (ho : o ∈ ternaryLaneOps) := completes_ternary ho
  refine ⟨⟨h2 ?_, h2 ?_, h2 ?_, h3 ?_⟩, ⟨h3 ?_, h3 ?_, h3 ?_, h2 ?_⟩, ⟨h2 ?_, h1 ?_, h1 ?_, h2 ?_⟩, ⟨h2 ?_, h1 ?_, h2 ?_, h1 ?_⟩, ⟨h1 ?_, h2 ?_, h1 ?_, h2 ?_⟩,
    ⟨h1 ?_, h2 ?_, h1 ?_, h1 ?_⟩, ⟨h2 ?_, h1 ?_, h1 ?_, h2 ?_⟩, ⟨h3 ?_, h1 ?_, h2 ?_, h1 ?_⟩, ⟨h1 ?_, h1 ?_, h1 ?_⟩, completes_perm, completes_permi, completes_bcast,
    completes_lsum, completes_amaxr, completes_bshdr, completes_join, completes_const, completes_iota, completes_csumRow, ?laneFile⟩
  case laneFile =>
    intro s o e img sl hs h hp hr a b cp base len goes
    have hopc := stands_opc h.1
    have go {m : BitVec 16} {idx : Nat → Int} {stores : Prop} (ho : o ∈ [Opc.lfld, .lfldi, .lfst, .lfsti]) (hm : laneFileMask sl.word a b = m)
        (hidx : laneFileIndex sl.word a b = idx) (hs : (o = .lfst ∨ o = .lfsti) → stores) : goes (o.instr e) m idx stores := by
      intro hin
      have hinside : LaneFileInside sl a b := by
        unfold LaneFileInside
        rw [hm, hidx]
        exact hin
      obtain ⟨out, lanes, hexec, hcls, hmask, hload, hframe⟩ := completes_laneFile ho h hp hr rfl rfl hinside
      rw [hm] at hmask hframe
      exact ⟨out, lanes, hexec, hcls, hmask, fun hn => hload fun hst => hn (hs hst), hframe⟩
    refine ⟨?_, ?_, ?_, ?_⟩ <;> rintro rfl <;>
      exact go (by decide) (by simp [laneFileMask, hopc]) (by funext k; simp [laneFileIndex, hopc]) (by simp)
  all_goals decide

end Sys2Proof.Machine
end

section
/-! SUPPORT. Rounding once to nearest, ties to even (R49): what `rneShift`, `rneInt` and `roundMag` give, over the naturals. A magnitude `m × 2^e` is the
natural number `m × 2^a` in units of `2^(e - a)`, and what a quantum is worth in the same units is a power of two. -/

namespace Sys2Proof.Machine

/-- `n` quanta of size `Q` are the multiple of `Q` nearest to `V`; of two, the one with `n` even. -/
structure NearestEven (V Q n : Nat) : Prop where
  below : 2 * (n * Q) ≤ 2 * V + Q
  above : 2 * V ≤ 2 * (n * Q) + Q
  even : 2 * (n * Q) = 2 * V + Q ∨ 2 * V = 2 * (n * Q) + Q → n % 2 = 0

/-- Rounding does not depend on the unit. -/
theorem NearestEven.scale {V Q n : Nat} (h : NearestEven V Q n) {c : Nat} (hc : 0 < c) : NearestEven (V * c) (Q * c) n := by
  obtain ⟨below, above, even⟩ := h
  refine ⟨?_, ?_, fun tie => even ?_⟩
  · have := Nat.mul_le_mul_right c below
    linarith
  · have := Nat.mul_le_mul_right c above
    linarith
  · refine tie.imp (fun h => Nat.eq_of_mul_eq_mul_right hc ?_) fun h => Nat.eq_of_mul_eq_mul_right hc ?_ <;> linarith

theorem nearestEven_mul_self (n Q : Nat) (hQ : 0 < Q) : NearestEven (n * Q) Q n := ⟨by omega, by omega, by omega⟩

/-- What lies less than half a quantum above `k` quanta rounds to no more than `k`. -/
theorem NearestEven.le {V Q n k : Nat} (h : NearestEven V Q n) (hV : 2 * V < 2 * (k * Q) + Q) : n ≤ k := by
  by_contra hn
  have : (k + 1) * Q ≤ n * Q := Nat.mul_le_mul_right Q (by omega)
  have := h.below
  linarith

/-- What lies less than half a quantum below `k` quanta rounds to no less than `k`. -/
theorem NearestEven.ge {V Q n k : Nat} (h : NearestEven V Q n) (hV : 2 * (k * Q) < 2 * V + Q) : k ≤ n := by
  by_contra hn
  have : (n + 1) * Q ≤ k * Q := Nat.mul_le_mul_right Q (by omega)
  have := h.above
  linarith

theorem rneShift_nearest (m k : Nat) : NearestEven m (2 ^ k) (rneShift m k).1 ∧ (rneShift m k).2 = decide ((rneShift m k).1 * 2 ^ k ≠ m) := by
  have hdiv : m / 2 ^ k * 2 ^ k + m % 2 ^ k = m := Nat.div_add_mod' m (2 ^ k)
  have hlt : m % 2 ^ k < 2 ^ k := Nat.mod_lt _ (by positivity)
  have hr : m - m / 2 ^ k * 2 ^ k = m % 2 ^ k := by omega
  have hup : (m / 2 ^ k + 1) * 2 ^ k = m / 2 ^ k * 2 ^ k + 2 ^ k := by ring
  have heven : k ≠ 0 → 2 ^ k = 2 * (2 ^ k / 2) := fun hk => (Nat.mul_div_cancel' (dvd_pow_self 2 hk)).symm
  have hone : k = 0 → 2 ^ k = 1 := by rintro rfl; rfl
  unfold rneShift
  simp only [Nat.shiftRight_eq_div_pow, Nat.shiftLeft_eq, one_mul, hr]
  split_ifs with h0 hk hround <;> dsimp only
  · exact ⟨⟨by omega, by omega, by omega⟩, by simp; omega⟩
  · omega
  · specialize heven hk
    exact ⟨⟨by omega, by omega, by omega⟩, by simp; omega⟩
  · specialize heven hk
    exact ⟨⟨by omega, by omega, by omega⟩, by simp; omega⟩

theorem rneInt_nearest (m : Nat) {e : Int} {a b : Nat} (he : e = a - b) :
    NearestEven (m * 2 ^ a) (2 ^ b) (rneInt m e).1 ∧ (rneInt m e).2 = decide ((rneInt m e).1 * 2 ^ b ≠ m * 2 ^ a) := by
  unfold rneInt
  split_ifs with h
  · have hab : m <<< e.toNat * 2 ^ b = m * 2 ^ a := by
      rw [Nat.shiftLeft_eq, mul_assoc, ← pow_add]
      congr 2
      omega
    exact ⟨hab ▸ nearestEven_mul_self _ _ (by positivity), by simp [hab]⟩
  · obtain ⟨near, inexact⟩ := rneShift_nearest m (-e).toNat
    have hb : 2 ^ b = 2 ^ (-e).toNat * 2 ^ a := by rw [← pow_add]; congr 1; omega
    refine ⟨hb ▸ near.scale (by positivity), ?_⟩
    rw [inexact, hb, ← mul_assoc]
    simp

theorem two_pow_eq_mul {a b c : Nat} (h : c = a + b) : 2 ^ c = 2 ^ a * 2 ^ b := h ▸ pow_add 2 a b

theorem bitLen_of_ne {m : Nat} (hm : m ≠ 0) : bitLen m = m.log2 + 1 := if_neg hm

/-- A magnitude over the quantum that leaves it 30 bits rounds to 30 bits, or carries into a 31st. -/
theorem rneInt_thirty {m a b : Nat} (hm : m ≠ 0) {e : Int} (he : e = a - b) (hb : (b : Int) = a + bitLen m - 30) :
    2 ^ 29 * 2 ^ b ≤ m * 2 ^ a ∧ m * 2 ^ a < 2 ^ 30 * 2 ^ b ∧ 2 ^ 29 ≤ (rneInt m e).1 ∧ (rneInt m e).1 ≤ 2 ^ 30 := by
  have hlen := bitLen_of_ne hm
  have hlo : 2 ^ 29 * 2 ^ b ≤ m * 2 ^ a := calc
    2 ^ 29 * 2 ^ b = 2 ^ m.log2 * 2 ^ a := by rw [← pow_add, ← pow_add]; congr 1; omega
    _ ≤ m * 2 ^ a := Nat.mul_le_mul_right _ (Nat.log2_self_le hm)
  have hhi : m * 2 ^ a < 2 ^ 30 * 2 ^ b := calc
    m * 2 ^ a < 2 ^ (m.log2 + 1) * 2 ^ a := Nat.mul_lt_mul_of_pos_right Nat.lt_log2_self (by positivity)
    _ = 2 ^ 30 * 2 ^ b := by rw [← pow_add, ← pow_add]; congr 1; omega
  obtain ⟨near, -⟩ := rneInt_nearest m he
  have hpos : 0 < 2 ^ b := by positivity
  exact ⟨hlo, hhi, near.ge (by omega), near.le (by omega)⟩

/-- `r` is the magnitude `V` in units of `2^-(1080 + d)`, rounded with the exponent unbounded above, to a number in the `i`th binade from the least.
Above the least binade the magnitude lies at most a quarter quantum under the least number of its binade, where its 30 bits carried into a 31st. -/
structure RoundedTo (V d : Nat) (r : Rounded) (i : Nat) : Prop where
  quantum : r.q = i - 539
  nearest : NearestEven V (2 ^ (541 + d + i)) r.n
  inexact : r.nx = decide (r.n * 2 ^ (541 + d + i) ≠ V)
  bits : r.n < 2 ^ 30
  normal : 0 < i → 2 ^ 29 ≤ r.n ∧ 2 ^ 31 * 2 ^ (541 + d + i) ≤ 4 * V + 2 ^ (541 + d + i)
  tiny : r.tiny = decide (V < (2 ^ 31 - 1) * 2 ^ (539 + d))

/-- A tiny magnitude is rounded over the least quantum. -/
theorem roundedTo_tiny {m a d : Nat} {e : Int} (he : e = a - (1080 + d : Nat)) (hV : m * 2 ^ a < (2 ^ 31 - 1) * 2 ^ (539 + d)) :
    RoundedTo (m * 2 ^ a) d { n := (rneInt m (e + 539)).1, q := -539, nx := (rneInt m (e + 539)).2, tiny := true } 0 := by
  obtain ⟨near, inexact⟩ := rneInt_nearest m (e := e + 539) (a := a) (b := 541 + d) (by push_cast; omega)
  have hQ : 2 ^ (541 + d) = 2 ^ 2 * 2 ^ (539 + d) := two_pow_eq_mul (by omega)
  have hn := near.le (k := 2 ^ 29) (by omega)
  exact ⟨rfl, near, inexact, by dsimp only; omega, by simp, by simpa using hV⟩

theorem roundUnbounded_thirty (m : Nat) (e : Int) : roundUnbounded 30 m e =
    if (rneInt m (30 - bitLen m)).1 = 2 ^ 30 then { n := 2 ^ 29, q := e + bitLen m - 29, nx := (rneInt m (30 - bitLen m)).2, tiny := false }
    else { n := (rneInt m (30 - bitLen m)).1, q := e + bitLen m - 30, nx := (rneInt m (30 - bitLen m)).2, tiny := false } := by
  have hshift : e - (e + bitLen m - (30 : Nat)) = 30 - bitLen m := by push_cast; ring
  have hquantum : e + bitLen m - (30 : Nat) + 1 = e + bitLen m - 29 := by push_cast; ring
  simp only [roundUnbounded, hshift, hquantum]
  rfl

section
variable {m a d i : Nat} {e : Int}

/-- Thirty bits that carry into a 31st: the quantum doubles, and is then not under the least. -/
theorem roundedTo_of_carry (he : e = a - (1080 + d : Nat)) (hi : a + bitLen m = 570 + d + i) (hcarry : (rneInt m (30 - bitLen m)).1 = 2 ^ 30) :
    RoundedTo (m * 2 ^ a) d (roundUnbounded 30 m e) i := by
  have hexp : (30 - bitLen m : Int) = a - (540 + d + i : Nat) := by push_cast; omega
  obtain ⟨⟨below, above, -⟩, inexact⟩ := rneInt_nearest m hexp
  have hdouble : 2 ^ (541 + d + i) = 2 ^ 1 * 2 ^ (540 + d + i) := two_pow_eq_mul (by omega)
  have hleast : 2 * 2 ^ (539 + d) ≤ 2 ^ (540 + d + i) := by
    rw [← pow_succ']
    exact Nat.pow_le_pow_right (by omega) (by omega)
  rw [hcarry] at below above inexact
  rw [roundUnbounded_thirty, if_pos hcarry]
  refine ⟨by dsimp only; omega, ?nearest, ?inexact, by simp, ?normal, by simp; omega⟩
  case nearest => refine ⟨?_, ?_, fun _ => by norm_num⟩ <;> dsimp only <;> rw [hdouble] <;> omega
  case inexact =>
    dsimp only
    rw [inexact, hdouble, ← mul_assoc, ← pow_add 2 29 1]
  case normal => exact fun _ => ⟨le_rfl, by rw [hdouble]; omega⟩

/-- Thirty bits of a quantum under the least, without a carry to it: the magnitude is below the threshold of tininess. -/
theorem tiny_of_not_carry (hm : m ≠ 0) (hi : a + bitLen m ≤ 570 + d)
    (hcarry : a + bitLen m = 570 + d → (rneInt m (30 - bitLen m)).1 ≠ 2 ^ 30) :
    m * 2 ^ a < (2 ^ 31 - 1) * 2 ^ (539 + d) := by
  obtain hlt | heq := Nat.lt_or_eq_of_le hi
  · calc
      m * 2 ^ a < 2 ^ bitLen m * 2 ^ a := Nat.mul_lt_mul_of_pos_right (bitLen_of_ne hm ▸ Nat.lt_log2_self) (by positivity)
      _ = 2 ^ (a + bitLen m) := by rw [← pow_add, add_comm]
      _ ≤ 2 ^ (30 + (539 + d)) := Nat.pow_le_pow_right (by omega) (by omega)
      _ ≤ (2 ^ 31 - 1) * 2 ^ (539 + d) := by rw [pow_add]; omega
  · have hexp : (30 - bitLen m : Int) = a - (540 + d : Nat) := by push_cast; omega
    obtain ⟨⟨-, above, even⟩, -⟩ := rneInt_nearest m hexp
    obtain ⟨-, -, -, hn30⟩ := rneInt_thirty hm hexp (by push_cast; omega)
    have hQ : 2 ^ (540 + d) = 2 ^ 1 * 2 ^ (539 + d) := two_pow_eq_mul (by omega)
    obtain hn | hn : (rneInt m (30 - bitLen m)).1 = 2 ^ 30 - 1 ∨ (rneInt m (30 - bitLen m)).1 ≤ 2 ^ 30 - 2 := by
      have := hcarry heq
      omega
    · rw [hn] at above even
      omega
    · have := Nat.mul_le_mul_right (2 ^ (540 + d)) hn
      have : 0 < 2 ^ (539 + d) := by positivity
      omega

variable (hm : m ≠ 0) (he : e = a - (1080 + d : Nat))
include hm he

/-- Thirty bits without a carry, of a quantum not under the least. -/
theorem roundedTo_of_not_carry (hi : a + bitLen m = 571 + d + i) (hcarry : (rneInt m (30 - bitLen m)).1 ≠ 2 ^ 30) :
    RoundedTo (m * 2 ^ a) d (roundUnbounded 30 m e) i := by
  have hexp : (30 - bitLen m : Int) = a - (541 + d + i : Nat) := by push_cast; omega
  obtain ⟨near, inexact⟩ := rneInt_nearest m hexp
  obtain ⟨hlo, hhi, hn29, hn30⟩ := rneInt_thirty hm hexp (by push_cast; omega)
  have hnormal : (2 ^ 31 - 1) * 2 ^ (539 + d) ≤ m * 2 ^ a := calc
    (2 ^ 31 - 1) * 2 ^ (539 + d) ≤ 2 ^ 31 * 2 ^ (539 + d) := by omega
    _ = 2 ^ 29 * 2 ^ (541 + d) := by rw [← pow_add, ← pow_add]; congr 1; omega
    _ ≤ 2 ^ 29 * 2 ^ (541 + d + i) := Nat.mul_le_mul_left _ (Nat.pow_le_pow_right (by omega) (by omega))
    _ ≤ m * 2 ^ a := hlo
  rw [roundUnbounded_thirty, if_neg hcarry]
  exact ⟨by dsimp only; omega, near, inexact, by dsimp only; omega, fun _ => ⟨hn29, by omega⟩, by simpa using hnormal⟩

/-- `roundMag` rounds once: with the exponent unbounded, or over the least quantum where that is tiny. -/
theorem roundMag_roundedTo : ∃ i, RoundedTo (m * 2 ^ a) d (roundMag 30 (-539) m e) i := by
  unfold roundMag
  dsimp only
  by_cases hcarry : (rneInt m (30 - bitLen m)).1 = 2 ^ 30
  · by_cases hi : 570 + d ≤ a + bitLen m
    · have h := roundedTo_of_carry he (i := a + bitLen m - (570 + d)) (by omega) hcarry
      rw [if_neg (by rw [h.quantum]; omega)]
      exact ⟨_, h⟩
    · rw [if_pos (by rw [roundUnbounded_thirty, if_pos hcarry]; dsimp only; omega)]
      exact ⟨0, roundedTo_tiny he (tiny_of_not_carry hm (by omega) (by omega))⟩
  · by_cases hi : 571 + d ≤ a + bitLen m
    · have h := roundedTo_of_not_carry hm he (i := a + bitLen m - (571 + d)) (by omega) hcarry
      rw [if_neg (by rw [h.quantum]; omega)]
      exact ⟨_, h⟩
    · rw [if_pos (by rw [roundUnbounded_thirty, if_neg hcarry]; dsimp only; omega)]
      exact ⟨0, roundedTo_tiny he (tiny_of_not_carry hm (by omega) fun _ => hcarry)⟩

end

end Sys2Proof.Machine
end

section
/-! SUPPORT. FW40 words as numbers (R48): what a word's fields say of its number, and what the word that `fwRound` writes stands for. -/

namespace Sys2Proof.Machine

open Sys2Proof.Safety

theorem toNat_signed_word (neg : Bool) (b : BitVec 39) : (BitVec.ofBool neg ++ b : Lane).toNat = neg.toNat * 2 ^ 39 + b.toNat := by
  have h : (BitVec.ofBool neg ++ b).toNat = neg.toNat <<< 39 ||| b.toNat := by rw [BitVec.toNat_append, BitVec.toNat_ofBool]
  rw [← Nat.shiftLeft_eq, Nat.shiftLeft_add_eq_or_of_lt b.isLt]
  exact h

@[simp] theorem fwSign_append (neg : Bool) (b : BitVec 39) : fwSign (BitVec.ofBool neg ++ b) = neg := by
  have hb := b.isLt
  rw [fwSign, BitVec.getLsbD, toNat_signed_word, Nat.testBit_eq_decide_div_mod_eq, Nat.add_comm, Nat.add_mul_div_right _ _ (by omega)]
  cases neg <;> simp <;> omega

@[simp] theorem fwExp_append (neg : Bool) (b : BitVec 39) : fwExp (BitVec.ofBool neg ++ b) = b.toNat / 2 ^ 29 := by
  rw [fwExp, BitVec.extractLsb'_toNat, toNat_signed_word, Nat.shiftRight_eq_div_pow]
  omega

@[simp] theorem fwFrac_append (neg : Bool) (b : BitVec 39) : fwFrac (BitVec.ofBool neg ++ b) = b.toNat % 2 ^ 29 := by
  rw [fwFrac, BitVec.extractLsb'_toNat, toNat_signed_word]
  omega

/-- The word that `fwRound` writes for `n` quanta `2^q`. -/
def fwWord (neg : Bool) (n : Nat) (q : Int) : Lane :=
  BitVec.ofBool neg ++ if n < 2 ^ 29 then BitVec.ofNat 39 n else BitVec.ofNat 39 ((q + 540).toNat * 2 ^ 29 + (n - 2 ^ 29))

theorem fwRound_eq (neg : Bool) {m : Nat} (hm : m ≠ 0) (e : Int) : fwRound neg m e =
    if 482 < (roundMag 30 (-539) m e).q then (fwInf neg, { Flags.none with ov := true, nx := true })
    else (fwWord neg (roundMag 30 (-539) m e).n (roundMag 30 (-539) m e).q,
      { Flags.none with uf := (roundMag 30 (-539) m e).tiny && (roundMag 30 (-539) m e).nx, nx := (roundMag 30 (-539) m e).nx }) := by
  simp only [fwRound, if_neg hm]
  rfl

@[simp] theorem fwRound_zero (neg : Bool) (e : Int) : fwRound neg 0 e = (fwZero neg, Flags.none) := rfl

/-- `n` quanta in the `i`th binade from the least are a number of FW40 (R48). -/
structure FwNumber (n i : Nat) : Prop where
  bits : n < 2 ^ 30
  normal : 0 < i → 2 ^ 29 ≤ n
  binade : i ≤ 1021

theorem fwUnpack_eq_num {x : Lane} (h : fwExp x ≠ 1023) : fwUnpack x =
    if fwExp x = 0 then .num (fwSign x) (fwFrac x) (-539) else .num (fwSign x) (2 ^ 29 + fwFrac x) (fwExp x - 540) := if_neg h

theorem fwUnpack_fwWord (neg : Bool) {n i : Nat} (h : FwNumber n i) : fwUnpack (fwWord neg n (i - 539)) = .num neg n (i - 539) := by
  obtain ⟨bits, normal, binade⟩ := h
  unfold fwWord
  split_ifs with hn
  · have hi : i = 0 := by omega
    subst hi
    have hexp : n % 2 ^ 39 / 2 ^ 29 = 0 := by omega
    have hfrac : n % 2 ^ 39 % 2 ^ 29 = n := by omega
    rw [fwUnpack_eq_num] <;> simp only [fwExp_append, fwFrac_append, fwSign_append, BitVec.toNat_ofNat, hexp, hfrac] <;> simp
  · have hword : ((i : Int) - 539 + 540).toNat * 2 ^ 29 + (n - 2 ^ 29) = (i + 1) * 2 ^ 29 + (n - 2 ^ 29) := by congr 2; omega
    rw [hword]
    have hexp : ((i + 1) * 2 ^ 29 + (n - 2 ^ 29)) % 2 ^ 39 / 2 ^ 29 = i + 1 := by omega
    have hfrac : ((i + 1) * 2 ^ 29 + (n - 2 ^ 29)) % 2 ^ 39 % 2 ^ 29 = n - 2 ^ 29 := by omega
    have hbinade : ((i + 1 : Nat) : Int) - 540 = i - 539 := by push_cast; ring
    rw [fwUnpack_eq_num] <;> simp only [fwExp_append, fwFrac_append, fwSign_append, BitVec.toNat_ofNat, hexp, hfrac]
    · rw [if_neg (by omega), hbinade, Nat.add_sub_cancel' (by omega)]
    · omega

theorem fwFrac_fwWord_even (neg : Bool) {n : Nat} (hn : n < 2 ^ 30) (q : Int) : fwFrac (fwWord neg n q) % 2 = n % 2 := by
  unfold fwWord
  split_ifs <;> simp only [fwFrac_append, BitVec.toNat_ofNat] <;> omega

theorem fwFrac_lt (x : Lane) : fwFrac x < 2 ^ 29 := BitVec.isLt _

theorem fwExp_lt (x : Lane) : fwExp x < 2 ^ 10 := BitVec.isLt _

theorem fwFinite_iff (x : Lane) : fwFinite x = true ↔ fwExp x ≠ 1023 := by
  by_cases h : fwExp x = 1023
  · by_cases hf : fwFrac x = 0 <;> simp [fwFinite, fwUnpack, h, hf]
  · simp only [fwFinite, fwUnpack_eq_num h, ne_eq, h, not_false_eq_true, iff_true]
    split_ifs <;> rfl

/-- A finite word stands for a number of FW40. -/
theorem fwUnpack_of_finite {x : Lane} (h : fwFinite x = true) :
    ∃ n i : Nat, FwNumber n i ∧ fwUnpack x = .num (fwSign x) n (i - 539) := by
  rw [fwFinite_iff] at h
  have hexp := fwExp_lt x
  have hfrac := fwFrac_lt x
  rw [fwUnpack_eq_num h]
  split_ifs with h0
  · exact ⟨fwFrac x, 0, ⟨by omega, by simp, by omega⟩, rfl⟩
  · refine ⟨2 ^ 29 + fwFrac x, fwExp x - 1, ⟨by omega, by omega, by omega⟩, ?_⟩
    congr 1
    omega

/-- The number `(−1)^neg × m × 2^e` in units of 2^−1080. -/
def fwUnitsOf (neg : Bool) (m : Nat) (e : Int) : Int := signed neg (m * 2 ^ (e + 1080).toNat)

theorem fwUnits_of_num {x : Lane} {s : Bool} {m : Nat} {e : Int} (h : fwUnpack x = .num s m e) : fwUnits x = fwUnitsOf s m e := by
  simp [fwUnits, h, fwUnitsOf, signed]

theorem fwFinite_of_num {x : Lane} {s : Bool} {m : Nat} {e : Int} (h : fwUnpack x = .num s m e) : fwFinite x = true := by
  simp [fwFinite, h]

@[simp] theorem natAbs_signed (s : Bool) (m : Nat) : (signed s m).natAbs = m := by cases s <;> simp [signed]

theorem signed_mul (s : Bool) (m k : Nat) : signed s (m * k) = signed s m * k := by cases s <;> simp [signed]

theorem signed_mul_two_pow (s : Bool) (m k : Nat) : signed s (m * 2 ^ k) = signed s m * 2 ^ k := by
  rw [signed_mul, Nat.cast_pow, Nat.cast_ofNat]

theorem signed_not (s : Bool) (m : Nat) : signed (!s) m = -signed s m := by cases s <;> simp [signed]

theorem signed_lt_zero {m : Nat} (hm : m ≠ 0) (s : Bool) : decide (signed s m < 0) = s := by
  cases s
  · simp [signed]
  · simp [signed]
    omega

theorem signed_eq_iff (s t : Bool) (m n : Nat) : signed s m = signed t n ↔ signed (s != t) m = n := by
  cases s <;> cases t <;> simp [signed]

/-- Negating both leaves the distance of two signed magnitudes. -/
theorem natAbs_signed_sub (s t : Bool) (m n : Nat) : (signed s m - signed t n).natAbs = (signed (s != t) m - n).natAbs := by
  cases s <;> cases t <;> simp [signed] <;> omega

theorem fwUnitsOf_binade (s : Bool) (n i d : Nat) : fwUnitsOf s n (i - 539) * 2 ^ d = signed s (n * 2 ^ (541 + d + i)) := by
  have hexp : ((i : Int) - 539 + 1080).toNat = 541 + i := by omega
  have hpow : 2 ^ (541 + d + i) = 2 ^ (541 + i) * 2 ^ d := two_pow_eq_mul (by omega)
  rw [fwUnitsOf, hexp, hpow, ← mul_assoc, signed_mul_two_pow s (n * 2 ^ (541 + i)) d]

end Sys2Proof.Machine
end

section
/-! SUPPORT. `fwRound` rounds to the nearest FW40 number (R49): no finite word is nearer than the one it answers, and its flags are those of R51. -/

namespace Sys2Proof.Machine

open Sys2Proof.Safety

/-- No other multiple of the quantum is nearer. -/
theorem NearestEven.closest {V Q n : Nat} (h : NearestEven V Q n) (k : Int) :
    ((n * Q : Nat) - V : Int).natAbs ≤ (k * Q - V : Int).natAbs ∧
      (((n * Q : Nat) - V : Int).natAbs = (k * Q - V : Int).natAbs → k * Q ≠ (n * Q : Nat) → n % 2 = 0) := by
  obtain ⟨below, above, even⟩ := h
  zify at below above even
  push_cast
  obtain hk | rfl | hk := lt_trichotomy k n
  · have : (k + 1) * (Q : Int) ≤ n * Q := Int.mul_le_mul_of_nonneg_right (by omega) (by omega)
    rw [add_mul, one_mul] at this
    omega
  · omega
  · have : ((n : Int) + 1) * Q ≤ k * Q := Int.mul_le_mul_of_nonneg_right (by omega) (by omega)
    rw [add_mul, one_mul] at this
    omega

/-- No number of FW40 is nearer than the rounded one. In a lower binade it is at most half a quantum under the least of the binade, which lies between. -/
theorem RoundedTo.closest {V d i : Nat} {r : Rounded} (h : RoundedTo V d r i) {n j : Nat} (hn : FwNumber n j) (s : Bool) :
    let t : Int := signed s (n * 2 ^ (541 + d + j))
    ((r.n * 2 ^ (541 + d + i) : Nat) - V : Int).natAbs ≤ (t - V).natAbs ∧
      (((r.n * 2 ^ (541 + d + i) : Nat) - V : Int).natAbs = (t - V).natAbs → t ≠ (r.n * 2 ^ (541 + d + i) : Nat) → r.n % 2 = 0) := by
  dsimp only
  obtain hij | hij := le_or_gt i j
  · have hmul : signed s (n * 2 ^ (541 + d + j)) = signed s (n * 2 ^ (j - i)) * (2 ^ (541 + d + i) : Nat) := by
      rw [← signed_mul, mul_assoc, ← pow_add]
      congr 3
      omega
    rw [hmul]
    exact h.nearest.closest _
  · obtain ⟨-, hV⟩ := h.normal (by omega)
    have hhalf : 2 * 2 ^ (541 + d + j) ≤ 2 ^ (541 + d + i) := by
      rw [← pow_succ']
      exact Nat.pow_le_pow_right (by omega) (by omega)
    have hunder : 2 * signed s (n * 2 ^ (541 + d + j)) ≤ ((2 ^ 30 - 1) * 2 ^ (541 + d + i) : Nat) := by
      have := Nat.mul_le_mul_right (2 ^ (541 + d + j)) (Nat.le_sub_one_of_lt hn.bits)
      cases s <;> simp only [signed] <;> omega
    obtain ⟨hle, heven⟩ := h.nearest.closest (2 ^ 29)
    have hbetween : (2 ^ 29 * (2 ^ (541 + d + i) : Nat) - V : Int).natAbs ≤ (signed s (n * 2 ^ (541 + d + j)) - V).natAbs := by omega
    refine ⟨hle.trans hbetween, fun heq _ => ?_⟩
    by_cases hsame : (2 ^ 29 * (2 ^ (541 + d + i) : Nat) : Int) = (r.n * 2 ^ (541 + d + i) : Nat)
    · have hn29 : r.n = 2 ^ 29 := Nat.eq_of_mul_eq_mul_right (Nat.two_pow_pos (541 + d + i)) (by exact_mod_cast hsame.symm)
      omega
    · exact heven (le_antisymm hle (heq ▸ hbetween)) hsame

theorem RoundedTo.closest_signed {V d i : Nat} {r : Rounded} (h : RoundedTo V d r i) {n j : Nat} (hn : FwNumber n j) (s neg : Bool) :
    let t : Int := fwUnitsOf s n (j - 539)
    let x : Int := fwUnitsOf neg r.n (i - 539)
    (x * 2 ^ d - signed neg V).natAbs ≤ (t * 2 ^ d - signed neg V).natAbs ∧
      ((x * 2 ^ d - signed neg V).natAbs = (t * 2 ^ d - signed neg V).natAbs → t ≠ x → r.n % 2 = 0) := by
  have hpow : (2 : Int) ^ d ≠ 0 := by positivity
  obtain ⟨hle, heven⟩ := h.closest hn (s != neg)
  simp only [fwUnitsOf_binade, natAbs_signed_sub, bne_self_eq_false]
  refine ⟨hle, fun heq hne => heven heq fun h => hne ?_⟩
  rw [← mul_left_inj' hpow, fwUnitsOf_binade, fwUnitsOf_binade, signed_eq_iff]
  exact h

/-- The rounding leaves the binades of FW40 exactly from half a quantum above the greatest number on. -/
theorem RoundedTo.overflows_iff {V d i : Nat} {r : Rounded} (h : RoundedTo V d r i) : 1021 < i ↔ (2 ^ 31 - 1) * 2 ^ (1561 + d) ≤ V := by
  constructor
  · intro hi
    obtain ⟨-, hV⟩ := h.normal (by omega)
    have : 2 ^ 2 * 2 ^ (1561 + d) ≤ 2 ^ (541 + d + i) := by
      rw [← pow_add]
      exact Nat.pow_le_pow_right (by omega) (by omega)
    omega
  · intro hV
    by_contra hi
    obtain ⟨-, above, even⟩ := h.nearest
    have hbits := h.bits
    have hQ : 2 ^ (541 + d + i) ≤ 2 ^ 1 * 2 ^ (1561 + d) := by
      rw [← pow_add]
      exact Nat.pow_le_pow_right (by omega) (by omega)
    have hpos : 0 < 2 ^ (541 + d + i) := by positivity
    obtain hn | hn : r.n = 2 ^ 30 - 1 ∨ r.n ≤ 2 ^ 30 - 2 := by omega
    · rw [hn] at above even
      omega
    · have := Nat.mul_le_mul_right (2 ^ (541 + d + i)) hn
      omega

/-- `fwRound` rounds once to nearest: the magnitude `m × 2^e` is `m × 2^a` units of `2^-(1080 + d)`. -/
theorem fwRound_rounds (neg : Bool) {m a d : Nat} {e : Int} (hm : m ≠ 0) (he : e = a - (1080 + d : Nat)) :
    RoundsOver (signed neg (m * 2 ^ a)) d (fwRound neg m e) := by
  obtain ⟨i, h⟩ := roundMag_roundedTo hm he
  have hV : m * 2 ^ a ≠ 0 := by positivity
  have hover := h.overflows_iff
  rw [fwRound_eq neg hm]
  unfold RoundsOver
  simp only [signed_lt_zero hV, natAbs_signed, h.quantum]
  by_cases hi : 1021 < i
  · rw [if_pos (by omega), if_pos (hover.mp hi)]
    exact ⟨by cases neg <;> decide, rfl, rfl, rfl, rfl, rfl, rfl⟩
  · have hnum : FwNumber (roundMag 30 (-539) m e).n i := ⟨h.bits, fun h0 => (h.normal h0).1, by omega⟩
    have hunpack := fwUnpack_fwWord neg hnum
    rw [if_neg (by omega), if_neg (mt hover.mpr hi)]
    dsimp only
    rw [fwUnits_of_num hunpack, fwFrac_fwWord_even neg h.bits]
    refine ⟨fwSign_append _ _, rfl, rfl, fwFinite_of_num hunpack, rfl, ?_, ?_, fun y hy => ?_⟩
    · rw [h.inexact, fwUnitsOf_binade]
      refine decide_eq_decide.mpr (not_congr ?_)
      rw [signed_eq_iff, bne_self_eq_false]
      exact Nat.cast_inj.symm
    · rw [h.tiny]
    · obtain ⟨n, j, hn, hy⟩ := fwUnpack_of_finite hy
      rw [fwUnits_of_num hy]
      exact h.closest_signed hn _ neg

end Sys2Proof.Machine
end

section
/-! SUPPORT. The FW40 operations over finite words are exact results rounded once (R49, R152, R153, R155). -/

namespace Sys2Proof.Machine

open Sys2Proof.Safety

/-- The word `r` and its flags are the number `v` of units of 2^−1080 rounded once, or the zero of sign `z` where it is 0. -/
def RoundsOrZero (v : Int) (z : Bool) (r : Lane × Flags) : Prop :=
  (v ≠ 0 → RoundsTo v r) ∧ (v = 0 → r = (fwZero z, Flags.none))

theorem signed_eq_zero (s : Bool) (m : Nat) : signed s m = 0 ↔ m = 0 := by cases s <;> simp [signed]

theorem fwUnitsOf_not (s : Bool) (m : Nat) (e : Int) : fwUnitsOf (!s) m e = -fwUnitsOf s m e := signed_not _ _

theorem fwUnitsOf_eq_zero (s : Bool) (m : Nat) (e : Int) : fwUnitsOf s m e = 0 ↔ m = 0 := by
  rw [fwUnitsOf, signed_eq_zero]
  simp

/-- A number over a lesser exponent. -/
theorem fwUnitsOf_shift (s : Bool) (m : Nat) {e e0 : Int} (h0 : -1080 ≤ e0) (he : e0 ≤ e) :
    fwUnitsOf s m e = signed s (m <<< (e - e0).toNat) * 2 ^ (e0 + 1080).toNat := by
  have hpow : 2 ^ (e + 1080).toNat = 2 ^ (e - e0).toNat * 2 ^ (e0 + 1080).toNat := two_pow_eq_mul (by omega)
  rw [fwUnitsOf, hpow, ← mul_assoc, signed_mul_two_pow, Nat.shiftLeft_eq]

theorem fwUnitsOf_mul (s t : Bool) (m n : Nat) {e f : Int} (he : -539 ≤ e) (hf : -539 ≤ f) :
    fwUnitsOf s m e * fwUnitsOf t n f / 2 ^ 1080 = fwUnitsOf (s != t) (m * n) (e + f) := by
  have hpow : 2 ^ (e + 1080).toNat * 2 ^ (f + 1080).toNat = 2 ^ (e + f + 1080).toNat * 2 ^ 1080 := by
    rw [← pow_add, ← pow_add]
    congr 1
    omega
  have hsigned (x y : Nat) : signed s x * signed t y = signed (s != t) (x * y) := by cases s <;> cases t <;> simp [signed]
  rw [fwUnitsOf, fwUnitsOf, fwUnitsOf, hsigned, mul_mul_mul_comm, hpow, ← mul_assoc, signed_mul_two_pow]
  exact Int.mul_ediv_cancel _ (pow_ne_zero _ (by decide))

theorem fwRound_roundsOrZero (s : Bool) (m : Nat) {e : Int} (he : -1080 ≤ e) : RoundsOrZero (fwUnitsOf s m e) s (fwRound s m e) := by
  unfold RoundsOrZero
  rw [ne_eq, fwUnitsOf_eq_zero]
  exact ⟨fun hm => fwRound_rounds s (d := 0) hm (by omega), by rintro rfl; rfl⟩

theorem fwRoundInt_roundsOrZero (z : Bool) (v : Int) {e : Int} (he : -1080 ≤ e) :
    RoundsOrZero (v * 2 ^ (e + 1080).toNat) z (fwRoundInt z v e) := by
  have hpow : (2 : Int) ^ (e + 1080).toNat ≠ 0 := pow_ne_zero _ (by decide)
  have hsigned : signed (decide (v < 0)) v.natAbs = v := by
    unfold signed
    split_ifs with h <;> rw [decide_eq_true_eq] at h <;> omega
  have h := fwRound_roundsOrZero (decide (v < 0)) v.natAbs he
  rw [fwUnitsOf, signed_mul_two_pow, hsigned] at h
  refine ⟨fun hne => ?_, fun h0 => ?_⟩
  · rw [fwRoundInt, if_neg (by rintro rfl; simp at hne)]
    exact h.1 hne
  · rw [fwRoundInt, if_pos (by simpa [hpow] using h0)]

theorem addNum_roundsOrZero (s t : Bool) (m n : Nat) {e f : Int} (he : -1080 ≤ e) (hf : -1080 ≤ f) :
    RoundsOrZero (fwUnitsOf s m e + fwUnitsOf t n f) (s && t) (addNum s m e t n f) := by
  rw [fwUnitsOf_shift s m (e0 := min e f) (by omega) (by omega), fwUnitsOf_shift t n (e0 := min e f) (by omega) (by omega), ← add_mul]
  exact fwRoundInt_roundsOrZero _ _ (by omega)

section
variable {a b c : Lane} (ha : fwFinite a = true) (hb : fwFinite b = true)
include ha hb

theorem fwAdd_roundsOrZero : RoundsOrZero (fwUnits a + fwUnits b) (fwSign a && fwSign b) (fwAdd a b) := by
  obtain ⟨m, i, -, ha⟩ := fwUnpack_of_finite ha
  obtain ⟨n, j, -, hb⟩ := fwUnpack_of_finite hb
  rw [fwUnits_of_num ha, fwUnits_of_num hb, fwAdd, ha, hb]
  exact addNum_roundsOrZero _ _ _ _ (by omega) (by omega)

theorem fwSub_roundsOrZero : RoundsOrZero (fwUnits a - fwUnits b) (fwSign a && !fwSign b) (fwSub a b) := by
  obtain ⟨m, i, -, ha⟩ := fwUnpack_of_finite ha
  obtain ⟨n, j, -, hb⟩ := fwUnpack_of_finite hb
  rw [fwUnits_of_num ha, fwUnits_of_num hb, sub_eq_add_neg, ← fwUnitsOf_not, fwSub, ha, hb]
  exact addNum_roundsOrZero _ _ _ _ (by omega) (by omega)

/-- The exact product of two finite words. -/
theorem mulExact_of_finite : ∃ (m : Nat) (e : Int), -1078 ≤ e ∧ fwUnits a * fwUnits b / 2 ^ 1080 = fwUnitsOf (fwSign a != fwSign b) m e ∧
    mulExact (fwUnpack a) (fwUnpack b) = (.num (fwSign a != fwSign b) m e, false) := by
  obtain ⟨m, i, -, ha⟩ := fwUnpack_of_finite ha
  obtain ⟨n, j, -, hb⟩ := fwUnpack_of_finite hb
  refine ⟨m * n, (i - 539) + (j - 539), by omega, ?_, by rw [ha, hb]; rfl⟩
  rw [fwUnits_of_num ha, fwUnits_of_num hb]
  exact fwUnitsOf_mul _ _ _ _ (by omega) (by omega)

theorem fwMul_roundsOrZero : RoundsOrZero (fwUnits a * fwUnits b / 2 ^ 1080) (fwSign a != fwSign b) (fwMul a b) := by
  obtain ⟨m, e, he, hp, hmul⟩ := mulExact_of_finite ha hb
  rw [hp, fwMul, hmul]
  exact fwRound_roundsOrZero _ _ (by omega)

theorem newtonStep_two_roundsOrZero : RoundsOrZero (2 ^ 1081 - fwUnits a * fwUnits b / 2 ^ 1080) false (newtonStep 2 0 0 a b) := by
  obtain ⟨m, e, he, hp, hmul⟩ := mulExact_of_finite ha hb
  have htwo : (2 : Int) ^ 1081 = fwUnitsOf false 2 0 := by
    rw [fwUnitsOf, signed_mul_two_pow]
    exact pow_succ' 2 1080
  rw [hp, htwo, sub_eq_add_neg, ← fwUnitsOf_not]
  simp only [newtonStep, hmul, add_zero]
  exact addNum_roundsOrZero _ _ _ _ (by omega) (by omega)

theorem newtonStep_three_roundsOrZero : RoundsOrZero ((3 * 2 ^ 1080 - fwUnits a * fwUnits b / 2 ^ 1080) / 2) false (newtonStep 3 (-1) (-1) a b) ∧
    2 * ((3 * 2 ^ 1080 - fwUnits a * fwUnits b / 2 ^ 1080) / 2) = 3 * 2 ^ 1080 - fwUnits a * fwUnits b / 2 ^ 1080 := by
  obtain ⟨m, e, he, hp, hmul⟩ := mulExact_of_finite ha hb
  have hhalf (s : Bool) (n : Nat) {f : Int} (hf : -1079 ≤ f) : fwUnitsOf s n f = 2 * fwUnitsOf s n (f - 1) := by
    have hpow : 2 ^ (f + 1080).toNat = 2 ^ (f - 1 + 1080).toNat * 2 ^ 1 := two_pow_eq_mul (by omega)
    rw [fwUnitsOf, hpow, ← mul_assoc, signed_mul, mul_comm]
    rfl
  have hthree : (3 : Int) * 2 ^ 1080 = fwUnitsOf false 3 0 := by
    rw [fwUnitsOf, signed_mul_two_pow]
    rfl
  rw [hp, hthree, hhalf _ m (by omega), hhalf false 3 (by omega), ← mul_sub, Int.mul_ediv_cancel_left _ (by decide), sub_eq_add_neg, ← fwUnitsOf_not]
  refine ⟨?_, rfl⟩
  simp only [newtonStep, hmul]
  exact addNum_roundsOrZero _ _ _ _ (by omega) (by omega)

theorem fwFma_roundsOrZero (np nc : Bool) (hc : fwFinite c = true) :
    let p : Int := fwUnits a * fwUnits b / 2 ^ 1080
    RoundsOrZero ((if np then -p else p) + (if nc then -fwUnits c else fwUnits c)) (((fwSign a != fwSign b) != np) && (fwSign c != nc))
      (fwFma np nc a b c) := by
  obtain ⟨m, e, he, hp, hmul⟩ := mulExact_of_finite ha hb
  obtain ⟨n, j, -, hc⟩ := fwUnpack_of_finite hc
  have hneg (t s : Bool) (k : Nat) (f : Int) : (if t then -fwUnitsOf s k f else fwUnitsOf s k f) = fwUnitsOf (s != t) k f := by
    cases t <;> simp [fwUnitsOf_not]
  have hval (t s : Bool) (k : Nat) (f : Int) : (if t then (FwVal.num s k f).neg else .num s k f) = .num (s != t) k f := by
    cases t <;> simp [FwVal.neg]
  dsimp only
  rw [hp, fwUnits_of_num hc, hneg, hneg]
  simp only [fwFma, hmul, hc, hval]
  exact addNum_roundsOrZero _ _ _ _ (by omega) (by omega)

end

end Sys2Proof.Machine
end

section
/-! SUPPORT. NaNs, infinities and zeros at the FW40 operations (R50, R153, R155). -/

namespace Sys2Proof.Machine

open Sys2Proof.Safety

@[simp] theorem fwUnpack_fwInf (s : Bool) : fwUnpack (fwInf s) = .inf s := by cases s <;> decide

@[simp] theorem fwUnpack_fwZero (s : Bool) : fwUnpack (fwZero s) = .num s 0 (-539) := by cases s <;> decide

/-- The sign, the exponent and the fraction are the whole word (Table 2.1). -/
theorem lane_ext_fields {x y : Lane} (hs : fwSign x = fwSign y) (he : fwExp x = fwExp y) (hf : fwFrac x = fwFrac y) : x = y := by
  have hx := x.isLt
  have hy := y.isLt
  have hsign (z : Lane) : fwSign z = decide (z.toNat / 2 ^ 39 % 2 = 1) := Nat.testBit_eq_decide_div_mod_eq
  rw [hsign, hsign, decide_eq_decide] at hs
  simp only [fwExp, fwFrac, BitVec.extractLsb'_toNat, Nat.shiftRight_eq_div_pow] at he hf
  apply BitVec.eq_of_toNat_eq
  omega

theorem eq_fwInf_of_unpack {x : Lane} {s : Bool} (h : fwUnpack x = .inf s) : x = fwInf s := by
  have hexp : fwExp x = 1023 := by
    by_contra he
    rw [fwUnpack_eq_num he] at h
    split_ifs at h
  by_cases hfrac : fwFrac x = 0
  · simp only [fwUnpack, hexp, hfrac, if_true, FwVal.inf.injEq] at h
    subst h
    apply lane_ext_fields
    · cases fwSign x <;> decide
    · rw [hexp]; cases fwSign x <;> decide
    · rw [hfrac]; cases fwSign x <;> decide
  · simp [fwUnpack, hexp, hfrac] at h

theorem eq_fwZero_of_unpack {x : Lane} {s : Bool} {e : Int} (h : fwUnpack x = .num s 0 e) : x = fwZero s := by
  have hexp : fwExp x ≠ 1023 := (fwFinite_iff x).mp (fwFinite_of_num h)
  rw [fwUnpack_eq_num hexp] at h
  split_ifs at h with h0
  · obtain ⟨rfl, hfrac, -⟩ := FwVal.num.inj h
    apply lane_ext_fields
    · cases fwSign x <;> decide
    · rw [h0]; cases fwSign x <;> decide
    · rw [hfrac]; cases fwSign x <;> decide
  · obtain ⟨-, hfrac, -⟩ := FwVal.num.inj h
    omega

theorem fwAddVal_of_nan {x y : FwVal} (h : x.isNan = true ∨ y.isNan = true) : fwAddVal x y = nanResult (x.isSnan || y.isSnan) := by
  cases x with
  | nan s => rfl
  | inf s => cases y <;> simp_all [fwAddVal, FwVal.isNan, FwVal.isSnan]
  | num s m e => cases y <;> simp_all [fwAddVal, FwVal.isNan, FwVal.isSnan]

theorem mulExact_of_nan {x y : FwVal} (h : x.isNan = true ∨ y.isNan = true) : mulExact x y = (.nan false, x.isSnan || y.isSnan) := by
  cases x with
  | nan s => rfl
  | inf s => cases y <;> simp_all [mulExact, FwVal.isNan, FwVal.isSnan]
  | num s m e => cases y <;> simp_all [mulExact, FwVal.isNan, FwVal.isSnan]

@[simp] theorem isNan_neg (x : FwVal) : x.neg.isNan = x.isNan := by cases x <;> rfl

@[simp] theorem isSnan_neg (x : FwVal) : x.neg.isSnan = x.isSnan := by cases x <;> rfl

/-- The canonical NaN that the operations of two operands answer where one is a NaN (R50). -/
theorem operations_of_nan {a b : Lane} (h : (fwUnpack a).isNan = true ∨ (fwUnpack b).isNan = true) :
    let r : Lane × Flags := nanResult ((fwUnpack a).isSnan || (fwUnpack b).isSnan)
    fwAdd a b = r ∧ fwSub a b = r ∧ fwMul a b = r ∧ ∀ cm ce k, newtonStep cm ce k a b = r := by
  have hmul := mulExact_of_nan h
  refine ⟨fwAddVal_of_nan h, ?_, ?_, fun cm ce k => ?_⟩
  · rw [fwSub, fwAddVal_of_nan (by simpa using h), isSnan_neg]
  · rw [fwMul, hmul]
    rfl
  · simp only [newtonStep, hmul]
    rw [if_pos (by simpa using h)]

/-! ## Infinities times zeros -/

/-- An infinity times a zero, in either order. -/
def InfTimesZero (a b : Lane) : Prop := (∃ s z, a = fwInf s ∧ b = fwZero z) ∨ ∃ s z, b = fwInf s ∧ a = fwZero z

theorem mulExact_infTimesZero {a b : Lane} (h : InfTimesZero a b) : mulExact (fwUnpack a) (fwUnpack b) = (.nan false, true) := by
  obtain ⟨s, z, rfl, rfl⟩ | ⟨s, z, rfl, rfl⟩ := h <;> simp [mulExact]

/-- Apart from NaN operands and infinities times zeros a product is a value. -/
theorem isNan_mulExact {a b : Lane} (h : ¬ InfTimesZero a b) (ha : (fwUnpack a).isNan = false) (hb : (fwUnpack b).isNan = false) :
    (mulExact (fwUnpack a) (fwUnpack b)).1.isNan = false := by
  have hzero {x : Lane} {s m e} (hx : fwUnpack x = .num s m e) (hm : m = 0) : x = fwZero s := eq_fwZero_of_unpack (hm ▸ hx)
  cases hx : fwUnpack a with
  | nan s => simp [hx, FwVal.isNan] at ha
  | inf s =>
    cases hy : fwUnpack b with
    | nan t => simp [hy, FwVal.isNan] at hb
    | inf t => rfl
    | num t n f =>
      have hn : n ≠ 0 := fun hn => h (.inl ⟨s, t, eq_fwInf_of_unpack hx, hzero hy hn⟩)
      simp [mulExact, hn, FwVal.isNan]
  | num s m e =>
    cases hy : fwUnpack b with
    | nan t => simp [hy, FwVal.isNan] at hb
    | inf t =>
      have hm : m ≠ 0 := fun hm => h (.inr ⟨t, s, eq_fwInf_of_unpack hy, hzero hx hm⟩)
      simp [mulExact, hm, FwVal.isNan]
    | num t n f => rfl

/-- A fused product-sum whose product is a NaN. -/
theorem fwFma_of_nan_product (np nc : Bool) {a b c : Lane} {s nv : Bool} (h : mulExact (fwUnpack a) (fwUnpack b) = (.nan s, nv)) :
    fwFma np nc a b c = nanResult (nv || (fwUnpack c).isSnan) := by
  simp only [fwFma, h]
  cases nc <;> simp

/-- A fused product-sum whose product is no NaN adds it. -/
theorem fwFma_of_product (np nc : Bool) {a b c : Lane} (h : (mulExact (fwUnpack a) (fwUnpack b)).1.isNan = false) :
    fwFma np nc a b c = fwAddVal (if np then (mulExact (fwUnpack a) (fwUnpack b)).1.neg else (mulExact (fwUnpack a) (fwUnpack b)).1)
      (if nc then (fwUnpack c).neg else fwUnpack c) := by
  cases hp : (mulExact (fwUnpack a) (fwUnpack b)).1 with
  | nan s => simp [hp, FwVal.isNan] at h
  | inf s => simp only [fwFma, hp]
  | num s m e => simp only [fwFma, hp]

theorem isSnan_of_not_nan {x : FwVal} (h : x.isNan = false) : x.isSnan = false := by cases x <;> simp_all [FwVal.isNan, FwVal.isSnan]

theorem fwFma_infTimesZero (np nc : Bool) {a b : Lane} (c : Lane) (h : InfTimesZero a b) : fwFma np nc a b c = nanResult true :=
  (fwFma_of_nan_product np nc (mulExact_infTimesZero h)).trans (by rw [Bool.true_or])

theorem fwFma_of_nan (np nc : Bool) {a b c : Lane} (h : ¬ InfTimesZero a b)
    (hnan : (fwUnpack a).isNan = true ∨ (fwUnpack b).isNan = true ∨ (fwUnpack c).isNan = true) :
    fwFma np nc a b c = nanResult ((fwUnpack a).isSnan || (fwUnpack b).isSnan || (fwUnpack c).isSnan) := by
  by_cases hab : (fwUnpack a).isNan = true ∨ (fwUnpack b).isNan = true
  · exact fwFma_of_nan_product np nc (mulExact_of_nan hab)
  · obtain ⟨ha, hb⟩ : (fwUnpack a).isNan = false ∧ (fwUnpack b).isNan = false := by simpa using hab
    have hc : (fwUnpack c).isNan = true := by simpa [ha, hb] using hnan
    have hp := isNan_mulExact h ha hb
    rw [fwFma_of_product np nc hp, fwAddVal_of_nan (.inr (by cases nc <;> simpa using hc)), isSnan_of_not_nan ha, isSnan_of_not_nan hb,
      isSnan_of_not_nan (x := if np then _ else _) (by cases np <;> simpa using hp)]
    cases nc <;> simp

/-- The Newton steps of an infinity times a zero are their constants (R155). -/
theorem newtonStep_infTimesZero {a b : Lane} (h : InfTimesZero a b) (cm : Nat) (ce k : Int) : newtonStep cm ce k a b = fwRound false cm ce := by
  have hnan : ¬ ((fwUnpack a).isNan = true ∨ (fwUnpack b).isNan = true) := by
    obtain ⟨s, z, rfl, rfl⟩ | ⟨s, z, rfl, rfl⟩ := h <;> simp [FwVal.isNan]
  simp only [newtonStep, mulExact_infTimesZero h]
  rw [if_neg (by simpa using hnan)]

/-! ## Infinities -/

section
variable (s : Bool) {b : Lane} (hb : fwFinite b = true) (h0 : fwUnits b ≠ 0)
include hb h0

theorem mulExact_fwInf : mulExact (fwUnpack (fwInf s)) (fwUnpack b) = (.inf (s != fwSign b), false) := by
  obtain ⟨n, j, -, hb⟩ := fwUnpack_of_finite hb
  rw [fwUnits_of_num hb, ne_eq, fwUnitsOf_eq_zero] at h0
  rw [hb, fwUnpack_fwInf]
  simp [mulExact, h0]

theorem newtonStep_fwInf (cm : Nat) (ce k : Int) : newtonStep cm ce k (fwInf s) b = (fwInf !(s != fwSign b), Flags.none) := by
  simp only [newtonStep, mulExact_fwInf s hb h0]

theorem fwFma_fwInf (np nc : Bool) (c : Lane) :
    fwFma np nc (fwInf s) b c = fwAddVal (.inf ((s != fwSign b) != np)) (if nc then (fwUnpack c).neg else fwUnpack c) := by
  have hp := mulExact_fwInf s hb h0
  rw [fwFma_of_product np nc (by rw [hp]; rfl), hp]
  cases np <;> simp [FwVal.neg]

end

end Sys2Proof.Machine
end

section
/-! SUPPORT. The divide steps and LG6 products (R57, R154): the tables hold nearest integers, and their entries scaled are FW40 numbers. -/

namespace Sys2Proof.Machine

open Sys2Proof.Safety

/-! ## Tables -/

theorem rneDiv_nearest (num : Nat) {den : Nat} (hden : 0 < den) : NearestEven num den (rneDiv num den) := by
  have hdiv : num / den * den + num % den = num := Nat.div_add_mod' num den
  have hlt : num % den < den := Nat.mod_lt _ hden
  have hup : (num / den + 1) * den = num / den * den + den := by ring
  unfold rneDiv
  dsimp only
  split_ifs <;> exact ⟨by omega, by omega, by omega⟩

theorem frcpiTable_nearest (j : Nat) : NearestEven (2 ^ 19) (513 + 2 * j) (frcpiTable j) := by
  have h : 2 ^ 19 = 524288 := by norm_num
  rw [frcpiTable, h]
  exact rneDiv_nearest _ (by omega)

theorem frcpiTable_bounds {j : Nat} (hj : j < 256) : 512 ≤ frcpiTable j ∧ frcpiTable j < 2 ^ 10 := by
  have h := frcpiTable_nearest j
  have hle := h.le (k := 1023) (by omega)
  exact ⟨h.ge (by omega), by omega⟩

theorem sqrtFloor_spec {num den : Nat} (n : Nat) {acc : Nat} (hle : acc ^ 2 * den ≤ num) (hlt : num < (acc + 2 ^ n) ^ 2 * den) :
    sqrtFloor num den n acc ^ 2 * den ≤ num ∧ num < (sqrtFloor num den n acc + 1) ^ 2 * den := by
  induction n generalizing acc with
  | zero => exact ⟨hle, hlt⟩
  | succ n ih =>
    have hhalves : acc + 2 ^ n + 2 ^ n = acc + 2 ^ (n + 1) := by ring
    simp only [sqrtFloor, ← pow_two]
    split_ifs with h
    · exact ih h (by rwa [hhalves])
    · exact ih hle (by omega)

/-- Whether the midpoint above the floor of a root lies below it decides which integer is the nearest. -/
theorem sqrt_nearest_of_floor {num den s : Nat} (hle : s ^ 2 * den ≤ num) (hlt : num < (s + 1) ^ 2 * den) :
    let r : Nat := if (2 * s + 1) * (2 * s + 1) * den ≤ 4 * num then s + 1 else s
    (2 * r - 1) ^ 2 * den ≤ 4 * num ∧ 4 * num ≤ (2 * r + 1) ^ 2 * den := by
  dsimp only
  rw [← pow_two]
  split_ifs with hmid
  · exact ⟨hmid, by nlinarith⟩
  · refine ⟨?_, by omega⟩
    calc (2 * s - 1) ^ 2 * den ≤ (2 * s) ^ 2 * den := Nat.mul_le_mul_right _ (Nat.pow_le_pow_left (by omega) 2)
      _ = 4 * (s ^ 2 * den) := by ring
      _ ≤ 4 * num := by omega

theorem rneSqrt_nearest {num den : Nat} (h : num < (0 + 2 ^ 12) ^ 2 * den) :
    (2 * rneSqrt num den - 1) ^ 2 * den ≤ 4 * num ∧ 4 * num ≤ (2 * rneSqrt num den + 1) ^ 2 * den := by
  obtain ⟨hle, hlt⟩ := sqrtFloor_spec 12 (acc := 0) (by simp) h
  exact sqrt_nearest_of_floor hle hlt

theorem frsqiTable_nearest (j : Nat) :
    (2 * frsqiTable j - 1) ^ 2 * (129 + 2 * j) ≤ 2 ^ 29 ∧ 2 ^ 29 ≤ (2 * frsqiTable j + 1) ^ 2 * (129 + 2 * j) := by
  have h : 2 ^ 29 = 4 * 134217728 := by norm_num
  rw [frsqiTable, h]
  exact rneSqrt_nearest (by omega)

theorem frsqiTable_bounds {j : Nat} (hj : j < 192) : frsqiTable j ≠ 0 ∧ frsqiTable j < 2 ^ 10 := by
  obtain ⟨hle, hge⟩ := frsqiTable_nearest j
  constructor
  · intro h
    rw [h] at hge
    omega
  · by_contra h
    have : 2047 ^ 2 * 129 ≤ (2 * frsqiTable j - 1) ^ 2 * (129 + 2 * j) := Nat.mul_le_mul (Nat.pow_le_pow_left (by omega) 2) (by omega)
    omega

/-! ## Exact roundings -/

theorem bitLen_le {m k : Nat} (hm : m ≠ 0) (h : m < 2 ^ k) : bitLen m ≤ k := by
  rw [bitLen_of_ne hm]
  exact (Nat.log2_lt hm).mpr h

/-- A significand of at most 30 bits, shifted up as far as its width and the least quantum let it, is a number of FW40. -/
theorem exists_fwNumber (s : Bool) {m : Nat} {e : Int} (hm : m ≠ 0) (hbits : bitLen m ≤ 30) (he : -539 ≤ e) (hmax : e + bitLen m ≤ 512) :
    ∃ n i : Nat, FwNumber n i ∧ fwUnitsOf s n (i - 539) = fwUnitsOf s m e := by
  have hlen := bitLen_of_ne hm
  obtain ⟨k, hk⟩ : ∃ k, k = min (e + 539).toNat (30 - bitLen m) := ⟨_, rfl⟩
  refine ⟨m * 2 ^ k, (e + 539).toNat - k, ⟨?_, fun hi => ?_, by omega⟩, ?_⟩
  · calc m * 2 ^ k < 2 ^ (m.log2 + 1) * 2 ^ k := Nat.mul_lt_mul_of_pos_right Nat.lt_log2_self (by positivity)
      _ = 2 ^ (m.log2 + 1 + k) := (pow_add ..).symm
      _ ≤ 2 ^ 30 := Nat.pow_le_pow_right (by omega) (by omega)
  · calc 2 ^ 29 = 2 ^ m.log2 * 2 ^ k := by rw [← pow_add]; congr 1; omega
      _ ≤ m * 2 ^ k := Nat.mul_le_mul_right _ (Nat.log2_self_le hm)
  · rw [fwUnitsOf, fwUnitsOf, mul_assoc, ← pow_add]
    congr 3
    omega

theorem fwRound_sat (s : Bool) (m : Nat) (e : Int) : (fwRound s m e).2.sat = false := by
  unfold fwRound
  dsimp only
  split_ifs <;> rfl

theorem fwWord_of_fwNumber (s : Bool) {n i : Nat} (h : FwNumber n i) :
    fwFinite (fwWord s n (i - 539)) = true ∧ fwUnits (fwWord s n (i - 539)) = fwUnitsOf s n (i - 539) :=
  ⟨fwFinite_of_num (fwUnpack_fwWord s h), fwUnits_of_num (fwUnpack_fwWord s h)⟩

/-- Every number of FW40 lies below the threshold of overflow. -/
theorem FwNumber.lt_overflow {n i : Nat} (h : FwNumber n i) (d : Nat) : n * 2 ^ (541 + d + i) < (2 ^ 31 - 1) * 2 ^ (1561 + d) := by
  have hbits := h.bits
  calc n * 2 ^ (541 + d + i) ≤ n * (2 * 2 ^ (1561 + d)) := by
        rw [← pow_succ']
        exact Nat.mul_le_mul_left _ (Nat.pow_le_pow_right (by omega) (by have := h.binade; omega))
    _ = 2 * n * 2 ^ (1561 + d) := by rw [← mul_assoc, mul_comm n 2]
    _ < (2 ^ 31 - 1) * 2 ^ (1561 + d) := Nat.mul_lt_mul_of_pos_right (by omega) (Nat.two_pow_pos _)

/-- A number of FW40 rounded once is itself, without a flag. -/
theorem roundsOver_exact {s : Bool} {n i d : Nat} {r : Lane × Flags} (hn : FwNumber n i) (hsat : r.2.sat = false)
    (h : RoundsOver (fwUnitsOf s n (i - 539) * 2 ^ d) d r) : r.2 = Flags.none ∧ fwUnits r.1 = fwUnitsOf s n (i - 539) := by
  obtain ⟨hfin, hunits⟩ := fwWord_of_fwNumber s hn
  obtain ⟨-, hnv, hdz, h⟩ := h
  have hunder : (fwUnitsOf s n (i - 539) * 2 ^ d).natAbs < (2 ^ 31 - 1) * 2 ^ (1561 + d) := by
    rw [fwUnitsOf_binade, natAbs_signed]
    exact hn.lt_overflow d
  rw [if_neg (Nat.not_le.mpr hunder)] at h
  obtain ⟨-, hov, hnx, huf, hnear⟩ := h
  have hsame : fwUnits r.1 * 2 ^ d = fwUnitsOf s n (i - 539) * 2 ^ d := by
    have hdist := (hnear _ hfin).1
    rw [hunits] at hdist
    omega
  have hexact : r.2.nx = false := by rw [hnx, hsame]; simp
  rw [hexact, Bool.and_false] at huf
  refine ⟨?_, Int.eq_of_mul_eq_mul_right (pow_ne_zero d (by decide)) hsame⟩
  calc r.2 = ⟨r.2.nv, r.2.dz, r.2.ov, r.2.uf, r.2.nx, r.2.sat⟩ := rfl
    _ = Flags.none := by rw [hnv, hdz, hov, huf, hexact, hsat]; rfl

/-- What FW40 can hold is rounded to itself, without a flag. -/
theorem fwRound_exact (s : Bool) {m : Nat} {e : Int} (hm : m ≠ 0) (hbits : bitLen m ≤ 30) (he : -539 ≤ e) (hmax : e + bitLen m ≤ 512) :
    ∃ w : Lane, fwRound s m e = (w, Flags.none) ∧ fwSign w = s ∧ fwUnits w = fwUnitsOf s m e := by
  obtain ⟨n, i, hn, heq⟩ := exists_fwNumber s hm hbits he hmax
  have h := (fwRound_roundsOrZero s m (e := e) (by omega)).1 (by rwa [ne_eq, fwUnitsOf_eq_zero])
  have hsign : fwSign (fwRound s m e).1 = s := h.1.trans (signed_lt_zero (Nat.mul_ne_zero hm (Nat.two_pow_pos _).ne') s)
  rw [← heq, RoundsTo, ← mul_one (fwUnitsOf s n _), ← pow_zero 2] at h
  obtain ⟨hflags, hunits⟩ := roundsOver_exact hn (fwRound_sat s m e) h
  exact ⟨_, Prod.ext rfl hflags, hsign, hunits.trans heq⟩

/-! ## `frcpi` and `frsqi` (R154) -/

theorem laneFrcpi_of_num {a : Lane} {s : Bool} {m : Nat} {x : Int} (h : fwUnpack a = .num s m x) (hm : m ≠ 0) : laneFrcpi a =
    ((fwRound s (frcpiTable (topBits m 8)) (-expOf m x - 10)).1, { (fwRound s (frcpiTable (topBits m 8)) (-expOf m x - 10)).2 with nx := false }) := by
  simp only [laneFrcpi, h, if_neg hm]

/-- The top bits below the leading one of a magnitude that the leading bit and `j` more lead. -/
theorem topBits_eq {m : Nat} (hm : m ≠ 0) (k : Nat) : topBits m k = 2 ^ k * m / 2 ^ m.log2 - 2 ^ k := by
  rw [topBits, bitLen_of_ne hm, Nat.shiftLeft_eq, Nat.shiftRight_eq_div_pow, Nat.add_sub_cancel, Nat.mul_comm]

theorem topBits_lt {m : Nat} (hm : m ≠ 0) (k : Nat) : topBits m k < 2 ^ k := by
  rw [topBits_eq hm]
  have h : 2 ^ k * m / 2 ^ m.log2 < 2 ^ k * 2 := by
    rw [Nat.div_lt_iff_lt_mul (by positivity), mul_assoc, ← pow_succ']
    exact Nat.mul_lt_mul_of_pos_left Nat.lt_log2_self (by positivity)
  have hpos := Nat.two_pow_pos k
  omega

/-- `frcpi` of a normal word is its table entry scaled, without a flag. -/
theorem laneFrcpi_of_normal {a : Lane} (h0 : fwExp a ≠ 0) (h1 : fwExp a ≠ 1023) :
    (laneFrcpi a).2 = Flags.none ∧ fwSign (laneFrcpi a).1 = fwSign a ∧
      (fwUnits (laneFrcpi a).1).natAbs = frcpiTable (fwFrac a / 2 ^ 21) * 2 ^ (1581 - fwExp a) := by
  have hfrac := fwFrac_lt a
  have hexp := fwExp_lt a
  have hlog : (2 ^ 29 + fwFrac a).log2 = 29 := (Nat.log2_eq_iff (by omega)).mpr (by omega)
  have hunpack : fwUnpack a = .num (fwSign a) (2 ^ 29 + fwFrac a) (fwExp a - 540) := by rw [fwUnpack_eq_num h1, if_neg h0]
  have hindex : topBits (2 ^ 29 + fwFrac a) 8 = fwFrac a / 2 ^ 21 := by
    rw [topBits_eq (by omega), hlog]
    omega
  have hscale : -expOf (2 ^ 29 + fwFrac a) (fwExp a - 540) - 10 = 501 - fwExp a := by
    rw [expOf, bitLen_of_ne (by omega), hlog]
    omega
  obtain ⟨hlo, hhi⟩ := frcpiTable_bounds (j := fwFrac a / 2 ^ 21) (by omega)
  have hlen := bitLen_le (by omega) hhi
  obtain ⟨w, hround, hsign, hunits⟩ := fwRound_exact (fwSign a) (m := frcpiTable (fwFrac a / 2 ^ 21)) (e := 501 - fwExp a) (by omega) (by omega) (by omega)
    (by omega)
  rw [laneFrcpi_of_num hunpack (by omega), hindex, hscale, hround]
  refine ⟨rfl, hsign, ?_⟩
  have hpow : (501 - (fwExp a : Int) + 1080).toNat = 1581 - fwExp a := by omega
  rw [hunits, fwUnitsOf, natAbs_signed, hpow]

/-- Over the exponent `k` of its leading bit in units of 2^−1080, the parity of `k` chooses the half of the table of `frsqi`. -/
theorem laneFrsqi_of_num {a : Lane} {m k : Nat} {x : Int} (h : fwUnpack a = .num false m x) (hm : m ≠ 0) (hk : (k : Int) = x + m.log2 + 1080) :
    laneFrsqi a =
      let r := fwRound false (frsqiTable (if k % 2 = 0 then topBits m 6 else topBits m 7 + 64)) (530 - (k / 2 : Nat))
      (r.1, { r.2 with nx := false }) := by
  have hexp : expOf m x = k - 1080 := by
    rw [expOf, bitLen_of_ne hm]
    omega
  simp only [laneFrsqi, h, if_neg hm, hexp]
  obtain hpar | hpar := Nat.mod_two_eq_zero_or_one k
  · have heven : ((k : Int) - 1080) % 2 = 0 := by omega
    have hscale : -(((k : Int) - 1080) / 2) - 10 = 530 - (k / 2 : Nat) := by omega
    simp [hpar, heven, hscale]
  · have hodd : ((k : Int) - 1080) % 2 = 1 := by omega
    have hscale : -(((k : Int) - 1080 - 1) / 2) - 10 = 530 - (k / 2 : Nat) := by omega
    simp [hpar, hodd, hscale]

theorem signed_false (m : Nat) : signed false m = m := rfl

/-- A positive finite word, by the shift `c` of its significand in units of 2^−1080. -/
theorem fwUnpack_of_pos {a : Lane} (ha : fwFinite a = true) (hpos : 0 < fwUnits a) : ∃ m c : Nat, m ≠ 0 ∧ m < 2 ^ 30 ∧ 541 ≤ c ∧ c ≤ 1562 ∧
    fwUnpack a = .num false m (c - 1080) ∧ (fwUnits a).toNat = m * 2 ^ c := by
  obtain ⟨m, i, ⟨hbits, -, hbinade⟩, hunpack⟩ := fwUnpack_of_finite ha
  have hunits := fwUnits_of_num hunpack
  have hm : m ≠ 0 := fun hm => hpos.ne' (by rw [hunits, fwUnitsOf_eq_zero, hm])
  have hexp : (i : Int) - 539 = (541 + i : Nat) - 1080 := by omega
  have hpow : ((541 + i : Nat) - 1080 + 1080 : Int).toNat = 541 + i := by omega
  rw [hexp] at hunpack hunits
  cases hneg : fwSign a with
  | true =>
    rw [hunits, hneg, fwUnitsOf, signed, if_pos rfl] at hpos
    omega
  | false =>
    rw [hneg] at hunpack hunits
    refine ⟨m, 541 + i, hm, hbits, by omega, by omega, hunpack, ?_⟩
    rw [hunits, fwUnitsOf, hpow, signed_false, Int.toNat_natCast]

theorem log2_mul_two_pow {m : Nat} (hm : m ≠ 0) (c : Nat) : (m * 2 ^ c).log2 = m.log2 + c := by
  rw [Nat.log2_eq_iff (Nat.mul_ne_zero hm (Nat.two_pow_pos _).ne'), pow_add, add_right_comm, pow_add _ (m.log2 + 1)]
  exact ⟨Nat.mul_le_mul_right _ (Nat.log2_self_le hm), Nat.mul_lt_mul_of_pos_right Nat.lt_log2_self (Nat.two_pow_pos _)⟩

/-- `frsqi` of a positive word is its table entry scaled, without a flag; subnormals too. -/
theorem laneFrsqi_of_pos {a : Lane} (ha : fwFinite a = true) (hpos : 0 < fwUnits a) :
    let v : Nat := (fwUnits a).toNat
    let k : Nat := v.log2
    let j : Nat := if k % 2 = 0 then 64 * v / 2 ^ k - 64 else 128 * v / 2 ^ k - 64
    (laneFrsqi a).2 = Flags.none ∧ fwUnits (laneFrsqi a).1 = frsqiTable j * 2 ^ (1610 - k / 2) := by
  obtain ⟨m, c, hm, hbits, hlo, hhi, hunpack, hv⟩ := fwUnpack_of_pos ha hpos
  have hlog30 : m.log2 < 30 := (Nat.log2_lt hm).mpr hbits
  have htop (n : Nat) : n * (m * 2 ^ c) / 2 ^ (m.log2 + c) = n * m / 2 ^ m.log2 := by
    rw [pow_add, ← mul_assoc]
    exact Nat.mul_div_mul_right _ _ (Nat.two_pow_pos _)
  dsimp only
  rw [hv, log2_mul_two_pow hm, htop, htop, laneFrsqi_of_num hunpack hm (k := m.log2 + c) (by push_cast; ring)]
  have h6 := topBits_lt hm 6
  have h7 := topBits_lt hm 7
  have heven : 64 * m / 2 ^ m.log2 - 64 = topBits m 6 := by
    rw [topBits_eq hm]
    norm_num
  have hodd : 128 * m / 2 ^ m.log2 - 64 = topBits m 7 + 64 := by
    have hlead : 128 ≤ 128 * m / 2 ^ m.log2 := by
      rw [Nat.le_div_iff_mul_le (Nat.two_pow_pos _)]
      exact Nat.mul_le_mul_left _ (Nat.log2_self_le hm)
    have hseven : topBits m 7 = 128 * m / 2 ^ m.log2 - 128 := by
      rw [topBits_eq hm]
      norm_num
    omega
  rw [heven, hodd]
  have hj : (if (m.log2 + c) % 2 = 0 then topBits m 6 else topBits m 7 + 64) < 192 := by split_ifs <;> omega
  generalize (if (m.log2 + c) % 2 = 0 then topBits m 6 else topBits m 7 + 64) = j at hj
  obtain ⟨hT0, hT10⟩ := frsqiTable_bounds hj
  have hlen := bitLen_le hT0 hT10
  obtain ⟨w, hround, -, hunits⟩ := fwRound_exact false (e := 530 - ((m.log2 + c) / 2 : Nat)) hT0 (by omega) (by omega) (by omega)
  have hpow : (530 - ((m.log2 + c) / 2 : Nat) + 1080 : Int).toNat = 1610 - (m.log2 + c) / 2 := by omega
  rw [hround]
  refine ⟨rfl, ?_⟩
  rw [hunits, fwUnitsOf, signed_mul_two_pow, signed_false, hpow]

/-! ## Special operands of `frcpi` and `frsqi` -/

theorem laneFrcpi_fwZero (s : Bool) : laneFrcpi (fwZero s) = (fwInf s, { Flags.none with dz := true }) := by simp [laneFrcpi]

theorem laneFrsqi_fwZero (s : Bool) : laneFrsqi (fwZero s) = (fwInf s, { Flags.none with dz := true }) := by simp [laneFrsqi]

theorem laneFrcpi_fwInf (s : Bool) : laneFrcpi (fwInf s) = (fwZero s, Flags.none) := by simp [laneFrcpi]

theorem laneFrsqi_fwInf (s : Bool) : laneFrsqi (fwInf s) = if s then nanResult true else (fwZero false, Flags.none) := by simp [laneFrsqi]

theorem laneFrsqi_of_neg {a : Lane} (ha : fwFinite a = true) (hneg : fwUnits a < 0) : laneFrsqi a = nanResult true := by
  obtain ⟨m, i, -, hunpack⟩ := fwUnpack_of_finite ha
  have hunits := fwUnits_of_num hunpack
  have hm : m ≠ 0 := fun hm => hneg.ne (by rw [hunits, fwUnitsOf_eq_zero, hm])
  cases hs : fwSign a with
  | true => simp [laneFrsqi, hunpack, hs, hm]
  | false =>
    rw [hunits, hs, fwUnitsOf, signed_false] at hneg
    omega

theorem divideSteps_of_nan {a : Lane} (h : (fwUnpack a).isNan = true) :
    laneFrcpi a = nanResult (fwUnpack a).isSnan ∧ laneFrsqi a = nanResult (fwUnpack a).isSnan := by
  cases hx : fwUnpack a with
  | nan s => simp [laneFrcpi, laneFrsqi, hx, FwVal.isSnan]
  | inf s => simp [hx, FwVal.isNan] at h
  | num s m e => simp [hx, FwVal.isNan] at h

/-! ## Products of LG6 codes (R57) -/

theorem lg6Frac_lt (f : Nat) : lg6Frac f < 2 ^ 29 := by
  unfold lg6Frac
  split_ifs <;> omega

/-- The fractions of Table 2.9 are those nearest to the powers of 2 of quarter steps. -/
theorem lg6Frac_nearest : ∀ f < 4, (2 * (2 ^ 29 + lg6Frac f) - 1) ^ 4 < 2 ^ (120 + f) ∧ 2 ^ (120 + f) < (2 * (2 ^ 29 + lg6Frac f) + 1) ^ 4 := by decide

theorem lg6Image_eq (neg : Bool) (s : Int) :
    lg6Image neg s = BitVec.ofBool neg ++ (BitVec.ofNat 10 (511 + s / 4).toNat ++ BitVec.ofNat 29 (lg6Frac (s % 4).toNat) : BitVec 39) :=
  BitVec.append_assoc

theorem lg6Image_fields (neg : Bool) {s : Int} (hlo : -2044 ≤ s) (hhi : s < 2052) :
    fwSign (lg6Image neg s) = neg ∧ (fwExp (lg6Image neg s) : Int) = 511 + s / 4 ∧ fwFrac (lg6Image neg s) = lg6Frac (s % 4).toNat := by
  have hfrac := lg6Frac_lt (s % 4).toNat
  have hbody : (BitVec.ofNat 10 (511 + s / 4).toNat ++ BitVec.ofNat 29 (lg6Frac (s % 4).toNat)).toNat =
      (511 + s / 4).toNat % 2 ^ 10 * 2 ^ 29 + lg6Frac (s % 4).toNat := by
    rw [BitVec.toNat_append, BitVec.toNat_ofNat, BitVec.toNat_ofNat, Nat.mod_eq_of_lt hfrac, ← Nat.shiftLeft_add_eq_or_of_lt hfrac, Nat.shiftLeft_eq]
  rw [lg6Image_eq, fwSign_append, fwExp_append, fwFrac_append, hbody]
  exact ⟨rfl, by omega, by omega⟩

theorem lg6Mul_of_nonzero {a b : BitVec 6} (ha : a.toNat % 32 ≠ 0) (hb : b.toNat % 32 ≠ 0) :
    lg6Mul a b = (lg6Image (a.getLsbD 5 != b.getLsbD 5) ((a.toNat % 32 : Int) + b.toNat % 32 - 32), Flags.none) := by
  have hne {c : BitVec 6} (hc : c.toNat % 32 ≠ 0) : c ≠ 0x20 := by rintro rfl; exact hc rfl
  have hcode (c : BitVec 6) : (c.extractLsb' 0 5).toNat = c.toNat % 32 := by rw [BitVec.extractLsb'_toNat, Nat.shiftRight_zero]
  simp only [lg6Mul, hcode]
  rw [if_neg (not_or.mpr ⟨hne ha, hne hb⟩), if_neg (by omega)]
  push_cast
  rfl

end Sys2Proof.Machine
end

section
/-! SUPPORT. The statement on FW40 rounding, settled from the lemmas above. -/

namespace Sys2Proof.Machine

open Sys2Proof.Safety

/-- Settles O25: the finite operations are exact results rounded once, and the special operands, the tables and the LG6 products are taken one by one. -/
theorem floatRounding : Obligations.FloatRounding := by
  unfold Obligations.FloatRounding
  refine ⟨?finite, ?nan, ?fma, ?infinite, ?newton, ?sum, ?product, ?frcpiTable, ?frsqiTable, ?frcpi, ?frsqi, ?special, ?lg6⟩
  case finite =>
    intro a b ha hb
    obtain ⟨hthree, htwice⟩ := newtonStep_three_roundsOrZero ha hb
    obtain ⟨hadd, hadd0⟩ := fwAdd_roundsOrZero ha hb
    obtain ⟨hsub, hsub0⟩ := fwSub_roundsOrZero ha hb
    obtain ⟨hmul, hmul0⟩ := fwMul_roundsOrZero ha hb
    obtain ⟨htwo, htwo0⟩ := newtonStep_two_roundsOrZero ha hb
    refine ⟨hadd, hadd0, hsub, hsub0, hmul, hmul0, htwo, htwo0, fun hne => hthree.1 ?_, fun h0 => hthree.2 ?_,
      fun c np nc hc => fwFma_roundsOrZero ha hb np nc hc⟩
    · rw [← htwice] at hne
      exact fun h => hne (by rw [h, mul_zero])
    · rw [h0, Int.zero_ediv]
  case nan =>
    intro a b h
    obtain ⟨hadd, hsub, hmul, hnewton⟩ := operations_of_nan h
    exact ⟨hadd, hsub, hmul, hnewton 2 0 0, hnewton 3 (-1) (-1)⟩
  case fma =>
    intro a b c np nc
    exact ⟨fwFma_infTimesZero np nc c, fwFma_of_nan np nc⟩
  case infinite =>
    intro s t np nc b c hb h0
    refine ⟨newtonStep_fwInf s hb h0 2 0 0, newtonStep_fwInf s hb h0 3 (-1) (-1), fun hc => ?_, ?_⟩ <;> rw [fwFma_fwInf s hb h0]
    · obtain ⟨n, i, -, hc⟩ := fwUnpack_of_finite hc
      cases nc <;> simp [hc, FwVal.neg, fwAddVal]
    · cases nc <;> simp [FwVal.neg, fwAddVal] <;> rfl
  case newton =>
    intro s z
    have htwo : fwRound false 2 0 = (0x4000000000, Flags.none) := by decide
    have hthree : fwRound false 3 (-1) = (0x3FF0000000, Flags.none) := by decide
    have hleft : InfTimesZero (fwInf s) (fwZero z) := .inl ⟨s, z, rfl, rfl⟩
    have hright : InfTimesZero (fwZero z) (fwInf s) := .inr ⟨s, z, rfl, rfl⟩
    rw [newtonStep_infTimesZero hleft, newtonStep_infTimesZero hright, newtonStep_infTimesZero hleft, newtonStep_infTimesZero hright]
    exact ⟨htwo, htwo, hthree, hthree⟩
  case sum =>
    intro neg
    simp [fwAdd, fwAddVal, nanResult, fwNaN, Flags.invalid]
  case product =>
    intro neg sgn
    simp only [fwMul, mulExact_infTimesZero (.inl ⟨neg, sgn, rfl, rfl⟩)]
    rfl
  case frcpiTable =>
    intro j _
    obtain ⟨below, above, -⟩ := frcpiTable_nearest j
    have hprod : (513 + 2 * j : Int) * frcpiTable j = (frcpiTable j * (513 + 2 * j) : Nat) := by
      push_cast
      ring
    rw [hprod]
    omega
  case frsqiTable => exact fun j _ => frsqiTable_nearest j
  case frcpi => exact fun a => laneFrcpi_of_normal
  case frsqi => exact fun a => laneFrsqi_of_pos
  case special =>
    intro a
    refine ⟨?_, ?_, ?_, ?_, divideSteps_of_nan⟩
    · rintro neg rfl
      exact ⟨laneFrcpi_fwZero neg, laneFrsqi_fwZero neg⟩
    · rintro neg rfl
      exact laneFrcpi_fwInf neg
    · rintro rfl
      exact laneFrsqi_fwInf false
    · rintro (rfl | ⟨ha, hneg⟩)
      · exact laneFrsqi_fwInf true
      · exact laneFrsqi_of_neg ha hneg
  case lg6 =>
    intro a b ha hb
    dsimp only
    rw [lg6Mul_of_nonzero ha hb]
    obtain ⟨hsign, hexp, hfrac⟩ := lg6Image_fields (a.getLsbD 5 != b.getLsbD 5) (s := (a.toNat % 32 : Int) + b.toNat % 32 - 32) (by omega) (by omega)
    rw [hfrac]
    exact ⟨rfl, hsign, hexp, lg6Frac_nearest _ (by omega)⟩

end Sys2Proof.Machine
end

section
/-! SUPPORT. The canonical form of memory as an invariant (R72, R351; log entry 3): its rules, and that the writes of memory keep it. -/

set_option Elab.async false

namespace Sys2Proof.Safety

open Sys2Proof Sys2Proof.Machine

variable {s t : State} {u : UnitId} {w : WorkUnit} {c : Cmd128} {x : Ctx} {e : Site} {o : EngOp} {k : ChainId} {rd : Reg} {f : PcieFn} {val : Word}
  {cause : BitVec 16} {asid : BitVec 12} {bs : List Byte} {it : Inst} {n job q va dpa l j : Nat}

/-! ## The invariant -/

theorem MemOk.intro (hmem : Memory.wf s.mem = true) (hsys : Memory.wf s.sysMem = true) (hsnap : ∀ d, s.snap = some d → Memory.wf d.mem = true) :
    MemOk s := ⟨hmem, hsys, hsnap⟩

theorem MemOk.mem (h : MemOk s) : Memory.wf s.mem = true := h.1
theorem MemOk.sysMem (h : MemOk s) : Memory.wf s.sysMem = true := h.2.1
theorem MemOk.snap (h : MemOk s) : ∀ d, s.snap = some d → Memory.wf d.mem = true := h.2.2

/-- A state with the same three memories. -/
theorem MemOk.same (h : MemOk s) (hmem : t.mem = s.mem := by rfl) (hsys : t.sysMem = s.sysMem := by rfl) (hsnap : t.snap = s.snap := by rfl) :
    MemOk t := .intro (hmem ▸ h.mem) (hsys ▸ h.sysMem) (hsnap ▸ h.snap)

theorem MemOk.putBytes {a : Nat} (h : MemOk s) : MemOk { s with mem := putBytes s.mem a bs } := .intro (putBytes_wf _ _ _ h.mem) h.sysMem h.snap

/-- A boundary takes the present device as the one that a rollback returns to (R351). -/
theorem MemOk.of_snap (h : MemOk s) (hmem : t.mem = s.mem := by rfl) (hsys : t.sysMem = s.sysMem := by rfl)
    (hsnap : t.snap = some s.toDev := by rfl) : MemOk t := by
  refine .intro (hmem ▸ h.mem) (hsys ▸ h.sysMem) fun d hd => ?_
  have hdev : s.toDev = d := Option.some.inj (hsnap.symm.trans hd)
  exact hdev ▸ h.mem

theorem MemOk.ite {c : Prop} [Decidable c] (hs : MemOk s) (ht : MemOk t) : MemOk (if c then s else t) := by
  split
  · exact hs
  · exact ht

theorem MemOk.foldl {α : Type} {f : State → α → State} {l : List α} (h : MemOk s) (hf : ∀ s x, MemOk s → MemOk (f s x)) :
    MemOk (l.foldl f s) := by
  induction l generalizing s with
  | nil => exact h
  | cons x l ih => exact ih (hf s x h)

theorem MemOk.foldlFst {α β : Type} {f : State × β → α → State × β} {l : List α} {r : State × β} (h : MemOk r.1)
    (hf : ∀ r x, MemOk r.1 → MemOk (f r x).1) : MemOk (l.foldl f r).1 := by
  induction l generalizing r with
  | nil => exact h
  | cons x l ih => exact ih (hf r x h)

theorem MemOk.of_pair {α : Type} {p : State × α} {x : α} (h : MemOk p.1) (e : p = (t, x)) : MemOk t := by
  subst e
  exact h

/-! ## Answers that carry a state

For each type of answer: the state that it carries, if it carries one, meets the invariant; and what that says of an
answer that has been looked at. -/

/-- The state that an outcome goes on to meets the invariant. -/
def Goes : Res → Prop
  | .next s => MemOk s
  | _ => True

theorem Goes.next {r : Res} (h : Goes r) (e : r = .next t) : MemOk t := by
  subst e
  exact h

/-- What an access answers, where it answers, meets a predicate. -/
inductive Answers {α : Type} (P : α → Prop) : Got α → Prop
  | ok {x : α} (h : P x) : Answers P (.ok x)
  | bad {c : BitVec 16} {va : Nat} : Answers P (.bad c va)
  | waits {on : List (Phys × Nat)} : Answers P (.waits on)

section
variable {α β : Type} {P : α → Prop} {Q : β → Prop} {g : Got α}

theorem Answers.value {x : α} (h : Answers P g) (e : g = .ok x) : P x := by
  subst e
  cases h
  assumption

theorem Answers.ite {c : Prop} [Decidable c] {g' : Got α} (h : Answers P g) (h' : Answers P g') : Answers P (if c then g else g') := by
  split
  · exact h
  · exact h'

theorem Answers.bind {f : α → Got β} (h : Answers P g) (hf : ∀ x, P x → Answers Q (f x)) : Answers Q (g.bind f) := by
  cases h with
  | ok h => exact hf _ h
  | bad => exact .bad
  | waits => exact .waits

theorem Answers.map {f : α → β} (h : Answers P g) (hf : ∀ x, P x → Q (f x)) : Answers Q (g.map f) := h.bind fun x hx => .ok (hf x hx)

theorem answers_true : Answers (fun _ => True) g := by
  cases g with
  | ok x => exact .ok trivial
  | bad c va => exact .bad
  | waits on => exact .waits

/-- Going on with an answer of which nothing is known. -/
theorem answers_bind {f : α → Got β} (hf : ∀ x, Answers Q (f x)) : Answers Q (g.bind f) := answers_true.bind fun x _ => hf x

theorem answers_map {f : α → β} (hf : ∀ x, Q (f x)) : Answers Q (g.map f) := answers_true.map fun x _ => hf x

end

/-- The state of an answer that is a state and something besides. -/
theorem Answers.state {α : Type} {g : Got (State × α)} {x : α} (h : Answers (fun p => MemOk p.1) g) (e : g = .ok (t, x)) : MemOk t := h.value e

theorem Answers.getD {g : Got State} (h : Answers MemOk g) (hs : MemOk s) : MemOk (g.getD s) := by
  cases h with
  | ok h => exact h
  | bad => exact hs
  | waits => exact hs

/-- The state of an answer that may be none. -/
def OptionOk : Option State → Prop
  | some s => MemOk s
  | none => True

theorem OptionOk.some {r : Option State} (h : OptionOk r) (e : r = Option.some t) : MemOk t := by
  subst e
  exact h

theorem OptionOk.map {r : Option State} {g : State → State} (h : OptionOk r) (hg : ∀ s, MemOk s → MemOk (g s)) : OptionOk (r.map g) := by
  cases r with
  | none => trivial
  | some s => exact hg s h

/-- The outcome of a fetch that gives no instruction. -/
def FetchedOk : Fetched → Prop
  | .not r => Goes r
  | .got _ _ => True

theorem FetchedOk.not {y : Fetched} {r : Res} (h : FetchedOk y) (e : y = .not r) : Goes r := by
  subst e
  exact h

/-- The state after the issue of a command. -/
def IssuedOk : Issued → Prop
  | .st s _ => MemOk s
  | _ => True

theorem IssuedOk.st {r : Issued} {c : Nat} (h : IssuedOk r) (e : r = .st t c) : MemOk t := by
  subst e
  exact h

theorem IssuedOk.ite {c : Prop} [Decidable c] {r r' : Issued} (h : IssuedOk r) (h' : IssuedOk r') : IssuedOk (if c then r else r') := by
  split
  · exact h
  · exact h'

/-- The state in which a memory operation waits, or after it. -/
def IssueResOk : IssueRes → Prop
  | .waits s _ => MemOk s
  | .done s _ => MemOk s
  | _ => True

theorem IssueResOk.waits {r : IssueRes} {on : List (Phys × Nat)} (h : IssueResOk r) (e : r = .waits t on) : MemOk t := by
  subst e
  exact h

theorem IssueResOk.done {r : IssueRes} {x : Token} (h : IssueResOk r) (e : r = .done t x) : MemOk t := by
  subst e
  exact h

/-- The state after one step of landing a copy. -/
def LandOk : Land → Prop
  | .go s => MemOk s
  | .stop s => MemOk s

theorem LandOk.go {r : Land} (h : LandOk r) (e : r = .go t) : MemOk t := by
  subst e
  exact h

theorem LandOk.stop {r : Land} (h : LandOk r) (e : r = .stop t) : MemOk t := by
  subst e
  exact h

/-- The state after a service action's turn. -/
def ServedOk : Served → Prop
  | .ends s _ => MemOk s
  | .goesOn s => MemOk s

theorem ServedOk.ends {r : Served} {c : Nat} (h : ServedOk r) (e : r = .ends t c) : MemOk t := by
  subst e
  exact h

theorem ServedOk.goesOn {r : Served} (h : ServedOk r) (e : r = .goesOn t) : MemOk t := by
  subst e
  exact h

/-- The state after a unit has posted a packet. -/
def PostedOk : Posted → Prop
  | .posted s _ => MemOk s
  | _ => True

theorem PostedOk.posted {r : Posted} {c : Nat} (h : PostedOk r) (e : r = .posted t c) : MemOk t := by
  subst e
  exact h

/-- The state after a restore. -/
def RestoredOk : Restored → Prop
  | .ok s => MemOk s
  | _ => True

theorem RestoredOk.ok {r : Restored} (h : RestoredOk r) (e : r = .ok t) : MemOk t := by
  subst e
  exact h

/-- The state after a firing, or in which one has trapped. -/
def FireResOk : FireRes → Prop
  | .fired s => MemOk s
  | .trapped s _ _ _ => MemOk s
  | .idle => True

theorem FireResOk.fired {r : FireRes} (h : FireResOk r) (e : r = .fired t) : MemOk t := by
  subst e
  exact h

theorem FireResOk.trapped {r : FireRes} {c : BitVec 16} {v : Word} {ts : List Token} (h : FireResOk r) (e : r = .trapped t c v ts) : MemOk t := by
  subst e
  exact h

/-! ## Writes, accesses and fault records -/

theorem memOk_reset : MemOk State.reset := .intro rfl rfl fun _ e => nomatch e

theorem MemOk.wake (h : MemOk s) : MemOk (wake s) := h.same

theorem MemOk.logPage {p : Nat} (h : MemOk s) : MemOk (logPage s p) := by
  unfold Machine.logPage
  extract_lets f f1 f2
  exact h.same

theorem MemOk.writeDpa {a : Nat} (h : MemOk s) : MemOk (writeDpa s a bs) :=
  .intro (writeDpa_wf s a bs h.mem) (by rw [writeDpa_eq]; exact h.sysMem) (by rw [writeDpa_eq]; exact h.snap)

theorem MemOk.writeRaw {p : Phys} (h : MemOk s) : MemOk (writeRaw s p bs) := by
  cases p with
  | dpa a => exact h.writeDpa
  | rep a set => exact h.foldl fun _ _ ht => ht.writeDpa
  | sys a => exact .intro h.mem (putBytes_wf _ _ _ h.sysMem) h.snap
  | aperture d o => exact h
  | queue d g o => exact h

theorem MemOk.writePhys {p : Phys} (h : MemOk s) : MemOk (writePhys s p bs) := h.writeRaw.wake

theorem MemOk.setFull {a : Nat} {b : Bool} (h : MemOk s) : MemOk (setFull s a b) := h.same

theorem MemOk.putUnit (h : MemOk s) : MemOk (putUnit s u w) := h.same

theorem MemOk.onUnit {f : UnitId → WorkUnit → Res} (h : MemOk s) (hf : ∀ u w, Goes (f u w)) : Goes (onUnit s f) := by
  unfold Machine.onUnit
  split
  · trivial
  · split
    · trivial
    · split
      · exact hf _ _
      · exact h

theorem MemOk.retire {v : Word} (h : MemOk s) : Goes (retire s u w rd v) := h.putUnit

theorem MemOk.markExternal {p : Phys} (h : MemOk s) : MemOk (markExternal s job p) := by
  unfold Machine.markExternal
  split
  · exact h.same
  · exact h

theorem MemOk.storeVa {by_ : Option Nat} (h : MemOk s) : Answers MemOk (storeVa s asid by_ va bs) := by
  unfold Machine.storeVa
  dsimp only
  refine answers_bind fun x => ?_
  split
  · exact .waits
  refine .ok ?_
  refine h.foldl fun t x ht => ?_
  split
  · exact ht.writePhys.markExternal
  · exact ht.writePhys

theorem MemOk.storeExempt (h : MemOk s) : Answers MemOk (storeExempt s asid va bs) := by
  unfold Machine.storeExempt
  refine answers_map fun x => ?_
  split
  · exact h.same
  · exact h.foldl fun _ _ ht => ht.writePhys

theorem MemOk.storeObj (h : MemOk s) : Answers MemOk (storeObj s job asid va bs) := by
  unfold Machine.storeObj
  split
  · split
    · exact .ok h
    · exact .bad
  · exact h.storeVa

theorem MemOk.putChain {c : Chain} (h : MemOk s) : MemOk (putChain s k c) := h.same

theorem MemOk.modBound {f : Bound → Bound} (h : MemOk s) : MemOk (modBound s k f) := h.same

theorem MemOk.raiseMsix {v : Nat} (h : MemOk s) : MemOk (raiseMsix s f v) := h.same

theorem MemOk.raiseQueue (h : MemOk s) : MemOk (raiseQueue s q) := by
  unfold Machine.raiseQueue
  split
  · split
    · exact h.raiseMsix
    · exact h
  · exact h

theorem MemOk.doomJob (h : MemOk s) : MemOk (doomJob s job cause) := h.same

theorem MemOk.storeOr (h : MemOk s) : MemOk (storeOr s job asid va bs) := by
  unfold Machine.storeOr
  split
  · exact h.storeVa.value ‹_›
  · exact h.doomJob.ite h
  · exact h

theorem MemOk.putRecord {j : Job} {root : Option Nat} {r : FaultRec} (h : MemOk s) : Answers MemOk (putRecord s job j root r) := by
  unfold Machine.putRecord
  refine h.storeExempt.bind fun x hx => ?_
  refine hx.same.storeExempt.map fun x hx => ?_
  split
  · exact hx.raiseQueue
  · exact hx

theorem MemOk.saveFault {root : Option Nat} {handle : Word} (h : MemOk s) : MemOk (saveFault s job root handle va) := by
  unfold Machine.saveFault
  split
  · exact h
  · exact (h.ite (h.putRecord.getD h)).doomJob

theorem MemOk.writeRecord {root : Option Nat} {r : FaultRec} (h : MemOk s) : MemOk (writeRecord s job root r) := by
  unfold Machine.writeRecord
  split
  · exact h
  split
  · exact h.putRecord.value ‹_›
  · exact h.saveFault
  · exact h

theorem MemOk.launchFaults (h : MemOk s) : MemOk (launchFaults s w cause) := h.same

theorem MemOk.markFaulted (h : MemOk s) : MemOk (markFaulted s u w cause) := h.same.launchFaults

theorem MemOk.setNunit (h : MemOk s) : MemOk (setNunit s job n) := by
  unfold Machine.setNunit
  split
  · exact h
  extract_lets s1
  have h1 : MemOk s1 := h.same
  split
  · exact h1.storeExempt.value ‹_›
  · exact h1.ite h1.saveFault
  · exact h1

theorem MemOk.recordSeq {word : BitVec 32} {val2 : Word} (h : MemOk s) : MemOk (recordSeq s w cause word val val2) := h.writeRecord

theorem MemOk.recordEng {num : Nat} (h : MemOk s) : MemOk (recordEng s o num cause val) := by
  unfold Machine.recordEng
  extract_lets e base
  exact h.writeRecord

end Sys2Proof.Safety
end

section
/-! SUPPORT. Memory stays canonical: levels, launches and nodes, and the issue of commands. -/

set_option Elab.async false

namespace Sys2Proof.Safety

open Sys2Proof Sys2Proof.Machine

variable {s : State} {u : UnitId} {w : WorkUnit} {c : Cmd128} {x : Ctx} {e : Site} {o : EngOp} {k : ChainId} {f : PcieFn} {cause : BitVec 16}
  {row : Engine} {die n job va key code lid l : Nat}

theorem MemOk.endJobState (h : MemOk s) : MemOk (endJobState s job) := h.same

theorem MemOk.settleJob (h : MemOk s) : MemOk (settleJob s job) := by
  unfold Machine.settleJob
  split
  · exact h
  extract_lets j1 s1 s2
  have h1 : MemOk s1 := h.same
  have h2 : MemOk s2 := h1.endJobState
  exact (h2.ite h2.same).ite h1

theorem MemOk.nodeEvent {bad : Bool} {dn : Nat × Nat} (h : MemOk s) : MemOk (nodeEvent s lid job bad dn) := by
  unfold Machine.nodeEvent
  split
  · exact h.same
  extract_lets s1
  have h1 : MemOk s1 := h.same
  exact h1.writeRecord

theorem MemOk.modLaunch {f : Launch → Launch} (h : MemOk s) : MemOk (modLaunch s l f) := h.same

theorem MemOk.writeCrec {l : Launch} {st : LvlStatus} (h : MemOk s) : MemOk (writeCrec s l st) := h.ite h.storeOr

theorem MemOk.completeLaunch {l : Launch} {st : LvlStatus} (h : MemOk s) : MemOk (completeLaunch s lid l st) := by
  unfold Machine.completeLaunch
  extract_lets s1 s2 s3 s4 s5 s6 s7
  have h1 : MemOk s1 := h.modLaunch
  have h2 : MemOk s2 := h1.same.ite h1
  have h3 : MemOk s3 := h2.writeCrec
  have h4 : MemOk s4 := by
    unfold s4
    split
    · exact h3.same
    · exact h3
  have h5 : MemOk s5 := by
    unfold s5
    split
    · split
      · exact h4.raiseQueue
      · exact h4
    · exact h4
  have h6 : MemOk s6 := h5.foldl fun _ _ ht => ht.nodeEvent
  have h7 : MemOk s7 := h6.same
  exact h7.settleJob

theorem MemOk.enterPool {l : Launch} {entry : Nat} (h : MemOk s) : MemOk (enterPool s lid l entry) := by
  unfold Machine.enterPool
  extract_lets p s1 k s2 k'
  have h1 : MemOk s1 := h.modLaunch
  have h2 : MemOk s2 := h1.same
  exact h2.same.ite h2

theorem MemOk.unspill (h : MemOk s) : MemOk (unspill s die) := by
  unfold Machine.unspill
  split
  · exact h
  split
  · exact h.same
  extract_lets e
  clear_value e
  split
  · exact h
  · exact h.same.enterPool

theorem MemOk.unspillAll (h : MemOk s) : MemOk (unspillAll s) := h.foldl fun _ _ ht => ht.foldl fun _ _ ht => ht.unspill

theorem MemOk.settleLaunches {fuel : Nat} (h : MemOk s) : MemOk (settleLaunches fuel s) := by
  induction fuel generalizing s with
  | zero => exact h
  | succ fuel ih =>
    unfold Machine.settleLaunches
    split
    · exact h.unspillAll
    · exact ih h.completeLaunch

theorem MemOk.settleLevels (h : MemOk s) : MemOk (settleLevels s) := h.settleLaunches

theorem MemOk.retryLaunches (h : MemOk s) : MemOk (retryLaunches s) := h.settleLevels.ite h

theorem MemOk.unbindSlots (h : MemOk s) : MemOk (unbindSlots s u) := h.same

theorem MemOk.clearHalts (h : MemOk s) : MemOk (clearHalts s u) := h.same

theorem MemOk.unitEnds {st : LvlStatus} (h : MemOk s) : MemOk (unitEnds s u w st) := by
  unfold Machine.unitEnds
  extract_lets s0 base s1 s2
  have h0 : MemOk s0 := h.clearHalts
  have hbase : MemOk base := h0.unbindSlots
  have h1 : MemOk s1 := hbase.same
  have h2 : MemOk s2 := h1.modLaunch
  exact h2.same.settleLevels

theorem MemOk.setWarn {b : BitVec 7} {opc : BitVec 8} {layer : BitVec 2} (h : MemOk s) : MemOk (setWarn s key b opc layer) := by
  unfold Machine.setWarn
  split
  · exact h
  extract_lets r r'
  exact h.same

theorem MemOk.cmdWarn {b : WarnBits} (h : MemOk s) : MemOk (cmdWarn s x b c) := by
  unfold Machine.cmdWarn
  split
  · exact h.setWarn
  · exact h

theorem MemOk.modOp {f : EngOp → EngOp} (h : MemOk s) : MemOk (modOp s n f) := h.same

theorem MemOk.finishOp {st : Nat} (h : MemOk s) : MemOk (finishOp s n st) := h.modOp

theorem MemOk.faultOp {num : Nat} (h : MemOk s) : MemOk (faultOp s n cause va num) := by
  unfold Machine.faultOp
  split
  · exact h
  split
  · exact h.doomJob
  extract_lets v seen s1
  have h1 : MemOk s1 := h.modOp
  exact h1.ite h1.recordEng

theorem MemOk.opWaits {on : List (Phys × Nat)} (h : MemOk s) : MemOk (opWaits s n on) := h.modOp

theorem MemOk.opReads (h : MemOk s) : MemOk (opReads s n) := h.modOp

theorem MemOk.addOp (h : MemOk s) : MemOk (addOp s o).1 := h.same

theorem MemOk.notifyUnit (h : MemOk s) : MemOk (notifyUnit s u) := h.same

theorem MemOk.atOnce {r : Issued} (h : MemOk s) (h1 : IssuedOk r) : IssuedOk (atOnce s x row c r) := by
  unfold Machine.atOnce
  split
  · split
    · exact h.addOp
    split
    · exact h1.notifyUnit.ite h1
    · exact h1
  · exact h1

theorem MemOk.unlose {unit : Nat} (h : MemOk s) : MemOk (unlose s unit) := h.same

theorem MemOk.settled_perform {y : Settled} (h : MemOk s) : OptionOk (y.perform s) := by
  unfold Settled.perform
  split
  · exact h
  · split
    · trivial
    · extract_lets s1
      have h1 : MemOk s1 := h.same
      exact (h1.foldl fun _ _ ht => ht.writePhys).ite h1
  · exact h.ite h.putChain
  · split
    · trivial
    · extract_lets us z
      have hus : MemOk (us.foldl Machine.unlose s) := h.foldl fun _ _ ht => ht.unlose
      have hz : MemOk z := hus.foldl fun _ _ ht => ht.writePhys
      exact hz.same

theorem MemOk.settleAt {e : Settled} (h : MemOk s) : IssuedOk (settleAt s x row c e) := by
  unfold Machine.settleAt
  split
  · exact h.addOp
  split
  · trivial
  · exact h.atOnce (h.settled_perform.some ‹_›)

theorem MemOk.checked {k : Issued} (h : MemOk s) (h1 : IssuedOk k) : IssuedOk (checked s code k) := by
  unfold Machine.checked
  split
  · exact h
  · exact h1

theorem issuedOk_issue {α : Type} {g : Got α} {k : α → Issued} (hk : ∀ x, IssuedOk (k x)) : IssuedOk (g.issue k) := by
  cases g with
  | ok x => exact hk x
  | bad c va => trivial
  | waits on => trivial

theorem MemOk.issueSnop (h : MemOk s) : IssuedOk (issueSnop s x c) := h.checked (h.atOnce h)

theorem MemOk.issueSync (h : MemOk s) : IssuedOk (issueSync s x c) := by
  unfold Machine.issueSync
  extract_lets va sc w
  exact h.checked h.addOp.cmdWarn

theorem MemOk.issueFxregion (h : MemOk s) : IssuedOk (issueFxregion s x c) := by
  unfold Machine.issueFxregion
  extract_lets va ncell w form mine mine'
  split
  · exact h.checked (h.atOnce h.same)
  split
  · exact h
  split
  · exact h
  dsimp only
  refine issuedOk_issue fun x => ?_
  exact h.checked h.settleAt

theorem MemOk.syncWrite (h : MemOk s) : MemOk (syncWrite s n) := by
  unfold Machine.syncWrite
  split
  · exact h
  split
  · split
    · exact h
    split
    · exact (h.storeVa.value ‹_›).finishOp
    · exact h.finishOp.ite h.faultOp
    · exact h
  · exact h

end Sys2Proof.Safety
end

section
/-! SUPPORT. Memory stays canonical: the block-transfer engine. -/

set_option Elab.async false

namespace Sys2Proof.Safety

open Sys2Proof Sys2Proof.Machine

variable {s t : State} {c : Cmd128} {x : Ctx} {o : EngOp} {k : ChainId} {ws : List Word} {sv : SavedUnit} {die n job ch code : Nat}

theorem MemOk.putTmpl {t : Nat} {x : Tmpl} (h : MemOk s) : MemOk (putTmpl s die t x) := h.same

theorem MemOk.putChan {x : Chan} (h : MemOk s) : MemOk (putChan s die ch x) := h.same

theorem MemOk.issueCptDef (h : MemOk s) : IssuedOk (issueCptDef s x c) := by
  unfold Machine.issueCptDef
  extract_lets t tm
  exact h.checked (h.atOnce h.putTmpl)

theorem MemOk.issueCptDim (h : MemOk s) : IssuedOk (issueCptDim s x c) := by
  unfold Machine.issueCptDim
  extract_lets t tm d r
  exact h.checked (h.atOnce h.putTmpl)

theorem MemOk.writeObject (h : MemOk s) : MemOk (writeObject s n) := by
  unfold Machine.writeObject
  split
  · exact h
  split
  · split
    · extract_lets s2
      have h2 : MemOk s2 := (h.storeObj.value ‹_›).same
      split
      · exact h2.notifyUnit.ite h2
      · exact h2
    · exact h.faultOp
    · exact h
  · exact h

theorem MemOk.refuseCopy (h : MemOk s) : MemOk (refuseCopy s o ch code) := by
  unfold Machine.refuseCopy
  extract_lets k n a
  have ha : MemOk a.1 := h.putChan.addOp
  exact ha.writeObject

theorem MemOk.startCopy {tidx : Nat} {sdisp ddisp : Int} {form : Bool} (h : MemOk s) :
    Answers (fun p => MemOk p.1) (startCopy s o ch tidx sdisp ddisp form) := by
  unfold Machine.startCopy
  extract_lets tm d bad pages pre k cp bwm s1
  have h1 : MemOk s1 := h.putChan
  split
  · exact .ok h.refuseCopy
  split
  · exact .waits
  · exact .bad
  extract_lets s2
  have h2 : MemOk s2 := h1.same
  exact .ok h2.addOp

theorem MemOk.issueCptGo (h : MemOk s) : IssuedOk (issueCptGo s x c) := by
  unfold Machine.issueCptGo
  extract_lets ch
  split
  · exact h
  split
  · trivial
  · trivial
  · exact h.startCopy.state ‹_›

theorem MemOk.landAt {b : Byte} {ps : List Phys} {r : State × KMap Byte} (h : MemOk r.1) : MemOk (landAt job die b ps r).1 := by
  induction ps generalizing r with
  | nil => exact h
  | cons p ps ih =>
    obtain ⟨s, sv⟩ := r
    exact ih (MemOk.markExternal (MemOk.writePhys h))

theorem MemOk.setWatermark {c : Chan} {k : Copy} {rest : List Copy} (h : MemOk s) : MemOk (setWatermark s die ch c k rest) := by
  unfold Machine.setWatermark
  extract_lets r wm s1
  have h1 : MemOk s1 := h.putChan
  exact h1.same

theorem MemOk.landByte (h : MemOk s) : LandOk (landByte s die ch) := by
  unfold Machine.landByte
  extract_lets c
  split
  · exact h
  extract_lets d idx sva dvas
  split
  · exact h
  split
  · exact h.opWaits
  · exact h.faultOp
  split
  · exact h
  · exact h.faultOp
  extract_lets r k1
  have hr : MemOk r.1 := h.landAt
  exact hr.opReads.setWatermark

theorem MemOk.landBytes (h : MemOk s) : MemOk (landBytes n s die ch) := by
  induction n generalizing s with
  | zero => exact h
  | succ n ih =>
    unfold Machine.landBytes
    split
    · exact ih (h.landByte.go ‹_›)
    · exact h.landByte.stop ‹_›

theorem MemOk.clearMxes (h : MemOk s) : MemOk (clearMxes s die n) := h.same

theorem MemOk.abortOp {st : Nat} (h : MemOk s) : MemOk (abortOp s n st) := by
  unfold Machine.abortOp
  split
  · exact h
  split
  · exact h
  extract_lets s1 mark
  have h1 : MemOk s1 := h.modOp
  split
  · exact h1.same
  · exact h1.same
  · exact h1.writeObject.ite h
  · exact h1.clearMxes.finishOp
  · exact h1.clearMxes.finishOp
  · exact h1.clearMxes.finishOp
  · exact h1.finishOp

theorem MemOk.poisonWaiters {ws : List Win} (h : MemOk s) : MemOk (poisonWaiters s ws) := by
  unfold Machine.poisonWaiters
  extract_lets s1
  have h1 : MemOk s1 := h.same
  exact h1.foldl fun _ _ ht => ht.abortOp.ite ht

theorem MemOk.endTile {st : Nat} (h : MemOk s) : LandOk (endTile s die ch st) := by
  unfold Machine.endTile
  extract_lets c
  split
  · exact h
  extract_lets seq mine sp s0 endWm k1
  have hsp : MemOk sp := h.ite h.poisonWaiters
  have h0 : MemOk s0 := hsp.same
  split
  · exact h0
  · exact h0.faultOp
  extract_lets base c1 s2
  have h2 : MemOk s2 := (h0.storeObj.value ‹_›).putChan
  split
  · exact h2.setWatermark
  · exact h2

theorem MemOk.popCopy {st : Nat} (h : MemOk s) : MemOk (popCopy s die ch st) := by
  unfold Machine.popCopy
  extract_lets c
  split
  · exact h
  extract_lets s1
  have h1 : MemOk s1 := h.putChan.finishOp
  split
  · exact h1
  · exact h1.setWatermark

theorem MemOk.settleCopy {fuel : Nat} (h : MemOk s) : MemOk (settleCopy fuel s die ch) := by
  induction fuel generalizing s with
  | zero => exact h
  | succ fuel ih =>
    unfold Machine.settleCopy
    extract_lets c
    split
    · exact h
    · extract_lets faulted
      split
      · exact h
      · split
        · split
          · split
            · exact ih (h.endTile.go ‹_›)
            · exact h.endTile.stop ‹_›
          · split
            · split
              · exact ih (h.endTile.go ‹_›)
              · exact h.endTile.stop ‹_›
            · exact h
        · split
          · exact ih h.popCopy
          · exact (h.ite (ih h.putChan)).ite (ih h.popCopy)

theorem MemOk.settleChan (h : MemOk s) : MemOk (settleChan s die ch) := h.settleCopy

theorem MemOk.takePermit (h : MemOk s) : MemOk (takePermit s die ch).1 := by
  unfold Machine.takePermit
  dsimp only
  split
  · exact h
  split
  · exact h
  split
  · exact h
  split
  · exact h.setWatermark
  split
  · exact h
  · exact h.setWatermark

theorem MemOk.bteLand (h : MemOk s) : MemOk (bteLand s die ch n) := by
  unfold Machine.bteLand
  extract_lets s0 c r
  have h0 : MemOk s0 := h.settleChan
  have hr : MemOk r.1 := h0.takePermit
  split
  · exact h0
  split
  · exact h0
  · exact h0.ite (hr.ite hr.landBytes.settleChan)

theorem MemOk.addPermits (h : MemOk s) : MemOk (addPermits s die ch n) := by
  unfold Machine.addPermits
  extract_lets c
  exact h.putChan.settleChan

theorem MemOk.issueMcPermit (h : MemOk s) : IssuedOk (issueMcPermit s x c) := by
  unfold Machine.issueMcPermit
  extract_lets ch
  exact h.checked (h.atOnce h.addPermits)

theorem MemOk.cutCopies {upTo st : Nat} {which : Copy → Bool} (h : MemOk s) : MemOk (cutCopies s die ch upTo st which) := by
  unfold Machine.cutCopies
  extract_lets c hit dead s1 s2 s3 s4
  have h1 : MemOk s1 := h.poisonWaiters
  have h2 : MemOk s2 := h1.same
  have h3 : MemOk s3 := h2.putChan
  have h4 : MemOk s4 := h3.foldl fun _ _ ht => ht.modOp.ite ht
  exact h4.settleChan

theorem MemOk.issueCptCancel (h : MemOk s) : IssuedOk (issueCptCancel s x c) := by
  unfold Machine.issueCptCancel
  extract_lets ch
  exact h.checked (h.atOnce h.cutCopies)

theorem MemOk.poisonPermit (h : MemOk s) : MemOk (poisonPermit s die ch) := by
  unfold Machine.poisonPermit
  split
  · exact h
  · exact h.cutCopies

end Sys2Proof.Safety
end

section
/-! SUPPORT. Memory stays canonical: firings of operators and routers, and memory operations. -/

set_option Elab.async false

namespace Sys2Proof.Safety

open Sys2Proof Sys2Proof.Machine

variable {s t : State} {u : UnitId} {w : WorkUnit} {c : Cmd128} {x : Ctx} {e : Site} {o : EngOp} {k : ChainId} {f : PcieFn} {val : Word}
  {img : Image} {bs : List Byte} {row : Engine} {it : Inst} {sl : OpSlot} {die n va key m tile slot : Nat}

theorem MemOk.orNumst {f : Flags} (h : MemOk s) : MemOk (orNumst s key f) := by
  unfold Machine.orNumst
  extract_lets r
  exact h.same

theorem MemOk.putImage (h : MemOk s) : MemOk (putImage s key img) := h.same

theorem MemOk.recordVote {bsel : Bool} {r : Option (BitVec 2 × BitVec 16)} (h : MemOk s) : MemOk (recordVote s key slot bsel r) := by
  unfold Machine.recordVote
  split
  · exact h
  extract_lets t t'
  exact h.same

theorem MemOk.applyEffect {kind : FireKind} {hs : List (Nat × Token × Tag)} {take : List Nat} {ef : Effect} (h : MemOk s) :
    FireResOk (applyEffect s img e sl kind hs take ef) := by
  unfold Machine.applyEffect
  extract_lets cp tile bsel toks outs base sl' img' s1 s2 s3
  have h1 : MemOk s1 := h.putImage
  have h2 : MemOk s2 := h1.same
  have h3 : MemOk s3 := h2.orNumst
  split
  · exact h.putImage
  split
  · trivial
  · exact h3.recordVote

theorem MemOk.fireOp {o : Opc} (h : MemOk s) : FireResOk (fireOp o e s) := by
  unfold Machine.fireOp
  split
  · trivial
  split
  · trivial
  split
  · trivial
  split
  · trivial
  extract_lets kind
  clear_value kind
  split
  · exact h.applyEffect
  · exact h.applyEffect
  · exact h.applyEffect

theorem MemOk.fireRouter {o : Opc} (h : MemOk s) : FireResOk (fireRouter o e s) := by
  unfold Machine.fireRouter
  split
  · trivial
  split
  · trivial
  split
  · trivial
  extract_lets h'
  split
  · trivial
  split
  · extract_lets tag base
    exact h.putImage
  · trivial

theorem MemOk.deferTo {ds : List Deferred} {rel : Bool} (h : MemOk s) : MemOk (deferTo s n ds rel) := h.same

theorem MemOk.modFire {op : Nat} {f : MemFire → MemFire} (h : MemOk s) : MemOk (modFire s n op f) := h.same

theorem MemOk.whenClear {x : MemFire} {ps : List (Nat × Phys)} {size : Nat} {k : IssueRes} (h : MemOk s) (h1 : IssueResOk k) :
    IssueResOk (whenClear s x ps size k) := by
  unfold Machine.whenClear
  split
  · trivial
  split
  · exact h
  split
  · exact h
  · exact h1

theorem MemOk.issueLoad {u : WorkUnit} {w : OpWord} {x : MemFire} (h : MemOk s) : IssueResOk (issueLoad s u key n die w x) := by
  unfold Machine.issueLoad
  extract_lets sz lanes addr
  split
  · exact h
  split
  · trivial
  split
  · trivial
  extract_lets val
  exact h.whenClear h.orNumst

theorem MemOk.issueStore {u : WorkUnit} {w : OpWord} {x : MemFire} (h : MemOk s) : IssueResOk (issueStore s u key n w x) := by
  unfold Machine.issueStore
  extract_lets sz m addr fill el
  split
  · exact h
  split
  · trivial
  split
  · trivial
  split
  · exact h
  extract_lets s1
  have h1 : MemOk s1 := h.deferTo
  exact h1.orNumst

theorem MemOk.queueAt {a : Nat} {x : MemFire} (h : MemOk s) : MemOk (queueAt s n a x) := by
  unfold Machine.queueAt
  split
  · exact h
  extract_lets base
  have hbase : MemOk base := h.modFire
  exact hbase.same

theorem MemOk.issueLdfe {u : WorkUnit} {w : OpWord} {x : MemFire} (h : MemOk s) : IssueResOk (issueLdfe s u key n die w x) := by
  unfold Machine.issueLdfe
  extract_lets sz va m
  split
  · exact h
  split
  · trivial
  split
  · trivial
  split
  · trivial
  split
  · exact h.whenClear h
  split
  · exact h.queueAt
  extract_lets bs val s1
  have h1 : MemOk s1 := h.setFull.ite h
  exact h1.orNumst

theorem MemOk.issueApst {u : WorkUnit} {holds : Nat → Nat → Bool} {x : MemFire} (h : MemOk s) : IssueResOk (issueApst s u n holds x) := by
  unfold Machine.issueApst
  extract_lets va disp
  split
  · exact h
  split
  · trivial
  · split
    · trivial
    split
    · trivial
    · exact h.deferTo
  · trivial

theorem MemOk.issueFence {x : MemFire} (h : MemOk s) : IssueResOk (issueFence s n x) := by
  unfold Machine.issueFence
  split
  · exact h
  · exact h

theorem MemOk.issueMonwait {u : WorkUnit} {w : OpWord} {x : MemFire} (h : MemOk s) : IssueResOk (issueMonwait s u n die w x) := by
  unfold Machine.issueMonwait
  extract_lets va sz c val
  split
  · exact h
  split
  · trivial
  dsimp only
  refine h.whenClear ?_
  split
  · exact h
  split
  · exact h
  split
  · exact h
  · exact h.same

theorem MemOk.amoLanes {o : Opc} {ty : BitVec 4} {b c : Token} {ps : List (Nat × Phys)} (h : MemOk s) : MemOk (amoLanes o ty b c s ps).1 := by
  induction ps generalizing s with
  | nil => exact h
  | cons ip ps ih =>
    obtain ⟨i, p⟩ := ip
    unfold Machine.amoLanes
    extract_lets sz old opnd s1 ret r
    have h1 : MemOk s1 := by
      unfold s1
      split
      · exact h.writePhys
      · exact h
    exact ih h1

theorem MemOk.issueAmo {u : WorkUnit} {w : OpWord} {x : MemFire} (h : MemOk s) : IssueResOk (issueAmo s u n w x) := by
  unfold Machine.issueAmo
  extract_lets sz m addr
  split
  · trivial
  split
  · trivial
  dsimp only
  refine h.whenClear ?_
  split
  · exact h
  · exact h.amoLanes

theorem MemOk.fxAddAt {a : Nat} {w : Int} {v : Lane} (h : MemOk s) : MemOk (fxAddAt s a w v) := h.writePhys

theorem MemOk.issueFx {u : WorkUnit} {w : OpWord} {x : MemFire} (h : MemOk s) : IssueResOk (issueFx s u n w x) := by
  unfold Machine.issueFx
  extract_lets row m addr cell wait
  split
  · trivial
  split
  · trivial
  extract_lets perform go
  have hperform : MemOk perform := by
    unfold perform
    refine h.foldl fun t x ht => ?_
    split
    · exact ht.fxAddAt
    · exact ht
  have hgo : IssueResOk go := by
    unfold go
    split
    · exact h
    · exact hperform
  split
  · exact h.whenClear hgo
  · exact hgo

theorem MemOk.issueEmit {u : WorkUnit} {w : OpWord} {x : MemFire} (h : MemOk s) : IssueResOk (issueEmit s u n w x) := by
  unfold Machine.issueEmit
  extract_lets va
  split
  · exact h
  split
  · trivial
  extract_lets s1
  have h1 : MemOk s1 := h.deferTo
  exact h1.same

theorem MemOk.issueOp {u : WorkUnit} {holds : Nat → Nat → Bool} {w : OpWord} {x : MemFire} (h : MemOk s) :
    IssueResOk (issueOp s u key n die holds w x) := by
  unfold Machine.issueOp
  split
  · exact h
  split
  · exact h.issueLoad
  · exact h.issueLoad
  · exact h.issueStore
  · exact h.issueStore
  · exact h.issueLdfe
  · exact h.issueApst
  · exact h.issueFence
  · exact h.issueMonwait
  · exact h.issueFx
  · exact h.issueFx
  · exact h.issueEmit
  · exact h
  · exact h.issueAmo

theorem MemOk.enterChain {g : Tag} {x : MemFire} (h : MemOk s) : MemOk (enterChain s u e g x) := by
  unfold Machine.enterChain
  extract_lets tag
  split
  · exact h.same
  · exact h.same

theorem MemOk.fireMem {o : Opc} (h : MemOk s) : FireResOk (fireMem o e s) := by
  unfold Machine.fireMem
  split
  · trivial
  split
  · trivial
  split
  · trivial
  split
  · trivial
  extract_lets kind toks g id x img1 img2 base enter
  have hbase : MemOk base := h.putImage
  have henter : FireResOk enter := by
    unfold enter
    split
    · exact hbase.same.enterChain
    · trivial
  clear_value kind
  split
  · split
    · exact henter
    · exact h.applyEffect
  · split
    · split
      · trivial
      · exact h.putImage
    · exact henter
  · exact henter

theorem MemOk.chainDone {x : MemFire} {w : OpWord} {t : Token} (h : MemOk s) : MemOk (chainDone s n it x w t) := h.same

end Sys2Proof.Safety
end

section
/-! SUPPORT. Memory stays canonical: sheaves, the gather engine, near-memory units and chains. -/

set_option Elab.async false

namespace Sys2Proof.Safety

open Sys2Proof Sys2Proof.Machine

variable {s t : State} {w : WorkUnit} {c : Cmd128} {x : Ctx} {o : EngOp} {k : ChainId} {f : PcieFn} {cause : BitVec 16} {asid : BitVec 12} {tp : Tp}
  {row : Engine} {die n job q va key ch m code shv strm l j : Nat}

theorem MemOk.portEmit {t : Token} (h : MemOk s) : MemOk (portEmit s key n t) := h.same

theorem MemOk.portPop (h : MemOk s) : MemOk (portPop s key n) := h.same

theorem MemOk.portLatch {t : Token} (h : MemOk s) : MemOk (portLatch s key n t) := h.same

theorem MemOk.portKeep {m : BitVec 16} (h : MemOk s) : MemOk (portKeep s key n m) := h.portPop.ite h.same

theorem MemOk.putStream {x : Stream} (h : MemOk s) : MemOk (putStream s die shv strm x) := h.same

theorem MemOk.aprTurn {s1 : State} (h : MemOk s1) : MemOk (aprTurn s s1 x c) := h.addOp.ite (h.notifyUnit.ite h)

theorem MemOk.issueAprOpen {store : Bool} (h : MemOk s) : IssuedOk (issueAprOpen store s x c) := by
  unfold Machine.issueAprOpen
  extract_lets shv strm fmt vs40 cvm st w d r
  exact h.checked (IssuedOk.ite trivial h.putStream.cmdWarn.aprTurn)

theorem MemOk.changeRec {f : AprRec → AprRec} (h : MemOk s) : IssuedOk (changeRec s x c code f) := by
  unfold Machine.changeRec
  extract_lets shv strm st
  split
  · exact h
  · exact h.checked h.putStream.aprTurn

theorem MemOk.issueAprDim (h : MemOk s) : IssuedOk (issueAprDim s x c) := by
  unfold Machine.issueAprDim
  extract_lets d
  exact h.changeRec

theorem MemOk.issueAprPad (h : MemOk s) : IssuedOk (issueAprPad s x c) := h.changeRec

theorem MemOk.elemStore {fmt : BitVec 4} {vs40 : Bool} {cvm : BitVec 2} {sub : Nat} {v : Lane} (h : MemOk s) :
    Answers (fun p => MemOk p.1) (elemStore s asid job die fmt vs40 cvm va sub v) := by
  unfold Machine.elemStore
  split
  · exact h.storeVa.map fun _ ht => ht
  extract_lets r
  split
  · split
    · exact .bad
    · exact .waits
    extract_lets old
    exact h.storeVa.map fun _ ht => ht
  · exact h.storeVa.map fun _ ht => ht

theorem MemOk.setRun {r : AprRec} (h : MemOk s) : MemOk (setRun s die shv strm r) := h.putStream

theorem MemOk.endRecord (h : MemOk s) : MemOk (endRecord s die shv strm) := by
  unfold Machine.endRecord
  extract_lets st
  split
  · exact h
  split
  · exact h
  split
  · exact h
  split
  · exact h
  split
  · exact (h.storeObj.value ‹_›).putStream.finishOp
  · exact h.faultOp
  · exact h

theorem MemOk.startRecord (h : MemOk s) : MemOk (startRecord s die shv strm) := by
  unfold Machine.startRecord
  extract_lets st
  split
  · split
    · exact h
    · exact h.putStream.endRecord.ite h
  · exact h

theorem MemOk.issueAprEnd (h : MemOk s) : IssuedOk (issueAprEnd s x c) := by
  unfold Machine.issueAprEnd
  extract_lets shv strm recVa st w a
  have ha : MemOk a.1 := h.addOp
  split
  · exact h
  extract_lets lgBad r1 s1
  have h1 : MemOk s1 := ha.putStream
  exact h.checked (IssuedOk.ite h.putStream h1.startRecord)

theorem MemOk.endHeld {num : Nat} {x : Stream} (h : MemOk s) : MemOk (endHeld s num x) := h.foldl fun _ _ ht => ht.modOp.writeObject

theorem MemOk.sheaveLoad {s0 : State} (h : MemOk s0) : MemOk (sheaveLoad s0 die shv strm) := by
  unfold Machine.sheaveLoad
  extract_lets s
  have hs : MemOk s := h.endRecord
  split
  · exact hs
  split
  · exact hs
  split
  · exact hs
  split
  · exact hs
  split
  · exact hs
  split
  · exact hs.portEmit.setRun.endRecord
  split
  · extract_lets k
    split
    · exact hs.opWaits
    · exact hs.faultOp
    · exact hs.opReads.portEmit.setRun
  extract_lets k
  split
  · exact hs.opWaits
  · exact hs.faultOp
  extract_lets t r1
  exact hs.opReads.portEmit.setRun.endRecord

theorem MemOk.fillLanes {hd : Option Hdr} {t : Token} {is : List Nat} {x : Filled} (h : MemOk x.s) : MemOk (fillLanes o hd t is x).s := by
  induction is generalizing x with
  | nil => exact h
  | cons i is ih =>
    unfold Machine.fillLanes
    extract_lets m v
    split
    · exact h
    · split
      · exact ih h
      · split
        · exact h
        · exact h
        · exact ih (h.elemStore.state ‹_›)

theorem MemOk.sheavePoison {r : AprRec} (h : MemOk s) : MemOk (sheavePoison s r o shv strm cause) := by
  unfold Machine.sheavePoison
  extract_lets s1 s2
  have h1 : MemOk s1 := by
    unfold s1
    split
    · exact h.markFaulted
    · exact h
  have h2 : MemOk s2 := h1.recordEng
  exact h2

theorem MemOk.sheaveStore {s0 : State} (h : MemOk s0) : MemOk (sheaveStore s0 die shv strm) := by
  unfold Machine.sheaveStore
  extract_lets s
  have hs : MemOk s := h.endRecord
  split
  · exact hs
  split
  · exact hs
  split
  · exact hs
  split
  · exact hs
  split
  · exact hs
  split
  · extract_lets s1
    have h1 : MemOk s1 := hs.portPop.sheavePoison
    exact h1.setRun.endRecord
  · split
    · split
      · exact hs
      · exact hs.faultOp
      · exact (hs.storeVa.value ‹_›).opReads.portLatch.portPop.setRun
    · exact hs.portLatch.portPop.setRun
  extract_lets f s1 base
  have hf : MemOk f.s := MemOk.fillLanes hs
  have h1 : MemOk s1 := hf.opReads.portKeep
  split
  · exact h1.setRun.faultOp
  · exact h1.setRun.endRecord

theorem MemOk.permitPort (h : MemOk s) : MemOk (permitPort s tp n) := by
  unfold Machine.permitPort
  split
  · exact h
  split
  · split
    · exact h
    extract_lets s1
    have h1 : MemOk s1 := h.portPop
    exact h1.ite (h1.poisonPermit.ite h1.addPermits)
  · exact h

theorem MemOk.setIdx {i : IdxState} (h : MemOk s) : MemOk (setIdx s x i) := by
  unfold Machine.setIdx
  split
  · exact h.same
  · exact h.modBound

theorem MemOk.issueGathIdx (h : MemOk s) : IssuedOk (issueGathIdx s x c) := by
  unfold Machine.issueGathIdx
  extract_lets i nbag ifmt
  split
  · exact h.checked (h.atOnce h.setIdx)
  · exact h.checked (h.atOnce h.setIdx)

theorem MemOk.setGath {g : GathOp} (h : MemOk s) : MemOk (setGath s n g) := h.modOp

theorem MemOk.gathStart (h : MemOk s) : MemOk (gathStart s n) := by
  unfold Machine.gathStart
  split
  · exact h
  split
  · split
    · exact h
    split
    · exact h.opWaits
    · exact h.faultOp
    · extract_lets s1
      have h1 : MemOk s1 := h.finishOp
      split
      · exact h1.recordEng
      · exact h1
    · exact (h.opReads.foldl (fun _ _ ht => ht.setFull)).setGath
  · exact h

theorem MemOk.issueGath {red : Bool} (h : MemOk s) : IssuedOk (issueGath red s x c) := by
  unfold Machine.issueGath
  extract_lets fmt i l g a
  have ha : MemOk a.1 := h.addOp
  exact h.checked (ha.gathStart.ite ha)

theorem MemOk.gatherRow {g : GathOp} (h : MemOk s) : Answers MemOk (gatherRow s o g j) := by
  unfold Machine.gatherRow
  dsimp only
  refine answers_bind fun x => ?_
  refine answers_bind fun x => ?_
  split
  · refine answers_bind fun x => ?_
    exact h.storeVa.map fun _ ht => ht.foldl fun _ _ ht => ht.setFull
  split
  · exact h.storeVa.map fun _ ht => ht.foldl fun _ _ ht => ht.setFull
  · exact .ok (h.foldl (fun _ _ ht => ht.setFull))

theorem MemOk.reduceBag {g : GathOp} {b : Nat} (h : MemOk s) : Answers (fun p => MemOk p.1) (reduceBag s o g b) := by
  unfold Machine.reduceBag
  dsimp only
  refine answers_bind fun x => ?_
  refine answers_bind fun x => ?_
  refine answers_map fun x => ?_
  exact (h.foldl (fun _ _ ht => ht.fxAddAt)).foldl (fun _ _ ht => ht.setFull)

theorem MemOk.greRow {s0 : State} (h : MemOk s0) : MemOk (greRow s0 n j) := by
  unfold Machine.greRow
  extract_lets s
  have hs : MemOk s := h.gathStart
  split
  · exact hs
  split
  · split
    · exact hs
    split
    · exact hs.opWaits
    · exact hs.faultOp
    extract_lets g1 s2
    have h2 : MemOk s2 := ((Answers.ite hs.reduceBag (hs.gatherRow.map fun _ ht => ht)).state ‹_›).opReads.modOp
    exact h2.finishOp.ite h2
  · exact hs

theorem MemOk.issueQnt {dq : Bool} (h : MemOk s) : IssuedOk (issueQnt dq s x c) := by
  unfold Machine.issueQnt
  extract_lets q wf qf cvm wOk qOk w b
  exact h.checked h.addOp.cmdWarn

theorem MemOk.quantBlock {q : QntOp} {k : Nat} (h : MemOk s) : Answers (fun p => MemOk p.1) (quantBlock s o q k) := by
  unfold Machine.quantBlock
  dsimp only
  refine answers_bind fun x => ?_
  refine h.storeVa.bind fun x hx => ?_
  refine hx.storeVa.bind fun x hx => ?_
  exact hx.storeVa.map fun _ ht => ht

theorem MemOk.wideStore {b : QntOp} {k i : Nat} {xs : List Lane} {r : State × Flags} (h : MemOk r.1) :
    Answers (fun p => MemOk p.1) (wideStore o b k i xs r) := by
  induction xs generalizing i r with
  | nil => exact .ok h
  | cons x xs ih => exact h.elemStore.bind fun _ ht => ih ht

theorem MemOk.dequantBlock {q : QntOp} {k : Nat} (h : MemOk s) : Answers (fun p => MemOk p.1) (dequantBlock s o q k) := by
  unfold Machine.dequantBlock
  dsimp only
  refine answers_bind fun x => ?_
  refine answers_bind fun x => ?_
  exact h.wideStore

theorem MemOk.qeBlock (h : MemOk s) : MemOk (qeBlock s n) := by
  unfold Machine.qeBlock
  split
  · exact h
  split
  · split
    · exact h
    split
    · exact h.opWaits
    · exact h.faultOp
    extract_lets s2
    have h2 : MemOk s2 := ((Answers.ite h.dequantBlock h.quantBlock).state ‹_›).opReads.modOp
    exact h2.finishOp.ite h2
  · exact h

theorem MemOk.issueNmc {k : NmcKind} (h : MemOk s) : IssuedOk (issueNmc k s x c) := by
  unfold Machine.issueNmc
  extract_lets xv yv n sp yfmt xsz code b
  split
  · exact h
  refine issuedOk_issue fun x => ?_
  refine issuedOk_issue fun x => ?_
  exact h.checked h.addOp

theorem MemOk.nmcElem {b : NmcOp} {i : Nat} (h : MemOk s) : Answers (fun p => MemOk p.1) (nmcElem s o b i) := by
  unfold Machine.nmcElem
  extract_lets yva xva
  dsimp only
  refine answers_bind fun x => ?_
  split
  · refine answers_map fun x => ?_
    exact h.fxAddAt
  refine answers_bind fun x => ?_
  exact h.elemStore.map fun _ ht => ht

theorem MemOk.nmcUpdate {i : Nat} (h : MemOk s) : MemOk (nmcUpdate s n i) := by
  unfold Machine.nmcUpdate
  split
  · exact h
  split
  · split
    · exact h
    split
    · exact h.opWaits
    · exact h.faultOp
    extract_lets b1 s2
    have h2 : MemOk s2 := (h.nmcElem.state ‹_›).opReads.modOp
    exact h2.finishOp.ite h2
  · exact h

theorem MemOk.issueDead {set : Bool} (h : MemOk s) : IssuedOk (issueDead set s x c) := by
  unfold Machine.issueDead
  extract_lets va n code lostOk
  have hlostOk : MemOk lostOk := h.same
  split
  · exact h
  split
  · trivial
  refine issuedOk_issue fun x => ?_
  split
  · exact h
  · exact h.settleAt

theorem MemOk.chainFault {b : Bound} {entry : optParam Nat 0} (h : MemOk s) : MemOk (chainFault s k b cause va entry) := by
  unfold Machine.chainFault
  split
  · exact h.doomJob
  extract_lets v seen s1 kind base
  have h1 : MemOk s1 := h.modBound
  exact h1.ite h1.writeRecord

theorem MemOk.chainReads (h : MemOk s) : MemOk (chainReads s k) := h.modBound

theorem MemOk.issueBind {mask : BitVec 16} {form : Bool} {desc : Nat} (h : MemOk s) : IssuedOk (issueBind s x c row k mask form desc) := by
  unfold Machine.issueBind
  extract_lets ch other
  split
  · exact h
  dsimp only
  refine issuedOk_issue fun x => ?_
  split
  · exact h
  refine issuedOk_issue fun x => ?_
  exact h.settleAt

theorem MemOk.freeChain {pub : Nat} (h : MemOk s) : MemOk (freeChain s k pub) := by
  unfold Machine.freeChain
  extract_lets note base
  exact h.same.putChain

theorem MemOk.settleUnbind (h : MemOk s) : MemOk (settleUnbind s k) := by
  unfold Machine.settleUnbind
  extract_lets ch
  split
  · exact h
  split
  · exact h
  · exact h.freeChain.finishOp.ite h

theorem MemOk.startUnbind (h : MemOk s) : MemOk (startUnbind s n o k) := by
  unfold Machine.startUnbind
  split
  · exact h.modBound.settleUnbind.ite (h.ite h.finishOp)
  · exact h.finishOp

theorem MemOk.issueUnbind {form : Bool} (h : MemOk s) : IssuedOk (issueUnbind s x c row k form) := by
  unfold Machine.issueUnbind
  extract_lets ch mine other a o
  have ha : MemOk a.1 := h.addOp
  exact h.checked (ha.startUnbind.ite ha)

theorem MemOk.issueChainCtl {kind : ChainKind} (h : MemOk s) : IssuedOk (issueChainCtl kind row s x c) := by
  unfold Machine.issueChainCtl
  extract_lets k form
  split
  · exact h.issueUnbind
  · exact h.issueBind

theorem MemOk.readTail (h : MemOk s) : MemOk (readTail s k) := by
  unfold Machine.readTail
  split
  · exact h
  extract_lets due
  have hdue : MemOk due := h.modBound
  split
  · exact hdue
  split
  · exact hdue.modBound.chainFault
  split
  · exact h.modBound
  · exact hdue.chainFault.ite hdue
  · exact hdue.modBound

theorem MemOk.chainRewalk (h : MemOk s) : MemOk (chainRewalk s k) := by
  unfold Machine.chainRewalk
  split
  · exact h
  split
  · exact h
  split
  · exact h
  · extract_lets s1
    have h1 : MemOk s1 := h.chainReads
    exact h1.readTail.ite h1
  · exact h.modBound

theorem MemOk.issueTailOf {form : Bool} (h : MemOk s) : IssuedOk (issueTailOf s x c row k form) := by
  unfold Machine.issueTailOf
  split
  · exact h
  · exact h.checked (h.atOnce h.readTail)

theorem MemOk.issueTail {kind : ChainKind} (h : MemOk s) : IssuedOk (issueTail kind row s x c) := h.issueTailOf

theorem MemOk.tailPoll (h : MemOk s) : MemOk (tailPoll s k) := by
  unfold Machine.tailPoll
  split
  · exact h
  · exact h.readTail.ite (h.ite h.modBound.readTail)

theorem MemOk.issueMxqSet (h : MemOk s) : IssuedOk (issueMxqSet s x c) := by
  unfold Machine.issueMxqSet
  extract_lets k mask form
  split
  · exact h.issueTailOf
  split
  · exact h.issueUnbind
  · exact h.issueBind

theorem MemOk.entryFinish (h : MemOk s) : MemOk (entryFinish s n) := by
  unfold Machine.entryFinish
  split
  · exact h
  · split
    · split
      · exact h.same
      · extract_lets mx r mine
        split
        · exact h
        · exact h.faultOp
        · rename_i s1 heq
          have h1 : MemOk s1 := h.storeObj.value heq
          split
          · exact h1
          · exact h1.faultOp
          · rename_i s2 heq
            have h2 : MemOk s2 := (Answers.ite (.ok h1) h1.storeObj).value heq
            split
            · exact h2
            · exact h2.faultOp
            · rename_i s3 heq
              have h3 : MemOk s3 := (Answers.ite h2.storeObj (.ok h2)).value heq
              extract_lets s4 s5
              have h4 : MemOk s4 := by
                unfold s4
                split
                · exact h3.raiseMsix
                · exact h3
              have h5 : MemOk s5 := h4.same.modBound
              exact h5.settleUnbind
    · exact h

end Sys2Proof.Safety
end

section
/-! SUPPORT. Memory stays canonical: matrix engines, journal streams, and the issue of every command. -/

set_option Elab.async false

namespace Sys2Proof.Safety

open Sys2Proof Sys2Proof.Machine

variable {s t : State} {u : UnitId} {w : WorkUnit} {c : Cmd128} {x : Ctx} {e : Site} {o : EngOp} {k : ChainId} {f : PcieFn} {asid : BitVec 12}
  {ws : List Word} {gseq : BitVec 32} {row : Engine} {die n q va key m code port j : Nat}

theorem MemOk.putMxe {x : Mxe} (h : MemOk s) : MemOk (putMxe s die m x) := h.same

theorem MemOk.issueLdstat (h : MemOk s) : IssuedOk (issueLdstat s x c) := by
  unfold Machine.issueLdstat
  extract_lets wf ms b a s1
  have ha : MemOk a.1 := h.addOp
  have h1 : MemOk s1 := by
    unfold s1
    dsimp only
    exact ha.foldl fun _ _ ht => ht.putMxe
  exact h.checked (h1.finishOp.ite h1)

theorem MemOk.ldstatDone (h : MemOk s) : MemOk (ldstatDone s die m) := by
  unfold Machine.ldstatDone
  extract_lets e
  split
  · exact h
  split
  · exact h.putMxe
  split
  · split
    · exact h
    split
    · exact h.opWaits
    · exact h.faultOp
    extract_lets l1 s1
    have h1 : MemOk s1 := h.putMxe.opReads.modOp
    exact h1.finishOp.ite h1
  · exact h

theorem MemOk.issueMxswap (h : MemOk s) : IssuedOk (issueMxswap s x c) := by
  unfold Machine.issueMxswap
  extract_lets mask q b set ms a s1
  have ha : MemOk a.1 := h.addOp
  have h1 : MemOk s1 := by
    unfold s1
    dsimp only
    exact ha.foldl fun _ _ ht => ht.putMxe
  exact h.checked (h1.finishOp.ite h1)

theorem MemOk.swapExchange (h : MemOk s) : MemOk (swapExchange s die m) := by
  unfold Machine.swapExchange
  extract_lets e
  split
  · exact h
  split
  · exact h.putMxe
  split
  · extract_lets done x1 s1
    have h1 : MemOk s1 := h.putMxe.modOp
    exact h.ite (h1.finishOp.ite h1)
  · exact h

theorem MemOk.issueMxtask (h : MemOk s) : IssuedOk (issueMxtask s x c) := by
  unfold Machine.issueMxtask
  extract_lets k b a
  have ha : MemOk a.1 := h.addOp
  exact h.checked ha.modBound.cmdWarn

theorem MemOk.issueRecord {e prev : Nat} {ext : List Byte} (h : MemOk s) : IssuedOk (issueRecord s x c q e prev ext) := by
  unfold Machine.issueRecord
  extract_lets t
  exact h.checked h.addOp

theorem MemOk.dropSpilled (h : MemOk s) : MemOk (dropSpilled s die asid q) := h.same

theorem MemOk.putValues {vs : List (BitVec 128)} (h : MemOk s) : Answers MemOk (putValues s asid va vs) := by
  induction vs generalizing s va with
  | nil => exact .ok h
  | cons v vs ih => exact h.storeExempt.bind fun t ht => ih ht

theorem MemOk.putRows {cells : List (BitVec 128)} {r : Nat} (h : MemOk s) : Answers MemOk (putRows s asid va n cells r) := by
  induction r with
  | zero => exact .ok h
  | succ r ih => exact ih.bind fun t ht => ht.putValues

theorem MemOk.spillAcc {a : MxAcc} (h : MemOk s) : MemOk (spillAcc s die m n a) := by
  unfold Machine.spillAcc
  extract_lets e s0 owner
  have h0 : MemOk s0 := h.putMxe
  split
  · exact h0
  extract_lets va r
  have hr : Answers MemOk r := by
    unfold r
    refine h0.storeExempt.bind fun x hx => ?_
    refine hx.putRows.bind fun x hx => ?_
    refine hx.putValues.bind fun x hx => ?_
    exact hx.putValues
  split
  · exact h0.saveFault
  clear_value r
  split
  · exact h0.saveFault
  · exact (hr.value rfl).same
  · exact h0

theorem MemOk.setTask {t : TaskOp} (h : MemOk s) : MemOk (setTask s n t) := h.modOp

theorem MemOk.giveMxe {t : TaskOp} {a : Option MxAcc} (h : MemOk s) : MemOk (giveMxe s n m o t a) := by
  unfold Machine.giveMxe
  extract_lets e
  exact h.putMxe.setTask

theorem MemOk.startWith {t : TaskOp} {own : Option MxAcc} (h : MemOk s) : MemOk (startWith s n m o t own) := by
  unfold Machine.startWith
  extract_lets e s1
  have h1 : MemOk s1 := h.dropSpilled.ite h
  split
  · exact h.finishOp
  split
  · exact h1.spillAcc.giveMxe
  · exact h1.giveMxe

theorem MemOk.startRead {t : TaskOp} (h : MemOk s) : MemOk (startRead s n m o t) := by
  unfold Machine.startRead
  extract_lets e inSet fit home way
  split
  · exact h
  split
  · exact h
  split
  · exact h.finishOp
  split
  · exact h
  split
  · exact h.finishOp
  split
  · exact h.startWith
  · exact h.faultOp
  · exact h.opWaits

theorem MemOk.taskStart (h : MemOk s) : MemOk (taskStart s n m) := by
  unfold Machine.taskStart
  split
  · exact h
  split
  · split
    · exact h
    split
    · exact h.startRead
    split
    · exact h.opWaits
    · exact h.faultOp
    extract_lets r
    exact h.finishOp.ite h.opReads.setTask.startRead
  · exact h

theorem MemOk.storeOuts {t : TaskOp} {a : MxAcc} {base : Nat} {ijs : List (Nat × Nat)} {r : State × Flags} (h : MemOk r.1) :
    Answers (fun p => MemOk p.1) (storeOuts o t a base ijs r) := by
  induction ijs generalizing r with
  | nil => exact .ok h
  | cons ij ijs ih =>
    refine Answers.bind (P := fun p => MemOk p.1) ?_ fun _ ht => ih ht
    split
    · exact h.storeVa.map fun _ ht => ht
    · exact h.elemStore.map fun _ ht => ht

theorem MemOk.leaveMxe {st : Nat} {t : TaskOp} {a : Option MxAcc} (h : MemOk s) : MemOk (leaveMxe s n m st o t a) := h.putMxe.setTask.finishOp

theorem MemOk.feedTask {fuel p : Nat} {t : TaskOp} (h : MemOk s) : MemOk (feedTask fuel s key p t).1 := by
  induction fuel generalizing s t with
  | zero => exact h
  | succ fuel ih =>
    unfold Machine.feedTask
    split
    · exact h
    · split
      · exact h
      · split
        · exact h.portPop
        · exact ih h.portLatch.portPop
        · exact ih h.portPop

theorem MemOk.drainTask {p : Nat} {ts : List Token} (h : MemOk s) : MemOk (drainTask s key p ts).1 := by
  induction ts generalizing s with
  | nil => exact h
  | cons t ts ih =>
    unfold Machine.drainTask
    split
    · exact ih h.portEmit
    · exact h

theorem MemOk.sendResults {t : TaskOp} {ts : List Token} (h : MemOk s) : MemOk (sendResults s n m o t ts) := by
  unfold Machine.sendResults
  split
  · exact h.setTask
  extract_lets r t1
  have hr : MemOk r.1 := by
    unfold r
    split
    · exact h.drainTask
    · exact h
  exact hr.leaveMxe.ite hr.setTask

theorem MemOk.outputTask {t : TaskOp} {r : MxAcc × Flags} (h : MemOk s) : MemOk (outputTask s n m o t r) := by
  unfold Machine.outputTask
  extract_lets addConv verdict cells
  have haddConv : ∀ (s : State) (f : Flags), MemOk s → MemOk (addConv s f) := by
    intro s f ht0
    unfold addConv
    exact ht0.modOp
  split
  · exact (haddConv _ _ h).leaveMxe
  split
  · clear_value verdict
    split
    · exact (haddConv _ _ h).leaveMxe
    extract_lets t1
    split
    · exact h
    · exact h.faultOp
    · exact (haddConv _ _ (h.storeOuts.state ‹_›)).leaveMxe
  clear_value verdict
  split
  · exact (haddConv _ _ h).leaveMxe
  extract_lets t1 fl
  exact (haddConv _ _ h).setTask.sendResults

theorem MemOk.taskEnd (h : MemOk s) : MemOk (taskEnd s n) := by
  unfold Machine.taskEnd
  split
  · exact h
  split
  · split
    · exact h
    split
    · exact h
    split
    · exact h.sendResults
    extract_lets fed s1 t1
    have hfed : MemOk fed.1 := by
      unfold fed
      split
      · split
        · exact h.feedTask
        · exact h
      · exact h
    have h1 : MemOk s1 := hfed.setTask
    split
    · exact h1.leaveMxe
    split
    · exact h1
    split
    · exact h1.opWaits
    · exact h1.faultOp
    · exact h1.opReads.modOp.outputTask
  · exact h

theorem MemOk.residueFail (h : MemOk s) : MemOk (residueFail s die m) := by
  unfold Machine.residueFail
  extract_lets e
  split
  · exact h
  split
  · exact h.ite h.modOp.putMxe
  · exact h

theorem MemOk.putJournal {x : JStream} (h : MemOk s) : MemOk (putJournal s die j x) := h.same

theorem MemOk.halSend {m : HalMsg} (h : MemOk s) : MemOk (halSend s m) := h.same

theorem MemOk.placeAck {r : State × List JAck} {a : JAck} (h : MemOk r.1) : MemOk (placeAck r a).1 := by
  obtain ⟨s, kept⟩ := r
  unfold Machine.placeAck
  dsimp only
  split
  · exact h
  · split
    · split
      · exact h
      · exact MemOk.putImage h
    · exact h

theorem MemOk.settleAcks (h : MemOk s) : MemOk (settleAcks s die j) := by
  unfold Machine.settleAcks
  extract_lets r base
  have hr : MemOk r.1 := MemOk.foldlFst h fun _ _ ht => ht.placeAck
  exact hr.putJournal

theorem MemOk.sendEntry {site : Site} {b : Token} (h : MemOk s) : MemOk (sendEntry s u asid die j site b) := by
  unfold Machine.sendEntry
  extract_lets x n ws local_ s1
  have hlocal_ : ∀ (poison : Bool) (st : Nat), MemOk (local_ poison st) := by
    intro poison st
    unfold local_
    exact h.putJournal.settleAcks
  have h1 : MemOk s1 := h.putJournal
  exact h.putJournal.settleAcks.ite ((hlocal_ _ _).ite ((hlocal_ _ _).ite (h1.halSend.ite h1)))

theorem MemOk.ackReceive {n : BitVec 40} {poison : Bool} (h : MemOk s) : MemOk (ackReceive s die j n poison) := by
  unfold Machine.ackReceive
  extract_lets x
  split
  · exact h
  · exact h.ite h.putJournal.settleAcks

theorem MemOk.lostExpiry (h : MemOk s) : MemOk (lostExpiry s die j) := by
  unfold Machine.lostExpiry
  extract_lets x base
  exact h.putJournal.settleAcks.ite h

theorem MemOk.loseStreams (h : MemOk s) : MemOk (loseStreams s) := by
  unfold Machine.loseStreams
  dsimp only
  exact h.foldl fun _ _ ht => ht.same.raiseMsix.ite ht

theorem MemOk.issueEmitJnl (h : MemOk s) : IssuedOk (issueEmitJnl s x c) := by
  unfold Machine.issueEmitJnl
  extract_lets j port bsdev gseq t peerBad same t1 t2 t3 s1 s2
  have h1 : MemOk s1 := h.putJournal.settleAcks.loseStreams
  have h2 : MemOk s2 := (h1.foldl (fun _ _ ht => ht.halSend)).ite h1
  exact h.checked (h.atOnce h2)

theorem MemOk.issueEmitSeq (h : MemOk s) : IssuedOk (issueEmitSeq s x c) := by
  unfold Machine.issueEmitSeq
  extract_lets j lastn t
  exact h.checked (h.atOnce (h.halSend.ite h))

theorem MemOk.fireEmit (h : MemOk s) : FireResOk (fireEmit e s) := by
  unfold Machine.fireEmit
  split
  · trivial
  split
  · split
    · trivial
    split
    · trivial
    extract_lets kind toks a b g id one asNop s1
    have hone : ∀ (r : Bool) (sl1 : OpSlot), MemOk (one r sl1) := by
      intro r sl1
      unfold one
      extract_lets img1 img2 base
      have hbase : MemOk base := h.putImage
      exact hbase.same
    have hasNop : ∀ (r : Bool), FireResOk (asNop r) := by
      intro r
      unfold asNop
      split
      · trivial
      · exact (hone _ _).enterChain
    have h1 : MemOk s1 := hone _ _
    clear_value kind
    split
    · split
      · exact hasNop _
      · exact h.applyEffect
    · split
      · trivial
      · exact h.putImage
    split
    · exact hasNop _
    split
    · trivial
    split
    · exact h1
    · exact h1.sendEntry
  · trivial

theorem MemOk.takeAck (h : MemOk s) : FireResOk (takeAck e s) := by
  unfold Machine.takeAck
  split
  · trivial
  split
  · trivial
  split
  · trivial
  split
  · extract_lets img1 s0 s1 x
    have h0 : MemOk s0 := h.putImage
    have h1 : MemOk s1 := by
      unfold s1
      split
      · exact h0.settleAcks
      · exact h0
    split
    · exact h.putImage
    · exact h1.enterChain
  · trivial

theorem MemOk.putPart {p : Nat} {y : Machine.Part} (h : MemOk s) : MemOk (putPart s p y) := h.writePhys

theorem MemOk.backAck {poison : Bool} (h : MemOk s) : MemOk (backAck s ws n poison) := by
  unfold Machine.backAck
  extract_lets f
  exact h.halSend

theorem MemOk.holdBack {w : Waiting} (h : MemOk s) : MemOk (holdBack s w) := h.same

theorem MemOk.storeEntry {p : Nat} {y : Machine.Part} (h : MemOk s) : MemOk (storeEntry s p y n ws) := by
  unfold Machine.storeEntry
  split
  · exact h.holdBack
  extract_lets s1
  have h1 : MemOk s1 := h.writePhys
  exact h1.putPart.backAck

theorem MemOk.backEntry (h : MemOk s) : MemOk (backEntry s gseq n ws) := by
  unfold Machine.backEntry
  split
  · split
    · exact h.holdBack
    · exact h.storeEntry
  extract_lets h'
  exact h.backAck.ite (h.backAck.ite (h.storeEntry.ite h.holdBack))

theorem MemOk.backEnd (h : MemOk s) : MemOk (backEnd s gseq n) := by
  unfold Machine.backEnd
  split
  · exact h
  extract_lets h'
  exact h.holdBack.ite (h.putPart.ite h.putPart)

theorem MemOk.backTrunc (h : MemOk s) : MemOk (backTrunc s gseq n) := by
  unfold Machine.backTrunc
  split
  · exact h
  extract_lets h'
  exact h.holdBack.ite h.putPart

theorem MemOk.retryOne {w : Waiting} (h : MemOk s) : MemOk (retryOne s w) := by
  unfold Machine.retryOne
  split
  · exact h.backEntry
  · exact h.backEnd
  · exact h.backTrunc

theorem MemOk.retryHeld (h : MemOk s) : MemOk (retryHeld s) := by
  unfold Machine.retryHeld
  refine h.same.foldl fun t x ht => ?_
  exact ht.retryOne

theorem MemOk.settleHeld {fuel : Nat} (h : MemOk s) : MemOk (settleHeld fuel s) := by
  induction fuel generalizing s with
  | zero => exact h
  | succ fuel ih => exact h.retryHeld.ite (ih h.retryHeld)

theorem MemOk.settleBackstay (h : MemOk s) : MemOk (settleBackstay s) := h.settleHeld

theorem MemOk.entryReceive (h : MemOk s) : MemOk (entryReceive s ws) := h.backEntry.settleBackstay

theorem MemOk.endReceive {lastn : BitVec 40} (h : MemOk s) : MemOk (endReceive s gseq lastn) := h.backEnd.settleBackstay

theorem MemOk.truncReceive {n : BitVec 40} (h : MemOk s) : MemOk (truncReceive s gseq n) := h.backTrunc.settleBackstay

theorem MemOk.issueBy {o : Sopc} (h : MemOk s) : IssuedOk (issueBy o s x c) := by
  unfold Machine.issueBy
  split
  · exact h.issueSnop
  · exact h.issueSync
  · exact h.issueFxregion
  · exact h.issueAprOpen
  · exact h.issueAprOpen
  · exact h.issueAprDim
  · exact h.issueAprPad
  · exact h.issueAprEnd
  · exact h.issueCptDef
  · exact h.issueCptDim
  · exact h.issueCptGo
  · exact h.issueCptCancel
  · exact h.issueMcPermit
  · exact h.issueGath
  · exact h.issueGath
  · exact h.issueGathIdx
  · exact h.issueChainCtl
  · exact h.issueTail
  · exact h.issueQnt
  · exact h.issueQnt
  · exact h.issueChainCtl
  · exact h.issueTail
  · exact h.issueMxtask
  · exact h.issueMxqSet
  · exact h.issueLdstat
  · exact h.issueMxswap
  · exact h.issueNmc
  · exact h.issueNmc
  · exact h.issueNmc
  · exact h.issueChainCtl
  · exact h.issueTail
  · exact h.issueDead
  · exact h.issueDead
  · exact h.issueEmitJnl
  · exact h.issueEmitSeq

theorem MemOk.issueCmd {o : Sopc} (h : MemOk s) : IssuedOk (issueCmd o s x c) := by
  unfold Machine.issueCmd
  split
  · trivial
  extract_lets f
  split
  · exact (h.issueBy.st ‹_›).cmdWarn
  · exact h.issueBy

theorem MemOk.opComplete (h : MemOk s) : MemOk (opComplete s n) := by
  unfold Machine.opComplete
  split
  · exact h
  split
  · exact h
  split
  · exact h
  split
  · extract_lets s1
    have h1 : MemOk s1 := h.same
    exact h1.notifyUnit.ite h1
  · split
    · exact h
    split
    · exact h
    split
    · rename_i heq
      exact h.same.issueBy.st heq
    · exact h.opWaits
    · exact h.finishOp.ite h.faultOp
  · split
    · exact h
    split
    · exact h
    extract_lets s2
    have h2 : MemOk s2 := (h.settled_perform.some ‹_›).same
    exact h2.notifyUnit.ite h2
  · exact h.writeObject
  · exact h.startUnbind.ite h
  · exact h

theorem MemOk.stopChain {b : Bound} (h : MemOk s) : MemOk (stopChain s k b va) := by
  unfold Machine.stopChain
  extract_lets kind s1 base
  have h1 : MemOk s1 := h.modBound
  exact h1.writeRecord

theorem MemOk.entryStarted {s0 s1 : State} {e : Nat} {w : WarnBits} (h : MemOk s1) :
    MemOk (entryStarted s0 s1 x k e row c code w) := by
  unfold Machine.entryStarted
  extract_lets base s2
  have h2 : MemOk s2 := h.addOp.ite h.modOp
  exact h2.chainReads.modBound

theorem MemOk.entryStart (h : MemOk s) : MemOk (entryStart s k) := by
  unfold Machine.entryStart
  split
  · exact h
  extract_lets e mx va
  split
  · exact h
  split
  · exact h.modBound
  · exact h.chainFault
  extract_lets c x
  split
  · exact h.stopChain
  extract_lets f
  split
  · exact h
  split
  · exact h
  · exact h.entryStarted
  split
  · exact h
  · exact h.chainFault
  · exact ((IssuedOk.ite h.issueRecord h.issueBy).st ‹_›).entryStarted

end Sys2Proof.Safety
end

section
/-! SUPPORT. Memory stays canonical: block instances, cancels and kills. -/

set_option Elab.async false

namespace Sys2Proof.Safety

open Sys2Proof Sys2Proof.Machine

variable {s t : State} {u : UnitId} {w : WorkUnit} {x : Ctx} {e : Site} {o : EngOp} {k : ChainId} {val : Word} {cause : BitVec 16} {img : Image}
  {ws : List Word} {it : Inst} {sl : OpSlot} {n job va key ch lid j : Nat}

theorem MemOk.fabricTrap {k : Nat} {toks : List Token} (h : MemOk s) : MemOk (fabricTrap s e k cause val toks) := by
  unfold Machine.fabricTrap
  split
  · exact h
  split
  · extract_lets at_ bsel s1
    have h1 : MemOk s1 := h.markFaulted
    exact h1.writeRecord
  · exact h

theorem MemOk.fireRes_after {r : FireRes} (h : FireResOk r) (h1 : MemOk s) : MemOk (r.after e s) := by
  unfold Machine.FireRes.after
  split
  · exact h1
  · exact h
  · exact h.fabricTrap

theorem MemOk.memTrap {x : MemFire} (h : MemOk s) : MemOk (memTrap s n it img x sl cause val) := by
  unfold Machine.memTrap
  extract_lets e s1
  have h1 : MemOk s1 := h.putImage
  exact h1.modFire.fabricTrap

theorem MemOk.memWithhold {x : MemFire} (h : MemOk s) : MemOk (memWithhold s n it img x sl w cause va) := by
  unfold Machine.memWithhold
  extract_lets v s1 at_ bsel
  have h1 : MemOk s1 := h.modFire
  exact h1.ite h1.writeRecord

theorem MemOk.keepWaiting {x : MemFire} {w : OpWord} {on : List (Phys × Nat)} {read : Bool} (h : MemOk s) : MemOk (keepWaiting s n x w on read) :=
  h.same

theorem MemOk.issueFire {x : MemFire} (h : MemOk s) : MemOk (issueFire s n it img u w x sl) := by
  unfold Machine.issueFire
  extract_lets ws held key holds
  split
  · exact h.keepWaiting
  split
  · exact (h.issueOp.waits ‹_›).keepWaiting
  · exact h.memTrap
  · exact h.doomJob.ite (h.memWithhold.ite h.memTrap)
  split
  · exact h.keepWaiting
  extract_lets s2
  have h2 : MemOk s2 := (h.issueOp.done ‹_›).foldl fun _ _ ht => ht.markExternal
  split
  · exact h2.chainDone
  · exact h2

theorem MemOk.retryIssued {op : Nat} (h : MemOk s) : MemOk (retryIssued n s op) := by
  unfold Machine.retryIssued
  split
  · exact h
  · exact h.ite h.issueFire

theorem MemOk.waveIssue (h : MemOk s) : MemOk (waveIssue s n) := by
  unfold Machine.waveIssue
  extract_lets s1
  have h1 : MemOk s1 := by
    unfold s1
    refine h.foldl fun t x ht => ?_
    exact ht.retryIssued
  split
  · exact h1
  · exact h1.ite h1.issueFire

theorem MemOk.replayFire {op : Nat} (h : MemOk s) : MemOk (replayFire n s op) := by
  unfold Machine.replayFire
  split
  · exact h
  split
  · exact h.issueFire.ite h
  · exact h

theorem MemOk.fireRewalk (h : MemOk s) : MemOk (fireRewalk s n) := by
  unfold Machine.fireRewalk
  refine h.foldl fun t x ht => ?_
  exact ht.replayFire

theorem MemOk.monExpire {op : Nat} (h : MemOk s) : MemOk (monExpire n s op) := by
  unfold Machine.monExpire
  split
  · exact h
  split
  · split
    · exact h
    extract_lets sz
    split
    · exact h.doomJob.ite (h.memWithhold.ite h)
    split
    · exact h
    extract_lets v t
    exact h.chainDone
  · exact h

theorem MemOk.monTimeout (h : MemOk s) : MemOk (monTimeout s n) := by
  unfold Machine.monTimeout
  refine h.foldl fun t x ht => ?_
  exact ht.monExpire

theorem MemOk.fabricCopy {tmpl : Nat} {ds dd : Int} (h : MemOk s) : Answers MemOk (fabricCopy s o ch tmpl ds dd) := by
  unfold Machine.fabricCopy
  split
  · exact .ok h
  · exact h.startCopy.map fun _ ht => ht

theorem MemOk.applyDeferred {d : Deferred} (h : MemOk s) : Answers MemOk (applyDeferred u w s d) := by
  unfold Machine.applyDeferred
  split
  · extract_lets s1
    have h1 : MemOk s1 := h.writePhys.markExternal
    refine .ok ?_
    split
    · exact h1.foldl fun _ _ ht => ht.setFull
    · exact h1
  · exact h.fabricCopy

theorem MemOk.applyAll {ds : List Deferred} (h : MemOk s) : Answers MemOk (applyAll u w ds s) := by
  induction ds generalizing s with
  | nil => exact .ok h
  | cons d ds ih => exact h.applyDeferred.bind fun t ht => ih ht

theorem MemOk.commitFault (h : MemOk s) : MemOk (commitFault s n it w cause va) := by
  unfold Machine.commitFault
  split
  · exact h.doomJob
  extract_lets v place s1
  have h1 : MemOk s1 := h.same
  exact h1.ite h1.recordEng

theorem MemOk.commitInst (h : MemOk s) : MemOk (commitInst s n it w) := by
  unfold Machine.commitInst
  split
  · exact h
  split
  · rename_i heq
    exact h.same.applyAll.value heq
  · exact h
  · exact h.commitFault

theorem MemOk.blockCommit (h : MemOk s) : MemOk (blockCommit s n) := by
  unfold Machine.blockCommit
  split
  · exact h
  split
  · exact h
  · exact h.ite h.commitInst

theorem MemOk.commitEnded {fuel : Nat} (h : MemOk s) : MemOk (commitEnded fuel s u) := by
  induction fuel generalizing s with
  | zero => exact h
  | succ fuel ih =>
    unfold Machine.commitEnded
    extract_lets s1
    have h1 : MemOk s1 := h.foldl fun _ _ ht => ht.blockCommit.ite ht
    exact h.ite (ih h1)

theorem MemOk.settleEnded (h : MemOk s) : MemOk (settleEnded s u) := by
  unfold Machine.settleEnded
  extract_lets s1
  have h1 : MemOk s1 := h.commitEnded
  split
  · exact h1
  · exact h1.same.ite h1

theorem MemOk.waveRewalk (h : MemOk s) : MemOk (waveRewalk s n) := by
  unfold Machine.waveRewalk
  split
  · exact h
  split
  · split
    · exact h
    · exact h.commitInst
    · exact h.same
  · exact h.fireRewalk

theorem MemOk.opRewalk (h : MemOk s) : MemOk (opRewalk s n) := by
  unfold Machine.opRewalk
  split
  · exact h
  split
  · exact h
  split
  · exact h
  · exact h.modOp.writeObject
  · exact h.modOp

theorem MemOk.endOps {which : EngOp → Bool} (h : MemOk s) : MemOk (endOps s which) := by
  unfold Machine.endOps
  refine h.foldl fun t x ht => ?_
  split
  · split
    · exact ht.modOp
    · exact ht
    · exact ht.abortOp
  · exact ht

theorem MemOk.cancelOps {which : EngOp → Bool} (h : MemOk s) : MemOk (cancelOps s which) := by
  unfold Machine.cancelOps
  dsimp only
  refine h.endOps.foldl fun t x ht => ?_
  split
  · split
    · exact ht.cutCopies
    · exact ht.abortOp
  · exact ht

theorem MemOk.endUnit (h : MemOk s) : MemOk (endUnit s u w) := h.same.unitEnds

theorem MemOk.countFirst (h : MemOk s) : MemOk (countFirst s u) := by
  unfold Machine.countFirst
  split
  · exact h
  · exact h.endUnit.ite h

theorem MemOk.discardWork (h : MemOk s) : MemOk (discardWork s u) := by
  unfold Machine.discardWork
  extract_lets gone
  exact h.same

theorem MemOk.discardSave (h : MemOk s) : MemOk (discardSave s u w) := by
  unfold Machine.discardSave
  split
  · extract_lets s1
    have h1 : MemOk s1 := h.same.foldl fun _ _ ht => ht.endHeld
    exact h1.ite h1.setNunit
  · exact h

theorem MemOk.stopUnit (h : MemOk s) : MemOk (stopUnit s u) := by
  unfold Machine.stopUnit
  extract_lets s0
  have h0 : MemOk s0 := h.settleEnded
  split
  · exact h0
  · extract_lets s1 s2 s3
    have h1 : MemOk s1 := h0.discardSave
    have h2 : MemOk s2 := h1.same
    have h3 : MemOk s3 := h2.discardWork.commitEnded.clearHalts
    clear_value s3
    exact h3.same.cancelOps

theorem MemOk.cancelUnit (h : MemOk s) : MemOk (cancelUnit s u) := by
  unfold Machine.cancelUnit
  extract_lets s1
  have h1 : MemOk s1 := h.countFirst
  split
  · exact h1
  · exact h1.ite h1.stopUnit

theorem MemOk.cancelLaunch {s00 : State} (h : MemOk s00) : MemOk (cancelLaunch s00 lid) := by
  unfold Machine.cancelLaunch
  extract_lets s spilled
  have hs : MemOk s := by
    unfold s
    refine h.foldl fun t x ht => ?_
    exact ht.countFirst
  split
  · exact hs
  split
  · exact hs
  extract_lets s0 s1 us
  have h0 : MemOk s0 := hs.same.enterPool.ite hs
  have h1 : MemOk s1 := h0.modLaunch
  refine h1.endOps.foldl fun t x ht => ?_
  exact ht.cancelUnit

theorem MemOk.cancelLaunches {s0 : State} {which : Launch → Bool} (h : MemOk s0) : MemOk (cancelLaunches s0 job which) := by
  unfold Machine.cancelLaunches
  extract_lets hit units s1 us
  have h1 : MemOk s1 := by
    unfold s1
    refine h.foldl fun t x ht => ?_
    exact ht.countFirst
  exact h1.endOps.foldl fun _ _ ht => ht.cancelLaunch.ite ht

theorem MemOk.stopChains (h : MemOk s) : MemOk (stopChains s job) := by
  unfold Machine.stopChains
  extract_lets stop
  exact h.same

theorem MemOk.freeChains (h : MemOk s) : MemOk (freeChains s job) := by
  unfold Machine.freeChains
  refine h.foldl fun t x ht => ?_
  split
  · exact ht.freeChain.ite ht
  · exact ht

theorem MemOk.faultForKill {cause : Option (BitVec 16)} (h : MemOk s) : MemOk (faultForKill cause s u) := by
  unfold Machine.faultForKill
  split
  · exact h.markFaulted
  · exact h

theorem MemOk.killRest {j : Job} {cause : Option (BitVec 16)} {st : LvlStatus} (h : MemOk s) : MemOk (killRest s job j cause st) := by
  unfold Machine.killRest
  extract_lets hitLaunch mine base s1 s2 s3 drop s4
  have h1 : MemOk s1 := by
    unfold s1
    refine h.same.foldl fun t x ht => ?_
    exact ht.faultForKill
  have h2 : MemOk s2 := h1.endOps.cancelLaunches
  have h3 : MemOk s3 := h2.stopChains.cancelOps
  have h4 : MemOk s4 := h3.same
  exact h4.freeChains.settleLevels.settleJob

theorem MemOk.killJob {s00 : State} {cause : Option (BitVec 16)} (h : MemOk s00) : MemOk (killJob s00 job cause) := by
  unfold Machine.killJob
  split
  · exact h
  split
  · exact h
  extract_lets st base s0 s
  have h0 : MemOk s0 := h.same
  have hs : MemOk s := by
    unfold s
    refine h0.foldl fun t x ht => ?_
    exact ht.countFirst
  split
  · exact hs
  · exact hs.ite hs.killRest

theorem MemOk.settleDooms (h : MemOk s) : MemOk (settleDooms s) := by
  unfold Machine.settleDooms
  refine h.foldl fun t x ht => ?_
  split
  · exact ht.same.killJob
  · exact ht

theorem MemOk.settleKills (h : MemOk s) : MemOk (settleKills s) := h.foldl fun _ _ ht => ht.settleJob.ite ht

theorem MemOk.settle (h : MemOk s) : MemOk (settle s) := h.settleDooms.settleKills.ite h

theorem MemOk.done (h : MemOk s) : Goes (done s) := h.settle

theorem MemOk.cancelLevel {r : LevelRef} (h : MemOk s) : MemOk (cancelLevel s job r) := by
  unfold Machine.cancelLevel
  split
  · exact h.cancelUnit
  · exact h
  · exact h.cancelLaunch.settleLevels
  · exact h.cancelLaunches.settleLevels
  · exact h.cancelLaunches.settleLevels
  · exact h.killJob

theorem MemOk.unitComplete (h : MemOk s) : MemOk (unitComplete s u) := by
  unfold Machine.unitComplete
  split
  · exact h
  · exact h.endUnit.ite h

theorem MemOk.withSail (h : MemOk s) : MemOk (withSail s img) := h.same

theorem MemOk.faultedUnitEnd (h : MemOk s) : MemOk (faultedUnitEnd s u) := by
  unfold Machine.faultedUnitEnd
  split
  · exact h
  extract_lets still
  exact h.cancelUnit.unitComplete.ite h

end Sys2Proof.Safety
end

section
/-! SUPPORT. Memory stays canonical: the loader, queues, frame tables and sequencers. -/

set_option Elab.async false

namespace Sys2Proof.Safety

open Sys2Proof Sys2Proof.Machine

variable {s t : State} {u : UnitId} {w : WorkUnit} {c : Cmd128} {x : Ctx} {e : Site} {k : ChainId} {rd rs1 : Reg} {f : PcieFn} {val : Word}
  {cause : BitVec 16} {asid : BitVec 12} {img : Image} {bs : List Byte} {ws : List Word} {tp : Tp} {sl : OpSlot}
  {die n q va key m code tile lid l j : Nat}

theorem MemOk.applyWarns {ws : List (Nat × Nat × BitVec 8 × BitVec 7)} (h : MemOk s) : MemOk (applyWarns s img ws) := by
  unfold Machine.applyWarns
  dsimp only
  refine h.foldl fun t x ht => ?_
  split
  · exact ht
  · exact ht.setWarn

theorem MemOk.rebind (h : MemOk s) : MemOk (rebind s u w) := by
  unfold Machine.rebind
  extract_lets mine entry fix
  exact h.same

theorem MemOk.zeroLanes (h : MemOk s) : MemOk (zeroLanes s img) := by
  unfold Machine.zeroLanes
  extract_lets other words
  exact h.same

theorem MemOk.placeImage {plane : Nat} {src : List Byte} (h : MemOk s) : MemOk (placeImage s u w die tile plane src va).s := by
  unfold Machine.placeImage
  dsimp only
  split
  · exact h
  split
  · exact h
  split
  · exact h
  split
  · exact h
  split
  · exact h
  split
  · exact h
  · exact h.same.zeroLanes.applyWarns.rebind

theorem MemOk.addLaunch {l : Launch} (h : MemOk s) : MemOk (addLaunch s l).1 := h.same

theorem MemOk.postTo {l : Launch} {e : Nat} (h : MemOk s) : MemOk (postTo s l e) := by
  unfold Machine.postTo
  extract_lets a
  have ha : MemOk a.1 := h.addLaunch
  exact ha.enterPool

theorem MemOk.postLaunch (h : MemOk s) : PostedOk (postLaunch s u w ws) := by
  unfold Machine.postLaunch
  extract_lets p base l mine a base'
  have ha : MemOk a.1 := h.addLaunch
  have hbase' : MemOk base' := ha
  split
  · trivial
  split
  · exact h.postTo.settleLevels
  · exact h.postTo.settleLevels
  split
  · exact hbase'.same
  · trivial

theorem MemOk.modQueue {f : Queue → Queue} (h : MemOk s) : MemOk (modQueue s q f) := h.same

theorem MemOk.logItem {x : LogItem} (h : MemOk s) : MemOk (logItem s x) := h.same

theorem MemOk.notifyAt {ridx : Nat} (h : MemOk s) : MemOk (notifyAt s q val ridx) := h.modQueue

theorem MemOk.notifyQueue (h : MemOk s) : MemOk (notifyQueue s q val) := h.notifyAt

theorem MemOk.cancelQueue {y : Word} (h : MemOk s) : MemOk (cancelQueue s q y) := by
  unfold Machine.cancelQueue
  split
  · exact h
  split
  · exact h
  split
  · exact h.cancelLevel.ite h.modQueue
  · exact h.modQueue

theorem MemOk.queryQueue {y : Word} (h : MemOk s) : MemOk (queryQueue s q y) := by
  unfold Machine.queryQueue
  split
  · exact h
  · exact h.modQueue

theorem MemOk.refusePacket (h : MemOk s) : MemOk (refusePacket s q code) := h.modQueue

theorem MemOk.acceptWords {k : QueueId} {x : Queue} (h : MemOk s) : MemOk (acceptWords s k x ws) := by
  unfold Machine.acceptWords
  extract_lets q p code
  split
  · exact h.refusePacket
  split
  · exact h.modQueue
  split
  · exact h.modQueue
  extract_lets s1 s2 s3
  have h1 : MemOk s1 := h.same.postTo
  have h2 : MemOk s2 := h1.modQueue
  have h3 : MemOk s3 := h2.storeOr
  exact h3.raiseQueue.logItem.settleLevels

theorem MemOk.ringFault {x : Queue} (h : MemOk s) : MemOk (ringFault s q x cause va) := by
  unfold Machine.ringFault
  split
  · exact h.doomJob
  extract_lets v seen s1
  have h1 : MemOk s1 := h.modQueue
  exact h1.ite h1.writeRecord

theorem MemOk.mcLoad (h : MemOk s) : MemOk (mcLoad s key asid die va n).1 := by
  unfold Machine.mcLoad
  dsimp only
  split
  · exact h.same
  split
  · exact h.same
  · exact h.same

theorem MemOk.packetAccept {k : QueueId} (h : MemOk s) : MemOk (packetAccept s k) := by
  unfold Machine.packetAccept
  extract_lets q
  split
  · exact h
  extract_lets again r base
  have hr : MemOk r.1 := h.mcLoad
  have hbase : MemOk base := hr
  split
  · exact h
  split
  · split
    · exact h
    extract_lets s1
    have h1 : MemOk s1 := h.acceptWords
    exact h1.ite h1.same
  split
  · exact h.same.acceptWords
  split
  · exact h
  split
  · exact hbase.same.acceptWords
  · exact hr.ringFault
  · exact hr

theorem MemOk.checkStart (h : MemOk s) : MemOk (checkStart s u w) := h.ite h.putUnit.launchFaults.recordSeq

theorem MemOk.adoptImage (h : MemOk s) : MemOk (adoptImage s u w) := by
  unfold Machine.adoptImage
  split
  · exact h.same.rebind.ite h
  · exact h

theorem MemOk.bindUnit {l : Launch} {e : Nat} {seeds : List Word} (h : MemOk s) : MemOk (bindUnit s lid l e tp seeds) := by
  unfold Machine.bindUnit
  extract_lets u w sl s1 s2 s3
  have h1 : MemOk s1 := h.same
  have h2 : MemOk s2 := h1.modLaunch
  have h3 : MemOk s3 := h2.same.ite h2
  exact h3.adoptImage.checkStart.settleLevels

theorem MemOk.bindHeld {l : Launch} (h : MemOk s) : MemOk (bindHeld s lid l tp) := by
  unfold Machine.bindHeld
  extract_lets s1
  have h1 : MemOk s1 := h.modLaunch
  exact h1.writeRecord.settleLevels

theorem MemOk.seedsOf {l : Launch} (h : MemOk s) : MemOk (seedsOf s lid l).1 := by
  unfold Machine.seedsOf
  dsimp only
  split
  · exact h
  split
  · exact h.mcLoad
  · exact h.mcLoad.doomJob.ite (h.mcLoad.writeRecord.ite h.mcLoad)
  · exact h.mcLoad

theorem MemOk.turnTaken {l : Launch} (h : MemOk s) : MemOk (turnTaken s l tile) := h.same.ite h

theorem MemOk.bindRecord {rec : Word} (h : MemOk s) : MemOk (bindRecord s die rec) := by
  unfold Machine.bindRecord
  extract_lets e tp sl
  split
  · exact h
  split
  · exact h
  split
  · exact h.turnTaken.bindHeld
  split
  · exact h
  extract_lets r
  have hr : MemOk r.1 := h.seedsOf
  split
  · exact hr.turnTaken.bindUnit
  · exact hr

theorem MemOk.countWatchdogs (h : MemOk s) : MemOk (countWatchdogs s n) := h.same

theorem MemOk.wdcfgSet (h : MemOk s) : MemOk (wdcfgSet s q val) := h.modQueue

theorem MemOk.wdKick (h : MemOk s) : MemOk (wdKick s q) := h.modQueue

theorem MemOk.partitionReset (h : MemOk s) : MemOk (partitionReset s q) := by
  unfold Machine.partitionReset
  split
  · exact h
  split
  · exact h
  extract_lets stop s1
  have h1 : MemOk s1 := h.same
  exact h1.killJob

theorem MemOk.resetDone (h : MemOk s) : MemOk (resetDone s q) := by
  unfold Machine.resetDone
  split
  · exact h
  · exact h.modQueue.ite h

theorem MemOk.postHandler {x : Queue} {bs : Option (List Byte)} (h : MemOk s) : MemOk (postHandler s q x bs) := by
  unfold Machine.postHandler
  extract_lets refuse
  have hrefuse : MemOk refuse := h.modQueue
  split
  · exact hrefuse
  extract_lets p named
  split
  · exact hrefuse
  · exact h.postTo.settleLevels

theorem MemOk.postPacket {x : Queue} (h : MemOk s) : MemOk (postPacket s q x) := by
  unfold Machine.postPacket
  extract_lets r put s1
  have hr : MemOk r.1 := h.mcLoad
  have hput : ∀ (b : Bool), MemOk (put b) := by
    intro b
    unfold put
    exact hr.modQueue
  have h1 : MemOk s1 := hput _
  split
  · exact (hput _).postHandler
  · exact ((h1.foldl (fun _ _ ht => ht.doomJob.ite ht)).ite h1).postHandler
  · exact hput _

theorem MemOk.countQueue (h : MemOk s) : MemOk (countQueue s q) := h.foldl fun _ _ ht => ht.countFirst.ite ht

theorem MemOk.expire {x : Queue} (h : MemOk s) : MemOk (expire s q x) := by
  unfold Machine.expire
  extract_lets s1 s2
  have h1 : MemOk s1 := h.modQueue
  have h2 : MemOk s2 := h1.postPacket.ite h1
  exact (h2.partitionReset.ite h2).raiseQueue

theorem MemOk.watchdogExpiry {s0 : State} (h : MemOk s0) : MemOk (watchdogExpiry s0 q) := by
  unfold Machine.watchdogExpiry
  extract_lets s
  have hs : MemOk s := h.countQueue
  split
  · exact hs
  · exact hs.postPacket.ite (hs.ite hs.expire)

theorem MemOk.writeQueueReg {r : Nat} (h : MemOk s) : MemOk (writeQueueReg s f q r val) := by
  unfold Machine.writeQueueReg
  split
  · exact h
  split
  · exact h.notifyQueue
  · exact h.modQueue
  · exact h.cancelQueue
  · exact h.queryQueue
  · exact h.wdcfgSet
  · exact h.modQueue
  · exact h.modQueue.ite h
  · exact h.wdKick.ite (h.partitionReset.ite h)
  · exact h.modQueue
  · exact h

theorem MemOk.hostQueueWrite {k : QueueId} {r : Nat} (h : MemOk s) : MemOk (hostQueueWrite s f k r val) := by
  unfold Machine.hostQueueWrite
  split
  · exact h
  extract_lets s1
  have h1 : MemOk s1 := by
    unfold s1
    split
    · exact h.logItem
    · exact h
  exact h1.writeQueueReg

theorem MemOk.putFrame {f : Frame} (h : MemOk s) : MemOk (putFrame s die f) := h.same

theorem MemOk.writeTable (h : MemOk s) : MemOk (writeTable s die ws) := h.ite h.putFrame

theorem MemOk.beginEntry {f : Frame} {e : FrameEntry} {start : Word} (h : MemOk s) : MemOk (beginEntry s die f j e start) := h.putFrame

theorem MemOk.beginFrame {f : Frame} {start : Word} (h : MemOk s) : MemOk (beginFrame s die f start) := by
  unfold Machine.beginFrame
  split
  · exact h.beginEntry
  · exact h.putFrame

theorem MemOk.nextFrame {f : Frame} {t : Word} (h : MemOk s) : MemOk (nextFrame s die f t) := by
  unfold Machine.nextFrame
  extract_lets f1 start
  exact h.putFrame.ite h.beginFrame

theorem MemOk.frameEntryEnd (h : MemOk s) : MemOk (frameEntryEnd s die) := by
  unfold Machine.frameEntryEnd
  extract_lets f gang
  split
  · exact h
  split
  · exact h.nextFrame.ite (h.ite h.beginFrame)
  extract_lets t
  split
  · exact h
  split
  · exact h.beginEntry
  · exact h.nextFrame

theorem MemOk.framesAct (h : MemOk s) : MemOk (framesAct s) := by
  unfold Machine.framesAct
  refine h.foldl fun t x ht => ?_
  exact ht.frameEntryEnd

theorem MemOk.restartFrame (h : MemOk s) : MemOk (restartFrame s die) := by
  unfold Machine.restartFrame
  extract_lets f
  exact h.putFrame.frameEntryEnd

theorem MemOk.restartFrames (h : MemOk s) : MemOk (restartFrames s) := by
  unfold Machine.restartFrames
  refine h.foldl fun t x ht => ?_
  exact ht.restartFrame

theorem MemOk.trapSeq {resume : BitVec 57} {word : BitVec 32} {val2 : Word} (h : MemOk s) : MemOk (trapSeq s u w resume cause val word val2) := by
  unfold Machine.trapSeq
  extract_lets w1 s1
  have h1 : MemOk s1 := h.same
  exact h1.putUnit.ite h1.putUnit.launchFaults.recordSeq

theorem MemOk.trapHere {i : Instr} (h : MemOk s) : Goes (trapHere s u w cause val i) := h.trapSeq.done

theorem MemOk.seqFault {acc : Access} {word : BitVec 32} (h : MemOk s) : MemOk (seqFault s u w acc cause va word) := by
  unfold Machine.seqFault
  extract_lets v
  exact h.doomJob.ite (h.putUnit.recordSeq.ite h.trapSeq)

theorem MemOk.seqRewalk (h : MemOk s) : MemOk (seqRewalk s u) := by
  unfold Machine.seqRewalk
  split
  · exact h
  split
  · exact h
  split
  · exact h
  split
  · exact h.putUnit
  · exact h.doomJob.ite (h.trapSeq.ite h.putUnit.launchFaults)

theorem MemOk.stayOn {on : List (Phys × Nat)} (h : MemOk s) : MemOk (stayOn s u w on) := h.putUnit

theorem MemOk.seqRead_andThen {r : SeqRead} {acc : Access} {i : Instr} {k : List Byte → Res} (h : MemOk s) (hk : ∀ bs, Goes (k bs)) :
    Goes (r.andThen s u w acc va i k) := by
  cases r with
  | ok bs => exact hk bs
  | bad c va => exact h.seqFault.done
  | poison => exact h.trapHere
  | waits on => exact h.stayOn

theorem MemOk.waitIn {i : Instr} {packet : List Word} {on : optParam (List (Phys × Nat)) []} (h : MemOk s) : Goes (waitIn s u w i packet on) := by
  unfold Machine.waitIn
  extract_lets start
  exact h.putUnit

theorem MemOk.retiredWait {v : Word} (h : MemOk s) : MemOk (retiredWait s u w rd v) := h.same.putUnit

theorem MemOk.retireWait {v : Word} (h : MemOk s) : Goes (retireWait s u w rd v) := h.retiredWait

theorem MemOk.onWaiting {f : WorkUnit → Word → Instr → List Word → Res} (h : MemOk s) (hf : ∀ w t i ws, Goes (f w t i ws)) :
    Goes (onWaiting s u f) := by
  unfold Machine.onWaiting
  split
  · exact h
  · split
    · split
      · exact hf _ _ _ _
      · exact h
    · exact h

theorem MemOk.fetch (h : MemOk s) : FetchedOk (fetch s u w) := by
  unfold Machine.fetch
  extract_lets a read
  have hread : FetchedOk read := by
    unfold read
    split
    · trivial
    · show MemOk _
      exact h.seqFault.settle
    · show MemOk _
      exact h.trapSeq.settle
    show MemOk _
    exact h.stayOn
  split
  · split
    · trivial
    · exact hread
  · exact hread

theorem MemOk.putOwnRegs {r : TpRegs} (h : MemOk s) : MemOk (putOwnRegs s w r) := h.same

theorem MemOk.csrWrite {n : BitVec 12} {v clr : Word} (h : MemOk s) : MemOk (csrWrite s w n v clr).1 := by
  unfold Machine.csrWrite
  dsimp only
  split
  · exact h.putOwnRegs
  · exact h.putOwnRegs
  · exact h.putOwnRegs
  · exact h
  · exact h
  · exact h
  · exact h
  · exact h
  · exact h

theorem MemOk.csrAccess {m : CsrOp} {n : BitVec 12} {i : Instr} (h : MemOk s) : Goes (csrAccess m rd rs1 n i s) := by
  unfold Machine.csrAccess
  dsimp only
  refine h.onUnit fun u w => ?_
  split
  · exact h.trapHere
  split
  · exact h.trapHere
  split
  · exact h.retire
  · exact h.csrWrite.retire

end Sys2Proof.Safety
end

section
/-! SUPPORT. Memory stays canonical: saves and restores, bring-up, and the mailbox. -/

set_option Elab.async false

namespace Sys2Proof.Safety

open Sys2Proof Sys2Proof.Machine

variable {s t : State} {u : UnitId} {w : WorkUnit} {x : Ctx} {o : EngOp} {k : ChainId} {f : PcieFn} {asid : BitVec 12} {img : Image}
  {bs : List Byte} {ws : List Word} {tp : Tp} {sv : SavedUnit} {sl : OpSlot} {job va key ch m code tile off l j : Nat}

theorem MemOk.beginSave {s0 : State} {w0 : WorkUnit} {reason : Nat} (h : MemOk s0) : MemOk (beginSave s0 u w0 reason) := by
  unfold Machine.beginSave
  extract_lets s w gone seq
  have hs : MemOk s := h.settleEnded
  exact hs.same

theorem MemOk.raiseReq {d : Nat} (h : MemOk s) : MemOk (raiseReq s u d) := by
  unfold Machine.raiseReq
  split
  · exact h
  · exact h.ite h.putUnit

theorem MemOk.withdrawReq (h : MemOk s) : MemOk (withdrawReq s u) := by
  unfold Machine.withdrawReq
  split
  · exact h
  · exact h.putUnit.ite h

theorem MemOk.preemptRequest {d : Nat} (h : MemOk s) : MemOk (preemptRequest s u d) := h.withdrawReq.ite (h.raiseReq.ite h)

theorem MemOk.preemptDeadline (h : MemOk s) : MemOk (preemptDeadline s u) := by
  unfold Machine.preemptDeadline
  split
  · exact h
  · exact h.ite h.beginSave

theorem MemOk.unloadUnit {reason rec : Nat} (h : MemOk s) : MemOk (unloadUnit s u w sv reason rec) := by
  unfold Machine.unloadUnit
  extract_lets s1
  have h1 : MemOk s1 := h.clearHalts.unbindSlots
  exact h1.same

theorem MemOk.saveComplete (h : MemOk s) : MemOk (saveComplete s u) := by
  unfold Machine.saveComplete
  split
  · exact h
  split
  · extract_lets sv
    split
    · exact h.unloadUnit
    split
    · exact h
    split
    · exact h.saveFault
    split
    · exact h
    split
    · exact (h.storeExempt.value ‹_›).unloadUnit.setNunit
    · exact h.saveFault
    · exact h
  · exact h

theorem MemOk.restoreWords {old : Image} (h : MemOk s) : MemOk (restoreWords s sv img old) := by
  unfold Machine.restoreWords
  extract_lets at_
  exact h.same

theorem MemOk.restoreRegs {old : Image} (h : MemOk s) : MemOk (restoreRegs s sv img old) := by
  unfold Machine.restoreRegs
  extract_lets moves
  exact h.same

theorem MemOk.restoreOwn (h : MemOk s) : MemOk (restoreOwn s sv tp) := by
  unfold Machine.restoreOwn
  split
  · exact h.same
  · exact h

theorem restoredOk_unread {α : Type} {g : Got α} : RestoredOk g.unread := by
  unfold Got.unread
  split
  · split <;> trivial
  · trivial

theorem MemOk.restoreImage {old : Image} {dst : Tp} {crc : Nat} {toks : List (Nat × Nat × Token)} (h : MemOk s) :
    RestoredOk (restoreImage s u w sv old key dst va crc toks) := by
  unfold Machine.restoreImage
  extract_lets read move
  clear_value read
  split
  · split
    · trivial
    extract_lets r
    have hr : MemOk r.s := h.placeImage
    split
    · trivial
    split
    · trivial
    split
    · trivial
    extract_lets s1
    have h1 : MemOk s1 := hr.restoreWords.restoreRegs
    exact h1.same
  · exact restoredOk_unread

theorem MemOk.restoreImages {toks : List (Nat × Nat × Token)} {imgs : List (Nat × Image)} (h : MemOk s) :
    RestoredOk (restoreImages u w sv bs toks imgs s) := by
  induction imgs generalizing s toks with
  | nil => exact h
  | cons img imgs ih =>
    obtain ⟨key, old⟩ := img
    unfold Machine.restoreImages
    extract_lets own dst k
    split
    · exact ih (h.restoreImage.ok ‹_›)
    · exact h.restoreImage

theorem MemOk.settleAllAcks (h : MemOk s) : MemOk (settleAllAcks s) := h.foldl fun _ _ ht => ht.ite ht.settleAcks

theorem MemOk.restoreAt {rec : Nat} (h : MemOk s) : RestoredOk (restoreAt s u w sv rec tp) := by
  unfold Machine.restoreAt
  extract_lets here read sl moveRec
  clear_value read
  split
  · split
    · trivial
    split
    · trivial
    extract_lets w1 s1
    have h1 : MemOk s1 := h.same
    split
    · extract_lets s3 s4
      have h3 : MemOk s3 := (h1.restoreImages.ok ‹_›).restoreOwn
      have h4 : MemOk s4 := h3.same
      exact (h4.ite h4.setNunit).settleAllAcks
    · exact h1.restoreImages
  · exact restoredOk_unread

theorem MemOk.restoreFails {rec : Nat} (h : MemOk s) : MemOk (restoreFails s u w rec) := by
  unfold Machine.restoreFails
  extract_lets off s1
  have h1 : MemOk s1 := h.markFaulted
  exact h1.writeRecord.cancelUnit

theorem MemOk.restoreFirst {tps : List Tp} (h : MemOk s) : MemOk (restoreFirst s u tps) := by
  induction tps with
  | nil => exact h
  | cons tp tps ih =>
    unfold Machine.restoreFirst
    split
    · split
      · split
        · exact ih
        · split
          · exact h.restoreAt.ok ‹_›
          · exact ih
          · exact h.restoreFails
          · exact h.doomJob
          · exact h
      · exact h
    · exact h

theorem MemOk.unitRestore (h : MemOk s) : MemOk (unitRestore s u tp) := h.restoreFirst

theorem MemOk.jibMove {places : List Tp} (h : MemOk s) : MemOk (jibMove s u places) := by
  unfold Machine.jibMove
  split
  · exact h
  · exact h.beginSave.saveComplete.restoreFirst.ite h

theorem MemOk.retryJibs (h : MemOk s) : MemOk (retryJibs s) := by
  unfold Machine.retryJibs
  refine h.foldl fun t x ht => ?_
  split
  · exact ht.restoreFirst
  · exact ht

theorem MemOk.startFirmware {o : Offer} (h : MemOk s) : MemOk (startFirmware s o) := by
  unfold Machine.startFirmware
  extract_lets s1
  have h1 : MemOk s1 := h.same
  exact h1.of_snap

theorem MemOk.verifyOffer {o : Offer} (h : MemOk s) : MemOk (verifyOffer s o) := h.startFirmware.ite h.same

theorem MemOk.bringUp (h : MemOk s) : MemOk (bringUp s) := by
  unfold Machine.bringUp
  split
  · exact h.verifyOffer
  · exact h

theorem MemOk.deviceReset (h : MemOk s) : MemOk (deviceReset s) := .intro memOk_reset.mem h.sysMem memOk_reset.snap

theorem MemOk.putMbox {m : Mailbox} (h : MemOk s) : MemOk (putMbox s f m) := h.same

theorem MemOk.respond {status value : Nat} (h : MemOk s) : MemOk (respond s f status value) := by
  unfold Machine.respond
  extract_lets m tag s1
  have h1 : MemOk s1 := h.writePhys
  exact h1.putMbox

theorem MemOk.answer {act : State → State} (h : MemOk s) (hact : ∀ s, MemOk s → MemOk (act s)) : MemOk (answer s f code act) :=
  h.respond.ite (hact _ h).respond

theorem MemOk.submit (h : MemOk s) : MemOk (submit s f) := by
  unfold Machine.submit
  extract_lets m ws s1
  have h1 : MemOk s1 := h.putMbox
  split
  · exact h
  split
  · split
    · exact h.verifyOffer
    · exact h.same
    · exact h
  · exact h.putMbox.ite (h1.respond.ite (h1.respond.ite (h1.respond.ite h1)))

theorem MemOk.qcreate (h : MemOk s) : MemOk (qcreate s f) := by
  unfold Machine.qcreate
  split
  · exact h
  extract_lets a key asid nent old foreign vf code
  refine h.answer fun s ht0 => ?_
  exact ht0.same

theorem MemOk.removeQueue (h : MemOk s) : MemOk (removeQueue s key) := by
  unfold Machine.removeQueue
  extract_lets fresh fix
  exact h.same

theorem MemOk.qdestroy (h : MemOk s) : MemOk (qdestroy s f) := by
  unfold Machine.qdestroy
  split
  · exact h
  extract_lets a key code
  refine h.answer fun s ht0 => ?_
  exact ht0.removeQueue

theorem MemOk.openJob {j : Job} (h : MemOk s) : MemOk (openJob s job j) := by
  unfold Machine.openJob
  extract_lets orphan s1
  have h1 : MemOk s1 := h.same
  split
  · exact h1.storeExempt.value ‹_›
  · exact h1.doomJob.ite h1
  · exact h1

theorem MemOk.jobopen (h : MemOk s) : MemOk (jobopen s f) := by
  unfold Machine.jobopen
  split
  · exact h
  extract_lets job j opened mine range mapped overlap root code
  refine h.answer fun s ht0 => ?_
  exact ht0.openJob

theorem MemOk.jobclose (h : MemOk s) : MemOk (jobclose s f) := by
  unfold Machine.jobclose
  split
  · exact h
  extract_lets asid job code
  dsimp only
  refine h.answer fun s ht0 => ?_
  exact ht0.same.settleJob

theorem MemOk.phasebnd (h : MemOk s) : MemOk (phasebnd s f) := by
  unfold Machine.phasebnd
  split
  · exact h
  extract_lets asid job full pending code
  exact h.ite (h.respond.ite h.same)

theorem MemOk.holdSlots {g : GrantReq} (h : MemOk s) : MemOk (holdSlots s g job) := h.same

theorem MemOk.loadJib {g : GrantReq} (h : MemOk s) : OptionOk (loadJib s g job) := by
  unfold Machine.loadJib
  extract_lets r tile va u pkt l w
  split
  · extract_lets x
    have hx : MemOk x.s := h.same.placeImage
    split
    · exact hx.unbindSlots
    · trivial
  · trivial

theorem MemOk.giveGrant {g : GrantReq} (h : MemOk s) : OptionOk (giveGrant s g) := by
  unfold Machine.giveGrant
  extract_lets job ch savea base base' base'' j base''' r
  split
  · exact h.holdSlots
  · split
    · exact h
    · exact h.putChan
  · exact h.foldl fun _ _ ht => ht.ite ht.putTmpl
  · exact h.putChain
  · exact h.putChain
  · exact h.putJournal
  · exact h.holdSlots.loadJib.map fun _ ht => ht.same.retryJibs

theorem MemOk.grant (h : MemOk s) : MemOk (grant s f) := by
  unfold Machine.grant
  split
  · exact h
  extract_lets g code
  split
  · exact h.respond
  split
  · exact (h.giveGrant.some ‹_›).respond
  · exact h.respond

theorem MemOk.takeGrant {g : GrantReq} (h : MemOk s) : MemOk (takeGrant s g) := by
  unfold Machine.takeGrant
  split
  · exact h.putChan
  · exact h.foldl fun _ _ ht => ht.putTmpl
  · exact h.putChain
  · exact h.putChain
  · exact h.putJournal
  extract_lets r keys
  exact h.same

theorem MemOk.revoke (h : MemOk s) : MemOk (revoke s f) := by
  unfold Machine.revoke
  split
  · exact h
  extract_lets g hs code
  split
  · exact h.respond
  split
  · exact h.takeGrant.respond
  · exact (h.foldl (fun _ _ ht => ht.raiseReq)).ite h

theorem MemOk.share (h : MemOk s) : MemOk (share s f) := by
  unfold Machine.share
  split
  · exact h
  refine h.answer fun s ht0 => ?_
  exact ht0.same

theorem MemOk.ctmode (h : MemOk s) : MemOk (ctmode s f) := by
  unfold Machine.ctmode
  split
  · exact h
  extract_lets st m
  exact h.respond.ite (h.respond.ite (h.respond.ite (h.respond.ite h.same.respond)))

theorem MemOk.payOwed {x : BitVec 12 × Nat × List Byte} (h : MemOk s) : MemOk (payOwed s x) := by
  unfold Machine.payOwed
  split
  · exact h.storeExempt.value ‹_›
  · exact h.foldl fun _ _ ht => ht.saveFault.ite ht
  · exact h

theorem MemOk.ctmodeComplete {stack : Nat} (h : MemOk s) : MemOk (ctmodeComplete s stack) := by
  unfold Machine.ctmodeComplete
  split
  · exact h
  · split
    · exact h
    · exact MemOk.foldl (.intro (dwf_filter _ _ _ h.mem) h.sysMem h.snap) fun _ _ ht => ht.payOwed

end Sys2Proof.Safety
end

section
/-! SUPPORT. Memory stays canonical: boundaries, rollback, service, gangs, links and the BARs. -/

set_option Elab.async false

namespace Sys2Proof.Safety

open Sys2Proof Sys2Proof.Machine

variable {s t : State} {u : UnitId} {w : WorkUnit} {c : Cmd128} {x : Ctx} {e : Site} {o : EngOp} {k : ChainId} {f : PcieFn} {val : Word}
  {cause : BitVec 16} {asid : BitVec 12} {bs : List Byte} {ws : List Word} {it : Inst} {iss : Issuer}
  {die n job va m code tile off port dpa slot len page l : Nat}

theorem MemOk.fatal {code : Nat} (h : MemOk s) : MemOk (fatal s code val) := by
  unfold Machine.fatal
  split
  · exact h
  · extract_lets reset mem dev s1
    have h1 : MemOk s1 := h.same
    exact h1.putBytes.raiseMsix

theorem MemOk.fatalError (h : MemOk s) : MemOk (fatalError s cause val) := h.fatal.ite h

theorem MemOk.thermalTrip (h : MemOk s) : MemOk (thermalTrip s die val) := h.fatal.ite h

theorem MemOk.setHot {on : Bool} (h : MemOk s) : MemOk (setHot s die on) := h.same

theorem MemOk.wantBoundary (h : MemOk s) : MemOk (wantBoundary s) := h.same

theorem MemOk.bperExpiry (h : MemOk s) : MemOk (bperExpiry s) := h.ite h.same.wantBoundary

theorem MemOk.boundaryStart (h : MemOk s) : MemOk (boundaryStart s) := by
  unfold Machine.boundaryStart
  split
  · exact h
  extract_lets leave
  exact h.same

theorem MemOk.advancePhase (h : MemOk s) : MemOk (advancePhase s job) := by
  unfold Machine.advancePhase
  split
  · exact h
  split
  · exact h
  split
  · exact h.same.respond
  extract_lets next close ps j1 j2
  exact h.same.settleJob.respond

theorem MemOk.advancePhases (h : MemOk s) : MemOk (advancePhases s) := h.foldl fun _ _ ht => ht.advancePhase

theorem MemOk.sendTruncations (h : MemOk s) : MemOk (sendTruncations s) := by
  unfold Machine.sendTruncations
  split
  · exact h
  refine h.foldl fun t x ht => ?_
  split
  · exact ht
  split
  · exact ht.halSend.ite ht
  · exact ht

theorem MemOk.checkpointDone (h : MemOk s) : MemOk (checkpointDone s) := by
  unfold Machine.checkpointDone
  split
  · exact h
  · exact h.same.sendTruncations

theorem MemOk.boundaryInstant (h : MemOk s) : MemOk (boundaryInstant s) := by
  unfold Machine.boundaryInstant
  split
  · exact h
  · extract_lets s1 k s2 due inside rest s3
    have h1 : MemOk s1 := h.checkpointDone
    have h2 : MemOk s2 := h1.same.advancePhases
    have h3 : MemOk s3 := h2.same
    exact h3.of_snap.settleBackstay

theorem MemOk.repairPage {undo : KMap Bool} {fc : FullCkpt} (h : MemOk s) : MemOk (repairPage s undo fc page) := by
  unfold Machine.repairPage
  split
  · exact h
  · exact h
  · split
    · exact h
    · split
      · exact h.putBytes
      · generalize List.replicate 4096 (0 : Byte) = zeros
        exact .intro (putBytes_wf _ _ _ h.mem) h.sysMem h.snap

theorem MemOk.applyItem {a : LogItem} (h : MemOk s) : MemOk (applyItem s a) := by
  unfold Machine.applyItem
  split
  · exact h.writePhys
  · exact h.notifyAt
  · exact h.cancelQueue
  · exact h.queryQueue
  · exact h.wdKick.ite (h.partitionReset.ite h)
  · exact h.wdcfgSet
  · exact h

/-- Writing bytes other than 0 one after another keeps the canonical form. -/
theorem wf_foldl_kput {l m : KMap Byte} (hm : Memory.wf m = true) (hl : ∀ b ∈ l, b.2 ≠ 0) :
    Memory.wf (l.foldl (fun m b => kput m b.1 b.2) m) = true := by
  induction l generalizing m with
  | nil => exact hm
  | cons b l ih =>
    have hb : Memory.wf (dset 0 m b.1 b.2) = true := dwf_dset 0 m b.1 b.2 hm
    rw [dset, if_neg (hl b (by simp))] at hb
    exact ih hb fun x hx => hl x (List.mem_cons_of_mem b hx)

/-- What a rollback restores of device memory is canonical: of the present contents it keeps entries, of the boundary's the rest (R354, R384). -/
theorem restoredMem_wf {d : Dev} (h : MemOk s) (hd : Memory.wf d.mem = true) : Memory.wf (restoredMem s d page) = true := by
  have hnz : ∀ b ∈ s.mem, b.2 ≠ 0 := by
    have hwf := h.mem
    simp only [Memory.wf, dwf, Bool.and_eq_true, List.all_eq_true, decide_eq_true_eq] at hwf
    exact hwf.2
  exact wf_foldl_kput (dwf_filter _ _ _ hd) fun b hb => hnz b (List.mem_of_mem_filter hb)

theorem MemOk.resend (h : MemOk s) : MemOk (resend s) := h.foldl fun _ _ ht => (ht.foldl (fun _ _ ht => ht.halSend)).ite ht

theorem MemOk.rollBack {d : Dev} (h : MemOk s) (hd : Memory.wf d.mem = true) : MemOk (rollBack s d page) := by
  unfold Machine.rollBack
  extract_lets ext dev base s1 s2 s3 s4
  have h1 : MemOk s1 := .intro (restoredMem_wf h hd) h.sysMem h.snap
  have h2 : MemOk s2 := h1.repairPage
  have h3 : MemOk s3 := h2.foldl fun _ _ ht => ht.killJob
  have h4 : MemOk s4 := h3.restartFrames.loseStreams.resend
  have h5 : MemOk ((hostActions s.log).foldl Machine.applyItem s4) := h4.foldl fun _ _ ht => ht.applyItem
  exact h5.settleBackstay

theorem MemOk.lineError (h : MemOk s) : MemOk (lineError s) := by
  unfold Machine.lineError
  extract_lets s1
  have h1 : MemOk s1 := h.same
  split
  · exact h1
  · exact h1.same

theorem MemOk.rollback {dpa : Nat} (h : MemOk s) : MemOk (rollback s dpa) := by
  unfold Machine.rollback
  extract_lets here
  split
  · exact h
  · split
    · exact h.lineError
    · split
      · exact h.fatal
      · exact h.fatal
      · split
        · exact h.fatal
        · split
          · exact h.fatal
          · exact h.rollBack (h.snap _ ‹_›)

theorem MemOk.nmcStep {i : Nat} (h : MemOk s) : MemOk (nmcStep s n i) := by
  unfold Machine.nmcStep
  split
  · exact h.rollback
  · exact h.nmcUpdate

theorem MemOk.scrub (h : MemOk s) : MemOk (scrub s dpa) := by
  unfold Machine.scrub
  extract_lets k base
  exact h.same

theorem MemOk.displace {places : List Tp} (h : MemOk s) : MemOk (displace s u places) := by
  unfold Machine.displace
  split
  · exact h
  · exact h.ite (h.jibMove.ite h.beginSave)

theorem MemOk.setHealth {elem : Nat} {y : Health} (h : MemOk s) : MemOk (setHealth s die tile elem y) := h.same

theorem MemOk.dropSpare {y : Health} (h : MemOk s) : MemOk (dropSpare s die tile y) := by
  unfold Machine.dropSpare
  split
  · exact h.setHealth
  · exact h

theorem MemOk.spareMove {elem : Nat} (h : MemOk s) : MemOk (spareMove s die tile elem) := by
  unfold Machine.spareMove
  extract_lets h' s0 base base' s1
  have h0 : MemOk s0 := h.dropSpare
  have hbase' : MemOk base' := h0.setHealth
  have h1 : MemOk s1 := hbase'.same
  split
  · extract_lets base''
    have hbase'' : MemOk base'' := h0.setHealth
    exact hbase''.same
  · exact h1.foldl fun _ _ ht => ht.displace

theorem MemOk.elementReplay {copy : Nat} (h : MemOk s) : MemOk (elementReplay s e copy) := by
  unfold Machine.elementReplay
  split
  · exact h
  extract_lets h' base base' s1
  have hbase : MemOk base := h.setHealth
  have h1 : MemOk s1 := hbase.same
  exact h.ite (h1.ite h1.spareMove)

theorem MemOk.resync (h : MemOk s) : MemOk (resync s f) := by
  unfold Machine.resync
  split
  · exact h
  extract_lets size jobs fit bs
  exact h.respond.ite h.writePhys.respond

theorem MemOk.serve {action : Nat} {form : List Word → Bool} {act : State → List Word → Served} (h : MemOk s)
    (hact : ∀ s ws, MemOk s → ServedOk (act s ws)) : MemOk (serve s f action form act) := by
  unfold Machine.serve
  split
  · exact h
  · split
    · exact h
    · split
      · exact h.respond
      · split
        · exact h.respond
        · split
          · exact h.respond
          · split
            · rename_i heq
              exact ((hact _ _ h.same).ends heq).same.respond
            · rename_i heq
              exact (hact _ _ h.same).goesOn heq

theorem MemOk.fwupdFirmware (h : MemOk s) : MemOk (fwupdFirmware s f) := by
  unfold Machine.fwupdFirmware
  refine h.serve fun s ws ht0 => ?_
  split
  · split
    · exact ht0.same
    · exact ht0
  · exact ht0

theorem MemOk.vacate {here : Tp → Bool} (h : MemOk s) : ServedOk (vacate s here) := by
  unfold Machine.vacate
  extract_lets us away s1 stays
  have h1 : MemOk s1 := h.foldl fun _ _ ht => ht.displace
  split
  · exact h1
  · exact h1

theorem MemOk.fabricOut (h : MemOk s) : MemOk (fabricOut s f) := by
  unfold Machine.fabricOut
  refine h.serve fun s ws ht0 => ?_
  exact ht0.same.vacate

theorem MemOk.fabricIn (h : MemOk s) : MemOk (fabricIn s f) := by
  unfold Machine.fabricIn
  refine h.serve fun s ws ht0 => ?_
  exact ht0.same.retryJibs

theorem MemOk.sailOut (h : MemOk s) : MemOk (sailOut s f) := by
  unfold Machine.sailOut
  refine h.serve fun s ws ht0 => ?_
  exact ht0.same.vacate

theorem MemOk.sailIn (h : MemOk s) : MemOk (sailIn s f) := by
  unfold Machine.sailIn
  refine h.serve fun s ws ht0 => ?_
  exact ht0.same

theorem MemOk.powerClass (h : MemOk s) : MemOk (powerClass s f) := by
  unfold Machine.powerClass
  dsimp only
  refine h.serve fun s ws ht0 => ?_
  split
  · exact ht0
  · exact ht0.same

theorem MemOk.sliceGo {f : Frame} {e : FrameEntry} {g : GangSt} (h : MemOk s) : MemOk (sliceGo s die f e g) := h.putFrame

theorem MemOk.sliceSkip {f : Frame} {e : FrameEntry} {g : GangSt} {lost : Bool} (h : MemOk s) : MemOk (sliceSkip s die f e g lost) := by
  unfold Machine.sliceSkip
  extract_lets s1 jobs
  have h1 : MemOk s1 := h.putFrame
  exact h1.foldl fun _ _ ht => ht.writeRecord

theorem MemOk.leaderDecides {f : Frame} {e : FrameEntry} {g : GangSt} (h : MemOk s) : MemOk (leaderDecides s die f e g) :=
  h.halSend.sliceGo.ite h.putFrame

theorem MemOk.readySend (h : MemOk s) : MemOk (readySend s die) := by
  unfold Machine.readySend
  split
  · exact h
  split
  · exact h
  extract_lets g1
  exact (h.putFrame.ite h.leaderDecides).ite h.putFrame.halSend

theorem MemOk.readyReceive {dev : Nat} (h : MemOk s) : MemOk (readyReceive s die dev) := by
  unfold Machine.readyReceive
  split
  · exact h
  · exact h.ite h.leaderDecides

theorem MemOk.graceExpiry (h : MemOk s) : MemOk (graceExpiry s die) := by
  unfold Machine.graceExpiry
  split
  · exact h
  · exact h.ite h.halSend.sliceSkip

theorem MemOk.goReceive (h : MemOk s) : MemOk (goReceive s die) := by
  unfold Machine.goReceive
  split
  · exact h
  · exact h.ite h.sliceGo

theorem MemOk.skipReceive (h : MemOk s) : MemOk (skipReceive s die) := by
  unfold Machine.skipReceive
  split
  · exact h
  · exact h.ite h.sliceSkip

theorem MemOk.decisionTimeout (h : MemOk s) : MemOk (decisionTimeout s die) := by
  unfold Machine.decisionTimeout
  split
  · exact h
  · exact h.ite h.sliceSkip

theorem MemOk.putLink {x : Link} (h : MemOk s) : MemOk (putLink s l x) := h.same

theorem MemOk.checkRoutes (h : MemOk s) : MemOk (checkRoutes s) := by
  unfold Machine.checkRoutes
  extract_lets r
  split
  · exact h.fatal
  · exact h

theorem MemOk.startWanted (h : MemOk s) : MemOk (startWanted s) := h.same.ite h

theorem MemOk.wantRetrain (h : MemOk s) : MemOk (wantRetrain s l) := by
  unfold Machine.wantRetrain
  extract_lets x
  exact h.putLink.startWanted.ite h

theorem MemOk.lnkctlRetrain (h : MemOk s) : MemOk (lnkctlRetrain s l) := h.wantRetrain.ite h

theorem MemOk.setRate {r : BitVec 3} (h : MemOk s) : MemOk (setRate s l r) := by
  unfold Machine.setRate
  split
  · exact h
  extract_lets x
  exact h.putLink

theorem MemOk.lnkctlRate {r : BitVec 3} (h : MemOk s) : MemOk (lnkctlRate s l r) := by
  unfold Machine.lnkctlRate
  extract_lets s1
  have h1 : MemOk s1 := h.setRate
  exact h1.wantRetrain.ite h1

theorem MemOk.lnkctlWrite (h : MemOk s) : MemOk (lnkctlWrite s l val) := by
  unfold Machine.lnkctlWrite
  extract_lets r s1
  have h1 : MemOk s1 := h.setRate
  exact h1.wantRetrain.ite h1

theorem MemOk.degrade (h : MemOk s) : MemOk (degrade s l) := h.putLink.raiseMsix

theorem MemOk.drawNat (h : MemOk s) : MemOk (drawNat s).1 := h.same

theorem MemOk.flitCrcFail (h : MemOk s) : MemOk (flitCrcFail s l) := by
  unfold Machine.flitCrcFail
  extract_lets x a b streak x1
  have ha : MemOk a.1 := h.drawNat
  have hb : MemOk b.1 := ha.drawNat
  exact h.ite hb.putLink

theorem MemOk.trainingLoss (h : MemOk s) : MemOk (trainingLoss s l) := by
  unfold Machine.trainingLoss
  extract_lets x
  exact h.ite h.putLink

theorem MemOk.retrainDone {o : TrainOutcome} (h : MemOk s) : MemOk (retrainDone s l o) := by
  unfold Machine.retrainDone
  extract_lets x a y drops z s1 s2
  have ha : MemOk a.1 := h.drawNat
  have h1 : MemOk s1 := ha.putLink
  have h2 : MemOk s2 := h1.degrade.ite h1
  exact h.ite ((h2.checkRoutes.ite h2.loseStreams).startWanted)

theorem MemOk.frameCrcFail (h : MemOk s) : MemOk (frameCrcFail s port) := by
  unfold Machine.frameCrcFail
  extract_lets x a b
  have ha : MemOk a.1 := h.drawNat
  have hb : MemOk b.1 := ha.drawNat
  exact h.ite hb.putLink

theorem MemOk.halyardDown (h : MemOk s) : MemOk (halyardDown s port) := by
  unfold Machine.halyardDown
  extract_lets x late s1
  have h1 : MemOk s1 := h.putLink
  exact h.ite ((h1.degrade.ite h1).loseStreams.startWanted)

theorem MemOk.outsideWrite (h : MemOk s) : MemOk (outsideWrite s dpa bs) := h.writePhys.ite h

theorem MemOk.remoteAccess {a : RemoteAccess} (h : MemOk s) : MemOk (remoteAccess s port a) := by
  unfold Machine.remoteAccess
  split
  · exact h
  split
  · exact h.ite h.halSend
  · exact h.ite h.outsideWrite

theorem MemOk.linkOut (h : MemOk s) : MemOk (linkOut s f) := by
  unfold Machine.linkOut
  dsimp only
  refine h.serve fun s ws ht0 => ?_
  split
  · exact ht0
  · exact (ht0.putLink.degrade.ite ht0.putLink).checkRoutes

theorem MemOk.linkIn (h : MemOk s) : MemOk (linkIn s f) := by
  unfold Machine.linkIn
  dsimp only
  refine h.serve fun s ws ht0 => ?_
  split
  · exact ht0.putLink
  · exact ht0.putLink.startWanted
  · exact ht0.startWanted

theorem MemOk.ahaltWrite (h : MemOk s) : MemOk (ahaltWrite s die val) := h.ite h.same

theorem MemOk.lnkstWrite (h : MemOk s) : MemOk (lnkstWrite s l val) := by
  unfold Machine.lnkstWrite
  extract_lets x
  exact h.putLink

theorem MemOk.doorbell (h : MemOk s) : MemOk (doorbell s k) := h.readTail

theorem MemOk.drstWrite (h : MemOk s) : MemOk (drstWrite s val) := h.deviceReset.bringUp.ite h

theorem MemOk.writeReg {r : BarReg} (h : MemOk s) : MemOk (writeReg s f r val) := by
  unfold Machine.writeReg
  split
  · exact h.drstWrite
  · exact h.same
  · exact h.putMbox
  · exact h.submit
  · extract_lets m
    exact h.putMbox
  · exact h.ahaltWrite
  · exact h.doorbell
  · exact h.lnkstWrite.ite (h.lnkctlWrite.ite h)
  · exact h.hostQueueWrite
  · exact h

theorem MemOk.registerWrite (h : MemOk s) : MemOk (registerWrite s f off val) := by
  unfold Machine.registerWrite
  split
  · exact h
  split
  · exact h.writeReg.ite h
  · exact h

theorem MemOk.queueWrite {k : QueueId} {r : Nat} (h : MemOk s) : MemOk (queueWrite s k r val) := h.hostQueueWrite.ite h

theorem MemOk.bar2Write (h : MemOk s) : MemOk (bar2Write s off bs) := by
  unfold Machine.bar2Write
  extract_lets a
  exact h.ite h.logItem.outsideWrite

theorem MemOk.bar2Read (h : MemOk s) : MemOk (bar2Read s off len) := h.ite h.same

theorem MemOk.hostAtomicOp {size : Nat} {op : PcieAtomic} {opnd cmp : Nat} (h : MemOk s) : MemOk (hostAtomicOp s off size op opnd cmp) := by
  unfold Machine.hostAtomicOp
  extract_lets a old new base
  have hbase : MemOk base := h.logItem
  exact h.ite (h.same.ite hbase.same.outsideWrite)

theorem MemOk.seqIssues {o : Sopc} (h : MemOk s) : MemOk (seqIssues o u c s) := by
  unfold Machine.seqIssues
  split
  · exact h
  split
  · exact h
  split
  · exact h.ite (h.issueCmd.st ‹_›)
  · exact h
  · exact h.seqFault

theorem MemOk.commandIssues {o : Sopc} {form : Cmd128 → Bool} (h : MemOk s) : Goes (commandIssues o form iss c s) := by
  unfold Machine.commandIssues
  split
  · split
    · exact h.seqIssues.done
    split
    · exact h.entryStart.done
    · exact h
  · exact h

theorem MemOk.execXlatRewalk {w : Withheld} (h : MemOk s) : Goes (execXlatRewalk w s) := by
  unfold Machine.execXlatRewalk
  split
  · exact h.seqRewalk.done
  · exact h.waveRewalk.done
  · exact h.opRewalk.done
  · exact h.chainRewalk.done

theorem MemOk.fired {r : FireRes} (h : FireResOk r) (h1 : MemOk s) : Goes (fired r e s) := (h1.ite (MemOk.fireRes_after h h1)).done

theorem MemOk.operatorFires {o : Opc} (h : MemOk s) : Goes (operatorFires o e s) := MemOk.fired h.fireOp h

theorem MemOk.routerFires {o : Opc} (h : MemOk s) : Goes (routerFires o e s) := MemOk.fired h.fireRouter h

theorem MemOk.memoryFires {o : Opc} (h : MemOk s) : Goes (memoryFires o e s) := MemOk.fired h.fireMem h

theorem MemOk.perst (h : MemOk s) : MemOk (perst s) := h.deviceReset.bringUp

theorem MemOk.standbyUp (h : MemOk s) : MemOk (standbyUp s) := by
  unfold Machine.standbyUp
  dsimp only
  exact h.deviceReset.same.bringUp

theorem MemOk.zeroCaddies {roots : List Nat} (h : MemOk s) : MemOk (zeroCaddies s roots) :=
  .intro (dwf_filter _ _ _ h.mem) h.sysMem h.snap

theorem MemOk.takeGrants {mine : BitVec 12 → Bool} (h : MemOk s) : MemOk (takeGrants s mine) := by
  unfold Machine.takeGrants
  extract_lets held keys words slot base chan chain
  exact h.same

theorem MemOk.settleFlr {v : Nat} {r : Flr} (h : MemOk s) : MemOk (settleFlr s v r) := h.same.takeGrants.zeroCaddies.ite h

theorem MemOk.settleFlrs (h : MemOk s) : MemOk (settleFlrs s) := h.foldl fun _ _ ht => ht.settleFlr

theorem MemOk.vfFlr {v : Nat} (h : MemOk s) : MemOk (vfFlr s v) := by
  unfold Machine.vfFlr
  split
  · exact h
  extract_lets f mine r s1 s2
  have h1 : MemOk s1 := h.same
  have h2 : MemOk s2 := h1.foldl fun _ _ ht => ht.killJob
  exact (h2.foldl (fun _ _ ht => ht.removeQueue)).settleFlr

theorem MemOk.atsInvalidate (h : MemOk s) : MemOk (atsInvalidate s asid va len) := h.same.ite h

end Sys2Proof.Safety
end

section
/-! SUPPORT. Memory stays canonical: the scalar instructions, what the host does, and every step. -/

set_option Elab.async false

namespace Sys2Proof.Safety

open Sys2Proof Sys2Proof.Machine

variable {s t : State} {u : UnitId} {w : WorkUnit} {c : Cmd128} {x : Ctx} {rd rs1 rs2 : Reg} {f : PcieFn} {bs : List Byte} {ws : List Word}
  {sl : OpSlot} {imm : BitVec 15} {n va key code tile off slot len : Nat}

theorem MemOk.loadScalar {signed : Bool} {i : Instr} (h : MemOk s) : Goes (loadScalar n signed rd rs1 imm i s) := by
  unfold Machine.loadScalar
  dsimp only
  refine h.onUnit fun u w => ?_
  split
  · exact h.trapHere
  split
  · split
    · exact h.trapHere
    split
    · exact h.retire
    · exact h.trapHere
  refine h.seqRead_andThen fun bs => ?_
  exact h.retire

theorem MemOk.storeScalar {i : Instr} (h : MemOk s) : Goes (storeScalar n rs2 rs1 imm i s) := by
  unfold Machine.storeScalar
  dsimp only
  refine h.onUnit fun u w => ?_
  split
  · exact h.trapHere
  split
  · exact h.seqFault.done
  · exact h.trapHere
  · split
    · exact h.trapHere
    split
    · exact h.putUnit.writeQueueReg.done
    · exact h.trapHere
  split
  · exact h.doomJob.done
  split
  · exact h
  · exact h.putUnit.writePhys.markExternal

theorem MemOk.reply {r : SpdmResp} {st : SpdmSt} (h : MemOk s) : MemOk (reply s r st) := h.same

theorem MemOk.spdmAnswer {ready : Bool} {r : SpdmResp} {st : SpdmSt} (h : MemOk s) : MemOk (spdmAnswer s ready r st) := h.ite (h.reply.ite h.reply)

theorem MemOk.getVersion (h : MemOk s) : MemOk (getVersion s) := h.spdmAnswer

theorem MemOk.getCapabilities (h : MemOk s) : MemOk (getCapabilities s) := h.spdmAnswer

theorem MemOk.negotiate {sm2 sm3 : Bool} (h : MemOk s) : MemOk (negotiate s sm2 sm3) := h.spdmAnswer.ite h.spdmAnswer

theorem MemOk.getDigests (h : MemOk s) : MemOk (getDigests s) := h.spdmAnswer

theorem MemOk.getCertificate (h : MemOk s) : MemOk (getCertificate s slot off len) := by
  unfold Machine.getCertificate
  extract_lets c
  exact h.spdmAnswer.ite h.spdmAnswer

theorem MemOk.challenge {nonce : List Byte} (h : MemOk s) : MemOk (challenge s slot nonce) := by
  unfold Machine.challenge
  split
  · exact h.spdmAnswer
  extract_lets a own
  have ha : MemOk a.1 := h.drawNat
  exact ha.spdmAnswer

theorem MemOk.getMeasurements {index : Nat} (h : MemOk s) : MemOk (getMeasurements s index) := by
  unfold Machine.getMeasurements
  extract_lets block r
  exact h.spdmAnswer

theorem MemOk.doeDiscovery {index : Nat} (h : MemOk s) : MemOk (doeDiscovery s index) := by
  unfold Machine.doeDiscovery
  extract_lets r
  exact h.same

theorem MemOk.aluR {f : Word → Word → Word} (h : MemOk s) : Goes (aluR f rd rs1 rs2 s) := by
  unfold Machine.aluR
  refine h.onUnit fun u w => ?_
  exact h.retire

theorem MemOk.aluI {f : Word → Word} (h : MemOk s) : Goes (aluI f rd rs1 s) := by
  unfold Machine.aluI
  refine h.onUnit fun u w => ?_
  exact h.retire

theorem MemOk.execLui {imm : BitVec 20} (h : MemOk s) : Goes (execLui rd imm s) := by
  unfold Machine.execLui
  refine h.onUnit fun u w => ?_
  exact h.retire

theorem MemOk.execPset {pd : Pred} {cond : Cond} (h : MemOk s) : Goes (execPset pd cond rs1 rs2 s) := by
  unfold Machine.execPset
  refine h.onUnit fun u w => ?_
  exact h.putUnit

theorem MemOk.execPlog {pd : Pred} {fn : LogFn} {pa pb : Pred} (h : MemOk s) : Goes (execPlog pd fn pa pb s) := by
  unfold Machine.execPlog
  refine h.onUnit fun u w => ?_
  exact h.putUnit

theorem MemOk.execGset {rs : Reg} {g : SeedReg} (h : MemOk s) : Goes (execGset rs g s) := by
  unfold Machine.execGset
  refine h.onUnit fun u w => ?_
  exact h.putUnit

theorem MemOk.execGget {rs : Reg} {g : SeedReg} (h : MemOk s) : Goes (execGget rs g s) := by
  unfold Machine.execGget
  refine h.onUnit fun u w => ?_
  exact h.retire

theorem MemOk.jumpTo {target : BitVec 57} {link : Option Reg} {i : Instr} (h : MemOk s) : Goes (jumpTo s u w target link i) := by
  unfold Machine.jumpTo
  split
  · exact h.trapHere
  extract_lets w1
  exact h.putUnit

theorem MemOk.execBr {p : Pred} {neg : Bool} {off : BitVec 21} (h : MemOk s) : Goes (execBr p neg off s) := by
  unfold Machine.execBr
  refine h.onUnit fun u w => ?_
  split
  · exact h.jumpTo
  · exact h.putUnit

theorem MemOk.execJal {off : BitVec 20} (h : MemOk s) : Goes (execJal rd off s) := by
  unfold Machine.execJal
  refine h.onUnit fun u w => ?_
  exact h.jumpTo

theorem MemOk.execJalr (h : MemOk s) : Goes (execJalr rd rs1 imm s) := by
  unfold Machine.execJalr
  refine h.onUnit fun u w => ?_
  exact h.jumpTo

theorem MemOk.execTrap {code : BitVec 10} (h : MemOk s) : Goes (execTrap rs1 code s) := by
  unfold Machine.execTrap
  refine h.onUnit fun u w => ?_
  exact h.trapSeq.done

theorem MemOk.execEret (h : MemOk s) : Goes (execEret s) := by
  unfold Machine.execEret
  refine h.onUnit fun u w => ?_
  split
  · exact h.putUnit
  · exact h.trapHere

theorem MemOk.execFence {scope : BitVec 3} (h : MemOk s) : Goes (execFence scope s) := by
  unfold Machine.execFence
  refine h.onUnit fun u w => ?_
  exact (h.setWarn.ite h).putUnit

theorem MemOk.execEndUnit (h : MemOk s) : Goes (execEndUnit s) := by
  unfold Machine.execEndUnit
  dsimp only
  refine h.onUnit fun u w => ?_
  exact h.markFaulted.ite h.putUnit

theorem MemOk.execIllegalInstruction {x : BitVec 32} (h : MemOk s) : Goes (execIllegalInstruction x s) := by
  unfold Machine.execIllegalInstruction
  refine h.onUnit fun u w => ?_
  exact h.trapSeq.done

theorem MemOk.cfgldLoad {plane : Nat} {src : List Byte} {i : Instr} (h : MemOk s) : Goes (cfgldLoad s u w rd tile plane va src i) := by
  unfold Machine.cfgldLoad
  extract_lets r
  have hr : MemOk r.s := h.placeImage
  split
  · exact hr.trapSeq.done
  · exact hr.retireWait

theorem MemOk.cfgldGo (h : MemOk s) : Goes (cfgldGo s u w rd rs1 rs2) := by
  unfold Machine.cfgldGo
  extract_lets i t plane tile key sl va
  split
  · exact h.retireWait
  split
  · exact h.trapHere
  split
  · exact h.retireWait
  split
  · exact h.waitIn
  split
  · exact h.retireWait
  dsimp only
  refine h.seqRead_andThen fun x => ?_
  split
  · exact h.cfgldLoad
  refine h.seqRead_andThen fun src => ?_
  exact h.cfgldLoad

theorem MemOk.execCfgld (h : MemOk s) : Goes (execCfgld rd rs1 rs2 s) := by
  unfold Machine.execCfgld
  refine h.onUnit fun u w => ?_
  exact h.cfgldGo

theorem MemOk.cmdIssue {i : Instr} (h : MemOk s) : Goes (cmdIssue s u w rd c i) := by
  unfold Machine.cmdIssue
  split
  · exact h.trapHere
  split
  · exact h.waitIn
  · exact h.seqFault.done
  split
  · exact (h.issueCmd.st ‹_›).waitIn
  · exact (h.issueCmd.st ‹_›).retiredWait.done

theorem MemOk.cmdGo (h : MemOk s) : Goes (cmdGo s u w rd rs1 rs2) := by
  unfold Machine.cmdGo
  split
  · split
    · exact h
    · exact h.retireWait
  · exact h.cmdIssue

theorem MemOk.execCmd (h : MemOk s) : Goes (execCmd rd rs1 rs2 s) := by
  unfold Machine.execCmd
  refine h.onUnit fun u w => ?_
  exact h.cmdGo

theorem MemOk.launchPost {nb : Bool} {i : Instr} (h : MemOk s) : Goes (launchPost s u w nb rd ws i) := by
  unfold Machine.launchPost
  split
  · exact h.retireWait
  · exact (h.postLaunch.posted ‹_›).retiredWait.done
  split
  · exact h.retireWait
  · exact h.waitIn

theorem MemOk.launchGo {nb : Bool} {packet : List Word} (h : MemOk s) : Goes (launchGo s u w nb rd rs1 packet) := by
  unfold Machine.launchGo
  extract_lets i va
  split
  · exact h.trapHere
  split
  · refine h.seqRead_andThen fun bs => ?_
    exact h.launchPost
  · exact h.launchPost

theorem MemOk.execLaunch (h : MemOk s) : Goes (execLaunch rd rs1 s) := by
  unfold Machine.execLaunch
  refine h.onUnit fun u w => ?_
  exact h.launchGo

theorem MemOk.execLaunchNb (h : MemOk s) : Goes (execLaunchNb rd rs1 s) := by
  unfold Machine.execLaunchNb
  refine h.onUnit fun u w => ?_
  exact h.launchGo

theorem MemOk.execYield (h : MemOk s) : Goes (execYield rd s) := by
  unfold Machine.execYield
  dsimp only
  refine h.onUnit fun u w => ?_
  split
  · exact h.beginSave
  · exact h.retire

theorem MemOk.waitMore {i : Instr} {timeout : Bool} (h : MemOk s) : Goes (waitMore s u w rd i timeout) := by
  unfold Machine.waitMore
  split
  · exact h.retireWait
  · exact h.waitIn

theorem MemOk.waitNtfGo {timeout : Bool} (h : MemOk s) : Goes (waitNtfGo s u w rd rs1 timeout) := by
  unfold Machine.waitNtfGo
  split
  · exact h.retireWait
  · exact h.waitMore

theorem MemOk.waitLvlGo {timeout : Bool} (h : MemOk s) : Goes (waitLvlGo s u w rd rs1 timeout) := by
  unfold Machine.waitLvlGo
  split
  · exact h.retireWait
  split
  · exact h.retireWait
  · exact h.retireWait
  · exact h.retireWait
  · exact h.waitMore

theorem MemOk.waitWordGo {c : BitVec 3} {i : Instr} {timeout : Bool} (h : MemOk s) : Goes (waitWordGo s u w rd rs1 rs2 c i timeout) := by
  unfold Machine.waitWordGo
  extract_lets va w'
  split
  · exact h.trapHere
  split
  · exact h.retireWait
  dsimp only
  refine h.seqRead_andThen fun bs => ?_
  split
  · exact h.retireWait
  split
  · exact h.same.waitMore
  · exact h

theorem MemOk.execWaitNtf (h : MemOk s) : Goes (execWaitNtf rd rs1 s) := by
  unfold Machine.execWaitNtf
  refine h.onUnit fun u w => ?_
  exact h.waitNtfGo

theorem MemOk.execWaitLvl (h : MemOk s) : Goes (execWaitLvl rd rs1 s) := by
  unfold Machine.execWaitLvl
  refine h.onUnit fun u w => ?_
  exact h.waitLvlGo

theorem MemOk.execWaitGeu (h : MemOk s) : Goes (execWaitGeu rd rs1 rs2 s) := by
  unfold Machine.execWaitGeu
  refine h.onUnit fun u w => ?_
  exact h.waitWordGo

theorem MemOk.execWaitEq (h : MemOk s) : Goes (execWaitEq rd rs1 rs2 s) := by
  unfold Machine.execWaitEq
  refine h.onUnit fun u w => ?_
  exact h.waitWordGo

theorem MemOk.evaluateWait {i : Instr} {packet : List Word} {timeout : Bool} (h : MemOk s) : Goes (evaluateWait s u w i packet timeout) := by
  unfold Machine.evaluateWait
  split
  · exact h.waitNtfGo
  · exact h.waitLvlGo
  · exact h.waitWordGo
  · exact h.waitWordGo
  · exact h.cmdGo
  · exact h.launchGo
  · exact h.cfgldGo
  · exact h

theorem MemOk.execWaitingInstructionResume (h : MemOk s) : Goes (execWaitingInstructionResume u s) := by
  unfold Machine.execWaitingInstructionResume
  refine h.onWaiting fun w x i packet => ?_
  exact h.evaluateWait

theorem MemOk.execWaitTimeout (h : MemOk s) : Goes (execWaitTimeout u s) := by
  unfold Machine.execWaitTimeout
  refine h.onWaiting fun w x i packet => ?_
  split
  · exact h.evaluateWait
  · exact h

theorem MemOk.advanceTb (h : MemOk s) : MemOk (advanceTb s n) := by
  unfold Machine.advanceTb
  extract_lets s1 base
  have h1 : MemOk s1 := h.countWatchdogs
  exact h1.same

theorem MemOk.timePasses (h : MemOk s) : MemOk (timePasses s n) := by
  unfold Machine.timePasses
  extract_lets s1
  have h1 : MemOk s1 := h.framesAct
  exact h1.advanceTb.framesAct.startWanted.settleFlrs.retryLaunches

/-- Every instruction and every event of the device keeps the invariant. -/
theorem MemOk.exec {i : Instr} (h : MemOk s) : Goes (exec i s) := by
  unfold Machine.exec
  cases i with
  | add | sub | and | or | xor | sll | srl | sra | mul | mulh | div | rem | slt | sltu | min | max => exact h.aluR
  | addi | andi | ori | xori | slli | srli | srai => exact h.aluI
  | lui => exact h.execLui
  | ld | lw | lwu | lh | lhu | lb | lbu => exact h.loadScalar
  | sd | sw | sh | sb => exact h.storeScalar
  | pset => exact h.execPset
  | plog => exact h.execPlog
  | br => exact h.execBr
  | jal => exact h.execJal
  | jalr => exact h.execJalr
  | csrrw | csrrs | csrrc => exact h.csrAccess
  | gset => exact h.execGset
  | gget => exact h.execGget
  | cfgld => exact h.execCfgld
  | cmd => exact h.execCmd
  | launch => exact h.execLaunch
  | launchNb => exact h.execLaunchNb
  | yield => exact h.execYield
  | waitNtf => exact h.execWaitNtf
  | waitLvl => exact h.execWaitLvl
  | waitGeu => exact h.execWaitGeu
  | waitEq => exact h.execWaitEq
  | trap => exact h.execTrap
  | eret => exact h.execEret
  | fence => exact h.execFence
  | endUnit => exact h.execEndUnit
  | waitingInstructionResume => exact h.execWaitingInstructionResume
  | waitTimeout => exact h.execWaitTimeout
  | opAdd | opSub | opAdds | opSubs | opMul | opMulh | opMulhu | opDiv | opDivu | opRem | opRemu | opNeg | opAbs | opMin | opMax | opAnd | opOr
  | opXor | opAndn | opNot | opShl | opShr | opSar | opRol | opRor | opClz | opPopc | opBext | opBins | opBrev | opBswap | opCeq | opCne | opClt
  | opCle | opCltu | opCleu | opFceq | opFclt | opFcle | opFcun | opSel | opMov | opFadd | opFsub | opFmul | opFma | opFms | opFnma | opFnms
  | opFmin | opFmax | opFabs | opFneg | opFcpsgn | opFrcps | opFrcpi | opFrsqs | opFrsqi | opFexpr | opFexpp | opFlogr | opFlogp | opFsinr | opFsinp
  | opFclass | opFround | opFscale | opFmant | opFexpo | opLgmul | opLgsum | opLgenc | opBsapply | opBsfind | opBshdr | opBsstrip | opAmaxr
  | opCvtfi | opCvtif | opCvtfr | opCvtsat | opLfld | opLfst | opLfldi | opLfsti | opPerm | opPermi | opBcast | opLsum | opJoin | opGate | opSink
  | opCtok | opConst | opIota | opVote3 | opCsumRow | opCsumCol | opCsumChk | opTbread | opChkr => exact h.operatorFires
  | opSteer | opMergeOrd | opMergeArr | opCarry => exact h.routerFires
  | opVld | opVst | opMemnop | opLdfe | opVldx | opVstx | opApst | opFence | opMonwait | opRedFx | opAmoAdd | opAmoAnd | opAmoOr | opAmoXor
  | opAmoMin | opAmoMax | opAmoMinu | opAmoMaxu | opAmoSwap | opAmoCas | opAmoFadd => exact h.memoryFires
  | opEmit => exact MemOk.fired h.fireEmit h
  | emitAck => exact MemOk.fired h.takeAck h
  | waveIssue => exact h.waveIssue.done
  | blockCommit => exact h.blockCommit.done
  | monwaitTimeout => exact h.monTimeout.done
  | faultedUnitEnd => exact h.faultedUnitEnd.done
  | snop | sync | fxregion | aprLoad | aprStore | aprDim | aprPad | aprEnd | cptDef | cptDim | cptGo | cptCancel | mcPermit | gathRow | gathRed
  | gathIdxList | gathIdxBag | gathChainBind | gathChainUnbind | gathTail | qntBlk | qntDq | qntChainBind | qntChainUnbind | qntTail | mxtask
  | mxqSetBind | mxqSetUnbind | mxqSetTail | ldstat | mxswap | nmcSgd | nmcDecay | nmcRed | nmcChainBind | nmcChainUnbind | nmcTail | deadSet
  | deadClr | emitJnl | emitSeq => exact h.commandIssues
  | syncWrite => exact h.syncWrite.done
  | sheaveRecordStart => exact h.startRecord.done
  | sheaveLoadEmit => exact h.sheaveLoad.done
  | sheaveStoreFill => exact h.sheaveStore.done
  | permitPortToken => exact h.permitPort.done
  | bteLanding => exact h.bteLand.done
  | greRow => exact h.greRow.done
  | qeBlock => exact h.qeBlock.done
  | ldstatComplete => exact h.ldstatDone.done
  | mxswapExchange => exact h.swapExchange.done
  | mxeTaskStart => exact h.taskStart.done
  | mxeTaskEnd => exact h.taskEnd.done
  | nmcElementUpdate => exact h.nmcStep.done
  | chainTailPoll => exact h.tailPoll.done
  | chainDoorbell => exact h.readTail.done
  | chainEntryStart => exact h.entryStart.done
  | chainEntryFinish => exact h.entryFinish.done
  | engineOpComplete => exact h.opComplete.done
  | hostBar2Write | peerBar2Write => exact h.bar2Write.done
  | hostBar2Read => exact h.bar2Read.done
  | hostAtomicop => exact h.hostAtomicOp.done
  | registerWrite => exact h.registerWrite.done
  | drst => exact h.drstWrite.done
  | perst | pfFlr => exact h.perst.done
  | vfFlr => exact h.vfFlr.done
  | standbyPowerUp => exact h.standbyUp.done
  | mbdb => exact h.submit.done
  | qcreate => exact h.qcreate.done
  | qdestroy => exact h.qdestroy.done
  | jobopen => exact h.jobopen.done
  | jobclose => exact h.jobclose.done
  | phasebnd => exact h.phasebnd.done
  | grant => exact h.grant.done
  | revoke => exact h.revoke.done
  | ctmode => exact h.ctmode.done
  | ctmodeComplete => exact h.ctmodeComplete.done
  | share => exact h.share.done
  | resync => exact h.resync.done
  | fwupdFirmware => exact h.fwupdFirmware.done
  | fwupdFabricOut => exact h.fabricOut.done
  | fwupdFabricIn => exact h.fabricIn.done
  | fwupdSailOut => exact h.sailOut.done
  | fwupdSailIn => exact h.sailIn.done
  | fwupdLinkOut => exact h.linkOut.done
  | fwupdLinkIn => exact h.linkIn.done
  | fwupdPowerClass => exact h.powerClass.done
  | getVersion => exact h.getVersion.done
  | getCapabilities => exact h.getCapabilities.done
  | negotiateAlgorithms => exact h.negotiate.done
  | getDigests => exact h.getDigests.done
  | getCertificate => exact h.getCertificate.done
  | challenge => exact h.challenge.done
  | getMeasurements => exact h.getMeasurements.done
  | atsInvalidation => exact h.atsInvalidate.done
  | notify | cancel | lqry | wdcfgWrite | wdctlKick | wdctlPartitionReset => exact h.queueWrite.done
  | packetAccept => exact h.packetAccept.done
  | bindRecord => exact h.bindRecord.done
  | unitComplete => exact h.unitComplete.done
  | preemptRequest => exact h.preemptRequest.done
  | preemptDeadline => exact h.preemptDeadline.done
  | unitSaveComplete => exact h.saveComplete.startWanted.done
  | unitRestore => exact h.unitRestore.done
  | frameEntryEnd => exact h.frameEntryEnd.done
  | gangReadySend => exact h.readySend.done
  | gangReadyReceive => exact h.readyReceive.done
  | gangGraceExpiry => exact h.graceExpiry.done
  | gangGoReceive => exact h.goReceive.done
  | gangSkipReceive => exact h.skipReceive.done
  | gangDecisionTimeout => exact h.decisionTimeout.done
  | watchdogExpiry => exact (h.ite h.watchdogExpiry).done
  | partitionResetDone => exact h.resetDone.done
  | xlatRewalk => exact h.execXlatRewalk
  | ahaltWrite => exact h.ahaltWrite.done
  | bperExpiry => exact h.bperExpiry.done
  | boundaryStart => exact h.boundaryStart.done
  | boundaryInstant => exact h.boundaryInstant.done
  | fullCheckpointDone => exact h.checkpointDone.done
  | rollback => exact h.rollback.done
  | scrub => exact h.scrub.done
  | elementReplay => exact h.elementReplay.done
  | fatalError => exact h.fatalError.done
  | thermalLimit | thermalLimitEnd => exact h.setHot.done
  | thermalTrip => exact h.thermalTrip.done
  | flitCrcFail => exact h.flitCrcFail.done
  | linkTrainingLoss => exact h.trainingLoss.done
  | lnkctlRateWrite => exact h.lnkctlRate.done
  | lnkctlRetrain => exact h.lnkctlRetrain.done
  | linkRetrainDone => exact h.retrainDone.done
  | halyardFrameCrcFail => exact h.frameCrcFail.done
  | halyardDown => exact h.halyardDown.done
  | journalLostExpiry => exact h.lostExpiry.done
  | journalEntryReceive => exact h.entryReceive.done
  | journalEndRecord => exact h.endReceive.done
  | journalTruncate => exact h.truncReceive.done
  | illegalInstruction => exact h.execIllegalInstruction
  | journalAckReceive => exact h.ackReceive.done
  | halyardRemoteAccess => exact h.remoteAccess.done
  | doeDiscovery => exact h.doeDiscovery.done
  | mxeResidueFail => exact h.residueFail.done

theorem MemOk.seqStep (h : MemOk s) : Goes (seqStep s u w) := by
  unfold Machine.seqStep
  split
  · exact h
  · split
    · exact h.putUnit.exec
    · exact h.fetch.not ‹_›

theorem MemOk.seqTurn (h : MemOk s) : Goes (seqTurn s u) := by
  unfold Machine.seqTurn
  split
  · exact h
  · exact h.same.seqStep

theorem MemOk.ownTurn (h : MemOk s) : Goes (ownTurn s) := by
  unfold Machine.ownTurn
  split
  · exact h.seqStep
  · exact h.bringUp.ite h.timePasses

theorem MemOk.takeTurn {y : Turn} (h : MemOk s) : Goes (takeTurn y s) := by
  unfold Machine.takeTurn
  split
  · exact h.seqTurn
  · split
    · exact h.exec
    · exact h
  · exact h.timePasses
  · exact h.writePhys
  · exact h.writeTable
  · exact h.same

theorem MemOk.step (h : MemOk s) : Goes (step s) := by
  unfold Machine.step
  split
  · exact h.ownTurn
  · exact h.same.takeTurn

end Sys2Proof.Safety
end

section
/-! SUPPORT. The statement on canonical memory, settled. -/

namespace Sys2Proof.Machine

open Sys2Proof.Safety

/-- Settles O50: every outcome of a step that starts with canonical memory carries canonical memory. -/
theorem memoryStaysCanonical : Obligations.MemoryStaysCanonical := by
  unfold Obligations.MemoryStaysCanonical
  intro s t h hstep
  exact h.step.next hstep

end Sys2Proof.Machine
end

section
/-! SUPPORT. The next operation of a wave: what the issue of a load, a store and a full/empty load does (R76, R78, R173 to R177). -/

set_option Elab.async false

namespace Sys2Proof.Machine

open Sys2Proof.Safety

/-! ## Lanes and their places -/

/-- Among the places of some lanes, the one of a lane. -/
theorem find?_lane {P : Nat → Phys} {l : List Nat} {i : Nat} (h : i ∈ l) : (l.map fun j => (j, P j)).find? (fun ip => ip.1 = i) = some (i, P i) := by
  induction l with
  | nil => cases h
  | cons j l ih =>
    by_cases hj : j = i
    · simp [hj]
    · have hi : i ∈ l := (List.mem_cons.mp h).resolve_left (Ne.symm hj)
      simpa [hj] using ih hi

/-- The flags of a firing depend only on its valid lanes. -/
theorem flagsOf_congr {f g : Nat → Flags} {m : BitVec 16} (h : ∀ i ∈ lanesOf m, f i = g i) : flagsOf f m = flagsOf g m :=
  List.foldl_ext _ _ _ fun a i hi => congrArg a.or (h i hi)

/-- The flags and the token of a load depend only on what its valid lanes give. -/
theorem loadDone_congr {s : State} {key : Nat} {f g : Nat → Lane × Flags} {m : BitVec 16} (h : ∀ i ∈ lanesOf m, f i = g i) :
    IssueRes.done (orNumst s key (flagsOf (fun i => (f i).2) m)) (Token.make (fun i => (f i).1) m .data) =
      .done (orNumst s key (flagsOf (fun i => (g i).2) m)) (Token.make (fun i => (g i).1) m .data) := by
  rw [flagsOf_congr fun i hi => congrArg Prod.snd (h i hi), make_congr fun i hi hm => congrArg Prod.fst (h i (mem_lanesOf hi hm))]

/-- The window of the cell at a place, if the place is a cell of a region of the job (R63, R198). -/
def cellWindow (s : State) (job : Nat) : Phys → Option Int
  | .dpa a => fxWindow s job a
  | _ => none

/-- What a lane of a load gives from its place: the element converted, or the cell read through its window (R63, R174). -/
def laneLoaded (s : State) (u : WorkUnit) (n die : Nat) (w : OpWord) (x : MemFire) (p : Phys) : Lane × Flags :=
  if w.ty = 14 then fxRead ((cellWindow s u.job p).getD 0) (BitVec.ofNat 128 (leNat (readOwn s n x die p (elemSize w.ty))))
  else loadElem w.ty (w.mod.getLsbD 0) (readOwn s n x die p (elemSize w.ty))

/-- The address of a lane of a load or store: of a row (R174, R175), or the lane's own. -/
def laneAddr (w : OpWord) (row : Opc) (x : MemFire) (i : Nat) : Nat :=
  if w.opc = row then (addrOf x (x.a.lane 0) + i * elemSize w.ty) % 2 ^ 57 else addrOf x (x.a.lane i)

theorem laneAddr_row {w : OpWord} {row : Opc} {x : MemFire} (h : w.opc = row) :
    laneAddr w row x = fun i => (addrOf x (x.a.lane 0) + i * elemSize w.ty) % 2 ^ 57 := funext fun _ => if_pos h

theorem laneAddr_each {w : OpWord} {row : Opc} {x : MemFire} (h : w.opc ≠ row) : laneAddr w row x = fun i => addrOf x (x.a.lane i) :=
  funext fun _ => if_neg h

/-- The lanes that a store writes: those of the value for `vst`, those of the value that have an address for `vstx` (R175). -/
def storeMask (w : OpWord) (x : MemFire) : BitVec 16 := if w.opc = .vst then x.b.mask else x.a.mask &&& x.b.mask

/-- The bytes and the flags of a stored lane (R175). -/
def laneStored (w : OpWord) (x : MemFire) (i : Nat) : List Byte × Flags := storeElem w.ty (w.mod.extractLsb' 0 2) (x.b.lane i)

/-! ## The issue of an operator by its opcode -/

section
variable {s : State} {u : WorkUnit} {key n die : Nat} {holds : Nat → Nat → Bool} {w : OpWord} {x : MemFire} {P : Nat → Phys}

theorem issueOp_poison {p : Token} (h : firstPoison [x.a, x.b, x.c] = some p) : issueOp s u key n die holds w x = .done s p := by
  simp [issueOp, h]

section
variable (hp : firstPoison [x.a, x.b, x.c] = none) (hh : x.a.cls ≠ .header)
include hp hh

theorem issueOp_memnop (ho : w.opc = .memnop) : issueOp s u key n die holds w x = .done s x.a := by simp [issueOp, hp, hh, ho]

theorem issueOp_load (ho : w.opc = .vld ∨ w.opc = .vldx) : issueOp s u key n die holds w x = issueLoad s u key n die w x := by
  rcases ho with ho | ho <;> simp [issueOp, hp, hh, ho]

theorem issueOp_store (ho : w.opc = .vst ∨ w.opc = .vstx) : issueOp s u key n die holds w x = issueStore s u key n w x := by
  rcases ho with ho | ho <;> simp [issueOp, hp, hh, ho]

theorem issueOp_ldfe (ho : w.opc = .ldfe) : issueOp s u key n die holds w x = issueLdfe s u key n die w x := by simp [issueOp, hp, hh, ho]

end

/-- An access that nothing holds back is performed. -/
theorem whenClear_clear {ps : List (Nat × Phys)} {k : Nat} {r : IssueRes} (hp : x.poisoned = false) (hc : ∀ ip ∈ ps, Clear s ip.2 k) :
    whenClear s x ps k r = r := by
  have hwin : (ps.any fun ip => windowed s none ip.2 k) = false := List.any_eq_false.mpr fun ip hi => by simp [(hc ip hi).1]
  have hbusy : (ps.any fun ip => tierBusy s ip.2) = false := List.any_eq_false.mpr fun ip hi => by simp [(hc ip hi).2]
  simp [whenClear, hp, hwin, hbusy]

section
variable (hv : w.opc = .vld → x.a.valid 0 = true)
  (hl : checkLanes s u (elemSize w.ty) .read ((lanesOf x.a.mask).map fun i => (i, laneAddr w .vld x i)) = .ok ((lanesOf x.a.mask).map fun i => (i, P i)))
include hv hl

/-- A load with a cell that lies in no region faults at the first such lane (R63, R174). -/
theorem issueLoad_outside {i : Nat} (hty : w.ty = 14) (hi : (lanesOf x.a.mask).find? (fun i => (cellWindow s u.job (P i)).isNone) = some i) :
    issueLoad s u key n die w x = .fault cMemAttr (laneAddr w .vld x i) := by
  have hfind : ((lanesOf x.a.mask).map fun i => (i, P i)).find? (fun ip => (cellWindow s u.job ip.2).isNone) = some (i, P i) := by
    simp [List.find?_map, hi]
  unfold issueLoad
  extract_lets sz lanes addr
  rw [if_neg (by simpa using hv)]
  split
  case h_1 e => cases hl.symm.trans e
  case h_2 ps e =>
    cases hl.symm.trans e
    rw [if_pos hty]
    split
    case h_1 ip e => cases hfind.symm.trans e; rfl
    case h_2 e => cases hfind.symm.trans e

/-- A load that nothing holds back gives what each lane reads (R174). -/
theorem issueLoad_done (hcell : w.ty = 14 → ∀ i ∈ lanesOf x.a.mask, (cellWindow s u.job (P i)).isSome = true)
    (hp : x.poisoned = false) (hc : ∀ i ∈ lanesOf x.a.mask, Clear s (P i) (elemSize w.ty)) :
    issueLoad s u key n die w x =
      .done (orNumst s key (flagsOf (fun i => (laneLoaded s u n die w x (P i)).2) x.a.mask))
        (Token.make (fun i => (laneLoaded s u n die w x (P i)).1) x.a.mask .data) := by
  have hfind (hty : w.ty = 14) : ((lanesOf x.a.mask).map fun i => (i, P i)).find? (fun ip => (cellWindow s u.job ip.2).isNone) = none := by
    simpa [Option.isSome_iff_ne_none] using hcell hty
  unfold issueLoad
  extract_lets sz lanes addr
  rw [if_neg (by simpa using hv)]
  split
  case h_1 e => cases hl.symm.trans e
  case h_2 ps e =>
    cases hl.symm.trans e
    split
    case h_1 ip e =>
      split at e
      · cases (hfind ‹_›).symm.trans e
      · cases e
    case h_2 e =>
      extract_lets val
      rw [whenClear_clear hp (by simpa using hc)]
      refine loadDone_congr fun i hi => ?_
      simp only [val, find?_lane hi]
      rfl

end

/-- A store whose lanes may all be written is deferred (R78, R175). -/
theorem issueStore_done (hv : w.opc = .vst → x.a.valid 0 = true)
    (hl : checkLanes s u (elemSize w.ty) .write ((lanesOf (storeMask w x)).map fun i => (i, laneAddr w .vst x i)) =
      .ok ((lanesOf (storeMask w x)).map fun i => (i, P i)))
    (hbusy : ∀ i ∈ lanesOf (storeMask w x), tierBusy s (P i) = false)
    (hfill : ∀ i ∈ lanesOf (storeMask w x), w.mod.getLsbD 2 = true → (caddyOf (P i)).isSome = true) :
    issueStore s u key n w x =
      .done (orNumst
        (deferTo s n ((lanesOf (storeMask w x)).map fun i => .store (laneAddr w .vst x i) (P i) (laneStored w x i).1 (w.mod.getLsbD 2)) (memOrd w = .rel))
        key (flagsOf (fun i => (laneStored w x i).2) (storeMask w x))) (Token.control (storeMask w x)) := by
  have hnofault : ¬ (w.mod.getLsbD 2 = true ∧ (((lanesOf (storeMask w x)).map fun i => (i, P i)).any fun ip => (caddyOf ip.2).isNone) = true) := by
    rintro ⟨hf, hany⟩
    obtain ⟨ip, hip, hnone⟩ := List.any_eq_true.mp hany
    obtain ⟨i, hi, rfl⟩ := List.mem_map.mp hip
    exact Option.isSome_iff_ne_none.mp (hfill i hi hf) (Option.isNone_iff_eq_none.mp hnone)
  have hfree : ¬ (((lanesOf (storeMask w x)).map fun i => (i, P i)).any fun ip => tierBusy s ip.2) = true := by simpa using hbusy
  unfold issueStore
  extract_lets sz m addr fill el
  rw [if_neg (by simpa using hv)]
  split
  case h_1 e => cases hl.symm.trans e
  case h_2 ps e =>
    cases hl.symm.trans e
    rw [if_neg hnofault, if_neg hfree]
    simp only [List.map_map]
    rfl

/-- The lanes of a full granule under an element type (R177). -/
def granuleMask (w : OpWord) : BitVec 16 := BitVec.ofNat 16 (2 ^ (16 / elemSize w.ty) - 1)

/-- What a lane of an `ldfe` gives from the bytes of the granule at `a` (R177). -/
def granuleLane (s : State) (u : WorkUnit) (w : OpWord) (a : Nat) (bs : List Byte) (i : Nat) : Lane × Flags :=
  if w.ty = 14 then fxRead ((fxWindow s u.job a).getD 0) (BitVec.ofNat 128 (leNat bs))
  else loadElem w.ty false ((bs.drop (i * elemSize w.ty)).take (elemSize w.ty))

/-- The state after an `ldfe`: with MOD[0] the granule is empty (R94, R177). -/
def granuleTaken (s : State) (w : OpWord) (a : Nat) : State := if w.mod.getLsbD 0 then setFull s a false else s

theorem granuleTaken_units {a : Nat} : (granuleTaken s w a).units = s.units := by
  unfold granuleTaken
  split <;> rfl

/-- An `ldfe` on a full granule that no earlier request waits on gives the granule's lanes (R94, R177). -/
theorem issueLdfe_done {p : Phys} {a : Nat} (hv : x.a.valid 0 = true) (hl : checkLane s u (addrOf x (x.a.lane 0)) 16 .read = .ok p)
    (ha : caddyOf p = some a) (hcell : w.ty = 14 → (fxWindow s u.job a).isSome = true) (hp : x.poisoned = false) (hwin : windowed s none p 16 = false)
    (hfull : isFull s a = true) (hahead : granuleAhead s a x = false) :
    issueLdfe s u key n die w x =
      .done (orNumst (granuleTaken s w a) key (flagsOf (fun i => (granuleLane s u w a (readOwn s n x die p 16) i).2) (granuleMask w)))
        (Token.make (fun i => (granuleLane s u w a (readOwn s n x die p 16) i).1) (granuleMask w) .data) := by
  have hin : ¬ (w.ty = 14 ∧ (fxWindow s u.job a).isNone = true) := fun h => by simpa [Option.isNone_iff_eq_none.mp h.2] using hcell h.1
  unfold issueLdfe
  simp only [hv, hl, ha]
  rw [if_neg (by simp), if_neg hin, if_neg (by simp [hp, hwin]), if_neg (by simp [hfull, hahead])]
  rfl

end

end Sys2Proof.Machine
end

section
/-! SUPPORT. WAVE_ISSUE of the chosen operation, by what its issue finds (R76, R99, R173). -/

set_option Elab.async false

namespace Sys2Proof.Safety

open Sys2Proof Sys2Proof.Machine

variable {s s1 : State} {n : Nat} {it : Inst} {img : Image} {u : UnitId} {w : WorkUnit} {x : MemFire} {sl : OpSlot} {P : Nat → Phys}

/-- A chosen operation whose issue is done, and that writes nothing at it, leaves the chain with its result. -/
theorem Chosen.ends_done {t : Token} (h : Chosen s n it img u w x sl) (hw : (writesAtIssue sl.word x).1 = []) (hu : s1.units = s.units)
    (hi : ∀ holds, issueOp s w (img.tpKey (sl.place x.copy img).1) n img.die holds sl.word x = .done s1 t) :
    Ends (.waveIssue n) s (chainDone s1 n it x sl.word t) := by
  obtain ⟨hnext, hout, hfault, hbar, hloc⟩ := h
  refine waveIssue_done hnext hfault hout hbar hloc hw (fun _ holds e => e ▸ hi holds) ?_
  rw [hu]
  exact nextFire_unit hnext

/-- A chosen operation whose issue faults for the attributes of an address traps there. -/
theorem Chosen.ends_memAttr {va : Nat} (h : Chosen s n it img u w x sl)
    (hi : ∀ holds, issueOp s w (img.tpKey (sl.place x.copy img).1) n img.die holds sl.word x = .fault cMemAttr va) :
    Ends (.waveIssue n) s (memTrap s n it img x sl cMemAttr (BitVec.ofNat 64 va)) := by
  obtain ⟨hnext, hout, hfault, hbar, hloc⟩ := h
  have hfree : barred s it img x = false := by simp [barred, Inst.aheadOf, hout, hbar]
  have hissue : issueFire s n it img u w x sl = memTrap s n it img x sl cMemAttr (BitVec.ofNat 64 va) := by
    simp [issueFire, hloc, hfree, hi, cMemAttr, cMemUce, cXlatMiss, cXlatProt]
  exact congrArg done ((waveIssue_next hnext (nextFire_inst hnext) hfault hout).trans hissue)

/-- A chosen operation on poison that writes no memory passes the poison (R14, R173). -/
theorem Chosen.ends_poison {p : Token} (h : Chosen s n it img u w x sl) (hp : firstPoison [x.a, x.b, x.c] = some p)
    (hw : (writesAtIssue sl.word x).1 = []) : Ends (.waveIssue n) s (chainDone s n it x sl.word p) :=
  h.ends_done hw rfl fun _ => issueOp_poison hp

theorem Issuable.chosen (h : Issuable s n it img u w x sl) : Chosen s n it img u w x sl := h.1
theorem Issuable.noPoison (h : Issuable s n it img u w x sl) : firstPoison [x.a, x.b, x.c] = none := h.2.1
theorem Issuable.noHeader (h : Issuable s n it img u w x sl) : x.a.cls ≠ .header := h.2.2

theorem Issuable.ends_memnop (h : Issuable s n it img u w x sl) (ho : sl.word.opc = .memnop) :
    Ends (.waveIssue n) s (chainDone s n it x sl.word x.a) :=
  h.chosen.ends_done (by simp [writesAtIssue, ho]) rfl fun _ => issueOp_memnop h.noPoison h.noHeader ho

section
variable (h : Issuable s n it img u w x sl) (ho : sl.word.opc = .vld ∨ sl.word.opc = .vldx) (hv : sl.word.opc = .vld → x.a.valid 0 = true)
  (hl : checkLanes s w (elemSize sl.word.ty) .read ((lanesOf x.a.mask).map fun i => (i, laneAddr sl.word .vld x i)) =
    .ok ((lanesOf x.a.mask).map fun i => (i, P i)))
include h ho hv hl

/-- A load that nothing holds back gives what each valid lane reads. -/
theorem Issuable.ends_load {val : Nat → Lane × Flags} (hcell : sl.word.ty = 14 → ∀ i ∈ lanesOf x.a.mask, (cellWindow s w.job (P i)).isSome = true)
    (hp : x.poisoned = false) (hc : ∀ i ∈ lanesOf x.a.mask, Clear s (P i) (elemSize sl.word.ty))
    (hval : ∀ i ∈ lanesOf x.a.mask, laneLoaded s w n img.die sl.word x (P i) = val i) :
    Ends (.waveIssue n) s (chainDone (orNumst s (img.tpKey (sl.place x.copy img).1) (flagsOf (fun i => (val i).2) x.a.mask)) n it x sl.word
      (Token.make (fun i => (val i).1) x.a.mask .data)) :=
  h.chosen.ends_done (by rcases ho with ho | ho <;> simp [writesAtIssue, ho]) rfl fun _ =>
    (issueOp_load h.noPoison h.noHeader ho).trans ((issueLoad_done hv hl hcell hp hc).trans (loadDone_congr hval))

/-- A load of a cell that lies in no region traps at the first such lane. -/
theorem Issuable.ends_outside {i : Nat} (hty : sl.word.ty = 14)
    (hi : (lanesOf x.a.mask).find? (fun i => (cellWindow s w.job (P i)).isNone) = some i) :
    Ends (.waveIssue n) s (memTrap s n it img x sl cMemAttr (BitVec.ofNat 64 (laneAddr sl.word .vld x i))) :=
  h.chosen.ends_memAttr fun _ => (issueOp_load h.noPoison h.noHeader ho).trans (issueLoad_outside hv hl hty hi)

end

/-- A store whose lanes may be written defers their bytes. -/
theorem Issuable.ends_store (h : Issuable s n it img u w x sl) (ho : sl.word.opc = .vst ∨ sl.word.opc = .vstx)
    (hv : sl.word.opc = .vst → x.a.valid 0 = true)
    (hfree : ∀ i ∈ lanesOf (storeMask sl.word x), tierBusy s (P i) = false ∧ (sl.word.mod.getLsbD 2 = true → (caddyOf (P i)).isSome = true))
    (hl : checkLanes s w (elemSize sl.word.ty) .write ((lanesOf (storeMask sl.word x)).map fun i => (i, laneAddr sl.word .vst x i)) =
      .ok ((lanesOf (storeMask sl.word x)).map fun i => (i, P i))) :
    Ends (.waveIssue n) s (chainDone
      (orNumst
        (deferTo s n ((lanesOf (storeMask sl.word x)).map fun i =>
          .store (laneAddr sl.word .vst x i) (P i) (laneStored sl.word x i).1 (sl.word.mod.getLsbD 2)) (memOrd sl.word = .rel))
        (img.tpKey (sl.place x.copy img).1) (flagsOf (fun i => (laneStored sl.word x i).2) (storeMask sl.word x)))
      n it x sl.word (Token.control (storeMask sl.word x))) :=
  h.chosen.ends_done (by rcases ho with ho | ho <;> simp [writesAtIssue, ho]) rfl fun _ =>
    (issueOp_store h.noPoison h.noHeader ho).trans (issueStore_done hv hl (fun i hi => (hfree i hi).1) fun i hi => (hfree i hi).2)

end Sys2Proof.Safety
end

section
/-! SUPPORT. The statement on the loads and stores of a wave, settled. -/

set_option Elab.async false

namespace Sys2Proof.Machine

open Sys2Proof.Safety

/-- Settles O33, by the opcode of the operation: each issue that is done leaves the chain with its result, and a load of a cell outside every region traps. -/
theorem waveLoadsAndStores : Obligations.WaveLoadsAndStores := by
  unfold Obligations.WaveLoadsAndStores
  refine ⟨fun s n it img u w x sl p h hp ho => h.ends_poison hp ?_, ?_⟩
  · simp only [List.mem_cons, List.not_mem_nil, or_false] at ho
    rcases ho with ho | ho | ho | ho | ho | ho <;> simp [writesAtIssue, ho]
  intro s n it img u w x sl h sz key row each lanesAt gives loads window cells load outside stores
  have hload (A : Nat → Nat) (P : Nat → Phys) (ho : sl.word.opc = .vld ∨ sl.word.opc = .vldx) (hv : sl.word.opc = .vld → x.a.valid 0 = true)
      (hA : laneAddr sl.word .vld x = A) : load A P ∧ outside A P := by
    subst hA
    refine ⟨fun hl hp hc => ⟨fun hty => ?_, fun hty W hW => ?_⟩, fun hl hty i hi => h.ends_outside ho hv hl hty hi⟩
    · exact h.ends_load ho hv hl (fun e => absurd e hty) hp hc fun i _ => if_neg hty
    · have hcell (i : Nat) (hi : i ∈ lanesOf x.a.mask) : cellWindow s w.job (P i) = some (W i) := hW i hi
      refine h.ends_load ho hv hl (fun _ i hi => by simp [hcell i hi]) hp hc fun i hi => ?_
      simp only [laneLoaded, if_pos hty, hcell i hi]
      simp [hty, elemSize]
  refine ⟨h.ends_memnop, fun P => ⟨fun ho hv => hload row P (.inl ho) (fun _ => hv) (laneAddr_row ho),
    fun ho => hload each P (.inr ho) (by simp [ho]) (laneAddr_each (by simp [ho]))⟩, fun P => ⟨?_, ?_⟩, ?_⟩
  · intro ho hv hfree hl
    have hm : storeMask sl.word x = x.b.mask := if_pos ho
    have hA : laneAddr sl.word .vst x = row := laneAddr_row ho
    have hends := h.ends_store (P := P) (.inl ho) (fun _ => hv)
    rw [hm, hA] at hends
    exact hends hfree hl
  · intro ho hfree hl
    have hm : storeMask sl.word x = x.a.mask &&& x.b.mask := if_neg (by simp [ho])
    have hA : laneAddr sl.word .vst x = each := laneAddr_each (by simp [ho])
    have hends := h.ends_store (P := P) (.inr ho) (by simp [ho])
    rw [hm, hA] at hends
    exact hends hfree hl
  · intro ho hv hp p a hl ha hwin hfull hahead hcell bs m val s1
    exact h.chosen.ends_done (by simp [writesAtIssue, ho]) (granuleTaken_units (w := sl.word)) fun _ =>
      (issueOp_ldfe h.noPoison h.noHeader ho).trans (issueLdfe_done hv hl ha hcell hp hwin hfull hahead)

end Sys2Proof.Machine
end

section
/-! SUPPORT. Words by their fields: a word is an encoding exactly when each of its fields is the encoding's (Table 4.12). -/

set_option Elab.async false

namespace Sys2Proof

/-- A part of a word is two words put together exactly when each of them is its part of it. -/
theorem append_eq_extract_iff {m n k i : Nat} {a : BitVec m} {b : BitVec n} {x : BitVec k} :
    a ++ b = x.extractLsb' i (m + n) ↔ a = x.extractLsb' (i + n) m ∧ b = x.extractLsb' i n := by
  rw [← BitVec.extractLsb'_append_extractLsb'_eq_extractLsb' rfl]
  constructor
  · intro h
    have hhigh := congrArg (BitVec.extractLsb' n m) h
    have hlow := congrArg (BitVec.extractLsb' 0 n) h
    rw [BitVec.extractLsb'_append_eq_left, BitVec.extractLsb'_append_eq_left] at hhigh
    rw [BitVec.extractLsb'_append_eq_right, BitVec.extractLsb'_append_eq_right] at hlow
    exact ⟨hhigh, hlow⟩
  · rintro ⟨rfl, rfl⟩
    rfl

theorem append_eq_iff {m n : Nat} {a : BitVec m} {b : BitVec n} {x : BitVec (m + n)} :
    a ++ b = x ↔ a = x.extractLsb' n m ∧ b = x.extractLsb' 0 n := by
  have h := append_eq_extract_iff (a := a) (b := b) (x := x) (i := 0)
  rwa [BitVec.extractLsb'_eq_self, Nat.zero_add] at h

/-- A part of a field that is zero is zero. -/
theorem extract_zero_of_extract_zero {n i k j l : Nat} {x : BitVec n} (h : x.extractLsb' i k = 0) (hij : i ≤ j) (hl : j + l ≤ i + k) :
    x.extractLsb' j l = 0 := by
  ext b hb
  have hbit := congrArg (fun y => y.getLsbD (j - i + b)) h
  simpa [show j - i + b < k by omega, show i + (j - i + b) = j + b by omega] using hbit

theorem encR_eq_iff {op : BitVec 7} {rd rs1 rs2 : Reg} {fn : BitVec 10} {x : BitVec 32} :
    encR op rd rs1 rs2 fn = x ↔
      (((op = x.extractLsb' 25 7 ∧ rd = x.extractLsb' 20 5) ∧ rs1 = x.extractLsb' 15 5) ∧ rs2 = x.extractLsb' 10 5) ∧ fn = x.extractLsb' 0 10 := by
  rw [encR, append_eq_iff (m := 22), append_eq_extract_iff, append_eq_extract_iff, append_eq_extract_iff]

theorem encI_eq_iff {op : BitVec 7} {r rs1 : Reg} {imm : BitVec 15} {x : BitVec 32} :
    encI op r rs1 imm = x ↔
      ((op = x.extractLsb' 25 7 ∧ r = x.extractLsb' 20 5) ∧ rs1 = x.extractLsb' 15 5) ∧ imm = x.extractLsb' 0 15 := by
  rw [encI, append_eq_iff (m := 17), append_eq_extract_iff, append_eq_extract_iff]

theorem encShift_eq_iff {op : BitVec 7} {rd rs1 : Reg} {sh : BitVec 6} {x : BitVec 32} :
    encShift op rd rs1 sh = x ↔
      (((op = x.extractLsb' 25 7 ∧ rd = x.extractLsb' 20 5) ∧ rs1 = x.extractLsb' 15 5) ∧ 0 = x.extractLsb' 6 9) ∧ sh = x.extractLsb' 0 6 := by
  rw [encShift, append_eq_iff (m := 26), append_eq_extract_iff, append_eq_extract_iff, append_eq_extract_iff]

theorem encC_eq_iff {op : BitVec 7} {rd rs1 : Reg} {csr : BitVec 12} {x : BitVec 32} :
    encC op rd rs1 csr = x ↔
      (((op = x.extractLsb' 25 7 ∧ rd = x.extractLsb' 20 5) ∧ rs1 = x.extractLsb' 15 5) ∧ csr = x.extractLsb' 3 12) ∧ 0 = x.extractLsb' 0 3 := by
  rw [encC, append_eq_iff (m := 29), append_eq_extract_iff, append_eq_extract_iff, append_eq_extract_iff]

theorem encG_eq_iff {op : BitVec 7} {rs : Reg} {g : SeedReg} {x : BitVec 32} :
    encG op rs g = x ↔
      ((op = x.extractLsb' 25 7 ∧ rs = x.extractLsb' 20 5) ∧ g = x.extractLsb' 16 4) ∧ 0 = x.extractLsb' 0 16 := by
  rw [encG, append_eq_iff (m := 16), append_eq_extract_iff, append_eq_extract_iff]

theorem encP_eq_iff {pd : Pred} {c : BitVec 3} {rs1 rs2 : Reg} {x : BitVec 32} :
    encP pd c rs1 rs2 = x ↔
      ((((0x30 = x.extractLsb' 25 7 ∧ pd = x.extractLsb' 22 3) ∧ c = x.extractLsb' 19 3) ∧ rs1 = x.extractLsb' 14 5) ∧ rs2 = x.extractLsb' 9 5) ∧
        0 = x.extractLsb' 0 9 := by
  rw [encP, append_eq_iff (m := 23), append_eq_extract_iff, append_eq_extract_iff, append_eq_extract_iff, append_eq_extract_iff]

theorem encL_eq_iff {pd pa pb : Pred} {f : BitVec 3} {x : BitVec 32} :
    encL pd pa pb f = x ↔
      ((((0x31 = x.extractLsb' 25 7 ∧ pd = x.extractLsb' 22 3) ∧ pa = x.extractLsb' 19 3) ∧ pb = x.extractLsb' 16 3) ∧ f = x.extractLsb' 13 3) ∧
        0 = x.extractLsb' 0 13 := by
  rw [encL, append_eq_iff (m := 19), append_eq_extract_iff, append_eq_extract_iff, append_eq_extract_iff, append_eq_extract_iff]

theorem encB_eq_iff {p : Pred} {neg : BitVec 1} {off : BitVec 21} {x : BitVec 32} :
    encB p neg off = x ↔
      ((0x38 = x.extractLsb' 25 7 ∧ p = x.extractLsb' 22 3) ∧ neg = x.extractLsb' 21 1) ∧ off = x.extractLsb' 0 21 := by
  rw [encB, append_eq_iff (m := 11), append_eq_extract_iff, append_eq_extract_iff]

theorem encU_eq_iff {op : BitVec 7} {rd : Reg} {imm : BitVec 20} {x : BitVec 32} :
    encU op rd imm = x ↔
      (op = x.extractLsb' 25 7 ∧ rd = x.extractLsb' 20 5) ∧ imm = x.extractLsb' 0 20 := by
  rw [encU, append_eq_iff (m := 12), append_eq_extract_iff]

end Sys2Proof
end

section
/-! SUPPORT. The scalar decoder against the encoder (R119, R120): a word that decodes is the encoding of what it decodes to, format by format. -/

set_option Elab.async false

namespace Sys2Proof

theorem Cond.code_of_ofCode {b : BitVec 3} {c : Cond} (h : Cond.ofCode b = some c) : c.code = b := by
  unfold Cond.ofCode at h
  split at h <;> cases h <;> exact (BitVec.eq_of_toNat_eq ‹_›).symm

theorem LogFn.code_of_ofCode {b : BitVec 3} {f : LogFn} (h : LogFn.ofCode b = some f) : f.code = b := by
  unfold LogFn.ofCode at h
  split at h <;> cases h <;> exact (BitVec.eq_of_toNat_eq ‹_›).symm

/-- An instruction that a decoder answers is well-formed, and `x` is its word. -/
def Decoded.EncodesTo (d : Decoded) (x : BitVec 32) : Prop := ∀ i, d = .ok i → i.wf = true ∧ encode i = some x

variable {x : BitVec 32} {op : BitVec 7}

theorem bad_encodesTo {e : DecodeErr} : (Decoded.bad e).EncodesTo x := nofun

theorem ok_encodesTo {i : Instr} (hwf : i.wf = true) (henc : encode i = some x) : (Decoded.ok i).EncodesTo x := by
  rintro _ ⟨⟩
  exact ⟨hwf, henc⟩

theorem zeroThen_encodesTo {z : Bool} {i : Instr} (hwf : z = true → i.wf = true) (henc : z = true → encode i = some x) : (zeroThen z i).EncodesTo x := by
  cases z with
  | false => exact bad_encodesTo
  | true => exact ok_encodesTo (hwf rfl) (henc rfl)

/-- The opcode field of a word, from the number by which the decoder chooses. -/
theorem opcode_of_toNat (h : (x.extractLsb' 25 7).toNat = op.toNat) : op = x.extractLsb' 25 7 := (BitVec.eq_of_toNat_eq h).symm

/-! ## The formats -/

theorem decR_encodesTo {f : Reg → Reg → Reg → Instr} (hwf : ∀ rd rs1 rs2, (f rd rs1 rs2).wf = true)
    (henc : ∀ rd rs1 rs2, encode (f rd rs1 rs2) = some (encR op rd rs1 rs2 0)) (hop : (x.extractLsb' 25 7).toNat = op.toNat) :
    (decR x f).EncodesTo x := by
  refine zeroThen_encodesTo (fun _ => hwf _ _ _) fun hz => ?_
  rw [henc, encR_eq_iff.mpr ⟨⟨⟨⟨opcode_of_toNat hop, rfl⟩, rfl⟩, rfl⟩, (eq_of_beq hz).symm⟩]

theorem decI_encodesTo {f : Reg → Reg → BitVec 15 → Instr} (hwf : ∀ r rs1 imm, (f r rs1 imm).wf = true)
    (henc : ∀ r rs1 imm, encode (f r rs1 imm) = some (encI op r rs1 imm)) (hop : (x.extractLsb' 25 7).toNat = op.toNat) :
    (decI x f).EncodesTo x :=
  ok_encodesTo (hwf _ _ _) (by rw [henc, encI_eq_iff.mpr ⟨⟨⟨opcode_of_toNat hop, rfl⟩, rfl⟩, rfl⟩])

theorem decShift_encodesTo {f : Reg → Reg → BitVec 6 → Instr} (hwf : ∀ rd rs1 sh, (f rd rs1 sh).wf = true)
    (henc : ∀ rd rs1 sh, encode (f rd rs1 sh) = some (encShift op rd rs1 sh)) (hop : (x.extractLsb' 25 7).toNat = op.toNat) :
    (decShift x f).EncodesTo x := by
  refine zeroThen_encodesTo (fun _ => hwf _ _ _) fun hz => ?_
  rw [henc, encShift_eq_iff.mpr ⟨⟨⟨⟨opcode_of_toNat hop, rfl⟩, rfl⟩, (eq_of_beq hz).symm⟩, rfl⟩]

theorem decC_encodesTo {f : Reg → Reg → BitVec 12 → Instr} (hwf : ∀ rd rs1 csr, (f rd rs1 csr).wf = true)
    (henc : ∀ rd rs1 csr, encode (f rd rs1 csr) = some (encC op rd rs1 csr)) (hop : (x.extractLsb' 25 7).toNat = op.toNat) :
    (decC x f).EncodesTo x := by
  refine zeroThen_encodesTo (fun _ => hwf _ _ _) fun hz => ?_
  rw [henc, encC_eq_iff.mpr ⟨⟨⟨⟨opcode_of_toNat hop, rfl⟩, rfl⟩, rfl⟩, (eq_of_beq hz).symm⟩]

theorem decG_encodesTo {f : Reg → SeedReg → Instr} (hwf : ∀ rs g, (f rs g).wf = true)
    (henc : ∀ rs g, encode (f rs g) = some (encG op rs g)) (hop : (x.extractLsb' 25 7).toNat = op.toNat) : (decG x f).EncodesTo x := by
  refine zeroThen_encodesTo (fun _ => hwf _ _) fun hz => ?_
  rw [henc, encG_eq_iff.mpr ⟨⟨⟨opcode_of_toNat hop, rfl⟩, rfl⟩, (eq_of_beq hz).symm⟩]

theorem decP_encodesTo (hop : (x.extractLsb' 25 7).toNat = 0x30) : (decP x).EncodesTo x := by
  unfold decP
  split
  case h_1 => exact bad_encodesTo
  case h_2 c hc =>
    refine zeroThen_encodesTo (fun _ => rfl) fun hz => congrArg some (encP_eq_iff.mpr ?_)
    exact ⟨⟨⟨⟨⟨opcode_of_toNat hop, rfl⟩, Cond.code_of_ofCode hc⟩, rfl⟩, rfl⟩, (eq_of_beq hz).symm⟩

theorem decL_encodesTo (hop : (x.extractLsb' 25 7).toNat = 0x31) : (decL x).EncodesTo x := by
  unfold decL
  split
  case h_1 => exact bad_encodesTo
  case h_2 f hf =>
    refine zeroThen_encodesTo (fun hz => (Bool.and_eq_true_iff.mp hz).2) fun hz => congrArg some (encL_eq_iff.mpr ?_)
    have hzero : x.extractLsb' 0 13 = 0 := eq_of_beq (Bool.and_eq_true_iff.mp hz).1
    exact ⟨⟨⟨⟨⟨opcode_of_toNat hop, rfl⟩, rfl⟩, rfl⟩, LogFn.code_of_ofCode hf⟩, hzero.symm⟩

theorem br_encodesTo (hop : (x.extractLsb' 25 7).toNat = 0x38) :
    (Decoded.ok (.br (x.extractLsb' 22 3) (x.getLsbD 21) (x.extractLsb' 0 21))).EncodesTo x := by
  have hneg : BitVec.ofBool (x.getLsbD 21) = x.extractLsb' 21 1 := by
    ext b hb
    simp [show b = 0 by omega]
  exact ok_encodesTo rfl (congrArg some (encB_eq_iff.mpr ⟨⟨⟨opcode_of_toNat hop, rfl⟩, hneg⟩, rfl⟩))

/-! ## Format X: words of format R with further zero fields -/

/-- A field that lies within one that is checked to be zero. -/
theorem zero_within {i k j l : Nat} (hz : (x.extractLsb' i k == 0) = true) (hij : i ≤ j := by omega) (hl : j + l ≤ i + k := by omega) :
    0 = x.extractLsb' j l := (extract_zero_of_extract_zero (eq_of_beq hz) hij hl).symm

theorem launchWord_encodesTo {f : Reg → Reg → Instr} (hwf : ∀ rd rs1, (f rd rs1).wf = true)
    (henc : ∀ rd rs1, encode (f rd rs1) = some (encR op rd rs1 0 0)) (hop : (x.extractLsb' 25 7).toNat = op.toNat) :
    (zeroThen (x.extractLsb' 0 15 == 0) (f (x.extractLsb' 20 5) (x.extractLsb' 15 5))).EncodesTo x := by
  refine zeroThen_encodesTo (fun _ => hwf _ _) fun hz => ?_
  rw [henc, encR_eq_iff.mpr ⟨⟨⟨⟨opcode_of_toNat hop, rfl⟩, rfl⟩, zero_within hz⟩, zero_within hz⟩]

theorem yield_encodesTo (hop : (x.extractLsb' 25 7).toNat = 0x54) :
    (zeroThen (x.extractLsb' 0 20 == 0) (.yield (x.extractLsb' 20 5))).EncodesTo x := by
  refine zeroThen_encodesTo (fun _ => rfl) fun hz => congrArg some (encR_eq_iff.mpr ?_)
  exact ⟨⟨⟨⟨opcode_of_toNat hop, rfl⟩, zero_within hz⟩, zero_within hz⟩, zero_within hz⟩

/-- `eret` and `end`: every field is zero. -/
theorem bareWord_encodesTo {i : Instr} (hwf : i.wf = true) (henc : encode i = some (encR op 0 0 0 0)) (hop : (x.extractLsb' 25 7).toNat = op.toNat) :
    (zeroThen (x.extractLsb' 0 25 == 0) i).EncodesTo x := by
  refine zeroThen_encodesTo (fun _ => hwf) fun hz => ?_
  rw [henc, encR_eq_iff.mpr ⟨⟨⟨⟨opcode_of_toNat hop, zero_within hz⟩, zero_within hz⟩, zero_within hz⟩, zero_within hz⟩]

theorem trap_encodesTo (hop : (x.extractLsb' 25 7).toNat = 0x56) :
    (zeroThen (x.extractLsb' 20 5 == 0 && x.extractLsb' 10 5 == 0) (.trap (x.extractLsb' 15 5) (x.extractLsb' 0 10))).EncodesTo x := by
  refine zeroThen_encodesTo (fun _ => rfl) fun hz => congrArg some (encR_eq_iff.mpr ?_)
  obtain ⟨hrd, hrs2⟩ := Bool.and_eq_true_iff.mp hz
  exact ⟨⟨⟨⟨opcode_of_toNat hop, (eq_of_beq hrd).symm⟩, rfl⟩, (eq_of_beq hrs2).symm⟩, rfl⟩

theorem fence_encodesTo (hop : (x.extractLsb' 25 7).toNat = 0x58) :
    (zeroThen (x.extractLsb' 3 22 == 0) (.fence (x.extractLsb' 0 3))).EncodesTo x := by
  refine zeroThen_encodesTo (fun _ => rfl) fun hz => congrArg some (encR_eq_iff.mpr ?_)
  have hfn : 0#7 ++ x.extractLsb' 0 3 = x.extractLsb' 0 10 := append_eq_extract_iff.mpr ⟨zero_within hz, rfl⟩
  exact ⟨⟨⟨⟨opcode_of_toNat hop, zero_within hz⟩, zero_within hz⟩, zero_within hz⟩, hfn⟩

/-- The kinds of `wait` (R250): the four values of fn10 that are assigned. -/
theorem decWait_encodesTo (hop : (x.extractLsb' 25 7).toNat = 0x55) : (decWait x).EncodesTo x := by
  have hword {fn : BitVec 10} {rs2 : Reg} (hfn : (x.extractLsb' 0 10).toNat = fn.toNat) (hrs2 : rs2 = x.extractLsb' 10 5) :
      some (encR 0x55 (x.extractLsb' 20 5) (x.extractLsb' 15 5) rs2 fn) = some x :=
    congrArg some (encR_eq_iff.mpr ⟨⟨⟨⟨opcode_of_toNat hop, rfl⟩, rfl⟩, hrs2⟩, (BitVec.eq_of_toNat_eq hfn).symm⟩)
  unfold decWait
  simp only []
  split
  case h_1 hfn => exact zeroThen_encodesTo (fun _ => rfl) fun hz => hword (fn := 0) hfn (eq_of_beq hz).symm
  case h_2 hfn => exact zeroThen_encodesTo (fun _ => rfl) fun hz => hword (fn := 1) hfn (eq_of_beq hz).symm
  case h_3 hfn => exact ok_encodesTo rfl (hword (fn := 2) hfn rfl)
  case h_4 hfn => exact ok_encodesTo rfl (hword (fn := 3) hfn rfl)
  case h_5 => exact bad_encodesTo

/-! ## The decoder, opcode by opcode in the order of Table 4.13 -/

theorem decodeWord_encodesTo : (decodeWord x).EncodesTo x := by
  unfold decodeWord
  split
  -- Table 9.3: format R
  iterate 16 next h => exact decR_encodesTo (fun _ _ _ => rfl) (fun _ _ _ => rfl) h
  -- immediates and shifts
  iterate 4 next h => exact decI_encodesTo (fun _ _ _ => rfl) (fun _ _ _ => rfl) h
  iterate 3 next h => exact decShift_encodesTo (fun _ _ _ => rfl) (fun _ _ _ => rfl) h
  next h => exact ok_encodesTo rfl (congrArg some (encU_eq_iff.mpr ⟨⟨opcode_of_toNat h, rfl⟩, rfl⟩))
  -- loads and stores
  iterate 11 next h => exact decI_encodesTo (fun _ _ _ => rfl) (fun _ _ _ => rfl) h
  -- predicates and branches
  next h => exact decP_encodesTo h
  next h => exact decL_encodesTo h
  next h => exact br_encodesTo h
  next h => exact ok_encodesTo rfl (congrArg some (encU_eq_iff.mpr ⟨⟨opcode_of_toNat h, rfl⟩, rfl⟩))
  next h => exact decI_encodesTo (fun _ _ _ => rfl) (fun _ _ _ => rfl) h
  -- control registers and seeds
  iterate 3 next h => exact decC_encodesTo (fun _ _ _ => rfl) (fun _ _ _ => rfl) h
  iterate 2 next h => exact decG_encodesTo (fun _ _ => rfl) (fun _ _ => rfl) h
  -- system instructions
  iterate 2 next h => exact decR_encodesTo (fun _ _ _ => rfl) (fun _ _ _ => rfl) h
  iterate 2 next h => exact launchWord_encodesTo (fun _ _ => rfl) (fun _ _ => rfl) h
  next h => exact yield_encodesTo h
  next h => exact decWait_encodesTo h
  next h => exact trap_encodesTo h
  next h => exact bareWord_encodesTo rfl rfl h
  next h => exact fence_encodesTo h
  next h => exact bareWord_encodesTo rfl rfl h
  next => exact bad_encodesTo

end Sys2Proof
end

section
/-! SUPPORT. The statement on scalar words, settled: the round trip of each instruction one way, the decoder's formats the other. -/

set_option Elab.async false

namespace Sys2Proof

open Sys2Proof.Laws

/-- The word of a well-formed instruction decodes to it: only the scalar instructions have words. -/
theorem decodeWord_encode {i : Instr} {x : BitVec 32} (hwf : i.wf = true) (henc : encode i = some x) : decodeWord x = .ok i := by
  cases i with
  | add rd rs1 rs2 => exact RoundTrip.add rd rs1 rs2 x hwf henc
  | sub rd rs1 rs2 => exact RoundTrip.sub rd rs1 rs2 x hwf henc
  | and rd rs1 rs2 => exact RoundTrip.and rd rs1 rs2 x hwf henc
  | or rd rs1 rs2 => exact RoundTrip.or rd rs1 rs2 x hwf henc
  | xor rd rs1 rs2 => exact RoundTrip.xor rd rs1 rs2 x hwf henc
  | sll rd rs1 rs2 => exact RoundTrip.sll rd rs1 rs2 x hwf henc
  | srl rd rs1 rs2 => exact RoundTrip.srl rd rs1 rs2 x hwf henc
  | sra rd rs1 rs2 => exact RoundTrip.sra rd rs1 rs2 x hwf henc
  | mul rd rs1 rs2 => exact RoundTrip.mul rd rs1 rs2 x hwf henc
  | mulh rd rs1 rs2 => exact RoundTrip.mulh rd rs1 rs2 x hwf henc
  | div rd rs1 rs2 => exact RoundTrip.div rd rs1 rs2 x hwf henc
  | rem rd rs1 rs2 => exact RoundTrip.rem rd rs1 rs2 x hwf henc
  | slt rd rs1 rs2 => exact RoundTrip.slt rd rs1 rs2 x hwf henc
  | sltu rd rs1 rs2 => exact RoundTrip.sltu rd rs1 rs2 x hwf henc
  | min rd rs1 rs2 => exact RoundTrip.min rd rs1 rs2 x hwf henc
  | max rd rs1 rs2 => exact RoundTrip.max rd rs1 rs2 x hwf henc
  | addi rd rs1 imm => exact RoundTrip.addi rd rs1 imm x hwf henc
  | andi rd rs1 imm => exact RoundTrip.andi rd rs1 imm x hwf henc
  | ori rd rs1 imm => exact RoundTrip.ori rd rs1 imm x hwf henc
  | xori rd rs1 imm => exact RoundTrip.xori rd rs1 imm x hwf henc
  | slli rd rs1 sh => exact RoundTrip.slli rd rs1 sh x hwf henc
  | srli rd rs1 sh => exact RoundTrip.srli rd rs1 sh x hwf henc
  | srai rd rs1 sh => exact RoundTrip.srai rd rs1 sh x hwf henc
  | lui rd imm => exact RoundTrip.lui rd imm x hwf henc
  | ld rd rs1 imm => exact RoundTrip.ld rd rs1 imm x hwf henc
  | lw rd rs1 imm => exact RoundTrip.lw rd rs1 imm x hwf henc
  | lwu rd rs1 imm => exact RoundTrip.lwu rd rs1 imm x hwf henc
  | lh rd rs1 imm => exact RoundTrip.lh rd rs1 imm x hwf henc
  | lhu rd rs1 imm => exact RoundTrip.lhu rd rs1 imm x hwf henc
  | lb rd rs1 imm => exact RoundTrip.lb rd rs1 imm x hwf henc
  | lbu rd rs1 imm => exact RoundTrip.lbu rd rs1 imm x hwf henc
  | sd rs2 rs1 imm => exact RoundTrip.sd rs2 rs1 imm x hwf henc
  | sw rs2 rs1 imm => exact RoundTrip.sw rs2 rs1 imm x hwf henc
  | sh rs2 rs1 imm => exact RoundTrip.sh rs2 rs1 imm x hwf henc
  | sb rs2 rs1 imm => exact RoundTrip.sb rs2 rs1 imm x hwf henc
  | pset pd cond rs1 rs2 => exact RoundTrip.pset pd cond rs1 rs2 x hwf henc
  | plog pd fn pa pb => exact RoundTrip.plog pd fn pa pb x hwf henc
  | br p neg off => exact RoundTrip.br p neg off x hwf henc
  | jal rd off => exact RoundTrip.jal rd off x hwf henc
  | jalr rd rs1 imm => exact RoundTrip.jalr rd rs1 imm x hwf henc
  | csrrw rd rs1 csr => exact RoundTrip.csrrw rd rs1 csr x hwf henc
  | csrrs rd rs1 csr => exact RoundTrip.csrrs rd rs1 csr x hwf henc
  | csrrc rd rs1 csr => exact RoundTrip.csrrc rd rs1 csr x hwf henc
  | gset rs g => exact RoundTrip.gset rs g x hwf henc
  | gget rs g => exact RoundTrip.gget rs g x hwf henc
  | cfgld rd rs1 rs2 => exact RoundTrip.cfgld rd rs1 rs2 x hwf henc
  | cmd rd rs1 rs2 => exact RoundTrip.cmd rd rs1 rs2 x hwf henc
  | launch rd rs1 => exact RoundTrip.launch rd rs1 x hwf henc
  | launchNb rd rs1 => exact RoundTrip.launchNb rd rs1 x hwf henc
  | yield rd => exact RoundTrip.yield rd x hwf henc
  | waitNtf rd rs1 => exact RoundTrip.waitNtf rd rs1 x hwf henc
  | waitLvl rd rs1 => exact RoundTrip.waitLvl rd rs1 x hwf henc
  | waitGeu rd rs1 rs2 => exact RoundTrip.waitGeu rd rs1 rs2 x hwf henc
  | waitEq rd rs1 rs2 => exact RoundTrip.waitEq rd rs1 rs2 x hwf henc
  | trap rs1 code => exact RoundTrip.trap rs1 code x hwf henc
  | eret => exact RoundTrip.eret x hwf henc
  | fence scope => exact RoundTrip.fence scope x hwf henc
  | endUnit => exact RoundTrip.endUnit x hwf henc
  | _ => nomatch henc

/-- Settles O48: what decodes is encoded by the word, format by format; what is encoded decodes, instruction by instruction. -/
theorem wordsAgree : Obligations.WordsAgree := by
  unfold Obligations.WordsAgree
  exact fun i x => ⟨decodeWord_encodesTo i, fun ⟨hwf, henc⟩ => decodeWord_encode hwf henc⟩

end Sys2Proof
end

section
/-! SUPPORT. The statement on operator and router words, refuted: `Target.ofBits` answers no target for every field of kind 00, where Table 4.6 has the rest
of such a field zero and R104 rejects another value with FORM. So a word with a reserved field set decodes, and another word is encoded for its fields. -/

set_option Elab.async false

namespace Sys2Proof

/-- Refutes O49: the word of an `add` without targets decodes to the same fields with bit 0 set, which lies in a target of kind 00. -/
theorem not_operatorWordsAgree : ¬ Obligations.OperatorWordsAgree := by
  unfold Obligations.OperatorWordsAgree
  rintro ⟨hagree, -⟩
  let bare : OpWord :=
    { opc := .add, mod := 0, ty := 0, repl := 0, imm := none, wp := 0, ww := 0, ws := 0, t0 := .none, t1 := .none, t2 := .none, t3 := .none }
  have hdecodes : decodeOp 0x0100000000000001 = .ok bare := by decide
  have hencodes : encodeOp bare = 0x0100000000000000 := by decide
  have hword : encodeOp bare = 0x0100000000000001 := ((hagree bare _).mp hdecodes).2
  exact absurd (hencodes.symm.trans hword) (by decide)

end Sys2Proof
end

section
/-! SUPPORT. The statements on the register file and on the worked encodings, settled. -/

set_option Elab.async false

namespace Sys2Proof

open Sys2Proof.Machine.WorkUnit

/-- Settles O3, from the four laws of the register file. -/
theorem registerFile : Obligations.RegisterFile := by
  unfold Obligations.RegisterFile
  exact fun w r q v => ⟨reg_zero w, setReg_zero w v, reg_setReg_same w r v, reg_setReg_other w r q v⟩

/-- Settles O47: each worked word is the word of its instruction, so that it decodes to it (O48), and the word of opcode 0 is none. -/
theorem decodeWords : Obligations.DecodeWords := by
  unfold Obligations.DecodeWords
  have hbytes : decodeWord (word32 0x00 0x88 0x30 0x02) = .ok (.add 3 1 2) := decodeWord_encode rfl (by decide)
  refine ⟨?_, ?_, ?_, ?_, ?_, ?_, ?_, rfl, hbytes⟩ <;> exact decodeWord_encode rfl (by decide)

end Sys2Proof
end

section
/-! SUPPORT. What a step runs (R121, R123, R231): the fetch of a sequencer, the words of a fetch block, and what the passing of ticks leaves unchanged. -/

set_option Elab.async false

namespace Sys2Proof.Machine

variable {s t : State} {u : UnitId} {w : WorkUnit} {xs : List (BitVec 32)} {bs : List Byte} {n : Nat}

/-! ## Fetching -/

theorem fetch_held (h : w.fblock = some (blockOf w.pc, xs)) : fetch s u w = .got w (instrIn xs w.pc) := by
  simp [fetch, h]

theorem fetch_read (hnot : ∀ ys, w.fblock ≠ some (blockOf w.pc, ys)) (hread : seqRead s w (blockOf w.pc) 64 .fetch = .ok bs) :
    fetch s u w = .got { w with fblock := some (blockOf w.pc, blockWords bs), winWait := [] } (instrIn (blockWords bs) w.pc) := by
  unfold fetch
  simp only [hread]
  split
  next b ys hb =>
    have hne : b ≠ blockOf w.pc := fun e => hnot ys (e ▸ hb)
    rw [if_neg hne]
  next => rfl

/-- A sequencer that acts executes the instruction that it has fetched. -/
theorem seqStep_got {w1 : WorkUnit} {i : Instr} (hrun : w.running = true) (h : fetch s u w = .got w1 i) : seqStep s u w = exec i (putUnit s u w1) := by
  simp [seqStep, hrun, h]

/-- With no turn written, the sequencer of `cur` acts. -/
theorem step_own (hturns : s.turns = []) (hcur : s.cur = some u) (hu : kget s.units u = some w) : step s = seqStep s u w := by
  simp [step, ownTurn, hturns, hcur, hu]

theorem step_turn {rest : List Turn} {a : Turn} (h : s.turns = a :: rest) : step s = takeTurn a { s with turns := rest } := by
  simp [step, h]

theorem seqTurn_unit (h : kget s.units u = some w) : seqTurn s u = seqStep { s with cur := some u } u w := by
  simp [seqTurn, h]

/-! ## The words of a block -/

/-- Four bytes in a row are their little-endian number as a word (R5). -/
theorem word32_eq_ofNat (b0 b1 b2 b3 : Byte) : word32 b0 b1 b2 b3 = BitVec.ofNat 32 (leNat [b0, b1, b2, b3]) := by
  apply BitVec.eq_of_toNat_eq
  simp only [word32, leNat, BitVec.toNat_append, BitVec.toNat_ofNat]
  rw [← Nat.shiftLeft_add_eq_or_of_lt b0.isLt, ← Nat.shiftLeft_add_eq_or_of_lt b1.isLt, ← Nat.shiftLeft_add_eq_or_of_lt b2.isLt]
  simp only [Nat.shiftLeft_eq]
  omega

theorem take_four_drop {k : Nat} (h : k + 4 ≤ bs.length) :
    (bs.drop k).take 4 = [bs.getD k 0, bs.getD (k + 1) 0, bs.getD (k + 2) 0, bs.getD (k + 3) 0] := by
  apply List.ext_getElem
  · simp; omega
  · intro j hj _
    have hj4 : j < 4 := by simp at hj; omega
    interval_cases j <;> simp (disch := omega)

theorem blockWords_getD {k : Nat} (hlen : bs.length = 64) (hk : k < 16) :
    (blockWords bs).getD k 0 = BitVec.ofNat 32 (leNat ((bs.drop (4 * k)).take 4)) := by
  rw [take_four_drop (by omega), ← word32_eq_ofNat]
  simp [blockWords, hk]

/-! ## Time passes -/

/-- The second state is the first but for the frames of the dies. -/
def FramesOnly (s t : State) : Prop := ∃ m, t = { s with frames := m }

theorem FramesOnly.refl : FramesOnly s s := ⟨s.frames, rfl⟩

theorem FramesOnly.trans {r : State} (h : FramesOnly s t) (h2 : FramesOnly t r) : FramesOnly s r := by
  obtain ⟨m, rfl⟩ := h
  obtain ⟨m2, rfl⟩ := h2
  exact ⟨m2, rfl⟩

theorem putFrame_framesOnly {d : Nat} {f : Frame} : FramesOnly s (putFrame s d f) := ⟨_, rfl⟩

theorem beginFrame_framesOnly {d : Nat} {f : Frame} {start : Word} : FramesOnly s (beginFrame s d f start) := by
  unfold beginFrame
  split <;> exact putFrame_framesOnly

theorem nextFrame_framesOnly {d : Nat} {f : Frame} {start : Word} : FramesOnly s (nextFrame s d f start) := by
  unfold nextFrame
  simp only []
  split
  · exact putFrame_framesOnly
  · exact beginFrame_framesOnly

theorem frameEntryEnd_framesOnly {d : Nat} : FramesOnly s (frameEntryEnd s d) := by
  unfold frameEntryEnd
  simp only []
  split
  · exact .refl
  split
  · split
    · exact nextFrame_framesOnly
    split
    · exact .refl
    · exact beginFrame_framesOnly
  · split
    · exact .refl
    split
    · exact putFrame_framesOnly
    · exact nextFrame_framesOnly

theorem framesAct_framesOnly : FramesOnly s (framesAct s) := by
  unfold framesAct
  generalize List.range 4 = ds
  induction ds generalizing s with
  | nil => exact .refl
  | cons d ds ih => exact frameEntryEnd_framesOnly.trans ih

theorem startWanted_links : ∃ m, startWanted s = { s with links := m } := by
  unfold startWanted
  split
  · exact ⟨_, rfl⟩
  · exact ⟨s.links, rfl⟩

theorem settleFlrs_none (h : s.flrs = []) : settleFlrs s = s := by
  simp [settleFlrs, h]

theorem retryLaunches_complete (h : ∀ l ∈ s.launches, l.2.complete = true) : retryLaunches s = s := by
  have hnone : ∀ l ∈ s.launches, ¬ (completable s l.1 l.2).isSome = true := by
    intro l hl
    simp [completable, h l hl]
  simp only [retryLaunches, List.any_eq_true]
  rw [if_neg fun ⟨l, hl, hsome⟩ => hnone l hl hsome]

theorem foldl_le {α : Type} {f : Nat → α → Nat} (h : ∀ k a, f k a ≤ k) (l : List α) (k : Nat) : l.foldl f k ≤ k := by
  induction l generalizing k with
  | nil => exact le_refl k
  | cons a l ih => exact (ih (f k a)).trans (h k a)

/-- No more ticks are free than are asked for. -/
theorem ticksFree_le : ticksFree s n ≤ n := by
  unfold ticksFree
  split
  · exact le_refl n
  · refine foldl_le (fun k d => ?_) _ n
    split
    · exact min_le_left _ _
    · exact le_refl k

theorem ticksFree_stopped (h : s.fwState ≠ .running) : ticksFree s n = n := if_pos h

/-- The passing of some ticks changes nothing that units and memory hold, where no launch waits to complete and no VF is being reset. -/
theorem timePasses_idle (hl : ∀ l ∈ s.launches, l.2.complete = true) (hf : s.flrs = []) :
    ∃ k ≤ n, (timePasses s n).tb = s.tb + BitVec.ofNat 64 k ∧ (s.fwState ≠ .running → k = n) ∧
      (timePasses s n).units = s.units ∧ (timePasses s n).mem = s.mem := by
  obtain ⟨m, hm⟩ := framesAct_framesOnly (s := s)
  refine ⟨ticksFree (framesAct s) n, ticksFree_le, ?_⟩
  obtain ⟨m2, hm2⟩ := framesAct_framesOnly (s := advanceTb (framesAct s) (ticksFree (framesAct s) n))
  obtain ⟨ls, hls⟩ := startWanted_links (s := framesAct (advanceTb (framesAct s) (ticksFree (framesAct s) n)))
  have hlast : timePasses s n = startWanted (framesAct (advanceTb (framesAct s) (ticksFree (framesAct s) n))) := by
    unfold timePasses
    simp only []
    rw [settleFlrs_none (by rw [hls, hm2]; simpa [hm, advanceTb, countWatchdogs] using hf),
      retryLaunches_complete (by rw [hls, hm2]; simpa [hm, advanceTb, countWatchdogs] using hl)]
  rw [hlast, hls, hm2, hm]
  exact ⟨rfl, fun hw => ticksFree_stopped hw, rfl, rfl⟩

/-- Settles O46: the fetch gives the instruction at the pc, from the block that is held or is read, and each other turn runs what it names. -/
theorem stepRunsDecoded : Obligations.StepRunsDecoded := by
  unfold Obligations.StepRunsDecoded
  refine ⟨?_, fun bs k => blockWords_getD, ?_, ?_⟩
  · intro t u w w1 hcur hu hrun a hblock xs hxs x i
    have hfetch : fetch t u w = .got w1 i := by
      rcases hblock with ⟨ys, hys, rfl⟩ | ⟨bs, hnot, hread, rfl⟩
      · exact fetch_held hxs
      · obtain rfl : blockWords bs = xs := by simpa using hxs
        exact fetch_read hnot hread
    have hacts := seqStep_got hrun hfetch
    refine ⟨fun hturns => (step_own hturns hcur hu).trans hacts, ?_⟩
    rintro s rest hs rfl
    exact (step_turn hs).trans ((seqTurn_unit (s := { s with turns := rest }) hu).trans hacts)
  · intro s rest i hs
    rw [step_turn hs]
    exact ⟨fun h => if_pos h, fun h => if_neg (by simp [h])⟩
  · intro s rest n hs hl hf
    obtain ⟨k, hk, htb, hstop, hunits, hmem⟩ := timePasses_idle (s := { s with turns := rest }) (n := n) hl hf
    exact ⟨_, k, step_turn hs, hk, htb, hstop, hunits, hmem⟩

end Sys2Proof.Machine
end

section
/-! SUPPORT. Operators whose lanes are computed apart, said once: one that is ready fires as its lane function, on the lanes valid at each of its ports (R13, R17,
R143). -/

namespace Sys2Proof.Machine

open Sys2Proof.Safety

/-- An operator of form C that keeps no state and computes its lanes apart, from `ports` ports, and gives tokens of a class. -/
structure LaneOperator (o : Opc) (ports : Nat) (cls : TokClass) : Prop where
  form : o.form = .c
  effect : ∀ (s : State) (img : Image) (sl : OpSlot) (a b c : Token), sl.word.opc = o →
    dataEffect s img sl a b c = { fired := fireLanes sl.word a b c, slot := sl, lanes := [], vrec := none }
  ports : ∀ w : OpWord, w.opc = o → portCount w = ports
  mask : ∀ (w : OpWord) (a b c : Token), w.opc = o →
    resultMask w a b c = a.mask &&& (if 2 ≤ portCount w then b.mask else 0xFFFF) &&& (if 3 ≤ portCount w then c.mask else 0xFFFF)
  cls : ∀ w : OpWord, w.opc = o → resultClass w = cls

/-- The opcodes of Tables 6.2 to 6.4 that compute their lanes apart, with their ports and the class of their results. -/
def wordOperators : List (Opc × Nat × TokClass) :=
  [(.add, 2, .data), (.sub, 2, .data), (.adds, 2, .data), (.subs, 2, .data), (.mul, 2, .data), (.mulh, 2, .data), (.mulhu, 2, .data), (.div, 2, .data),
    (.divu, 2, .data), (.rem, 2, .data), (.remu, 2, .data), (.neg, 1, .data), (.abs, 1, .data), (.min, 2, .data), (.max, 2, .data),
    (.and, 2, .data), (.or, 2, .data), (.xor, 2, .data), (.andn, 2, .data), (.not, 1, .data), (.shl, 2, .data), (.shr, 2, .data), (.sar, 2, .data),
    (.rol, 2, .data), (.ror, 2, .data), (.clz, 1, .data), (.popc, 1, .data), (.bext, 2, .data), (.bins, 3, .data), (.brev, 1, .data), (.bswap, 1, .data),
    (.ceq, 2, .control), (.cne, 2, .control), (.clt, 2, .control), (.cle, 2, .control), (.cltu, 2, .control), (.cleu, 2, .control),
    (.fceq, 2, .control), (.fclt, 2, .control), (.fcle, 2, .control), (.fcun, 2, .control), (.ctok, 1, .control)]

variable {o : Opc} {ports : Nat} {cls : TokClass}

theorem laneOperator_word (h : (o, ports, cls) ∈ wordOperators) : LaneOperator o ports cls := by
  refine ⟨?form, fun s img sl a b c ho => ?effect, fun w ho => ?ports, fun w a b c ho => ?mask, fun w ho => ?cls⟩
  case form => fin_cases h <;> rfl
  case effect =>
    unfold dataEffect fireTokens
    rw [ho]
    fin_cases h <;> rfl
  case ports =>
    unfold portCount
    rw [ho]
    fin_cases h <;> rfl
  case mask =>
    unfold resultMask
    rw [ho]
    fin_cases h <;> rfl
  case cls =>
    unfold resultClass
    rw [ho]
    fin_cases h <;> rfl

theorem laneOperator_float (h : o ∈ laneOps) (hports : ∀ w : OpWord, w.opc = o → portCount w = ports) : LaneOperator o ports .data where
  form := by fin_cases h <;> rfl
  effect := dataEffect_laneOp h
  ports := hports
  mask w a b c ho := (laneOp_result h ho a b c).2
  cls w ho := (laneOp_result h ho (Token.control 0) (Token.control 0) (Token.control 0)).1

theorem laneOperator_unary (h : o ∈ unaryLaneOps) : LaneOperator o 1 .data := laneOperator_float (by simp [laneOps, h]) fun _ => portCount_unary h

theorem laneOperator_binary (h : o ∈ binaryLaneOps) : LaneOperator o 2 .data := laneOperator_float (by simp [laneOps, h]) fun _ => portCount_binary h

theorem laneOperator_ternary (h : o ∈ ternaryLaneOps) : LaneOperator o 3 .data := laneOperator_float (by simp [laneOps, h]) fun _ => portCount_ternary h

/-- A lane operator fires as what its lane function is at its opcode. -/
theorem LaneOperator.fires (h : LaneOperator o ports cls) {f : OpWord → Lane → Lane → Lane → Lane × Flags}
    (hf : ∀ (w : OpWord) (a b c : Lane), laneFn { w with opc := o } a b c = f w a b c) :
    FiresAs o (fun e => o.instr e) fun w => lanewise ports cls (f w) := by
  refine firesLane (exec_instr_formC h.form) h.effect (fun w a b c ho => ?_) h.cls fun w a b c ho => ?_
  · rw [h.mask w a b c ho, h.ports w ho]
  · subst ho
    exact hf w a b c

/-- An operator that arranges or reduces whole tokens fires as what it makes of them at its opcode. -/
theorem fires_tokenOp (ho : o ∈ tokenOps) {g : OpWord → Token → Token → Token → Token × Flags}
    (hg : ∀ (w : OpWord) (a b c : Token), fireTokens { w with opc := o } a b c = Fired.emits (g w a b c).1 (g w a b c).2) :
    FiresAs o (fun e => o.instr e) g := by
  refine firesAs (exec_instr_formC (by fin_cases ho <;> rfl)) fun s img sl a b c h => ?_
  have hfire : fireTokens sl.word a b c = Fired.emits (g sl.word a b c).1 (g sl.word a b c).2 := by
    subst h
    exact hg sl.word a b c
  rw [dataEffect_tokenOp ho s img sl a b c h, hfire]

end Sys2Proof.Machine
end

section
/-! SUPPORT. The lane results of Table 6.2, written with integers (R147, R148). -/

namespace Sys2Proof.Machine

variable (a b : Lane)

theorem lane_add_eq_ofInt : a + b = BitVec.ofInt 40 (a.toInt + b.toInt) := by rw [BitVec.ofInt_add, BitVec.ofInt_toInt, BitVec.ofInt_toInt]

theorem lane_sub_eq_ofInt : a - b = BitVec.ofInt 40 (a.toInt - b.toInt) := by
  apply BitVec.eq_of_toInt_eq
  rw [BitVec.toInt_sub, BitVec.toInt_ofInt]

theorem lane_mul_eq_ofInt : a * b = BitVec.ofInt 40 (a.toInt * b.toInt) := by rw [BitVec.ofInt_mul, BitVec.ofInt_toInt, BitVec.ofInt_toInt]

theorem lane_neg_eq_ofInt : -a = BitVec.ofInt 40 (-a.toInt) := by rw [BitVec.ofInt_neg, BitVec.ofInt_toInt]

theorem lane_abs_eq_ofNat : (if a.toInt < 0 then -a else a) = BitVec.ofNat 40 a.toInt.natAbs := by
  rw [← BitVec.ofInt_natCast, Int.natCast_natAbs]
  split_ifs with h
  · rw [abs_of_neg h, lane_neg_eq_ofInt]
  · rw [abs_of_nonneg (by omega), BitVec.ofInt_toInt]

theorem laneRem_eq : laneRem a b = if b = 0 then a else BitVec.ofInt 40 (a.toInt - b.toInt * a.toInt.tdiv b.toInt) := by
  rw [laneRem, Int.tmod_def]

/-- Under `.u` a saturating result is of unsigned words, else of signed ones. -/
theorem clampLane_intView (op : Int → Int → Int) (u : Bool) :
    clampLane u (op (intView u a) (intView u b)) = if u then clampLane true (op a.toNat b.toNat) else clampLane false (op a.toInt b.toInt) := by
  cases u <;> rfl

/-- Under `.u` words compare as unsigned integers, else as signed ones. -/
theorem ite_intView_le (u : Bool) (x y : Lane) : (if intView u a ≤ intView u b then x else y) =
    if u then (if a.toNat ≤ b.toNat then x else y) else if a.toInt ≤ b.toInt then x else y := by
  cases u <;> simp [intView]

end Sys2Proof.Machine
end

section
/-! SUPPORT. The lane results of Table 6.3, written with integers (R149, R150). -/

namespace Sys2Proof.Machine

variable (a b c : Lane)

theorem shAmt_eq : shAmt b = b.toNat % 64 := by simp [shAmt, BitVec.extractLsb'_toNat]

theorem lane_shiftLeft_eq_ofNat (n : Nat) : a <<< n = BitVec.ofNat 40 (a.toNat * 2 ^ n) := by
  apply BitVec.eq_of_toNat_eq
  rw [BitVec.toNat_shiftLeft, BitVec.toNat_ofNat, Nat.shiftLeft_eq]

theorem lane_shiftRight_eq_ofNat (n : Nat) : a >>> n = BitVec.ofNat 40 (a.toNat / 2 ^ n) := by
  rw [← Nat.shiftRight_eq_div_pow, ← BitVec.toNat_ushiftRight, BitVec.ofNat_toNat, BitVec.setWidth_eq]

theorem lane_sshiftRight_eq_ofInt (n : Nat) : a.sshiftRight n = BitVec.ofInt 40 (a.toInt / 2 ^ n) := by
  rw [BitVec.sshiftRight, Int.shiftRight_eq_div_pow]
  norm_cast

theorem laneClz_eq : laneClz a = if a = 0 then 40 else BitVec.ofNat 40 (39 - a.toNat.log2) := by
  have hzero : a.toNat = 0 ↔ a = 0 := BitVec.toNat_eq_nat.trans (by simp)
  rw [laneClz, bitLen]
  split_ifs with h h0 h0
  · rfl
  · exact absurd (hzero.mp h) h0
  · exact absurd (hzero.mpr h0) h
  · congr 1
    omega

/-- The position and the width of a bit field, cut to the word (R150). -/
theorem fieldOf_eq : fieldOf c = (c.toNat % 64, if 40 ≤ c.toNat % 64 then 0 else Nat.min (c.toNat / 64 % 64) (40 - c.toNat % 64)) := by
  have hpos : (c.extractLsb' 0 6).toNat = c.toNat % 64 := shAmt_eq c
  have hwidth : (c.extractLsb' 6 6).toNat = c.toNat / 64 % 64 := by rw [BitVec.extractLsb'_toNat, Nat.shiftRight_eq_div_pow]
  simp only [fieldOf, hpos, hwidth]

theorem laneBext_eq (sgn : Bool) : laneBext sgn a c =
    let pos := c.toNat % 64; let n := if 40 ≤ pos then 0 else Nat.min (c.toNat / 64 % 64) (40 - pos)
    let f := a.toNat / 2 ^ pos % 2 ^ n
    if n = 0 then 0 else if sgn ∧ 2 ^ (n - 1) ≤ f then BitVec.ofInt 40 ((f : Int) - 2 ^ n) else BitVec.ofNat 40 f := by
  simp only [laneBext, fieldOf_eq, Nat.shiftRight_eq_div_pow]

theorem laneBins_eq : laneBins a b c =
    let pos := c.toNat % 64; let n := if 40 ≤ pos then 0 else Nat.min (c.toNat / 64 % 64) (40 - pos)
    let msk : Lane := BitVec.ofNat 40 ((2 ^ n - 1) * 2 ^ pos)
    (a &&& ~~~msk) ||| (BitVec.ofNat 40 (b.toNat * 2 ^ pos) &&& msk) := by
  simp only [laneBins, fieldOf_eq, Nat.shiftLeft_eq, lane_shiftLeft_eq_ofNat]

end Sys2Proof.Machine
end

section
/-! SUPPORT. The lane results of Table 6.4 (R151). -/

namespace Sys2Proof.Machine

open Sys2Proof.Safety

theorem bitLane_eq {q : Bool} {p : Prop} [Decidable p] (h : q = true ↔ p) : bitLane q = if p then 1 else 0 := by simp only [bitLane, h]

/-- Either operand of a compare is a NaN, or the relation decides (Table 6.4). -/
theorem fwCompare_eq (rel : FwVal → FwVal → Bool) (onNan quiet : Bool) (a b : Lane) : fwCompare rel onNan quiet a b =
    if (fwUnpack a).isNan = true ∨ (fwUnpack b).isNan = true then
      (if onNan then 1 else 0, { Flags.none with nv := quiet || (fwUnpack a).isSnan || (fwUnpack b).isSnan })
    else (if rel (fwUnpack a) (fwUnpack b) then 1 else 0, Flags.none) := by
  simp only [fwCompare, Bool.or_eq_true]

/-- Lanes none of which sets a flag set none (R51). -/
theorem flagsOf_none (m : BitVec 16) : flagsOf (fun _ => Flags.none) m = Flags.none := by
  unfold flagsOf
  induction lanesOf m with
  | nil => rfl
  | cons k ks ih => exact ih

theorem dataEffect_copies {o : Opc} (ho : o ∈ [Opc.sel, .mov]) (s : State) (img : Image) (sl : OpSlot) (a b c : Token) (h : sl.word.opc = o) :
    dataEffect s img sl a b c = { fired := fireLanes sl.word a b c, slot := sl, lanes := [], vrec := none } := by
  unfold dataEffect fireTokens
  rw [h]
  fin_cases ho <;> rfl

/-- `sel` and `mov`, which choose or copy lanes, fire as what their lanes are at their opcode. -/
theorem fires_copies {o : Opc} (ho : o ∈ [Opc.sel, .mov]) {g : OpWord → Token → Token → Token → Token × Flags}
    (hg : ∀ (w : OpWord) (a b c : Token), fireLanes { w with opc := o } a b c = Fired.emits (g w a b c).1 (g w a b c).2) :
    FiresAs o (fun e => o.instr e) g := by
  refine firesAs (exec_instr_formC (by fin_cases ho <;> rfl)) fun s img sl a b c h => ?_
  have hfire : fireLanes sl.word a b c = Fired.emits (g sl.word a b c).1 (g sl.word a b c).2 := by
    subst h
    exact hg sl.word a b c
  rw [dataEffect_copies ho s img sl a b c h, hfire]

end Sys2Proof.Machine
end

section
/-! SUPPORT. The statements on integer, logic and compare operators, settled: each operator is of one lane function, and the lemmas above say its result. -/

namespace Sys2Proof.Machine

/-- Settles O20: the operators of Table 6.2, one by one. -/
theorem integerOperators : Obligations.IntegerOperators := by
  unfold Obligations.IntegerOperators
  have word {o ports cls f} (h : (o, ports, cls) ∈ wordOperators) := LaneOperator.fires (f := f) (laneOperator_word h)
  refine ⟨word (by decide) ?add, word (by decide) ?sub, word (by decide) ?adds, word (by decide) ?subs, word (by decide) ?mul, word (by decide) ?mulh,
    word (by decide) ?mulhu, word (by decide) ?div, word (by decide) ?divu, word (by decide) ?rem, word (by decide) ?remu, word (by decide) ?neg,
    word (by decide) ?abs, word (by decide) ?min, word (by decide) ?max⟩
  all_goals
    intro w a b c
    refine congrArg plain ?_
  case add => exact lane_add_eq_ofInt a b
  case sub => exact lane_sub_eq_ofInt a b
  case adds => exact clampLane_intView a b (· + ·) _
  case subs => exact clampLane_intView a b (· - ·) _
  case mul => exact lane_mul_eq_ofInt a b
  case mulh => rfl
  case mulhu => rfl
  case div => rfl
  case divu => rfl
  case rem => exact laneRem_eq a b
  case remu => rfl
  case neg => exact lane_neg_eq_ofInt a
  case abs => exact lane_abs_eq_ofNat a
  case min => exact ite_intView_le a b _ a b
  case max => exact ite_intView_le a b _ b a

/-- Settles O21: the operators of Table 6.3, one by one. -/
theorem logicOperators : Obligations.LogicOperators := by
  unfold Obligations.LogicOperators
  have word {o ports cls f} (h : (o, ports, cls) ∈ wordOperators) := LaneOperator.fires (f := f) (laneOperator_word h)
  refine ⟨word (by decide) ?and, word (by decide) ?or, word (by decide) ?xor, word (by decide) ?andn, word (by decide) ?not, word (by decide) ?shl,
    word (by decide) ?shr, word (by decide) ?sar, word (by decide) ?rol, word (by decide) ?ror, word (by decide) ?clz, word (by decide) ?popc,
    word (by decide) ?bext, word (by decide) ?bins, word (by decide) ?brev, word (by decide) ?bswap⟩
  all_goals
    intro w a b c
    refine congrArg plain ?_
  case shl => rw [lane_shiftLeft_eq_ofNat, shAmt_eq]
  case shr => rw [lane_shiftRight_eq_ofNat, shAmt_eq]
  case sar => exact (lane_sshiftRight_eq_ofInt a _).trans (by rw [shAmt_eq])
  case rol => rw [shAmt_eq]
  case ror => rw [shAmt_eq]
  case clz => exact laneClz_eq a
  case bext => exact laneBext_eq a b _
  case bins => exact laneBins_eq a b c
  all_goals rfl

/-- Settles O22: the compares by their relations, and `sel` and `mov` by the lanes that they copy. -/
theorem compareOperators : Obligations.CompareOperators := by
  unfold Obligations.CompareOperators
  have word {o ports cls f} (h : (o, ports, cls) ∈ wordOperators) := LaneOperator.fires (f := f) (laneOperator_word h)
  refine ⟨word (by decide) ?ceq, word (by decide) ?cne, word (by decide) ?clt, word (by decide) ?cle, word (by decide) ?cltu, word (by decide) ?cleu,
    ?compares, ?sel, ?mov, word (by decide) ?ctok⟩
  case sel => exact fires_copies (by decide) fun w a b c => congrArg (Fired.emits _) (flagsOf_none _)
  case mov =>
    refine fires_copies (by decide) fun w a b c => ?_
    have hmask : resultMask { w with opc := .mov } a b c = a.mask := by simp [resultMask, portCount, and_fullMask]
    rw [fireLanes, hmask]
    exact congrArg (Fired.emits _) (flagsOf_none _)
  case compares =>
    intro cmp
    have compare {o rel onNan quiet} (h : (o, 2, .control) ∈ wordOperators)
        (hf : ∀ (w : OpWord) (a b c : Lane), laneFn { w with opc := o } a b c = fwCompare rel onNan quiet a b) :
        Safety.FiresAs o (fun e => o.instr e) fun _ => Safety.lanewise 2 .control (cmp rel onNan quiet) :=
      word h fun w a b c => (hf w a b c).trans (fwCompare_eq rel onNan quiet a b)
    clear_value cmp
    refine ⟨compare (by decide) ?_, compare (by decide) ?_, compare (by decide) ?_, compare (by decide) ?_⟩ <;>
      exact fun _ _ _ _ => rfl
  all_goals
    intro w a b c
    refine congrArg plain (bitLane_eq ?_)
  case ceq => exact beq_iff_eq
  case cne | ctok => exact bne_iff_ne
  all_goals exact decide_eq_true_iff

end Sys2Proof.Machine
end

section
/-! SUPPORT. The statement on FW40 arithmetic, settled: the lane functions are those that it names. -/

namespace Sys2Proof.Machine

/-- Settles O23: each operator by its number of ports. -/
theorem floatOperators : Obligations.FloatOperators := by
  unfold Obligations.FloatOperators
  have unary {o f} (h : o ∈ unaryLaneOps) := LaneOperator.fires (f := f) (laneOperator_unary h)
  have binary {o f} (h : o ∈ binaryLaneOps) := LaneOperator.fires (f := f) (laneOperator_binary h)
  have ternary {o f} (h : o ∈ ternaryLaneOps) := LaneOperator.fires (f := f) (laneOperator_ternary h)
  refine ⟨binary (by decide) ?_, binary (by decide) ?_, binary (by decide) ?_, ternary (by decide) ?_, ternary (by decide) ?_, ternary (by decide) ?_,
    ternary (by decide) ?_, binary (by decide) ?_, binary (by decide) ?_, unary (by decide) ?_, unary (by decide) ?_, binary (by decide) ?_,
    binary (by decide) ?_, unary (by decide) ?_, binary (by decide) ?_, unary (by decide) ?_⟩ <;> exact fun _ _ _ _ => rfl

end Sys2Proof.Machine
end

section
/-! SUPPORT. `lsum` and `bshdr` (R159, R165): the tree of sums by levels, and the fields of a header. -/

namespace Sys2Proof.Machine

open Sys2Proof.Safety

/-- Two sums of lanes together, of which either may be absent (R165). -/
def lsumBoth (fw : Bool) (x y : Option Lane × Flags) : Option Lane × Flags :=
  match x.1, y.1 with
  | some u, some v =>
    let r := if fw then fwAdd u v else (u + v, Flags.none)
    (some r.1, (x.2.or y.2).or r.2)
  | none, _ => (y.1, x.2.or y.2)
  | _, none => (x.1, x.2.or y.2)

theorem lsumCombine_eq (fw : Bool) (x y : Option Lane × Flags) : lsumCombine fw x y = lsumBoth fw x y := by
  obtain ⟨x, fx⟩ := x
  obtain ⟨y, fy⟩ := y
  cases x <;> cases y <;> rfl

/-- One level of the tree: the sums of neighbours in pairs. -/
def lsumPairs (fw : Bool) (f : Nat → Option Lane × Flags) (k : Nat) : Option Lane × Flags := lsumBoth fw (f (2 * k)) (f (2 * k + 1))

/-- The tree over the `2^n` lanes from lane `k × 2^n`. -/
def lsumLevel (fw : Bool) (a : Token) (n k : Nat) : Option Lane × Flags := lsumTree fw a n (k * 2 ^ n)

theorem lsumLevel_succ (fw : Bool) (a : Token) (n : Nat) : lsumLevel fw a (n + 1) = lsumPairs fw (lsumLevel fw a n) := by
  funext k
  have hleft : k * 2 ^ (n + 1) = 2 * k * 2 ^ n := by ring
  have hright : 2 * k * 2 ^ n + 2 ^ n = (2 * k + 1) * 2 ^ n := by ring
  rw [lsumLevel, lsumTree, lsumCombine_eq, hleft, hright]
  rfl

theorem lsumLevel_zero (fw : Bool) (a : Token) : lsumLevel fw a 0 = fun k => (if a.valid k then some (a.lane k) else none, Flags.none) := by
  funext k
  rw [lsumLevel, pow_zero, mul_one, lsumTree]

theorem Flags.or_none (f : Flags) : f.or Flags.none = f := by simp [Flags.or, Flags.none]

/-- A NaN of FW40 is the canonical one, also where nothing was added to it (R50). -/
theorem lsumLone_eq (fw : Bool) (x : Lane) : lsumLone fw x =
    if (fw && (fwUnpack x).isNan) = true then (fwNaN, { Flags.none with nv := (fwUnpack x).isSnan }) else (x, Flags.none) := by
  cases h : fwUnpack x <;> cases fw <;> simp [lsumLone, h, FwVal.isNan, FwVal.isSnan, nanResult]

/-- The result of `lsum`, with its flags. -/
theorem lsumResult_eq (fw : Bool) (a : Token) : lsumResult fw a =
    let v := lsumLevel fw a 4 0
    let sum : Lane := v.1.getD 0
    let nan : Bool := fw && (fwUnpack sum).isNan
    (if nan then fwNaN else sum, if nan then v.2.or { Flags.none with nv := (fwUnpack sum).isSnan } else v.2) := by
  have hlevel : lsumLevel fw a 4 0 = lsumTree fw a 4 0 := rfl
  simp only [hlevel, lsumResult, lsumLone_eq]
  split_ifs <;> simp only [Flags.or_none]

end Sys2Proof.Machine
end

section
/-! SUPPORT. The statement on operators that arrange or reduce whole tokens, settled. -/

namespace Sys2Proof.Machine

/-- Settles O26: each operator by what it makes of the tokens at its ports. -/
theorem tokenOperators : Obligations.TokenOperators := by
  unfold Obligations.TokenOperators
  refine ⟨fires_tokenOp (by decide) ?perm, fires_tokenOp (by decide) ?permi, fires_tokenOp (by decide) ?bcast, fires_tokenOp (by decide) ?lsum,
    fires_tokenOp (by decide) ?amaxr, fires_tokenOp (by decide) ?bshdr, fires_tokenOp (by decide) ?join, fires_tokenOp (by decide) ?const,
    fires_tokenOp (by decide) ?iota, fires_tokenOp (by decide) ?csumRow⟩
  all_goals intro w a b c
  case perm => simp only [fireTokens, firePerm, low4_toNat]
  case permi => simp only [fireTokens, firePerm, low4_toNat, Bool.and_true]
  case bcast => simp only [fireTokens, firePerm, low4_toNat]
  case lsum =>
    simp only [fireTokens, fireLsum, lsumResult_eq, lsumLevel_succ, lsumLevel_zero]
    rfl
  all_goals rfl

end Sys2Proof.Machine
end

section
/-! SUPPORT. Lane-file operators (R161, R162): the words that they read and write where each index lies in the window or is wrapped, and their trap where one does
not. -/

namespace Sys2Proof.Machine

open Sys2Proof.Safety

/-- The word of an index inside the window, or of one that is wrapped into it. -/
theorem windowWord_eq (base : Nat) {len : Nat} {wrap : Bool} {i : Int} (hlen : 0 < len) (h : wrap = false → 0 ≤ i ∧ i < len) :
    windowWord base len wrap i = some (base + (if wrap then i % len else i).toNat) := by
  by_cases hin : 0 ≤ i ∧ i < len
  · simp [windowWord, hin, Int.emod_eq_of_lt hin.1 hin.2]
  · have hwrap : wrap = true := by
      by_contra hw
      exact hin (h (by simpa using hw))
    simp [windowWord, hin, hwrap, hlen]

/-- An index without a word is one outside the window that is not wrapped, or of an empty window. -/
theorem windowWord_isNone (base len : Nat) (wrap : Bool) (i : Int) : (windowWord base len wrap i).isNone =
    !(decide (0 < len) && (wrap || (decide (0 ≤ i) && decide (i < len)))) := by
  by_cases hin : 0 ≤ i ∧ i < len
  · have hlen : 0 < len := by omega
    simp [windowWord, hin, hlen]
  · have hout : (decide (0 ≤ i) && decide (i < len)) = false := by simpa using hin
    rw [windowWord, if_neg hin, hout, Bool.or_false]
    cases wrap <;> by_cases hlen : 0 < len <;> simp [hlen]

section
variable {s : State} {o : Opc} {e : Site} {img : Image} {sl : OpSlot} {hs : List (Nat × Token × Tag)}

/-- The lanes of a lane-file operator whose index has no word. -/
def laneFileOutside (sl : OpSlot) (a b : Token) : BitVec 16 :=
  maskOf fun k => (laneFileMask sl.word a b).getLsbD k &&
    (windowWord (sl.lfw.getD (0, 0)).1 (sl.lfw.getD (0, 0)).2 (sl.word.mod.getLsbD 0) (laneFileIndex sl.word a b k)).isNone

theorem laneFileEffect_outside {c : OpCopy} {a b : Token} (h : laneFileOutside sl a b ≠ 0) : laneFileEffect s img sl c a b =
    { fired := Fired.traps 0x30 ((laneFileOutside sl a b).setWidth 64), slot := sl, lanes := [], vrec := none } := if_pos h

variable (ho : o ∈ [Opc.lfld, .lfldi, .lfst, .lfsti]) (h : Ready s o e img sl hs) (hp : Plain hs)
include ho h hp

/-- A lane-file operator with an index outside traps `lf.range`, with the mask of such lanes (R162). -/
theorem exec_laneFile_outside (hout : laneFileOutside sl (tokenAt sl.word hs 0) (tokenAt sl.word hs 1) ≠ 0) : exec (o.instr e) s =
    .next (settle (trappedAt s e img sl hs 0x30 ((laneFileOutside sl (tokenAt sl.word hs 0) (tokenAt sl.word hs 1)).setWidth 64))) := by
  obtain ⟨hst, hh, hn⟩ := h
  have hopc := stands_opc hst
  rw [exec_instr_formC (by fin_cases ho <;> rfl), operatorFires, fireOp_data ⟨hst, hh, hn⟩ hp, dataEffect_laneFile (hopc ▸ ho),
    laneFileEffect_outside hout, applyEffect_trapping hh, trapped_goes (stands_jibFirst hst)]

/-- A lane-file operator whose indices lie inside emits the words of its lanes, and writes its words (R161). -/
theorem exec_laneFile_inside (hr : img.hasRoom e allTargets = true) (hin : LaneFileInside sl (tokenAt sl.word hs 0) (tokenAt sl.word hs 1)) :
    let a := tokenAt sl.word hs 0
    let b := tokenAt sl.word hs 1
    exec (o.instr e) s = .next (settle { firedTo s e img sl hs sl
        (some (Token.make (fun k => dget 0 s.lanes (laneFileKey img sl sl.copyAtTurn a b k)) (laneFileMask sl.word a b) .data)) Flags.none with
      lanes := (laneFileWrites img sl sl.copyAtTurn a b).foldl (fun m kv => dset 0 m kv.1 kv.2) s.lanes }) := by
  obtain ⟨hst, hh, hn⟩ := h
  have hopc := stands_opc hst
  dsimp only
  rw [exec_instr_formC (by fin_cases ho <;> rfl), operatorFires, fireOp_data ⟨hst, hh, hn⟩ hp, dataEffect_laneFile (hopc ▸ ho),
    laneFileEffect_inside hin, applyEffect_emitting hh hr, deals_data hp hn, fired_goes (stands_jibFirst hst)]
  rfl

end

/-- The words of a lane-file operator inside the window are base + index, the index taken mod LEN where it is wrapped. -/
theorem laneFileKey_inside {img : Image} {sl : OpSlot} {c : OpCopy} {a b : Token} (hin : LaneFileInside sl a b) {k : Nat}
    (hk : (laneFileMask sl.word a b).getLsbD k = true) : laneFileKey img sl c a b k = laneKey img.die c.tile c.elem k ((sl.lfw.getD (0, 0)).1 +
      (if sl.word.mod.getLsbD 0 then laneFileIndex sl.word a b k % (sl.lfw.getD (0, 0)).2 else laneFileIndex sl.word a b k).toNat) := by
  obtain ⟨hlen, hidx⟩ := hin k hk
  rw [laneFileKey, windowWord_eq _ hlen hidx, Option.getD_some]

/-- Words written one by one, each at its place. -/
theorem foldl_dset_congr {ks : List Nat} {f g : Nat → Nat} {v : Nat → Lane} (h : ∀ k ∈ ks, f k = g k) (m : KMap Lane) :
    (ks.map fun k => (f k, v k)).foldl (fun m kv => dset 0 m kv.1 kv.2) m = ks.foldl (fun m k => dset 0 m (g k) (v k)) m := by
  rw [List.map_congr_left fun k hk => by rw [h k hk], List.foldl_map]

end Sys2Proof.Machine
end

section
/-! SUPPORT. The statement on lane-file operators, settled. -/

namespace Sys2Proof.Machine

/-- Settles O28: an index outside traps; inside, the words of the lanes are read, and a store then writes them. -/
theorem laneFileOperators : Obligations.LaneFileOperators := by
  unfold Obligations.LaneFileOperators
  intro s o e img sl hs h hp hr a b cp base len idx m at_ inside outside old t wrote
  have hopc := stands_opc h.1
  have hidx : laneFileIndex sl.word a b = idx := by
    funext k
    simp [laneFileIndex, hopc, idx]
  have hm : laneFileMask sl.word a b = m := by simp [laneFileMask, hopc, m]
  have hout : laneFileOutside sl a b = outside := by simp only [laneFileOutside, windowWord_isNone, hm, hidx, outside, len]
  refine ⟨fun ho hne => ?_, fun hin => ?_⟩
  · rw [← hout] at hne ⊢
    exact exec_laneFile_outside ho h hp hne
  · have hinside : LaneFileInside sl a b := by
      unfold LaneFileInside
      rw [hm, hidx]
      exact hin
    have hkey {k : Nat} (hk : m.getLsbD k = true) : laneFileKey img sl sl.copyAtTurn a b k = at_ k := by
      rw [laneFileKey_inside hinside (hm ▸ hk), hidx]
      rfl
    have hold : Token.make (fun k => dget 0 s.lanes (laneFileKey img sl sl.copyAtTurn a b k)) (laneFileMask sl.word a b) .data = old := by
      rw [hm]
      exact make_congr fun k _ hk => by rw [hkey hk]
    have goes (ho : o ∈ [Opc.lfld, .lfldi, .lfst, .lfsti]) : exec (o.instr e) s = .next (settle { t with
        lanes := (laneFileWrites img sl sl.copyAtTurn a b).foldl (fun m kv => dset 0 m kv.1 kv.2) s.lanes }) := by
      rw [exec_laneFile_inside ho h hp hr hinside, hold]
    have loads (ho : o ∈ [Opc.lfld, .lfldi, .lfst, .lfsti]) (hn : ¬ (o = .lfst ∨ o = .lfsti)) : exec (o.instr e) s = .next (settle t) := by
      rw [goes ho, laneFileWrites_load (by rwa [hopc])]
      rfl
    have stores (ho : o ∈ [Opc.lfld, .lfldi, .lfst, .lfsti]) {v : Nat → Lane}
        (hw : laneFileWrites img sl sl.copyAtTurn a b = (lanesOf m).map fun k => (laneFileKey img sl sl.copyAtTurn a b k, v k)) :
        exec (o.instr e) s = .next (settle (wrote v)) := by
      rw [goes ho, hw, foldl_dset_congr fun k hk => hkey (getLsbD_of_mem_lanesOf hk)]
    refine ⟨?lfld, ?lfldi, ?lfst, ?lfsti⟩ <;> rintro rfl
    case lfld => exact loads (by decide) (by decide)
    case lfldi => exact loads (by decide) (by decide)
    case lfst => exact stores (by decide) (v := b.lane) (by simp [laneFileWrites, hopc, hm])
    case lfsti => exact stores (by decide) (v := a.lane) (by simp [laneFileWrites, hopc, hm])

end Sys2Proof.Machine
end

section
/-! SUPPORT. Numbers rounded to integers, ties to even (R156, R157, R160): `rneInt` against the quotient of the units of 2^−1080, and the roundings of FW40 that
are exact. -/

namespace Sys2Proof.Machine

open Sys2Proof.Safety

/-- `v / d` rounded to the nearest integer, ties to even. -/
def rneQuot (v : Int) (d : Nat) : Int := if 2 * (v % d) < d ∨ 2 * (v % d) = d ∧ v / d % 2 = 0 then v / d else v / d + 1

/-- The integer nearest to a quotient is the one that `rneQuot` answers. -/
theorem rneQuot_eq {v k : Int} {d : Nat} (hd : 0 < d) (below : 2 * (k * d) ≤ 2 * v + d) (above : 2 * v ≤ 2 * (k * d) + d)
    (even : 2 * (k * d) = 2 * v + d ∨ 2 * v = 2 * (k * d) + d → k % 2 = 0) : rneQuot v d = k := by
  have hdiv : v / d * d + v % d = v := Int.ediv_mul_add_emod v d
  have hlow := Int.emod_nonneg v (b := d) (by omega)
  have hhigh := Int.emod_lt_of_pos v (b := d) (by omega)
  have hdpos : (0 : Int) < d := by omega
  have hk : k = v / d ∨ k = v / d + 1 := by
    have hlo : v / d ≤ k := by
      by_contra hlt
      have : (k + 1) * d ≤ v / d * d := Int.mul_le_mul_of_nonneg_right (by omega) hdpos.le
      rw [add_mul, one_mul] at this
      omega
    have hhi : k ≤ v / d + 1 := by
      by_contra hlt
      have : (v / d + 2) * d ≤ k * d := Int.mul_le_mul_of_nonneg_right (by omega) hdpos.le
      rw [add_mul] at this
      omega
    omega
  unfold rneQuot
  obtain rfl | rfl := hk
  · rw [if_pos]
    omega
  · rw [add_mul, one_mul] at below above even
    rw [if_neg]
    omega

theorem NearestEven.rneQuot {V Q n : Nat} (h : NearestEven V Q n) (hQ : 0 < Q) (s : Bool) : rneQuot (signed s V) Q = signed s n := by
  obtain ⟨below, above, even⟩ := h
  have hmul : signed s n * Q = signed s (n * Q) := (signed_mul s n Q).symm
  zify at below above even
  refine rneQuot_eq hQ ?_ ?_ ?_ <;> rw [hmul] <;> cases s <;> simp only [signed, Bool.false_eq_true, if_false, if_true] <;> push_cast <;> omega

/-- A number in units of 2^−1080 that is rounded to an integer is the number `rneVal` of them, and the rounding says whether it was not exact. -/
theorem rneVal_units (s : Bool) (m : Nat) {e : Int} (he : -1080 ≤ e) :
    rneQuot (fwUnitsOf s m e) (2 ^ 1080) = rneVal s m e ∧ (rneInt m e).2 = decide (rneVal s m e * 2 ^ 1080 ≠ fwUnitsOf s m e) := by
  obtain ⟨near, inexact⟩ := rneInt_nearest m (e := e) (a := (e + 1080).toNat) (b := 1080) (by omega)
  refine ⟨near.rneQuot (by positivity) s, ?_⟩
  rw [inexact, rneVal, fwUnitsOf, ← signed_mul_two_pow, decide_eq_decide, ne_eq, ne_eq, signed_eq_iff, bne_self_eq_false, signed_false, Nat.cast_inj]

/-! ## Exact roundings -/

/-- The number `(−1)^s × m × 2^e` is rounded to itself, without a flag. -/
def RoundsExactly (s : Bool) (m : Nat) (e : Int) : Prop :=
  ∃ w : Lane, fwRound s m e = (w, Flags.none) ∧ fwSign w = s ∧ fwFinite w = true ∧ fwUnits w = fwUnitsOf s m e

@[simp] theorem fwSign_fwZero (s : Bool) : fwSign (fwZero s) = s := by cases s <;> decide

@[simp] theorem fwFinite_fwZero (s : Bool) : fwFinite (fwZero s) = true := fwFinite_of_num (fwUnpack_fwZero s)

@[simp] theorem fwUnits_fwZero (s : Bool) : fwUnits (fwZero s) = 0 := (fwUnits_of_num (fwUnpack_fwZero s)).trans ((fwUnitsOf_eq_zero ..).mpr rfl)

/-- A word that stands for a number other than 0 is finite. -/
theorem fwFinite_of_units_ne_zero {x : Lane} (h : fwUnits x ≠ 0) : fwFinite x = true := by
  cases hx : fwUnpack x with
  | nan s => simp [fwUnits, hx] at h
  | inf s => simp [fwUnits, hx] at h
  | num s m e => exact fwFinite_of_num hx

theorem roundsExactly_zero (s : Bool) (e : Int) : RoundsExactly s 0 e :=
  ⟨fwZero s, rfl, fwSign_fwZero s, fwFinite_fwZero s, by rw [fwUnits_fwZero, eq_comm, fwUnitsOf_eq_zero]⟩

/-- Thirty bits above the least quantum and below the overflow are rounded exactly. -/
theorem roundsExactly_of_bits (s : Bool) {m : Nat} {e : Int} (hbits : m < 2 ^ 30) (he : -539 ≤ e) (hmax : e + bitLen m ≤ 512) : RoundsExactly s m e := by
  obtain rfl | hm := eq_or_ne m 0
  · exact roundsExactly_zero s e
  · obtain ⟨w, hround, hsign, hunits⟩ := fwRound_exact s hm (bitLen_le hm hbits) he hmax
    refine ⟨w, hround, hsign, fwFinite_of_units_ne_zero ?_, hunits⟩
    rwa [hunits, ne_eq, fwUnitsOf_eq_zero]

/-- What is as much as a number of FW40 is rounded exactly. -/
theorem roundsExactly_of_fwNumber {s : Bool} {m n i : Nat} {e : Int} (he : -1080 ≤ e) (hn : FwNumber n i)
    (h : fwUnitsOf s n (i - 539) = fwUnitsOf s m e) : RoundsExactly s m e := by
  obtain rfl | hm := eq_or_ne m 0
  · exact roundsExactly_zero s e
  · have hne : fwUnitsOf s m e ≠ 0 := by rwa [ne_eq, fwUnitsOf_eq_zero]
    have hrounds := (fwRound_roundsOrZero s m he).1 hne
    have hsign : fwSign (fwRound s m e).1 = s := hrounds.1.trans (signed_lt_zero (Nat.mul_ne_zero hm (Nat.two_pow_pos _).ne') s)
    rw [← h, RoundsTo, ← mul_one (fwUnitsOf s n _), ← pow_zero 2] at hrounds
    obtain ⟨hflags, hunits⟩ := roundsOver_exact hn (fwRound_sat s m e) hrounds
    exact ⟨_, Prod.ext rfl hflags, hsign, fwFinite_of_units_ne_zero (by rwa [hunits, h]), hunits.trans h⟩

/-- A number of FW40 that is rounded to an integer gives a number of FW40. -/
theorem roundsExactly_rneInt (s : Bool) {m i : Nat} (h : FwNumber m i) : RoundsExactly s (rneInt m (i - 539)).1 0 := by
  by_cases hi : 539 ≤ i
  · refine roundsExactly_of_fwNumber (by omega) h ?_
    rw [fwUnitsOf_shift s m (e0 := 0) (by omega) (by omega), rneInt, if_pos (by omega), fwUnitsOf, signed_mul_two_pow, sub_zero]
  · obtain ⟨near, -⟩ := rneInt_nearest m (e := i - 539) (a := 0) (b := 539 - i) (by omega)
    have hpow : 2 ^ (539 - i) = 2 ^ 1 * 2 ^ (538 - i) := two_pow_eq_mul (by omega)
    have hbits := h.bits
    have hpos : 0 < 2 ^ (538 - i) := Nat.two_pow_pos _
    have hle : (rneInt m (i - 539)).1 ≤ 2 ^ 29 := near.le (by rw [hpow]; omega)
    obtain h0 | hne := eq_or_ne (rneInt m (i - 539)).1 0
    · rw [h0]
      exact roundsExactly_zero s 0
    · have hlen := bitLen_le hne (k := 30) (by omega)
      exact roundsExactly_of_bits s (by omega) (by omega) (by omega)

end Sys2Proof.Machine
end

section
/-! SUPPORT. The operators of one FW40 word (R156, R157, R159, R160), over finite words. -/

namespace Sys2Proof.Machine

open Sys2Proof.Safety

/-- A finite word is a number of FW40, and its number is the word's in units of 2^−1080. -/
theorem fwUnpack_units {a : Lane} (ha : fwFinite a = true) :
    ∃ m i : Nat, FwNumber m i ∧ fwUnpack a = .num (fwSign a) m (i - 539) ∧ fwUnits a = fwUnitsOf (fwSign a) m (i - 539) := by
  obtain ⟨m, i, hn, hunpack⟩ := fwUnpack_of_finite ha
  exact ⟨m, i, hn, hunpack, fwUnits_of_num hunpack⟩

/-- A word of the number 0 is the zero of its sign. -/
theorem fwUnpack_of_units_zero {a : Lane} (ha : fwFinite a = true) (h0 : fwUnits a = 0) : ∃ e, fwUnpack a = .num (fwSign a) 0 e := by
  obtain ⟨m, i, -, hunpack, hunits⟩ := fwUnpack_units ha
  rw [hunits, fwUnitsOf_eq_zero] at h0
  exact ⟨_, h0 ▸ hunpack⟩

/-- The exponent of the leading bit of a number, in units of 2^−1080. -/
theorem log2_fwUnitsOf (s : Bool) {m : Nat} (hm : m ≠ 0) {e : Int} (he : -1080 ≤ e) :
    ((fwUnitsOf s m e).natAbs.log2 : Int) = e + m.log2 + 1080 := by
  rw [fwUnitsOf, natAbs_signed, log2_mul_two_pow hm]
  omega

@[simp] theorem rneInt_zero (e : Int) : rneInt 0 e = (0, false) := by simp [rneInt, rneShift]

/-- `fround` of a number, which may be 0. -/
theorem laneFround_of_num {a : Lane} {s : Bool} {m : Nat} {e : Int} (h : fwUnpack a = .num s m e) :
    laneFround a = ((fwRound s (rneInt m e).1 0).1, { Flags.none with nx := (rneInt m e).2 }) := by
  obtain rfl | hm := eq_or_ne m 0
  · rw [eq_fwZero_of_unpack h]
    simp [laneFround, Flags.none]
  · simp only [laneFround, h, if_neg hm]

theorem expOf_eq {m i k : Nat} (hm : m ≠ 0) (hk : (k : Int) = i + m.log2 + 541) : expOf m (i - 539) = k - 1080 := by
  rw [expOf, bitLen_of_ne hm]
  omega

/-! ## What rounding to an integer leaves (R156) -/

theorem signed_natAbs (y : Int) : signed (decide (y < 0)) y.natAbs = y := by
  unfold signed
  split_ifs with h <;> rw [decide_eq_true_eq] at h <;> omega

/-- A significand of 30 bits less the multiple of a power of two nearest to it has at most 30 bits. -/
theorem natAbs_sub_nearest_lt {m n g : Nat} (hm : m < 2 ^ 30) (hg : 0 < g) (near : NearestEven m (2 ^ g) n) :
    (m - (n * 2 ^ g : Nat) : Int).natAbs < 2 ^ 30 := by
  have hhalf : 2 ^ g = 2 ^ 1 * 2 ^ (g - 1) := two_pow_eq_mul (by omega)
  obtain hsmall | hlarge := Nat.lt_or_ge 30 g
  · have hpow : 2 ^ 31 ≤ 2 ^ g := Nat.pow_le_pow_right (by omega) (by omega)
    have hzero : n ≤ 0 := near.le (by omega)
    rw [Nat.le_zero.mp hzero]
    omega
  · have hpow : 2 ^ (g - 1) ≤ 2 ^ 29 := Nat.pow_le_pow_right (by omega) (by omega)
    obtain ⟨below, above, -⟩ := near
    omega

/-- A number of FW40 less the integer nearest to it is a number of FW40, where it is not 0. -/
theorem exists_fwNumber_reduced (s : Bool) {m i : Nat} (hn : FwNumber m i)
    (hne : fwUnitsOf s m (i - 539) - rneVal s m (i - 539) * 2 ^ 1080 ≠ 0) : ∃ (t : Bool) (k j : Nat), FwNumber k j ∧
      fwUnitsOf t k (j - 539) = fwUnitsOf s m (i - 539) - rneVal s m (i - 539) * 2 ^ 1080 := by
  have hfraction : i < 539 := by
    by_contra hi
    refine hne ?_
    rw [fwUnitsOf_shift s m (e0 := 0) (by omega) (by omega), rneVal, rneInt, if_pos (by omega), sub_zero]
    exact sub_self _
  obtain ⟨near, -⟩ := rneInt_nearest m (e := i - 539) (a := 0) (b := 539 - i) (by omega)
  rw [pow_zero, mul_one] at near
  obtain ⟨y, hy⟩ : ∃ y, y = signed s m - signed s ((rneInt m (i - 539)).1 * 2 ^ (539 - i)) := ⟨_, rfl⟩
  have hunits : y * 2 ^ (541 + i) = fwUnitsOf s m (i - 539) - rneVal s m (i - 539) * 2 ^ 1080 := by
    have hexp : ((i : Int) - 539 + 1080).toNat = 541 + i := by omega
    have hpow : (1080 : Nat) = 539 - i + (541 + i) := by omega
    rw [hy, sub_mul, fwUnitsOf, signed_mul_two_pow, signed_mul_two_pow, rneVal, hexp, mul_assoc, ← pow_add, ← hpow]
  have hy0 : y ≠ 0 := by
    rintro rfl
    exact hne (by rw [← hunits, zero_mul])
  have habs : y.natAbs < 2 ^ 30 := by
    rw [hy, natAbs_signed_sub, bne_self_eq_false, signed_false]
    exact natAbs_sub_nearest_lt hn.bits (by omega) near
  have hlen := bitLen_le (Int.natAbs_ne_zero.mpr hy0) habs
  obtain ⟨k, j, hk, hkj⟩ := exists_fwNumber (decide (y < 0)) (e := i - 539) (Int.natAbs_ne_zero.mpr hy0) hlen (by omega) (by omega)
  refine ⟨decide (y < 0), k, j, hk, ?_⟩
  have hexp : ((i : Int) - 539 + 1080).toNat = 541 + i := by omega
  rw [hkj, ← hunits, fwUnitsOf, hexp, signed_mul_two_pow, signed_natAbs]

theorem addNum_sat (s : Bool) (m : Nat) (e : Int) (t : Bool) (n : Nat) (f : Int) : (addNum s m e t n f).2.sat = false := by
  unfold addNum fwRoundInt
  dsimp only
  split_ifs
  · rfl
  · exact fwRound_sat ..

section
variable {a : Lane} (ha : fwFinite a = true)
include ha

/-- A finite word that is not 0. -/
theorem fwUnpack_of_units_ne_zero (h0 : fwUnits a ≠ 0) : ∃ m i : Nat, m ≠ 0 ∧ FwNumber m i ∧ fwUnpack a = .num (fwSign a) m (i - 539) ∧
    fwUnits a = fwUnitsOf (fwSign a) m (i - 539) ∧ ((fwUnits a).natAbs.log2 : Int) = i + m.log2 + 541 := by
  obtain ⟨m, i, hn, hunpack, hunits⟩ := fwUnpack_units ha
  have hm : m ≠ 0 := by rwa [hunits, ne_eq, fwUnitsOf_eq_zero] at h0
  refine ⟨m, i, hm, hn, hunpack, hunits, ?_⟩
  rw [hunits, log2_fwUnitsOf _ hm (by omega)]
  ring

/-- `fround` gives the nearest integer, with the sign of its operand (R157). -/
theorem laneFround_of_finite : ∃ r : Lane,
    laneFround a = (r, { Flags.none with nx := decide (rneQuot (fwUnits a) (2 ^ 1080) * 2 ^ 1080 ≠ fwUnits a) }) ∧ fwFinite r = true ∧
      fwUnits r = rneQuot (fwUnits a) (2 ^ 1080) * 2 ^ 1080 ∧ fwSign r = fwSign a := by
  obtain ⟨m, i, hn, hunpack, hunits⟩ := fwUnpack_units ha
  obtain ⟨hquot, hinexact⟩ := rneVal_units (fwSign a) m (e := i - 539) (by omega)
  obtain ⟨w, hround, hsign, hfin, hw⟩ := roundsExactly_rneInt (fwSign a) hn
  rw [hunits, hquot, ← hinexact, laneFround_of_num hunpack, hround]
  refine ⟨w, rfl, hfin, ?_, hsign⟩
  rw [hw, fwUnitsOf, signed_mul_two_pow]
  rfl

/-- `fmant` gives the significand, in [1, 2) (R157). -/
theorem laneFmant_of_ne_zero (h0 : fwUnits a ≠ 0) : ∃ r : Lane, laneFmant a = plain r ∧ fwFinite r = true ∧
    fwUnits r * 2 ^ (fwUnits a).natAbs.log2 = fwUnits a * 2 ^ 1080 := by
  obtain ⟨m, i, hm, hn, hunpack, hunits, hlog⟩ := fwUnpack_of_units_ne_zero ha h0
  have hlen := bitLen_of_ne hm
  have hbits := bitLen_le hm hn.bits
  obtain ⟨w, hround, -, hfin, hw⟩ := roundsExactly_of_bits (fwSign a) hn.bits (e := 1 - bitLen m) (by omega) (by omega)
  refine ⟨w, ?_, hfin, ?_⟩
  · simp only [laneFmant, hunpack, if_neg hm, hround, plain]
  · have hpow : (1 - bitLen m + 1080 : Int).toNat + (fwUnits a).natAbs.log2 = (i - 539 + 1080 : Int).toNat + 1080 := by omega
    rw [hw, hunits, fwUnitsOf, ← hunits, signed_mul_two_pow, mul_assoc, ← pow_add, hpow, hunits, fwUnitsOf, signed_mul_two_pow, pow_add, mul_assoc]

/-- `fexpo` gives the exponent (R157). -/
theorem laneFexpo_of_ne_zero (h0 : fwUnits a ≠ 0) : laneFexpo a = plain (BitVec.ofInt 40 ((fwUnits a).natAbs.log2 - 1080)) := by
  obtain ⟨m, i, hm, -, hunpack, -, hlog⟩ := fwUnpack_of_units_ne_zero ha h0
  have hexp := expOf_eq hm hlog
  simp only [laneFexpo, hunpack, if_neg hm, hexp]
  rfl

/-- `bsfind` gives the exponent less the offset, clamped to a scale code (R159). -/
theorem laneBsfind_of_ne_zero (h0 : fwUnits a ≠ 0) (b : Lane) :
    laneBsfind a b = plain (BitVec.ofInt 40 (max 0 (min 254 ((fwUnits a).natAbs.log2 - 1080 - b.toInt + 127)))) := by
  obtain ⟨m, i, hm, -, hunpack, -, hlog⟩ := fwUnpack_of_units_ne_zero ha h0
  have hexp := expOf_eq hm hlog
  simp only [laneBsfind, hunpack, if_neg hm, hexp, s40OfInt, plain]
  congr 2
  split_ifs <;> omega

/-- `fexpr` and `fsinr` give what rounding to an integer leaves (R156). -/
theorem laneReduce_of_ne_zero (h0 : fwUnits a ≠ 0) (keep : Bool) : ∃ r : Lane, laneReduce keep a = plain r ∧ fwFinite r = true ∧
    fwUnits r = fwUnits a - rneQuot (fwUnits a) (2 ^ 1080) * 2 ^ 1080 ∧ (fwUnits r = 0 → r = 0) := by
  obtain ⟨m, i, hm, hn, hunpack, hunits, -⟩ := fwUnpack_of_units_ne_zero ha h0
  obtain ⟨hquot, -⟩ := rneVal_units (fwSign a) m (e := i - 539) (by omega)
  obtain ⟨n, hneg⟩ : ∃ n, n = rneVal (fwSign a) m (i - 539) := ⟨_, rfl⟩
  have hminus : fwUnitsOf (decide (0 < n)) n.natAbs 0 = -(n * 2 ^ 1080) := by
    have hsigned : signed (decide (0 < n)) n.natAbs = -n := by
      unfold signed
      split_ifs with h <;> rw [decide_eq_true_eq] at h <;> omega
    rw [fwUnitsOf, signed_mul_two_pow, hsigned, neg_mul]
    rfl
  obtain ⟨hround, hzero⟩ := addNum_roundsOrZero (fwSign a) (decide (0 < n)) m n.natAbs (e := i - 539) (f := 0) (by omega) (by omega)
  have hsat := addNum_sat (fwSign a) m (i - 539) (decide (0 < n)) n.natAbs 0
  rw [hminus, ← sub_eq_add_neg] at hround hzero
  rw [hunits, hquot, ← hneg]
  simp only [laneReduce, hunpack, if_neg hm, ← hneg]
  obtain hx | hx := eq_or_ne (fwUnitsOf (fwSign a) m (i - 539) - n * 2 ^ 1080) 0
  · rw [hzero hx, hx]
    refine ⟨fwZero false, ?_, fwFinite_fwZero false, fwUnits_fwZero false, fun _ => rfl⟩
    cases fwSign a && decide (0 < n) <;> rfl
  · obtain ⟨t, k, j, hk, hkj⟩ := exists_fwNumber_reduced (fwSign a) hn (hneg ▸ hx)
    rw [← hneg] at hkj
    have hexact := hround hx
    rw [← hkj, RoundsTo, ← mul_one (fwUnitsOf t k _), ← pow_zero 2] at hexact
    obtain ⟨hflags, hr⟩ := roundsOver_exact hk hsat hexact
    have hr0 : fwUnits (addNum (fwSign a) m (i - 539) (decide (0 < n)) n.natAbs 0).1 ≠ 0 := by rwa [hr, hkj]
    refine ⟨_, ?_, fwFinite_of_units_ne_zero hr0, hr.trans hkj, fun h => absurd h hr0⟩
    rw [if_neg, hflags, plain]
    intro h
    exact hr0 (by rw [h, fwUnits_fwZero])

end

end Sys2Proof.Machine
end

section
/-! SUPPORT. `flogr`, `cvtfi` and `fclass`, and the zeros, infinities and NaNs at the operators of one FW40 word (R156, R157, R159, R160). -/

namespace Sys2Proof.Machine

open Sys2Proof.Safety

/-! ## Logarithms (R156) -/

/-- The binade, in units of 2^−1080, that `flogr` and `flogp` take a positive number to be in: the next one up from `2^(1/2)` on (Table 2.9, R156). -/
def flogBinade (v : Nat) : Nat := if 0x0D413CCD ≤ v * 2 ^ 29 / 2 ^ v.log2 - 2 ^ 29 then v.log2 + 1 else v.log2

theorem flogBinade_mul_two_pow {m : Nat} (hm : m ≠ 0) (c : Nat) : flogBinade (m * 2 ^ c) = m.log2 + c + if flogHalves m then 1 else 0 := by
  have htop : m * 2 ^ c * 2 ^ 29 / 2 ^ (m.log2 + c) - 2 ^ 29 = topBits m 29 := by
    rw [topBits_eq hm, pow_add, mul_right_comm, Nat.mul_div_mul_right _ _ (Nat.two_pow_pos c), mul_comm]
  rw [flogBinade, log2_mul_two_pow hm, htop]
  by_cases h : 0x0D413CCD ≤ topBits m 29 <;> simp [flogHalves, h]

/-- `flogr` gives the significand of a positive number, or half of it (R156). -/
theorem laneFlogr_of_pos {a : Lane} (ha : fwFinite a = true) (hpos : 0 < fwUnits a) : ∃ r : Lane, laneFlogr a = plain r ∧ fwFinite r = true ∧
    fwUnits r * 2 ^ flogBinade (fwUnits a).toNat = fwUnits a * 2 ^ 1080 := by
  obtain ⟨m, c, hm, hbits, hlo, hhi, hunpack, hv⟩ := fwUnpack_of_pos ha hpos
  have hlen := bitLen_of_ne hm
  have hlen30 := bitLen_le hm hbits
  obtain ⟨k, hk⟩ : ∃ k : Nat, k = if flogHalves m then 1 else 0 := ⟨_, rfl⟩
  have hk1 : k ≤ 1 := by rw [hk]; split_ifs <;> omega
  have hexp : (if flogHalves m then -1 else 0 : Int) + 1 - bitLen m = 1 - bitLen m - k := by rw [hk]; split_ifs <;> push_cast <;> ring
  obtain ⟨w, hround, -, hfin, hw⟩ := roundsExactly_of_bits false hbits (e := 1 - bitLen m - k) (by omega) (by omega)
  refine ⟨w, ?_, hfin, ?_⟩
  · simp only [laneFlogr, hunpack, if_neg hm, hexp, hround, plain]
  · have hunits : fwUnits a = m * 2 ^ c := by rw [← Int.toNat_of_nonneg hpos.le, hv, Nat.cast_mul, Nat.cast_pow, Nat.cast_ofNat]
    have hpow : (1 - bitLen m - k + 1080 : Int).toNat + (m.log2 + c + k) = c + 1080 := by omega
    rw [hw, hv, flogBinade_mul_two_pow hm, ← hk, hunits, fwUnitsOf, signed_mul_two_pow, signed_false, mul_assoc, ← pow_add,
      hpow, pow_add, mul_assoc]

/-- `flogr` gives 1 for all but positive numbers (R156). -/
theorem laneFlogr_of_not_pos {a : Lane} (h : ¬ (fwFinite a = true ∧ 0 < fwUnits a)) : laneFlogr a = plain 0x3FE0000000 := by
  cases hx : fwUnpack a with
  | nan s => simp only [laneFlogr, hx, plain]
  | inf s => simp only [laneFlogr, hx, plain]
  | num s m e =>
    cases s with
    | true => simp only [laneFlogr, hx, plain]
    | false =>
      have hm : m = 0 := by
        by_contra hm
        refine h ⟨fwFinite_of_num hx, ?_⟩
        rw [fwUnits_of_num hx, fwUnitsOf, signed_false]
        positivity
      simp only [laneFlogr, hx, if_pos hm, plain]

/-! ## Integers (R160) -/

/-- The least and the greatest integer of a conversion, under `.u` or not (Table 6.2). -/
def clampLow (u : Bool) : Int := if u then 0 else -2 ^ 39
def clampHigh (u : Bool) : Int := if u then 2 ^ 40 - 1 else 2 ^ 39 - 1

theorem clampLane_eq (u : Bool) (x : Int) : clampLane u x = BitVec.ofInt 40 (max (clampLow u) (min (clampHigh u) x)) := by
  unfold clampLane
  dsimp only
  congr 1
  cases u <;> simp only [clampLow, clampHigh, Bool.false_eq_true, if_false, if_true] <;> split_ifs <;> omega

theorem intView_clampLane (u : Bool) (x : Int) : intView u (clampLane u x) = max (clampLow u) (min (clampHigh u) x) := by
  rw [clampLane_eq]
  cases u
  · simp only [intView, clampLow, clampHigh, Bool.false_eq_true, if_false, BitVec.toInt_ofInt]
    rw [Int.bmod_eq_of_le] <;> omega
  · simp only [intView, clampLow, clampHigh, if_true, BitVec.toNat_ofInt]
    omega

/-- `cvtfi` gives the nearest integer where it fits, and else the limit that it passes, with NV (R160). -/
theorem laneCvtfi_of_finite {a : Lane} (ha : fwFinite a = true) (u : Bool) : let n := rneQuot (fwUnits a) (2 ^ 1080)
    laneCvtfi u a = if clampLow u ≤ n ∧ n ≤ clampHigh u then (BitVec.ofInt 40 n, { Flags.none with nx := decide (n * 2 ^ 1080 ≠ fwUnits a) })
      else (BitVec.ofInt 40 (max (clampLow u) (min (clampHigh u) n)), Flags.invalid) := by
  obtain ⟨m, i, hn, hunpack, hunits⟩ := fwUnpack_units ha
  obtain ⟨hquot, hinexact⟩ := rneVal_units (fwSign a) m (e := i - 539) (by omega)
  dsimp only
  rw [hunits, hquot, ← hinexact]
  have hmodel : laneCvtfi u a = if intView u (clampLane u (rneVal (fwSign a) m (i - 539))) = rneVal (fwSign a) m (i - 539) then
      (clampLane u (rneVal (fwSign a) m (i - 539)), { Flags.none with nx := (rneInt m (i - 539)).2 })
      else (clampLane u (rneVal (fwSign a) m (i - 539)), Flags.invalid) := by
    simp only [laneCvtfi, hunpack, rneVal]
    rfl
  rw [hmodel, intView_clampLane, clampLane_eq]
  have hlimits : clampLow u ≤ clampHigh u := by cases u <;> decide
  split_ifs with hfits hin hin
  · rw [hfits]
  · omega
  · omega
  · rfl

/-! ## Classes (R157) -/

/-- A NaN is signalling where the leading bit of its fraction is 0 (R50). -/
theorem not_getLsbD_28 (a : Lane) : (!a.getLsbD 28) = decide (fwFrac a < 2 ^ 28) := by
  rw [BitVec.getLsbD, Nat.testBit_eq_decide_div_mod_eq, fwFrac, BitVec.extractLsb'_toNat, Nat.shiftRight_zero, ← decide_not, decide_eq_decide]
  omega

/-- The number of the class of a word (Table 6.7). -/
def fwClass (a : Lane) : Nat :=
  if fwExp a = 1023 then (if fwFrac a = 0 then (if fwSign a then 0 else 7) else if fwFrac a < 2 ^ 28 then 8 else 9)
  else if fwExp a = 0 then (if fwFrac a = 0 then (if fwSign a then 3 else 4) else if fwSign a then 2 else 5) else if fwSign a then 1 else 6

theorem fwClass_le (a : Lane) : fwClass a ≤ 9 := by
  unfold fwClass
  split_ifs <;> omega

theorem laneFclass_eq (a : Lane) : laneFclass a = BitVec.ofNat 40 (2 ^ fwClass a) := by
  unfold laneFclass fwUnpack fwClass
  rw [not_getLsbD_28]
  by_cases hexp : fwExp a = 1023
  · by_cases hfrac : fwFrac a = 0 <;> simp [hexp, hfrac]
  · by_cases hzero : fwExp a = 0
    · by_cases hfrac : fwFrac a = 0 <;> simp [hzero, hfrac]
    · simp [hexp, hzero]

/-- `fclass` sets the bit of the class of its operand (R157). -/
theorem laneFclass_toNat (a : Lane) : (laneFclass a).toNat = 2 ^ fwClass a := by
  have hlt : 2 ^ fwClass a < 2 ^ 40 := Nat.pow_lt_pow_right (by omega) (by have := fwClass_le a; omega)
  rw [laneFclass_eq, BitVec.toNat_ofNat, Nat.mod_eq_of_lt hlt]

/-! ## Zeros, infinities and NaNs -/

theorem operators_of_units_zero {a : Lane} (ha : fwFinite a = true) (h0 : fwUnits a = 0) :
    laneFmant a = plain a ∧ laneFexpo a = plain (BitVec.ofInt 40 (-2 ^ 39)) ∧ laneReduce false a = plain 0 ∧ laneReduce true a = plain a ∧
      ∀ b, laneBsfind a b = plain 127 := by
  obtain ⟨e, hunpack⟩ := fwUnpack_of_units_zero ha h0
  simp [laneFmant, laneFexpo, laneReduce, laneBsfind, hunpack, plain, s40OfInt, fwZero]

theorem operators_of_fwInf (s : Bool) :
    laneFround (fwInf s) = plain (fwInf s) ∧ laneFmant (fwInf s) = plain (fwInf s) ∧ laneFexpo (fwInf s) = plain (BitVec.ofInt 40 (2 ^ 39 - 1)) ∧
      (∀ keep, laneReduce keep (fwInf s) = plain 0) ∧ (∀ b, laneBsfind (fwInf s) b = plain 255) ∧
      laneCvtfi false (fwInf s) = (BitVec.ofInt 40 (if s then -2 ^ 39 else 2 ^ 39 - 1), Flags.invalid) ∧
      laneCvtfi true (fwInf s) = (BitVec.ofInt 40 (if s then 0 else 2 ^ 40 - 1), Flags.invalid) := by
  cases s <;> simp [laneFround, laneFmant, laneFexpo, laneReduce, laneBsfind, laneCvtfi, plain, s40OfInt, fwZero, clampLane]

theorem operators_of_isNan {a : Lane} (h : (fwUnpack a).isNan = true) :
    laneFround a = nanResult (fwUnpack a).isSnan ∧ laneFmant a = nanResult (fwUnpack a).isSnan ∧
      laneFexpo a = (BitVec.ofInt 40 (2 ^ 39 - 1), Flags.invalid) ∧ (∀ keep, laneReduce keep a = nanResult (fwUnpack a).isSnan) ∧
      (∀ b, laneBsfind a b = (255, { Flags.none with nv := (fwUnpack a).isSnan })) ∧ ∀ u, laneCvtfi u a = (0, Flags.invalid) := by
  cases hx : fwUnpack a with
  | nan s => simp [laneFround, laneFmant, laneFexpo, laneReduce, laneBsfind, laneCvtfi, hx, FwVal.isSnan, s40OfInt]
  | inf s => simp [hx, FwVal.isNan] at h
  | num s m e => simp [hx, FwVal.isNan] at h

end Sys2Proof.Machine
end

section
/-! SUPPORT. The operators of two FW40 words, and integers as FW40 (R156, R157, R160). -/

namespace Sys2Proof.Machine

open Sys2Proof.Safety

/-! ## Scaling by a power of two (R157) -/

/-- The word `r` and its flags are the number of a finite word scaled by `2^n` and rounded once, or that word where it is a zero. -/
def ScaledBy (a : Lane) (n : Int) (r : Lane × Flags) : Prop :=
  (fwUnits a = 0 → r = plain a) ∧ (fwUnits a ≠ 0 → RoundsOver (fwUnits a * 2 ^ n.toNat) (-n).toNat r)

theorem fwScale_scaledBy {a : Lane} (ha : fwFinite a = true) (n : Int) : ScaledBy a n (fwScale a n) := by
  obtain ⟨m, i, -, hunpack, hunits⟩ := fwUnpack_units ha
  have hscale : fwScale a n = fwRound (fwSign a) m (i - 539 + n) := by simp only [fwScale, hunpack]
  rw [hscale]
  constructor
  · intro h0
    rw [hunits, fwUnitsOf_eq_zero] at h0
    subst h0
    rw [fwRound_zero, ← eq_fwZero_of_unpack hunpack, plain]
  · intro h0
    rw [hunits, ne_eq, fwUnitsOf_eq_zero] at h0
    have hrounds := fwRound_rounds (fwSign a) h0 (e := i - 539 + n) (a := (i - 539 + 1080 : Int).toNat + n.toNat) (d := (-n).toNat) (by omega)
    rw [pow_add, ← mul_assoc, signed_mul_two_pow] at hrounds
    rwa [hunits, fwUnitsOf]

/-- The scale factor of `fscale` and `fexpp`, clamped to ±1,100. -/
theorem clampScale_eq (n : Int) : (if n < -1100 then -1100 else if 1100 < n then 1100 else n) = max (-1100) (min 1100 n) := by
  split_ifs <;> omega

theorem laneFscale_of_finite {a : Lane} (ha : fwFinite a = true) (b : Lane) : ScaledBy a (max (-1100) (min 1100 b.toInt)) (laneFscale a b) := by
  obtain ⟨m, i, -, hunpack, hunits⟩ := fwUnpack_units ha
  have hscaled := fwScale_scaledBy ha (max (-1100) (min 1100 b.toInt))
  obtain rfl | hm := eq_or_ne m 0
  · have h0 : fwUnits a = 0 := by rw [hunits, fwUnitsOf_eq_zero]
    have hzero : laneFscale a b = plain a := by simp [laneFscale, hunpack, plain]
    rwa [hzero, ← hscaled.1 h0]
  · have hscale : laneFscale a b = fwScale a (max (-1100) (min 1100 b.toInt)) := by simp only [laneFscale, hunpack, if_neg hm, clampScale_eq]
    rwa [hscale]

theorem laneFscale_fwInf (s : Bool) (b : Lane) : laneFscale (fwInf s) b = plain (fwInf s) := by simp [laneFscale, plain]

theorem laneFscale_of_isNan {a : Lane} (h : (fwUnpack a).isNan = true) (b : Lane) : laneFscale a b = nanResult (fwUnpack a).isSnan := by
  cases hx : fwUnpack a with
  | nan s => simp [laneFscale, hx, FwVal.isSnan]
  | inf s => simp [hx, FwVal.isNan] at h
  | num s m e => simp [hx, FwVal.isNan] at h

/-! ## The second steps of `fexp`, `flog` and `fsin` (R156) -/

/-- A NaN at either port comes before every other case (R156; log entry 36). -/
theorem steps_of_nan {a b : Lane} (h : (fwUnpack a).isNan = true ∨ (fwUnpack b).isNan = true) :
    let r : Lane × Flags := nanResult ((fwUnpack a).isSnan || (fwUnpack b).isSnan)
    laneFexpp a b = r ∧ laneFlogp a b = r ∧ laneFsinp a b = r := by
  cases hx : fwUnpack a <;> cases hy : fwUnpack b <;> simp_all [laneFexpp, laneFlogp, laneFsinp, FwVal.isNan, FwVal.isSnan]

section
variable {a b : Lane} (hb : fwFinite b = true)
include hb

/-- `fexpp` scales by the power of two of the integer nearest to b. -/
theorem laneFexpp_of_finite (ha : (fwUnpack a).isNan = false) :
    laneFexpp a b = fwScale a (max (-1100) (min 1100 (rneQuot (fwUnits b) (2 ^ 1080)))) := by
  obtain ⟨m, i, -, hunpack, hunits⟩ := fwUnpack_units hb
  obtain ⟨hquot, -⟩ := rneVal_units (fwSign b) m (e := i - 539) (by omega)
  rw [hunits, hquot, ← clampScale_eq]
  cases hx : fwUnpack a with
  | nan s => simp [hx, FwVal.isNan] at ha
  | inf s => simp only [laneFexpp, hx, hunpack]
  | num s m e => simp only [laneFexpp, hx, hunpack]

/-- `fsinp` inverts the sign where the integer nearest to b is odd. -/
theorem laneFsinp_of_finite (ha : (fwUnpack a).isNan = false) :
    laneFsinp a b = plain (if rneQuot (fwUnits b) (2 ^ 1080) % 2 = 0 then a else a ^^^ 0x8000000000) := by
  obtain ⟨m, i, -, hunpack, hunits⟩ := fwUnpack_units hb
  obtain ⟨hquot, -⟩ := rneVal_units (fwSign b) m (e := i - 539) (by omega)
  rw [hunits, hquot]
  have hmodel : laneFsinp a b = if rneVal (fwSign b) m (i - 539) % 2 = 0 then plain a else plain (a ^^^ 0x8000000000) := by
    cases hx : fwUnpack a with
    | nan s => simp [hx, FwVal.isNan] at ha
    | inf s => simp only [laneFsinp, hx, hunpack, plain]
    | num s m e => simp only [laneFsinp, hx, hunpack, plain]
  rw [hmodel]
  split_ifs <;> rfl

/-- The number that `flogp` adds to a: the binade of b (R156). -/
theorem laneFlogp_of_pos (ha : (fwUnpack a).isNan = false) (hpos : 0 < fwUnits b) :
    let k : Int := flogBinade (fwUnits b).toNat - 1080
    laneFlogp a b = fwAddVal (fwUnpack a) (.num (decide (k < 0)) k.natAbs 0) := by
  obtain ⟨m, c, hm, -, -, -, hunpack, hv⟩ := fwUnpack_of_pos hb hpos
  have hexp : expOf m (c - 1080) + (if flogHalves m then 1 else 0) = flogBinade (fwUnits b).toNat - 1080 := by
    rw [hv, flogBinade_mul_two_pow hm, expOf, bitLen_of_ne hm]
    split_ifs <;> push_cast <;> ring
  dsimp only
  rw [← hexp]
  cases hx : fwUnpack a with
  | nan s => simp [hx, FwVal.isNan] at ha
  | inf s => simp only [laneFlogp, hx, hunpack, if_neg hm]; rfl
  | num s n e => simp only [laneFlogp, hx, hunpack, if_neg hm]; rfl

theorem laneFlogp_roundsOrZero (ha : fwFinite a = true) (hpos : 0 < fwUnits b) :
    RoundsOrZero (fwUnits a + (flogBinade (fwUnits b).toNat - 1080) * 2 ^ 1080) false (laneFlogp a b) := by
  obtain ⟨m, i, -, hunpack, hunits⟩ := fwUnpack_units ha
  rw [laneFlogp_of_pos hb (by rw [hunpack]; rfl) hpos, hunpack]
  obtain ⟨k, hk⟩ : ∃ k : Int, k = flogBinade (fwUnits b).toNat - 1080 := ⟨_, rfl⟩
  have hadd : fwUnitsOf (decide (k < 0)) k.natAbs 0 = k * 2 ^ 1080 := by
    rw [fwUnitsOf, signed_mul_two_pow, signed_natAbs]
    rfl
  obtain ⟨hround, hzero⟩ := addNum_roundsOrZero (fwSign a) (decide (k < 0)) m k.natAbs (e := i - 539) (f := 0) (by omega) (by omega)
  rw [hadd, ← hunits] at hround hzero
  rw [← hk]
  have hsign : fwUnits a + k * 2 ^ 1080 = 0 → (fwSign a && decide (k < 0)) = false := by
    intro h0
    by_contra hneg
    obtain ⟨ha, hk⟩ : fwSign a = true ∧ k < 0 := by simpa using hneg
    have hunits0 : fwUnits a ≤ 0 := by
      rw [hunits, ha, fwUnitsOf, signed, if_pos rfl]
      omega
    have hk0 : k * 2 ^ 1080 < 0 := mul_neg_of_neg_of_pos hk (by positivity)
    omega
  exact ⟨hround, fun h0 => hsign h0 ▸ hzero h0⟩

end

/-! ## Special operands of the second steps -/

@[simp] theorem fwSign_fwInf (s : Bool) : fwSign (fwInf s) = s := by cases s <;> decide

@[simp] theorem fwFinite_fwInf (s : Bool) : fwFinite (fwInf s) = false := by simp [fwFinite]

/-- A word that is no NaN is an infinity or finite. -/
theorem eq_fwInf_or_finite {a : Lane} (h : (fwUnpack a).isNan = false) : a = fwInf (fwSign a) ∨ fwFinite a = true := by
  cases hx : fwUnpack a with
  | nan s => simp [hx, FwVal.isNan] at h
  | inf s =>
    obtain rfl := eq_fwInf_of_unpack hx
    simp
  | num s m e => exact .inr (fwFinite_of_num hx)

section
variable {a b : Lane} (ha : (fwUnpack a).isNan = false)
include ha

theorem laneFexpp_fwInf_false :
    laneFexpp a (fwInf false) = if fwFinite a = true ∧ fwUnits a = 0 then nanResult true else plain (fwInf (fwSign a)) := by
  obtain hinf | hfin := eq_fwInf_or_finite ha
  · rw [hinf]
    simp [laneFexpp, mulExact, fwRoundVal, plain]
  · obtain ⟨m, i, -, hunpack, hunits⟩ := fwUnpack_units hfin
    by_cases hm : m = 0 <;> simp [laneFexpp, hunpack, mulExact, fwRoundVal, hm, hfin, hunits, fwUnitsOf_eq_zero, plain]

theorem laneFexpp_fwInf_true : laneFexpp a (fwInf true) = if fwFinite a = true then plain (fwZero (fwSign a)) else nanResult true := by
  obtain hinf | hfin := eq_fwInf_or_finite ha
  · rw [hinf]
    simp [laneFexpp, mulExact, fwRoundVal]
  · obtain ⟨m, i, -, hunpack, -⟩ := fwUnpack_units hfin
    simp [laneFexpp, hunpack, mulExact, fwRoundVal, hfin, plain]

theorem laneFsinp_fwInf (s : Bool) : laneFsinp a (fwInf s) = nanResult true := by
  cases hx : fwUnpack a <;> simp_all [laneFsinp, FwVal.isNan]

theorem laneFlogp_fwInf (s : Bool) : laneFlogp a (fwInf s) = if s then nanResult true else plain (fwInf false) := by
  cases hx : fwUnpack a <;> simp_all [laneFlogp, plain, FwVal.isNan]

theorem laneFlogp_of_units_zero (hb : fwFinite b = true) (h0 : fwUnits b = 0) : laneFlogp a b = plain (fwInf true) := by
  obtain ⟨e, hunpack⟩ := fwUnpack_of_units_zero hb h0
  cases hx : fwUnpack a <;> simp_all [laneFlogp, plain, FwVal.isNan]

theorem laneFlogp_of_neg (hb : fwFinite b = true) (hneg : fwUnits b < 0) : laneFlogp a b = nanResult true := by
  obtain ⟨m, i, hm, -, hunpack, hunits, -⟩ := fwUnpack_of_units_ne_zero hb hneg.ne
  have hsign : fwSign b = true := by
    by_contra hs
    rw [Bool.not_eq_true] at hs
    rw [hunits, hs, fwUnitsOf, signed_false] at hneg
    omega
  rw [hsign] at hunpack
  cases hx : fwUnpack a <;> simp_all [laneFlogp, FwVal.isNan]

end

/-! ## Integers as FW40 (R160) -/

theorem fwOfInt_roundsOrZero (v : Int) : RoundsOrZero (v * 2 ^ 1080) false (fwOfInt v) := fwRoundInt_roundsOrZero false v (e := 0) (by omega)

end Sys2Proof.Machine
end

section
/-! SUPPORT. `cvtsat` (R160): an integer through a storage format. -/

namespace Sys2Proof.Machine

open Sys2Proof.Safety

theorem toInt_s40OfInt {x : Int} (hlo : -2 ^ 39 ≤ x) (hhi : x < 2 ^ 39) : (s40OfInt x).toInt = x := by
  rw [s40OfInt, BitVec.toInt_ofInt, Int.bmod_eq_of_le] <;> omega

/-- What a store writes of an integer: the code of the nearest integer of the format, or under `cvm` 2 of the integer itself (Table 2.7). -/
theorem storeInt_code {f : Fmt} (hf : f.intRange.1 ≤ f.intRange.2) (cvm : BitVec 2) (x : Int) (nx : Bool) : (storeInt f cvm x nx).1 =
    ((if cvm = 2 then x else max f.intRange.1 (min f.intRange.2 x)) % 2 ^ f.bits).toNat := by
  unfold storeInt
  dsimp only
  by_cases hin : f.intRange.1 ≤ x ∧ x ≤ f.intRange.2
  · have hclamp : max f.intRange.1 (min f.intRange.2 x) = x := by omega
    rw [if_pos hin, hclamp, ite_self]
  · rw [if_neg hin]
    by_cases hc : cvm = 2
    · rw [if_pos hc, if_pos hc]
    · have hclamp : (if x < f.intRange.1 then f.intRange.1 else f.intRange.2) = max f.intRange.1 (min f.intRange.2 x) := by split_ifs <;> omega
      rw [if_neg hc, if_neg hc, hclamp]

/-- The integer of a code in two's complement (Table 0.5). -/
theorem intOfCode_signed {f : Fmt} (hf : f ∈ [Fmt.s8, .s16, .s32]) (x : Int) : intOfCode f (x % 2 ^ f.bits).toNat = x.bmod (2 ^ f.bits) := by
  fin_cases hf <;> simp only [intOfCode, Fmt.bits, Fmt.intRange, Int.bmod_def] <;> split_ifs <;> omega

theorem intOfCode_unsigned {f : Fmt} (hf : f ∈ [Fmt.n8, .n16, .n32]) (x : Int) : intOfCode f (x % 2 ^ f.bits).toNat = x % 2 ^ f.bits := by
  fin_cases hf <;> simp only [intOfCode, Fmt.bits, Fmt.intRange] <;> split_ifs <;> omega

theorem laneCvtsat_of_type {t : BitVec 4} {f : Fmt} (ht : fmtOfType t = some f) (wrap : Bool) (a : Lane) :
    laneCvtsat t wrap a = s40OfInt (intOfCode f (storeInt f (if wrap then 2 else 0) a.toInt false).1) := by simp only [laneCvtsat, ht]

/-- `cvtsat` to a signed format clamps, or wraps with `.wrap` (R160). -/
theorem laneCvtsat_signed {t : BitVec 4} {f : Fmt} (ht : fmtOfType t = some f) (hf : f ∈ [Fmt.s8, .s16, .s32]) (a : Lane) :
    (laneCvtsat t false a).toInt = max (-2 ^ (f.bits - 1)) (min (2 ^ (f.bits - 1) - 1) a.toInt) ∧
      (laneCvtsat t true a).toInt = a.toInt.bmod (2 ^ f.bits) := by
  have hrange : f.intRange.1 ≤ f.intRange.2 := by fin_cases hf <;> decide
  rw [laneCvtsat_of_type ht, laneCvtsat_of_type ht, storeInt_code hrange, storeInt_code hrange, intOfCode_signed hf, intOfCode_signed hf]
  fin_cases hf <;> simp [Fmt.bits, Fmt.intRange] <;> constructor <;> rw [toInt_s40OfInt] <;> simp [Int.bmod_def] <;> omega

/-- `cvtsat` to an unsigned format clamps, or wraps with `.wrap` (R160). -/
theorem laneCvtsat_unsigned {t : BitVec 4} {f : Fmt} (ht : fmtOfType t = some f) (hf : f ∈ [Fmt.n8, .n16, .n32]) (a : Lane) :
    (laneCvtsat t false a).toInt = max 0 (min (2 ^ f.bits - 1) a.toInt) ∧ (laneCvtsat t true a).toInt = a.toInt % 2 ^ f.bits := by
  have hrange : f.intRange.1 ≤ f.intRange.2 := by fin_cases hf <;> decide
  rw [laneCvtsat_of_type ht, laneCvtsat_of_type ht, storeInt_code hrange, storeInt_code hrange, intOfCode_unsigned hf, intOfCode_unsigned hf]
  fin_cases hf <;> simp [Fmt.bits, Fmt.intRange] <;> constructor <;> rw [toInt_s40OfInt] <;> omega

end Sys2Proof.Machine
end

section
/-! SUPPORT. `cvtfr` (R160): an FW40 number through a floating storage format, in the normal range of the format. -/

namespace Sys2Proof.Machine

open Sys2Proof.Safety

/-! ## Codes of a floating format -/

/-- The floating formats (Table 2.5). -/
def floatFormats : List Fmt := [.f32, .bf16, .f16, .e4m3, .e5m2]

/-- The exponent bits of a floating format. -/
def Fmt.expBits (f : Fmt) : Nat := f.fltParams.1

/-- The fraction bits of a floating format. -/
def Fmt.fracBits (f : Fmt) : Nat := f.fltParams.2.1

/-- The bias of a floating format. -/
def Fmt.expBias (f : Fmt) : Nat := f.fltParams.2.2

/-- The sign, the exponent and the fraction of a code (Table 2.5). -/
theorem signCode_fields {f : Fmt} (hf : f ∈ floatFormats) (s : Bool) {c : Nat} (hc : c < 2 ^ (f.expBits + f.fracBits)) :
    decide ((signCode f s + c) >>> (f.expBits + f.fracBits) % 2 = 1) = s ∧ (signCode f s + c) >>> f.fracBits % 2 ^ f.expBits = c / 2 ^ f.fracBits ∧
      (signCode f s + c) % 2 ^ f.fracBits = c % 2 ^ f.fracBits := by
  have hbits : f.bits - 1 = f.expBits + f.fracBits := by fin_cases hf <;> rfl
  have hsign : signCode f s = s.toNat * 2 ^ (f.expBits + f.fracBits) := by cases s <;> simp [signCode, hbits]
  have hlow : s.toNat * 2 ^ (f.expBits + f.fracBits) = 2 ^ f.fracBits * (2 ^ f.expBits * s.toNat) := by rw [pow_add]; ring
  have hexp : c / 2 ^ f.fracBits < 2 ^ f.expBits := by rwa [Nat.div_lt_iff_lt_mul (Nat.two_pow_pos _), ← pow_add]
  refine ⟨?_, ?_, ?_⟩
  · rw [hsign, Nat.shiftRight_eq_div_pow, Nat.add_comm, Nat.add_mul_div_right _ _ (Nat.two_pow_pos _), Nat.div_eq_of_lt hc]
    cases s <;> rfl
  · rw [hsign, hlow, Nat.shiftRight_eq_div_pow, Nat.mul_add_div (Nat.two_pow_pos _), Nat.mul_add_mod, Nat.mod_eq_of_lt hexp]
  · rw [hsign, hlow, Nat.mul_add_mod]

/-- A code whose exponent is neither that of the subnormal numbers nor one of infinities and NaNs is a normal number (Table 2.5). -/
theorem fltUnpack_eq_num {f : Fmt} {w : Nat} {s : Bool} {E F : Nat} (hs : decide (w >>> (f.expBits + f.fracBits) % 2 = 1) = s)
    (hE : w >>> f.fracBits % 2 ^ f.expBits = E) (hF : w % 2 ^ f.fracBits = F) (h0 : E ≠ 0) (hnan : f = .e4m3 → ¬ (E = 15 ∧ F = 7))
    (hinf : f ≠ .e4m3 → E ≠ 2 ^ f.expBits - 1) : fltUnpack f w = .num s (2 ^ f.fracBits + F) (E - f.expBias - f.fracBits) := by
  subst hs hE hF
  by_cases hf : f = .e4m3
  · exact (if_pos hf).trans ((if_neg (hnan hf)).trans (if_neg h0))
  · exact (if_neg hf).trans ((if_neg (hinf hf)).trans (if_neg h0))

/-- The number of a finite code that is not subnormal (Table 2.5). -/
theorem fltUnpack_of_normal {f : Fmt} (hf : f ∈ floatFormats) (s : Bool) {c : Nat} (hlo : 2 ^ f.fracBits ≤ c) (hhi : c ≤ f.maxFinite) :
    fltUnpack f (signCode f s + c) = .num s (2 ^ f.fracBits + c % 2 ^ f.fracBits) ((c / 2 ^ f.fracBits : Nat) - f.expBias - f.fracBits) := by
  have hmax : f.maxFinite < 2 ^ (f.expBits + f.fracBits) := by fin_cases hf <;> decide
  obtain ⟨hs, hE, hF⟩ := signCode_fields hf s (hhi.trans_lt hmax)
  refine fltUnpack_eq_num hs hE hF (Nat.div_pos hlo (Nat.two_pow_pos _)).ne' ?nan ?inf
  case nan =>
    rintro rfl
    simp only [Fmt.fracBits, Fmt.fltParams, Fmt.maxFinite] at hhi ⊢
    omega
  case inf =>
    intro hne
    fin_cases hf <;> simp [Fmt.fracBits, Fmt.expBits, Fmt.fltParams, Fmt.maxFinite] at hhi hne ⊢ <;> omega

theorem laneCvtfr_of_num {f : Fmt} (hf : f ∈ floatFormats) {t : BitVec 4} (ht : fmtOfType t = some f) (fin : Bool) {a : Lane} {s : Bool} {m : Nat}
    {e : Int} (ha : fwUnpack a = .num s m e) : laneCvtfr t fin a =
      let w := storeFlt f (if fin then 1 else 0) s m e
      (fltToFw f w.1, { w.2 with sat := false }) := by
  fin_cases hf <;> simp [laneCvtfr, ht, storeConv, loadConv, ha, Fmt.isInt, FwVal.isSnan]

/-! ## Rounding into a format's normal range -/

/-- A significand of 30 bits rounded to `p + 1` bits above the least quantum, in `N` quanta `2^k`; where the bits carry, the quantum doubles. -/
theorem roundMag_normal {p m : Nat} {qmin e : Int} (hm : bitLen m = 30) (hp : p < 29) (hq : qmin ≤ e + 29 - p) :
    ∃ (n k : Nat), roundMag (p + 1) qmin m e = { n := n, q := e + 29 - p + k, nx := (rneInt m (p - 29)).2, tiny := false } ∧ k ≤ 1 ∧
      n * 2 ^ k = (rneInt m (p - 29)).1 ∧ 2 ^ p ≤ n ∧ n < 2 ^ (p + 1) ∧ (k = 1 → n = 2 ^ p) := by
  obtain ⟨near, -⟩ := rneInt_nearest m (e := p - 29) (a := 0) (b := 29 - p) (by omega)
  have hm0 : m ≠ 0 := by rintro rfl; simp [bitLen] at hm
  have hlog : m.log2 = 29 := by
    have := bitLen_of_ne hm0
    omega
  obtain ⟨hlo, hhi⟩ := (Nat.log2_eq_iff hm0).mp hlog
  have hp29 : 2 ^ p * 2 ^ (29 - p) = 2 ^ 29 := by rw [← pow_add]; congr 1; omega
  have hp30 : 2 ^ (p + 1) * 2 ^ (29 - p) = 2 ^ 30 := by rw [← pow_add]; congr 1; omega
  have hpos : 0 < 2 ^ (29 - p) := Nat.two_pow_pos _
  have hge : 2 ^ p ≤ (rneInt m (p - 29)).1 := near.ge (by omega)
  have hle : (rneInt m (p - 29)).1 ≤ 2 ^ (p + 1) := near.le (by omega)
  have hquantum : e + bitLen m - (p + 1 : Nat) = e + 29 - p := by rw [hm]; push_cast; ring
  have hshift : e - (e + 29 - p) = p - 29 := by ring
  have hu : roundUnbounded (p + 1) m e = if (rneInt m (p - 29)).1 = 2 ^ (p + 1) then
      { n := 2 ^ p, q := e + 29 - p + 1, nx := (rneInt m (p - 29)).2, tiny := false }
      else { n := (rneInt m (p - 29)).1, q := e + 29 - p, nx := (rneInt m (p - 29)).2, tiny := false } := by
    simp only [roundUnbounded, hquantum, hshift, Nat.add_sub_cancel]
  unfold roundMag
  rw [hu]
  by_cases hcarry : (rneInt m (p - 29)).1 = 2 ^ (p + 1)
  · refine ⟨2 ^ p, 1, ?_, le_rfl, ?_, le_rfl, ?_, fun _ => rfl⟩
    · rw [if_pos hcarry]
      exact if_neg (by dsimp only; omega)
    · rw [hcarry, ← pow_add]
    · exact Nat.pow_lt_pow_right (by omega) (by omega)
  · refine ⟨(rneInt m (p - 29)).1, 0, ?_, by omega, by simp, hge, by omega, by omega⟩
    rw [if_neg hcarry, if_neg (by dsimp only; omega)]
    simp

/-- A significand that fits a format's normal range is stored under its code, and the code loads as it. -/
theorem storeFlt_normal {f : Fmt} (hf : f ∈ floatFormats) (cvm : BitVec 2) (s : Bool) {m n : Nat} {e q : Int} {nx : Bool} (hm : m ≠ 0)
    (hr : roundMag (f.fracBits + 1) (1 - f.expBias - f.fracBits) m e = { n := n, q := q, nx := nx, tiny := false })
    (hlo : 2 ^ f.fracBits ≤ n) (hhi : n < 2 ^ (f.fracBits + 1)) (hq : 1 ≤ q + f.expBias + f.fracBits)
    (hmax : (q + f.expBias + f.fracBits).toNat * 2 ^ f.fracBits + (n - 2 ^ f.fracBits) ≤ f.maxFinite) :
    (storeFlt f cvm s m e).2 = { Flags.none with nx := nx } ∧ fltUnpack f (storeFlt f cvm s m e).1 = .num s n q := by
  obtain ⟨c, hc⟩ : ∃ c, c = (q + f.expBias + f.fracBits).toNat * 2 ^ f.fracBits + (n - 2 ^ f.fracBits) := ⟨_, rfl⟩
  rw [← hc] at hmax
  have hstore : storeFlt f cvm s m e = (signCode f s + c, { Flags.none with nx := nx }) := by
    have hr' : roundMag (f.fltParams.2.1 + 1) (1 - f.fltParams.2.2 - f.fltParams.2.1) m e = { n := n, q := q, nx := nx, tiny := false } := hr
    have hcode : (if n < 2 ^ f.fltParams.2.1 then n
        else (q + f.fltParams.2.2 + f.fltParams.2.1).toNat * 2 ^ f.fltParams.2.1 + (n - 2 ^ f.fltParams.2.1)) = c := by
      rw [hc]
      exact if_neg (Nat.not_lt.mpr hlo)
    simp only [storeFlt, if_neg hm, hr', hcode, if_neg (Nat.not_lt.mpr hmax), Bool.false_and]
    rfl
  have hpos := Nat.two_pow_pos f.fracBits
  have hdiv : c / 2 ^ f.fracBits = (q + f.expBias + f.fracBits).toNat := by
    rw [hc, Nat.add_comm, Nat.add_mul_div_right _ _ hpos, Nat.div_eq_of_lt (by rw [pow_succ] at hhi; omega), Nat.zero_add]
  have hmod : c % 2 ^ f.fracBits = n - 2 ^ f.fracBits := by
    rw [hc, Nat.mul_add_mod_self_right, Nat.mod_eq_of_lt (by rw [pow_succ] at hhi; omega)]
  have hclo : 2 ^ f.fracBits ≤ c := by
    rw [hc]
    exact (Nat.le_mul_of_pos_left _ (by omega)).trans (Nat.le_add_right _ _)
  rw [hstore]
  refine ⟨rfl, ?_⟩
  rw [fltUnpack_of_normal hf s hclo hmax, hdiv, hmod]
  congr 1
  · omega
  · omega

/-- The TYPE codes of the floating formats with their fraction bits, and the exponents of FW40 from which and below which a number lies in the format's normal
range, also when it is rounded up (Table 2.5, R160). -/
def floatTypes : List (BitVec 4 × Nat × Nat × Nat) := [(2, 23, 385, 638), (3, 7, 385, 638), (4, 10, 497, 526), (5, 3, 505, 519), (6, 2, 497, 526)]

theorem floatTypes_format {t : BitVec 4} {p lo hi : Nat} (h : (t, p, lo, hi) ∈ floatTypes) :
    ∃ f ∈ floatFormats, fmtOfType t = some f ∧ f.fracBits = p ∧ lo + f.expBias = 512 ∧ (hi + f.expBias - 511) * 2 ^ p ≤ f.maxFinite ∧
      p ≤ 23 ∧ 385 ≤ lo ∧ hi ≤ 638 := by
  fin_cases h
  · exact ⟨.f32, by decide⟩
  · exact ⟨.bf16, by decide⟩
  · exact ⟨.f16, by decide⟩
  · exact ⟨.e4m3, by decide⟩
  · exact ⟨.e5m2, by decide⟩

/-- A normal FW40 word is a significand of 30 bits. -/
theorem fwUnpack_of_normal {a : Lane} (h0 : fwExp a ≠ 0) (h1 : fwExp a ≠ 1023) :
    ∃ m : Nat, bitLen m = 30 ∧ fwUnpack a = .num (fwSign a) m (fwExp a - 540) ∧ fwUnits a = signed (fwSign a) (m * 2 ^ (fwExp a + 540)) := by
  have hfrac := fwFrac_lt a
  have hunpack : fwUnpack a = .num (fwSign a) (2 ^ 29 + fwFrac a) (fwExp a - 540) := by rw [fwUnpack_eq_num h1, if_neg h0]
  have hlog : (2 ^ 29 + fwFrac a).log2 = 29 := (Nat.log2_eq_iff (by omega)).mpr (by omega)
  have hexp : ((fwExp a : Int) - 540 + 1080).toNat = fwExp a + 540 := by omega
  refine ⟨_, ?_, hunpack, ?_⟩
  · rw [bitLen_of_ne (by omega), hlog]
  · rw [fwUnits_of_num hunpack, fwUnitsOf, hexp]

theorem fltToFw_of_num {f : Fmt} {w : Nat} {s : Bool} {m : Nat} {e : Int} (h : fltUnpack f w = .num s m e) : fltToFw f w = (fwRound s m e).1 := by
  simp only [fltToFw, h]

/-- In the normal range of its format `cvtfr` gives the nearest number of the format (R160). -/
theorem laneCvtfr_of_normal {t : BitVec 4} {p lo hi : Nat} (h : (t, p, lo, hi) ∈ floatTypes) {a : Lane} (hlo : lo ≤ fwExp a) (hhi : fwExp a < hi)
    (fin : Bool) : let q : Nat := 2 ^ (fwExp a + 569 - p)
    ∃ r : Lane, laneCvtfr t fin a = (r, { Flags.none with nx := decide (q * rneQuot (fwUnits a) q ≠ fwUnits a) }) ∧ fwFinite r = true ∧
      fwUnits r = q * rneQuot (fwUnits a) q := by
  obtain ⟨f, hf, ht, rfl, hbias, hmax, hp, hlo385, hhi638⟩ := floatTypes_format h
  obtain ⟨m, hm, hunpack, hunits⟩ := fwUnpack_of_normal (a := a) (by omega) (by omega)
  have hm0 : m ≠ 0 := by rintro rfl; simp [bitLen] at hm
  obtain ⟨n, k, hr, hk, hnk, hnlo, hnhi, hcarry⟩ := roundMag_normal (p := f.fracBits) (qmin := 1 - f.expBias - f.fracBits) (e := fwExp a - 540) hm (by omega)
    (by omega)
  have hfield : (fwExp a - 540 + 29 - f.fracBits + k + f.expBias + f.fracBits : Int).toNat = fwExp a + f.expBias - 511 + k := by omega
  have hfits : (fwExp a + f.expBias - 511 + k) * 2 ^ f.fracBits + (n - 2 ^ f.fracBits) ≤ f.maxFinite := calc
    _ ≤ (fwExp a + f.expBias - 511 + 1) * 2 ^ f.fracBits := by
      obtain rfl | rfl : k = 0 ∨ k = 1 := by omega
      · rw [pow_succ] at hnhi
        rw [Nat.add_zero, add_mul _ 1, one_mul]
        omega
      · rw [hcarry rfl, Nat.sub_self, Nat.add_zero]
    _ ≤ (hi + f.expBias - 511) * 2 ^ f.fracBits := Nat.mul_le_mul_right _ (by omega)
    _ ≤ f.maxFinite := hmax
  obtain ⟨hflags, hcode⟩ := storeFlt_normal hf (if fin then 1 else 0) (fwSign a) hm0 hr hnlo hnhi (by omega) (by rw [hfield]; exact hfits)
  have hpos := Nat.two_pow_pos f.fracBits
  have hlen := bitLen_le (by omega) hnhi
  have hn30 : n < 2 ^ 30 := hnhi.trans_le (Nat.pow_le_pow_right (by omega) (by omega))
  obtain ⟨w, hround, -, hfin, hw⟩ := roundsExactly_of_bits (fwSign a) hn30 (e := fwExp a - 540 + 29 - f.fracBits + k) (by omega) (by omega)
  obtain ⟨near, inexact⟩ := rneInt_nearest m (e := f.fracBits - 29) (a := 0) (b := 29 - f.fracBits) (by omega)
  rw [pow_zero, mul_one] at near inexact
  have hquantum : 2 ^ (fwExp a + 569 - f.fracBits) = 2 ^ (29 - f.fracBits) * 2 ^ (fwExp a + 540) := two_pow_eq_mul (by omega)
  have hquot : rneQuot (fwUnits a) (2 ^ (fwExp a + 569 - f.fracBits)) = signed (fwSign a) (rneInt m (f.fracBits - 29)).1 := by
    rw [hunits, hquantum]
    exact (near.scale (by positivity)).rneQuot (by positivity) _
  have hproduct : (2 ^ (fwExp a + 569 - f.fracBits) : Nat) * signed (fwSign a) (rneInt m (f.fracBits - 29)).1 =
      signed (fwSign a) ((rneInt m (f.fracBits - 29)).1 * 2 ^ (29 - f.fracBits) * 2 ^ (fwExp a + 540)) := by
    rw [mul_comm, ← signed_mul, hquantum, mul_assoc]
  dsimp only
  rw [hquot, hproduct]
  refine ⟨w, ?_, hfin, ?_⟩
  · have hnx : (rneInt m (f.fracBits - 29)).2 =
        decide (signed (fwSign a) ((rneInt m (f.fracBits - 29)).1 * 2 ^ (29 - f.fracBits) * 2 ^ (fwExp a + 540)) ≠ fwUnits a) := by
      rw [inexact, hunits, decide_eq_decide, ne_eq, ne_eq, signed_eq_iff, bne_self_eq_false, signed_false, Nat.cast_inj,
        Nat.mul_left_inj (Nat.two_pow_pos _).ne']
    rw [laneCvtfr_of_num hf ht fin hunpack, ← hnx]
    dsimp only
    rw [fltToFw_of_num hcode, hround, hflags]
    rfl
  · have hexp : (fwExp a - 540 + 29 - f.fracBits + k + 1080 : Int).toNat = k + (29 - f.fracBits) + (fwExp a + 540) := by omega
    rw [hw, fwUnitsOf, hexp, ← hnk, pow_add, pow_add, ← mul_assoc, ← mul_assoc]

end Sys2Proof.Machine
end

section
/-! SUPPORT. The statement on the elementary operators, settled. -/

namespace Sys2Proof.Machine

open Sys2Proof.Safety

/-- What is said of the word of a result, said of its first component. -/
theorem and_fst_of_exists {x : Lane × Flags} {fl : Flags} {P : Lane → Prop} (h : ∃ r, x = (r, fl) ∧ P r) : x = (x.1, fl) ∧ P x.1 := by
  obtain ⟨r, rfl, hr⟩ := h
  exact ⟨rfl, hr⟩

theorem fwScale_fwInf (s : Bool) (n : Int) : fwScale (fwInf s) n = plain (fwInf s) := by simp [fwScale, plain]

/-- `flogp` at an infinite a and a positive number b. -/
theorem laneFlogp_inf_of_pos (s : Bool) {b : Lane} (hb : fwFinite b = true) (hpos : 0 < fwUnits b) : laneFlogp (fwInf s) b = plain (fwInf s) := by
  rw [laneFlogp_of_pos hb (by simp [FwVal.isNan]) hpos, fwUnpack_fwInf]
  rfl

/-- Settles O24: the operators by their number of ports; the lane functions of one word and of two by whether the words are finite, infinite or NaNs. -/
theorem elementaryOperators : Obligations.ElementaryOperators := by
  unfold Obligations.ElementaryOperators
  have unary {o f} (h : o ∈ unaryLaneOps) := LaneOperator.fires (f := f) (laneOperator_unary h)
  have binary {o f} (h : o ∈ binaryLaneOps) := LaneOperator.fires (f := f) (laneOperator_binary h)
  have ternary {o f} (h : o ∈ ternaryLaneOps) := LaneOperator.fires (f := f) (laneOperator_ternary h)
  constructor
  · refine ⟨unary (by decide) ?_, binary (by decide) ?_, unary (by decide) ?_, binary (by decide) ?_, unary (by decide) ?_, binary (by decide) ?_,
      unary (by decide) ?_, unary (by decide) ?_, binary (by decide) ?_, unary (by decide) ?_, unary (by decide) ?_, binary (by decide) ?_,
      ternary (by decide) ?_, unary (by decide) ?_, binary (by decide) ?_, unary (by decide) ?_, unary (by decide) ?_, unary (by decide) ?_,
      unary (by decide) ?_⟩ <;> exact fun _ _ _ _ => rfl
  intro one rne clamp nan plain inexact scaled
  refine ⟨fun a => ?oneWord, fun a b => ?twoWords, fun i hi => ?ofInt, rfl, ?sat⟩
  case oneWord =>
    refine ⟨laneFclass_toNat a, fun ha => ⟨and_fst_of_exists (laneFround_of_finite ha), operators_of_units_zero ha, fun h0 => ⟨?_, ?_, ?_, ?_⟩, ?log, ?int,
      ?cvtfr⟩, laneFlogr_of_not_pos, ?inf, operators_of_isNan⟩
    · exact and_fst_of_exists (laneFmant_of_ne_zero ha h0)
    · exact laneFexpo_of_ne_zero ha h0
    · exact laneBsfind_of_ne_zero ha h0
    · exact fun keep => and_fst_of_exists (laneReduce_of_ne_zero ha h0 keep)
    case log =>
      intro hpos
      have habs : (fwUnits a).natAbs = (fwUnits a).toNat := by omega
      rw [habs]
      exact and_fst_of_exists (laneFlogr_of_pos ha hpos)
    case int => exact laneCvtfi_of_finite ha
    case cvtfr => exact fun t p lo hi h hlo hhi fin => and_fst_of_exists (laneCvtfr_of_normal h hlo hhi fin)
    case inf =>
      intro hinf
      rw [hinf, fwSign_fwInf]
      exact operators_of_fwInf _
  case twoWords =>
    refine ⟨fun ha => laneFscale_of_finite ha b, ?_, fun ha => laneFscale_of_isNan ha b, steps_of_nan, fun hnan => ?_⟩
    · intro hinf
      rw [hinf]
      exact laneFscale_fwInf _ b
    · obtain ⟨ha, hb⟩ : (fwUnpack a).isNan = false ∧ (fwUnpack b).isNan = false := by simpa using hnan
      refine ⟨fun hfin => ⟨fun hfa => ?_, fun hinf => ?_, laneFsinp_of_finite hfin ha⟩, ?_, ?_, ?_, fun hfin hpos => ⟨?_, ?_, ?_⟩,
        fun hfin h0 => laneFlogp_of_units_zero ha hfin h0, ?_, ?_⟩
      · rw [laneFexpp_of_finite hfin ha]
        exact fwScale_scaledBy hfa _
      · rw [laneFexpp_of_finite hfin ha, hinf]
        exact fwScale_fwInf _ _
      · rintro rfl
        exact laneFexpp_fwInf_false ha
      · rintro rfl
        exact laneFexpp_fwInf_true ha
      · intro hinf
        rw [hinf]
        exact laneFsinp_fwInf ha _
      · exact fun hfa => (laneFlogp_roundsOrZero hfin hfa hpos).1
      · exact fun hfa => (laneFlogp_roundsOrZero hfin hfa hpos).2
      · intro hinf
        rw [hinf]
        exact laneFlogp_inf_of_pos _ hfin hpos
      · rintro rfl
        exact laneFlogp_fwInf ha false
      · rintro (rfl | ⟨hfin, hneg⟩)
        · exact laneFlogp_fwInf ha true
        · exact laneFlogp_of_neg ha hfin hneg
  case ofInt => exact (fwOfInt_roundsOrZero i).1 (mul_ne_zero hi (by positivity))
  case sat =>
    intro t n sgn h a
    fin_cases h
    · exact laneCvtsat_signed (f := .s8) rfl (by decide) a
    · exact laneCvtsat_signed (f := .s16) rfl (by decide) a
    · exact laneCvtsat_signed (f := .s32) rfl (by decide) a
    · exact laneCvtsat_unsigned (f := .n8) rfl (by decide) a
    · exact laneCvtsat_unsigned (f := .n16) rfl (by decide) a
    · exact laneCvtsat_unsigned (f := .n32) rfl (by decide) a

end Sys2Proof.Machine
end

section
/-! SUPPORT. One firing of an operator of form C on tokens that are data to it (R17, R34, R44): headers where it takes those itself (R60), and any tokens at a
`vote3` (R183). -/

namespace Sys2Proof.Machine

open Sys2Proof.Safety

variable {s : State} {o : Opc} {e : Site} {img : Image} {sl sl1 : OpSlot} {hs : List (Nat × Token × Tag)}

/-! ## Its tokens -/

/-- The dealing counts a firing unless it is on headers alone (R34). -/
theorem deals_data_eq (hs : List (Nat × Token × Tag)) : deals .data hs = !allHeaders hs := by
  simp [deals, allHeaders, Bool.or_comm]

theorem fireKind_takesHeaders (ho : takesHeaders o = true) (hp : ∀ h ∈ hs, h.2.1.cls ≠ .poison) : fireKind o hs = .data := by
  have hnone : hs.find? (fun h => h.2.1.cls = .poison) = none := by simpa [List.find?_eq_none] using hp
  simp [fireKind, hnone, ho]

theorem fireKind_vote3 (hs : List (Nat × Token × Tag)) : fireKind .vote3 hs = .data := by
  unfold fireKind
  split <;> rfl

theorem allHeaders_of_all (hall : ∀ h ∈ hs, h.2.1.cls = .header) (hn : hs ≠ []) : allHeaders hs = true := by
  simpa [allHeaders, hn] using hall

theorem arcPorts_of_one {w : OpWord} (h : portCount w = 1) : arcPorts w = [0] := by
  simp [arcPorts, h, List.range_succ]

/-- What holds of all the tokens that an operator of one port takes holds of the token at its port. -/
theorem tokenAt_of_all (h : Stands s o e img sl hs) (h1 : portCount sl.word = 1) {p : Token → Prop} (hall : ∀ x ∈ hs, p x.2.1) :
    p (tokenAt sl.word hs 0) := by
  obtain ⟨_, _, _, _, _, _, hheads⟩ := h
  rw [arcPorts_of_one h1] at hheads
  cases hhead : img.headOf (inputOf e 0) with
  | none => simp [Image.headsOf, hhead] at hheads
  | some x =>
    obtain rfl : [(0, x)] = hs := by simpa [Image.headsOf, hhead] using hheads
    simpa [tokenAt] using hall

/-! ## Its effect -/

/-- The side of a switch box at which the block of a site stands. -/
def Image.bselAt (img : Image) (e : Site) : Bool := ((img.blocks[e.blk]?).map fun b => b.bsel).getD false

theorem fireOp_takes (h : Stands s o e img sl hs) (hk : fireKind o hs = .data) :
    fireOp o e s = applyEffect s img e sl .data hs (arcPorts sl.word)
      (dataEffect s img sl (tokenAt sl.word hs 0) (tokenAt sl.word hs 1) (tokenAt sl.word hs 2)) := by
  obtain ⟨himg, hsl, ho, hstop, hfire, _, hheads⟩ := h
  simp [fireOp, himg, hsl, ho, hstop, hfire, hheads, hk]

/-- What a firing writes: its result, if it emits one, to every target. -/
def emitted (out : Option Token) : List (List Nat × Token) := out.toList.map fun t => (allTargets, t)

theorem firedTo_eq (out : Option Token) (f : Flags) : firedTo s e img sl hs sl1 out f =
    orNumst (putImage s e.tp.key ((img.setSlot e { sl1 with dealt := sl.dealt + 1 }).fire e (arcPorts sl.word) (emitted out) (tagOf hs)))
      (img.tpKey (turnTile img sl)) f := by
  cases out <;> rfl

theorem headerTo_eq (ports : List Nat) (out : Option Token) : headerTo s e img sl hs ports out =
    orNumst (putImage s e.tp.key ((img.setSlot e sl).fire e ports (emitted out) (tagOf hs))) (img.tpKey (turnTile img sl)) Flags.none := by
  cases out <;> rfl

/-- A firing that does not trap takes its tokens and emits at once, and the disagreement that it found, if any, is recorded (R16, R17, R51, R184). -/
theorem applyEffect_fires {kind : FireKind} {take : List Nat} {out : Option Token} {f : Flags} {r : Option (BitVec 2 × BitVec 16)}
    (hh : takesHalted s img e take = false) (hr : out.isSome = true → img.hasRoom e allTargets = true) :
    applyEffect s img e sl kind hs take { fired := { out := out, flags := f, trap := none }, slot := sl1, lanes := [], vrec := r } =
      .fired (recordVote
        (orNumst (putImage s e.tp.key ((img.setSlot e { sl1 with dealt := if deals kind hs then sl.dealt + 1 else sl.dealt }).fire e take
          (emitted out) (tagOf hs))) (img.tpKey (turnTile img sl)) f)
        (img.tpKey (turnTile img sl)) e.slot (img.bselAt e) r) := by
  simp only [applyEffect, hh, Bool.false_eq_true, if_false]
  rw [if_neg (by simpa using hr)]
  cases out <;> rfl

/-! ## The firing -/

section
variable (h : Ready s o e img sl hs) (hc : o.form = .c) (hk : fireKind o hs = .data)
include h hc hk

/-- A firing that the dealing counts, with the effect that its tokens have. -/
theorem exec_takes (hall : allHeaders hs = false) {out : Option Token} {f : Flags} {r : Option (BitVec 2 × BitVec 16)}
    (he : dataEffect s img sl (tokenAt sl.word hs 0) (tokenAt sl.word hs 1) (tokenAt sl.word hs 2) =
      { fired := { out := out, flags := f, trap := none }, slot := sl1, lanes := [], vrec := r })
    (hr : out.isSome = true → img.hasRoom e allTargets = true) :
    exec (o.instr e) s =
      .next (settle (recordVote (firedTo s e img sl hs sl1 out f) (img.tpKey (turnTile img sl)) e.slot (img.bselAt e) r)) := by
  obtain ⟨hst, hh, _⟩ := h
  rw [exec_instr_formC hc, operatorFires, fireOp_takes hst hk, he, applyEffect_fires hh hr, deals_data_eq, hall, firedTo_eq, fired_goes (stands_jibFirst hst)]
  rfl

/-- A firing on headers alone, which the dealing does not count, where it leaves the turn where it stands. -/
theorem exec_takes_headers (hall : allHeaders hs = true) {out : Option Token}
    (he : dataEffect s img sl (tokenAt sl.word hs 0) (tokenAt sl.word hs 1) (tokenAt sl.word hs 2) =
      { fired := { out := out, flags := Flags.none, trap := none }, slot := sl1, lanes := [], vrec := none })
    (hr : out.isSome = true → img.hasRoom e allTargets = true) (hdealt : sl1.dealt = sl.dealt) (htile : turnTile img sl1 = turnTile img sl) :
    exec (o.instr e) s = .next (settle (headerTo s e img sl1 hs (arcPorts sl.word) out)) := by
  obtain ⟨hst, hh, _⟩ := h
  rw [exec_instr_formC hc, operatorFires, fireOp_takes hst hk, he, applyEffect_fires hh hr, deals_data_eq, hall, fired_goes (stands_jibFirst hst), headerTo_eq,
    htile, ← hdealt]
  rfl

/-- A firing that traps (R44). -/
theorem exec_takes_traps {cause : BitVec 16} {val : Word}
    (he : dataEffect s img sl (tokenAt sl.word hs 0) (tokenAt sl.word hs 1) (tokenAt sl.word hs 2) =
      { fired := Fired.traps cause val, slot := sl1, lanes := [], vrec := none }) :
    exec (o.instr e) s = .next (settle (trappedAt s e img sl hs cause val)) := by
  obtain ⟨hst, hh, _⟩ := h
  rw [exec_instr_formC hc, operatorFires, fireOp_takes hst hk, he, applyEffect_trapping hh, trapped_goes (stands_jibFirst hst)]

end

end Sys2Proof.Machine
end

section
/-! SUPPORT. What the operators with a state of their own, and those that may trap or emit nothing, make of their tokens (R44, R60, R169, R183 to R185). -/

namespace Sys2Proof.Machine

open Sys2Proof.Safety

/-! ## The copy at its turn (R34) -/

theorem length_replaceAt {α : Type} (xs : List α) (k : Nat) (x : α) : (replaceAt xs k x).length = xs.length := by
  induction xs generalizing k with
  | nil => rfl
  | cons y ys ih => cases k <;> simp [replaceAt, ih]

theorem getElem?_replaceAt_same {α : Type} (xs : List α) (k : Nat) (x : α) : (replaceAt xs k x)[k]? = xs[k]?.map fun _ => x := by
  induction xs generalizing k with
  | nil => rfl
  | cons y ys ih => cases k <;> simp [replaceAt, ih]

/-- A copy that keeps its tile leaves the tile of the turn as it is. -/
theorem turnTile_setCopy (img : Image) (sl : OpSlot) (h : Hdr) : turnTile img (sl.setCopy sl.turn { sl.copyAtTurn with hdr := h }) = turnTile img sl := by
  have hturn : (sl.setCopy sl.turn { sl.copyAtTurn with hdr := h }).turn = sl.turn := by simp [OpSlot.turn, OpSlot.setCopy, length_replaceAt]
  rw [turnTile, turnTile, hturn, OpSlot.setCopy, getElem?_replaceAt_same, OpSlot.copyAtTurn]
  cases sl.copies[sl.turn]? <;> rfl

theorem turnTile_map_hdr (img : Image) (sl : OpSlot) (h : Hdr) :
    turnTile img { sl with copies := sl.copies.map fun c => { c with hdr := h } } = turnTile img sl := by
  have hturn : ({ sl with copies := sl.copies.map fun c => { c with hdr := h } } : OpSlot).turn = sl.turn := by simp [OpSlot.turn]
  rw [turnTile, turnTile, hturn, List.getElem?_map]
  cases sl.copies[sl.turn]? <;> rfl

/-! ## What each operator makes of its tokens -/

section
variable {s : State} {img : Image} {sl : OpSlot} {a b c : Token}

/-- The operators of this kind that keep no state. -/
theorem dataEffect_stateless {o : Opc} (ho : o ∈ [Opc.gate, .sink, .chkr, .csumChk]) (h : sl.word.opc = o) :
    dataEffect s img sl a b c = { fired := fireTokens sl.word a b c, slot := sl, lanes := [], vrec := none } := by
  unfold dataEffect
  rw [h]
  fin_cases ho <;> rfl

theorem fireTbread_eq (tb : Word) : fireTbread tb =
    Fired.emits (Token.make (fun k => if k = 0 then tb.setWidth 40 else (tb >>> 40).setWidth 40) 3 .data) Flags.none := by
  have hlow : tb.extractLsb' 0 40 = tb.setWidth 40 := by
    ext i hi
    simp
  have hhigh : (tb.extractLsb' 40 24).setWidth 40 = (tb >>> 40).setWidth 40 := by
    apply BitVec.eq_of_toNat_eq
    have := tb.isLt
    simp [BitVec.extractLsb'_toNat, Nat.shiftRight_eq_div_pow]
    omega
  rw [fireTbread, hlow, hhigh]

theorem dataEffect_tbread (h : sl.word.opc = .tbread) : dataEffect s img sl a b c = { fired := fireTbread s.tb, slot := sl, lanes := [], vrec := none } := by
  simp only [dataEffect, h]

theorem dataEffect_csumCol (h : sl.word.opc = .csumCol) : dataEffect s img sl a b c = csumColEffect sl sl.turn sl.copyAtTurn a b := by
  simp only [dataEffect, h]
  rfl

theorem dataEffect_bsapply (h : sl.word.opc = .bsapply) : dataEffect s img sl a b c = bsapplyEffect sl sl.copyAtTurn a := by
  simp only [dataEffect, h]
  rfl

theorem dataEffect_bsstrip (h : sl.word.opc = .bsstrip) : dataEffect s img sl a b c =
    { fired := if a.cls = .header then Fired.nothing else Fired.emits a Flags.none, slot := sl, lanes := [], vrec := none } := by
  simp only [dataEffect, h]

theorem dataEffect_vote3 (h : sl.word.opc = .vote3) : dataEffect s img sl a b c = voteEffect sl a b c := by
  simp only [dataEffect, h]

/-- The scaling of data by the latch, as a lane function (R159). -/
theorem bsapplyEffect_data {cp : OpCopy} (ha : a.cls ≠ .header) : bsapplyEffect sl cp a =
    let r := lanewise 1 .data (fun x _ _ => bsScale (sl.word.mod.getLsbD 0) cp.hdr x) a a a
    { fired := Fired.emits r.1 r.2, slot := sl, lanes := [], vrec := none } := by
  simp [bsapplyEffect, ha, lanewise, and_fullMask]

/-- The mask of the lanes of a `chkr` that lie outside the bounds present (R169). -/
def chkrOutside (a b : Token) : BitVec 16 :=
  maskOf fun k => a.valid k && ((b.valid 0 && (a.lane k).toInt < (b.lane 0).toInt) || (b.valid 1 && (b.lane 1).toInt < (a.lane k).toInt))

theorem chkrOutside_eq_zero (h : ∀ k, a.valid k = true → (b.valid 0 = true → (b.lane 0).toInt ≤ (a.lane k).toInt) ∧
    (b.valid 1 = true → (a.lane k).toInt ≤ (b.lane 1).toInt)) : chkrOutside a b = 0 := by
  refine maskOf_eq_zero fun k _ => ?_
  by_cases hk : a.valid k = true
  · obtain ⟨hlow, hhigh⟩ := h k hk
    simpa [hk] using ⟨hlow, hhigh⟩
  · simp [hk]

theorem fireChkr_within (h : chkrOutside a b = 0) : fireChkr a b = Fired.emits a Flags.none := if_pos h

theorem fireChkr_outside (h : chkrOutside a b ≠ 0) : fireChkr a b = Fired.traps 0x31 ((chkrOutside a b).setWidth 64) := if_neg h

/-! ## Votes (R183) -/

theorem voteOf_all (h01 : a = b) (h12 : b = c) : voteOf a b c = some (a, none) := by
  subst h01 h12
  simp [voteOf]

theorem voteOf_third (h01 : a = b) (h20 : c ≠ a) : voteOf a b c = some (a, some (2, differing c a)) := by simp [voteOf, h01, h01 ▸ h20]

theorem voteOf_second (h02 : a = c) (h10 : b ≠ a) : voteOf a b c = some (a, some (1, differing b a)) :=
  (if_neg (Ne.symm h10)).trans (if_pos h02)

theorem voteOf_first (h12 : b = c) (h01 : a ≠ b) : voteOf a b c = some (b, some (0, differing a b)) := by simp [voteOf, h12 ▸ h01, h12]

theorem voteOf_split (h01 : a ≠ b) (h02 : a ≠ c) (h12 : b ≠ c) : voteOf a b c = none := by simp [voteOf, h01, h02, h12]

theorem voteEffect_elects {t : Token} {r : Option (BitVec 2 × BitVec 16)} (h : voteOf a b c = some (t, r)) :
    voteEffect sl a b c = { fired := Fired.emits t Flags.none, slot := sl, lanes := [], vrec := r } := by
  simp only [voteEffect, h]

theorem voteEffect_split (h : voteOf a b c = none) : voteEffect sl a b c = { fired := Fired.traps 0x33 0, slot := sl, lanes := [], vrec := none } := by
  simp only [voteEffect, h]

end

end Sys2Proof.Machine
end

section
/-! SUPPORT. The statement on operators with a state of their own, settled. -/

namespace Sys2Proof.Machine

open Sys2Proof.Safety

/-- Settles O27: each operator by the effect that its tokens have, on plain tokens, on headers alone, and at `vote3` on any. -/
theorem statefulOperators : Obligations.StatefulOperators := by
  unfold Obligations.StatefulOperators
  intro s e img sl hs _ tok cp goes room traps
  have fires {o : Opc} (h : Ready s o e img sl hs) (hc : o.form = .c) (hp : Plain hs) {sl1 : OpSlot} {out : Option Token} {f : Flags}
      (he : dataEffect s img sl (tok 0) (tok 1) (tok 2) = { fired := { out := out, flags := f, trap := none }, slot := sl1, lanes := [], vrec := none })
      (hr : out.isSome = true → room) : goes (o.instr e) sl1 out f :=
    exec_takes h hc (fireKind_plain hp) (allHeaders_of_plain hp h.2.2) he hr
  have stops {o : Opc} (h : Ready s o e img sl hs) (hc : o.form = .c) (hp : Plain hs) {sl1 : OpSlot} {cause : BitVec 16} {val : Word}
      (he : dataEffect s img sl (tok 0) (tok 1) (tok 2) = { fired := Fired.traps cause val, slot := sl1, lanes := [], vrec := none }) :
      traps (o.instr e) cause val :=
    exec_takes_traps h hc (fireKind_plain hp) he
  refine ⟨?tbread, ?gate, ?sink, ?chkrIn, ?chkrOut, ?csumChk, ?csumCol, ?bsapply, ?bsapplyHeader, ?bsstrip, ?bsstripHeader, ?vote3⟩
  case tbread =>
    intro h hp hr
    exact fires h rfl hp ((dataEffect_tbread (stands_opc h.1)).trans (by rw [fireTbread_eq]; rfl)) fun _ => hr
  case gate =>
    intro h hp
    have ho := stands_opc h.1
    have heff := dataEffect_stateless (s := s) (img := img) (a := tok 0) (b := tok 1) (c := tok 2) (by decide) ho
    refine ⟨fun ht => fires h rfl hp (heff.trans ?_) (by simp), fun ht hr => fires h rfl hp (heff.trans ?_) fun _ => hr⟩
    · simp only [fireTokens, ho, fireGate, if_pos ht]
      rfl
    · simp only [fireTokens, ho, fireGate, if_neg ht]
      rfl
  case sink =>
    intro h hp
    have ho := stands_opc h.1
    exact fires h rfl hp ((dataEffect_stateless (by decide) ho).trans (by simp only [fireTokens, ho]; rfl)) (by simp)
  case chkrIn =>
    intro h hp hr hin
    have ho := stands_opc h.1
    exact fires h rfl hp ((dataEffect_stateless (by decide) ho).trans (by simp only [fireTokens, ho, fireChkr_within (chkrOutside_eq_zero hin)]; rfl)) fun _ => hr
  case chkrOut =>
    intro h hp out hout
    have ho := stands_opc h.1
    exact stops h rfl hp ((dataEffect_stateless (by decide) ho).trans (by simp only [fireTokens, ho, fireChkr_outside hout]; rfl))
  case csumChk =>
    intro h hp m bad
    have ho := stands_opc h.1
    have heff := dataEffect_stateless (s := s) (img := img) (a := tok 0) (b := tok 1) (c := tok 2) (by decide) ho
    refine ⟨fun hgo hr => fires h rfl hp (heff.trans ?_) fun _ => hr, fun ht hbad => stops (sl1 := sl) h rfl hp (heff.trans ?_)⟩
    · have hno : ¬ (sl.word.mod.getLsbD 0 = true ∧ bad ≠ 0) := by
        rintro ⟨ht, hbad⟩
        exact hgo.elim (by simp [ht]) hbad
      simp only [fireTokens, ho, fireCsumChk]
      rw [if_neg hno]
      simp only [bitLane, beq_iff_eq]
      rfl
    · simp only [fireTokens, ho, fireCsumChk]
      rw [if_pos ⟨ht, hbad⟩]
  case csumCol =>
    intro h hp v n acc
    have heff := dataEffect_csumCol (s := s) (img := img) (a := tok 0) (b := tok 1) (c := tok 2) (stands_opc h.1)
    exact ⟨fun hn hr => fires h rfl hp (heff.trans (if_pos hn)) fun _ => hr, fun hn => fires h rfl hp (heff.trans (if_neg (Nat.not_le.mpr hn))) (by simp)⟩
  case bsapply =>
    intro h hp hr r
    have ho := stands_opc h.1
    have hdata : (tok 0).cls ≠ .header := tokenAt_of_all h.1 (by simp only [portCount, ho]) (p := fun t => t.cls ≠ .header) fun x hx => (hp x hx).2
    exact fires h rfl hp ((dataEffect_bsapply ho).trans (bsapplyEffect_data hdata)) fun _ => hr
  case bsapplyHeader =>
    intro h hall hr hd out sl1
    have ho := stands_opc h.1
    have hcls : (tok 0).cls = .header := tokenAt_of_all h.1 (by simp only [portCount, ho]) (p := fun t => t.cls = .header) hall
    have hkind : fireKind .bsapply hs = .data := fireKind_takesHeaders rfl fun y hy => by simp [hall y hy]
    refine exec_takes_headers h rfl hkind (allHeaders_of_all hall h.2.2) ((dataEffect_bsapply ho).trans (if_pos hcls)) (fun _ => hr) ?_ ?_
    · simp only [sl1]
      split <;> rfl
    · simp only [sl1]
      split
      · exact turnTile_setCopy img sl hd
      · exact turnTile_map_hdr img sl hd
  case bsstrip =>
    intro h hp hr
    have ho := stands_opc h.1
    have hdata : (tok 0).cls ≠ .header := tokenAt_of_all h.1 (by simp only [portCount, ho]) (p := fun t => t.cls ≠ .header) fun x hx => (hp x hx).2
    exact fires h rfl hp ((dataEffect_bsstrip ho).trans (by rw [if_neg hdata]; rfl)) fun _ => hr
  case bsstripHeader =>
    intro h hall
    have ho := stands_opc h.1
    have hcls : (tok 0).cls = .header := tokenAt_of_all h.1 (by simp only [portCount, ho]) (p := fun t => t.cls = .header) hall
    have hkind : fireKind .bsstrip hs = .data := fireKind_takesHeaders rfl fun y hy => by simp [hall y hy]
    exact exec_takes_headers h rfl hkind (allHeaders_of_all hall h.2.2) ((dataEffect_bsstrip ho).trans (by rw [if_pos hcls]; rfl)) (by simp) rfl rfl
  case vote3 =>
    intro h hmixed differ voted
    have heff := dataEffect_vote3 (s := s) (img := img) (a := tok 0) (b := tok 1) (c := tok 2) (stands_opc h.1)
    have elects (t : Token) (r : Option (BitVec 2 × BitVec 16)) (hv : voteOf (tok 0) (tok 1) (tok 2) = some (t, r)) (hr : room) :
        exec (.opVote3 e) s =
          .next (settle (recordVote (firedTo s e img sl hs sl (some t) Flags.none) (img.tpKey (turnTile img sl)) e.slot (img.bselAt e) r)) :=
      exec_takes h rfl (fireKind_vote3 hs) (allHeaders_of_mem hmixed) (heff.trans (voteEffect_elects hv)) fun _ => hr
    refine ⟨fun h01 h12 => elects (tok 0) none (voteOf_all h01 h12), fun h01 h20 => elects (tok 0) (some (2, differ (tok 2) (tok 0))) (voteOf_third h01 h20),
      fun h02 h10 => elects (tok 0) (some (1, differ (tok 1) (tok 0))) (voteOf_second h02 h10),
      fun h12 h01 => elects (tok 1) (some (0, differ (tok 0) (tok 1))) (voteOf_first h12 h01), fun h01 h02 h12 => ?_⟩
    exact exec_takes_traps h rfl (fireKind_vote3 hs) (heff.trans (voteEffect_split (voteOf_split h01 h02 h12)))

end Sys2Proof.Machine
end

section
/-! SUPPORT. `emit`: the entry that a firing sends, and the acknowledgement that it takes (R186, R187, R382). -/

namespace Sys2Proof.Machine

open Sys2Proof.Safety

/-- An `emit` of an image that may fire, at an element that no trap has stopped, no firing of the storm jib going first (R17, R36, R44). -/
structure EmitStands (s : State) (e : Site) (img : Image) (sl : OpSlot) : Prop where
  image : kget s.images e.tp.key = some img
  slot : img.slotAt e = some sl
  opc : sl.word.opc = .emit
  runs : sl.halts = false
  fires : mayFire s img = true
  first : jibFirst s e = false

theorem fired_idle (e : Site) (s : State) : fired .idle e s = .next (settle s) := by
  unfold fired
  split <;> rfl

section
variable {s : State} {e : Site} {img : Image} {sl : OpSlot} {u : WorkUnit} {hs : List (Nat × Token × Tag)} {j : Nat}

/-! ## The firing -/

/-- The entry that an `emit` keeps until its acknowledgement comes. -/
def emitPend (s : State) (sl : OpSlot) (u : WorkUnit) (hs : List (Nat × Token × Tag)) : EmitPend :=
  { op := s.nextId, tag := tagOf hs, a := tokenAt sl.word hs 0, b := tokenAt sl.word hs 1, seeds := u.seeds }

/-- The state once a firing of an `emit` has taken a and b, kept them and reserved its result, before the entry goes to the journal (R186). -/
def emitTaken (s : State) (e : Site) (img : Image) (sl : OpSlot) (u : WorkUnit) (hs : List (Nat × Token × Tag)) : State :=
  let img1 := (img.setSlot e { sl with dealt := sl.dealt + 1, pend := sl.pend ++ [emitPend s sl u hs] }).fire e [0, 1] [] (tagOf hs)
  { putImage s e.tp.key { img1 with arcs := img1.arcs.map fun c => if c.fromSite e allTargets then c.reserve s.nextId (tagOf hs) false else c } with
    nextId := s.nextId + 1 }

@[simp] theorem journalOf_emitTaken (die j : Nat) : journalOf (emitTaken s e img sl u hs) die j = journalOf s die j := rfl

/-- What stands ready for an `emit` to send an entry: plain tokens with valid lanes 0, none from a halted arc, and room. -/
structure EmitReady (s : State) (e : Site) (img : Image) (sl : OpSlot) (u : WorkUnit) (hs : List (Nat × Token × Tag)) : Prop extends EmitStands s e img sl where
  unit : kget s.units img.unit = some u
  heads : img.headsOf e [0, 1] = some hs
  free : takesHalted s img e [0, 1] = false
  plain : Plain hs
  address : (tokenAt sl.word hs 0).valid 0 = true
  value : (tokenAt sl.word hs 1).valid 0 = true
  room : img.hasRoom e allTargets = true

/-- With four entries under way, an `emit` does not fire (R186). -/
theorem EmitReady.fire_full (h : EmitReady s e img sl u hs) (hfull : 4 ≤ sl.pend.length) : fireEmit e s = .idle := by
  simp [fireEmit, h.image, h.slot, h.opc, h.runs, h.fires, h.unit, h.heads, fireKind_plain h.plain, h.address, h.value, hfull]

/-- With fewer, it takes its tokens and passes an entry to its stream. -/
theorem EmitReady.fire_sends (h : EmitReady s e img sl u hs) (hfew : sl.pend.length < 4) (hj : emitStream img e = some j) :
    fireEmit e s = .fired (sendEntry (emitTaken s e img sl u hs) img.unit u.asid img.die j e (tokenAt sl.word hs 1)) := by
  simp [fireEmit, h.image, h.slot, h.opc, h.runs, h.fires, h.unit, h.heads, fireKind_plain h.plain, h.address, h.value, h.room, h.free, Nat.not_le.mpr hfew, hj]
  rfl

/-- An entry on a stream that is bound to the context over a port that is up joins those that wait for acknowledgement, and is sent (R186, R382). -/
theorem sendEntry_bound {asid : BitVec 12} {n : UnitId} {die : Nat} (b : Token) (hup : (journalOf s die j).state = 1) (hasid : (journalOf s die j).asid = asid) :
    let x := journalOf s die j
    let ws := entryWords s die j (x.ackn.toNat + x.pend.length + 1) x.gseq b
    sendEntry s n asid die j e b =
      halSend (putJournal s die j { x with pend := x.pend ++ [{ words := ws, site := e, unit := n }] }) (.entry x.port.toNat ws) := by
  simp [sendEntry, hup, hasid]

/-! ## The acknowledgement -/

/-- The acknowledgement of the oldest entry, other than poison, puts its store in the wave chain (R186). -/
theorem EmitStands.takeAck_goes {t : Token} {g : Tag} {p : EmitPend} {rest : List EmitPend} (h : EmitStands s e img sl) (hfree : takesHalted s img e [2] = false)
    (hhead : img.headOf (inputOf e 2) = some (t, g)) (hclean : t.cls ≠ .poison) (hpend : sl.pend = p :: rest) :
    let s0 := putImage s e.tp.key ((img.setSlot e { sl with pend := rest }).fire e [2] [] Tag.none)
    takeAck e s = .fired (enterChain (((emitStream img e).map fun j => settleAcks s0 img.die j).getD s0) img.unit e p.tag
      { op := p.op, slot := e.slot, copy := sl.turn, a := p.a, b := p.b, c := t, seeds := p.seeds, again := false, started := none, fault := none, winWait := [],
        poisoned := false, issued := none, queued := none, entry := (emitStream img e).map fun j => (16 * img.die + j, (t.lane 0).toNat) }) := by
  intro s0
  simp only [takeAck, h.image, h.slot, h.opc, h.runs, h.fires, hfree, hhead, hpend, hclean, ne_eq, not_true_eq_false, Bool.not_true, Bool.false_eq_true,
    or_self, if_false]
  cases emitStream img e <;> rfl

end

/-- Settles O32: the firing of an `emit` by how many entries it has under way, and the acknowledgement that it takes. -/
theorem emitSendsAndTakesAcks : Obligations.EmitSendsAndTakesAcks := by
  unfold Obligations.EmitSendsAndTakesAcks
  refine ⟨?sends, ?acks⟩
  case sends =>
    intro s e img sl u hs j himg hslot ho hruns hfires hjib hheads hfree hplain hunit hj ha hb hroom a b x ws g img1
    have h : EmitReady s e img sl u hs := ⟨⟨himg, hslot, ho, hruns, hfires, hjib⟩, hunit, hheads, hfree, hplain, ha, hb, hroom⟩
    refine ⟨fun hfull => ?_, fun hfew hup hasid => ?_⟩
    · rw [exec_opEmit, execOpEmit, h.fire_full hfull, fired_idle]
    · rw [exec_opEmit, execOpEmit, h.fire_sends hfew hj, fired_goes h.first,
        sendEntry_bound (tokenAt sl.word hs 1) (by rwa [journalOf_emitTaken]) (by rwa [journalOf_emitTaken])]
      rfl
  case acks =>
    intro s e img sl t g p rest himg hslot ho hruns hfires hjib hfree hhead hclean hpend s0 s1
    have h : EmitStands s e img sl := ⟨himg, hslot, ho, hruns, hfires, hjib⟩
    have hs1 : ((emitStream img e).map fun j => settleAcks s0 img.die j).getD s0 = s1 := by
      simp only [s1]
      cases emitStream img e <;> rfl
    rw [exec_emitAck, execEmitAck, h.takeAck_goes hfree hhead hclean hpend, fired_goes h.first, hs1]

end Sys2Proof.Machine
end

section
/-! SUPPORT. The issue of an operation of a wave, by what the memory interface finds: it waits, it faults, or it is done, with the places that it writes at
its issue (R76, R99, R173, R355). -/

namespace Sys2Proof.Machine

open Sys2Proof.Safety

/-! ## What writes leave alone -/

@[simp] theorem writePhys_units (s : State) (p : Phys) (bs : List Byte) : (writePhys s p bs).units = s.units := by
  rw [writePhys_eq, writeRaw_eq]

@[simp] theorem markExternal_units (s : State) (job : Nat) (p : Phys) : (markExternal s job p).units = s.units := by
  unfold markExternal
  split <;> rfl

theorem foldl_units {α : Type} {f : State → α → State} (hf : ∀ s x, (f s x).units = s.units) (s : State) (xs : List α) :
    (xs.foldl f s).units = s.units := by
  induction xs generalizing s with
  | nil => rfl
  | cons x xs ih => rw [List.foldl_cons, ih, hf]

/-- Device memory is no system target (R355). -/
theorem foldl_markExternal_dpa (job : Nat) (P : Nat → Nat) (s : State) (is : List Nat) :
    (is.map fun i => Phys.dpa (P i)).foldl (fun t p => markExternal t job p) s = s := by
  induction is with
  | nil => rfl
  | cons i is ih => exact ih

/-! ## Places of checked lanes -/

theorem checkLane_translates {s : State} {u : WorkUnit} {va k : Nat} {acc : Access} {p : Phys} (h : checkLane s u va k acc = .ok p) :
    translate s u.asid va acc = .ok p := by
  unfold checkLane at h
  split at h
  · cases h
  · split at h
    case h_4 q hq =>
      split at h
      · cases h
      · cases h
        exact hq
    all_goals cases h

theorem checkLanes_cons {s : State} {u : WorkUnit} {k : Nat} {acc : Access} {A : Nat → Nat} {P : Nat → Phys} {i : Nat} {is : List Nat}
    (h : checkLanes s u k acc ((i :: is).map fun i => (i, A i)) = .ok ((i :: is).map fun i => (i, P i))) :
    checkLane s u (A i) k acc = .ok (P i) ∧ checkLanes s u k acc (is.map fun i => (i, A i)) = .ok (is.map fun i => (i, P i)) := by
  simp only [List.map_cons, checkLanes] at h
  split at h
  case h_3 p ps hp hps =>
    cases h
    exact ⟨hp, hps⟩
  all_goals cases h

/-- The places of the addresses of lanes that are checked for an update are those that the check gives. -/
theorem placesOf_checked {s : State} {u : WorkUnit} {k : Nat} {A : Nat → Nat} {P : Nat → Phys} {is : List Nat}
    (h : checkLanes s u k .atomic (is.map fun i => (i, A i)) = .ok (is.map fun i => (i, P i))) : placesOf s u (is.map A) = is.map P := by
  induction is with
  | nil => rfl
  | cons i is ih =>
    obtain ⟨hi, his⟩ := checkLanes_cons h
    have hrest := ih his
    rw [placesOf] at hrest ⊢
    simp only [List.map_cons, List.filterMap_cons, checkLane_translates hi, hrest]

/-! ## The issue of one operation -/

section
variable {s s1 : State} {n : Nat} {it : Inst} {img : Image} {u : UnitId} {w : WorkUnit} {x : MemFire} {sl : OpSlot}

/-- Does a unit's context hold a channel (R178)? -/
def holdsChan (s : State) (w : WorkUnit) (d ch : Nat) : Bool := (chanOf s d ch).holder = some w.asid

/-- What the memory interface finds when it issues an operation of an `Inst`. -/
def issueOf (s : State) (n : Nat) (img : Image) (w : WorkUnit) (x : MemFire) (sl : OpSlot) : IssueRes :=
  issueOp s w (img.tpKey (sl.place x.copy img).1) n img.die (holdsChan s w) sl.word x

/-- No operation of its thread bars one, and none to the same location is left (R78, R80, R81). -/
structure Unbarred (s : State) (it : Inst) (img : Image) (w : WorkUnit) (x : MemFire) (sl : OpSlot) : Prop where
  order : barred s it img x = false
  location : sameLocationLeft s it img sl.word w x = false

/-- The state in which an operation that is performed when it is issued waits behind its chain, on some bytes under windows (R76, R90). -/
def keptBehind (s : State) (n : Nat) (x : MemFire) (w : OpWord) (on : List (Phys × Nat)) : State :=
  { s with insts := kmod s.insts n fun i => { i.moved x w with waiting := i.waiting.map fun y => if y.op ≠ x.op then y else
    { y with winWait := on, started := some (y.started.getD s.tb), fault := none, again := false, issued := some (y.issued.getD i.deferred.length) } } }

theorem issueFire_waits {on : List (Phys × Nat)} (h : Unbarred s it img w x sl) (hperf : performs sl.word x = true)
    (hi : issueOf s n img w x sl = .waits s1 on) : issueFire s n it img u w x sl = keptBehind s1 n x sl.word on := by
  unfold issueOf holdsChan at hi
  simp only [issueFire, h.order, h.location, hi, Bool.or_self, Bool.and_false, Bool.false_eq_true, if_false]
  simp [keepWaiting, keptBehind, hperf]

/-- A fault of another kind than an uncorrectable error or a translation that is walked again is a trap (R99). -/
theorem issueFire_traps {c : BitVec 16} {va : Nat} (h : Unbarred s it img w x sl) (hc : c ≠ cMemUce ∧ c ≠ cXlatMiss ∧ c ≠ cXlatProt)
    (hi : issueOf s n img w x sl = .fault c va) : issueFire s n it img u w x sl = memTrap s n it img x sl c (BitVec.ofNat 64 va) := by
  unfold issueOf holdsChan at hi
  simp [issueFire, h.order, h.location, hi, hc]

/-- An operation that is done has written at the places of its updates, where no undo log and no translation entry in use holds it back, and its job is external
where one is a system target. -/
theorem issueFire_done {t : Token} {ps : List Phys} (h : Unbarred s it img w x sl) (hi : issueOf s n img w x sl = .done s1 t)
    (hps : placesOf s w (writesAtIssue sl.word x).1 = ps)
    (hfree : ∀ p ∈ ps, undoFull s p (writesAtIssue sl.word x).2 = false ∧ entryHeld s (some n) p (writesAtIssue sl.word x).2 = false)
    (hu : (kget s1.units u).isSome = true) :
    issueFire s n it img u w x sl = chainDone (ps.foldl (fun t p => markExternal t w.job p) s1) n it x sl.word t := by
  have hheld : (ps.any fun p => undoFull s p (writesAtIssue sl.word x).2 || entryHeld s (some n) p (writesAtIssue sl.word x).2) = false :=
    List.any_eq_false.mpr fun p hp => by simp [hfree p hp]
  obtain ⟨w1, hw1⟩ := Option.isSome_iff_exists.mp hu
  unfold issueOf holdsChan at hi
  simp only [issueFire, h.order, h.location, hi, hps, hheld, Bool.or_self, Bool.and_false, Bool.false_eq_true, if_false,
    foldl_units (fun s p => markExternal_units s w.job p), hw1]

/-- The same for an operation that writes nothing at its issue. -/
theorem issueFire_reads {t : Token} (h : Unbarred s it img w x sl) (hi : issueOf s n img w x sl = .done s1 t) (hw : (writesAtIssue sl.word x).1 = [])
    (hu : (kget s1.units u).isSome = true) : issueFire s n it img u w x sl = chainDone s1 n it x sl.word t :=
  issueFire_done h hi (ps := []) (by rw [hw]; rfl) (by simp) hu

end

end Sys2Proof.Machine

namespace Sys2Proof.Safety

open Sys2Proof Sys2Proof.Machine

variable {s s1 : State} {n : Nat} {it : Inst} {img : Image} {u : UnitId} {w : WorkUnit} {x : MemFire} {sl : OpSlot}

/-! ## WAVE_ISSUE of the chosen operation -/

theorem Chosen.unbarred (h : Chosen s n it img u w x sl) : Unbarred s it img w x sl := by
  obtain ⟨_, hout, _, hbar, hloc⟩ := h
  exact ⟨by simp [barred, Inst.aheadOf, hout, hbar], hloc⟩

theorem Chosen.unit (h : Chosen s n it img u w x sl) : kget s.units u = some w := nextFire_unit h.1

theorem Chosen.ends (h : Chosen s n it img u w x sl) {t : State} (ht : issueFire s n it img u w x sl = t) : Ends (.waveIssue n) s t := by
  obtain ⟨hnext, hout, hfault, _, _⟩ := h
  exact ends_of_done rfl ((waveIssue_next hnext (nextFire_inst hnext) hfault hout).trans ht)

theorem Chosen.ends_waits {on : List (Phys × Nat)} (h : Chosen s n it img u w x sl) (hperf : performs sl.word x = true)
    (hi : issueOf s n img w x sl = .waits s1 on) : Ends (.waveIssue n) s (keptBehind s1 n x sl.word on) :=
  h.ends (issueFire_waits h.unbarred hperf hi)

theorem Chosen.ends_traps {c : BitVec 16} {va : Nat} (h : Chosen s n it img u w x sl) (hc : c ≠ cMemUce ∧ c ≠ cXlatMiss ∧ c ≠ cXlatProt)
    (hi : issueOf s n img w x sl = .fault c va) : Ends (.waveIssue n) s (memTrap s n it img x sl c (BitVec.ofNat 64 va)) :=
  h.ends (issueFire_traps h.unbarred hc hi)

theorem Chosen.ends_reads {t : Token} (h : Chosen s n it img u w x sl) (hi : issueOf s n img w x sl = .done s1 t)
    (hw : (writesAtIssue sl.word x).1 = []) (hu : s1.units = s.units) : Ends (.waveIssue n) s (chainDone s1 n it x sl.word t) :=
  h.ends (issueFire_reads h.unbarred hi hw (by rw [hu, h.unit]; rfl))

theorem Chosen.ends_writes {t : Token} {ps : List Phys} (h : Chosen s n it img u w x sl) (hi : issueOf s n img w x sl = .done s1 t)
    (hps : placesOf s w (writesAtIssue sl.word x).1 = ps)
    (hfree : ∀ p ∈ ps, undoFull s p (writesAtIssue sl.word x).2 = false ∧ entryHeld s (some n) p (writesAtIssue sl.word x).2 = false)
    (hu : s1.units = s.units) :
    Ends (.waveIssue n) s (chainDone (ps.foldl (fun t p => markExternal t w.job p) s1) n it x sl.word t) :=
  h.ends (issueFire_done h.unbarred hi hps hfree (by rw [hu, h.unit]; rfl))

end Sys2Proof.Safety
end

section
/-! SUPPORT. What the issue of a `fence`, an `apst`, a `monwait` and an FX128 addition finds (R178 to R181). -/

namespace Sys2Proof.Machine

open Sys2Proof.Safety

/-- The operators that are performed when they are issued, on data: the fence, the wait and the additions (R76). -/
def systemWaits : List Opc := [.fence, .monwait, .redFx, .amoFadd]

section
variable {s : State} {n die key : Nat} {img : Image} {u : WorkUnit} {holds : Nat → Nat → Bool} {w : OpWord} {x : MemFire}

section
variable (hp : firstPoison [x.a, x.b, x.c] = none) (hh : x.a.cls ≠ .header)
include hp hh

theorem performs_system (ho : w.opc ∈ systemWaits) : performs w x = true := by
  unfold performs
  generalize w.opc = o at ho
  fin_cases ho <;> simp [hp, hh]

omit hh in
theorem issueOp_fence (ho : w.opc = .fence) : issueOp s u key n die holds w x = issueFence s n x := by simp [issueOp, hp, ho]

theorem issueOp_apst (ho : w.opc = .apst) : issueOp s u key n die holds w x = issueApst s u n holds x := by simp [issueOp, hp, hh, ho]

theorem issueOp_monwait (ho : w.opc = .monwait) : issueOp s u key n die holds w x = issueMonwait s u n die w x := by simp [issueOp, hp, hh, ho]

theorem issueOp_fx (ho : w.opc = .redFx ∨ w.opc = .amoFadd) : issueOp s u key n die holds w x = issueFx s u n w x := by
  rcases ho with ho | ho <;> simp [issueOp, hp, hh, ho]

end

/-! ## `apst` (R178) -/

theorem deferTo_unreleased (s : State) (n : Nat) (ds : List Deferred) :
    deferTo s n ds false = { s with insts := kmod s.insts n fun i => { i with deferred := i.deferred ++ ds } } := by
  simp only [deferTo, Bool.or_false]

theorem issueApst_invalid (h : x.a.valid 0 = false ∨ x.b.valid 0 = false) : issueApst s u n holds x = .done s x.a := by
  simp [issueApst, h]

/-- The displacement that an `apst` gives its copy in a lane of b. -/
def apstDisp (x : MemFire) (i : Nat) : Int := if x.b.valid i then (x.b.lane i).toInt else 0

/-- The deferred copy of an `apst` to a slot of an aperture page. -/
def apstCopy (x : MemFire) (d off : Nat) : Deferred :=
  .copy (addrOf x (x.a.lane 0)) d (off / 128) ((x.b.lane 0).toNat % 256) (apstDisp x 1) (apstDisp x 2)

section
variable (ha : x.a.valid 0 = true) (hb : x.b.valid 0 = true)
include ha hb

section
variable {d off : Nat} (ht : translate s u.asid (addrOf x (x.a.lane 0)) .write = .ok (.aperture d off))
include ht

theorem issueApst_unaligned (hoff : off % 128 ≠ 0) : issueApst s u n holds x = .fault cMemAlign (addrOf x (x.a.lane 0)) := by
  simp [issueApst, ha, hb, ht, hoff]

theorem issueApst_foreign (hoff : off % 128 = 0) (hch : 4096 ≤ off ∨ holds d (off / 128) = false) :
    issueApst s u n holds x = .fault cMemAttr (addrOf x (x.a.lane 0)) := by
  have hpage : off / 4096 ≠ 0 ∨ (!holds d (off / 128)) = true := hch.imp (fun h => by omega) fun h => by simp [h]
  simp only [issueApst, ha, hb, ht, hoff]
  rw [if_neg (by simp), if_neg (by simp), if_pos hpage]

theorem issueApst_starts (hoff : off % 128 = 0) (hlow : off < 4096) (hch : holds d (off / 128) = true) :
    issueApst s u n holds x = .done (deferTo s n [apstCopy x d off] false) (Token.control 1) := by
  have hpage : ¬ (off / 4096 ≠ 0 ∨ (!holds d (off / 128)) = true) := by
    rw [hch]
    simp
    omega
  have htmpl : ((x.b.lane 0).extractLsb' 0 8).toNat = (x.b.lane 0).toNat % 256 := by simp [BitVec.extractLsb'_toNat]
  simp only [issueApst, ha, hb, ht, hoff]
  rw [if_neg (by simp), if_neg (by simp), if_neg hpage, htmpl]
  rfl

end

/-- An `apst` to an address that is translated to no aperture page traps. -/
theorem issueApst_elsewhere (hno : ∀ d off, translate s u.asid (addrOf x (x.a.lane 0)) .write ≠ .ok (.aperture d off))
    (hbad : ∀ c, translate s u.asid (addrOf x (x.a.lane 0)) .write ≠ .bad c) : issueApst s u n holds x = .fault cMemAttr (addrOf x (x.a.lane 0)) := by
  unfold issueApst
  simp only [ha, hb]
  rw [if_neg (by simp)]
  split
  case h_1 c hc => exact absurd hc (hbad c)
  case h_2 d off hd => exact absurd hd (hno d off)
  case h_3 => rfl

end

/-! ## `monwait` (R180) -/

/-- The size of the location of a `monwait`. -/
def monSize (w : OpWord) : Nat := if w.ty = 13 then 4 else 8

/-- The value at the location that a `monwait` reads, through the stores of its own thread (R31, R180). -/
def monValue (s : State) (n die : Nat) (w : OpWord) (x : MemFire) (p : Phys) : Word := wordOf (readOwn s n x die p (monSize w))

/-- Is a value one that a `monwait` waits for? -/
def monMeets (w : OpWord) (x : MemFire) (v : Word) : Bool := condHolds (w.mod.extractLsb' 0 3) 40 v ((x.b.lane 0).setWidth 64)

/-- The value that a write has met at the location of a waiting `monwait`, if one has. -/
def monHit (s : State) (x : MemFire) : Option Word := (kget s.watches (2 * x.op + 1)).bind fun h => h.hit

/-- The watch of a `monwait` on its location. -/
def monWatch (die : Nat) (w : OpWord) (x : MemFire) (p : Phys) : Watch :=
  { p := p, die := die, n := monSize w, cond := w.mod.extractLsb' 0 3, bits := 40, val := (x.b.lane 0).setWidth 64, hit := none }

/-- The state in which the location of a `monwait` is watched. -/
def monWatched (s : State) (die : Nat) (w : OpWord) (x : MemFire) (p : Phys) : State :=
  { s with watches := kput s.watches (2 * x.op + 1) (monWatch die w x p) }

theorem issueMonwait_invalid (h : x.a.valid 0 = false ∨ x.b.valid 0 = false) : issueMonwait s u n die w x = .done s x.a := by
  simp [issueMonwait, h]

section
variable {p : Phys} (ha : x.a.valid 0 = true) (hb : x.b.valid 0 = true) (hx : x.poisoned = false)
  (hl : checkLane s u (addrOf x (x.a.lane 0)) (monSize w) .read = .ok p) (hc : Clear s p (monSize w))
include ha hb hx hl hc

theorem issueMonwait_hit {v : Word} (hhit : monHit s x = some v) : issueMonwait s u n die w x = .done s (monToken v false) := by
  unfold monSize at hl hc
  unfold monHit at hhit
  simp only [issueMonwait, ha, hb, hl, hhit, Bool.not_true, Bool.false_eq_true, or_self, if_false]
  rw [whenClear_clear hx (by simpa using hc)]

/-- Where no write has met it, a `monwait` reads: it ends where the value meets the condition, or at once where it is not to wait, and waits else. -/
theorem issueMonwait_looks (hhit : monHit s x = none) : issueMonwait s u n die w x =
    if monMeets w x (monValue s n die w x p) = true then .done s (monToken (monValue s n die w x p) false)
    else if x.b.valid 1 = true ∧ (x.b.lane 1).toInt ≤ 0 then .done s (monToken (monValue s n die w x p) true)
    else .waits (monWatched s die w x p) [] := by
  unfold monSize at hl hc
  unfold monHit at hhit
  simp only [issueMonwait, ha, hb, hl, hhit, Bool.not_true, Bool.false_eq_true, or_self, if_false]
  rw [whenClear_clear hx (by simpa using hc)]
  rfl

end

/-! ## `red.fx` and `amo.fadd` (R181) -/

/-- The lanes of an FX128 addition: those of the value for `amo.fadd`, those of it that have an address for `red.fx`. -/
def fxMask (w : OpWord) (x : MemFire) : BitVec 16 := if w.opc = .amoFadd then x.b.mask else x.a.mask &&& x.b.mask

/-- The address of a lane's cell: of a row for `amo.fadd`, or the lane's own. -/
def fxLaneAddr (w : OpWord) (x : MemFire) (i : Nat) : Nat :=
  if w.opc = .amoFadd then (addrOf x (x.a.lane 0) + 16 * i) % 2 ^ 57 else addrOf x (x.a.lane i)

/-- Must a release wait for what its thread did before it (R80)? -/
def releaseHeld (s : State) (n : Nat) (w : OpWord) (x : MemFire) : Bool := (memOrd w = .rel ∨ memOrd w = .ar) ∧ earlierLeft s n x

theorem releaseHeld_iff : releaseHeld s n w x = true ↔ (memOrd w = .rel ∨ memOrd w = .ar) ∧ earlierLeft s n x = true := by simp [releaseHeld]

theorem writesAtIssue_fx (ho : w.opc = .redFx ∨ w.opc = .amoFadd) (hv : w.opc = .amoFadd → x.a.valid 0 = true) :
    writesAtIssue w x = ((lanesOf (fxMask w x)).map (fxLaneAddr w x), 16) := by
  rcases ho with ho | ho
  · simp [writesAtIssue, fxMask, fxLaneAddr, ho]
  · simp [writesAtIssue, fxMask, fxLaneAddr, ho, hv ho]

section
variable {P : Nat → Nat} {W : Nat → Int}
  (hv : w.opc = .amoFadd → x.a.valid 0 = true ∧ x.poisoned = false ∧ ∀ i ∈ lanesOf (fxMask w x), Clear s (.dpa (P i)) 16)
  (hl : checkLanes s u 16 .atomic ((lanesOf (fxMask w x)).map fun i => (i, fxLaneAddr w x i)) = .ok ((lanesOf (fxMask w x)).map fun i => (i, .dpa (P i))))
  (hcell : ∀ i ∈ lanesOf (fxMask w x), fxWindow s u.job (P i) = some (W i))
include hv hl hcell

/-- Additions into cells of regions of the job, at places that nothing holds back, wait as a release or are made in ascending lane order. -/
theorem issueFx_eq : issueFx s u n w x =
    if releaseHeld s n w x = true then .waits s []
    else .done ((lanesOf (fxMask w x)).foldl (fun t i => fxAddAt t (P i) (W i) (x.b.lane i)) s) (Token.control 1) := by
  unfold issueFx
  extract_lets row m addr cell wait
  have hm : m = fxMask w x := by
    by_cases ho : w.opc = .amoFadd
    · simp [m, row, fxMask, ho, (hv ho).1]
    · simp [m, row, fxMask, ho]
  clear_value m
  subst hm
  split
  case h_1 e => cases hl.symm.trans e
  case h_2 ps e =>
    cases hl.symm.trans e
    extract_lets perform go
    have hcells (i : Nat) (hi : i ∈ lanesOf (fxMask w x)) : cell (i, .dpa (P i)) = some (P i, W i) := by simp [cell, hcell i hi]
    split
    case h_1 ip hfind =>
      obtain ⟨i, hi, rfl⟩ := List.mem_map.mp (List.mem_of_find?_eq_some hfind)
      have hnone := List.find?_some hfind
      simp [hcells i hi] at hnone
    case h_2 =>
      have hperform : perform = (lanesOf (fxMask w x)).foldl (fun t i => fxAddAt t (P i) (W i) (x.b.lane i)) s := by
        simp only [perform, List.foldl_map]
        exact List.foldl_ext _ _ _ fun t i hi => by rw [hcells i hi]
      have hgo : go = if releaseHeld s n w x = true then .waits s [] else .done perform (Token.control 1) := rfl
      rw [← hperform, ← hgo]
      split
      · exact whenClear_clear (hv ‹_›).2.1 (by simpa using (hv ‹_›).2.2)
      · rfl

end

end

end Sys2Proof.Machine
end

section
/-! SUPPORT. A `monwait` that waits behind its chain is looked at again (R76, R180). -/

namespace Sys2Proof.Machine

open Sys2Proof.Safety

variable {s : State} {n op : Nat} {it : Inst} {img : Image} {u : UnitId} {w : WorkUnit} {x : MemFire} {sl : OpSlot}

theorem issuedFire_unit (h : issuedFire s n op = some (it, img, u, w, x, sl)) : kget s.units u = some w := by
  unfold issuedFire at h
  simp only [Option.bind_eq_some_iff] at h
  obtain ⟨it', _, img', _, w', hw, h⟩ := h
  split at h
  case isFalse => simp at h
  case isTrue =>
    simp only [Option.bind_eq_some_iff, Option.map_eq_some_iff, Prod.mk.injEq] at h
    obtain ⟨y, _, sl', _, _, _, rfl, rfl, _, _⟩ := h
    exact hw

/-- An operation that waits alone in its `Inst` is barred only by earlier ones. -/
theorem unbarred_of_alone (halone : it.waiting = [x]) (hbar : barredByEarlier s it img = false) (hloc : sameLocationLeft s it img sl.word w x = false) :
    Unbarred s it img w x sl := by
  have hahead : it.aheadOf img x = [] := by
    simp only [Inst.aheadOf, Inst.outstanding, halone, List.filter_filter]
    simp
  exact ⟨by simp [barred, hahead, hbar], hloc⟩

/-- Once the only operation of an `Inst` has ended, none is left to issue. -/
theorem nextFire_chainDone (hit : kget s.insts n = some it) (halone : it.waiting = [x]) (o : OpWord) (t : Token) :
    nextFire (chainDone s n it x o t) n = none := by
  have hnone : ∀ img1, nextInChain img1 { it.moved x o with waiting := it.waiting.filter fun y => y.op ≠ x.op } = none := by
    intro img1
    simp [nextInChain, Inst.outstanding, halone]
  have hinst : kget (chainDone s n it x o t).insts n = some { it.moved x o with waiting := it.waiting.filter fun y => y.op ≠ x.op } := by
    rw [chainDone, kget_kmod_same, hit]
    rfl
  unfold nextFire
  rw [hinst, Option.bind_some]
  simp only [hnone, Option.map_none, ite_self, Option.bind_fun_none]

/-- WAVE_ISSUE ends an operation that waits alone behind its chain where its issue is done and writes nothing. -/
theorem waveIssue_again {t : Token} (h : issuedFire s n x.op = some (it, img, u, w, x, sl)) (halone : it.waiting = [x]) (hfault : x.fault = none)
    (hfree : Unbarred s it img w x sl) (hi : issueOf s n img w x sl = .done s t) (hw : (writesAtIssue sl.word x).1 = []) :
    waveIssue s n = chainDone s n it x sl.word t := by
  obtain ⟨hit, _, _, _⟩ := issuedFire_spec h
  have hops : instOps s n = [x.op] := by simp [instOps, hit, halone]
  have hretry : retryIssued n s x.op = chainDone s n it x sl.word t := by
    simp only [retryIssued, h, hfault, Option.isSome_none, Bool.false_eq_true, if_false]
    exact issueFire_reads hfree hi hw (by rw [issuedFire_unit h]; rfl)
  rw [waveIssue, hops, List.foldl_cons, List.foldl_nil, hretry, nextFire_chainDone hit halone]

end Sys2Proof.Machine
end

section
/-! SUPPORT. WAVE_ISSUE of a fence, an `apst`, a `monwait` and an FX128 addition (R178 to R181). -/

namespace Sys2Proof.Safety

open Sys2Proof Sys2Proof.Machine

variable {s : State} {n : Nat} {it : Inst} {img : Image} {u : UnitId} {w : WorkUnit} {x : MemFire} {sl : OpSlot}

theorem Issuable.performs_system (h : Issuable s n it img u w x sl) (ho : sl.word.opc ∈ systemWaits) : performs sl.word x = true :=
  Machine.performs_system h.noPoison h.noHeader ho

/-! ## Fences -/

section
variable (h : Issuable s n it img u w x sl) (ho : sl.word.opc = .fence)
include h ho

theorem Issuable.ends_fence (hl : earlierLeft s n x = false) : Ends (.waveIssue n) s (chainDone s n it x sl.word x.a) :=
  h.chosen.ends_reads ((issueOp_fence h.noPoison ho).trans (by simp [issueFence, hl])) (by simp [writesAtIssue, ho]) rfl

theorem Issuable.fence_waits (hl : earlierLeft s n x = true) : Ends (.waveIssue n) s (keptBehind s n x sl.word []) :=
  h.chosen.ends_waits (h.performs_system (by simp [systemWaits, ho])) ((issueOp_fence h.noPoison ho).trans (by simp [issueFence, hl]))

end

/-! ## `apst` -/

section
variable (h : Issuable s n it img u w x sl) (ho : sl.word.opc = .apst)
include h ho

theorem Issuable.apst_issue : issueOf s n img w x sl = issueApst s w n (holdsChan s w) x := issueOp_apst h.noPoison h.noHeader ho

theorem Issuable.apst_traps {c : BitVec 16} {va : Nat} (hc : c = cMemAlign ∨ c = cMemAttr) (hi : issueApst s w n (holdsChan s w) x = .fault c va) :
    Ends (.waveIssue n) s (memTrap s n it img x sl c (BitVec.ofNat 64 va)) :=
  h.chosen.ends_traps (by rcases hc with rfl | rfl <;> decide) ((h.apst_issue ho).trans hi)

theorem Issuable.apst_ends {s1 : State} {t : Token} (hi : issueApst s w n (holdsChan s w) x = .done s1 t) (hu : s1.units = s.units) :
    Ends (.waveIssue n) s (chainDone s1 n it x sl.word t) :=
  h.chosen.ends_reads ((h.apst_issue ho).trans hi) (by simp [writesAtIssue, ho]) hu

end

/-! ## `monwait` -/

section
variable (h : Issuable s n it img u w x sl) (ho : sl.word.opc = .monwait)
include h ho

theorem Issuable.monwait_issue : issueOf s n img w x sl = issueMonwait s w n img.die sl.word x := issueOp_monwait h.noPoison h.noHeader ho

theorem Issuable.monwait_ends {t : Token} (hi : issueMonwait s w n img.die sl.word x = .done s t) :
    Ends (.waveIssue n) s (chainDone s n it x sl.word t) :=
  h.chosen.ends_reads ((h.monwait_issue ho).trans hi) (by simp [writesAtIssue, ho]) rfl

theorem Issuable.monwait_waits {s1 : State} (hi : issueMonwait s w n img.die sl.word x = .waits s1 []) :
    Ends (.waveIssue n) s (keptBehind s1 n x sl.word []) :=
  h.chosen.ends_waits (h.performs_system (by simp [systemWaits, ho])) ((h.monwait_issue ho).trans hi)

end

/-! ## FX128 additions -/

section
variable {P : Nat → Nat} {W : Nat → Int} (h : Issuable s n it img u w x sl) (ho : sl.word.opc = .redFx ∨ sl.word.opc = .amoFadd)
  (hv : sl.word.opc = .amoFadd →
    x.a.valid 0 = true ∧ x.poisoned = false ∧ ∀ i ∈ lanesOf (fxMask sl.word x), Clear s (.dpa (P i)) 16)
  (hl : checkLanes s w 16 .atomic ((lanesOf (fxMask sl.word x)).map fun i => (i, fxLaneAddr sl.word x i)) =
    .ok ((lanesOf (fxMask sl.word x)).map fun i => (i, .dpa (P i))))
  (hcell : ∀ i ∈ lanesOf (fxMask sl.word x), fxWindow s w.job (P i) = some (W i))
include h ho hv hl hcell

theorem Issuable.fx_waits (hheld : releaseHeld s n sl.word x = true) : Ends (.waveIssue n) s (keptBehind s n x sl.word []) :=
  h.chosen.ends_waits (h.performs_system (by rcases ho with ho | ho <;> simp [systemWaits, ho]))
    ((issueOp_fx h.noPoison h.noHeader ho).trans ((issueFx_eq hv hl hcell).trans (if_pos hheld)))

theorem Issuable.fx_ends (hheld : ¬ releaseHeld s n sl.word x = true)
    (hfree : ∀ i ∈ lanesOf (fxMask sl.word x), undoFull s (.dpa (P i)) 16 = false ∧ entryHeld s (some n) (.dpa (P i)) 16 = false) :
    Ends (.waveIssue n) s
      (chainDone ((lanesOf (fxMask sl.word x)).foldl (fun t i => fxAddAt t (P i) (W i) (x.b.lane i)) s) n it x sl.word (Token.control 1)) := by
  have hwrites := writesAtIssue_fx ho fun e => (hv e).1
  have hplaces : placesOf s w (writesAtIssue sl.word x).1 = (lanesOf (fxMask sl.word x)).map fun i => .dpa (P i) := by
    rw [hwrites]
    exact placesOf_checked hl
  have hends := h.chosen.ends_writes ((issueOp_fx h.noPoison h.noHeader ho).trans ((issueFx_eq hv hl hcell).trans (if_neg hheld))) hplaces
    (by simpa [hwrites] using hfree) (foldl_units (fun _ _ => writePhys_units _ _ _) _ _)
  rwa [foldl_markExternal_dpa] at hends

end

end Sys2Proof.Safety
end

section
/-! SUPPORT. The statement on fences, copies, waits and additions of a wave, settled. -/

namespace Sys2Proof.Machine

open Sys2Proof.Safety

/-- Settles O34, by the opcode of the operation, and for a `monwait` that a write has met by its second issue. -/
theorem waveSystemOperators : Obligations.WaveSystemOperators := by
  unfold Obligations.WaveSystemOperators
  refine ⟨?first, ?again⟩
  case first =>
    intro s n it img u w x sl h o va goesOn waits release
    refine ⟨?fence, ?apst, ?invalid, ?monwait, ?fx⟩
    case fence => exact fun ho => ⟨h.ends_fence ho, h.fence_waits ho⟩
    case apst =>
      intro ho ha hb
      refine ⟨?aperture, fun hno hbad => h.apst_traps ho (.inr rfl) (issueApst_elsewhere ha hb hno hbad)⟩
      intro d off ht disp
      refine ⟨fun hoff => h.apst_traps ho (.inl rfl) (issueApst_unaligned ha hb ht hoff), fun hoff hch => ?foreign, fun hoff hlow hch => ?starts⟩
      case foreign =>
        have hheld : 4096 ≤ off ∨ holdsChan s w d (off / 128) = false := hch.imp_right fun hne => by simpa [holdsChan] using hne
        exact h.apst_traps ho (.inr rfl) (issueApst_foreign ha hb ht hoff hheld)
      case starts =>
        have hends := h.apst_ends ho (issueApst_starts ha hb ht hoff hlow (by simpa [holdsChan] using hch)) rfl
        rw [deferTo_unreleased] at hends
        exact hends
    case invalid =>
      rintro (ho | ho) hv
      · exact h.apst_ends ho (issueApst_invalid hv) rfl
      · exact h.monwait_ends ho (issueMonwait_invalid hv)
    case monwait =>
      intro ho ha hb hx p sz hl hc hit v c y ends
      refine ⟨fun h1 hhit => h.monwait_ends ho (issueMonwait_hit ha hb hx hl hc hhit), fun hhit => ?_⟩
      have hlook := issueMonwait_looks (n := n) (die := img.die) (w := sl.word) ha hb hx hl hc hhit
      refine ⟨fun hmet => h.monwait_ends ho (hlook.trans (if_pos hmet)), fun hnot => ?_⟩
      have hnot' : ¬ monMeets sl.word x (monValue s n img.die sl.word x p) = true := by
        rw [Bool.not_eq_true]
        exact hnot
      exact ⟨fun h1 h0 => h.monwait_ends ho (hlook.trans ((if_neg hnot').trans (if_pos ⟨h1, h0⟩))),
        fun hlate => h.monwait_waits ho (hlook.trans ((if_neg hnot').trans (if_neg hlate)))⟩
    case fx =>
      intro P W row m A hop hl hcells
      have hopc : sl.word.opc = .redFx ∨ sl.word.opc = .amoFadd := hop.imp_right And.left
      have hm : fxMask sl.word x = m := by simp [fxMask, m, row, o]
      have hA : fxLaneAddr sl.word x = A := by
        funext i
        simp [fxLaneAddr, A, row, o, va]
      rw [← hm, ← hA] at hl
      rw [← hm] at hcells hop ⊢
      have hv (e : sl.word.opc = .amoFadd) := (hop.resolve_left (by simp [o, e])).2
      have hcell (i : Nat) (hi : i ∈ lanesOf (fxMask sl.word x)) := (hcells i hi).1
      refine ⟨fun hr he => h.fx_waits hopc hv hl hcell (releaseHeld_iff.mpr ⟨hr, he⟩), fun hn => ?_⟩
      exact h.fx_ends hopc hv hl hcell (fun hheld => hn (releaseHeld_iff.mp hheld)) fun i hi => (hcells i hi).2
  case again =>
    intro s n it img u w x sl h p hissued halone hfault hx ho hclean hheader ha hb hbar hloc sz hl hc hhit
    have hi : issueOf s n img w x sl = .done s (monToken h false) :=
      (issueOp_monwait hclean hheader ho).trans (issueMonwait_hit ha hb hx hl hc hhit)
    exact ends_of_done rfl (waveIssue_again hissued halone hfault (unbarred_of_alone halone hbar hloc) hi (by simp [writesAtIssue, ho]))

end Sys2Proof.Machine
end

section
/-! SUPPORT. Integer atomics (R95, R97, R182): the values of Table 7.6, the lanes in ascending order, and their issue. -/

namespace Sys2Proof.Machine

open Sys2Proof.Safety

/-- The integer atomics. -/
def amoOps : List Opc := [.amoAdd, .amoAnd, .amoOr, .amoXor, .amoMin, .amoMax, .amoMinu, .amoMaxu, .amoSwap, .amoCas]

/-- The size of the locations of an integer atomic. -/
def amoSize (ty : BitVec 4) : Nat := if ty = 1 then 8 else 4

/-- The operand of an integer atomic in a lane. -/
def amoOperand (ty : BitVec 4) (t : Token) (i : Nat) : Word := if ty = 1 then (t.lane i).signExtend 64 else (t.lane i).setWidth 64

/-- The old value as it is returned: extended by its sign from 32 bits for i32. -/
def amoReturned (ty : BitVec 4) (v : Word) : Lane := if ty = 10 then (v.setWidth 32).signExtend 40 else v.setWidth 40

/-! ## The lanes in ascending order -/

section
variable (o : Opc) (ty : BitVec 4) (b c : Token) (P : Nat → Phys)

/-- One lane of an integer atomic: the state after it and the old value of each lane so far. -/
def amoLane (r : State × (Nat → Word)) (i : Nat) : State × (Nat → Word) :=
  let old : Word := wordOf (readPhys r.1 0 (P i) (amoSize ty))
  (((amoNew o (8 * amoSize ty) old (amoOperand ty b i) (amoOperand ty c i)).map fun v => writePhys r.1 (P i) (leBytes (amoSize ty) v.toNat)).getD r.1,
    fun k => if k = i then old else r.2 k)

theorem amoLanes_cons (s : State) (i : Nat) (rest : List (Nat × Phys)) : amoLanes o ty b c s ((i, P i) :: rest) =
    ((amoLanes o ty b c (amoLane o ty b c P (s, fun _ => 0) i).1 rest).1,
      (i, amoReturned ty (wordOf (readPhys s 0 (P i) (amoSize ty)))) :: (amoLanes o ty b c (amoLane o ty b c P (s, fun _ => 0) i).1 rest).2) := by
  have hstep : (amoLane o ty b c P (s, fun _ => 0) i).1 =
      match amoNew o (8 * amoSize ty) (wordOf (readPhys s 0 (P i) (amoSize ty))) (amoOperand ty b i) (amoOperand ty c i) with
        | some v => writePhys s (P i) (leBytes (amoSize ty) v.toNat)
        | none => s := by
    unfold amoLane
    split <;> simp [*]
  rw [hstep]
  rfl

/-- Lanes other than those performed keep their values. -/
theorem foldl_amoLane_other (r : State × (Nat → Word)) {is : List Nat} {k : Nat} (hk : k ∉ is) :
    (is.foldl (amoLane o ty b c P) r).2 k = r.2 k := by
  induction is generalizing r with
  | nil => rfl
  | cons i is ih =>
    rw [List.mem_cons, not_or] at hk
    rw [List.foldl_cons, ih _ hk.2]
    exact if_neg hk.1

theorem amoLanes_fst (r : State × (Nat → Word)) (is : List Nat) :
    (amoLanes o ty b c r.1 (is.map fun i => (i, P i))).1 = (is.foldl (amoLane o ty b c P) r).1 := by
  induction is generalizing r with
  | nil => rfl
  | cons i is ih =>
    rw [List.map_cons, amoLanes_cons, List.foldl_cons, ← ih]
    rfl

/-- Each lane returns the old value that it read. -/
theorem amoLanes_returned (r : State × (Nat → Word)) {is : List Nat} (hd : is.Nodup) {k : Nat} (hk : k ∈ is) :
    kget (amoLanes o ty b c r.1 (is.map fun i => (i, P i))).2 k = some (amoReturned ty ((is.foldl (amoLane o ty b c P) r).2 k)) := by
  induction is generalizing r with
  | nil => cases hk
  | cons i is ih =>
    obtain ⟨hi, hd⟩ := List.nodup_cons.mp hd
    rw [List.map_cons, amoLanes_cons, List.foldl_cons, kget]
    by_cases hik : i = k
    · subst hik
      rw [if_pos rfl, foldl_amoLane_other o ty b c P _ hi]
      simp [amoLane]
    · rw [if_neg hik]
      exact ih (amoLane o ty b c P r i) hd ((List.mem_cons.mp hk).resolve_left (Ne.symm hik))

theorem amoLane_units (r : State × (Nat → Word)) (i : Nat) : (amoLane o ty b c P r i).1.units = r.1.units := by
  unfold amoLane
  dsimp only
  generalize amoNew o (8 * amoSize ty) (wordOf (readPhys r.1 0 (P i) (amoSize ty))) (amoOperand ty b i) (amoOperand ty c i) = v
  cases v <;> simp

theorem foldl_amoLane_units (r : State × (Nat → Word)) (is : List Nat) : (is.foldl (amoLane o ty b c P) r).1.units = r.1.units := by
  induction is generalizing r with
  | nil => rfl
  | cons i is ih => rw [List.foldl_cons, ih, amoLane_units]

end

theorem nodup_lanesOf (m : BitVec 16) : (lanesOf m).Nodup := List.nodup_range.filter _

/-- Words are compared at the size of the location, signed and unsigned (Table 7.6). -/
theorem toInt_setWidth_amoSize (ty : BitVec 4) (v : Word) : (v.setWidth (8 * amoSize ty)).toInt = if ty = 1 then v.toInt else (v.setWidth 32).toInt := by
  by_cases h : ty = 1
  · rw [amoSize, if_pos h, if_pos h, BitVec.setWidth_eq]
  · rw [amoSize, if_neg h, if_neg h]

theorem toNat_setWidth_amoSize (ty : BitVec 4) (v : Word) : (v.setWidth (8 * amoSize ty)).toNat = if ty = 1 then v.toNat else (v.setWidth 32).toNat := by
  by_cases h : ty = 1
  · rw [amoSize, if_pos h, if_pos h, BitVec.setWidth_eq]
  · rw [amoSize, if_neg h, if_neg h]

/-- The AtomicOps that go to a host or a peer (R97). -/
theorem hostAtomic_eq (o : Opc) : hostAtomic o = decide (o ∈ [Opc.amoAdd, .amoSwap, .amoCas]) := by cases o <;> rfl

/-! ## The issue -/

section
variable {s : State} {n die key : Nat} {u : WorkUnit} {holds : Nat → Nat → Bool} {w : OpWord} {x : MemFire} {P : Nat → Phys}

/-- The lanes of an integer atomic. -/
def amoMask (w : OpWord) (x : MemFire) : BitVec 16 := x.a.mask &&& x.b.mask &&& (if w.opc = .amoCas then x.c.mask else 0xFFFF)

theorem writesAtIssue_amo (ho : w.opc ∈ amoOps) :
    writesAtIssue w x = ((lanesOf (amoMask w x)).map fun i => addrOf x (x.a.lane i), amoSize w.ty) := by
  unfold writesAtIssue amoMask
  generalize w.opc = o at ho
  fin_cases ho <;> rfl

section
variable (hp : firstPoison [x.a, x.b, x.c] = none) (hh : x.a.cls ≠ .header) (ho : w.opc ∈ amoOps)
include hp hh ho

theorem issueOp_amo : issueOp s u key n die holds w x = issueAmo s u n w x := by
  simp only [issueOp, hp, hh, false_and, if_false]
  generalize w.opc = o at ho
  fin_cases ho <;> rfl

end

section
variable (hl : checkLanes s u (amoSize w.ty) .atomic ((lanesOf (amoMask w x)).map fun i => (i, addrOf x (x.a.lane i))) =
  .ok ((lanesOf (amoMask w x)).map fun i => (i, P i)))
include hl

/-- A lane at a system target that takes no such AtomicOp is refused (R97). -/
theorem issueAmo_refused {i : Nat} (hi : (lanesOf (amoMask w x)).find? (fun i => !atomicAt w.opc (P i)) = some i) :
    issueAmo s u n w x = .fault cMemAttr (addrOf x (x.a.lane i)) := by
  have hfind : ((lanesOf (amoMask w x)).map fun i => (i, P i)).find? (fun ip => !atomicAt w.opc ip.2) = some (i, P i) := by
    simp [List.find?_map, hi]
  unfold amoSize amoMask at hl
  unfold amoMask at hfind
  simp only [issueAmo, hl, hfind]

/-- An integer atomic at places that take it and that nothing holds back is performed lane by lane (R182). -/
theorem issueAmo_done (hat : ∀ i ∈ lanesOf (amoMask w x), atomicAt w.opc (P i) = true) (hx : x.poisoned = false)
    (hc : ∀ i ∈ lanesOf (amoMask w x), Clear s (P i) (amoSize w.ty)) (hrel : ¬ ((memOrd w = .rel ∨ memOrd w = .ar) ∧ earlierLeft s n x = true)) :
    let r := (lanesOf (amoMask w x)).foldl (amoLane w.opc w.ty x.b x.c P) (s, fun _ => 0)
    issueAmo s u n w x = .done r.1 (Token.make (fun i => amoReturned w.ty (r.2 i)) (amoMask w x) .data) := by
  intro r
  have hfind : ((lanesOf (amoMask w x)).map fun i => (i, P i)).find? (fun ip => !atomicAt w.opc ip.2) = none := by
    simpa using hat
  have hclear : ∀ ip ∈ (lanesOf (amoMask w x)).map fun i => (i, P i), Clear s ip.2 (amoSize w.ty) := by simpa using hc
  have hstate := amoLanes_fst w.opc w.ty x.b x.c P (s, fun _ => 0) (lanesOf (amoMask w x))
  have htoken : Token.make (fun i => (kget (amoLanes w.opc w.ty x.b x.c s ((lanesOf (amoMask w x)).map fun i => (i, P i))).2 i).getD 0) (amoMask w x) .data =
      Token.make (fun i => amoReturned w.ty (r.2 i)) (amoMask w x) .data :=
    make_congr fun i hi hm => by rw [amoLanes_returned w.opc w.ty x.b x.c P (s, fun _ => 0) (nodup_lanesOf _) (mem_lanesOf hi hm)]; rfl
  unfold issueAmo
  extract_lets sz m addr
  have hl' : checkLanes s u sz .atomic ((lanesOf m).map fun i => (i, addr i)) = .ok ((lanesOf (amoMask w x)).map fun i => (i, P i)) := hl
  simp only [hl', hfind]
  refine (whenClear_clear hx hclear).trans ?_
  rw [if_neg hrel]
  exact congrArg₂ IssueRes.done hstate htoken

end

end

end Sys2Proof.Machine

namespace Sys2Proof.Safety

open Sys2Proof Sys2Proof.Machine

section
variable {s : State} {n : Nat} {it : Inst} {img : Image} {u : UnitId} {w : WorkUnit} {x : MemFire} {sl : OpSlot} {P : Nat → Phys}
  (h : Issuable s n it img u w x sl) (ho : sl.word.opc ∈ amoOps)
  (hl : checkLanes s w (amoSize sl.word.ty) .atomic ((lanesOf (amoMask sl.word x)).map fun i => (i, addrOf x (x.a.lane i))) =
    .ok ((lanesOf (amoMask sl.word x)).map fun i => (i, P i)))
include h ho hl

theorem Issuable.amo_traps {i : Nat} (hi : (lanesOf (amoMask sl.word x)).find? (fun i => !atomicAt sl.word.opc (P i)) = some i) :
    Ends (.waveIssue n) s (memTrap s n it img x sl cMemAttr (BitVec.ofNat 64 (addrOf x (x.a.lane i)))) :=
  h.chosen.ends_traps (by decide) ((issueOp_amo h.noPoison h.noHeader ho).trans (issueAmo_refused hl hi))

theorem Issuable.amo_ends (hat : ∀ i ∈ lanesOf (amoMask sl.word x), atomicAt sl.word.opc (P i) = true) (hx : x.poisoned = false)
    (hc : ∀ i ∈ lanesOf (amoMask sl.word x), Clear s (P i) (amoSize sl.word.ty))
    (hfree : ∀ i ∈ lanesOf (amoMask sl.word x),
      undoFull s (P i) (amoSize sl.word.ty) = false ∧ entryHeld s (some n) (P i) (amoSize sl.word.ty) = false)
    (hrel : ¬ ((memOrd sl.word = .rel ∨ memOrd sl.word = .ar) ∧ earlierLeft s n x = true)) :
    let r := (lanesOf (amoMask sl.word x)).foldl (amoLane sl.word.opc sl.word.ty x.b x.c P) (s, fun _ => 0)
    Ends (.waveIssue n) s (chainDone ((lanesOf (amoMask sl.word x)).foldl (fun t i => markExternal t w.job (P i)) r.1) n it x sl.word
      (Token.make (fun i => amoReturned sl.word.ty (r.2 i)) (amoMask sl.word x) .data)) := by
  intro r
  have hwrites := writesAtIssue_amo (x := x) ho
  have hplaces : placesOf s w (writesAtIssue sl.word x).1 = (lanesOf (amoMask sl.word x)).map P := by
    rw [hwrites]
    exact placesOf_checked hl
  have hends := h.chosen.ends_writes ((issueOp_amo h.noPoison h.noHeader ho).trans (issueAmo_done hl hat hx hc hrel)) hplaces
    (by simpa [hwrites] using hfree) (foldl_amoLane_units _ _ _ _ _ _ _)
  rwa [List.foldl_map] at hends

end

end Sys2Proof.Safety
end

section
/-! SUPPORT. The statement on integer atomics of a wave, settled. -/

namespace Sys2Proof.Machine

open Sys2Proof.Safety

/-- Settles O35: its lanes are those of `amoLane`, whose new values are those of Table 7.6, at places that take the atomic. -/
theorem waveAtomics : Obligations.WaveAtomics := by
  unfold Obligations.WaveAtomics
  intro s n it img u w x sl h hx ho P o sz m opnd sInt uInt new lane ends ret completes hl
  have hops : sl.word.opc ∈ amoOps := ho
  have hsigned (v : Word) : (v.setWidth (8 * amoSize sl.word.ty)).toInt = sInt v := toInt_setWidth_amoSize sl.word.ty v
  have hunsigned (v : Word) : (v.setWidth (8 * amoSize sl.word.ty)).toNat = uInt v := toNat_setWidth_amoSize sl.word.ty v
  have hnew (old b c : Word) : amoNew o (8 * amoSize sl.word.ty) old b c = new old b c := by
    simp only [amoNew, hsigned, hunsigned, new]
    have ho' : o ∈ amoOps := ho
    generalize o = k at ho'
    fin_cases ho' <;> rfl
  have hlane : amoLane o sl.word.ty x.b x.c P = lane := by
    funext r i
    simp only [amoLane, lane, hnew]
    refine Prod.ext ?_ rfl
    change (Option.map _ (new (wordOf (readPhys r.1 0 (P i) sz)) (opnd x.b i) (opnd x.c i))).getD r.1 = _
    generalize new (wordOf (readPhys r.1 0 (P i) sz)) (opnd x.b i) (opnd x.c i) = v
    cases v <;> rfl
  have hat (i : Nat) : atomicAt o (P i) = completes i := by
    simp only [completes]
    split <;> simp [atomicAt, hostAtomic_eq, *]
  refine ⟨fun i hi => h.amo_traps hops hl ?_, fun hlanes hrel => ?_⟩
  · have hfun : (fun i => !atomicAt o (P i)) = fun i => !completes i := funext fun i => by rw [hat i]
    rw [← hfun] at hi
    exact hi
  · have hends := h.amo_ends hops hl (fun i hi => (hat i).trans (hlanes i hi).1) hx (fun i hi => (hlanes i hi).2.1)
      (fun i hi => (hlanes i hi).2.2) fun hheld => by simpa [hheld.2] using hrel hheld.1
    have hfold : (lanesOf (amoMask sl.word x)).foldl (amoLane o sl.word.ty x.b x.c P) (s, fun _ => 0) = ends := by rw [hlane]; rfl
    rw [hfold] at hends
    exact hends

end Sys2Proof.Machine
end

section
/-! SUPPORT. A command that a running sequencer offers (R116, R189, R190): it is issued at once, and what its issue answers is what its step does. -/

namespace Sys2Proof.Machine

open Sys2Proof.Safety

/-! ## Refusals and fallbacks -/

/-- Without a failing check a command is not refused. -/
@[simp] theorem checked_zero (s : State) (k : Issued) : checked s 0 k = k := if_neg (by simp)

@[simp] theorem lowest_nil : lowest [] = 0 := rfl

/-- A check that does not fail gives no code. -/
@[simp] theorem lowest_cons_false (c : Nat) (l : List (Bool × Nat)) : lowest ((false, c) :: l) = lowest l := rfl

/-- Without fallbacks no class is set in `warn` (R124). -/
@[simp] theorem cmdWarn_none (s : State) (x : Ctx) (c : Cmd128) : cmdWarn s x {} c = s := by
  cases h : x.iss with
  | seq u => simp only [cmdWarn, h]; exact if_pos rfl
  | chain k e => simp only [cmdWarn, h]

/-! ## The context of a command of a unit -/

@[simp] theorem Ctx.ofUnit_iss (u : UnitId) (w : WorkUnit) : (Ctx.ofUnit u w).iss = .seq u := rfl
@[simp] theorem Ctx.ofUnit_job (u : UnitId) (w : WorkUnit) : (Ctx.ofUnit u w).job = w.job := rfl
@[simp] theorem Ctx.ofUnit_asid (u : UnitId) (w : WorkUnit) : (Ctx.ofUnit u w).asid = w.asid := rfl
@[simp] theorem Ctx.ofUnit_die (u : UnitId) (w : WorkUnit) : (Ctx.ofUnit u w).die = w.tp.die := rfl
@[simp] theorem Ctx.ofUnit_unitNo (u : UnitId) (w : WorkUnit) : (Ctx.ofUnit u w).unitNo = u := rfl

/-- An operation of a unit's command, entered with no fallback. -/
theorem addOp_ofUnit (s : State) (u : UnitId) (w : WorkUnit) (row : Engine) (c : Cmd128) (b : OpBody) :
    addOp s ((Ctx.ofUnit u w).op row c b {}) = (entered s u w row c b, s.nextId) := rfl

end Sys2Proof.Machine

namespace Sys2Proof.Safety

open Sys2Proof.Machine

/-! ## The command of a unit -/

variable {s t : State} {u : UnitId} {w : WorkUnit} {o : Sopc} {c : Cmd128}

/-- A command whose flags do not fall back carries FE only where it is admitted (Table 4.16). -/
theorem fe_of_flagFallback (h : flagFallback o c = (c, {})) (hr : o ≠ .gathRow) (hd : o ≠ .gathRed) : cmdFe c = false := by
  have hflag : (cmdFe c && decide (o ≠ .gathRow) && decide (o ≠ .gathRed) || cmdSpec c &&& ~~~(specAdmitted o) != 0) = false :=
    congrArg (fun p => p.2.flag) h
  simp only [Bool.or_eq_false_iff, hr, hd, ne_eq, not_false_eq_true, decide_true, Bool.and_true] at hflag
  exact hflag.1

/-- An offered command does not wait under SER (R116). -/
theorem Offers.not_serWaits (h : Offers s u w o c) : serWaits s (Ctx.ofUnit u w) o.engine c = false := by
  obtain ⟨-, -, -, -, -, hser⟩ := h
  by_cases hc : cmdSer c = true
  · simp only [serWaits, hc, Bool.true_and, Bool.not_eq_false']
    exact hser hc
  · simp [serWaits, hc]

/-- An offered command that takes effect at its issue is complete, and NTF acts at once (R116, R192). -/
theorem Offers.takes_effect (h : Offers s u w o c) : atOnce s (Ctx.ofUnit u w) o.engine c (.st t 0) = .st (noted t u c) 0 := by
  have hser : (cmdSer c && !serMet s s.nextId (Ctx.ofUnit u w).iss (Ctx.ofUnit u w).die o.engine) = false := h.not_serWaits
  simp only [atOnce, hser, Bool.false_eq_true, if_false]
  rfl

/-- An offered command whose issue has made its accesses takes its effect (R394). -/
theorem Offers.settles (h : Offers s u w o c) {e : Settled} (he : e.perform s = some t) :
    settleAt s (Ctx.ofUnit u w) o.engine c e = .st (noted t u c) 0 := by
  rw [settleAt, h.not_serWaits, if_neg (by simp), he]
  exact h.takes_effect

/-- An offered command without FE ends in the state that its issue answers, accepted or refused (R189). -/
theorem Offers.ends {i : Instr} {form : Cmd128 → Bool} {code : Nat} (h : Offers s u w o c) (hfe : cmdFe c = false)
    (hi : exec i s = commandIssues o form (.seq u) c s) (hform : form c = true) (hr : issueBy o s (Ctx.ofUnit u w) c = .st t code) : Ends i s t := by
  obtain ⟨hu, hrun, hop, hfull, hflag, -⟩ := h
  have hissue : issueCmd o s (Ctx.ofUnit u w) c = .st t code := by
    have hf : queueFull s (Ctx.ofUnit u w).die o.engine = false := hfull
    simp only [issueCmd, hf, hflag, hr, Bool.false_eq_true, if_false]
    cases code <;> simp
  have hseq : seqIssues o u c s = t := by simp [seqIssues, hu, hrun, hissue, hfe]
  have hop' : Sopc.ofCode (cmdOpc c) = some o := hop
  refine ends_of_done ?_ hseq
  simp [hi, commandIssues, hop', hform]

/-- The same, for an opcode that admits no FE. -/
theorem Offers.ends_plain {i : Instr} {form : Cmd128 → Bool} {code : Nat} (h : Offers s u w o c) (hi : exec i s = commandIssues o form (.seq u) c s)
    (hform : form c = true) (hr : issueBy o s (Ctx.ofUnit u w) c = .st t code) (ho : o ≠ .gathRow ∧ o ≠ .gathRed := by decide) : Ends i s t := by
  have hflag : flagFallback o c = (c, {}) := h.2.2.2.2.1
  exact h.ends (fe_of_flagFallback hflag ho.1 ho.2) hi hform hr

end Sys2Proof.Safety
end

section
/-! SUPPORT. `snop`, `sync` and `fxregion` (R197, R198). -/

namespace Sys2Proof.Machine

open Sys2Proof.Safety

variable {s : State} {u : UnitId} {w : WorkUnit} {c : Cmd128}

/-- A `snop` without a reserved bit does nothing (R197). -/
theorem snop_ends (h : Offers s u w .snop c) (h0 : fld c 111 0 = 0) : Ends (.snop (.seq u) c) s (noted s u c) :=
  h.ends_plain (form := anyForm) rfl rfl (code := 0) (by
    change issueSnop s (Ctx.ofUnit u w) c = _
    rw [issueSnop, if_neg (by simpa using h0), checked_zero]
    exact h.takes_effect)

/-- A `snop` with a reserved bit is refused with FORM. -/
theorem snop_refused (h : Offers s u w .snop c) (h0 : fld c 111 0 ≠ 0) : Ends (.snop (.seq u) c) s s :=
  h.ends_plain (form := anyForm) rfl rfl (code := stForm) (by
    change issueSnop s (Ctx.ofUnit u w) c = _
    rw [issueSnop, if_pos h0]
    rfl)

/-- A `sync` becomes an operation with its place and value (R197). -/
theorem sync_ends (h : Offers s u w .sync c) (hres : fld c 71 67 = 0) (hlo : 2 ≤ fld c 66 64) (hhi : fld c 66 64 < 5)
    (hal : (Ctx.ofUnit u w).va (fld c 111 72) % 8 = 0) :
    Ends (.sync (.seq u) c) s (entered s u w .any c (.sync ((Ctx.ofUnit u w).va (fld c 111 72)) (BitVec.ofNat 64 (fld c 63 0)))) :=
  h.ends_plain (form := anyForm) rfl rfl (code := 0) (by
    have hsc : ¬ fld c 66 64 ≤ 1 := by omega
    have hw : ¬ 5 ≤ fld c 66 64 := by omega
    change issueSync s (Ctx.ofUnit u w) c = _
    simp only [issueSync, hres, hal, hsc, hw, ne_eq, not_true_eq_false, decide_false, Bool.or_self, lowest_cons_false, lowest_nil, checked_zero]
    exact congrArg (Issued.st · 0) (cmdWarn_none _ _ c))

/-- An `fxregion` without cells ends the region at its base (R198). -/
theorem fxregion_frees (h : Offers s u w .fxregion c) (hres : fld c 27 0 = 0) (hal : (Ctx.ofUnit u w).va (fld c 111 72) % 16 = 0) (hn : fld c 71 40 = 0)
    (hreg : ∃ r ∈ s.fxregs, r.job = w.job ∧ r.vbase = (Ctx.ofUnit u w).va (fld c 111 72)) :
    Ends (.fxregion (.seq u) c) s
      (noted { s with fxregs := s.fxregs.filter fun r => !(r.job = w.job && r.vbase = (Ctx.ofUnit u w).va (fld c 111 72)) } u c) :=
  h.ends_plain (form := anyForm) rfl rfl (code := 0) (by
    have hmine : (s.fxregs.any fun r => decide (r.job = (Ctx.ofUnit u w).job) && decide (r.vbase = (Ctx.ofUnit u w).va (fld c 111 72))) = true := by
      obtain ⟨r, hr, hj, hv⟩ := hreg
      exact List.any_eq_true.2 ⟨r, hr, Bool.and_eq_true_iff.2 ⟨decide_eq_true hj, decide_eq_true hv⟩⟩
    change issueFxregion s (Ctx.ofUnit u w) c = _
    simp only [issueFxregion, hn, if_true, hres, hal, hmine, ne_eq, not_true_eq_false, decide_false, Bool.or_self, Bool.not_true, lowest_cons_false,
      lowest_nil, checked_zero]
    exact h.takes_effect)

/-- Regions of one kind of memory that share no cell with the job's others, and are not too many, are in range (R198). -/
theorem regions_apart {rs : List FxRegion} {cells : List (Nat × Nat)}
    (h : ∀ r ∈ rs, ∀ q ∈ r.pieces, ∀ p ∈ cells, p.1 + p.2 ≤ q.1 ∨ q.1 + q.2 ≤ p.1) :
    (rs.any fun r => r.pieces.any fun q => cells.any fun p => decide (p.1 < q.1 + q.2) && decide (q.1 < p.1 + p.2)) = false := by
  rw [List.any_eq_false]
  intro r hr hany
  obtain ⟨q, hq, hany⟩ := List.any_eq_true.1 hany
  obtain ⟨p, hp, hlt⟩ := List.any_eq_true.1 hany
  have hap := h r hr q hq p hp
  simp only [Bool.and_eq_true, decide_eq_true_eq] at hlt
  omega

/-- A region whose cells nothing holds back is added, its cells zeroed where that is asked (R198). -/
theorem region_performed {r : FxRegion} {ps : List (Nat × Phys × Nat)} {zero : Bool}
    (h : ∀ p ∈ ps, tierBusy s p.2.1 = false ∧ (zero = true → writeHeld s none p.2.1 p.2.2 = false)) :
    (Settled.region r (ps.map fun p => p.2) zero).perform s =
      some (if zero then ps.foldl (fun t p => writePhys t p.2.1 (List.replicate p.2.2 0)) { s with fxregs := s.fxregs ++ [r] }
        else { s with fxregs := s.fxregs ++ [r] }) := by
  have hheld : ((ps.map fun p => p.2).any fun p => tierBusy s p.1 || (zero && writeHeld s none p.1 p.2)) = false := by
    simp only [List.any_map, List.any_eq_false, Function.comp_apply]
    intro p hp
    obtain ⟨htier, hzero⟩ := h p hp
    cases zero with
    | false => simp [htier]
    | true => simp [htier, hzero rfl]
  simp only [Settled.perform, hheld, Bool.false_eq_true, if_false, List.foldl_map]

/-- An `fxregion` with cells adds its region (R198). -/
theorem fxregion_adds (h : Offers s u w .fxregion c) (hres : fld c 27 0 = 0) (hal : (Ctx.ofUnit u w).va (fld c 111 72) % 16 = 0) (hn : fld c 71 40 ≠ 0)
    (hw : fxWLegal (sfld c 39 29) = true) {ps : List (Nat × Phys × Nat)}
    (hps : mapRange s w.asid ((Ctx.ofUnit u w).va (fld c 111 72)) (16 * fld c 71 40) .atomic = .ok ps)
    (hfew : (regionsOf s w.job).length < 256) (hplace : fxPlacement ps = true)
    (hap : ∀ r ∈ regionsOf s w.job, ∀ q ∈ r.pieces, ∀ p ∈ dpaPieces ps, p.1 + p.2 ≤ q.1 ∨ q.1 + q.2 ≤ p.1)
    (hheld : ∀ p ∈ ps, tierBusy s p.2.1 = false ∧ (fld c 28 28 = 1 → writeHeld s none p.2.1 p.2.2 = false)) :
    let s1 : State := { s with fxregs := s.fxregs ++
      [{ job := w.job, asid := w.asid, vbase := (Ctx.ofUnit u w).va (fld c 111 72), pieces := dpaPieces ps, w := sfld c 39 29 }] }
    Ends (.fxregion (.seq u) c) s
      (noted (if fld c 28 28 = 1 then ps.foldl (fun t p => writePhys t p.2.1 (List.replicate p.2.2 0)) s1 else s1) u c) := by
  intro s1
  have hlen : ¬ 256 ≤ (regionsOf s w.job).length := Nat.not_le.2 hfew
  have hdo := region_performed (s := s) (zero := decide (fld c 28 28 = 1))
    (r := { job := w.job, asid := w.asid, vbase := (Ctx.ofUnit u w).va (fld c 111 72), pieces := dpaPieces ps, w := sfld c 39 29 }) (ps := ps)
    fun p hp => ⟨(hheld p hp).1, fun hz => (hheld p hp).2 (of_decide_eq_true hz)⟩
  simp only [decide_eq_true_eq] at hdo
  refine h.ends_plain (form := anyForm) rfl rfl (code := 0) ?_
  change issueFxregion s (Ctx.ofUnit u w) c = _
  simp only [issueFxregion, hn, if_false, hres, hal, hw, Ctx.ofUnit_asid, Ctx.ofUnit_job, hps, hlen, regions_apart hap, hplace, Got.issue, ne_eq,
    not_true_eq_false, decide_false, Bool.or_self, Bool.false_eq_true, Bool.not_true, checked_zero]
  exact h.settles hdo

/-- A `sync` whose earlier commands are done writes its value, and ends (R197). -/
theorem syncWrite_writes {n : OpId} {o : EngOp} {va : Nat} {val : Word} {s1 : State} (ho : kget s.ops n = some o) (hb : o.body = .sync va val)
    (hfin : o.fin = none) (hfault : o.fault = none) (hearlier : ∀ p ∈ s.ops, p.1 < n → p.2.byFabric = false → p.2.unit ≠ o.unit)
    (hst : storeVa s o.asid (some o.job) va (wordBytes val) = .ok s1) : syncWrite s n = finishOp s1 n 0 := by
  have hnone : (s.ops.any fun p => decide (p.1 < n) && !p.2.byFabric && decide (p.2.unit = o.unit)) = false := by
    simp only [List.any_eq_false, Bool.and_eq_true, decide_eq_true_eq, Bool.not_eq_true']
    intro p hp ⟨⟨hlt, hby⟩, hu⟩
    exact hearlier p hp hlt hby hu
  simp [syncWrite, ho, hb, hfin, hfault, hnone, hst]

/-- Settles O37: each command by the lemma on its issue, and SYNC_WRITE by what its store finds. -/
theorem syncAndRegions : Obligations.SyncAndRegions := by
  unfold Obligations.SyncAndRegions
  refine ⟨fun s u w c => ⟨fun h => ⟨snop_ends h, snop_refused h⟩, sync_ends, fun h hres hal => ⟨fxregion_frees h hres hal,
    fun hn hw ps hps hfew hplace hap hheld => fxregion_adds h hres hal hn hw hps hfew hplace hap hheld⟩⟩, ?_⟩
  intro s n o va val s1 ho hb hfin hfault hearlier hst
  exact ends_of_done rfl (syncWrite_writes ho hb hfin hfault hearlier hst)

end Sys2Proof.Machine
end

section
/-! SUPPORT. Entries of a sparse map that are put or changed twice, and entries other than the default, in maps of any order. -/

namespace Sys2Proof.Machine

variable {α : Type}

/-- The second entry put at a key stands. -/
theorem kput_kput (m : KMap α) (n : Nat) (x y : α) : kput (kput m n x) n y = kput m n y := by
  induction m with
  | nil => simp [kput]
  | cons p m ih =>
    obtain ⟨k, v⟩ := p
    by_cases hlt : n < k
    · simp [kput, hlt]
    · by_cases he : k = n
      · simp [kput, he]
      · simp [kput, hlt, he, ih]

/-- Two changes of an entry are one. -/
theorem kmod_kmod (m : KMap α) (n : Nat) (f g : α → α) : kmod (kmod m n f) n g = kmod m n fun x => g (f x) := by
  simp only [kmod, List.map_map]
  refine List.map_congr_left fun p _ => ?_
  by_cases h : p.1 = n <;> simp [h]

/-- What a put entry leaves of a map, below its key. -/
theorem any_below_kput (m : KMap α) (n : Nat) (x : α) (f : Nat × α → Bool) :
    ((kput m n x).any fun p => decide (p.1 < n) && f p) = m.any fun p => decide (p.1 < n) && f p := by
  induction m with
  | nil => simp [kput]
  | cons p m ih =>
    obtain ⟨k, v⟩ := p
    by_cases hlt : n < k
    · simp [kput, hlt]
    · by_cases he : k = n
      · simp [kput, he]
      · simp [kput, hlt, he, ih]

variable [DecidableEq α] {d x y : α}

/-- An entry other than the default is put. -/
theorem dset_of_ne (m : KMap α) (n : Nat) (h : x ≠ d) : dset d m n x = kput m n x := if_neg h

/-- An entry other than the default reads back. -/
theorem dget_dset_of_ne (m : KMap α) (n : Nat) (h : x ≠ d) : dget d (dset d m n x) n = x := by simp [dget, dset_of_ne m n h]

/-- The second of two entries other than the default stands. -/
theorem dset_dset_of_ne (m : KMap α) (n : Nat) (hx : x ≠ d) (hy : y ≠ d) : dset d (dset d m n x) n y = dset d m n y := by
  rw [dset_of_ne m n hx, dset_of_ne _ n hy, dset_of_ne m n hy, kput_kput]

end Sys2Proof.Machine
end

section
/-! SUPPORT. The `apr` commands build a record on a stream and start it (R199 to R203). -/

namespace Sys2Proof.Machine

open Sys2Proof.Safety

variable {s : State} {u : UnitId} {w : WorkUnit} {c : Cmd128}

/-! ## Streams -/

/-- A stream on which a record runs is not as after reset. -/
theorem running_ne_initial {x : Stream} {r : AprRec} (h : x.running = some r) : x ≠ Stream.initial := by
  rintro rfl
  cases h

/-- A stream with a record in its queue is not as after reset. -/
theorem queued_ne_initial {x : Stream} (h : x.queued ≠ []) : x ≠ Stream.initial := by
  rintro rfl
  exact h rfl

/-- A stream that is not as after reset reads back. -/
theorem streamOf_putStream (s : State) (die shv strm : Nat) {x : Stream} (h : x ≠ Stream.initial) : streamOf (putStream s die shv strm x) die shv strm = x :=
  dget_dset_of_ne s.streams _ h

/-- The second of two streams that are not as after reset stands. -/
theorem putStream_putStream (s : State) (die shv strm : Nat) {x y : Stream} (hx : x ≠ Stream.initial) (hy : y ≠ Stream.initial) :
    putStream (putStream s die shv strm x) die shv strm y = putStream s die shv strm y := by
  simp only [putStream, dset_dset_of_ne s.streams _ hx hy]

/-- A stream whose running record has not ended has no completion record to write. -/
theorem endRecord_running {die shv strm : Nat} {r : AprRec} (hr : (streamOf s die shv strm).running = some r) (hf : r.fin = none) :
    endRecord s die shv strm = s := by
  simp [endRecord, hr, hf]

/-- A queued record whose turn has come runs (R199, R116). -/
theorem startRecord_starts {die shv strm : Nat} {r : AprRec} {rest : List AprRec} {o : EngOp} (hrun : (streamOf s die shv strm).running = none)
    (hq : (streamOf s die shv strm).queued = r :: rest) (hfin : r.fin = none) (ho : kget s.ops r.op = some o) (hmay : mayStart s r.op o = true)
    (hafter : ∀ n ∈ r.after, opOver s n = true) :
    startRecord s die shv strm = putStream s die shv strm { streamOf s die shv strm with running := some r, queued := rest } := by
  have hall : r.after.all (opOver s) = true := List.all_eq_true.2 hafter
  simp only [startRecord, hrun, hq, ho, hmay, hall, Bool.and_self, if_true]
  exact endRecord_running (r := r) (by rw [streamOf_putStream _ _ _ _ (running_ne_initial (r := r) rfl)]) hfin

/-- Behind a record that runs none starts. -/
theorem startRecord_waits {die shv strm : Nat} {r : AprRec} (hrun : (streamOf s die shv strm).running = some r) : startRecord s die shv strm = s := by
  simp [startRecord, hrun]

/-! ## The open record -/

/-- An offered command of an open record is complete once it has changed the record. -/
theorem aprTurn_offered {o : Sopc} (h : Offers s u w o c) (he : o.engine = .sheave) (s1 : State) : aprTurn s s1 (Ctx.ofUnit u w) c = noted s1 u c := by
  have hser : serWaits s (Ctx.ofUnit u w) .sheave c = false := he ▸ h.not_serWaits
  simp only [aprTurn, hser, Bool.false_eq_true, if_false]
  rfl

/-- An offered command holds its record back behind nothing. -/
theorem serTurn_offered {o : Sopc} (h : Offers s u w o c) (he : o.engine = .sheave) : s.serTurn (Ctx.ofUnit u w) c = [] := by
  have hser : serWaits s (Ctx.ofUnit u w) .sheave c = false := he ▸ h.not_serWaits
  simp [State.serTurn, hser]

/-- The state in which the stream that a command names has an open record (R199). -/
def reopened (s : State) (u : UnitId) (w : WorkUnit) (c : Cmd128) (r : AprRec) : State :=
  noted (putStream s w.tp.die (fld c 111 108) (fld c 107 104) { streamFor s u w.tp.die (fld c 111 108) (fld c 107 104) with opened := some r }) u c

/-- The record that `apr.load` and `apr.store` open (R199). -/
def openedRec (u : UnitId) (w : WorkUnit) (c : Cmd128) (store : Bool) : AprRec :=
  let d : AprDim := { count := 1, valid := 1, stride := 0 }
  { op := 0, unit := u, after := [], store := store, fmt := BitVec.ofNat 4 (fld c 103 100), vs40 := fld c 99 99 = 1,
    cvm := BitVec.ofNat 2 (fld c 98 97), hdr := fld c 96 96 = 1, blen := fld c 95 88, base := (Ctx.ofUnit u w).va (fld c 79 40),
    dims := [d, d, d, d], pad := 0, recVa := 0, scales := 0, scv := false, pos := 0, padn := 0, hdrs := 0, hdrSent := false,
    conv := Flags.none, fin := none, owed := false }

/-- A field of four bits, as a type number. -/
theorem type_field (hi lo : Nat) (h : hi + 1 - lo = 4) (k : Nat) (hk : k < 16) : BitVec.ofNat 4 (fld c hi lo) = BitVec.ofNat 4 k ↔ fld c hi lo = k := by
  have hlt : fld c hi lo < 16 := by
    calc fld c hi lo < 2 ^ (hi + 1 - lo) := (c.extractLsb' lo (hi + 1 - lo)).isLt
      _ = 16 := by simp [h]
  rw [← BitVec.toNat_inj, BitVec.toNat_ofNat, BitVec.toNat_ofNat, Nat.mod_eq_of_lt hlt, Nat.mod_eq_of_lt hk]

/-- `apr.load` and `apr.store` with admitted fields open a record, on a stream that holds an open one or has room (R199; log entry 166). -/
theorem aprOpen_opens {o : Sopc} {store : Bool} (h : Offers s u w o c) (he : o.engine = .sheave) (h1 : fld c 87 80 = 0) (h2 : fld c 39 0 = 0)
    (h15 : fld c 103 100 ≠ 15) (h7 : ¬ (fld c 103 100 = 7 ∧ fld c 99 99 = 1)) (hcvm : fld c 98 97 ≠ 3) (hload : store = false → fld c 98 97 = 0)
    (hstore : store = true → fld c 103 100 ≠ 14)
    (hroom : (streamFor s u w.tp.die (fld c 111 108) (fld c 107 104)).opened.isSome ∨ (streamFor s u w.tp.die (fld c 111 108) (fld c 107 104)).held < 4) :
    issueAprOpen store s (Ctx.ofUnit u w) c = .st (reopened s u w c (openedRec u w c store)) 0 := by
  have ht15 : BitVec.ofNat 4 (fld c 103 100) ≠ 15 := fun e => h15 ((type_field 103 100 rfl 15 (by decide)).1 e)
  have ht7 : ¬ (BitVec.ofNat 4 (fld c 103 100) = 7 ∧ fld c 99 99 = 1) := fun e => h7 ⟨(type_field 103 100 rfl 7 (by decide)).1 e.1, e.2⟩
  have ht14 : store = true → BitVec.ofNat 4 (fld c 103 100) ≠ 14 := fun hs e => hstore hs ((type_field 103 100 rfl 14 (by decide)).1 e)
  have hform : (decide (fld c 87 80 ≠ 0) || decide (fld c 39 0 ≠ 0) || (!store && decide (fld c 98 97 ≠ 0))) = false := by
    cases store <;> simp_all
  have htype : (decide (BitVec.ofNat 4 (fld c 103 100) = 15) || (decide (BitVec.ofNat 4 (fld c 103 100) = 7) && decide (fld c 99 99 = 1)) ||
      (store && decide (BitVec.ofNat 4 (fld c 103 100) = 14))) = false := by
    cases store <;> simp_all
  have hfree : ((streamFor s u w.tp.die (fld c 111 108) (fld c 107 104)).opened.isNone &&
      decide (4 ≤ (streamFor s u w.tp.die (fld c 111 108) (fld c 107 104)).held)) = false := by
    rcases hroom with ho | hh
    · simp [Option.isSome_iff_ne_none.1 ho]
    · simp [Nat.not_le.2 hh]
  simp only [issueAprOpen, Ctx.ofUnit_unitNo, Ctx.ofUnit_die, hform, htype, hcvm, lowest_cons_false, lowest_nil, checked_zero, decide_false, if_false,
    serTurn_offered h he, aprTurn_offered h he]
  calc _ = _ := if_neg fun e => Bool.noConfusion (hfree.symm.trans e)
    _ = _ := congrArg (fun t => Issued.st (noted t u c) 0) (cmdWarn_none _ _ c)

/-- A command of an open record that is not refused changes it (R199). -/
theorem changeRec_changes {o : Sopc} {r : AprRec} {f : AprRec → AprRec} (h : Offers s u w o c) (he : o.engine = .sheave)
    (hr : (streamFor s u w.tp.die (fld c 111 108) (fld c 107 104)).opened = some r) (hafter : (f r).after = r.after) :
    changeRec s (Ctx.ofUnit u w) c 0 f = .st (reopened s u w c (f r)) 0 := by
  simp only [changeRec, Ctx.ofUnit_unitNo, Ctx.ofUnit_die, hr, checked_zero, serTurn_offered h he, aprTurn_offered h he, List.append_nil, ← hafter]
  rfl

/-- `apr.dim` sets a dimension (R199). -/
theorem aprDim_sets {r : AprRec} (hr : (streamFor s u w.tp.die (fld c 111 108) (fld c 107 104)).opened = some r) (h : Offers s u w .aprDim c)
    (hres : fld c 101 96 = 0) (hn : fld c 95 64 ≠ 0) :
    Ends (.aprDim (.seq u) c) s (reopened s u w c
      { r with dims := setAt r.dims (fld c 103 102) { count := fld c 95 64, valid := fld c 63 32, stride := sfld c 31 0 } }) :=
  h.ends_plain (form := anyForm) rfl rfl (code := 0) (by
    change issueAprDim s (Ctx.ofUnit u w) c = _
    simp only [issueAprDim, hres, hn, ne_eq, not_true_eq_false, decide_false, lowest_cons_false, lowest_nil]
    exact changeRec_changes h rfl hr rfl)

/-- `apr.pad` sets the pad word (R199). -/
theorem aprPad_sets {r : AprRec} (hr : (streamFor s u w.tp.die (fld c 111 108) (fld c 107 104)).opened = some r) (h : Offers s u w .aprPad c)
    (hres : fld c 63 0 = 0) :
    Ends (.aprPad (.seq u) c) s (reopened s u w c { r with pad := BitVec.ofNat 40 (fld c 103 64) }) :=
  h.ends_plain (form := anyForm) rfl rfl (code := 0) (by
    change issueAprPad s (Ctx.ofUnit u w) c = _
    simp only [issueAprPad, hres, ne_eq, not_true_eq_false, decide_false, lowest_cons_false, lowest_nil]
    exact changeRec_changes h rfl hr rfl)

/-! ## The end of the record -/

/-- The record that `apr.end` closes, with its operation, the place of its completion record and its scales (R199). -/
def closedRec (s : State) (u : UnitId) (w : WorkUnit) (c : Cmd128) (r : AprRec) : AprRec :=
  { r with op := s.nextId, recVa := (Ctx.ofUnit u w).va (fld c 103 64), scales := (Ctx.ofUnit u w).va (fld c 63 24), scv := fld c 16 16 = 1 }

/-- The stream on which `apr.end` has queued its record. -/
def closedStream (s : State) (u : UnitId) (w : WorkUnit) (c : Cmd128) (r : AprRec) : Stream :=
  let st := streamFor s u w.tp.die (fld c 111 108) (fld c 107 104)
  { st with opened := none, queued := st.queued ++ [closedRec s u w c r] }

/-- `apr.end` closes the open record and enters its operation: the record is queued, and starts where it may (R199). -/
theorem aprEnd_closes {r : AprRec} (hr : (streamFor s u w.tp.die (fld c 111 108) (fld c 107 104)).opened = some r)
    (h1 : fld c 23 17 = 0) (h2 : fld c 15 0 = 0) (hal : (Ctx.ofUnit u w).va (fld c 103 64) % 32 = 0) (hfmt : r.fmt ≠ 7)
    (hbinds : bindsStream s u w.tp.die (fld c 111 108) (fld c 107 104) = some (if r.store then 1 else 0)) :
    issueAprEnd s (Ctx.ofUnit u w) c = .st (startRecord (putStream (entered s u w .sheave c (.record (fld c 111 108) (fld c 107 104))) w.tp.die
      (fld c 111 108) (fld c 107 104) (closedStream s u w c r)) w.tp.die (fld c 111 108) (fld c 107 104)) 0 := by
  simp only [issueAprEnd, Ctx.ofUnit_unitNo, Ctx.ofUnit_die, hr, h1, h2, hal, hfmt, hbinds, ne_eq, not_true_eq_false, decide_false, Bool.false_and,
    Bool.or_self, lowest_cons_false, lowest_nil, checked_zero, if_false]
  rfl

section
variable {r : AprRec} (h : Offers s u w .aprEnd c) (hr : (streamFor s u w.tp.die (fld c 111 108) (fld c 107 104)).opened = some r)
  (h1 : fld c 23 17 = 0) (h2 : fld c 15 0 = 0) (hal : (Ctx.ofUnit u w).va (fld c 103 64) % 32 = 0) (hfmt : r.fmt ≠ 7)
  (hbinds : bindsStream s u w.tp.die (fld c 111 108) (fld c 107 104) = some (if r.store then 1 else 0))
include h hr h1 h2 hal hfmt hbinds

/-- On a free stream the record runs at once, unless it waits under SER (R199). -/
theorem aprEnd_runs (hfin : r.fin = none) (hafter : r.after = []) (hser : cmdSer c = false)
    (hrun : (streamFor s u w.tp.die (fld c 111 108) (fld c 107 104)).running = none)
    (hq : (streamFor s u w.tp.die (fld c 111 108) (fld c 107 104)).queued = []) :
    Ends (.aprEnd (.seq u) c) s (putStream (entered s u w .sheave c (.record (fld c 111 108) (fld c 107 104))) w.tp.die (fld c 111 108) (fld c 107 104)
      { streamFor s u w.tp.die (fld c 111 108) (fld c 107 104) with opened := none, running := some (closedRec s u w c r) }) := by
  have hne : closedStream s u w c r ≠ Stream.initial := queued_ne_initial (by simp [closedStream])
  have hst := streamOf_putStream (entered s u w .sheave c (.record (fld c 111 108) (fld c 107 104))) w.tp.die (fld c 111 108) (fld c 107 104) hne
  have hstart := startRecord_starts (die := w.tp.die) (shv := fld c 111 108) (strm := fld c 107 104) (r := closedRec s u w c r) (rest := [])
    (s := putStream (entered s u w .sheave c (.record (fld c 111 108) (fld c 107 104))) w.tp.die (fld c 111 108) (fld c 107 104) (closedStream s u w c r))
    (o := (Ctx.ofUnit u w).op .sheave c (.record (fld c 111 108) (fld c 107 104)) {})
    (by rw [hst]; exact hrun) (by rw [hst]; simp [closedStream, hq]) hfin (kget_kput_same _ _ _) (by simp [mayStart, Ctx.op, hser])
    (by simp [closedRec, hafter])
  rw [hst, putStream_putStream _ _ _ _ hne (running_ne_initial (r := closedRec s u w c r) rfl)] at hstart
  refine h.ends_plain (form := anyForm) rfl rfl (code := 0) ((aprEnd_closes hr h1 h2 hal hfmt hbinds).trans ?_)
  rw [hstart]
  simp only [closedStream, hq]

/-- Behind a record that runs it is queued (R199). -/
theorem aprEnd_queues {r0 : AprRec} (hrun : (streamFor s u w.tp.die (fld c 111 108) (fld c 107 104)).running = some r0) :
    Ends (.aprEnd (.seq u) c) s (putStream (entered s u w .sheave c (.record (fld c 111 108) (fld c 107 104))) w.tp.die (fld c 111 108) (fld c 107 104)
      (closedStream s u w c r)) := by
  have hne : closedStream s u w c r ≠ Stream.initial := queued_ne_initial (by simp [closedStream])
  refine h.ends_plain (form := anyForm) rfl rfl (code := 0) ((aprEnd_closes hr h1 h2 hal hfmt hbinds).trans ?_)
  rw [startRecord_waits (r := r0) (by rw [streamOf_putStream _ _ _ _ hne]; exact hrun)]

end

end Sys2Proof.Machine
end

section
/-! SUPPORT. The sheave moves the tokens of the record that runs on a stream (R201, R202), and the statement on sheave records, settled. -/

namespace Sys2Proof.Machine

open Sys2Proof.Safety

section
variable {s : State} {die shv strm : Nat} {r : AprRec} {o : EngOp} {key n : Nat} {t : Token}
  (hrun : (streamOf s die shv strm).running = some r) (hfin : r.fin = none) (howed : r.owed = false) (ho : kget s.ops r.op = some o)
  (hfault : o.fault = none)
include hrun hfin ho hfault

/-! ## Loads (R201) -/

section
variable (hload : r.store = false) (hport : findPort s r.unit die 0 shv strm = some (key, n)) (hopen : portsOpen s key = true)
  (hroom : portRoom s key n = true)
include howed hload hport hopen hroom

/-- Where a block begins, a load emits its header, with the SCALE read. -/
theorem sheaveLoad_header (hopens : (r.hdr && !r.hdrSent && decide (r.pos % (r.blen + 1) = 0)) = true) {sc : BitVec 8}
    (hsc : (if r.scv then loadVa s o.asid die ((r.scales + r.pos / (r.blen + 1)) % 2 ^ 57) 1 none else .ok [127]) = .ok [sc]) :
    sheaveLoad s die shv strm = setRun (portEmit (opReads s r.op) key n (loadHeader r sc)) die shv strm { r with hdrSent := true } := by
  simp only [sheaveLoad, endRecord_running hrun hfin, hrun, ho, hload, hfin, hfault, hport, hopen, hroom, howed, hopens, hsc, Option.isSome_none,
    Bool.false_and, Bool.or_self, Bool.not_true, Bool.false_eq_true, if_false, if_true, List.headD_cons]

/-- Elsewhere a load emits the positions that its next data token takes. -/
theorem sheaveLoad_data (hopens : (r.hdr && !r.hdrSent && decide (r.pos % (r.blen + 1) = 0)) = false) {vs : List Lane} {fl : Flags} {pads : Nat}
    (hread : readSpan s o r (tokenSpan r) r.pos = .ok (vs, fl, pads)) :
    sheaveLoad s die shv strm = endRecord (setRun (portEmit (opReads s r.op) key n
        (Token.make (fun i => vs.getD i 0) (BitVec.ofNat 16 (2 ^ tokenSpan r - 1)) .data)) die shv strm
      { r with pos := r.pos + tokenSpan r, padn := r.padn + pads, hdrSent := false, conv := r.conv.or fl,
               fin := if r.pos + tokenSpan r = r.total then some 0 else none }) die shv strm := by
  simp only [sheaveLoad, endRecord_running hrun hfin, hrun, ho, hload, hfin, hfault, hport, hopen, hroom, howed, hopens, hread, Option.isSome_none,
    Bool.false_and, Bool.or_self, Bool.not_true, Bool.false_eq_true, if_false]

end

/-! ## Stores (R202) -/

section
variable (hstore : r.store = true) (hport : findPort s r.unit die 1 shv strm = some (key, n)) (hopen : portsOpen s key = true)
  (hhead : portHead s key n = some t)
include hstore hport hopen hhead

/-- A store takes a header, latches it at its port and counts it. -/
theorem sheaveStore_header (hcls : t.cls = .header) (hscv : (r.hdr && r.scv) = false) :
    sheaveStore s die shv strm = setRun (portPop (portLatch s key n t) key n) die shv strm { r with hdrs := r.hdrs + 1 } := by
  simp only [sheaveStore, endRecord_running hrun hfin, hrun, ho, hstore, hfin, hfault, hport, hopen, hhead, hcls, hscv, Option.isSome_none,
    Bool.or_self, Bool.not_true, Bool.false_eq_true, if_false, if_true]

/-- With SCALES it stores the SCALE byte of the header too. -/
theorem sheaveStore_scale (hcls : t.cls = .header) (hscv : (r.hdr && r.scv) = true) {s1 : State}
    (hst : storeVa s o.asid (some o.job) ((r.scales + r.hdrs) % 2 ^ 57) [(t.lane 0).setWidth 8] = .ok s1) :
    sheaveStore s die shv strm =
      setRun (portPop (portLatch (opReads s1 r.op) key n t) key n) die shv strm { r with hdrs := r.hdrs + 1 } := by
  simp only [sheaveStore, endRecord_running hrun hfin, hrun, ho, hstore, hfin, hfault, hport, hopen, hhead, hcls, hscv, hst, Option.isSome_none,
    Bool.or_self, Bool.not_true, Bool.false_eq_true, if_false, if_true]

/-- It stores the valid lanes of a data token at its next positions. -/
theorem sheaveStore_data (hpoison : t.cls ≠ .poison) (hheader : t.cls ≠ .header) {f : Filled}
    (hf : fillLanes o (portScale s key n) t (lanesOf t.mask) { s := s, r := r, left := t.mask, bad := none } = f) (hbad : f.bad = none) :
    sheaveStore s die shv strm = endRecord (setRun (portKeep (opReads f.s r.op) key n f.left) die shv strm
      { f.r with fin := if f.r.pos = f.r.total then some 0 else none }) die shv strm := by
  simp only [sheaveStore, endRecord_running hrun hfin, hrun, ho, hstore, hfin, hfault, hport, hopen, hhead, hf, hbad, Option.isSome_none,
    Bool.or_self, Bool.not_true, Bool.false_eq_true, if_false, if_true]

end

end

/-- Settles O38: the commands of a record by the lemmas on its stream, and the moves of the sheave by what stands at its port. -/
theorem sheaveRecords : Obligations.SheaveRecords := by
  unfold Obligations.SheaveRecords
  refine ⟨?commands, ?moves⟩
  case commands =>
    intro s u w c shv strm x st d opens sets
    refine ⟨fun h1 h2 h15 h7 hroom => ⟨fun h hcvm => ?_, fun h hcvm h14 => ?_⟩, fun r hr => ⟨aprDim_sets hr, aprPad_sets hr, ?_⟩⟩
    · exact h.ends_plain (form := anyForm) rfl rfl (aprOpen_opens (store := false) h rfl h1 h2 h15 h7 (by omega) (fun _ => hcvm) nofun hroom)
    · exact h.ends_plain (form := anyForm) rfl rfl (aprOpen_opens (store := true) h rfl h1 h2 h15 h7 hcvm nofun (fun _ => h14) hroom)
    · intro h h1 h2 hal hfmt hfin hafter hser hbinds r1 s1
      exact ⟨aprEnd_runs h hr h1 h2 hal hfmt hbinds hfin hafter hser, fun r0 hrun => aprEnd_queues h hr h1 h2 hal hfmt hbinds hrun⟩
  case moves =>
    intro s k o st
    refine ⟨fun r rest hrun hq hfin ho hmay hafter => ends_of_done rfl (startRecord_starts hrun hq hfin ho hmay hafter), ?_,
      fun h r x => by cases h <;> rfl⟩
    intro r key n hrun hfin howed ho hfault
    refine ⟨fun hload hport hopen hroom => ⟨fun hopens sc hsc => ?_, fun hopens vs fl pads hread => ?_⟩,
      fun hstore hport hopen t hhead => ⟨fun hcls => ⟨fun hscv => ?_, fun hscv s1 hst => ?_⟩, fun hpoison hheader hbad => ?_⟩⟩
    · exact ends_of_done rfl (sheaveLoad_header hrun hfin howed ho hfault hload hport hopen hroom hopens hsc)
    · exact ends_of_done rfl (sheaveLoad_data hrun hfin howed ho hfault hload hport hopen hroom hopens hread)
    · exact ends_of_done rfl (sheaveStore_header hrun hfin ho hfault hstore hport hopen hhead hcls hscv)
    · exact ends_of_done rfl (sheaveStore_scale hrun hfin ho hfault hstore hport hopen hhead hcls hscv hst)
    · exact ends_of_done rfl (sheaveStore_data hrun hfin ho hfault hstore hport hopen hhead hpoison hheader rfl hbad)

end Sys2Proof.Machine
end

section
/-! SUPPORT. The `cpt` commands and permits (R205, R206, R208, R212, R213). -/

namespace Sys2Proof.Machine

open Sys2Proof.Safety

variable {s : State} {u : UnitId} {w : WorkUnit} {c : Cmd128}

/-! ## Templates (R205, R206) -/

/-- `cpt.def` makes a fresh definition of a template that its context holds (R205). -/
theorem cptDef_defines (h : Offers s u w .cptDef c) (hres : fld c 23 0 = 0) (hhold : (tmplOf s w.tp.die (fld c 111 104)).holder = some w.asid) :
    Ends (.cptDef (.seq u) c) s (noted (putTmpl s w.tp.die (fld c 111 104)
      { holder := some w.asid, def_ := some (TmplDef.fresh ((Ctx.ofUnit u w).va (fld c 103 64)) ((Ctx.ofUnit u w).va (fld c 63 24))) }) u c) :=
  h.ends_plain (form := anyForm) rfl rfl (code := 0) (by
    change issueCptDef s (Ctx.ofUnit u w) c = _
    simp only [issueCptDef, Ctx.ofUnit_die, Ctx.ofUnit_asid, hres, hhold, ne_eq, not_true_eq_false, decide_false, lowest_cons_false, lowest_nil,
      checked_zero]
    exact h.takes_effect)

/-- `cpt.dim` sets the part of a definition that it names (R206). -/
theorem cptDim_sets (h : Offers s u w .cptDim c) (hhold : (tmplOf s w.tp.die (fld c 111 104)).holder = some w.asid) {d : TmplDef}
    (hd : (tmplOf s w.tp.die (fld c 111 104)).def_ = some d) (hok : (cptDimPart (Ctx.ofUnit u w) c d).1 = 0) :
    Ends (.cptDim (.seq u) c) s (noted (putTmpl s w.tp.die (fld c 111 104)
      { holder := some w.asid, def_ := some (cptDimPart (Ctx.ofUnit u w) c d).2 }) u c) :=
  h.ends_plain (form := anyForm) rfl rfl (code := 0) (by
    change issueCptDim s (Ctx.ofUnit u w) c = _
    simp only [issueCptDim, Ctx.ofUnit_die, Ctx.ofUnit_asid, hhold, hd, hok, Option.getD_some, Option.isNone_some, ne_eq, not_true_eq_false,
      decide_false, lowest_cons_false, lowest_nil, checked_zero]
    exact h.takes_effect)

/-! ## The start of a copy (R208) -/

/-- Where each of some pages translates, none meets a cause. -/
theorem pageMeets_placed {asid : BitVec 12} {ps : List (Nat × Nat)} (h : ∀ p ∈ ps, ∃ q, place s asid p.1 p.2 .write = .ok q) (cause : BitVec 16) :
    pageMeets s asid ps cause = false := by
  rw [pageMeets, List.any_eq_false]
  intro p hp
  obtain ⟨q, hq⟩ := h p hp
  simp [hq]

/-- A copy of a template that its context holds, whose pattern is in range and whose pages translate, starts (R208). -/
theorem startCopy_starts {o : EngOp} {ch t : Nat} {sd dd : Int} {d : TmplDef} {ws : List Win} (hd : (tmplOf s o.die t).def_ = some d)
    (hhold : (tmplOf s o.die t).holder = some o.asid) (hrange : d.badRange dd = false)
    (hpages : ∀ p ∈ copyPages d dd, ∃ q, place s o.asid p.1 p.2 .write = .ok q)
    (hws : copyWindows s o.asid s.nextId d dd (List.range d.ntile) = .ok ws) :
    let k : Chan := chanOf s o.die ch
    let cp : Copy := { op := s.nextId, asid := o.asid, job := o.job, def_ := d, sdisp := sd, ddisp := dd, first := k.ctr.toNat + 1,
                       tile := 0, at_ := 0, landed := 0, permits := 0, granted := false, saved := [], cut := [] }
    let s1 := putChan s o.die ch { k with ctr := k.ctr + BitVec.ofNat 40 d.ntile, copies := k.copies ++ [cp],
                                          bwm := if k.copies.isEmpty then BitVec.ofNat 57 (offsetVa d.dst dd) else k.bwm }
    startCopy s o ch t sd dd false = .ok ((addOp { s1 with wins := s1.wins ++ ws } { o with body := .copy ch }).1, 0) := by
  intro k cp s1
  simp only [startCopy, hd, hhold, hrange, hws, pageMeets_placed hpages, Option.getD_some, Option.isSome_some, Option.isNone_some, Bool.and_false,
    Bool.not_false, Bool.and_self, Bool.or_self, if_true, ne_eq, not_true_eq_false, decide_false, lowest_cons_false, lowest_nil, if_false]
  rfl

/-- `cpt.go` starts a copy of a defined template on a channel that its context holds (R208). -/
theorem cptGo_starts (hchan : (chanOf s w.tp.die (fld c 111 107)).holder = some w.asid) (h : Offers s u w .cptGo c) (h1 : fld c 106 104 = 0)
    (h2 : fld c 15 0 = 0) {d : TmplDef} {ws : List Win} (hd : (tmplOf s w.tp.die (fld c 103 96)).def_ = some d)
    (hhold : (tmplOf s w.tp.die (fld c 103 96)).holder = some w.asid) (hrange : d.badRange (sfld c 55 16) = false)
    (hpages : ∀ p ∈ copyPages d (sfld c 55 16), ∃ q, place s w.asid p.1 p.2 .write = .ok q)
    (hws : copyWindows s w.asid s.nextId d (sfld c 55 16) (List.range d.ntile) = .ok ws) :
    let k : Chan := chanOf s w.tp.die (fld c 111 107)
    let cp : Copy := { op := s.nextId, asid := w.asid, job := w.job, def_ := d, sdisp := sfld c 95 56, ddisp := sfld c 55 16,
                       first := k.ctr.toNat + 1, tile := 0, at_ := 0, landed := 0, permits := 0, granted := false, saved := [], cut := [] }
    let k1 : Chan := { k with ctr := k.ctr + BitVec.ofNat 40 d.ntile, copies := k.copies ++ [cp],
                              bwm := if k.copies.isEmpty then BitVec.ofNat 57 (offsetVa d.dst (sfld c 55 16)) else k.bwm }
    Ends (.cptGo (.seq u) c) s
      { putChan (entered s u w .bte c (.copy (fld c 111 107))) w.tp.die (fld c 111 107) k1 with wins := s.wins ++ ws } := by
  intro k cp k1
  refine h.ends_plain (form := anyForm) rfl rfl (code := 0) ?_
  change issueCptGo s (Ctx.ofUnit u w) c = _
  have hstart := startCopy_starts (s := s) (o := (Ctx.ofUnit u w).op .bte c (.copy (fld c 111 107)) {}) (ch := fld c 111 107) (sd := sfld c 95 56)
    hd hhold hrange hpages hws
  simp only [issueCptGo, Ctx.ofUnit_die, Ctx.ofUnit_asid, hchan, h1, h2, hstart, ne_eq, not_true_eq_false, decide_false, Bool.or_self, if_false]
  rfl

/-! ## Cancels and permits (R212, R213) -/

/-- `cpt.cancel` ends the tiles of a channel up to a number, with STATUS 7 (R212). -/
theorem cptCancel_cuts (hchan : (chanOf s w.tp.die (fld c 111 107)).holder = some w.asid) (h : Offers s u w .cptCancel c) (hres : fld c 106 40 = 0) :
    Ends (.cptCancel (.seq u) c) s
      (noted (cutCopies s w.tp.die (fld c 111 107) (fld c 39 0) 7 fun k => k.tile < k.def_.ntile) u c) :=
  h.ends_plain (form := anyForm) rfl rfl (code := 0) (by
    change issueCptCancel s (Ctx.ofUnit u w) c = _
    simp only [issueCptCancel, Ctx.ofUnit_die, Ctx.ofUnit_asid, hchan, hres, ne_eq, not_true_eq_false, decide_false, lowest_cons_false, lowest_nil,
      checked_zero]
    exact h.takes_effect)

/-- `mc.permit` adds its count to PCNT (R213). -/
theorem mcPermit_adds (hchan : (chanOf s w.tp.die (fld c 111 107)).holder = some w.asid) (h : Offers s u w .mcPermit c) (hres : fld c 106 16 = 0)
    (hn : fld c 15 0 ≠ 0) :
    Ends (.mcPermit (.seq u) c) s (noted (addPermits s w.tp.die (fld c 111 107) (fld c 15 0)) u c) :=
  h.ends_plain (form := anyForm) rfl rfl (code := 0) (by
    change issueMcPermit s (Ctx.ofUnit u w) c = _
    simp only [issueMcPermit, Ctx.ofUnit_die, Ctx.ofUnit_asid, hchan, hres, hn, ne_eq, not_true_eq_false, decide_false, Bool.or_self,
      lowest_cons_false, lowest_nil, checked_zero]
    exact h.takes_effect)

/-- A token that is no poison adds one permit at a permit port of a unit whose context holds the channel (R213). -/
theorem permitPort_adds {tp : Tp} {n : Nat} {img : Image} {p : PortBind} {t : Token} (himg : kget s.images tp.key = some img)
    (hp : img.ports[n]? = some p) (hkind : p.kind = 2) (ht : portHead s tp.key n = some t) (hu : kget s.units img.unit = some w)
    (hl : w.life = .bound) (hc : w.cancelled = false) (hhold : (chanOf s img.die p.chan).holder = some w.asid) (hcls : t.cls ≠ .poison) :
    permitPort s tp n = addPermits (portPop s tp.key n) img.die p.chan 1 := by
  have hopen : portsOpen s tp.key = true := by simp [portsOpen, himg, hu, hl, hc]
  simp [permitPort, himg, hp, ht, hu, hkind, hopen, hhold, hcls]

end Sys2Proof.Machine
end

section
/-! SUPPORT. The pattern of a tile (R207): where each dimension steps past the span of those below it, later bytes have higher offsets. -/

namespace Sys2Proof.Machine

/-- The number of index vectors of some counts. -/
theorem patTotal_cons (n : Nat) (ns : List Nat) : (n :: ns).foldl (fun a n => a * n) 1 = n * ns.foldl (fun a n => a * n) 1 := by
  have hprod (l : List Nat) (a : Nat) : l.foldl (fun a n => a * n) a = a * l.prod := by
    induction l generalizing a with
    | nil => simp
    | cons m l ih => rw [List.foldl_cons, ih, List.prod_cons, Nat.mul_assoc]
  rw [hprod, hprod, Nat.one_mul, Nat.one_mul, List.prod_cons]

/-- Of two index vectors of which the first comes before, the second lies at least a span further, where each dimension steps past the span of those
below it (R207). -/
theorem dotInt_patIndex_lt {ns : List Nat} {ds : List Int} {span : Int} (hlen : ns.length = ds.length) (h : stridesOk ns ds span = true) (h0 : 0 ≤ span)
    {p q : Nat} (hpq : p < q) (hq : q < ns.foldl (fun a n => a * n) 1) : dotInt (patIndex ns p) ds + span ≤ dotInt (patIndex ns q) ds := by
  induction ns generalizing ds span p q with
  | nil => simp only [List.foldl_nil] at hq; omega
  | cons n ns ih =>
    cases ds with
    | nil => simp at hlen
    | cons d ds =>
      rw [patTotal_cons] at hq
      have hn : 0 < n := Nat.pos_of_ne_zero fun e => by simp [e] at hq
      simp only [stridesOk, Bool.and_eq_true, Bool.or_eq_true, decide_eq_true_eq] at h
      obtain ⟨hd, hrest⟩ := h
      simp only [patIndex, dotInt]
      have hi : p % n < n := Nat.mod_lt _ hn
      have hj : q % n < n := Nat.mod_lt _ hn
      rcases Nat.lt_or_ge (p / n) (q / n) with houter | houter
      · have hd0 : (n : Int) - 1 = 0 ∨ 0 ≤ d := by omega
        have hstep : 0 ≤ ((n - 1 : Nat) : Int) * d := by
          rcases hd0 with h1 | hd0
          · have : n - 1 = 0 := by omega
            simp [this]
          · exact mul_nonneg (Int.natCast_nonneg _) hd0
        have hout := ih (by simpa using hlen) hrest (by omega) houter (Nat.div_lt_of_lt_mul hq)
        have hin : ((p % n : Nat) : Int) * d ≤ ((n - 1 : Nat) : Int) * d + ((q % n : Nat) : Int) * d := by
          rcases hd0 with h1 | hd0
          · have hp0 : p % n = 0 := by omega
            have hq0 : q % n = 0 := by omega
            simpa [hp0, hq0] using hstep
          · rw [← Int.add_mul]
            exact Int.mul_le_mul_of_nonneg_right (by omega) hd0
        omega
      · have hdiv : p / n = q / n := Nat.le_antisymm (Nat.div_le_div_right hpq.le) houter
        have hmod : p % n < q % n := by
          have hp := Nat.div_add_mod p n
          have hq' := Nat.div_add_mod q n
          rw [hdiv] at hp
          omega
        have hspan : span ≤ d := by omega
        have hin : ((p % n : Nat) : Int) * d + d ≤ ((q % n : Nat) : Int) * d := by
          calc ((p % n : Nat) : Int) * d + d = ((p % n : Nat) + 1) * d := by ring
            _ ≤ ((q % n : Nat) : Int) * d := Int.mul_le_mul_of_nonneg_right (by omega) (by omega)
        rw [hdiv]
        omega

/-- In a pattern that R207 admits, later bytes have higher offsets. -/
theorem patOffset_lt {d : TmplDef} {disp : Int} {p q : Nat} (hok : d.badRange disp = false) (hlen : d.counts.length = d.dstr.length) (hpq : p < q)
    (hq : q < d.total) : patOffset (patIndex d.counts p) d.dstr < patOffset (patIndex d.counts q) d.dstr := by
  have hstrides : stridesOk d.counts.tail d.dstr.tail (d.counts.headD 1) = true := by
    simp only [TmplDef.badRange, Bool.or_eq_false_iff, Bool.not_eq_false'] at hok
    exact hok.1.1.2
  rw [TmplDef.total] at hq
  cases hc : d.counts with
  | nil => simp only [hc, List.foldl_nil] at hq; omega
  | cons n ns =>
    cases hs : d.dstr with
    | nil => simp [hc, hs] at hlen
    | cons e ds =>
      simp only [hc, hs, List.tail_cons, List.headD_cons, List.length_cons] at hstrides hlen
      rw [hc] at hq
      have hall : stridesOk (n :: ns) (1 :: ds) 1 = true := by
        have hn : 0 < n := Nat.pos_of_ne_zero fun e => by
          rw [patTotal_cons, e, Nat.zero_mul] at hq
          omega
        have hspan : 1 + ((n - 1 : Nat) : Int) = n := by omega
        simpa [stridesOk, hspan] using hstrides
      have hlt := dotInt_patIndex_lt (ns := n :: ns) (ds := 1 :: ds) (by simpa using hlen) hall (by omega) hpq hq
      simp only [patIndex, dotInt, patOffset, List.headD_cons, List.tail_cons] at hlt ⊢
      omega

end Sys2Proof.Machine
end

section
/-! SUPPORT. The landing of a copy (R209), and the statement on copies, settled. -/

namespace Sys2Proof.Machine

open Sys2Proof.Safety

variable {s : State} {die ch : Nat}

/-! ## A channel at rest -/

/-- A channel without copies settles as it is. -/
theorem settleChan_empty (h : (chanOf s die ch).copies = []) : settleChan s die ch = s := by
  unfold settleChan
  cases settleFuel (chanOf s die ch) with
  | zero => rfl
  | succ f => simp [settleCopy, h]

/-- A channel whose head copy has a tile to land settles as it is. -/
theorem settleChan_landing {cp : Copy} {rest : List Copy} (h : (chanOf s die ch).copies = cp :: rest) (hcut : cp.cutOf cp.tile = none)
    (htile : cp.tile < cp.def_.ntile) (hat : cp.at_ < cp.def_.total) : settleChan s die ch = s := by
  unfold settleChan
  cases settleFuel (chanOf s die ch) with
  | zero => rfl
  | succ f =>
    have hleft : ¬ cp.def_.total ≤ cp.at_ := Nat.not_le.2 hat
    simp [settleCopy, h, hcut, htile, hleft]

/-! ## One byte -/

/-- A byte is written at each of its places in turn. -/
theorem landAt_state (job die : Nat) (b : Byte) (ps : List Phys) (r : State × KMap Byte) :
    (landAt job die b ps r).1 = ps.foldl (fun t p => markExternal (writePhys t p [b]) job p) r.1 := by
  induction ps generalizing r with
  | nil => rfl
  | cons p ps ih => exact ih _

/-- The next byte of a tile lands at its places, and the watermark moves to the next byte that is not clipped (R209). -/
theorem landByte_lands {cp : Copy} {rest : List Copy} {b : Byte} {ps : List Phys} (h : (chanOf s die ch).copies = cp :: rest)
    (hat : cp.at_ < cp.def_.total)
    (hsrc : copySource s die cp (offsetVa (offsetVa cp.def_.src cp.sdisp)
      (cp.tile * cp.def_.ststr + patOffset (patIndex cp.def_.counts cp.at_) cp.def_.sstr)) = .ok b)
    (hdst : landPlaces s cp.asid ((cp.def_.dests cp.ddisp).map fun a =>
      offsetVa a (cp.tile * cp.def_.dtstr + patOffset (patIndex cp.def_.counts cp.at_) cp.def_.dstr)) = .ok ps) :
    let s1 : State := opReads (ps.foldl (fun t p => markExternal (writePhys t p [b]) cp.job p) s) cp.op
    landByte s die ch = .go (setWatermark s1 die ch (chanOf s1 die ch)
      { cp with at_ := cp.at_ + 1, landed := cp.landed + 1, saved := (landAt cp.job die b ps (s, cp.saved)).2 } rest) := by
  intro s1
  have hleft : ¬ cp.def_.total ≤ cp.at_ := Nat.not_le.2 hat
  simp only [landByte, h, hleft, if_false, hsrc, hdst, landAt_state]
  rfl

/-- BTE_LANDING of a tile with its permit lands one byte, then up to as many more as it may (R209). -/
theorem bteLand_lands {cp : Copy} {rest : List Copy} {o : EngOp} {s1 : State} {n : Nat} (h : (chanOf s die ch).copies = cp :: rest)
    (ho : kget s.ops cp.op = some o) (hfault : o.fault = none) (hser : o.ser = true → serMet s cp.op o.iss o.die o.row = true)
    (hcut : cp.cutOf cp.tile = none) (hgrant : cp.granted = true) (htile : cp.tile < cp.def_.ntile) (hat : cp.at_ < cp.def_.total)
    (hland : landByte s die ch = .go s1) : bteLand s die ch n = settleChan (landBytes (max n 1 - 1) s1 die ch) die ch := by
  have hwaits : (o.fault.isSome || (o.ser && !serMet s cp.op o.iss o.die o.row)) = false := by
    cases hs : o.ser with
    | false => simp [hfault]
    | true => simp [hfault, hser hs]
  have hpermit : takePermit s die ch = (s, true) := by simp [takePermit, h, hgrant]
  have hbytes : landBytes (max n 1) s die ch = landBytes (max n 1 - 1) s1 die ch := by
    obtain ⟨m, hm⟩ : ∃ m, max n 1 = m + 1 := ⟨max n 1 - 1, by omega⟩
    simp [hm, landBytes, hland]
  simp only [bteLand, settleChan_landing h hcut htile hat, h, ho, hwaits, hpermit, hbytes, Bool.false_eq_true, Bool.not_true, if_false]

/-- Settles O39: the commands by the lemmas on templates and channels, the order of landing by the strides of the pattern, and a landing byte by byte. -/
theorem copyCommands : Obligations.CopyCommands := by
  unfold Obligations.CopyCommands
  refine ⟨?commands, ?permits, fun d disp p q hok hlen hpq hq => patOffset_lt hok hlen hpq hq, ?landing⟩
  case commands =>
    intro s u w c x ch t die d0
    refine ⟨cptDef_defines, fun h hhold d hd hok => cptDim_sets h hhold hd hok, fun hchan => ⟨?_, cptCancel_cuts hchan, mcPermit_adds hchan⟩⟩
    intro h h1 h2 d ws hd hhold hrange hpages hws
    exact cptGo_starts hchan h h1 h2 hd hhold hrange hpages hws
  case permits =>
    intro s tp n img p t w himg hp hkind ht hu hl hc hhold hcls
    exact ends_of_done rfl (permitPort_adds himg hp hkind ht hu hl hc hhold hcls)
  case landing =>
    intro s k n
    refine ⟨fun hempty => ends_of_done rfl (by simp [bteLand, settleChan_empty hempty, hempty]), ?_⟩
    intro cp rest o h ho hfault hser hcut hgrant htile hat d idx src dsts b ps hsrc hdst s1 next cp1 s2 s3
    exact ends_of_done rfl (bteLand_lands h ho hfault hser hcut hgrant htile hat (landByte_lands h hat hsrc hdst))

end Sys2Proof.Machine
end

section
/-! SUPPORT. Gather commands and their rows (R214 to R216), and the statement on them, settled. -/

namespace Sys2Proof.Machine

open Sys2Proof.Safety

variable {s : State} {u : UnitId} {w : WorkUnit} {c : Cmd128}

/-! ## The index state (R214) -/

/-- The index state of a unit. -/
theorem idxOf_ofUnit (s : State) (u : UnitId) (w : WorkUnit) : idxOf s (Ctx.ofUnit u w) = dget IdxState.initial s.idxs u := rfl

/-- The state in which a unit has an index state. -/
def withIdx (s : State) (u : UnitId) (i : IdxState) : State := { s with idxs := dset IdxState.initial s.idxs u i }

/-- The index state of a unit, set. -/
theorem setIdx_ofUnit (s : State) (u : UnitId) (w : WorkUnit) (i : IdxState) : setIdx s (Ctx.ofUnit u w) i = withIdx s u i := rfl

/-- SPEC[0] of a command. -/
theorem spec0_bit (c : Cmd128) : (cmdSpec c).getLsbD 0 = c.getLsbD 112 := by simp [cmdSpec]

/-- The form of a command by SPEC[0]. -/
theorem spec0Form_eq (c : Cmd128) : spec0Form c = c.getLsbD 112 := spec0_bit c

/-- `gath.idx` sets an index list of an admitted format, and forgets the bags (R214). -/
theorem gathIdx_list (h : Offers s u w .gathIdx c) (hspec : c.getLsbD 112 = false) (hres : fld c 67 64 = 0)
    (hfmt : fld c 71 68 = 12 ∨ fld c 71 68 = 10 ∨ fld c 71 68 = 13) (hn : fld c 63 32 ≠ 0) (hlim : fld c 31 0 ≠ 0) :
    Ends (.gathIdxList (.seq u) c) s (noted (withIdx s u
      { list := some ((Ctx.ofUnit u w).va (fld c 111 72), BitVec.ofNat 4 (fld c 71 68), fld c 63 32, fld c 31 0), bags := none }) u c) :=
  h.ends_plain (form := notSpec0Form) rfl (by simp only [notSpec0Form, spec0Form_eq, hspec, Bool.not_false]) (code := 0) (by
    change issueGathIdx s (Ctx.ofUnit u w) c = _
    have hty : (decide (fld c 71 68 ≠ 12) && decide (fld c 71 68 ≠ 10) && decide (fld c 71 68 ≠ 13)) = false := by
      rcases hfmt with e | e | e <;> simp [e]
    simp only [issueGathIdx, spec0_bit, hspec, hres, hty, hn, hlim, Bool.false_eq_true, if_false, ne_eq, not_true_eq_false, decide_false, Bool.or_self,
      lowest_cons_false, lowest_nil, checked_zero, setIdx_ofUnit]
    exact h.takes_effect)

/-- With SPEC[0] it sets the bag list (R214). -/
theorem gathIdx_bags (h : Offers s u w .gathIdx c) (hspec : c.getLsbD 112 = true) (h1 : fld c 71 64 = 0) (h2 : fld c 31 0 = 0) (hn : fld c 63 32 ≠ 0)
    (hmax : fld c 63 32 ≠ 2 ^ 32 - 1) :
    Ends (.gathIdxBag (.seq u) c) s (noted (withIdx s u
      { dget IdxState.initial s.idxs u with bags := some ((Ctx.ofUnit u w).va (fld c 111 72), fld c 63 32) }) u c) :=
  h.ends_plain (form := spec0Form) rfl (by rw [spec0Form_eq, hspec]) (code := 0) (by
    change issueGathIdx s (Ctx.ofUnit u w) c = _
    simp only [issueGathIdx, spec0_bit, hspec, h1, h2, hn, hmax, if_true, ne_eq, not_true_eq_false, decide_false, Bool.or_self,
      lowest_cons_false, lowest_nil, checked_zero, setIdx_ofUnit, idxOf_ofUnit]
    exact h.takes_effect)

/-! ## Gathers (R216) -/

/-- The gather of a command without FE, over an index list (Table 8.13). -/
def gathOf (s : State) (u : UnitId) (w : WorkUnit) (c : Cmd128) (red : Bool) : GathOp :=
  let i : IdxState := dget IdxState.initial s.idxs u
  let l : Nat × BitVec 4 × Nat × Nat := i.list.getD (0, 0, 0, 0)
  { red := red, tab := (Ctx.ofUnit u w).va (fld c 111 72), dst := (Ctx.ofUnit u w).va (fld c 71 32), rown := fld c 31 20,
    fmt := BitVec.ofNat 4 (fld c 19 16), pol := fld c 15 14, fe := false, idx := l.1, ifmt := l.2.1, nidx := l.2.2.1, limit := l.2.2.2, bags := i.bags,
    ready := false, done := [] }

/-- `gath.row` and `gath.red` without FE and with an index list enter an operation (R216). -/
theorem gath_enters {red : Bool} (hlist : (dget IdxState.initial s.idxs u).list.isSome = true) (hfe : cmdFe c = false) (hres : fld c 13 0 = 0)
    (hrow : red = false → fld c 19 16 = 0) (hred : red = true → fld c 19 16 ≠ 7 ∧ fld c 19 16 < 14) :
    issueGath red s (Ctx.ofUnit u w) c = .st (entered s u w .gre c (.gath (gathOf s u w c red))) 0 := by
  have hform : (decide (fld c 13 0 ≠ 0) || (!red && decide (fld c 19 16 ≠ 0))) = false := by
    cases red
    · simp [hres, hrow rfl]
    · simp [hres]
  have hty : (red && (decide (fld c 19 16 = 7) || decide (14 ≤ fld c 19 16))) = false := by
    cases red
    · rfl
    · obtain ⟨h7, h14⟩ := hred rfl
      simp [h7, h14]
  have hnone : (dget IdxState.initial s.idxs u).list.isNone = false := by simpa using hlist
  simp only [issueGath, idxOf_ofUnit, hform, hty, hnone, hfe, lowest_cons_false, lowest_nil, checked_zero, Bool.false_eq_true, if_false]
  rfl

/-! ## Rows (R216) -/

/-- Row `j` of a gather, whose index lies within LIMIT, is read from its table and stored as row `j` of the destination (R216). -/
theorem gatherRow_lands {o : EngOp} {g : GathOp} {j : Nat} {k : Int} {bs : List Byte} {s1 : State} (hfe : g.fe = false) (hk : idxAt s o g j = .ok k)
    (h0 : 0 ≤ k) (hlim : k < g.limit) (hload : loadVa s o.asid o.die ((g.tab + 16 * (g.rown + 1) * k.toNat) % 2 ^ 57) (16 * (g.rown + 1)) none = .ok bs)
    (hst : storeVa s o.asid (some o.job) ((g.dst + 16 * (g.rown + 1) * j) % 2 ^ 57) bs = .ok s1) : gatherRow s o g j = .ok s1 := by
  have hin : g.clampIdx k = some k.toNat := by
    have hout : g.outside k = false := by
      simp only [GathOp.outside, Bool.or_eq_false_iff, decide_eq_false_iff_not]
      omega
    simp [GathOp.clampIdx, hout]
  simp only [gatherRow, hk, Got.bind, hfe, Bool.false_eq_true, if_false, hin, hload, GathOp.destRow, hst, Got.map, List.foldl_nil]

/-- GRE_ROW of a gather that has started does a row that is not yet done, and ends the operation after the last (R216). -/
theorem greRow_does {n j : Nat} {o : EngOp} {g : GathOp} {s1 : State} {f : Flags} (ho : kget s.ops n = some o) (hb : o.body = .gath g)
    (hready : g.ready = true) (hfin : o.fin = none) (hfault : o.fault = none) (hj : j < g.rows) (hnew : g.done.contains j = false)
    (hdo : (if g.red then reduceBag s o g j else (gatherRow s o g j).map fun s1 => (s1, Flags.none)) = .ok (s1, f)) :
    greRow s n j =
      let s2 : State := modOp (opReads s1 n) n fun o => { o with body := .gath { g with done := j :: g.done }, conv := o.conv.or f }
      if (j :: g.done).length = g.rows then finishOp s2 n 0 else s2 := by
  have hstart : gathStart s n = s := by simp [gathStart, ho, hb, hready]
  have hleft : ¬ g.rows ≤ j := Nat.not_le.2 hj
  have hgo : (!g.ready || o.fin.isSome || decide (g.rows ≤ j) || g.done.contains j || o.fault.isSome) = false := by
    simp only [hready, hfin, hfault, hleft, hnew, Bool.not_true, Option.isSome_none, decide_false, Bool.or_self]
  simp only [greRow, hstart, ho, hb, hgo, hdo, Bool.false_eq_true, if_false]

/-- Settles O40: the commands by their index state, and a row by what its index, its table and its destination give. -/
theorem gatherAndReduce : Obligations.GatherAndReduce := by
  unfold Obligations.GatherAndReduce
  refine ⟨?commands, ?rows⟩
  case commands =>
    intro s u w c x i set fmt l g
    refine ⟨fun h => ⟨gathIdx_list h, gathIdx_bags h⟩, fun hlist hfe hres => ⟨fun h hrow => ?_, fun h h7 h14 => ?_⟩⟩
    · exact h.ends (form := anyForm) hfe rfl rfl (gath_enters (red := false) hlist hfe hres (fun _ => hrow) nofun)
    · exact h.ends (form := anyForm) hfe rfl rfl (gath_enters (red := true) hlist hfe hres nofun fun _ => ⟨h7, h14⟩)
  case rows =>
    intro s n j o g ho hb hready hfin hfault hj hnew g1 ends
    refine ⟨fun hred hfe k bs s1 hk h0 hlim hload hst => ?_, fun hred s1 f hdo => ?_⟩
    · have hrow := gatherRow_lands hfe hk h0 hlim hload hst
      exact ends_of_done rfl (greRow_does ho hb hready hfin hfault hj hnew (by simp [hred, hrow, Got.map, Got.bind]))
    · exact ends_of_done rfl (greRow_does ho hb hready hfin hfault hj hnew (by simp [hred, hdo]))

end Sys2Proof.Machine
end

section
/-! SUPPORT. Quantisation and near-memory commands, their blocks and elements (R217, R218, R226, R227), and the statement on them, settled. -/

namespace Sys2Proof.Machine

open Sys2Proof.Safety

variable {s : State} {u : UnitId} {w : WorkUnit} {c : Cmd128}

/-! ## Quantisation (R217, R218) -/

/-- The quantisation of a command (Table 8.14). -/
def qntOf (u : UnitId) (w : WorkUnit) (c : Cmd128) (dq : Bool) : QntOp :=
  { dq := dq, a := (Ctx.ofUnit u w).va (fld c 111 72), q := (Ctx.ofUnit u w).va (fld c 71 32), wfmt := BitVec.ofNat 4 (fld c 31 28),
    qfmt := BitVec.ofNat 4 (fld c 27 24), blen := fld c 23 16, cvm := BitVec.ofNat 2 (fld c 15 14), nblk := fld c 13 0 + 1, next := 0 }

/-- `qnt.blk` and `qnt.dq` with an aligned image and admitted formats enter an operation (R217). -/
theorem qnt_enters {dq : Bool} (hal : (Ctx.ofUnit u w).va (fld c 71 32) % 64 = 0) (hwide : fld c 31 28 ∈ [0, 2, 3, 4])
    (hquant : fld c 27 24 ∈ [5, 6, 7, 8]) (hlg : fld c 27 24 = 7 → (fld c 23 16 + 1) % 4 = 0) (hcvm : fld c 15 14 ≠ 3) :
    issueQnt dq s (Ctx.ofUnit u w) c = .st (entered s u w .qe c (.qnt (qntOf u w c dq))) 0 := by
  have hform : (decide ((Ctx.ofUnit u w).va (fld c 71 32) % 64 ≠ 0) || (decide (fld c 27 24 = 7) && decide ((fld c 23 16 + 1) % 4 ≠ 0))) = false := by
    by_cases h7 : fld c 27 24 = 7
    · simp [hal, hlg h7]
    · simp [hal, h7]
  have hty : (!(decide (fld c 31 28 = 0) || decide (fld c 31 28 = 2) || decide (fld c 31 28 = 3) || decide (fld c 31 28 = 4)) ||
      !(decide (fld c 27 24 = 5) || decide (fld c 27 24 = 6) || decide (fld c 27 24 = 7) || decide (fld c 27 24 = 8))) = false := by
    simp only [List.mem_cons, List.not_mem_nil, or_false] at hwide hquant
    simp only [Bool.or_eq_false_iff, Bool.not_eq_false', Bool.or_eq_true, decide_eq_true_eq]
    omega
  simp only [issueQnt, hform, hty, hcvm, decide_false, lowest_cons_false, lowest_nil, checked_zero, if_false]
  exact congrArg (Issued.st · 0) (cmdWarn_none _ _ c)

/-- QE_BLOCK converts the next block of an operation that may start, and ends it after the last (R218). -/
theorem qeBlock_converts {n : OpId} {o : EngOp} {q : QntOp} {s1 : State} {f : Flags} (ho : kget s.ops n = some o) (hmay : mayStart s n o = true)
    (hfault : o.fault = none) (hb : o.body = .qnt q) (hdo : (if q.dq then dequantBlock s o q q.next else quantBlock s o q q.next) = .ok (s1, f)) :
    qeBlock s n =
      let s2 : State := modOp (opReads s1 n) n fun o => { o with body := .qnt { q with next := q.next + 1 }, conv := o.conv.or f }
      if q.next + 1 = q.nblk then finishOp s2 n 0 else s2 := by
  simp only [qeBlock, ho, hmay, hfault, hb, hdo, Bool.not_true, Option.isSome_none, Bool.or_self, Bool.false_eq_true, if_false]

/-! ## Near memory (R226, R227) -/

/-- The update of a near-memory command (Table 8.16). -/
def nmcOf (u : UnitId) (w : WorkUnit) (c : Cmd128) (k : NmcKind) (yf : BitVec 4) : NmcOp :=
  { kind := k, x := (Ctx.ofUnit u w).va (fld c 111 72), y := (Ctx.ofUnit u w).va (fld c 71 32), sa := (Ctx.ofUnit u w).scalar (fld c 31 28),
    sb := (Ctx.ofUnit u w).scalar (fld c 27 24), n := fld c 23 0 + 1, yfmt := yf, done := [] }

/-- The bytes of an element of the array that a near-memory command updates. -/
def nmcCell : NmcKind → Nat
  | .red => 16
  | _ => 4

/-- The format of the values of a near-memory command (Table 8.16). -/
def nmcFmt (k : NmcKind) (c : Cmd128) : BitVec 4 :=
  match k with
  | .red => (cmdSpec c).setWidth 4
  | _ => if (cmdSpec c).getLsbD 0 then 3 else 2

/-- SPEC names the format of the values that are added. -/
theorem nmcFmt_red (c : Cmd128) : nmcFmt .red c = c.extractLsb' 112 4 := by
  change (c.extractLsb' 112 5).setWidth 4 = _
  ext i hi
  simp [BitVec.getElem_setWidth, show i < 5 by omega]

/-- SPEC[0] chooses between the two formats of the other commands. -/
theorem nmcFmt_other {k : NmcKind} (h : k ≠ .red) (c : Cmd128) : nmcFmt k c = if c.getLsbD 112 then 3 else 2 := by
  cases k with
  | red => exact absurd rfl h
  | sgd => exact congrArg (fun b => if b = true then 3 else 2) (spec0_bit c)
  | decay => exact congrArg (fun b => if b = true then 3 else 2) (spec0_bit c)

/-- The issue of a near-memory command, by its cells and its format. -/
theorem issueNmc_eq (k : NmcKind) (s : State) (x : Ctx) (c : Cmd128) : issueNmc k s x c =
    let xv := x.va (fld c 111 72)
    let yv := x.va (fld c 71 32)
    let n := fld c 23 0 + 1
    let code := lowest [(xv % nmcCell k ≠ 0 || yv % 4 ≠ 0, stForm), (nmcFmt k c = 7 || nmcFmt k c = 14 || nmcFmt k c = 15, stType)]
    if code ≠ 0 then .st s code
    else (mapRange s x.asid xv (nmcCell k * n) .atomic).issue fun xs => (mapRange s x.asid yv (elemSize (nmcFmt k c) * n) .read).issue fun ys =>
      checked s (lowest [(rangesOverlap xs ys, stForm), (!oneStack (xs ++ ys), stRange)])
        (.st (addOp s (x.op .nmc c (.nmc { kind := k, x := xv, y := yv, sa := x.scalar (fld c 31 28), sb := x.scalar (fld c 27 24), n := n,
                                           yfmt := nmcFmt k c, done := [] }) {})).1 0) := rfl

/-- A near-memory command over aligned arrays that do not overlap and lie in one stack enters an operation (R226). -/
theorem nmc_enters {k : NmcKind} {yf : BitVec 4} (hyf : nmcFmt k c = yf) (h7 : yf ≠ 7) (h14 : yf.toNat < 14)
    (hx : (Ctx.ofUnit u w).va (fld c 111 72) % nmcCell k = 0) (hy : (Ctx.ofUnit u w).va (fld c 71 32) % 4 = 0) {xs ys : List (Nat × Phys × Nat)}
    (hxs : mapRange s w.asid ((Ctx.ofUnit u w).va (fld c 111 72)) (nmcCell k * (fld c 23 0 + 1)) .atomic = .ok xs)
    (hys : mapRange s w.asid ((Ctx.ofUnit u w).va (fld c 71 32)) (elemSize yf * (fld c 23 0 + 1)) .read = .ok ys)
    (hap : rangesOverlap xs ys = false) (hone : oneStack (xs ++ ys) = true) :
    issueNmc k s (Ctx.ofUnit u w) c = .st (entered s u w .nmc c (.nmc (nmcOf u w c k yf))) 0 := by
  have hty : (decide (yf = 7) || decide (yf = 14) || decide (yf = 15)) = false := by
    have hne14 : yf ≠ 14 := fun e => absurd (e ▸ h14) (by decide)
    have hne15 : yf ≠ 15 := fun e => absurd (e ▸ h14) (by decide)
    simp only [h7, hne14, hne15, decide_false, Bool.or_self]
  simp only [issueNmc_eq, Ctx.ofUnit_asid, hyf, hx, hy, hty, hxs, hys, hap, hone, Got.issue, ne_eq, not_true_eq_false, decide_false, Bool.or_self,
    Bool.not_true, lowest_cons_false, lowest_nil, checked_zero, if_false]
  rfl

/-- NMC_ELEMENT_UPDATE updates an element that is not yet done, and ends the operation after the last (R227). -/
theorem nmcStep_updates {n i : Nat} {o : EngOp} {b : NmcOp} {s1 : State} {f : Flags} (ho : kget s.ops n = some o) (hmay : mayStart s n o = true)
    (hfault : o.fault = none) (hb : o.body = .nmc b) (hi : i < b.n) (hnew : b.done.contains i = false) (huce : nmcUce s n i = none)
    (hdo : nmcElem s o b i = .ok (s1, f)) :
    nmcStep s n i =
      let s2 : State := modOp (opReads s1 n) n fun o => { o with body := .nmc { b with done := i :: b.done }, conv := o.conv.or f }
      if (i :: b.done).length = b.n then finishOp s2 n 0 else s2 := by
  have hleft : ¬ b.n ≤ i := Nat.not_le.2 hi
  simp only [nmcStep, huce, nmcUpdate, ho, hmay, hfault, hb, hleft, hnew, hdo, Bool.not_true, Option.isSome_none, decide_false, Bool.or_self,
    Bool.false_eq_true, if_false]

/-- Settles O41: the commands by their checks, a block or element by what its conversion or update gives. -/
theorem blocksAndNearMemory : Obligations.BlocksAndNearMemory := by
  unfold Obligations.BlocksAndNearMemory
  refine ⟨?commands, ?moves⟩
  case commands =>
    intro s u w c x q
    refine ⟨fun hal hwide hquant hlg hcvm => ⟨fun h => ?_, fun h => ?_⟩, ?_⟩
    · exact h.ends_plain (form := anyForm) rfl rfl (qnt_enters (dq := false) hal hwide hquant hlg hcvm)
    · exact h.ends_plain (form := anyForm) rfl rfl (qnt_enters (dq := true) hal hwide hquant hlg hcvm)
    · intro k yf cells b xs ys hxs hys hap hone hy
      have hfmt : yf = (if c.getLsbD 112 then 3 else 2) → yf ≠ 7 ∧ yf.toNat < 14 := by
        rintro rfl
        cases c.getLsbD 112 <;> exact ⟨by decide, by decide⟩
      refine ⟨?_, ?_, ?_⟩
      · rintro rfl hx hyf h
        exact h.ends_plain (form := anyForm) rfl rfl
          (nmc_enters (k := .sgd) ((nmcFmt_other (k := .sgd) (by decide) c).trans hyf.symm) (hfmt hyf).1 (hfmt hyf).2 hx hy hxs hys hap hone)
      · rintro rfl hx hyf h
        exact h.ends_plain (form := anyForm) rfl rfl
          (nmc_enters (k := .decay) ((nmcFmt_other (k := .decay) (by decide) c).trans hyf.symm) (hfmt hyf).1 (hfmt hyf).2 hx hy hxs hys hap hone)
      · rintro rfl hx hyf h7 h14 h
        exact h.ends_plain (form := anyForm) rfl rfl
          (nmc_enters (k := .red) ((nmcFmt_red c).trans hyf.symm) h7 h14 hx hy hxs hys hap hone)
  case moves =>
    intro s n o ho hmay hfault ends
    refine ⟨fun q s1 f hb hdo => ?_, fun b i s1 f hb hi hnew huce hdo => ?_, fun i a huce => ends_of_done rfl (by simp [nmcStep, huce])⟩
    · have hq := qeBlock_converts ho hmay hfault hb hdo
      exact ⟨fun hlast => ends_of_done rfl (hq.trans (if_pos hlast)), fun hlast => ends_of_done rfl (hq.trans (if_neg hlast))⟩
    · have hn := nmcStep_updates ho hmay hfault hb hi hnew huce hdo
      exact ⟨fun hlast => ends_of_done rfl (hn.trans (if_pos hlast)), fun hlast => ends_of_done rfl (hn.trans (if_neg hlast))⟩

end Sys2Proof.Machine
end

section
/-! SUPPORT. What a read of memory depends on: a change of operations or of chains alone leaves it as it is. -/

namespace Sys2Proof.Machine

/-- Reads find the same in two states: the same places, the same windows and mode changes before them, and the same bytes there. -/
structure SeesSame (s t : State) : Prop where
  place : place t = place s
  windowed : windowed t = windowed s
  tierBusy : tierBusy t = tierBusy s
  readPhys : readPhys t = readPhys s

theorem seesSame_modBound (s : State) (k : ChainId) (f : Bound → Bound) : SeesSame s (modBound s k f) := ⟨rfl, rfl, rfl, rfl⟩

theorem seesSame_modOp (s : State) (n : Nat) (f : EngOp → EngOp) : SeesSame s (modOp s n f) := ⟨rfl, rfl, rfl, rfl⟩

namespace SeesSame

variable {s t : State} (h : SeesSame s t)
include h

theorem places (asid : BitVec 12) (acc : Access) (cs : List (Nat × Nat × Nat)) : places t asid acc cs = places s asid acc cs := by
  induction cs with
  | nil => rfl
  | cons c cs ih => simp only [Machine.places, h.place, ih]

theorem loadVa : loadVa t = loadVa s := by
  funext asid die va n skip
  simp only [Machine.loadVa, mapRange, h.places, h.windowed, h.tierBusy, h.readPhys]

theorem loadWord : loadWord t = loadWord s := by
  funext asid die va
  simp only [Machine.loadWord, h.loadVa]

/-- The activation rows of a task are read alike. -/
theorem memRows (o : EngOp) (x : TaskOp) (act m i : Nat) : memRows t o x act m i = memRows s o x act m i := by
  induction m generalizing i with
  | zero => rfl
  | succ m ih => simp only [Machine.memRows, h.loadVa, ih]

end SeesSame

end Sys2Proof.Machine
end

section
/-! SUPPORT. Binding a chain, its tail and its end (R193, R195, R196, R219), and the statement on them, settled. -/

namespace Sys2Proof.Machine

open Sys2Proof.Safety

variable {s : State} {u : UnitId} {w : WorkUnit} {o : Sopc} {c : Cmd128} {k : ChainId}

/-! ## Chains -/

/-- A chain whose binding is changed keeps its binding, changed. -/
theorem bound_modBound {b : Bound} (h : (chainOf s k).bound = some b) (f : Bound → Bound) : (chainOf (modBound s k f) k).bound = some (f b) := by
  simp only [chainOf, modBound, dget, kget_kmod_same] at h ⊢
  cases hk : kget s.chains (chainKey k) with
  | none =>
    rw [hk] at h
    cases h
  | some ch =>
    rw [hk] at h
    simp only [Option.map_some, Option.getD_some] at h ⊢
    rw [h, Option.map_some]

/-- A field of one bit. -/
theorem fld_bit (c : Cmd128) (i : Nat) : fld c i i = (c.getLsbD i).toNat := by
  rw [fld, BitVec.extractLsb'_toNat, Nat.add_sub_cancel_left, BitVec.getLsbD, Nat.toNat_testBit, Nat.shiftRight_eq_div_pow, pow_one]

/-! ## Binding (R193, R196) -/

/-- The binding that a descriptor gives, beginning at the number of its sequence word (R193). -/
def descBound (s : State) (u : UnitId) (w : WorkUnit) (k : ChainId) (mask : BitVec 16) (bs hd : List Byte) : Bound :=
  { (readDesc k (Ctx.ofUnit u w) mask s.tb bs).2 with
    head := (wordOf hd).toNat % 2 ^ 40, pub := (wordOf hd).toNat % 2 ^ 40, tail := (wordOf hd).toNat % 2 ^ 40 }

/-- The state in which a chain has a binding. -/
def withBound (s : State) (k : ChainId) (b : Bound) : State := putChain s k { chainOf s k with bound := some b }

/-- A chain that its context holds and that is free takes a binding (R193). -/
theorem bind_performed {b : Bound} (hfree : (chainOf s k).bound = none) (hhold : (chainOf s k).holder = some b.asid) :
    (Settled.bind k b).perform s = some (withBound s k b) := by
  have hgo : ((chainOf s k).bound.isSome || decide ((chainOf s k).holder ≠ some b.asid)) = false := by simp [hfree, hhold]
  simp only [Settled.perform, hgo, Bool.false_eq_true, if_false]
  rfl

/-- A chain that its context holds, that is free, and that no command under SER is still to bind, is bound by a descriptor that is legal (R193). -/
theorem issueBind_binds {mask : BitVec 16} {form : Bool} {desc : Nat} (h : Offers s u w o c) (hform : form = false) (hal : desc % 64 = 0)
    (hhold : (chainOf s k).holder = some w.asid) (hfree : boundSoon s k = false) (hmask : mask &&& ~~~(chainOf s k).mxes = 0) {bs hd : List Byte}
    (hbs : (Ctx.ofUnit u w).load s desc 64 = .ok bs) (hlegal : (readDesc k (Ctx.ofUnit u w) mask s.tb bs).1 = 0)
    (hseq : (Ctx.ofUnit u w).load s (readDesc k (Ctx.ofUnit u w) mask s.tb bs).2.seqa 8 = .ok hd) :
    issueBind s (Ctx.ofUnit u w) c o.engine k mask form desc = .st (noted (withBound s k (descBound s u w k mask bs hd)) u c) 0 := by
  have hnone : (chainOf s k).bound = none := by
    rw [boundSoon, Bool.or_eq_false_iff] at hfree
    simpa using hfree.1
  have hdo := bind_performed (b := descBound s u w k mask bs hd) hnone hhold
  simp only [issueBind, Ctx.ofUnit_asid, hform, hal, hhold, hfree, hmask, hbs, hlegal, hseq, Got.issue, Got.map, Got.bind, ne_eq, not_true_eq_false,
    decide_false, Bool.or_self, Bool.and_false, Bool.false_eq_true, lowest_cons_false, lowest_nil, if_false]
  exact h.settles hdo

/-! ## Unbinding (R196) -/

/-- Under SER a command that is offered may start as the operation as which it is entered (R116). -/
theorem mayStart_entered {b : OpBody} (h : Offers s u w o c) :
    mayStart (entered s u w o.engine c b) s.nextId ((Ctx.ofUnit u w).op o.engine c b {}) = true := by
  obtain ⟨-, -, -, -, -, hser⟩ := h
  have hsame : serMet (entered s u w o.engine c b) s.nextId (.seq u) w.tp.die o.engine = serMet s s.nextId (.seq u) w.tp.die o.engine := by
    simp only [serMet, entered, Bool.and_assoc, any_below_kput]
  cases hc : cmdSer c with
  | false => simp [mayStart, Ctx.op, hc]
  | true =>
    simp only [mayStart, Ctx.op, Ctx.ofUnit_iss, Ctx.ofUnit_die, hc, hsame, hser hc]
    rfl

/-- The state in which a command has begun to unbind a chain, and the chain is free where it has nothing left to publish (R196). -/
def unbound (s : State) (u : UnitId) (w : WorkUnit) (row : Engine) (c : Cmd128) (k : ChainId) : State :=
  settleUnbind (modBound (entered s u w row c (.unbind k.kind k.num)) k fun b => { b with unbinding := some s.nextId }) k

/-- Unbinding a chain of its context enters an operation, and the chain reads no further entry (R196). -/
theorem issueUnbind_enters {form : Bool} {b : Bound} (h : Offers s u w o c) (hform : form = false) (hb : (chainOf s k).bound = some b)
    (hasid : b.asid = w.asid) (hun : b.unbinding = none) :
    issueUnbind s (Ctx.ofUnit u w) c o.engine k form = .st (unbound s u w o.engine c k) 0 := by
  have hstart : startUnbind (entered s u w o.engine c (.unbind k.kind k.num)) s.nextId ((Ctx.ofUnit u w).op o.engine c (.unbind k.kind k.num) {}) k =
      unbound s u w o.engine c k := by
    have hb' : (chainOf (entered s u w o.engine c (.unbind k.kind k.num)) k).bound = some b := hb
    simp only [startUnbind, hb', hun]
    exact if_pos (by rw [hasid]; simp [Ctx.op])
  simp only [issueUnbind, hform, hb, Ctx.ofUnit_asid, hasid, hun, addOp_ofUnit, mayStart_entered h, hstart, Option.isNone_none, Bool.and_true,
    decide_true, Bool.not_true, Bool.false_and, ne_eq, not_true_eq_false, decide_false, lowest_cons_false, lowest_nil, checked_zero, if_true]

/-! ## The tail (R195) -/

/-- The state in which a chain has read its tail word. -/
def tailRead (s : State) (k : ChainId) (v : Word) : State :=
  modBound s k fun b => { b with tail := v.toNat, tailDue := false, waitsOn := [], fault := if faultAt b.fault b.taila then none else b.fault }

/-- A chain that no cancelled copy has poisoned re-reads its tail word (R195). -/
theorem readTail_reads {b : Bound} {v : Word} (hb : (chainOf s k).bound = some b) (hdie : s.dies.getLsbD k.die = true)
    (hv : loadWord s b.asid k.die b.taila = .ok v) (hp : b.poisoned = false) : readTail s k = tailRead s k v := by
  simp only [readTail, hb, hdie, hp, hv, Bool.not_true, Bool.false_eq_true, if_false]
  rfl

/-- A poll reads the tail word once POLLT ticks have passed since the last (R195). -/
theorem tailPoll_reads {b : Bound} {v : Word} (hb : (chainOf s k).bound = some b) (hdie : s.dies.getLsbD k.die = true)
    (hv : loadWord s b.asid k.die b.taila = .ok v) (hp : b.poisoned = false) (hdue : b.tailDue = false) (hpoll : b.pollt ≠ 0)
    (hlast : b.pollt ≤ (s.tb - b.polled).toNat) : tailPoll s k = tailRead (modBound s k fun b => { b with polled := s.tb }) k v := by
  have hnow : ¬ (s.tb - b.polled).toNat < b.pollt := Nat.not_lt.2 hlast
  have hread : readTail (modBound s k fun b => { b with polled := s.tb }) k = tailRead (modBound s k fun b => { b with polled := s.tb }) k v :=
    readTail_reads (bound_modBound hb _) hdie (by rw [(seesSame_modBound s k _).loadWord]; exact hv) hp
  simp only [tailPoll, hb, hdue, hp, hpoll, hnow, decide_false, Bool.or_self, Bool.false_eq_true, if_false, hread]

/-- A tail command of the context of a chain re-reads its tail word (R196). -/
theorem issueTailOf_reads {b : Bound} {v : Word} {form : Bool} (h : Offers s u w o c) (hform : form = false) (hb : (chainOf s k).bound = some b)
    (hasid : b.asid = w.asid) (hdie : s.dies.getLsbD k.die = true) (hv : loadWord s b.asid k.die b.taila = .ok v) (hp : b.poisoned = false) :
    issueTailOf s (Ctx.ofUnit u w) c o.engine k form = .st (noted (tailRead s k v) u c) 0 := by
  simp only [issueTailOf, hb, Ctx.ofUnit_asid, hasid, hform, readTail_reads hb hdie hv hp, ne_eq, not_true_eq_false, decide_false, lowest_cons_false,
    lowest_nil, checked_zero]
  exact h.takes_effect

/-! ## The commands of chains (R196) -/

section
variable {kind : ChainKind} {i : Instr} (h : Offers s u w o c) (ho : o ≠ .gathRow ∧ o ≠ .gathRed) (hform : fld c 104 80 = 0 ∧ fld c 39 0 = 0)
include h ho hform

/-- A chain command without UNBIND binds its chain (R193, R196). -/
theorem chainCtl_binds (hi : exec i s = commandIssues o bindForm (.seq u) c s)
    (hissue : issueBy o s (Ctx.ofUnit u w) c = issueChainCtl kind o.engine s (Ctx.ofUnit u w) c) (hbit : ¬ c.getLsbD 105 = true)
    (hal : (Ctx.ofUnit u w).va (fld c 79 40) % 64 = 0) (hk : k = { kind := kind, die := w.tp.die, num := fld c 111 106 })
    (hhold : (chainOf s k).holder = some w.asid) (hfree : boundSoon s k = false) (hmask : 0 &&& ~~~(chainOf s k).mxes = 0) {bs hd : List Byte}
    (hbs : (Ctx.ofUnit u w).load s ((Ctx.ofUnit u w).va (fld c 79 40)) 64 = .ok bs) (hlegal : (readDesc k (Ctx.ofUnit u w) 0 s.tb bs).1 = 0)
    (hseq : (Ctx.ofUnit u w).load s (readDesc k (Ctx.ofUnit u w) 0 s.tb bs).2.seqa 8 = .ok hd) :
    Ends i s (noted (withBound s k (descBound s u w k 0 bs hd)) u c) := by
  obtain ⟨h1, h2⟩ := hform
  subst hk
  have hbit' : c.getLsbD 105 = false := by simpa using hbit
  refine h.ends_plain hi (by rw [bindForm, unbindForm, hbit']; rfl) (code := 0) ?_ ho
  rw [hissue, issueChainCtl, fld_bit, hbit', if_neg (by decide)]
  exact issueBind_binds h (by simp [h1, h2]) hal hhold hfree hmask hbs hlegal hseq

/-- With UNBIND it unbinds its chain (R196). -/
theorem chainCtl_unbinds (hi : exec i s = commandIssues o unbindForm (.seq u) c s)
    (hissue : issueBy o s (Ctx.ofUnit u w) c = issueChainCtl kind o.engine s (Ctx.ofUnit u w) c) (hbit : c.getLsbD 105 = true) {b : Bound}
    (hk : k = { kind := kind, die := w.tp.die, num := fld c 111 106 })
    (hb : (chainOf s k).bound = some b) (hasid : b.asid = w.asid) (hun : b.unbinding = none) :
    Ends i s (unbound s u w o.engine c k) := by
  obtain ⟨h1, h2⟩ := hform
  subst hk
  refine h.ends_plain hi (form := unbindForm) hbit (code := 0) ?_ ho
  rw [hissue, issueChainCtl, fld_bit, hbit, if_pos (by decide)]
  exact issueUnbind_enters h (by simp [h1, h2]) hb hasid hun

/-- A tail command re-reads the tail word of its chain (R196). -/
theorem tail_reads (hi : exec i s = commandIssues o anyForm (.seq u) c s)
    (hissue : issueBy o s (Ctx.ofUnit u w) c = issueTail kind o.engine s (Ctx.ofUnit u w) c) {b : Bound} {v : Word}
    (hk : k = { kind := kind, die := w.tp.die, num := fld c 111 106 }) (hb : (chainOf s k).bound = some b)
    (hasid : b.asid = w.asid) (hdie : s.dies.getLsbD k.die = true) (hv : loadWord s b.asid k.die b.taila = .ok v) (hp : b.poisoned = false) :
    Ends i s (noted (tailRead s k v) u c) := by
  obtain ⟨h1, h2⟩ := hform
  subst hk
  refine h.ends_plain hi rfl (code := 0) ?_ ho
  rw [hissue]
  exact issueTailOf_reads h (by simp [h1, h2]) hb hasid hdie hv hp

end

/-! ## Task queues (R219) -/

section
variable (h : Offers s u w .mxqSet c)
include h

/-- `mxq.set` binds a queue with a subset of the MXEs that are granted (R219). -/
theorem mxqSet_binds (hspec : c.getLsbD 112 = false) (hbit : c.getLsbD 91 = false) (hform : fld c 90 80 = 0 ∧ fld c 39 0 = 0)
    (hmask : BitVec.ofNat 16 (fld c 107 92) ≠ 0) (hal : (Ctx.ofUnit u w).va (fld c 79 40) % 64 = 0)
    (hk : k = { kind := .mxq, die := w.tp.die, num := fld c 111 108 })
    (hhold : (chainOf s k).holder = some w.asid) (hfree : boundSoon s k = false)
    (hsub : BitVec.ofNat 16 (fld c 107 92) &&& ~~~(chainOf s k).mxes = 0) {bs hd : List Byte}
    (hbs : (Ctx.ofUnit u w).load s ((Ctx.ofUnit u w).va (fld c 79 40)) 64 = .ok bs)
    (hlegal : (readDesc k (Ctx.ofUnit u w) (BitVec.ofNat 16 (fld c 107 92)) s.tb bs).1 = 0)
    (hseq : (Ctx.ofUnit u w).load s (readDesc k (Ctx.ofUnit u w) (BitVec.ofNat 16 (fld c 107 92)) s.tb bs).2.seqa 8 = .ok hd) :
    Ends (.mxqSetBind (.seq u) c) s (noted (withBound s k (descBound s u w k (BitVec.ofNat 16 (fld c 107 92)) bs hd)) u c) := by
  obtain ⟨h1, h2⟩ := hform
  subst hk
  refine h.ends_plain (form := queueBindForm) rfl (by simp only [queueBindForm, notSpec0Form, spec0Form_eq, hspec, hbit]; rfl) (code := 0) ?_
  change issueMxqSet s (Ctx.ofUnit u w) c = _
  simp only [issueMxqSet, spec0_bit, hspec, fld_bit, hbit, Bool.false_eq_true, if_false, Bool.toNat_false, Nat.zero_ne_one]
  exact issueBind_binds h (by simp only [h1, h2, hmask, ne_eq, not_true_eq_false, decide_false, Bool.or_self]) hal hhold hfree hsub hbs hlegal hseq

/-- With UNBIND it unbinds a queue (R219). -/
theorem mxqSet_unbinds (hspec : c.getLsbD 112 = false) (hbit : c.getLsbD 91 = true) (hform : fld c 90 80 = 0 ∧ fld c 39 0 = 0) {b : Bound}
    (hk : k = { kind := .mxq, die := w.tp.die, num := fld c 111 108 })
    (hb : (chainOf s k).bound = some b) (hasid : b.asid = w.asid) (hun : b.unbinding = none) :
    Ends (.mxqSetUnbind (.seq u) c) s (unbound s u w .mxe c k) := by
  obtain ⟨h1, h2⟩ := hform
  subst hk
  refine h.ends_plain (form := queueUnbindForm) rfl (by simp only [queueUnbindForm, notSpec0Form, spec0Form_eq, hspec, hbit]; rfl) (code := 0) ?_
  change issueMxqSet s (Ctx.ofUnit u w) c = _
  simp only [issueMxqSet, spec0_bit, hspec, fld_bit, hbit, Bool.false_eq_true, if_false, Bool.toNat_true, if_true]
  exact issueUnbind_enters h (by simp [h1, h2]) hb hasid hun

/-- With SPEC[0] it re-reads the tail word of a queue (R219). -/
theorem mxqSet_tail (hspec : c.getLsbD 112 = true) {b : Bound} {v : Word} (hk : k = { kind := .mxq, die := w.tp.die, num := fld c 111 108 })
    (hb : (chainOf s k).bound = some b) (hasid : b.asid = w.asid) (hdie : s.dies.getLsbD k.die = true)
    (hv : loadWord s b.asid k.die b.taila = .ok v) (hp : b.poisoned = false) : Ends (.mxqSetTail (.seq u) c) s (noted (tailRead s k v) u c) := by
  subst hk
  refine h.ends_plain (form := spec0Form) rfl (by rw [spec0Form_eq, hspec]) (code := 0) ?_
  change issueMxqSet s (Ctx.ofUnit u w) c = _
  simp only [issueMxqSet, spec0_bit, hspec, if_true]
  exact issueTailOf_reads h rfl hb hasid hdie hv hp

end

/-- Settles O42: each family of commands by the lemmas on binding, unbinding and tails, which the doorbell and the poll share. -/
theorem chainsBindAndUnbind : Obligations.ChainsBindAndUnbind := by
  unfold Obligations.ChainsBindAndUnbind
  refine ⟨?commands, ?tails⟩
  case commands =>
    intro s u w c x family plain six undo
    refine ⟨⟨?_, ?_⟩, ⟨?_, ?_⟩, ⟨?_, ?_⟩, ⟨?_, ?_⟩⟩
    · rintro ⟨h, hbit⟩ hform hal hhold hfree hmask bs hd hbs hlegal hseq
      exact chainCtl_binds h (by decide) hform rfl rfl hbit hal rfl hhold hfree hmask hbs hlegal hseq
    · rintro ⟨h, hbit⟩ hform b hb hasid hun
      exact chainCtl_unbinds (o := .gathChain) (kind := .gre) h (by decide) hform rfl rfl hbit rfl hb hasid hun
    · rintro ⟨h, hbit⟩ hform hal hhold hfree hmask bs hd hbs hlegal hseq
      exact chainCtl_binds h (by decide) hform rfl rfl hbit hal rfl hhold hfree hmask hbs hlegal hseq
    · rintro ⟨h, hbit⟩ hform b hb hasid hun
      exact chainCtl_unbinds (o := .qntChain) (kind := .qe) h (by decide) hform rfl rfl hbit rfl hb hasid hun
    · rintro ⟨h, hbit⟩ hform hal hhold hfree hmask bs hd hbs hlegal hseq
      exact chainCtl_binds h (by decide) hform rfl rfl hbit hal rfl hhold hfree hmask hbs hlegal hseq
    · rintro ⟨h, hbit⟩ hform b hb hasid hun
      exact chainCtl_unbinds (o := .nmcChain) (kind := .nmc) h (by decide) hform rfl rfl hbit rfl hb hasid hun
    · rintro ⟨h, hspec, hbit, hmask⟩ hform hal hhold hfree hsub bs hd hbs hlegal hseq
      exact mxqSet_binds h hspec hbit hform hmask hal rfl hhold hfree hsub hbs hlegal hseq
    · rintro ⟨h, hspec, hbit⟩ hform b hb hasid hun
      exact mxqSet_unbinds h hspec hbit hform rfl hb hasid hun
  case tails =>
    intro s k b v hb hdie hv hp read
    refine ⟨ends_of_done rfl (readTail_reads hb hdie hv hp), fun hdue hpoll hlast => ends_of_done rfl (tailPoll_reads hb hdie hv hp hdue hpoll hlast), ?_⟩
    intro u w c hu hasid hkd plain
    have named {kind : ChainKind} {num : Nat} (hkind : k.kind = kind) (hnum : k.num = num) : k = { kind := kind, die := w.tp.die, num := num } := by
      rw [← hkind, ← hkd, ← hnum]
    refine ⟨?_, ?_, ?_, fun h hspec hkind hnum => mxqSet_tail h hspec (named hkind hnum) hb hasid hdie hv hp⟩
    · rintro h hkind ⟨h1, h2, hnum⟩
      exact tail_reads h (by decide) ⟨h1, h2⟩ rfl rfl (named hkind hnum) hb hasid hdie hv hp
    · rintro h hkind ⟨h1, h2, hnum⟩
      exact tail_reads h (by decide) ⟨h1, h2⟩ rfl rfl (named hkind hnum) hb hasid hdie hv hp
    · rintro h hkind ⟨h1, h2, hnum⟩
      exact tail_reads h (by decide) ⟨h1, h2⟩ rfl rfl (named hkind hnum) hb hasid hdie hv hp

end Sys2Proof.Machine
end

section
/-! SUPPORT. Entries of chains start and are published, and operations issued by `cmd` complete (R192 to R195); the statement on them, settled. -/

namespace Sys2Proof.Machine

open Sys2Proof.Safety

variable {s : State} {k : ChainId} {b : Bound}

/-! ## The start of an entry (R195) -/

/-- Is a chain a task queue (R219)? -/
def isQueue : ChainKind → Bool
  | .mxq => true
  | _ => false

/-- The queues are the chains of their kind. -/
theorem isQueue_eq (kind : ChainKind) : isQueue kind = decide (kind = .mxq) := by cases kind <;> rfl

/-- May a chain start entry `head + 1`: it runs, the entry lies below its tail, and its ring has room for it (R195)? -/
structure MayStartEntry (s : State) (k : ChainId) (b : Bound) : Prop where
  bound : (chainOf s k).bound = some b
  die : s.dies.getLsbD k.die = true
  runs : b.stopped = false
  binds : b.unbinding = none
  unfaulted : b.fault = none
  clean : b.poisoned = false
  below : b.head + 1 ≤ b.tail
  room : b.head + 1 ≤ b.pub + b.nent

/-- The context in which a chain issues an entry, with the base words of its base page (R188, R193). -/
def entryCtx (k : ChainId) (b : Bound) (base : List Byte) : Ctx :=
  { iss := .chain k (b.head + 1), unit := none, launch := b.launch, job := b.job, asid := b.asid, die := k.die,
    bases := (List.range 16).map fun i => BitVec.ofNat 64 (fieldAt base (8 * i) 8), tpKey := 0 }

/-- CHAIN_ENTRY_START of a chain that may start its next entry, where the entry and its base page can be read and its command is admitted, may start and is
issued (R195). -/
theorem entryStart_starts {bs base : List Byte} {c : Cmd128} {o : Sopc} {s1 : State} {code : Nat} (h : MayStartEntry s k b)
    (hbs : loadVa s b.asid k.die (b.entryVa (isQueue k.kind) (b.head + 1)) (if isQueue k.kind then 64 else 32) none = .ok bs)
    (hbase : loadVa s b.asid k.die b.basea 128 none = .ok base) (hc : c = BitVec.ofNat 128 (fieldAt bs 0 16)) (hop : Sopc.ofCode (cmdOpc c) = some o)
    (hadm : entryAdmits k.kind o = true) (hflag : flagFallback o c = (c, {})) (hser : cmdSer c = true → b.pub = b.head)
    (hwait : isQueue k.kind = false → waitRes s b.asid (BitVec.ofNat 64 (fieldAt bs 16 8)) = .met)
    (hissue : (if isQueue k.kind then issueRecord s (entryCtx k b base) c k.num (b.head + 1) b.lastRing (bs.drop 16)
      else issueBy o s (entryCtx k b base) c) = .st s1 code) :
    entryStart s k = entryStarted s s1 (entryCtx k b base) k (b.head + 1) o.engine c code {} := by
  obtain ⟨hb, hdie, hruns, hun, hfault, hclean, hbelow, hroom⟩ := h
  have hgo : (!s.dies.getLsbD k.die || b.stopped || b.unbinding.isSome || b.fault.isSome || b.poisoned || decide (b.tail < b.head + 1) ||
      decide (b.pub + b.nent < b.head + 1)) = false := by
    simp only [hdie, hruns, hun, hfault, hclean, Nat.not_lt.2 hbelow, Nat.not_lt.2 hroom, Bool.not_true, Option.isSome_none, decide_false, Bool.or_self]
  have hnoser : (cmdSer c && decide (b.pub ≠ b.head)) = false := by
    cases hs : cmdSer c with
    | false => rfl
    | true => simp [hser hs]
  have hread : ((loadVa s b.asid k.die (b.entryVa (isQueue k.kind) (b.head + 1)) (if isQueue k.kind then 64 else 32) none).bind fun bs =>
      (loadVa s b.asid k.die b.basea 128 none).map fun base => (bs, base)) = .ok (bs, base) := by
    simp only [hbs, hbase, Got.bind, Got.map]
  obtain ⟨kind, die, num⟩ := k
  subst hc
  cases kind with
  | mxq =>
    simp only [isQueue, entryCtx, if_true] at hread hissue
    simp only [entryStart, hb, hgo, hread, hop, Option.bind_some, hadm, hflag, hnoser, hissue, if_true, if_false, Bool.false_eq_true]
    rfl
  | _ =>
    simp only [isQueue, entryCtx, Bool.false_eq_true, if_false] at hread hissue
    simp only [entryStart, hb, hgo, hread, hop, Option.bind_some, hadm, hflag, hnoser, hwait rfl, hissue, if_true, if_false, Bool.false_eq_true]
    rfl

/-! ## Publishing an entry (R192, R195) -/

/-- CHAIN_ENTRY_FINISH of an operation of entry `e` that ended, for a chain without a vector: the status word, the sequence word where the published number has
moved, and with NTF the number of the entry are written, and the operation is gone (R192, R195). -/
theorem entryFinish_publishes {n e st : Nat} {o : EngOp} {s1 s2 s3 : State} (ho : kget s.ops n = some o) (hiss : o.iss = .chain k e)
    (hfin : o.fin = some st) (hfault : o.fault = none) (hb : (chainOf s k).bound = some b) {p : Nat × List Nat}
    (hp : advancePub (b.finished.length + 1) b.pub (e :: b.finished) = p)
    (h1 : storeObj s b.job b.asid (b.statVa (isQueue k.kind) e) (wordBytes (statusWord e st o.conv o.warn o.corrected)) = .ok s1)
    (h2 : (if p.1 = b.pub then .ok s1 else storeObj s1 b.job b.asid b.seqa (leBytes 8 p.1)) = .ok s2)
    (h3 : (if o.ntf && b.ntfa ≠ 0 then storeObj s2 b.job b.asid b.ntfa (leBytes 8 e) else .ok s2) = .ok s3) (hvec : b.vec = none) :
    entryFinish s n = settleUnbind (modBound { s3 with ops := kdel s3.ops n } k fun b =>
      { b with pub := p.1, finished := p.2, streamed := (if o.streams = true then e :: b.streamed else b.streamed).filter fun t => p.1 < t }) k := by
  have hst : (if o.fault.isSome && !jobKilled s o.job then none else o.fin) = some st := by simp [hfault, hfin]
  have hmine : ∀ l, (if o.streams = true then [e] else []) ++ l = if o.streams = true then e :: l else l := by intro l; cases o.streams <;> rfl
  subst hp
  obtain ⟨kind, die, num⟩ := k
  cases kind with
  | mxq | gre | qe | nmc =>
    simp only [isQueue] at h1
    simp only [entryFinish, ho, hiss, hst, hb, h1, h2, h3, hvec, hmine]
    cases o.ntf <;> rfl

/-! ## Operations issued by `cmd` (R192) -/

/-- ENGINE_OP_COMPLETE of an operation issued by `cmd` that has ended: it is gone, and with NTF its unit's `ntfc` counts (R192). -/
theorem opComplete_notifies {n st : Nat} {o : EngOp} {u : UnitId} (ho : kget s.ops n = some o) (hiss : o.iss = .seq u) (hfin : o.fin = some st)
    (hfault : o.fault = none) : opComplete s n = if o.ntf then notifyUnit { s with ops := kdel s.ops n } u else { s with ops := kdel s.ops n } := by
  simp only [opComplete, ho, hiss, hfin, hfault, Option.isSome_none, Bool.false_and, Bool.false_eq_true, if_false]

/-- Settles O43: an entry starts by what its ring, its base page and its issue give, and is published by what its stores give. -/
theorem entriesStartAndFinish : Obligations.EntriesStartAndFinish := by
  unfold Obligations.EntriesStartAndFinish
  refine ⟨?start, ?finish, fun s n o u st ho hiss hfin hfault => ends_of_done rfl (opComplete_notifies ho hiss hfin hfault)⟩
  case start =>
    intro s k b bs base o s1 code hb hdie hruns hun hfault hclean hbelow hroom mx hbs hbase c hop hadm hflag hser hwait x hissue
    have hmx : decide mx = isQueue k.kind := (isQueue_eq k.kind).symm
    have hmx' : mx ↔ isQueue k.kind = true := by rw [← hmx, decide_eq_true_eq]
    refine ends_of_done rfl (entryStart_starts ⟨hb, hdie, hruns, hun, hfault, hclean, hbelow, hroom⟩ ?_ hbase rfl hop hadm hflag hser ?_ ?_)
    · simpa only [hmx', Bool.decide_eq_true] using hbs
    · intro hno
      exact hwait (by simp [hmx', hno])
    · simp only [hmx'] at hissue
      exact hissue
  case finish =>
    intro s n o k e b st s1 s2 s3 ho hiss hfin hfault hb word p h1 h2 h3 hvec
    have hs2 : (if p.1 = b.pub then .ok s1 else storeObj s1 b.job b.asid b.seqa (leBytes 8 p.1)) = Got.ok s2 := by
      by_cases hmoved : p.1 = b.pub
      · rw [if_pos hmoved] at h2 ⊢
        rw [h2]
      · rwa [if_neg hmoved] at h2 ⊢
    have hs3 : (if o.ntf && b.ntfa ≠ 0 then storeObj s2 b.job b.asid b.ntfa (leBytes 8 e) else .ok s2) = Got.ok s3 := by
      simp only [Bool.and_eq_true, decide_eq_true_eq]
      by_cases hntf : o.ntf = true ∧ b.ntfa ≠ 0
      · rwa [if_pos hntf] at h3 ⊢
      · rw [if_neg hntf] at h3 ⊢
        rw [h3]
    rw [← isQueue_eq] at h1
    exact ends_of_done rfl (entryFinish_publishes ho hiss hfin hfault hb rfl h1 hs2 hs3 hvec)

end Sys2Proof.Machine
end

section
/-! SUPPORT. Matrix commands at their issue, and the steps of an MXE: tiles, swaps, and tasks that start, end and rerun (R219 to R224, R359); the statement,
settled. -/

namespace Sys2Proof.Machine

open Sys2Proof.Safety

variable {s : State} {u : UnitId} {w : WorkUnit} {c : Cmd128}

/-! ## Commands (R220 to R222) -/

/-- Checks that do not fail, behind others, leave the code of those. -/
theorem lowest_append_of_zero (l : List (Bool × Nat)) {l' : List (Bool × Nat)} (h : lowest l' = 0) : lowest (l ++ l') = lowest l := by
  induction l with
  | nil => exact h
  | cons p l ih => simp only [List.cons_append, lowest, ih]

/-- The formats of a stationary plane, as a list. -/
theorem mxFmtOk_iff (f : Nat) : mxFmtOk f = true ↔ f ∈ [3, 5, 6, 7, 8] := by simp [mxFmtOk, or_assoc]

/-- The load of an `ldstat` (Table 8.14). -/
def ldstatOf (u : UnitId) (w : WorkUnit) (c : Cmd128) : LdstatOp :=
  { waddr := (Ctx.ofUnit u w).va (fld c 95 56), wfmt := BitVec.ofNat 4 (fld c 55 52), k := fld c 51 44 + 1, n := fld c 43 36 + 1,
    wstr := fld c 35 12, scl := c.getLsbD 112, left := mxesOf (fld c 111 96) }

/-- Put an operation behind the loads that an MXE still has to make (R220). -/
def queueLoad (n die : Nat) (t : State) (m : Nat) : State := putMxe t die m { mxeOf t die m with loads := (mxeOf t die m).loads ++ [n] }

/-- Put an operation behind the swaps that an MXE still has to make (R221). -/
def queueSwap (n die : Nat) (t : State) (m : Nat) : State := putMxe t die m { mxeOf t die m with swaps := (mxeOf t die m).swaps ++ [n] }

/-- `ldstat` of an admitted format enters its operation and queues it at each MXE of its mask (R220). -/
theorem ldstat_enters (hres : fld c 11 0 = 0) (hfmt : fld c 55 52 ∈ [3, 5, 6, 7, 8]) (hlg : fld c 55 52 = 7 → (fld c 43 36 + 1) % 4 = 0)
    (hne : mxesOf (fld c 111 96) ≠ []) :
    issueLdstat s (Ctx.ofUnit u w) c =
      .st ((mxesOf (fld c 111 96)).foldl (queueLoad s.nextId w.tp.die) (entered s u w .mxe c (.ldstat (ldstatOf u w c)))) 0 := by
  have hform : (decide (fld c 11 0 ≠ 0) || decide (fld c 55 52 = 7) && decide ((fld c 43 36 + 1) % 4 ≠ 0)) = false := by
    by_cases h7 : fld c 55 52 = 7
    · simp [hres, hlg h7]
    · simp [hres, h7]
  have hne' : (mxesOf (fld c 111 96)).isEmpty = false := List.isEmpty_eq_false_iff.2 hne
  simp only [issueLdstat, hform, (mxFmtOk_iff _).2 hfmt, Bool.not_true, lowest_cons_false, lowest_nil, checked_zero, addOp_ofUnit, spec0_bit, hne',
    Bool.false_eq_true, if_false]
  rfl

/-- `mxswap` of MXEs that its queue has enters its operation and queues it at each of them (R221). -/
theorem mxswap_enters {b : Bound} (hb : (chainOf s { kind := .mxq, die := w.tp.die, num := fld c 95 92 }).bound = some b) (hown : b.asid = w.asid)
    (hres : fld c 51 0 = 0) (hset : BitVec.ofNat 16 (fld c 111 96) &&& ~~~b.mask = 0) (hne : mxesOf (fld c 111 96) ≠ []) :
    issueMxswap s (Ctx.ofUnit u w) c =
      .st ((mxesOf (fld c 111 96)).foldl (queueSwap s.nextId w.tp.die)
        (entered s u w .mxe c (.swap { queue := fld c 95 92, bseq := fld c 91 52, left := mxesOf (fld c 111 96), met := false }))) 0 := by
  have hmask : (BitVec.ofNat 16 (fld c 111 96)).toNat = fld c 111 96 := by
    rw [BitVec.toNat_ofNat]
    exact Nat.mod_eq_of_lt (c.extractLsb' 96 16).isLt
  have hne' : (mxesOf (fld c 111 96)).isEmpty = false := List.isEmpty_eq_false_iff.2 hne
  simp only [issueMxswap, Ctx.ofUnit_die, Ctx.ofUnit_asid, hb, hown, hres, hset, hmask, hne', Option.map_some, Option.getD_some, Option.isNone_some,
    ne_eq, not_true_eq_false, decide_false, lowest_cons_false, lowest_nil, checked_zero, addOp_ofUnit, Bool.false_eq_true, if_false]
  rfl

/-- `mxtask` for a bound queue enters a task outside its numbering, the queue's last (R222; log entry 147). -/
theorem mxtask_enters {b : Bound} (hb : (chainOf s { kind := .mxq, die := w.tp.die, num := fld c 111 108 }).bound = some b) (hown : b.asid = w.asid)
    (hok : lowest (taskChecks c) = 0) (hwarn : taskWarn c = {}) (hal : (Ctx.ofUnit u w).va (fld c 107 68) % 64 = 0) :
    issueMxtask s (Ctx.ofUnit u w) c =
      .st (modBound (entered s u w .mxe c (.task (taskOf (Ctx.ofUnit u w) c 0 b.lastTask))) { kind := .mxq, die := w.tp.die, num := fld c 111 108 }
        fun b => { b with lastTask := s.nextId }) 0 := by
  have hall : lowest (taskChecks c ++ [((false : Bool), stForm), (false, stState), (false, stOwner)]) = 0 :=
    (lowest_append_of_zero _ rfl).trans hok
  simp only [issueMxtask, Ctx.ofUnit_die, Ctx.ofUnit_asid, hb, hown, hal, hwarn, hall, Option.map_some, Option.getD_some, Option.isNone_some, ne_eq,
    not_true_eq_false, decide_false, checked_zero, addOp_ofUnit, cmdWarn_none]

/-! ## Tiles and swaps (R220, R221) -/

/-- LDSTAT_COMPLETE of the oldest load of an MXE fills its shadow plane, and ends the operation after its last MXE (R220). -/
theorem ldstatDone_fills {die m n : Nat} {rest : List Nat} {o : EngOp} {l : LdstatOp} {p : MxPlane} (hl : (mxeOf s die m).loads = n :: rest)
    (ho : kget s.ops n = some o) (hb : o.body = .ldstat l) (hmay : mayStart s n o = true) (hfault : o.fault = none) (hp : readTile s o l = .ok p) :
    ldstatDone s die m =
      let t := modOp (opReads (putMxe s die m { mxeOf s die m with loads := rest, shadow := p }) n) n fun o =>
        { o with body := .ldstat { l with left := l.left.filter fun i => i ≠ m } }
      if (l.left.filter fun i => i ≠ m).isEmpty then finishOp t n 0 else t := by
  simp only [ldstatDone, hl, ho, hb, hmay, hfault, hp, Bool.not_true, Option.isSome_none, Bool.or_self, Bool.false_eq_true, if_false]

/-- MXSWAP_EXCHANGE of an MXE without a task and without earlier loads, its barrier met, exchanges its planes, and ends the operation after its last MXE
(R221). -/
theorem swapExchange_swaps {die m n p : Nat} {rest : List Nat} {o : EngOp} {y : SwapOp} (hs : (mxeOf s die m).swaps = n :: rest)
    (ho : kget s.ops n = some o) (hb : o.body = .swap y) (hmay : mayStart s n o = true) (hfree : (mxeOf s die m).task = none)
    (hloads : ∀ l ∈ (mxeOf s die m).loads, n ≤ l) (hpub : published s { kind := .mxq, die := die, num := y.queue } = some p) (hle : y.bseq ≤ p) :
    swapExchange s die m =
      let e := mxeOf s die m
      let t := modOp (putMxe s die m { e with swaps := rest, stat := e.shadow, shadow := e.stat }) n fun o =>
        { o with body := .swap { y with left := y.left.filter fun i => i ≠ m } }
      if (y.left.filter fun i => i ≠ m).isEmpty then finishOp t n 0 else t := by
  have hnone : (mxeOf s die m).loads.any (fun l => l < n) = false := List.any_eq_false.2 fun l hl => by simpa using hloads l hl
  simp only [swapExchange, hs, ho, hb, hmay, hfree, hnone, hpub, hle, decide_true, Bool.or_true, Bool.not_true, Option.isSome_none, Bool.or_self,
    Bool.false_eq_true, if_false]

/-! ## Tasks (R223, R359) -/

/-- A task without CONT continues no accumulator (R222). -/
theorem continues_of_not_cont {t : TaskOp} (h : t.cont = false) (asid : BitVec 12) (a : MxAcc) : t.continues asid a = false := by
  simp [TaskOp.continues, h]

/-- The accumulator of a task that may start on an MXE: none without CONT, where the MXE has none, or the one of the MXE that it continues, in its own mode
(R222, R223; log entry 147). -/
inductive StartsFrom (s : State) (die m : Nat) (asid : BitVec 12) (t : TaskOp) : Option MxAcc → Prop
  | fresh (hcont : t.cont = false) (hacc : (mxeOf s die m).acc = none) : StartsFrom s die m asid t none
  | cont {a : MxAcc} (hacc : (mxeOf s die m).acc = some a) (hcont : t.continues asid a = true) (hmode : a.mode = t.mode)
      (hat : accAt s die asid t = some m) (hspill : spilledFor s die asid t = none) : StartsFrom s die m asid t (some a)

namespace StartsFrom

variable {die m n : Nat} {asid : BitVec 12} {t : TaskOp} {own : Option MxAcc} {o : EngOp}

/-- Nothing of the task's queue is spilled. -/
theorem not_spilled (h : StartsFrom s die m asid t own) : spilledFor s die asid t = none := by
  cases h with
  | fresh hcont => simp [spilledFor, hcont]
  | cont _ _ _ _ hspill => exact hspill

/-- What the task continues lies on this MXE or nowhere, and not nowhere under CONT. -/
theorem home (h : StartsFrom s die m asid t own) : accAt s die asid t = if t.cont then some m else none := by
  cases h with
  | fresh hcont =>
    rw [hcont, if_neg (by simp), accAt, List.find?_eq_none]
    intro i _
    cases (mxeOf s die i).acc <;> simp [continues_of_not_cont hcont]
  | cont _ hcont _ hat =>
    have hc : t.cont = true := by
      cases hc : t.cont
      · simp [continues_of_not_cont hc] at hcont
      · rfl
    rw [hat, hc, if_pos rfl]

/-- Nothing stands in the task's way. -/
theorem way (h : StartsFrom s o.die m o.asid t own) : inTheWay s n o t (mxeOf s o.die m) = none := by
  cases h with
  | fresh _ hacc => simp [inTheWay, hacc]
  | cont hacc hcont => simp [inTheWay, hacc, hcont]

/-- The task starts from this accumulator. -/
theorem acc (h : StartsFrom s o.die m o.asid t own) : startAcc s o t (mxeOf s o.die m) = .ok own := by
  have hsp := h.not_spilled
  cases h with
  | fresh _ hacc => simp [startAcc, hacc, hsp]
  | cont hacc hcont =>
    have hmine := Option.filter_some_pos hcont
    simp only [startAcc, hacc, hmine]

/-- Its mode is the task's. -/
theorem mode (h : StartsFrom s die m asid t own) : (own.map fun a => decide (a.mode ≠ t.mode)).getD false = false := by
  cases h with
  | fresh => rfl
  | cont _ _ hmode => simp [hmode]

end StartsFrom

/-- MXE_TASK_START of a task whose dependences are met, on a free MXE of its queue's set with a fitting plane, gives it the MXE with the accumulator that it
starts from (R223). -/
theorem taskStart_gives {m n : Nat} {o : EngOp} {t : TaskOp} {b : Bound} {own : Option MxAcc} (ho : kget s.ops n = some o) (hb : o.body = .task t)
    (hmay : mayStart s n o = true) (hfault : o.fault = none) (hmxe : t.mxe = none) (hrec : t.rec_ = none) (hdeps : depsMet s o t = true)
    (hq : (chainOf s (t.chain o.die)).bound = some b) (hset : b.mask.getLsbD m = true) (hfree : (mxeOf s o.die m).task = none)
    (hswap : swapBlocks s (mxeOf s o.die m) t = false) (hfit : planeFit t (mxeOf s o.die m).stat = 0) (hown : StartsFrom s o.die m o.asid t own) :
    taskStart s n m = giveMxe s n m o t own := by
  have hread : taskStart s n m = startRead s n m o t := by
    simp only [taskStart, ho, hb, hmay, hfault, hmxe, hrec, Option.isSome_none, Bool.not_true, Bool.or_self, Bool.false_eq_true, if_false]
  have hhome : ((accAt s o.die o.asid t).isSome && decide (accAt s o.die o.asid t ≠ some m)) = false := by
    rw [hown.home]
    cases t.cont <;> simp
  have hlost : (t.cont && (accAt s o.die o.asid t).isNone && (spilledFor s o.die o.asid t).isNone) = false := by
    rw [hown.home]
    cases t.cont <;> simp
  have hwith : startWith s n m o t own = giveMxe s n m o t own := by
    simp only [startWith, hown.mode, hown.not_spilled, hown.way, Option.isSome_none, Bool.false_eq_true, if_false]
  rw [hread]
  simp only [startRead, hdeps, hq, hset, hfree, hswap, hhome, hlost, hown.way, hfit, hown.acc, hwith, Option.map_none, Option.getD_none, Option.isSome_none,
    Bool.not_true, Bool.or_self, Bool.false_eq_true, ne_eq, not_true_eq_false, if_false]

/-- MXE_TASK_END of a task whose activations lie in memory, without REL: its products are added, its accumulator stays, and the flags of its operands and
products join CONV (R194, R223; log entry 46). -/
theorem taskEnd_adds {n m act : Nat} {o : EngOp} {t : TaskOp} {rows : List (List (Nat × Nat))} (ho : kget s.ops n = some o) (hb : o.body = .task t)
    (hfin : o.fin = none) (hfault : o.fault = none) (hmxe : t.mxe = some m) (hres : t.results = none) (hact : t.act = some act) (hrel : t.rel = false)
    (hrows : memRows s o t act t.m 0 = .ok rows) :
    taskEnd s n =
      let r := runTask o t (mxeOf s o.die m).stat rows
      leaveMxe (modOp (opReads (setTask s n t) n) n fun o => { o with conv := (o.conv.or t.operandFlags).or r.2 }) n m 0 o t (some r.1) := by
  have hrows' : memRows (setTask s n t) o t act t.m 0 = .ok rows := by
    rw [setTask, (seesSame_modOp s n _).memRows, hrows]
  have hconv (x : State) (f g : Flags) : modOp (modOp x n fun o => { o with conv := o.conv.or f }) n (fun o => { o with conv := o.conv.or g }) =
      modOp x n fun o => { o with conv := (o.conv.or f).or g } := by
    simp only [modOp, kmod_kmod]
  simp only [taskEnd, ho, hb, hmxe, hfin, hfault, hres, hact, hrows', outputTask, hrel, hconv, Option.isSome_none, Option.isNone_some, Bool.or_self,
    Bool.false_and, Bool.not_false, Bool.false_eq_true, if_false, if_true]
  rfl

/-- MXE_RESIDUE_FAIL puts back the accumulator with which the task of the MXE started (R359). -/
theorem residueFail_restores {n die m : Nat} {o : EngOp} {t : TaskOp} (htask : (mxeOf s die m).task = some n) (ho : kget s.ops n = some o)
    (hb : o.body = .task t) (hres : t.results = none) :
    residueFail s die m = putMxe (modOp s n fun o => { o with conv := Flags.none }) die m { mxeOf s die m with acc := t.start } := by
  simp only [residueFail, htask, ho, hb, hres, Option.bind_some, Option.map_some, Option.isSome_none, Bool.false_eq_true, if_false]

/-- Settles O44: the commands by their checks, and the steps of an MXE by what its loads, swaps and task hold. -/
theorem matrixCommands : Obligations.MatrixCommands := by
  unfold Obligations.MatrixCommands
  refine ⟨?commands, ?steps⟩
  case commands =>
    intro s u w c x die ms l q
    refine ⟨fun h hres hfmt hlg hne => ?_, fun b hb hown h hres hset hne => ?_, fun b hb hown h hok hwarn hal => ?_⟩
    · exact h.ends_plain (form := anyForm) rfl rfl (ldstat_enters hres hfmt hlg hne)
    · exact h.ends_plain (form := anyForm) rfl rfl (mxswap_enters hb hown hres hset hne)
    · exact h.ends_plain (form := anyForm) rfl rfl (mxtask_enters hb hown hok hwarn hal)
  case steps =>
    intro s die m e after
    refine ⟨?load, ?swap, ?start, ?stop, ?rerun⟩
    case load =>
      intro n rest o l p hl ho hb hmay hfault hp
      exact ends_of_done rfl (ldstatDone_fills hl ho hb hmay hfault hp)
    case swap =>
      rintro n rest o y hs ho hb hmay hfree hloads ⟨p, hpub, hle⟩
      exact ends_of_done rfl (swapExchange_swaps hs ho hb hmay hfree hloads hpub hle)
    case start =>
      rintro n o t b own ho hb rfl hmay hfault hmxe hrec hdeps hq hset hfree hswap hfit hcase
      have hown : StartsFrom s o.die m o.asid t own := by
        rcases hcase with ⟨hcont, hacc, rfl⟩ | ⟨a, hacc, rfl, hcont, hmode, hat, hspill⟩
        · exact .fresh hcont hacc
        · exact .cont hacc hcont hmode hat hspill
      exact ends_of_done rfl (taskStart_gives ho hb hmay hfault hmxe hrec hdeps hq hset hfree hswap hfit hown)
    case stop =>
      rintro n o t act rows ho hb rfl hfin hfault hmxe hres hact hrel hrows
      exact ends_of_done rfl (taskEnd_adds ho hb hfin hfault hmxe hres hact hrel hrows)
    case rerun =>
      intro n o t htask ho hb hres
      exact ends_of_done rfl (residueFail_restores htask ho hb hres)

end Sys2Proof.Machine
end

section
/-! SUPPORT. A machine that lists a journal stream twice, and what `emit.jnl` makes of it (R229, R385); the statement on dead units and journal streams, refuted. -/

namespace Sys2Proof.Machine

open Sys2Proof.Safety Sys2Proof.Tests

/-- A stream of the test context, bound to a backstay that its port does not reach. -/
def strayStream : JStream := { JStream.initial with holder := some 0xFFF, state := 1, bsdev := 5 }

/-- The test machine with stream 15 of die 0 listed twice: first as the machine reads it, free, and once more, bound to a backstay that its port does not reach. -/
def sTwice : State := { sC with journals := [(15, { JStream.initial with holder := some 0xFFF }), (15, strayStream)] }

/-- The state of a journal stream after a meaning (R385): 2 is lost, 3 bound to the local device. -/
def streamAfter (r : Res) (die j : Nat) : Option (BitVec 2) :=
  match r with
  | .next t => some (journalOf t die j).state
  | _ => none

/-- The check of bound streams meets the second entry, and the stream just bound to the local device is lost (R385). -/
theorem emitJnl_loses_stream_listed_twice : streamAfter (exec (.emitJnl (.seq 0) cJnl) sTwice) 0 15 = some 2 := by decide

/-- The unit offers `emit.jnl` there. -/
theorem sTwice_offers : Offers sTwice 0 unit0 .emitJnl cJnl := test_offers_also (test_offers (.emitJnl, cJnl) (by simp)) rfl rfl rfl

/-- Refutes O45: the list of streams may hold the stream of an `emit.jnl` twice, where the statement asks of the other streams only that they keep their ports.
Bound to the local device, the stream is then lost at once for its second entry's sake, and not bound. -/
theorem not_deadRegionsAndJournals : ¬ Obligations.DeadRegionsAndJournals := by
  unfold Obligations.DeadRegionsAndJournals
  intro h
  obtain ⟨-, hjournal⟩ := h sTwice 0 unit0 cJnl
  obtain ⟨hbind, -⟩ := hjournal (by decide)
  have hothers : ∀ y ∈ sTwice.journals, y.1 ≠ 16 * unit0.tp.die + fld cJnl 111 108 → y.2.state = 1 →
      (linkOf sTwice (16 + y.2.port.toNat)).state ≠ 2 ∧ (linkOf sTwice (16 + y.2.port.toNat)).peer = y.2.bsdev := by decide
  have hends := hbind sTwice_offers (by decide) (by decide) (by decide) (by decide) (.inl (by decide)) hothers
  have hlost : some 2 = streamAfter _ 0 15 := emitJnl_loses_stream_listed_twice.symm.trans (congrArg (fun r => streamAfter r 0 15) hends)
  exact absurd hlost (by decide)

end Sys2Proof.Machine
end

section
/-! SUPPORT. The statements on scalar arithmetic, predicates and plane seed registers (R237 to R239, R243), settled. -/

namespace Sys2Proof.Machine

open Sys2Proof.Safety Sys2Proof.Laws

/-! ## Shifts and products, written with integers -/

theorem add_eq_ofNat (a b : Word) : a + b = BitVec.ofNat 64 (a.toNat + b.toNat) := by
  rw [BitVec.ofNat_add, BitVec.ofNat_toNat, BitVec.ofNat_toNat, BitVec.setWidth_eq, BitVec.setWidth_eq]

theorem sub_eq_ofInt (a b : Word) : a - b = BitVec.ofInt 64 (a.toInt - b.toInt) := by
  apply BitVec.eq_of_toInt_eq
  rw [BitVec.toInt_sub, BitVec.toInt_ofInt]

theorem mul_eq_ofInt (a b : Word) : a * b = BitVec.ofInt 64 (a.toInt * b.toInt) := by
  rw [BitVec.ofInt_mul, BitVec.ofInt_toInt, BitVec.ofInt_toInt]

theorem shiftLeft_eq_ofNat (a : Word) (n : Nat) : a <<< n = BitVec.ofNat 64 (a.toNat * 2 ^ n) := by
  apply BitVec.eq_of_toNat_eq
  rw [BitVec.toNat_shiftLeft, Nat.shiftLeft_eq, BitVec.toNat_ofNat]

theorem ushiftRight_eq_ofNat (a : Word) (n : Nat) : a >>> n = BitVec.ofNat 64 (a.toNat / 2 ^ n) := by
  rw [← Nat.shiftRight_eq_div_pow, ← BitVec.toNat_ushiftRight, BitVec.ofNat_toNat, BitVec.setWidth_eq]

/-- The shift amount of R237. -/
theorem toNat_setWidth_six (b : Word) : (b.setWidth 6).toNat = b.toNat % 64 := BitVec.toNat_setWidth ..

theorem srem_eq_ofInt_sub (a b : Word) : a.srem b = BitVec.ofInt 64 (a.toInt - b.toInt * a.toInt.tdiv b.toInt) := by
  rw [srem_eq_ofInt, Int.tmod_def]

/-- Settles O1: each word decodes to its instruction, and the function that the instruction computes is that of Table 9.3. -/
theorem registerArithmetic : Obligations.RegisterArithmetic := by
  unfold Obligations.RegisterArithmetic
  intro rd rs1 rs2
  refine ⟨computes2_of_aluR (RoundTrip.add rd rs1 rs2 _ rfl rfl) (exec_add rd rs1 rs2) add_eq_ofNat,
    computes2_of_aluR (RoundTrip.sub rd rs1 rs2 _ rfl rfl) (exec_sub rd rs1 rs2) sub_eq_ofInt,
    computes2_of_aluR (RoundTrip.and rd rs1 rs2 _ rfl rfl) (exec_and rd rs1 rs2) fun _ _ => rfl,
    computes2_of_aluR (RoundTrip.or rd rs1 rs2 _ rfl rfl) (exec_or rd rs1 rs2) fun _ _ => rfl,
    computes2_of_aluR (RoundTrip.xor rd rs1 rs2 _ rfl rfl) (exec_xor rd rs1 rs2) fun _ _ => rfl,
    computes2_of_aluR (RoundTrip.sll rd rs1 rs2 _ rfl rfl) (exec_sll rd rs1 rs2) fun a b => ?sll,
    computes2_of_aluR (RoundTrip.srl rd rs1 rs2 _ rfl rfl) (exec_srl rd rs1 rs2) fun a b => ?srl,
    computes2_of_aluR (RoundTrip.sra rd rs1 rs2 _ rfl rfl) (exec_sra rd rs1 rs2) fun a b => ?sra,
    computes2_of_aluR (RoundTrip.mul rd rs1 rs2 _ rfl rfl) (exec_mul rd rs1 rs2) mul_eq_ofInt,
    computes2_of_aluR (RoundTrip.mulh rd rs1 rs2 _ rfl rfl) (exec_mulh rd rs1 rs2) mulHigh_eq_ofInt,
    computes2_of_aluR (RoundTrip.div rd rs1 rs2 _ rfl rfl) (exec_div rd rs1 rs2) fun a b => ?div,
    computes2_of_aluR (RoundTrip.rem rd rs1 rs2 _ rfl rfl) (exec_rem rd rs1 rs2) fun a b => ?rem,
    computes2_of_aluR (RoundTrip.slt rd rs1 rs2 _ rfl rfl) (exec_slt rd rs1 rs2) fun a b => ?slt,
    computes2_of_aluR (RoundTrip.sltu rd rs1 rs2 _ rfl rfl) (exec_sltu rd rs1 rs2) fun a b => ?sltu,
    computes2_of_aluR (RoundTrip.min rd rs1 rs2 _ rfl rfl) (exec_min rd rs1 rs2) fun a b => ?min,
    computes2_of_aluR (RoundTrip.max rd rs1 rs2 _ rfl rfl) (exec_max rd rs1 rs2) fun a b => ?max⟩
  case sll => rw [shiftLeft_eq_ofNat, toNat_setWidth_six]
  case srl => rw [ushiftRight_eq_ofNat, toNat_setWidth_six]
  case sra => rw [sshiftRight_eq_ofInt, toNat_setWidth_six]
  case div => rw [divSigned, sdiv_eq_ofInt]; rfl
  case rem => rw [remSigned, srem_eq_ofInt_sub]
  case slt | sltu | min | max => simp [bit64, BitVec.slt, BitVec.ult]

/-- Settles O2: the sign-extended immediates are integers, and an immediate shift decodes exactly where bits 14 to 6 are zero. -/
theorem immediateArithmetic : Obligations.ImmediateArithmetic := by
  unfold Obligations.ImmediateArithmetic
  refine ⟨fun rd rs1 imm => ?arith, fun rd rs1 imm => ?shift, fun rd rs1 imm hbig => ?reserved, fun rd imm => ?lui⟩
  case arith =>
    refine ⟨computes1_of_aluI (RoundTrip.addi rd rs1 imm _ rfl rfl) (exec_addi rd rs1 imm) fun a => ?_,
      computes1_of_aluI (RoundTrip.andi rd rs1 imm _ rfl rfl) (exec_andi rd rs1 imm) fun _ => rfl,
      computes1_of_aluI (RoundTrip.ori rd rs1 imm _ rfl rfl) (exec_ori rd rs1 imm) fun _ => rfl,
      computes1_of_aluI (RoundTrip.xori rd rs1 imm _ rfl rfl) (exec_xori rd rs1 imm) fun _ => rfl⟩
    rw [BitVec.ofInt_add, BitVec.ofInt_toInt, signExtend_eq_ofInt]
  case shift =>
    exact ⟨computes1_of_aluI (RoundTrip.slli rd rs1 imm _ rfl rfl) (exec_slli rd rs1 imm) fun a => shiftLeft_eq_ofNat a _,
      computes1_of_aluI (RoundTrip.srli rd rs1 imm _ rfl rfl) (exec_srli rd rs1 imm) fun a => ushiftRight_eq_ofNat a _,
      computes1_of_aluI (RoundTrip.srai rd rs1 imm _ rfl rfl) (exec_srai rd rs1 imm) fun a => sshiftRight_eq_ofInt a _⟩
  case reserved =>
    have hfield (op : BitVec 7) : (encI op rd rs1 imm).extractLsb' 6 9 ≠ 0 := by
      have hlow : (encI op rd rs1 imm).extractLsb' 6 9 = imm.extractLsb' 6 9 := extract_append_low (m := 17) (n := 15) _ _ _ _ (by decide)
      rw [hlow, ne_eq, BitVec.toNat_eq, BitVec.extractLsb'_toNat, Nat.shiftRight_eq_div_pow]
      show ¬ imm.toNat / 2 ^ 6 % 2 ^ 9 = 0
      omega
    simpa [decodeWord, decShift, zeroThen] using And.intro (hfield 21) (And.intro (hfield 22) (hfield 23))
  case lui =>
    refine ⟨RoundTrip.lui rd imm _ rfl rfl, fun s u w hacts => ?_⟩
    rw [exec_lui, execLui, onUnit_acts hacts, BitVec.ofInt_mul, ← signExtend_eq_ofInt, BitVec.shiftLeft_eq_mul_twoPow]
    rfl

/-! ## Predicates and seeds -/

/-- The bit of one predicate among the eight. -/
theorem getLsbD_predMask (p q : Pred) : (BitVec.ofNat 8 (1 <<< p.toNat)).getLsbD q.toNat = decide (q = p) := by
  revert p q
  decide

/-- A predicate reads what was written to it last; a write leaves the others. -/
theorem pred_setPred (w : WorkUnit) (p q : Pred) (b : Bool) : (w.setPred p b).pred q = if q = p then b else w.pred q := by
  have hq : q.toNat < 8 := q.isLt
  have hmask := getLsbD_predMask p q
  cases b
  · show (w.preds &&& ~~~(BitVec.ofNat 8 (1 <<< p.toNat))).getLsbD q.toNat = _
    rw [BitVec.getLsbD_and, BitVec.getLsbD_not, hmask]
    split <;> simp_all [WorkUnit.pred]
  · show (w.preds ||| BitVec.ofNat 8 (1 <<< p.toNat)).getLsbD q.toNat = _
    rw [BitVec.getLsbD_or, hmask]
    split <;> simp_all [WorkUnit.pred]

/-- A seed register reads what was written to it. -/
theorem seed_setSeed_same (w : WorkUnit) (g : SeedReg) (v : Word) : (w.setSeed g v).seed g = v := by
  simp [WorkUnit.seed, WorkUnit.setSeed]

/-- A write to a seed register leaves the others. -/
theorem seed_setSeed_other (w : WorkUnit) {g q : SeedReg} (v : Word) (h : q ≠ g) : (w.setSeed g v).seed q = w.seed q := by
  have hne : g.toNat ≠ q.toNat := fun he => h (BitVec.eq_of_toNat_eq he.symm)
  simp [WorkUnit.seed, WorkUnit.setSeed, hne]

/-- The codes 6 and 7 stand for no relation. -/
theorem condOfCode_none {c : BitVec 3} (h : 6 ≤ c.toNat) : Cond.ofCode c = none := by
  revert c
  decide

/-- The codes 5 to 7 stand for no function. -/
theorem logFnOfCode_none {f : BitVec 3} (h : 5 ≤ f.toNat) : LogFn.ofCode f = none := by
  revert f
  decide

/-- Settles O4: the relation and the function by their codes, and the words whose codes or fields stand for none. -/
theorem predicatesSet : Obligations.PredicatesSet := by
  unfold Obligations.PredicatesSet
  refine ⟨fun s u w pd c rs1 rs2 hacts => ?pset, fun s u w pd pa pb f hacts => ?plog, fun pd c rs1 rs2 hc => ?badCond, fun pd pa pb f hf => ?badFn,
    fun pd pa pb hpb => ?zeroField⟩
  case pset =>
    refine ⟨_, (exec_pset pd c rs1 rs2 s).trans (onUnit_acts hacts _), fun q hq => (pred_setPred w pd q _).trans (if_neg hq), ?_⟩
    rw [pred_setPred, if_pos rfl]
    cases c <;> simp [Cond.holds, BitVec.slt, BitVec.ult]
  case plog =>
    refine ⟨_, (exec_plog pd f pa pb s).trans (onUnit_acts hacts _), fun q hq => (pred_setPred w pd q _).trans (if_neg hq), ?_⟩
    rw [pred_setPred, if_pos rfl]
    cases f <;> simp [LogFn.apply]
  case badCond => simp [decodeWord, decP, condOfCode_none hc]
  case badFn => simp [decodeWord, decL, logFnOfCode_none hf]
  case zeroField => simpa [decodeWord, decL, LogFn.ofCode, zeroThen] using hpb

/-- Settles O5: a seed register is read and written as R243 says, and the worked word decodes. -/
theorem seedRegisters : Obligations.SeedRegisters := by
  unfold Obligations.SeedRegisters
  refine ⟨fun rs g => ⟨RoundTrip.gset rs g _ rfl rfl, fun s u w hacts => ?gset⟩, fun rs g => ⟨RoundTrip.gget rs g _ rfl rfl, fun s u w hacts => ?gget⟩,
    by decide⟩
  case gset =>
    exact ⟨_, (exec_gset rs g s).trans (onUnit_acts hacts _), seed_setSeed_same w g _, fun q hq => seed_setSeed_other w _ hq⟩
  case gget => exact (exec_gget rs g s).trans (onUnit_acts hacts _)

end Sys2Proof.Machine
end

section
/-! SUPPORT. Transfers of control, traps, and the end of a sequencer (R234, R240, R252 to R256), settled. -/

namespace Sys2Proof.Machine

open Sys2Proof.Safety

variable {s : State} {u : UnitId} {w : WorkUnit}

/-! ## Jumps (R240) -/

/-- A jump to the start of a fetch block goes there, with the link written (R121, R122). -/
theorem jumpTo_aligned {target : BitVec 57} (link : Option Reg) (i : Instr) (h : target.toNat % 64 = 0) :
    jumpTo s u w target link i = .next (putUnit s u ((link.elim w fun rd => w.setReg rd (linkAddr w.pc)).goto target)) := by
  simp only [jumpTo, h, ne_eq, not_true_eq_false, if_false]
  cases link <;> rfl

/-- A jump elsewhere takes `fetch.align` at its own address (R240, R256). -/
theorem jumpTo_unaligned {target : BitVec 57} (link : Option Reg) (i : Instr) (h : target.toNat % 64 ≠ 0) :
    jumpTo s u w target link i = .next (settle (trapSeq s u w w.pc 3 (target.setWidth 64) (wordOfInstr i) 0)) := if_pos h

/-- Settles O6: a transfer goes to its target where that starts a fetch block, and traps elsewhere. -/
theorem branches : Obligations.Branches := by
  unfold Obligations.Branches
  intro s u w hacts link far trapped
  have hbr (p : Pred) (neg : Bool) (off : BitVec 21) : exec (.br p neg off) s =
      if w.pred p ^^ neg then jumpTo s u w (far off.toInt) none (.br p neg off) else .next (putUnit s u w.advance) := by
    rw [exec_br, execBr, onUnit_acts hacts, relTarget_eq_ofInt]
  have hjal (rd : Reg) (off : BitVec 20) : exec (.jal rd off) s = jumpTo s u w (far off.toInt) (some rd) (.jal rd off) := by
    rw [exec_jal, execJal, onUnit_acts hacts, relTarget_eq_ofInt]
  have hjalr (rd rs1 : Reg) (imm : BitVec 15) : exec (.jalr rd rs1 imm) s =
      jumpTo s u w (BitVec.ofInt 57 ((w.reg rs1).toNat + imm.toInt)) (some rd) (.jalr rd rs1 imm) := by
    rw [exec_jalr, execJalr, onUnit_acts hacts, address_eq_ofInt]
  refine ⟨fun p neg off ht h => ?brTaken, fun p neg off ht => ?brNot, fun rd off h => (hjal rd off).trans (jumpTo_aligned _ _ h),
    fun rd rs1 imm h => (hjalr rd rs1 imm).trans (jumpTo_aligned _ _ h), fun p neg off ht h => ?brTrap,
    fun rd off h => (hjal rd off).trans (jumpTo_unaligned _ _ h), fun rd rs1 imm h => (hjalr rd rs1 imm).trans (jumpTo_unaligned _ _ h)⟩
  case brTaken => rw [hbr, if_pos ht]; exact jumpTo_aligned _ _ h
  case brNot => rw [hbr, ht]; rfl
  case brTrap => rw [hbr, if_pos ht]; exact jumpTo_unaligned _ _ h

/-! ## Traps (R256) -/

/-- Settles O7: a trap is taken by the handler of a unit in unit mode that has one, and ends any other unit. -/
theorem trapTaken : Obligations.TrapTaken := by
  unfold Obligations.TrapTaken
  intro s u w resume cause val val2 word s1
  have hhandles : w.handles = true ↔ w.hmode = false ∧ w.hvecEn = true := by simp [WorkUnit.handles]
  by_cases h : w.handles = true
  · rw [if_pos (hhandles.1 h)]
    exact if_pos h
  · rw [if_neg fun hh => h (hhandles.2 hh)]
    exact if_neg h

/-- Settles O8: each instruction takes its trap, a CSR instruction by what its number names. -/
theorem trapsRaised : Obligations.TrapsRaised := by
  unfold Obligations.TrapsRaised
  intro s u w hacts
  refine ⟨fun rs1 code => (exec_trap rs1 code s).trans (onUnit_acts hacts _), fun x => (exec_illegalInstruction x s).trans (onUnit_acts hacts _),
    fun hmode => ?eret, fun rd rs1 n => ⟨fun habsent => ?absent, fun hn h1 h2 hmode => ?handlerOnly⟩⟩
  case eret =>
    rw [exec_eret, execEret, onUnit_acts hacts, hmode]
    rfl
  case absent => exact ⟨csrAccess_absent hacts habsent, csrAccess_absent hacts habsent, csrAccess_absent hacts habsent⟩
  case handlerOnly => exact ⟨csrAccess_private hacts hn h1 h2 hmode, csrAccess_private hacts hn h1 h2 hmode, csrAccess_private hacts hn h1 h2 hmode⟩

/-! ## `fence`, `eret` and `end` (R252, R254, R255) -/

/-- Settles O13: `fence` by its scope code, `eret` in handler mode, and `end` by the mode. -/
theorem fenceReturnEnd : Obligations.FenceReturnEnd := by
  unfold Obligations.FenceReturnEnd
  intro s u w hacts
  have hfence (sc : BitVec 3) : exec (.fence sc) s =
      .next (putUnit (if 5 ≤ sc.toNat then setWarn s w.tp.key 2 0x58 3 else s) u w.advance) := (exec_fence sc s).trans (onUnit_acts hacts _)
  refine ⟨fun sc h => ?assigned, fun sc h => ?reserved, fun hmode => ?eret, fun hmode => ?endUnit, fun hmode => ?endHandler⟩
  case assigned => rw [hfence, if_neg (Nat.not_le.2 h)]; rfl
  case reserved => rw [hfence, if_pos h]; rfl
  case eret => rw [exec_eret, execEret, onUnit_acts hacts, if_pos hmode]; rfl
  case endUnit => rw [exec_endUnit, execEndUnit, onUnit_acts hacts]; exact congrArg _ (if_neg (by simp [hmode]))
  case endHandler => rw [exec_endUnit, execEndUnit, onUnit_acts hacts]; exact congrArg _ (if_pos hmode)

end Sys2Proof.Machine
end

section
/-! SUPPORT. The statement on control and status registers (R234 to R236), settled. -/

namespace Sys2Proof.Machine

open Sys2Proof.Safety

/-- From 0x800 on the assigned numbers are those of the channels' registers (R234). -/
theorem csrRead_channels (s : State) (w : WorkUnit) {n : BitVec 12} (h : 0x800 ≤ n.toNat) :
    csrRead s w n = if n.toNat < 0x880 ∧ n.toNat % 4 ≠ 3 then some (chanReg s w.tp.die ((n.toNat - 0x800) / 4) (n.toNat % 4)) else none := by
  unfold csrRead
  split
  case h_14 => simp only [h, true_and]
  all_goals omega

end Sys2Proof.Machine

namespace Sys2Proof.Safety

open Sys2Proof.Machine

/-- Settles O9: the map by its numbers, and an access by the fields of the register that it names. -/
theorem csrAccess : Obligations.CsrAccess := by
  unfold Obligations.CsrAccess
  refine ⟨fun s w => ⟨rfl, rfl, rfl, rfl, rfl, rfl, rfl, rfl, rfl, rfl, rfl, rfl, rfl, fun ch k hch hk => ?channel, fun n => ?assigned⟩,
    fun s u w hacts n old hold hmode => ?access⟩
  case channel =>
    have hn : (BitVec.ofNat 12 (0x800 + 4 * ch + k)).toNat = 0x800 + 4 * ch + k := BitVec.toNat_ofNat .. |>.trans (Nat.mod_eq_of_lt (by omega))
    have hreg : (0x800 + 4 * ch + k - 0x800) / 4 = ch ∧ (0x800 + 4 * ch + k) % 4 = k := by omega
    rw [csrRead_channels s w (by omega), hn, hreg.1, hreg.2, if_pos (by omega)]
  case assigned =>
    unfold csrRead
    split
    case h_14 => split <;> simp_all
    all_goals simp_all
  case access =>
    intro goes
    have hgoes (m : CsrOp) (i : Instr) (rd rs1 : Reg) (hexec : exec i s = Machine.csrAccess m rd rs1 n i s) : goes m i rd rs1 := by
      have hdone := hexec.trans (csrAccess_done hacts hold hmode)
      refine ⟨fun h => hdone.trans (if_pos h), fun h => ?_⟩
      rw [if_neg h] at hdone
      intro x v clr r own left out
      have hv : m.value old (w.reg rs1) = v := by cases m <;> rfl
      have hclr : m.clears (w.reg rs1) = clr := by cases m <;> rfl
      rw [hv, hclr] at hdone
      clear hexec
      unfold csrWrite at hdone
      generalize n.toNat = k at hdone ⊢
      split
      case h_9 =>
        split at hdone
        case h_9 => exact hdone
        all_goals contradiction
      all_goals exact hdone
    exact fun rd rs1 => ⟨hgoes _ _ _ _ rfl, hgoes _ _ _ _ rfl, hgoes _ _ _ _ rfl⟩

end Sys2Proof.Safety
end

section
/-! SUPPORT. The scalar loads and stores (R241, R242): the read of one aligned piece, by what its page and its windows give. -/

namespace Sys2Proof.Machine

open Sys2Proof.Safety

section
variable {s : State} {u : UnitId} {w : WorkUnit} {va n : Nat} {acc : Access} {p : Phys} {c : BitVec 16}

/-! ## One aligned piece -/

/-- A read that has met a cancelled copy is poisoned, wherever it reads (R91). -/
theorem seqRead_poisoned (hp : w.poisoned = true) : seqRead s w va n acc = .poison := if_pos hp

/-- The read of one piece of memory waits where a window or a change of mode covers it, and else gives its bytes (R89, R309). -/
theorem seqRead_of_place (hp : w.poisoned = false) (h0 : 0 < n) (hn : n ∣ 65536) (ha : va % n = 0) (hv : va < 2 ^ 57) (hpl : place s w.asid va n acc = .ok p) :
    seqRead s w va n acc =
      if (windowed s none p n || tierBusy s p) = true then .waits (if windowed s none p n then [(p, n)] else []) else .ok (readPhys s w.tp.die p n) := by
  have hmap : mapRange s w.asid va n acc = .ok [(0, p, n)] := by rw [mapRange_one s w.asid va n acc h0 (aligned_in_unit hn ha) hv, hpl]; rfl
  unfold seqRead
  rw [hmap, hp]
  cases hw : windowed s none p n <;> simp [hw]

/-- The read of one piece that is refused is refused with its address. -/
theorem seqRead_of_bad (hp : w.poisoned = false) (h0 : 0 < n) (hn : n ∣ 65536) (ha : va % n = 0) (hv : va < 2 ^ 57)
    (hpl : place s w.asid va n acc = .bad c va) : seqRead s w va n acc = .bad c va := by
  have hmap : mapRange s w.asid va n acc = .bad c va := by rw [mapRange_one s w.asid va n acc h0 (aligned_in_unit hn ha) hv, hpl]; rfl
  unfold seqRead
  rw [hmap, hp]
  rfl

theorem place_of_bad (h : translate s w.asid va acc = .bad c) : place s w.asid va n acc = .bad c va := by
  unfold place
  rw [h]

/-- A page of the BTE aperture holds no memory (R242, R339). -/
theorem place_of_aperture {d off : Nat} (h : translate s w.asid va acc = .ok (.aperture d off)) : place s w.asid va n acc = .bad cMemAttr va := by
  unfold place
  rw [h]

/-! ## Faults -/

/-- A fault that no re-walk serves is a trap (R256). -/
theorem seqFault_traps {word : BitVec 32} (h3 : c ≠ 0x13) (h4 : c ≠ 0x14) (h5 : c ≠ 0x15) :
    seqFault s u w acc c va word = trapSeq s u w w.pc c (BitVec.ofNat 64 va) word 0 :=
  (if_neg h5).trans (if_neg (not_or.2 ⟨h3, h4⟩))

/-- A translation fault withholds the access with one record (R332). -/
theorem seqFault_withholds {word : BitVec 32} (h : c = 0x13 ∨ c = 0x14) :
    seqFault s u w acc c va word =
      recordSeq (putUnit s u { w with held := some { va := va, acc := acc, at_ := s.tb } }) w c word (BitVec.ofNat 64 va) 0 := by
  have h5 : c ≠ cMemUce := by rcases h with rfl | rfl <;> decide
  exact (if_neg h5).trans (if_pos h)

end

/-! ## Loads and stores -/

section
variable {s : State} {u : UnitId} {w : WorkUnit} {n : Nat} {sg : Bool} {r rs1 : Reg} {imm : BitVec 15} {i : Instr}

theorem loadScalar_unaligned (hacts : Acts s u w) (ha : memAddr w rs1 imm % n ≠ 0) :
    loadScalar n sg r rs1 imm i s = trapHere s u w 0x10 (BitVec.ofNat 64 (memAddr w rs1 imm)) i := by
  unfold loadScalar
  rw [onUnit_acts hacts]
  exact if_pos ha

/-- An aligned load of a page that is no queue's reads as its sequencer does (R241). -/
theorem loadScalar_reads (hacts : Acts s u w) (ha : memAddr w rs1 imm % n = 0)
    (hq : ∀ d g off, translate s w.asid (memAddr w rs1 imm) .read ≠ .ok (.queue d g off)) :
    loadScalar n sg r rs1 imm i s = (seqRead s w (memAddr w rs1 imm) n .read).andThen s u w .read (memAddr w rs1 imm) i
      fun bs => retire s u { w with winWait := [] } r (loadValue n sg bs) := by
  unfold loadScalar
  rw [onUnit_acts hacts]
  refine (if_neg (not_not.2 ha)).trans ?_
  split
  case h_1 d g off h => exact absurd h (hq d g off)
  case h_2 => rfl

theorem storeScalar_unaligned (hacts : Acts s u w) (ha : memAddr w rs1 imm % n ≠ 0) :
    storeScalar n r rs1 imm i s = trapHere s u w 0x10 (BitVec.ofNat 64 (memAddr w rs1 imm)) i := by
  unfold storeScalar
  rw [onUnit_acts hacts]
  exact if_pos ha

theorem storeScalar_of_bad {c : BitVec 16} (hacts : Acts s u w) (ha : memAddr w rs1 imm % n = 0)
    (h : translate s w.asid (memAddr w rs1 imm) .write = .bad c) :
    storeScalar n r rs1 imm i s = done (seqFault s u w .write c (memAddr w rs1 imm) (wordOfInstr i)) := by
  unfold storeScalar
  rw [onUnit_acts hacts]
  simp only []
  rw [if_neg (not_not.2 ha), h]

theorem storeScalar_of_aperture {d off : Nat} (hacts : Acts s u w) (ha : memAddr w rs1 imm % n = 0)
    (h : translate s w.asid (memAddr w rs1 imm) .write = .ok (.aperture d off)) :
    storeScalar n r rs1 imm i s = trapHere s u w 0x12 (BitVec.ofNat 64 (memAddr w rs1 imm)) i := by
  unfold storeScalar
  rw [onUnit_acts hacts]
  simp only []
  rw [if_neg (not_not.2 ha), h]
  rfl

end

/-! ## The value of a load (R241) -/

@[simp] theorem length_readPhys (s : State) (d : Nat) (p : Phys) (n : Nat) : (readPhys s d p n).length = n := by
  cases p <;> simp [readPhys]

/-- A zero-extended load gives the number that the bytes hold. -/
theorem loadValue_unsigned {n : Nat} {bs : List Byte} (hlen : bs.length = n) : loadValue n false bs = BitVec.ofNat 64 (leNat bs) := by
  have hlt : leNat bs < 2 ^ (8 * n) := by
    rw [Nat.pow_mul, ← hlen]
    exact leNat_lt bs
  apply BitVec.eq_of_toNat_eq
  simp [loadValue, Nat.mod_eq_of_lt hlt]

/-- A sign-extended load gives the signed number that the bytes hold. -/
theorem loadValue_signed (n : Nat) (bs : List Byte) : loadValue n true bs = BitVec.ofInt 64 (BitVec.ofNat (8 * n) (leNat bs)).toInt := rfl

/-- The address of a load or store lies in the address space. -/
theorem memAddr_lt (w : WorkUnit) (rs1 : Reg) (imm : BitVec 15) : memAddr w rs1 imm < 2 ^ 57 := BitVec.isLt _

/-- Settles O10: a load waits where a window or a change of mode covers its bytes, and else gives their value. -/
theorem loadsRead : Obligations.LoadsRead := by
  unfold Obligations.LoadsRead
  intro s u w hacts rd rs1 imm p va reads waits
  have hva : memAddr w rs1 imm = va := memAddr_eq w rs1 imm
  have hnoqueue {n : Nat} (hpl : place s w.asid va n .read = .ok p) (d g off : Nat) : translate s w.asid va .read ≠ .ok (.queue d g off) := by
    obtain ⟨htr, -, -, hq⟩ := place_ok hpl
    rw [htr]
    exact fun h => hq d g off (Xlat.ok.inj h)
  have hload {i : Instr} {n : Nat} {sg : Bool} {value : Nat → Word} (hi : exec i s = loadScalar n sg rd rs1 imm i s) (h0 : 0 < n) (hn : n ∣ 65536)
      (hval : ∀ bs : List Byte, bs.length = n → loadValue n sg bs = value (leNat bs)) : reads i n value ∧ waits i n := by
    rw [← hva] at hnoqueue
    constructor
    · intro ha hp hpl hw ht
      rw [← hva] at ha hpl
      rw [hi, loadScalar_done hacts h0 hn ha hp hpl hw ht, hval _ (length_readPhys s _ p n)]
    · intro ha hp hpl hw
      rw [← hva] at ha hpl
      rw [hi, loadScalar_reads hacts ha (hnoqueue hpl), seqRead_of_place hp h0 hn ha (memAddr_lt w rs1 imm) hpl, if_pos hw]
      rfl
  have hunsigned {i : Instr} {n : Nat} (hi : exec i s = loadScalar n false rd rs1 imm i s) (h0 : 0 < n) (hn : n ∣ 65536) :
      reads i n (fun v => BitVec.ofNat 64 v) ∧ waits i n := hload hi h0 hn fun bs hlen => loadValue_unsigned hlen
  have hsigned {i : Instr} {n : Nat} (hi : exec i s = loadScalar n true rd rs1 imm i s) (h0 : 0 < n) (hn : n ∣ 65536) :
      reads i n (fun v => BitVec.ofInt 64 (BitVec.ofNat (8 * n) v).toInt) ∧ waits i n :=
    hload (value := fun v => BitVec.ofInt 64 (BitVec.ofNat (8 * n) v).toInt) hi h0 hn fun bs _ => loadValue_signed n bs
  obtain ⟨hld, hldw⟩ := hunsigned (exec_ld rd rs1 imm s) (by decide) (by decide)
  obtain ⟨hlw, hlww⟩ := hsigned (exec_lw rd rs1 imm s) (by decide) (by decide)
  obtain ⟨hlwu, hlwuw⟩ := hunsigned (exec_lwu rd rs1 imm s) (by decide) (by decide)
  obtain ⟨hlh, hlhw⟩ := hsigned (exec_lh rd rs1 imm s) (by decide) (by decide)
  obtain ⟨hlhu, hlhuw⟩ := hunsigned (exec_lhu rd rs1 imm s) (by decide) (by decide)
  obtain ⟨hlb, hlbw⟩ := hsigned (exec_lb rd rs1 imm s) (by decide) (by decide)
  obtain ⟨hlbu, hlbuw⟩ := hunsigned (exec_lbu rd rs1 imm s) (by decide) (by decide)
  exact ⟨hld, hldw, hlw, hlww, hlwu, hlwuw, hlh, hlhw, hlhu, hlhuw, hlb, hlbw, hlbu, hlbuw⟩

/-! ## What a store leaves in memory (R98, R241) -/

/-- The bytes of a number, each by its place (R5). -/
theorem getElem_leBytes (n x i : Nat) (hi : i < (leBytes n x).length) : (leBytes n x)[i] = BitVec.ofNat 8 (x / 256 ^ i) := by
  induction n generalizing x i with
  | zero => simp [leBytes] at hi
  | succ n ih =>
    cases i with
    | zero => simp [leBytes]
    | succ i =>
      rw [length_leBytes] at hi
      have hstep : (leBytes (n + 1) x)[i + 1] = (leBytes n (x / 256))[i]'(by rw [length_leBytes]; omega) := rfl
      rw [hstep, ih, Nat.div_div_eq_div_mul, Nat.pow_succ']

/-- After a number is written, each byte reads as written where it lies in the number, and else as before. -/
theorem dget_putBytes_leBytes {m : KMap Byte} (h : Memory.wf m = true) (a n x k : Nat) :
    dget 0 (putBytes m a (leBytes n x)) k = if a ≤ k ∧ k < a + n then BitVec.ofNat 8 (x / 256 ^ (k - a)) else dget 0 m k := by
  by_cases hin : a ≤ k ∧ k < a + n
  · obtain ⟨i, rfl⟩ := Nat.exists_eq_add_of_le hin.1
    have hi : i < (leBytes n x).length := by rw [length_leBytes]; omega
    rw [if_pos hin, dget_putBytes_inside m a _ i h hi, getElem_leBytes, Nat.add_sub_cancel_left]
  · rw [if_neg hin, dget_putBytes_outside]
    rw [length_leBytes]
    omega

@[simp] theorem markExternal_mem (s : State) (job : Nat) (p : Phys) : (markExternal s job p).mem = s.mem := by
  unfold markExternal
  split <;> rfl

@[simp] theorem markExternal_sysMem (s : State) (job : Nat) (p : Phys) : (markExternal s job p).sysMem = s.sysMem := by
  unfold markExternal
  split <;> rfl

@[simp] theorem writeDpa_sysMem (s : State) (a : Nat) (bs : List Byte) : (writeDpa s a bs).sysMem = s.sysMem := by rw [writeDpa_eq]

/-- A write of the replicas of a page changes no byte outside them, and nothing of the host's memory. -/
theorem foldl_writeDpa_outside {a k : Nat} {bs : List Byte} {ds : List Nat}
    (h : ∀ d ∈ ds, k < replicaAddr a d ∨ replicaAddr a d + bs.length ≤ k) (s : State) :
    dget 0 (ds.foldl (fun s d => writeDpa s (replicaAddr a d) bs) s).mem k = dget 0 s.mem k := by
  induction ds generalizing s with
  | nil => rfl
  | cons d ds ih =>
    rw [List.foldl_cons, ih fun e he => h e (List.mem_cons_of_mem d he), writeDpa_mem, dget_putBytes_outside _ _ _ _ (h d List.mem_cons_self)]

theorem foldl_writeDpa_sysMem (a : Nat) (bs : List Byte) (ds : List Nat) (s : State) :
    (ds.foldl (fun s d => writeDpa s (replicaAddr a d) bs) s).sysMem = s.sysMem := by
  induction ds generalizing s with
  | nil => rfl
  | cons d ds ih => rw [List.foldl_cons, ih, writeDpa_sysMem]

/-- Settles O11: a store's state is its bytes written at its place, of which each kind of place says which bytes of memory they are. -/
theorem storesWrite : Obligations.StoresWrite := by
  unfold Obligations.StoresWrite
  intro s u w hacts rs2 rs1 imm p va byte at_ stores hmem hsys
  have hva : memAddr w rs1 imm = va := memAddr_eq w rs1 imm
  have hstore {i : Instr} {n : Nat} (hi : exec i s = storeScalar n rs2 rs1 imm i s) : stores i n := by
    intro ha hpl hheld
    have hdone := hi.trans (storeScalar_done hacts (hva ▸ ha) (hva ▸ hpl) hheld)
    refine ⟨_, hdone, by rw [markExternal_units, writePhys_units, putUnit_units], ?_, rfl⟩
    obtain ⟨-, -, hnotAperture, hnotQueue⟩ := place_ok hpl
    rw [markExternal_mem, markExternal_sysMem, writePhys_eq]
    cases p with
    | dpa a =>
      refine ⟨fun k => ?_, writeDpa_sysMem _ _ _⟩
      simp only [writeRaw, writeDpa_mem]
      exact dget_putBytes_leBytes hmem a n _ k
    | rep a set =>
      refine ⟨fun k hk => foldl_writeDpa_outside (fun d hd => ?_) _, foldl_writeDpa_sysMem _ _ _ _⟩
      rw [length_leBytes]
      exact hk d hd
    | sys a => exact ⟨rfl, dget_putBytes_leBytes hsys a n _⟩
    | aperture d off => exact hnotAperture d off rfl
    | queue d g off => exact hnotQueue d g off rfl
  exact ⟨hstore (exec_sd rs2 rs1 imm s), hstore (exec_sw rs2 rs1 imm s), hstore (exec_sh rs2 rs1 imm s), hstore (exec_sb rs2 rs1 imm s)⟩

/-- Settles O12: an access traps or is withheld by its alignment, its page, and what its read has met. -/
theorem accessTraps : Obligations.AccessTraps := by
  unfold Obligations.AccessTraps
  intro s u w hacts r rs1 imm va trapped withheld stops unaligned load store
  have hva : memAddr w rs1 imm = va := memAddr_eq w rs1 imm
  have hlt : va < 2 ^ 57 := BitVec.isLt _
  have hstops {c : BitVec 16} {acc : Access} {i : Instr} (h : exec i s = done (seqFault s u w acc c va (wordOfInstr i))) : stops c acc i :=
    ⟨fun h3 h4 h5 => by rw [h, seqFault_traps h3 h4 h5]; rfl, fun hx => by rw [h, seqFault_withholds hx]; rfl⟩
  have hload {i : Instr} {n : Nat} {sg : Bool} (hi : exec i s = loadScalar n sg r rs1 imm i s) (h0 : 0 < n) (hn : n ∣ 65536) : load i n := by
    have hread (ha : va % n = 0) (hq : ∀ d g off, translate s w.asid va .read ≠ .ok (.queue d g off)) := hi.trans (loadScalar_reads hacts (hva ▸ ha) (hva ▸ hq))
    rw [hva] at hread
    refine ⟨fun ha => ?misaligned, fun ha d off htr hp => ?aperture, fun ha hq => ⟨fun hp => ?poison, fun hp c htr => hstops ?refused⟩⟩
    case misaligned => rw [hi, loadScalar_unaligned hacts (hva ▸ ha), hva]; rfl
    case aperture =>
      rw [hread ha (by simp [htr]), seqRead_of_bad hp h0 hn ha hlt (place_of_aperture htr)]
      exact congrArg done (seqFault_traps (by decide) (by decide) (by decide))
    case poison => rw [hread ha hq, seqRead_poisoned hp]; rfl
    case refused => rw [hread ha hq, seqRead_of_bad hp h0 hn ha hlt (place_of_bad htr)]; rfl
  have hstore {i : Instr} {n : Nat} (hi : exec i s = storeScalar n r rs1 imm i s) : store i n := by
    refine ⟨fun ha => ?misaligned, fun ha d off htr => ?aperture, fun ha c htr => hstops ?refused⟩
    case misaligned => rw [hi, storeScalar_unaligned hacts (hva ▸ ha), hva]; rfl
    case aperture => rw [hi, storeScalar_of_aperture hacts (hva ▸ ha) (hva ▸ htr), hva]; rfl
    case refused => rw [hi, storeScalar_of_bad hacts (hva ▸ ha) (hva ▸ htr), hva]
  exact ⟨hload (exec_ld r rs1 imm s) (by decide) (by decide), hload (exec_lw r rs1 imm s) (by decide) (by decide),
    hload (exec_lwu r rs1 imm s) (by decide) (by decide), hload (exec_lh r rs1 imm s) (by decide) (by decide),
    hload (exec_lhu r rs1 imm s) (by decide) (by decide), hload (exec_lb r rs1 imm s) (by decide) (by decide),
    hload (exec_lbu r rs1 imm s) (by decide) (by decide), hstore (exec_sd r rs1 imm s), hstore (exec_sw r rs1 imm s), hstore (exec_sh r rs1 imm s),
    hstore (exec_sb r rs1 imm s)⟩

end Sys2Proof.Machine
end

section
/-! SUPPORT. Instructions that may wait (R233): their first execution and their resumption are one evaluation; the waits of R250 and their timeouts (R257). -/

namespace Sys2Proof.Machine

open Sys2Proof.Safety

variable {s : State} {u : UnitId} {w : WorkUnit} {i : Instr} {t : Word} {pk : List Word} {rd rs1 rs2 : Reg}

/-! ## Waiting (R233) -/

/-- A sequencer that comes to an instruction at this timebase `t`, or has waited in it since `t`. -/
def WaitsSince (s : State) (w : WorkUnit) (t : Word) : Prop := (w.seq = .run ∧ t = s.tb) ∨ ∃ j pk, w.seq = .wait t j pk

/-- An instruction that waits does so since it began to (R233). -/
theorem waitIn_since {packet : List Word} {on : List (Phys × Nat)} (h : WaitsSince s w t) :
    waitIn s u w i packet on = .next (waitsIn s u w i t packet on) := by
  unfold waitIn waitsIn
  obtain ⟨hrun, rfl⟩ | ⟨j, q, hwait⟩ := h
  · rw [hrun]
  · rw [hwait]

/-- Is an instruction evaluated alike where its sequencer comes to it and where it waits in it (R233)? -/
def Reevaluates (i : Instr) : Prop := ∀ s, exec i s = onUnit s fun u w => evaluateWait s u w i [] false

/-- What the evaluation of an instruction gives is what it answers at first and on resumption (R233). -/
theorem runs_of_evaluateWait {r : Res} (hi : Reevaluates i) (h : WaitsSince s w t → evaluateWait s u w i pk false = r) : Runs s u w i t pk r := by
  constructor
  · intro hacts ht hpk
    rw [hi, onUnit_acts hacts, ← hpk]
    exact h (.inl ⟨(acts_run hacts).1, ht⟩)
  · intro ⟨hu, hlife, hheld, hcancel, hseq⟩
    rw [exec_waitingInstructionResume, execWaitingInstructionResume, onWaiting_waits hu hlife hheld hcancel hseq]
    exact h (.inr ⟨i, pk, hseq⟩)

/-- Has the timeout of a wait since `t` come (R250, R257)? -/
theorem waitOver_iff (h : w.seq = .wait t i pk) : waitOver s w = true ↔ w.wto ≠ 0 ∧ w.wto.toNat ≤ (s.tb - t).toNat := by
  simp [waitOver, h]

/-- WAIT_TIMEOUT evaluates a wait whose timeout has come, and changes nothing before (R257). -/
theorem waitTimeout_evaluates (h : Waits s u w i t pk) :
    exec (.waitTimeout u) s = if waitOver s w = true then evaluateWait s u w i pk true else .next s := by
  obtain ⟨hu, hlife, hheld, hcancel, hseq⟩ := h
  rw [exec_waitTimeout, execWaitTimeout, onWaiting_waits hu hlife hheld hcancel hseq]

/-- A wait that does not end waits on (R250). -/
theorem waitMore_waits (h : WaitsSince s w t) : waitMore s u w rd i false = .next (waitsIn s u w i t [] []) := waitIn_since h

/-- A wait whose condition fails at its timeout ends with 1 (R250, R257). -/
theorem waitMore_ends (h : waitOver s w = true) : waitMore s u w rd i true = .next (retired s u w rd 1) := by
  unfold waitMore
  rw [h]
  rfl

/-! ## Waits for words (R250) -/

/-- The state in which the wait of a unit's sequencer has every write of a place examined, so that no change is passed over (R250). -/
def watching (s : State) (u : UnitId) (w : WorkUnit) (p : Phys) (c : BitVec 3) (x : Word) : State :=
  { s with watches := kput s.watches (2 * u) { p := p, die := w.tp.die, n := 8, cond := c, bits := 64, val := x, hit := none } }

section
variable {c : BitVec 3} {timeout : Bool}

theorem waitWordGo_unaligned (h : (w.reg rs1).toNat % 2 ^ 57 % 8 ≠ 0) :
    waitWordGo s u w rd rs1 rs2 c i timeout = trapHere s u w 0x10 (BitVec.ofNat 64 ((w.reg rs1).toNat % 2 ^ 57)) i := if_pos h

theorem waitWordGo_hit (h : (w.reg rs1).toNat % 2 ^ 57 % 8 = 0) (hhit : waitHit s u = true) :
    waitWordGo s u w rd rs1 rs2 c i timeout = .next (retired s u w rd 0) := (if_neg (not_not.2 h)).trans (if_pos hhit)

/-- A wait that no write has satisfied ends where the word that it reads satisfies it, and else goes on with its place watched. -/
theorem waitWordGo_reads {bs : List Byte} {p : Phys} (h : (w.reg rs1).toNat % 2 ^ 57 % 8 = 0) (hhit : waitHit s u = false)
    (hread : seqRead s w ((w.reg rs1).toNat % 2 ^ 57) 8 .read = .ok bs) (hplace : translate s w.asid ((w.reg rs1).toNat % 2 ^ 57) .read = .ok p) :
    waitWordGo s u w rd rs1 rs2 c i timeout =
      if condHolds c 64 (wordOf bs) (w.reg rs2) = true then .next (retired s u w rd 0)
      else waitMore (watching s u w p c (w.reg rs2)) u (w.waitFrom s.tb i) rd i timeout := by
  refine (if_neg (not_not.2 h)).trans ((if_neg (by simp [hhit])).trans ?_)
  have hread' : seqRead s (w.waitFrom s.tb i) ((w.reg rs1).toNat % 2 ^ 57) 8 .read = .ok bs := hread
  have hplace' : translate s (w.waitFrom s.tb i).asid ((w.reg rs1).toNat % 2 ^ 57) .read = .ok p := hplace
  simp only [hread', hplace', SeqRead.andThen]
  rfl

end

/-- A sequencer that is about to wait waits since the same timebase. -/
theorem WaitsSince.waitFrom (h : WaitsSince s w t) : WaitsSince s (w.waitFrom s.tb i) t := by
  obtain ⟨hrun, rfl⟩ | ⟨j, q, hwait⟩ := h
  · exact .inr ⟨i, [], by simp [WorkUnit.waitFrom, hrun]⟩
  · exact .inr ⟨j, q, by simp [WorkUnit.waitFrom, hwait]⟩

theorem waitFrom_waiting {j : Instr} (h : w.seq = .wait t j pk) : w.waitFrom s.tb i = w := by
  simp only [WorkUnit.waitFrom, h]
  rw [← h]

/-- Condition 5 is the unsigned compare, condition 0 equality (Table 9.4). -/
theorem condHolds_geu (v x : Word) : condHolds 5 64 v x = true ↔ x.toNat ≤ v.toNat := by simp [condHolds]
theorem condHolds_eq (v x : Word) : condHolds 0 64 v x = true ↔ v = x := by simp [condHolds]

/-- Settles O14: each wait ends with the status that its evaluation gives, and else waits since it began to. -/
theorem waitsEvaluate : Obligations.WaitsEvaluate := by
  unfold Obligations.WaitsEvaluate
  intro s u w t pk waits
  refine ⟨fun rd rs1 => ?plain, fun rd rs1 rs2 => ?words⟩
  case plain =>
    intro ends
    have hntf : Reevaluates (.waitNtf rd rs1) := exec_waitNtf rd rs1
    have hlvl : Reevaluates (.waitLvl rd rs1) := exec_waitLvl rd rs1
    refine ⟨fun h => runs_of_evaluateWait hntf fun _ => ?_, fun h => runs_of_evaluateWait hntf fun hsince => ?_,
      fun h => runs_of_evaluateWait hlvl fun _ => ?_, fun l hl => runs_of_evaluateWait hlvl fun hsince => ?_⟩
    · exact if_pos h
    · exact (if_neg (Nat.not_le.2 h)).trans (waitMore_waits hsince)
    · simp only [evaluateWait, waitLvlGo, h]
      rfl
    · simp only [evaluateWait, waitLvlGo, hl]
      cases (viewLevel s w.job l).status
      case running => exact waitMore_waits hsince
      all_goals rfl
  case words =>
    intro va word
    have hword {i : Instr} {c : BitVec 3} {holds : Word → Prop} (hi : Reevaluates i)
        (hgo : evaluateWait s u w i pk false = waitWordGo s u w rd rs1 rs2 c i false) (hc : ∀ v, condHolds c 64 v (w.reg rs2) = true ↔ holds v) :
        word i c holds := by
      refine ⟨fun ha => runs_of_evaluateWait hi fun _ => hgo.trans (waitWordGo_unaligned ha),
        fun ha hhit => runs_of_evaluateWait hi fun _ => hgo.trans (waitWordGo_hit ha hhit), fun ha hhit bs p hread hplace => ⟨fun hv => ?_, fun hv => ?_⟩⟩
      · refine runs_of_evaluateWait hi fun _ => ?_
        rw [hgo, waitWordGo_reads ha hhit hread hplace, if_pos ((hc _).2 hv)]
      · refine runs_of_evaluateWait hi fun hsince => ?_
        rw [hgo, waitWordGo_reads ha hhit hread hplace, if_neg fun h => hv ((hc _).1 h)]
        exact waitMore_waits hsince.waitFrom
    exact ⟨hword (exec_waitGeu rd rs1 rs2) rfl fun v => condHolds_geu v _, hword (exec_waitEq rd rs1 rs2) rfl fun v => condHolds_eq v _⟩

/-- Settles O15: from its timeout on, each wait ends with the status that its evaluation gives, and with 1 where it would wait on. -/
theorem waitsResume : Obligations.WaitsResume := by
  unfold Obligations.WaitsResume
  intro s u w t i pk hwaits due timesOut
  have ⟨_, _, _, _, hseq⟩ := hwaits
  have hover : waitOver s w = true ↔ due := waitOver_iff hseq
  have hout : timesOut (if waitOver s w = true then evaluateWait s u w i pk true else .next s) := waitTimeout_evaluates hwaits
  have hdue {r : Res} (hd : due) (hr : evaluateWait s u w i pk true = r) : timesOut r := by rwa [if_pos (hover.2 hd), hr] at hout
  refine ⟨fun hd => ?early, fun rd rs1 => ?plain, fun rd rs1 rs2 => ?words⟩
  case early => rwa [if_neg fun h => hd (hover.1 h)] at hout
  case plain =>
    intro ends
    refine ⟨?ntf, ?lvl⟩
    case ntf =>
      rintro rfl
      have hresume {r : Res} (h : WaitsSince s w t → evaluateWait s u w (.waitNtf rd rs1) pk false = r) : exec (.waitingInstructionResume u) s = r :=
        (runs_of_evaluateWait (exec_waitNtf rd rs1) h).2 hwaits
      refine ⟨fun h => ⟨hresume fun _ => if_pos h, fun hd => hdue hd (if_pos h)⟩, fun h => ⟨hresume fun hsince => ?_, fun hd => hdue hd ?_⟩⟩
      · exact (if_neg (Nat.not_le.2 h)).trans (waitMore_waits hsince)
      · exact (if_neg (Nat.not_le.2 h)).trans (waitMore_ends (hover.2 hd))
    case lvl =>
      rintro rfl hd
      refine ⟨fun h => hdue hd ?_, fun l hl => hdue hd ?_⟩
      · simp only [evaluateWait, waitLvlGo, h]
        rfl
      · simp only [evaluateWait, waitLvlGo, hl]
        cases (viewLevel s w.job l).status
        case running => exact waitMore_ends (hover.2 hd)
        all_goals rfl
  case words =>
    intro va word
    have hword {c : BitVec 3} {holds : Word → Prop} (hgo : evaluateWait s u w i pk true = waitWordGo s u w rd rs1 rs2 c i true)
        (hc : ∀ v, condHolds c 64 v (w.reg rs2) = true ↔ holds v) : word c holds := by
      intro hd ha
      refine ⟨fun hhit => hdue hd (hgo.trans (waitWordGo_hit ha hhit)), fun hhit bs p hread hplace => ⟨fun hv => hdue hd ?_, fun hv => hdue hd ?_⟩⟩
      · rw [hgo, waitWordGo_reads ha hhit hread hplace, if_pos ((hc _).2 hv)]
      · rw [hgo, waitWordGo_reads ha hhit hread hplace, if_neg fun h => hv ((hc _).1 h), waitFrom_waiting hseq]
        exact waitMore_ends (hover.2 hd)
    refine ⟨?_, ?_⟩
    · rintro rfl
      exact hword rfl fun v => condHolds_geu v _
    · rintro rfl
      exact hword rfl fun v => condHolds_eq v _

end Sys2Proof.Machine
end

section
/-! SUPPORT. `yield` (R249): the save that it begins; and `launch` and `launch.nb` (R248), settled. -/

namespace Sys2Proof.Machine

open Sys2Proof.Safety

variable {s : State} {u : UnitId} {w : WorkUnit} {t : Word} {pk : List Word} {rd rs1 : Reg}

/-! ## `yield` (R249) -/

/-- A unit without an open `Inst` has none to commit (R32). -/
theorem commitEnded_without {f : Nat} (h : ∀ n ∈ s.insts, n.2.unit ≠ u) : commitEnded f s u = s := by
  cases f with
  | zero => rfl
  | succ f =>
    have hfold : ∀ l : List (InstId × Inst), (∀ n ∈ l, n.2.unit ≠ u) →
        l.foldl (fun s n => if n.2.unit = u then blockCommit s n.1 else s) s = s := by
      intro l
      induction l with
      | nil => exact fun _ => rfl
      | cons n l ih =>
        intro hl
        rw [List.foldl_cons, if_neg (hl n List.mem_cons_self)]
        exact ih fun m hm => hl m (List.mem_cons_of_mem n hm)
    simp [commitEnded, hfold s.insts h]

/-- The end of what a unit has ended changes nothing where it has no open `Inst` (R32). -/
theorem settleEnded_without (h : ∀ n ∈ s.insts, n.2.unit ≠ u) : settleEnded s u = s := by
  unfold settleEnded
  rw [commitEnded_without h]
  simp only []
  split
  case h_1 => rfl
  case h_2 =>
    split
    · rw [List.map_congr_left (g := id) fun n hn => by simp [h n hn], List.map_id]
    · rfl

/-- A `cmd` that its sequencer does not wait in has not to retire before a save (R275). -/
theorem feRetired_running (h : w.seq = .run) : w.feRetired s = w := by
  unfold WorkUnit.feRetired
  rw [h]
  split <;> simp_all

/-- The record of a unit whose save begins while its sequencer executes instructions (R310, R312). -/
theorem beginSave_unit {reason : Nat} (hrun : w.seq = .run) (hheld : w.held = none) :
    kget (beginSave s u w reason).units u = some { w with life := .saving reason (settleEnded s u).tb, req := false, deadline := 0,
                                                          winWait := if w.poisoned then w.winWait else [], feWait := none } := by
  unfold beginSave
  simp only [feRetired_running hrun, kget_kput_same, hrun]
  rw [← hheld, ← hrun]

/-- Settles O16: without a request 0 is answered; with one the save begins after what has ended has committed. -/
theorem yieldAnswers : Obligations.YieldAnswers := by
  unfold Obligations.YieldAnswers
  intro s u w rd hacts
  obtain ⟨hrun, -, hheld, -⟩ := acts_run hacts
  have hexec : exec (.yield rd) s = if w.req then .next (beginSave s u { w.advance with yieldRd := some rd } 1) else retire s u w rd 0 :=
    (exec_yield rd s).trans (onUnit_acts hacts _)
  refine ⟨fun hreq => hexec.trans (if_neg (by simp [hreq])), fun hreq => ⟨_, hexec.trans (if_pos hreq), beginSave_unit hrun hheld, rfl, rfl, rfl,
    fun hnone => ⟨settleEnded_without hnone, fun v hv => ?_⟩⟩⟩
  show kget (kput (settleEnded s u).units u _) v = _
  rw [kget_kput_other _ _ hv, settleEnded_without hnone]

/-! ## `launch` (R248) -/

/-- Has a unit a launch in a die's spill queue (R248)? -/
def spilledBy (s : State) (u : UnitId) (die : Nat) : Bool :=
  (spillOf s die).any fun x => ((kget s.launches x).map fun y => y.src) = some (LaunchSrc.unit u)

/-- The pool entry that a unit's launch takes: one outside the reserve, or for a unit with CPATH and nothing spilled one in the reserve (R248, R300). -/
def launchEntry (s : State) (u : UnitId) (w : WorkUnit) (die : Nat) : Option Nat :=
  (spareEntry s die).or (if w.cpath && !spilledBy s u die then freeReserve s die else none)

/-- The launch that a unit posts with a packet (R248). -/
def unitLaunch (s : State) (u : UnitId) (w : WorkUnit) (ws : List Word) : Launch :=
  { Launch.ofPacket (packetOf ws) (.unit u) w.asid (rootOf s (some w.launch)) with srcCpath := w.cpath }

/-- The state in which a launch stands at the tail of a die's spill queue (R300). -/
def spillTo (s : State) (l : Launch) (die : Nat) : State :=
  { (addLaunch s l).1 with spills := kput (addLaunch s l).1.spills die (spillOf s die ++ [(addLaunch s l).2]) }

section
variable {ws : List Word} {nb : Bool} {i : Instr}

theorem postLaunch_refused (h : checkPacket s (packetOf ws) (some w.job) (planeRefused (packetOf ws) false) ≠ 0) : postLaunch s u w ws = .refused := if_pos h

/-- A packet that passes its checks goes to its pool entry. -/
theorem postLaunch_entry {e : Nat} (h : checkPacket s (packetOf ws) (some w.job) (planeRefused (packetOf ws) false) = 0)
    (he : launchEntry s u w (packetOf ws).die = some e) : postLaunch s u w ws = .posted (settleLevels (postTo s (unitLaunch s u w ws) e)) 0 := by
  refine (if_neg (not_not.2 h)).trans ?_
  unfold launchEntry spilledBy at he
  cases hspare : spareEntry s (packetOf ws).die with
  | some e' =>
    rw [hspare] at he
    cases he
    rfl
  | none =>
    rw [hspare, Option.none_or] at he
    simp only [he]
    rfl

/-- A packet that passes its checks and finds no entry is spilled where there is room for it. -/
theorem postLaunch_noEntry (h : checkPacket s (packetOf ws) (some w.job) (planeRefused (packetOf ws) false) = 0)
    (he : launchEntry s u w (packetOf ws).die = none) : postLaunch s u w ws =
      if (spillOf s (packetOf ws).die).length < s.blob.spill then .posted (spillTo s (unitLaunch s u w ws) (packetOf ws).die) 1 else .full := by
  refine (if_neg (not_not.2 h)).trans ?_
  obtain ⟨hspare, hreserve⟩ := Option.or_eq_none_iff.1 he
  unfold spilledBy at hreserve
  simp only [hspare, hreserve]
  rfl

theorem launchGo_unaligned (h : (w.reg rs1).toNat % 2 ^ 57 % 64 ≠ 0) :
    launchGo s u w nb rd rs1 pk = trapHere s u w 0x10 (BitVec.ofNat 64 ((w.reg rs1).toNat % 2 ^ 57)) (if nb then .launchNb rd rs1 else .launch rd rs1) := if_pos h

/-- The packet is read once: where none has been read its bytes give it (R248). -/
theorem launchGo_posts (ha : (w.reg rs1).toNat % 2 ^ 57 % 64 = 0)
    (hws : pk = [] ∧ (∃ bs, seqRead s w ((w.reg rs1).toNat % 2 ^ 57) 64 .read = .ok bs ∧ ws = wordsOf bs 8) ∨ pk ≠ [] ∧ ws = pk) :
    launchGo s u w nb rd rs1 pk = launchPost s u w nb rd ws (if nb then .launchNb rd rs1 else .launch rd rs1) := by
  refine (if_neg (not_not.2 ha)).trans ?_
  obtain ⟨rfl, bs, hread, rfl⟩ | ⟨hne, rfl⟩ := hws
  · rw [hread]
    rfl
  · exact if_neg (by simpa using hne)

theorem launchPost_refused (h : postLaunch s u w ws = .refused) : launchPost s u w nb rd ws i = .next (retired s u w rd 3) := by
  unfold launchPost
  rw [h]
  rfl

theorem launchPost_posted {s1 : State} {code : Nat} (h : postLaunch s u w ws = .posted s1 code) :
    launchPost s u w nb rd ws i = .next (settle (retired s1 u ((kget s1.units u).getD w) rd (BitVec.ofNat 64 code))) := by
  unfold launchPost
  rw [h]
  rfl

theorem launchPost_full (h : postLaunch s u w ws = .full) :
    launchPost s u w nb rd ws i = if nb = true then .next (retired s u w rd 2) else waitIn s u w i ws := by
  unfold launchPost
  rw [h]
  rfl

end

/-- Settles O17: both forms post alike, and part where there is no room. -/
theorem launchPosts : Obligations.LaunchPosts := by
  unfold Obligations.LaunchPosts
  intro s u w rd rs1 t pk va ends settled nb lau
  have hnb {r : Res} (h : launchGo s u w true rd rs1 [] = r) : nb r := fun hacts => ((exec_launchNb rd rs1 s).trans (onUnit_acts hacts _)).trans h
  have hlau {r : Res} (h : WaitsSince s w t → launchGo s u w false rd rs1 pk = r) : lau r := runs_of_evaluateWait (exec_launch rd rs1) h
  refine ⟨fun ha => ⟨hlau fun _ => launchGo_unaligned ha, hnb (launchGo_unaligned ha)⟩, fun ha hu ws => ?posts⟩
  case posts =>
    intro p l mine place both
    have hplace : launchEntry s u w p.die = place := by
      unfold launchEntry
      simp only [place]
      cases spareEntry s p.die <;> rfl
    have hboth {runs : Res → Prop} {full : Res} {f : Bool} {i : Instr} (hruns : ∀ r, launchPost s u w f rd ws i = r → runs r)
        (hfull : postLaunch s u w ws = .full → runs full) : both runs full := by
      refine ⟨fun h => hruns _ ?refused, fun h => ⟨fun e he => hruns _ ?posted, fun he hroom => hruns _ ?spilled, fun he hroom => hfull ?full⟩⟩
      case refused =>
        rw [launchPost_refused (postLaunch_refused h)]
        simp only [ends, hu, Option.getD_some]
      case posted => exact launchPost_posted (postLaunch_entry h (hplace.trans he))
      case spilled => exact launchPost_posted ((postLaunch_noEntry h (hplace.trans he)).trans (if_pos hroom))
      case full => exact (postLaunch_noEntry h (hplace.trans he)).trans (if_neg (Nat.not_lt.2 hroom))
    refine ⟨fun hws => ?lau, fun hws => ?nb⟩
    case lau =>
      have hgo := launchGo_posts (u := u) (rd := rd) (nb := false) ha hws
      exact hboth (fun r h => hlau fun _ => hgo.trans h) fun h => hlau fun hsince => (hgo.trans (launchPost_full h)).trans (waitIn_since hsince)
    case nb =>
      have hgo := launchGo_posts (u := u) (rd := rd) (nb := true) ha (.inl ⟨rfl, hws⟩)
      refine hboth (fun r h => hnb (hgo.trans h)) fun h => hnb ((hgo.trans (launchPost_full h)).trans ?_)
      simp only [ends, hu, Option.getD_some, if_true]

end Sys2Proof.Machine
end

section
/-! SUPPORT. `cfgld` by the steps of R245. -/

namespace Sys2Proof.Machine

open Sys2Proof.Safety

variable {s : State} {u : UnitId} {w : WorkUnit} {t : Word} {pk : List Word} {rd rs1 rs2 : Reg} {plane tile va : Nat}

/-- The slot of a tile-plane of a unit's die (R301). -/
def targetSlot (s : State) (w : WorkUnit) (plane tile : Nat) : Slot := dget Slot.initial s.slots (320 * w.tp.die + 5 * tile + plane)

/-- May a unit load a tile-plane: its ASID holds it, and the storm jib's only in handler mode (R245; log entry 35)? -/
def LoadsOn (s : State) (w : WorkUnit) (plane tile : Nat) : Prop :=
  (targetSlot s w plane tile).held = true ∧ (targetSlot s w plane tile).asid = w.asid ∧ (plane = 4 → w.hmode = true)

/-- Is a tile-plane free for a unit: bound to none other (R245)? -/
def FreeFor (s : State) (u : UnitId) (w : WorkUnit) (plane tile : Nat) : Prop :=
  (targetSlot s w plane tile).bound = true → (targetSlot s w plane tile).unit = some u

/-- The checks that come before the image is read (R245, steps 1 to 3). -/
structure MayLoad (s : State) (u : UnitId) (w : WorkUnit) (plane tile : Nat) : Prop where
  plane_lt : plane < 5
  loads : LoadsOn s w plane tile
  free : FreeFor s u w plane tile
  quiet : tpQuiet s (320 * w.tp.die + 5 * tile + plane) = true

/-- The check of the holder, as `cfgld` makes it. -/
theorem loadsOn_iff : ((decide (plane = 4) && !w.hmode) || !((targetSlot s w plane tile).held && decide ((targetSlot s w plane tile).asid = w.asid))) = false ↔
    LoadsOn s w plane tile := by
  simp only [LoadsOn, Bool.or_eq_false_iff, Bool.and_eq_false_iff, Bool.not_eq_false', Bool.and_eq_true, decide_eq_true_eq, decide_eq_false_iff_not]
  constructor
  · rintro ⟨hjib, hheld, hasid⟩
    exact ⟨hheld, hasid, fun h4 => hjib.resolve_left (not_not.2 h4)⟩
  · rintro ⟨hheld, hasid, hjib⟩
    exact ⟨(em (plane = 4)).symm.imp_right hjib, hheld, hasid⟩

/-- The check of the binding, as `cfgld` makes it. -/
theorem freeFor_iff : ((targetSlot s w plane tile).bound && decide ((targetSlot s w plane tile).unit ≠ some u)) = false ↔ FreeFor s u w plane tile := by
  cases h : (targetSlot s w plane tile).bound <;> simp [FreeFor, h]

section
variable (hplane : wf (w.reg rs2) 8 6 = plane) (htile : 8 * wf (w.reg rs2) 5 3 + wf (w.reg rs2) 2 0 = tile)
include hplane

/-- There is no plane above 4 (R245, step 1). -/
theorem cfgldGo_header (h : 5 ≤ plane) : cfgldGo s u w rd rs1 rs2 = .next (retired s u w rd 1) := by
  subst hplane
  exact if_pos h

include htile

/-- A tile-plane that the context does not hold is out of its reach (R245). -/
theorem cfgldGo_foreign (h : plane < 5) (hl : ¬ LoadsOn s w plane tile) :
    cfgldGo s u w rd rs1 rs2 = trapHere s u w 2 ((wordOfInstr (.cfgld rd rs1 rs2)).setWidth 64) (.cfgld rd rs1 rs2) := by
  subst hplane htile
  exact (if_neg (Nat.not_le.2 h)).trans (if_pos (Bool.not_eq_false _ |>.mp fun h => hl (loadsOn_iff.1 h)))

/-- One that is bound to another unit is busy. -/
theorem cfgldGo_busy (h : plane < 5) (hl : LoadsOn s w plane tile) (hf : ¬ FreeFor s u w plane tile) :
    cfgldGo s u w rd rs1 rs2 = .next (retired s u w rd 13) := by
  subst hplane htile
  exact (if_neg (Nat.not_le.2 h)).trans ((if_neg (Bool.eq_false_iff.1 (loadsOn_iff.2 hl))).trans
    (if_pos (Bool.not_eq_false _ |>.mp fun h => hf (freeFor_iff.1 h))))

/-- The load waits while tokens stand on arcs or an `Inst` is not committed (R245, step 3). -/
theorem cfgldGo_waits (h : plane < 5) (hl : LoadsOn s w plane tile) (hf : FreeFor s u w plane tile)
    (hq : tpQuiet s (320 * w.tp.die + 5 * tile + plane) = false) : cfgldGo s u w rd rs1 rs2 = waitIn s u w (.cfgld rd rs1 rs2) [] := by
  subst hplane htile
  exact (if_neg (Nat.not_le.2 h)).trans ((if_neg (Bool.eq_false_iff.1 (loadsOn_iff.2 hl))).trans
    ((if_neg (Bool.eq_false_iff.1 (freeFor_iff.2 hf))).trans (if_pos (by rw [hq]; rfl))))

/-- Past the checks the image is read from a 64-byte-aligned address (R245, step 4). -/
theorem cfgldGo_mayLoad (h : MayLoad s u w plane tile) (hva : (w.reg rs1).toNat % 2 ^ 57 = va) : cfgldGo s u w rd rs1 rs2 =
    if va % 64 ≠ 0 then .next (retired s u w rd 1)
    else (seqRead s w va 64 .read).andThen s u w .read va (.cfgld rd rs1 rs2) fun h =>
      if fieldAt h 8 4 < 64 ∨ 0x400000 < fieldAt h 8 4 then cfgldLoad s u w rd tile plane va h (.cfgld rd rs1 rs2)
      else (seqRead s w va (fieldAt h 8 4) .read).andThen s u w .read va (.cfgld rd rs1 rs2) fun src =>
        cfgldLoad s u w rd tile plane va src (.cfgld rd rs1 rs2) := by
  subst hplane htile hva
  exact (if_neg (Nat.not_le.2 h.plane_lt)).trans ((if_neg (Bool.eq_false_iff.1 (loadsOn_iff.2 h.loads))).trans
    ((if_neg (Bool.eq_false_iff.1 (freeFor_iff.2 h.free))).trans (if_neg (by rw [h.quiet]; decide))))

end

/-- The status of a load is written, and an unassigned opcode traps besides (R245, step 5). -/
theorem cfgldLoad_status {src : List Byte} {i : Instr} (h : (placeImage s u w w.tp.die tile plane src va).status ≠ 2) :
    cfgldLoad s u w rd tile plane va src i =
      .next (retired (placeImage s u w w.tp.die tile plane src va).s u w rd (BitVec.ofNat 64 (placeImage s u w w.tp.die tile plane src va).status)) := if_neg h

theorem cfgldLoad_traps {src : List Byte} {i : Instr} (h : (placeImage s u w w.tp.die tile plane src va).status = 2) :
    cfgldLoad s u w rd tile plane va src i = .next (settle (trapSeq (placeImage s u w w.tp.die tile plane src va).s u (w.setReg rd 2) (w.pc + 4) 1
      (BitVec.ofNat 64 (placeImage s u w w.tp.die tile plane src va).where_) (wordOfInstr i) 0)) := if_pos h

/-- Settles O19, step by step. -/
theorem cfgldLoads : Obligations.CfgldLoads := by
  unfold Obligations.CfgldLoads
  intro s u w rd rs1 rs2 from_ pk t plane tile key sl va i ends runs held free
  have hplane : wf (w.reg rs2) 8 6 = plane := rfl
  have htile : 8 * wf (w.reg rs2) 5 3 + wf (w.reg rs2) 2 0 = tile := by simp [wf, tile, t]
  have hruns {r : Res} (h : WaitsSince s w from_ → cfgldGo s u w rd rs1 rs2 = r) : runs r := runs_of_evaluateWait (exec_cfgld rd rs1 rs2) h
  refine ⟨fun h => hruns fun _ => cfgldGo_header hplane h, fun h hheld => hruns fun _ => cfgldGo_foreign hplane htile h hheld,
    fun h hheld hfree => hruns fun _ => cfgldGo_busy hplane htile h hheld hfree,
    fun h hheld hfree hq => hruns fun hsince => (cfgldGo_waits hplane htile h hheld hfree hq).trans (waitIn_since hsince),
    fun h hheld hfree hq ha => hruns fun _ => (cfgldGo_mayLoad hplane htile ⟨h, hheld, hfree, hq⟩ rfl).trans (if_pos ha),
    fun h hheld hfree hq ha hd src hhead hlo hhi hsrc => ?_⟩
  have hload : cfgldGo s u w rd rs1 rs2 = cfgldLoad s u w rd tile plane va src (.cfgld rd rs1 rs2) := by
    rw [cfgldGo_mayLoad hplane htile ⟨h, hheld, hfree, hq⟩ rfl, if_neg (not_not.2 ha), hhead]
    refine (if_neg (by omega)).trans ?_
    rw [hsrc]
    rfl
  exact ⟨fun hst => hruns fun _ => hload.trans (cfgldLoad_status hst), fun hst => hruns fun _ => hload.trans (cfgldLoad_traps hst)⟩

end Sys2Proof.Machine
end

section
/-! SUPPORT. `cmd` (R247): its issue and its wait for an emptying (R275), the opcodes of Table 4.11, and the entries that a chain does not take (R118). -/

namespace Sys2Proof.Machine

open Sys2Proof.Safety

variable {s : State} {u : UnitId} {w : WorkUnit} {t : Word} {pk : List Word} {rd rs1 rs2 : Reg}

/-! ## Issue by `cmd` -/

section
variable {c : Cmd128} {i : Instr} {o : Sopc} {s1 : State} {code : Nat}

/-- A command of an unassigned opcode is not issued (R118, R247). -/
theorem cmdIssue_unassigned (h : Sopc.ofCode (cmdOpc c) = none) :
    cmdIssue s u w rd c i = trapHere s u w 1 ((wordOfInstr i).setWidth 64) i := by
  unfold cmdIssue
  rw [h]
  rfl

theorem cmdIssue_waits {on : List (Phys × Nat)} (h : Sopc.ofCode (cmdOpc c) = some o) (hissue : issueCmd o s (Ctx.ofUnit u w) c = .waits on) :
    cmdIssue s u w rd c i = waitIn s u w i [] on := by
  simp only [cmdIssue, h, hissue]

/-- A command that is issued gives its status, but for one whose emptying has yet to be done (R247, R275). -/
theorem cmdIssue_status (h : Sopc.ofCode (cmdOpc c) = some o) (hissue : issueCmd o s (Ctx.ofUnit u w) c = .st s1 code) :
    cmdIssue s u w rd c i =
      if (cmdFe c && decide (code = 0) && emptying s1 s.nextId) = true then waitIn s1 u { (kget s1.units u).getD w with feWait := some s.nextId } i []
      else .next (settle (retired s1 u ((kget s1.units u).getD w) rd (BitVec.ofNat 64 code))) := by
  simp only [cmdIssue, h, hissue]
  rfl

theorem cmdGo_emptying {n : Nat} (h : w.feWait = some n) :
    cmdGo s u w rd rs1 rs2 = if emptying s n = true then .next s else .next (retired s u { w with feWait := none } rd 0) := by
  unfold cmdGo
  rw [h]
  rfl

theorem cmdGo_issues (h : w.feWait = none) : cmdGo s u w rd rs1 rs2 = cmdIssue s u w rd (w.reg rs2 ++ w.reg rs1) (.cmd rd rs1 rs2) := by
  unfold cmdGo
  rw [h]

end

/-! ## Opcodes (Table 4.11) -/

/-- A number that stands for an opcode is its code. -/
theorem Sopc.code_of_ofCode {x : BitVec 8} {o : Sopc} (h : Sopc.ofCode x = some o) : o.code = x := by
  apply BitVec.eq_of_toNat_eq
  unfold Sopc.ofCode at h
  split at h
  case h_36 => cases h
  all_goals
    cases h
    simp only [*]
    rfl

/-- The assigned opcodes. -/
theorem ofCode_isSome_iff (x : BitVec 8) : (Sopc.ofCode x).isSome = true ↔
    ∃ r ∈ [(0x00, 0x02), (0x10, 0x14), (0x20, 0x24), (0x30, 0x34), (0x40, 0x43), (0x50, 0x53), (0x60, 0x64), (0x70, 0x71), (0x80, 0x81)],
      r.1 ≤ x.toNat ∧ x.toNat ≤ r.2 := by
  unfold Sopc.ofCode
  generalize x.toNat = n
  split
  case h_36 =>
    simp only [imp_false] at *
    simp only [Option.isSome_none, Bool.false_eq_true, List.mem_cons, List.not_mem_nil, or_false, exists_eq_or_imp, zero_le, true_and, ↓existsAndEq,
      false_iff, not_or, not_le, not_and]
    omega
  all_goals decide

/-! ## Entries that a chain does not take (R118, R195) -/

/-- The opcodes that may stand as entries of a kind of chain, the least and the greatest (Table 4.11). -/
def entryCodes : ChainKind → Nat × Nat
  | .gre => (0x30, 0x32)
  | .qe => (0x40, 0x41)
  | .mxq => (0x50, 0x50)
  | .nmc => (0x60, 0x62)

theorem entryAdmits_code {kind : ChainKind} {o : Sopc} (h : entryAdmits kind o = true) :
    (entryCodes kind).1 ≤ o.code.toNat ∧ o.code.toNat ≤ (entryCodes kind).2 := by
  revert h
  cases kind <;> cases o <;> decide

/-- The bytes from a place on, as a number (R5). -/
theorem leNat_drop (k : Nat) (bs : List Byte) : leNat (bs.drop k) = leNat bs / 256 ^ k := by
  induction k generalizing bs with
  | zero => simp
  | succ k ih =>
    cases bs with
    | nil => simp [leNat]
    | cons b bs =>
      have hb : b.toNat < 256 := b.isLt
      rw [List.drop_succ_cons, ih, leNat, Nat.pow_succ', ← Nat.div_div_eq_div_mul]
      congr 1
      omega

/-- The bytes below a place, as a number (R5). -/
theorem leNat_take (k : Nat) (bs : List Byte) : leNat (bs.take k) = leNat bs % 256 ^ k := by
  induction k generalizing bs with
  | zero => simp [leNat, Nat.mod_one]
  | succ k ih =>
    cases bs with
    | nil => simp [leNat]
    | cons b bs =>
      have hb : b.toNat < 256 := b.isLt
      rw [List.take_succ_cons, leNat, leNat, ih, Nat.pow_succ', Nat.mod_mul]
      congr 1
      · omega
      · congr 2
        omega

/-- The opcode of a command that 16 bytes hold is the last of them (R117). -/
theorem cmdOpc_of_bytes (bs : List Byte) : (cmdOpc (BitVec.ofNat 128 (fieldAt bs 0 16))).toNat = fieldAt bs 15 1 := by
  simp only [cmdOpc, fieldAt, BitVec.extractLsb'_toNat, BitVec.toNat_ofNat, Nat.shiftRight_eq_div_pow, List.drop_zero, leNat_take, leNat_drop]
  generalize leNat bs = v
  norm_num
  omega

/-! ## A chain that is stopped -/

section
variable {k : ChainId} {b : Bound} {bs base : List Byte}

/-- A command outside the codes of a kind of chain is none that it admits (R118). -/
theorem entry_refused (h : ¬ ((entryCodes k.kind).1 ≤ fieldAt bs 15 1 ∧ fieldAt bs 15 1 ≤ (entryCodes k.kind).2)) :
    ((Sopc.ofCode (cmdOpc (BitVec.ofNat 128 (fieldAt bs 0 16)))).bind fun o => if entryAdmits k.kind o then some o else none) = none := by
  rw [Option.bind_eq_none_iff]
  intro o ho
  rw [if_neg]
  intro hadm
  have hcode := entryAdmits_code hadm
  rw [Sopc.code_of_ofCode ho, cmdOpc_of_bytes] at hcode
  exact h hcode

/-- Nothing keeps a chain that may start its next entry from reading it (R195). -/
theorem MayStartEntry.goes (h : MayStartEntry s k b) : (!s.dies.getLsbD k.die || b.stopped || b.unbinding.isSome || b.fault.isSome || b.poisoned ||
    decide (b.tail < b.head + 1) || decide (b.pub + b.nent < b.head + 1)) = false := by
  simp [h.die, h.runs, h.binds, h.unfaulted, h.clean, Nat.not_lt.2 h.below, Nat.not_lt.2 h.room]

/-- CHAIN_ENTRY_START of an entry that its chain does not take stops the chain before it (R118). -/
theorem entryStart_stops (h : MayStartEntry s k b)
    (hbs : loadVa s b.asid k.die (b.entryVa (isQueue k.kind) (b.head + 1)) (if isQueue k.kind then 64 else 32) none = .ok bs)
    (hbase : loadVa s b.asid k.die b.basea 128 none = .ok base)
    (hcode : ¬ ((entryCodes k.kind).1 ≤ fieldAt bs 15 1 ∧ fieldAt bs 15 1 ≤ (entryCodes k.kind).2)) :
    entryStart s k = stopChain s k b (b.entryVa (isQueue k.kind) (b.head + 1)) := by
  have hgo := h.goes
  have hb := h.bound
  have hread : ((loadVa s b.asid k.die (b.entryVa (isQueue k.kind) (b.head + 1)) (if isQueue k.kind then 64 else 32) none).bind fun bs =>
      (loadVa s b.asid k.die b.basea 128 none).map fun base => (bs, base)) = .ok (bs, base) := by
    simp only [hbs, hbase, Got.bind, Got.map]
  have hrefused := entry_refused hcode
  obtain ⟨kind, die, num⟩ := k
  cases kind with
  | mxq =>
    simp only [isQueue, if_true] at hread
    simp only [entryStart, hb, hgo, hread, hrefused, if_true, Bool.false_eq_true, if_false]
    rfl
  | _ =>
    simp only [isQueue, Bool.false_eq_true, if_false] at hread
    simp only [entryStart, hb, hgo, hread, hrefused, Bool.false_eq_true, if_false]
    rfl

end

/-- Settles O18: the issue by what its opcode, its engine and its emptying give, and a chain's entry by its opcode. -/
theorem cmdIssues : Obligations.CmdIssues := by
  unfold Obligations.CmdIssues
  refine ⟨fun s u w rd rs1 rs2 t pk => ?cmd, ofCode_isSome_iff, fun s k b bs base hb hdie hruns hun hfault hclean hbelow hroom => ?entry⟩
  case cmd =>
    intro i c
    have hrun {r : Res} (h : WaitsSince s w t → cmdGo s u w rd rs1 rs2 = r) : Runs s u w i t pk r := runs_of_evaluateWait (exec_cmd rd rs1 rs2) h
    refine ⟨fun n hfe => ⟨fun he => hrun fun _ => ?_, fun he => hrun fun _ => ?_⟩, fun hfe => ?issues⟩
    · exact (cmdGo_emptying hfe).trans (if_pos he)
    · exact (cmdGo_emptying hfe).trans (if_neg (by simp [he]))
    case issues =>
      have hissues {r : Res} (h : WaitsSince s w t → cmdIssue s u w rd c i = r) : Runs s u w i t pk r := hrun fun hsince => (cmdGo_issues hfe).trans (h hsince)
      refine ⟨fun ho => hissues fun _ => cmdIssue_unassigned ho, fun o ho => ⟨fun on hi => hissues fun hsince => ?waits, fun s1 code hi => ?status⟩⟩
      case waits => exact (cmdIssue_waits ho hi).trans (waitIn_since hsince)
      case status =>
        intro w1
        have hst := cmdIssue_status (rd := rd) (i := i) ho hi
        refine ⟨fun hdone => hissues fun _ => hst.trans (if_neg ?_), fun hfec hcode hemp hseq htb => hissues fun hsince => ?_⟩
        · rw [Bool.and_eq_true, Bool.and_eq_true, decide_eq_true_eq]
          rintro ⟨⟨hfec, hcode⟩, hemp⟩
          simp [hdone hfec hcode] at hemp
        · refine (hst.trans (if_pos (by simp [hfec, hcode, hemp]))).trans (waitIn_since ?_)
          rw [WaitsSince] at hsince ⊢
          rwa [← hseq, ← htb] at hsince
  case entry =>
    intro mx va hbs hbase x s1 misplaced
    have hmx : mx = isQueue k.kind := (isQueue_eq k.kind).symm
    have hstops (h : ¬ ((entryCodes k.kind).1 ≤ x ∧ x ≤ (entryCodes k.kind).2)) : Ends (.chainEntryStart k) s (stopChain s k b va) := by
      simp only [va, hmx] at hbs ⊢
      exact ends_of_done rfl (entryStart_stops ⟨hb, hdie, hruns, hun, hfault, hclean, hbelow, hroom⟩ hbs hbase h)
    obtain ⟨kind, die, num⟩ := k
    have hqueue : (rootOf s1 b.launch).or (firstQueue s1 b.job) = match rootOf s1 b.launch with | some q => some q | none => firstQueue s1 b.job := by
      cases rootOf s1 b.launch <;> rfl
    simp only [misplaced, hqueue]
    cases kind <;> exact hstops

end Sys2Proof.Machine
end

section
/-! SUPPORT. Bring-up and the state after reset (R283, R284); the statement on the reset state, settled. -/

namespace Sys2Proof.Machine

open Sys2Proof.Safety

variable {s : State} {o : Offer}

/-- With nothing in the flash the boot ROM waits, and bring-up changes nothing (R284). -/
theorem bringUp_of_empty (h : s.flash = none) : bringUp s = s := by
  unfold bringUp
  rw [h]
  cases s.fwState <;> rfl

/-- The boot ROM checks what stands in the flash (R284). -/
theorem bringUp_of_offer (hrom : s.fwState = .rom) (h : s.flash = some o) : bringUp s = verifyOffer s o := by
  unfold bringUp
  rw [hrom, h]

/-- An offer that passes the checks starts the firmware (R284). -/
theorem verifyOffer_of_valid (h : o.valid = true) : verifyOffer s o = startFirmware s o := if_pos h

/-- Settles O51: the fields of the reset state by its definition, and a standby power-up by bring-up with an empty flash. -/
theorem resetState : Obligations.ResetState := by
  unfold Obligations.ResetState
  refine ⟨rfl, rfl, rfl, rfl, rfl, rfl, rfl, rfl, rfl, rfl, by decide, rfl, rfl, rfl, rfl, rfl, fun _ => ⟨rfl, rfl⟩, fun _ _ => rfl, fun _ _ => rfl,
    fun _ _ _ => rfl, memOk_reset, fun s hflash => ?standby, fun _ => ⟨rfl, rfl, rfl, rfl⟩⟩
  case standby => exact ends_of_done rfl (bringUp_of_empty (s := { deviceReset s with tb := 0 }) hflash)

end Sys2Proof.Machine
end

section
/-! SUPPORT. Accesses through the BARs (R74, R278, R280, R281), and function-level resets (R283). -/

namespace Sys2Proof.Machine

open Sys2Proof.Safety

variable {s : State} {f : PcieFn}

/-! ## BAR2 (R74, R278, R280) -/

section
variable {off size len opnd cmp : Nat} {bs : List Byte} {op : PcieAtomic}

/-- A write from outside that reaches memory is performed. -/
theorem outsideWrite_of_reach {a : Nat} (h : outsideReach s a bs.length = true) : outsideWrite s a bs = writePhys s (.dpa a) bs := if_pos h

/-- A write that reaches memory and that nothing holds back is logged and performed (R346, R355). -/
theorem bar2Write_reaches (hrun : s.fwState = .running) (hin : off + bs.length ≤ 2 ^ 36)
    (hreach : outsideReach s (windowAddr s off) bs.length = true) (hfree : outsideWaits s (windowAddr s off) bs.length true = false) :
    bar2Write s off bs = writePhys (logItem s (.bar2 (windowAddr s off) bs)) (.dpa (windowAddr s off)) bs := by
  have hgoes : (decide (s.fwState ≠ .running) || !inWindow off bs.length || outsideWaits s (windowAddr s off) bs.length true ||
      !outsideReach s (windowAddr s off) bs.length) = false := by
    simp only [hrun, inWindow, hin, hfree, hreach]
    rfl
  exact (if_neg (Bool.eq_false_iff.1 hgoes)).trans (outsideWrite_of_reach hreach)

/-- A read that nothing holds back returns what lies there (R74). -/
theorem bar2Read_returns (hrun : s.fwState = .running) (hin : off + len ≤ 2 ^ 36) (hfree : outsideWaits s (windowAddr s off) len false = false) :
    bar2Read s off len = { s with barData := outsideRead s (windowAddr s off) len } := by
  have hwindow : inWindow off len = true := decide_eq_true hin
  have hdata : bar2Data s off len = outsideRead s (windowAddr s off) len := by simp [bar2Data, hwindow, hrun]
  simp [bar2Read, hrun, hwindow, hfree, hdata]

/-- The sizes of an AtomicOp (Table 13.1). -/
theorem atomicSizes_contains (h : size = 4 ∨ size = 8 ∨ op = .cas ∧ size = 16) : (atomicSizes op).contains size = true := by
  rcases h with rfl | rfl | ⟨rfl, rfl⟩
  · cases op <;> rfl
  · cases op <;> rfl
  · rfl

/-- An AtomicOp of an allowed size, aligned, that reaches memory and that nothing holds back, writes the new value and returns the old (R278). -/
theorem hostAtomicOp_completes (hrun : s.fwState = .running) (hsize : (atomicSizes op).contains size = true) (halign : off % size = 0)
    (hin : off + size ≤ 2 ^ 36) (hreach : outsideReach s (windowAddr s off) size = true) (hwrite : outsideWaits s (windowAddr s off) size true = false)
    (hread : outsideWaits s (windowAddr s off) size false = false) :
    hostAtomicOp s off size op opnd cmp =
      let new := leBytes size (atomicNew op (8 * size) (leNat (getBytes s.mem (windowAddr s off) size)) opnd cmp)
      writePhys { logItem s (.bar2 (windowAddr s off) new) with barData := getBytes s.mem (windowAddr s off) size } (.dpa (windowAddr s off)) new := by
  have hgoes : (decide (s.fwState ≠ .running) || !(atomicSizes op).contains size || decide (off % size ≠ 0) || !inWindow off size ||
      outsideWaits s (windowAddr s off) size true || outsideWaits s (windowAddr s off) size false) = false := by
    simp only [hrun, hsize, halign, inWindow, hin, hwrite, hread]
    rfl
  have hreaches (new : List Byte) (hlen : new.length = size) : outsideReach s (windowAddr s off) new.length = true := hlen ▸ hreach
  refine (if_neg (Bool.eq_false_iff.1 hgoes)).trans ((if_neg (by simp [hreach])).trans ?_)
  exact outsideWrite_of_reach (hreaches _ (length_leBytes _ _))

end

/-! ## Registers (R6, R280, R281) -/

section
variable {off : Nat} {val : Word} {r : BarReg}

/-- With the firmware running every register takes a write (R284). -/
theorem takesWrite_of_running (h : s.fwState = .running) : takesWrite s r = true := by simp only [takesWrite, h]

/-- An aligned write acts by the register at its offset. -/
theorem registerWrite_register (hrun : s.fwState = .running) (halign : off % 8 = 0) (hf : fnPresent f = true) (hr : barReg s f off = some r) :
    registerWrite s f off val = writeReg s f r val := by
  simp [registerWrite, halign, hf, hr, takesWrite_of_running hrun]

/-- A write where no register is assigned changes nothing. -/
theorem registerWrite_unassigned (hr : barReg s f off = none) : registerWrite s f off val = s := by
  unfold registerWrite
  rw [hr]
  exact ite_self s

/-- MBADDR and MBST stand at the same offsets for every function (R281). -/
theorem barReg_mbaddr (s : State) (f : PcieFn) : barReg s f 0x20 = some .mbaddr := by cases f <;> rfl
theorem barReg_mbst (s : State) (f : PcieFn) : barReg s f 0x30 = some .mbst := by cases f <;> rfl

/-- DRST takes 0xD5 and nothing else (Table 13.3). -/
theorem drstWrite_eq : drstWrite s val = if val.toNat % 256 = 0xD5 then bringUp (deviceReset s) else s := by
  simp [drstWrite, wf]

end

/-! ## A VF's function-level reset (R283) -/

section
variable {v : Nat} {r : Flr}

/-- What a reset of a VF that begins keeps until it is over: the VF's jobs that have not completed, and the roots and ASIDs that its jobs alone use. -/
def flrOf (s : State) (v : Nat) : Flr :=
  let mine := s.jobs.filter fun j => decide (j.2.fn = .vf v) && decide (fnOfAsid s j.2.asid = some (.vf v))
  { jobs := jobsOf s (.vf v), roots := mine.map fun j => j.2.root, asids := (mine.map fun j => j.2.asid).eraseDups }

/-- A VF that is being reset hears no phase boundary. -/
def deafJobs (s : State) (v : Nat) : KMap Job :=
  s.jobs.map fun j => (j.1, { j.2 with phasebnd := j.2.phasebnd.filter fun b => decide (b.2 ≠ .vf v) })

/-- The state in which the VF's jobs have been killed. -/
def flrKilled (s : State) (v : Nat) : State :=
  (flrOf s v).jobs.foldl (fun s j => killJob s j none)
    { s with mboxes := kdel s.mboxes (mboxKey (.vf v)), flrs := kput s.flrs v (flrOf s v), jobs := deafJobs s v }

/-- VF_FLR of a VF that is not being reset kills its jobs, destroys its queues, and settles what it can (R283). -/
theorem vfFlr_begins (hv : v < 64) (hrun : s.fwState = .running) (hidle : kget s.flrs v = none) :
    let mine := (flrKilled s v).queues.filter fun q => decide (q.2.fn = .vf v)
    vfFlr s v = settleFlr (mine.foldl (fun s q => removeQueue s q.1) (flrKilled s v)) v (flrOf s v) := by
  have hgoes : (decide (64 ≤ v) || decide (s.fwState ≠ .running) || (kget s.flrs v).isSome) = false := by simp [hrun, hidle, hv]
  exact if_neg (Bool.eq_false_iff.1 hgoes)

/-- Until it is over the VF's mailbox takes nothing (log entry 63). -/
theorem submit_during_flr (h : flrRuns s f = true) : submit s f = s := if_pos (by simp [h])

end

/-! ## What the boot ROM takes from a mailbox (R284) -/

/-- With nothing in the flash MBDB of the PF gives the boot ROM what MBADDR names, or nothing. -/
theorem submit_of_offer {o : Offer} (hrom : s.fwState = .rom) (hflash : s.flash = none) (ho : kget s.hostOffers (mboxOf s .pf).addr.toNat = some o) :
    submit s .pf = verifyOffer s o := by
  simp [submit, hrom, hflash, ho, fnPresent, flrRuns]

theorem submit_without_offer (hrom : s.fwState = .rom) (hflash : s.flash = none) (ho : kget s.hostOffers (mboxOf s .pf).addr.toNat = none) :
    submit s .pf = { s with fwState := .authfail } := by
  simp [submit, hrom, hflash, ho, fnPresent, flrRuns]

/-- Settles O53: the accesses by the window and the register that they name, the resets by bring-up. -/
theorem hostWindow : Obligations.HostWindow := by
  unfold Obligations.HostWindow
  refine ⟨fun s off hrun => ⟨?write, ?read, ?atomic⟩, fun s f off val hrun halign hf => ⟨?register, ?unassigned⟩,
    fun s val hrun => ?registers, ?drst, ?resets, ?flr, ?rom⟩
  case write =>
    intro bs relaxed hin hreach hfree
    have hwrite := bar2Write_reaches hrun hin hreach hfree
    exact ⟨ends_of_done rfl hwrite, ends_of_done rfl hwrite⟩
  case read => exact fun len hin hfree => ends_of_done rfl (bar2Read_returns hrun hin hfree)
  case atomic =>
    intro size op opnd cmp hsize halign hin hreach hwrite hread
    refine ends_of_done rfl ((hostAtomicOp_completes hrun (atomicSizes_contains hsize) halign hin hreach hwrite hread).trans ?_)
    cases op <;> rfl
  case register => exact fun r hr => ends_of_done rfl (registerWrite_register hrun halign hf hr)
  case unassigned => exact fun hr => ends_of_done rfl (registerWrite_unassigned hr)
  case registers =>
    refine ⟨ends_of_done rfl (registerWrite_register (r := .winbase) hrun rfl rfl rfl), fun f hf => ⟨?_, ?_⟩⟩
    · exact ends_of_done rfl (registerWrite_register hrun rfl hf (barReg_mbaddr s f))
    · exact ends_of_done rfl (registerWrite_register hrun rfl hf (barReg_mbst s f))
  case drst => exact fun s val => ⟨fun h => ends_of_done rfl (drstWrite_eq.trans (if_pos h)), fun h => ends_of_done rfl (drstWrite_eq.trans (if_neg h))⟩
  case resets =>
    refine fun s => ⟨rfl, rfl, rfl, bringUp_of_empty (s := deviceReset s), fun o ho hvalid => ?_⟩
    have hup : bringUp (deviceReset s) = startFirmware (deviceReset s) o := (bringUp_of_offer (s := deviceReset s) rfl ho).trans (verifyOffer_of_valid hvalid)
    rw [hup]
    exact ⟨rfl, rfl⟩
  case flr =>
    refine fun s v hrun hv => ⟨fun hidle => ends_of_done rfl (vfFlr_begins hv hrun hidle), fun r hr => ⟨ends_of_done rfl (submit_during_flr ?_), rfl⟩⟩
    simp [flrRuns, hr]
  case rom =>
    exact fun s hrom hflash => ⟨fun ho => ends_of_done rfl (submit_without_offer hrom hflash ho), fun o ho => ends_of_done rfl (submit_of_offer hrom hflash ho)⟩

end Sys2Proof.Machine
end

section
/-! SUPPORT. Requests of the mailbox (R288, R289): what is submitted, and what each command answers where its checks pass. -/

namespace Sys2Proof.Machine

open Sys2Proof.Safety

variable {s : State} {f : PcieFn} {ws : List Word}

/-! ## MBDB (R288) -/

/-- MBDB of a busy mailbox of the running firmware sets OVR. -/
theorem submit_busy (hf : fnPresent f = true) (hrun : s.fwState = .running) (hflr : flrRuns s f = false) (hbusy : (mboxOf s f).busy = true) :
    submit s f = putMbox s f { mboxOf s f with ovr := true } := by
  simp [submit, hf, hrun, hflr, hbusy]

/-- MBDB of a free one takes the buffer at MBADDR as the request of a mailbox command. -/
theorem submit_takes (hf : fnPresent f = true) (hrun : s.fwState = .running) (hflr : flrRuns s f = false) (hfree : (mboxOf s f).busy = false)
    (hws : wordsOf (getBytes s.sysMem (mboxOf s f).addr.toNat 64) 8 = ws) (hlo : 1 ≤ opOf ws) (hhi : opOf ws ≤ 10) :
    submit s f = putMbox s f { mboxOf s f with busy := true, req := some ws, buf := (mboxOf s f).addr.toNat } := by
  have hknown : knownRequest ws = true := by simp [knownRequest, hlo, Nat.le_succ_of_le hhi]
  have hcommand : opOf ws ≠ 11 := by omega
  simp [submit, hf, hrun, hflr, hfree, hws, hknown, hcommand]

/-! ## Answers -/

/-- A request whose checks pass acts and is answered OK. -/
theorem answer_of_zero {code : Nat} {act : State → State} (h : code = 0) : answer s f code act = respond (act s) f 0 0 := if_neg (not_not.2 h)

/-- The queue, the ASID and the job that a request names (Table 13.9). -/
def queueArg (ws : List Word) : Nat := 1024 * wf (ws.getD 1 0) 1 0 + wf (ws.getD 1 0) 11 2
def asidArg (ws : List Word) : BitVec 12 := BitVec.ofNat 12 (wf (ws.getD 1 0) 11 0)
def jobArg (ws : List Word) : Nat := wf (ws.getD 1 0) 27 12

/-! ## Queues (R290) -/

/-- What a function may ask of QCREATE: the PF anything, a VF queues for its own ASIDs, with vectors below 64, and 256 of them. -/
def MayCreate (s : State) (f : PcieFn) (ws : List Word) : Prop :=
  f = .pf ∨ ownsAsid s f (BitVec.ofNat 12 (wf (ws.getD 1 0) 23 12)) = true ∧ (wb (ws.getD 1 0) 52 = true → wf (ws.getD 1 0) 51 41 < 64) ∧ queueCount s f < 256

/-- QCREATE in form and range, for an open job of the ASID, makes the queue. -/
theorem qcreate_makes (hreq : request s f 1 = some ws) (hmay : MayCreate s f ws) (hring : wf (ws.getD 2 0) 5 0 = 0) (hridxa : wf (ws.getD 4 0) 2 0 = 0)
    (hnent : powerIn (wf (ws.getD 3 0) 31 0) 16 65536 = true) (hnew : kget s.queues (queueArg ws) = none)
    (hjob : jobOpenFor s (wf (ws.getD 1 0) 39 24) (BitVec.ofNat 12 (wf (ws.getD 1 0) 23 12)) = true) :
    qcreate s f = respond { s with queues := kput s.queues (queueArg ws) (Queue.fresh f s.nextId ws), nextId := s.nextId + 1 } f 0 0 := by
  unfold queueArg at hnew ⊢
  unfold qcreate
  simp only [hreq, hnew, hring, hridxa, hnent, hjob]
  refine answer_of_zero ?_
  unfold MayCreate at hmay
  generalize ws.getD 1 0 = a at *
  rcases hmay with rfl | ⟨howns, hvec, hcount⟩
  · simp
  · have hvector : (wb a 52 && decide (64 ≤ wf a 51 41)) = false := by simpa using hvec
    simp [howns, Bool.and_assoc, hvector, Nat.not_le.2 hcount]

/-- QDESTROY by the PF or by the queue's function removes it. -/
theorem qdestroy_removes {q : Queue} (hreq : request s f 2 = some ws) (hq : kget s.queues (queueArg ws) = some q) (hmay : f = .pf ∨ q.fn = f) :
    qdestroy s f = respond (removeQueue s (queueArg ws)) f 0 0 := by
  unfold queueArg at hq ⊢
  unfold qdestroy
  simp only [hreq, hq]
  refine answer_of_zero (if_pos ?_)
  simpa using hmay

/-! ## Jobs and phases (R315, R349) -/

/-- The job that a JOBOPEN asks for is in form and range, in a save area that its own tables map. -/
structure JobFits (s : State) (j : Job) : Prop where
  nodes : j.nbase + j.ncount ≤ 8192
  savea : j.savea % 65536 = 0
  size : j.size % 65536 = 0
  least : 0x5000000 ≤ j.size
  mapped : saveAreaOk { s with roots := kput s.roots j.asid.toNat j.root } j.asid j.savea j.size = true

/-- It does not meet a job that is open: no node is another's, and jobs of one ASID have one root. -/
structure JobApart (s : State) (j : Job) : Prop where
  nodes : ∀ x ∈ s.jobs, x.2.level.complete = false → x.2.nbase + x.2.ncount ≤ j.nbase ∨ j.nbase + j.ncount ≤ x.2.nbase
  root : ∀ x ∈ s.jobs, x.2.level.complete = false → x.2.asid = j.asid → x.2.root = j.root

/-- JOBOPEN of such a job opens it. -/
theorem jobopen_opens (hreq : request s f 3 = some ws)
    (hmay : f = .pf ∨ fnOfAsid s (Job.fresh f ws).asid = none ∨ fnOfAsid s (Job.fresh f ws).asid = some f)
    (hfits : JobFits s (Job.fresh f ws)) (hapart : JobApart s (Job.fresh f ws)) (hnew : jobOpen s (jobArg ws) = false) :
    jobopen s f = respond (openJob s (jobArg ws) (Job.fresh f ws)) f 0 0 := by
  unfold jobArg at hnew ⊢
  unfold jobopen
  simp only [hreq]
  generalize Job.fresh f ws = j at *
  have hoverlap : ((s.jobs.filter fun x => !x.2.level.complete).any fun x =>
      decide (j.nbase < x.2.nbase + x.2.ncount) && decide (x.2.nbase < j.nbase + j.ncount)) = false := by
    simp only [List.any_eq_false, List.mem_filter, Bool.not_eq_true', Bool.and_eq_true, decide_eq_true_eq]
    intro x ⟨hx, hopen⟩
    have := hapart.nodes x hx hopen
    omega
  have hroot : ((s.jobs.filter fun x => !x.2.level.complete).any fun x =>
      decide (x.2.asid = j.asid) && decide (x.2.root ≠ j.root)) = false := by
    simp only [List.any_eq_false, List.mem_filter, Bool.not_eq_true', Bool.and_eq_true, decide_eq_true_eq, not_and, not_not]
    exact fun x ⟨hx, hopen⟩ => hapart.root x hx hopen
  have hrange : (decide (8192 < j.nbase + j.ncount) || decide (j.savea % 65536 ≠ 0) || decide (j.size % 65536 ≠ 0) || decide (j.size < 0x5000000)) = false := by
    simp [hfits.nodes, hfits.savea, hfits.size, hfits.least]
  refine answer_of_zero ?_
  rw [hoverlap, hroot, hrange, hfits.mapped, hnew]
  cases f with
  | pf => rfl
  | vf v =>
    have hmine : ((fnOfAsid s j.asid).isNone || decide (fnOfAsid s j.asid = some (.vf v))) = true := by
      rcases hmay with h | h | h
      · cases h
      all_goals simp [h]
    simp only [hmine]
    rfl

/-- A job that is open for an ASID is there. -/
theorem exists_of_jobOpenFor {job : Nat} {a : BitVec 12} (h : jobOpenFor s job a = true) : ∃ j, kget s.jobs job = some j := by
  cases hj : kget s.jobs job with
  | none => simp [jobOpenFor, hj] at h
  | some j => exact ⟨j, rfl⟩

/-- JOBCLOSE of an open job closes its level. -/
theorem jobclose_closes (hreq : request s f 4 = some ws) (howns : ownsAsid s f (asidArg ws) = true) (hopen : jobOpenFor s (jobArg ws) (asidArg ws) = true) :
    jobclose s f =
      respond (settleJob { s with jobs := kmod s.jobs (jobArg ws) fun j => { j with level := { j.level with closed := true } } } (jobArg ws)) f 0 0 := by
  unfold jobArg asidArg at *
  unfold jobclose
  simp only [hreq, howns, hopen]
  rfl

/-- PHASEBND of an open job that waits for no boundary enters the request and wants a boundary (R349). -/
theorem phasebnd_enters (hreq : request s f 5 = some ws) (howns : ownsAsid s f (asidArg ws) = true) (hopen : jobOpenFor s (jobArg ws) (asidArg ws) = true)
    (hform : (ws.getD 2 0).toNat < 2) (hidle : ∀ j, kget s.jobs (jobArg ws) = some j → j.phasebnd = none) :
    phasebnd s f = { s with jobs := kmod s.jobs (jobArg ws) fun j => { j with phasebnd := some ((ws.getD 2 0).getLsbD 0, f) },
                            bnd := if s.bnd = .idle then .wanted else s.bnd, bndFull := s.bndFull || (ws.getD 2 0).getLsbD 0 } := by
  have hnone : (ws.getD 2 0).toNat / 2 = 0 := by omega
  obtain ⟨j, hj⟩ := exists_of_jobOpenFor hopen
  have hwaits := hidle j hj
  unfold jobArg asidArg at *
  unfold phasebnd
  simp only [hreq, hj, hwaits, howns, hopen, hnone]
  rfl

/-! ## Grants (R289, R301) -/

section
variable {g : GrantReq}

/-- The check of the holders (OWNER), where none is another context. -/
theorem otherHolds_eq_false (h : ∀ x ∈ g.holders s, x = none ∨ x = some g.asid) :
    ((g.holders s).any fun x => x.isSome && decide (x ≠ some g.asid)) = false := by
  rw [List.any_eq_false]
  intro x hx
  rcases h x hx with rfl | rfl <;> simp

variable (hg : GrantReq.of ws = g) (howns : ownsAsid s f g.asid = true) (hform : lowest g.formChecks = 0)
include hg howns hform

/-- GRANT of what no other context holds gives it. -/
theorem grant_gives {t : State} (hreq : request s f 6 = some ws) (hshare : inShare s f g = true) (hfree : ∀ h ∈ g.holders s, h = none ∨ h = some g.asid)
    (ht : giveGrant s g = some t) : grant s f = respond t f 0 0 := by
  have hcode : lowest (g.formChecks ++ [(decide (g.kind < 7) && (g.holders s).any fun h => h.isSome && decide (h ≠ some g.asid), mbOwner)]) = 0 := by
    rw [otherHolds_eq_false hfree, Bool.and_false, lowest_append_of_zero _ rfl, hform]
  unfold grant
  simp only [hreq, hg, howns, hform, hshare, hcode, ht]
  rfl

/-- REVOKE of what is held and not in use takes it. -/
theorem revoke_takes (hreq : request s f 7 = some ws) (hheld : ∀ h ∈ g.holders s, h = some g.asid) (hidle : g.inUse s = false)
    (hjib : g.kind = 6 → g.isJib s = true) (hunits : (g.kind = 0 ∨ g.kind = 6) → g.boundUnits s = []) : revoke s f = respond (takeGrant s g) f 0 0 := by
  have hall : ((g.holders s).any fun h => h.isNone) = false := by
    rw [List.any_eq_false]
    intro h hh
    simp [hheld h hh]
  have hrect : (decide (g.kind = 6) && !g.isJib s) = false := by
    by_cases h : g.kind = 6 <;> simp [h, hjib]
  have hcode : lowest (g.formChecks ++ [(decide (g.kind < 7) && (g.holders s).any fun h => h.isSome && decide (h ≠ some g.asid), mbOwner),
      (decide (g.kind < 7) && ((g.holders s).any (fun h => h.isNone) || g.inUse s || (decide (g.kind = 6) && !g.isJib s)), mbState)]) = 0 := by
    rw [otherHolds_eq_false fun h hh => .inr (hheld h hh), hall, hidle, hrect, Bool.or_false, Bool.or_false, Bool.and_false, lowest_append_of_zero _ rfl, hform]
  have hnone : (if decide (g.kind = 0) || decide (g.kind = 6) then g.boundUnits s else []) = [] := by
    split
    next hrect => exact hunits (by simpa using hrect)
    next => rfl
  unfold revoke
  simp only [hreq, hg, howns, hcode, hnone]
  rfl

end

/-! ## Modes, shares and the summary (R289, R309, R367) -/

/-- CTMODE by the PF of an unused tier begins the change (R309). -/
theorem ctmode_begins (hreq : request s .pf 8 = some ws) (hidle : kget s.ctBusy (wf (ws.getD 1 0) 2 0) = none)
    (hchange : s.ctMode.getLsbD (wf (ws.getD 1 0) 2 0) ≠ wb (ws.getD 1 0) 3) (hunused : tierInUse s (wf (ws.getD 1 0) 2 0) = false) :
    ctmode s .pf = respond { s with ctBusy := kput s.ctBusy (wf (ws.getD 1 0) 2 0) (wb (ws.getD 1 0) 3) } .pf 0 0 := by
  unfold ctmode
  simp only [hreq, hidle, hunused, if_neg hchange]
  rfl

/-- CTMODE_COMPLETE, once no store is in flight, changes the mode and performs what waited (R309). -/
theorem ctmodeComplete_changes {st : Nat} {m : Bool} (hbusy : kget s.ctBusy st = some m) (hdone : tierInFlight s st = false) :
    ctmodeComplete s st = s.owed.foldl payOwed
      { s with ctBusy := kdel s.ctBusy st, ctMode := if m = true then s.ctMode ||| (1 : BitVec 8) <<< st else s.ctMode &&& ~~~((1 : BitVec 8) <<< st),
               mem := s.mem.filter fun b => !inTier st b.1, owed := [] } := by
  unfold ctmodeComplete
  simp only [hbusy, hdone]
  rfl

/-- SHARE by the PF sets a VF's share. -/
theorem share_sets (hreq : request s .pf 9 = some ws) :
    share s .pf = respond
      { s with shares := kput s.shares (wf (ws.getD 1 0) 5 0) [(ws.getD 2 0).toNat, (ws.getD 3 0).toNat, (ws.getD 4 0).toNat] } .pf 0 0 := by
  unfold share
  simp only [hreq]
  rfl

/-- The summary that a function is given, and the jobs whose records fit it (R367). -/
def summaryJobs (s : State) (f : PcieFn) : KMap Job := s.jobs.filter fun j => decide (f = .pf) || decide (j.2.fn = f)
def summaryOf (s : State) (f : PcieFn) (fit : KMap Job) : List Byte :=
  summaryHead s (decide (f = .pf)) fit.length (summaryJobs s f).length ++ fit.flatMap fun j => jobRecord s j.1 j.2

/-- RESYNC into 4 KiB or more writes the summary. -/
theorem resync_writes {bs : List Byte} (hreq : request s f 10 = some ws) (hroom : 4096 ≤ (ws.getD 2 0).toNat)
    (hbs : summaryOf s f ((summaryJobs s f).take (((ws.getD 2 0).toNat - 256) / 640)) = bs) :
    resync s f = respond (writePhys s (.sys (ws.getD 1 0).toNat) bs) f 0 bs.length := by
  subst hbs
  unfold resync
  simp only [hreq]
  exact if_neg (Nat.not_lt.2 hroom)

/-- Settles O54: each command by the lemma on its answer. -/
theorem mailboxCommands : Obligations.MailboxCommands := by
  unfold Obligations.MailboxCommands
  refine ⟨fun s f hf hrun => ?mbdb, fun s f ws => ⟨?qcreate, ?qdestroy, ?jobopen, ?jobclose, ?phasebnd, ?grant, ?revoke, ?ctmode, ?share, ?resync⟩, ?complete⟩
  case mbdb =>
    exact fun hflr => ⟨fun hbusy => ends_of_done rfl (submit_busy hf hrun hflr hbusy),
      fun hfree hlo hhi => ends_of_done rfl (submit_takes hf hrun hflr hfree rfl hlo hhi)⟩
  case qcreate => exact fun hreq hmay hring hridxa hnent hnew hjob => ends_of_done rfl (qcreate_makes hreq hmay hring hridxa hnent hnew hjob)
  case qdestroy => exact fun hreq q hq hmay => ends_of_done rfl (qdestroy_removes hreq hq hmay)
  case jobopen =>
    exact fun hreq hmay hnodes hsavea hsize hleast hmapped hapart hroot hnew =>
      ends_of_done rfl (jobopen_opens hreq hmay ⟨hnodes, hsavea, hsize, hleast, hmapped⟩ ⟨hapart, hroot⟩ hnew)
  case jobclose => exact fun hreq howns hopen => ends_of_done rfl (jobclose_closes hreq howns hopen)
  case phasebnd => exact fun hreq howns hopen hform hidle => ends_of_done rfl (phasebnd_enters hreq howns hopen hform hidle)
  case grant =>
    intro hreq g howns hshare hform hfree
    have hgives (t : State) (ht : giveGrant s g = some t) : Ends (.grant f) s (respond t f 0 0) :=
      ends_of_done rfl (grant_gives rfl howns hform hreq hshare hfree ht)
    exact ⟨hgives, fun hkind => hgives _ (by simp only [giveGrant, hkind]), fun hkind => hgives _ (by simp only [giveGrant, hkind])⟩
  case revoke =>
    intro hreq g howns hform hheld hidle hjib hunits
    exact ends_of_done rfl (revoke_takes rfl howns hform hreq hheld hidle hjib hunits)
  case ctmode =>
    rintro hreq rfl st hidle hchange hunused
    exact ends_of_done rfl (ctmode_begins hreq hidle hchange hunused)
  case share =>
    rintro hreq rfl
    exact ends_of_done rfl (share_sets hreq)
  case resync => exact fun hreq hroom => ends_of_done rfl (resync_writes hreq hroom rfl)
  case complete => exact fun s st m hbusy hdone => ends_of_done rfl (ctmodeComplete_changes hbusy hdone)

end Sys2Proof.Machine
end

section
/-! SUPPORT. Service actions (R368 to R371, R379), and the SPDM responder (R278, R285, R286); the statement on them, settled. -/

namespace Sys2Proof.Machine

open Sys2Proof.Safety

variable {s t : State} {ws : List Word}

/-! ## One action (R368) -/

section
variable {action : Nat} {form : List Word → Bool} {act : State → List Word → Served}

/-- The state in which the action of a request is under way. -/
def serving (s : State) (ws : List Word) : State := { s with service := some ws }

/-- The PF asks for an action, in form, while none is under way. -/
structure Serves (s : State) (ws : List Word) (action : Nat) (form : List Word → Bool) : Prop where
  req : request s .pf 11 = some ws
  action : actionOf ws = action
  form : form ws = false
  idle : s.service = none

/-- An action that is complete is answered, and none is under way any more (log entry 86). -/
theorem Serves.ends {code : Nat} (h : Serves s ws action form) (ht : act (serving s ws) ws = .ends t code) :
    serve s .pf action form act = respond { t with service := none } .pf code 0 := by
  obtain ⟨hreq, haction, hform, hidle⟩ := h
  unfold serving at ht
  simp [serve, hreq, haction, hform, hidle, ht]

/-- One that is not goes on. -/
theorem Serves.goesOn (h : Serves s ws action form) (ht : act (serving s ws) ws = .goesOn t) : serve s .pf action form act = t := by
  obtain ⟨hreq, haction, hform, hidle⟩ := h
  unfold serving at ht
  simp [serve, hreq, haction, hform, hidle, ht]

end

/-! ## Dies, sails and links -/

/-- Tile-planes on which no unit is are left at once (R369). -/
theorem vacate_of_empty {here : Tp → Bool} (h : ∀ x ∈ s.units, here x.2.tp = false) : vacate s here = .ends s 0 := by
  have hnone : (s.units.filter fun u => here u.2.tp) = [] := List.filter_eq_nil_iff.2 fun x hx => Bool.eq_false_iff.1 (h x hx)
  unfold vacate
  simp only [hnone, List.map_nil, List.foldl_nil]
  refine if_neg ?_
  rw [List.any_eq_true]
  rintro ⟨x, hx, hstays⟩
  rw [h x hx] at hstays
  simp at hstays

/-- FWUPD_FABRIC_OUT and FWUPD_SAIL_OUT of what no unit is on end at once (R369). -/
theorem fabricOut_ends (h : Serves s ws 1 fun _ => false) (hunits : ∀ x ∈ s.units, x.2.tp.die ≠ dieOf ws) :
    fabricOut s .pf = respond { s with dies := s.dies &&& ~~~(dieBit (dieOf ws)), service := none } .pf 0 0 :=
  h.ends (t := { serving s ws with dies := _ }) (vacate_of_empty fun x hx => decide_eq_false (hunits x hx))

theorem sailOut_ends (h : Serves s ws 3 fun ws => decide (4 ≤ sailOf ws)) (hunits : ∀ x ∈ s.units, ¬ (x.2.tp.die = dieOf ws ∧ x.2.tp.plane = sailOf ws)) :
    sailOut s .pf = respond { s with sailsOut := dset false s.sailsOut (4 * dieOf ws + sailOf ws) true, service := none } .pf 0 0 :=
  h.ends (t := { serving s ws with sailsOut := _ }) (vacate_of_empty fun x hx => by simpa using hunits x hx)

/-- FWUPD_FABRIC_IN and FWUPD_SAIL_IN bring back a die that the blob lists, and a sail (R369). -/
theorem fabricIn_ends (h : Serves s ws 2 fun _ => false) :
    fabricIn s .pf = respond { retryJibs { s with dies := s.dies ||| (dieBit (dieOf ws) &&& s.blob.dies), service := some ws } with service := none } .pf 0 0 :=
  h.ends rfl

theorem sailIn_ends (h : Serves s ws 4 fun ws => decide (4 ≤ sailOf ws)) :
    sailIn s .pf = respond { s with sailsOut := dset false s.sailsOut (4 * dieOf ws + sailOf ws) false, service := none } .pf 0 0 :=
  h.ends (t := { serving s ws with sailsOut := _ }) rfl

/-- A link out of service: its width drops to 0 (R379, R389). -/
def Link.out (x : Link) : Link := { x with state := 3, width := 0, rate := 0, wanted := false, outTold := false, since := none }

/-- FWUPD_LINK_OUT of a link that is not retraining takes it out, and raises `link.degraded` where that has not been done (R377, R379). -/
theorem linkOut_ends (h : Serves s ws 5 fun ws => decide (16 ≤ linkArg ws)) (hstate : (linkOf s (linkArg ws)).state ≠ 1) :
    let s1 := putLink (serving s ws) (linkArg ws) (linkOf s (linkArg ws)).out
    let s2 := if (linkOf s (linkArg ws)).width ≠ 0 ∧ (linkOf s (linkArg ws)).outTold = false then degrade s1 (linkArg ws) else s1
    linkOut s .pf = respond { checkRoutes s2 with service := none } .pf 0 0 := by
  intro s1 s2
  have htold : (decide ((linkOf s (linkArg ws)).width ≠ 0) && !(linkOf s (linkArg ws)).outTold) = true ↔
      (linkOf s (linkArg ws)).width ≠ 0 ∧ (linkOf s (linkArg ws)).outTold = false := by simp
  refine (h.ends (if_neg hstate)).trans ?_
  simp only [s2, ← htold]
  rfl

/-- One that is retraining is waited for. -/
theorem linkOut_waits (h : Serves s ws 5 fun ws => decide (16 ≤ linkArg ws)) (hstate : (linkOf s (linkArg ws)).state = 1) : linkOut s .pf = serving s ws :=
  h.goesOn (if_pos hstate)

/-- FWUPD_LINK_IN asks for the retrain of a link that has not been asked for (R379). -/
theorem linkIn_asks (h : Serves s ws 6 fun ws => decide (16 ≤ linkArg ws)) (hback : (linkOf s (linkArg ws)).back = .none) :
    linkIn s .pf = startWanted (putLink (serving s ws) (linkArg ws) { linkOf s (linkArg ws) with back := .asked }) := by
  have hback' : (linkOf (serving s ws) (linkArg ws)).back = .none := hback
  exact h.goesOn (by simp only [hback']; rfl)

/-- The action ends once that retrain is over. -/
theorem linkIn_ends (h : Serves s ws 6 fun ws => decide (16 ≤ linkArg ws)) (hback : (linkOf s (linkArg ws)).back = .over) :
    linkIn s .pf = respond { putLink (serving s ws) (linkArg ws) { linkOf s (linkArg ws) with back := .none } with service := none } .pf 0 0 := by
  have hback' : (linkOf (serving s ws) (linkArg ws)).back = .over := hback
  exact h.ends (by simp only [hback']; rfl)

/-! ## Firmware and power (R370, R371) -/

/-- FWUPD_FIRMWARE of an image that verifies changes FWVER (log entry 97). -/
theorem fwupdFirmware_ends {o : Offer} (h : Serves s ws 0 fun _ => false) (ho : kget s.hostOffers (ws.getD 1 0).toNat = some o) (hvalid : o.valid = true) :
    fwupdFirmware s .pf = respond { s with fwver := o.fwver, service := none } .pf 0 0 := by
  have hoffer : kget (serving s ws).hostOffers (ws.getD 1 0).toNat = some o := ho
  exact h.ends (t := { serving s ws with fwver := o.fwver }) (by simp only [hoffer, hvalid, if_true])

/-- FWUPD_POWER_CLASS of a class within the form and the blob applies it. -/
theorem powerClass_ends {c : Nat} (h : Serves s ws 7 fun _ => false) (hc : wf (ws.getD 3 0) 2 0 = c) (hform : c ≤ formClass s.blob.form)
    (hmax : c ≤ s.blob.maxClass) : powerClass s .pf = respond { s with power := c, service := none } .pf 0 0 := by
  subst hc
  have hwithin : (decide (formClass s.blob.form < wf (ws.getD 3 0) 2 0) || decide (s.blob.maxClass < wf (ws.getD 3 0) 2 0)) = false :=
    Bool.or_eq_false_iff.2 ⟨decide_eq_false (Nat.not_lt.2 hform), decide_eq_false (Nat.not_lt.2 hmax)⟩
  exact h.ends (t := { serving s ws with power := _ }) (if_neg (Bool.eq_false_iff.1 hwithin))

/-! ## SPDM (R286) -/

section
variable {r : SpdmResp} {st : SpdmSt}

/-- The running firmware answers a request whose turn it is. -/
theorem spdmAnswer_ready {ready : Bool} (hrun : s.fwState = .running) (h : ready = true) : spdmAnswer s ready r st = reply s r st := by
  simp [spdmAnswer, hrun, h]

/-- It refuses one that comes too early. -/
theorem spdmAnswer_early {ready : Bool} (hrun : s.fwState = .running) (h : ready = false) : spdmAnswer s ready r st = reply s .unexpectedRequest s.spdm := by
  simp [spdmAnswer, hrun, h]

variable (hrun : s.fwState = .running)
include hrun

/-- NEGOTIATE_ALGORITHMS takes an offer of SM2 or SM3, and refuses one of neither. -/
theorem negotiate_offer (hst : s.spdm = .capable) {sm2 sm3 : Bool} (h : (sm2 || sm3) = true) : negotiate s sm2 sm3 = reply s .algorithms .negotiated := by
  have hoffer : (decide (s.spdm = .capable) && !sm2 && !sm3) = false := by
    rw [Bool.and_assoc, ← Bool.not_or, h, Bool.not_true, Bool.and_false]
  exact (if_neg (Bool.eq_false_iff.1 hoffer)).trans (spdmAnswer_ready hrun (decide_eq_true hst))

theorem negotiate_neither (hst : s.spdm = .capable) : negotiate s false false = reply s .unsupportedRequest .capable := by
  refine (if_pos (by simp [hst])).trans ?_
  rw [spdmAnswer_ready hrun rfl, hst]

variable (hst : s.spdm = .negotiated)
include hst

/-- Once the negotiation is over it stays so. -/
theorem spdmAnswer_negotiated : spdmAnswer s (decide (s.spdm = .negotiated)) r s.spdm = reply s r .negotiated := by
  rw [spdmAnswer_ready hrun (decide_eq_true hst), hst]

/-- GET_CERTIFICATE of slot 0 gives a portion of its chain. -/
theorem getCertificate_slot (off len : Nat) : getCertificate s 0 off len =
    reply s (.certificate 0 (((Config.certificate 0).drop off).take len) ((Config.certificate 0).length - (off + len))) .negotiated :=
  (if_neg (by simp)).trans (spdmAnswer_negotiated hrun hst)

/-- CHALLENGE of slot 0 is answered with a nonce of its own and a signature over both. -/
theorem challenge_slot (nonce : List Byte) : challenge s 0 nonce =
    { s with doe := some (.challengeAuth 0 (leBytes 32 (Config.freeNat s.freeCount)) (Config.signature (nonce ++ leBytes 32 (Config.freeNat s.freeCount)))),
             spdm := .negotiated, freeCount := s.freeCount + 1 } := by
  refine (if_neg (by simp)).trans ((spdmAnswer_ready (s := (drawNat s).1) hrun (decide_eq_true hst)).trans ?_)
  rw [hst]
  rfl

/-- GET_MEASUREMENTS of an index from 1 to 4 gives that block. -/
theorem getMeasurements_block {k : Nat} (hlo : 1 ≤ k) (hhi : k ≤ 4) :
    getMeasurements s k = reply s (.measurements 4 [(k, measurementBlock s k)]) .negotiated := by
  refine (spdmAnswer_negotiated hrun hst).trans ?_
  rw [if_neg (by omega), if_neg (by omega), if_pos hhi]

end

/-- DOE discovery lists two protocols and nothing after them (R278). -/
theorem doeDiscovery_beyond {k : Nat} (h : 2 ≤ k) : doeDiscovery s k = { s with doe := some (.discovery 0xFFFF 0xFF 0) } := by
  obtain ⟨n, rfl⟩ := Nat.exists_eq_add_of_le' h
  rfl

/-- Settles O55: each action by its end or its wait, each SPDM request by the state of the negotiation. -/
theorem serviceAndAttestation : Obligations.ServiceAndAttestation := by
  unfold Obligations.ServiceAndAttestation
  refine ⟨fun s ws hreq hidle => ?service, fun s hrun => ?spdm, fun s => rfl, fun s => ⟨rfl, rfl, fun k hk => ends_of_done rfl (doeDiscovery_beyond hk)⟩⟩
  case service =>
    intro c die sail l ends
    have hserves {k : Nat} {form : List Word → Bool} (hk : c.toNat % 16 = k) (hform : form ws = false) : Serves s ws k form :=
      ⟨hreq, (Nat.div_one _ ▸ hk : _ / 2 ^ 0 % 16 = k), hform, hidle⟩
    have hlink : l < 16 → decide (16 ≤ linkArg ws) = false := fun hl => decide_eq_false (Nat.not_le.2 hl)
    have hsail4 : sail < 4 → decide (4 ≤ sailOf ws) = false := fun hsail => decide_eq_false (Nat.not_le.2 hsail)
    refine ⟨?firmware, ?fabricOut, ?fabricIn, ?sailOut, ?sailIn, ?linkOut, ?linkWaits, ?linkAsks, ?linkIn, ?power⟩
    case firmware => exact fun o ho hvalid hk => ends_of_done rfl (fwupdFirmware_ends (hserves hk rfl) ho hvalid)
    case fabricOut => exact fun hunits hk => ends_of_done rfl (fabricOut_ends (hserves hk rfl) hunits)
    case fabricIn => exact fun hk => ends_of_done rfl (fabricIn_ends (hserves hk rfl))
    case sailOut => exact fun hsail hunits hk => ends_of_done rfl (sailOut_ends (hserves hk (hsail4 hsail)) hunits)
    case sailIn => exact fun hsail hk => ends_of_done rfl (sailIn_ends (hserves hk (hsail4 hsail)))
    case linkOut => exact fun hl hstate hk => ends_of_done rfl (linkOut_ends (hserves hk (hlink hl)) hstate)
    case linkWaits => exact fun hk hl hstate => ends_of_done rfl (linkOut_waits (hserves hk (hlink hl)) hstate)
    case linkAsks => exact fun hk hl hback => ends_of_done rfl (linkIn_asks (hserves hk (hlink hl)) hback)
    case linkIn => exact fun hl hback hk => ends_of_done rfl (linkIn_ends (hserves hk (hlink hl)) hback)
    case power => exact fun hform hmax hk => ends_of_done rfl (powerClass_ends (hserves hk rfl) (by simp [wf]) hform hmax)
  case spdm =>
    refine ⟨?version, fun hst => ?capabilities, fun hst => ?early, fun hst sm2 sm3 h => ?offer, fun hst => ?neither,
      fun hst => ⟨?digests, ?certificate, ?challenge, ?number, ?one, ?all⟩⟩
    case version => exact ends_of_done rfl (spdmAnswer_ready hrun rfl)
    case capabilities => exact ends_of_done rfl (spdmAnswer_ready hrun (decide_eq_true hst))
    case early => exact ends_of_done rfl (spdmAnswer_early hrun (decide_eq_false hst))
    case offer => exact ends_of_done rfl (negotiate_offer hrun hst h)
    case neither => exact ends_of_done rfl (negotiate_neither hrun hst)
    case digests => exact ends_of_done rfl (spdmAnswer_negotiated hrun hst)
    case certificate => exact fun off len => ends_of_done rfl (getCertificate_slot hrun hst off len)
    case challenge => exact fun nonce => ends_of_done rfl (challenge_slot hrun hst nonce)
    case number => exact ends_of_done rfl (spdmAnswer_negotiated hrun hst)
    case one => exact fun k hlo hhi => ends_of_done rfl (getMeasurements_block hrun hst hlo hhi)
    case all => exact ends_of_done rfl (spdmAnswer_negotiated hrun hst)

end Sys2Proof.Machine
end

section
/-! SUPPORT. A machine that lists a queue twice, and what a write of NOTIFY makes of it (R290); the statement on queues and binding, refuted. -/

namespace Sys2Proof.Machine

open Sys2Proof.Safety Sys2Proof.Tests

/-- The test machine with queue 0 of die 0 listed twice: first as the machine reads it, with 16 entries and RIDX 0, and once more with RIDX 5. -/
def sQueueTwice : State := { sQ queue7 packet7 with queues := [(0, queue7), (0, { queue7 with ridx := 5 })] }

/-- BADN of each queue that a meaning leaves. -/
def badnsAfter (r : Res) : List Bool :=
  match r with
  | .next t => t.queues.map fun x => x.2.badn
  | _ => []

/-- The write is held against the RIDX of the entry that the machine reads, for both entries. -/
theorem notify_sets_badn_of_both : badnsAfter (exec (.notify q0 20) sQueueTwice) = [true, true] := by decide

/-- Refutes O56: the list of queues may hold the queue of a NOTIFY twice, with two RIDX. The statement holds the value against the RIDX of each entry, the
machine holds it against the first's for both: 20 lies beyond 0 + 16 and not beyond 5 + 16. -/
theorem not_queuesAndBinding : ¬ Obligations.QueuesAndBinding := by
  unfold Obligations.QueuesAndBinding
  intro h
  obtain ⟨hqueues, -⟩ := h
  obtain ⟨hnotify, -⟩ := hqueues sQueueTwice q0 queue7 rfl rfl
  have hends := hnotify 20 (by decide)
  have hbadns := notify_sets_badn_of_both.symm.trans (congrArg badnsAfter hends)
  exact absurd hbadns (by decide)

end Sys2Proof.Machine
end

section
/-! SUPPORT. Frame entries (R319, R320), and gang slices while they have no decision (R323); the statement on them, settled. -/

namespace Sys2Proof.Machine

open Sys2Proof.Safety

variable {s : State} {die : Nat} {f : Frame} {e : FrameEntry} {g : GangSt}

/-! ## Entries (R319, R320) -/

/-- An entry without a gang begins with its sail active. -/
theorem beginEntry_sail {j : Nat} {start : Word} (h : e.gang = false) :
    beginEntry s die f j e start = putFrame s die { f with cur := j, start := start, active := e.sail.toNat, gang := none } := by
  simp [beginEntry, h]

/-- A gang slice begins open, and leaves the active sail as it is (log entry 81). -/
theorem beginEntry_slice {j : Nat} {start : Word} (h : e.gang = true) :
    beginEntry s die f j e start = putFrame s die
      { f with cur := j, start := start, gang := some { start := start, sentReady := false, readyFrom := [], decision := none, lost := false } } := by
  simp [beginEntry, h]

section
variable (hdie : die < 4) (hrun : s.fwState = .running) (hcur : (frameOf s die).entries[(frameOf s die).cur]? = some e)
  (hover : earlier s.tb ((frameOf s die).start + e.ticks.setWidth 64) = false)
include hdie hrun hcur hover

/-- Once the ticks of an entry have passed, the next that is taken begins at the instant at which they had. -/
theorem frameEntryEnd_begins {j : Nat} {e' : FrameEntry}
    (hnext : entryFrom? s die (frameOf s die).entries ((frameOf s die).cur + 1) = some (j, e')) :
    frameEntryEnd s die = beginEntry s die (frameOf s die) j e' ((frameOf s die).start + e.ticks.setWidth 64) := by
  simp [frameEntryEnd, Nat.not_le.2 hdie, hrun, hcur, hover, hnext]

/-- After the last that is taken the frame ends. -/
theorem frameEntryEnd_last (hnext : entryFrom? s die (frameOf s die).entries ((frameOf s die).cur + 1) = none) :
    frameEntryEnd s die = nextFrame s die (frameOf s die) ((frameOf s die).start + e.ticks.setWidth 64) := by
  simp [frameEntryEnd, Nat.not_le.2 hdie, hrun, hcur, hover, hnext]

end

/-! ## Gang slices (R323) -/

/-- A leader that holds READY from every member sends GO. -/
theorem leaderDecides_go (h : ∀ m ∈ gangMembers s e.gid, m ∈ g.readyFrom) :
    leaderDecides s die f e g = sliceGo (halSend s (.go e.gid g.start)) die f e g :=
  if_pos (List.all_eq_true.2 fun m hm => List.contains_iff_mem.2 (h m hm))

/-- One that lacks a READY keeps those that it has. -/
theorem leaderDecides_waits (h : ¬ ∀ m ∈ gangMembers s e.gid, m ∈ g.readyFrom) :
    leaderDecides s die f e g = putFrame s die { f with gang := some g } :=
  if_neg fun hall => h fun m hm => List.contains_iff_mem.1 (List.all_eq_true.1 hall m hm)

/-- A member that is ready: it has sent READY, and counts as one of those that have. -/
def GangSt.ready (s : State) (g : GangSt) : GangSt := { g with sentReady := true, readyFrom := s.blob.devid.toNat :: g.readyFrom }

section
variable (hopen : openSlice s die = some (f, e, g))
include hopen

section
variable (hsent : g.sentReady = false) (hsave : saving s die e.sail.toNat = false)
include hsent hsave

/-- A member that becomes ready sends READY to the leader. -/
theorem readySend_member (hlead : leads s e.gid = false) :
    readySend s die = halSend (putFrame s die { f with gang := some (g.ready s) }) (.ready e.gid g.start) := by
  simp [readySend, hopen, hsent, hsave, hlead, GangSt.ready]

/-- The leader, within the grace, counts itself and decides. -/
theorem readySend_leader (hlead : leads s e.gid = true) (hgrace : earlier (graceEnd e g) s.tb = false) :
    readySend s die = leaderDecides s die f e (g.ready s) := by
  simp [readySend, hopen, hsent, hsave, hlead, hgrace, GangSt.ready]

end

/-- Within the grace the leader counts a READY and decides. -/
theorem readyReceive_leader {dev : Nat} (hlead : leads s e.gid = true) (hgrace : earlier (graceEnd e g) s.tb = false) :
    readyReceive s die dev = leaderDecides s die f e { g with readyFrom := dev :: g.readyFrom } := by
  simp [readyReceive, hopen, hlead, hgrace]

/-- Once the grace is over the leader sends SKIP and skips. -/
theorem graceExpiry_leader (hlead : leads s e.gid = true) (hover : earlier s.tb (graceEnd e g) = false) :
    graceExpiry s die = sliceSkip (halSend s (.skip e.gid g.start)) die f e g false := by
  simp [graceExpiry, hopen, hlead, hover]

/-- A member does as the leader has decided. -/
theorem goReceive_member (hlead : leads s e.gid = false) : goReceive s die = sliceGo s die f e g := by
  simp [goReceive, hopen, hlead]

theorem skipReceive_member (hlead : leads s e.gid = false) : skipReceive s die = sliceSkip s die f e g false := by
  simp [skipReceive, hopen, hlead]

/-- 20 µs after the grace it skips on its own. -/
theorem decisionTimeout_skips (hover : earlier s.tb (graceEnd e g + 20000) = false) : decisionTimeout s die = sliceSkip s die f e g true := by
  simp only [decisionTimeout, hopen, hover, Bool.false_eq_true, if_false]

end

/-- Settles O57: an entry that ends by what follows it, and each event of an open slice by whether the device leads the gang. -/
theorem framesAndGangs : Obligations.FramesAndGangs := by
  unfold Obligations.FramesAndGangs
  refine ⟨fun s die hdie hrun => ?frames, fun s die f e g hopen => ?gangs⟩
  case frames =>
    intro f e hcur hover t
    refine ⟨fun j e' hnext => ⟨fun hgang => ?sail, fun hgang => ?slice⟩, fun hnext => ?last⟩
    case sail => exact ends_of_done rfl ((frameEntryEnd_begins hdie hrun hcur hover hnext).trans (beginEntry_sail hgang))
    case slice => exact ends_of_done rfl ((frameEntryEnd_begins hdie hrun hcur hover hnext).trans (beginEntry_slice hgang))
    case last => exact ends_of_done rfl (frameEntryEnd_last hdie hrun hcur hover hnext)
  case gangs =>
    intro late goes
    have hgrace (hlate : ¬ late) : earlier (graceEnd e g) s.tb = false := Bool.eq_false_iff.2 hlate
    refine ⟨fun hsent hsave => ⟨fun hlead => ?ready, fun hlead hlate hall => ?own⟩,
      fun dev hlead hlate => ⟨fun hall => ?decides, fun hlack => ?waits⟩,
      fun hlead hover => ?expiry, fun hlead => ⟨?go, ?skip⟩, fun hover => ?timeout⟩
    case ready => exact ends_of_done rfl (readySend_member hopen hsent hsave hlead)
    case own => exact ends_of_done rfl ((readySend_leader hopen hsent hsave hlead (hgrace hlate)).trans (leaderDecides_go hall))
    case decides => exact ends_of_done rfl ((readyReceive_leader hopen hlead (hgrace hlate)).trans (leaderDecides_go hall))
    case waits => exact ends_of_done rfl ((readyReceive_leader hopen hlead (hgrace hlate)).trans (leaderDecides_waits hlack))
    case expiry => exact ends_of_done rfl (graceExpiry_leader hopen hlead hover)
    case go => exact ends_of_done rfl (goReceive_member hopen hlead)
    case skip => exact ends_of_done rfl (skipReceive_member hopen hlead)
    case timeout => exact ends_of_done rfl (decisionTimeout_skips hopen hover)

end Sys2Proof.Machine
end

section
/-! SUPPORT. Boundaries, rollbacks, corrections, element replays, fatal errors with their dump, and temperature (R274, R349, R350, R354 to R361, R365, R366,
R371); the statement on them, settled. -/

namespace Sys2Proof.Machine

open Sys2Proof.Safety

variable {s : State}

/-! ## Boundaries (R349, R350, R357) -/

/-- After BPER ticks a boundary is wanted, and BPER counts on from where it ended (R349). -/
theorem bperExpiry_wants (hrun : s.fwState = .running) (hbper : s.blob.bper ≠ 0) (hover : s.blob.bper ≤ (s.tb - s.bperFrom).toNat) :
    bperExpiry s = wantBoundary { s with bperFrom := s.bperFrom + BitVec.ofNat 64 s.blob.bper } := by
  refine if_neg ?_
  simp only [Bool.or_eq_true, decide_eq_true_eq, not_or, not_not]
  exact ⟨⟨hrun, hbper⟩, Nat.not_lt.2 hover⟩

/-- A boundary that is wanted begins, where no service action runs: every bound sail unit is asked to leave (R350). -/
theorem boundaryStart_asks (hrun : s.fwState = .running) (hserve : s.service = none) (hbnd : s.bnd = .wanted) :
    boundaryStart s = { s with bnd := .saving, units := s.units.map fun u =>
      (u.1, if u.2.life = .bound ∧ u.2.cancelled = false ∧ u.2.tp.plane ≠ 4 then u.2.askLeave (s.tb + BitVec.ofNat 64 s.blob.bdl) else u.2) } := by
  simp [boundaryStart, hrun, hserve, hbnd, and_assoc]

theorem checkpointDone_ends {b : Word} (h : s.fc.running = some b) :
    checkpointDone s = sendTruncations { s with fc := s.fc.finish s.mem, fcnum := b } := by
  simp only [checkpointDone, h]

/-- Completing the levels of a job leaves what the management cores hold. -/
@[simp] theorem settleJob_toMgmtState (s : State) (job : Nat) : (settleJob s job).toMgmtState = s.toMgmtState := by
  unfold settleJob
  split
  · rfl
  · extract_lets j1 s1 s2
    split_ifs <;> rfl

/-- A write changes memory and what follows a write to it, by values that need not be known here. -/
theorem exists_writePhys_eq (s : State) (p : Phys) (bs : List Byte) :
    ∃ m sys undo fc dead uce watches, writePhys s p bs =
      { s with mem := m, sysMem := sys, undo := undo, fc := fc, dead := dead, uce := uce, watches := watches } := by
  rw [writePhys_eq, writeRaw_eq]
  exact ⟨_, _, _, _, _, _, _, rfl⟩

/-- A write leaves the boundary as it stands, and so does an answer. -/
@[simp] theorem writePhys_bnum (s : State) (p : Phys) (bs : List Byte) : (writePhys s p bs).bnum = s.bnum := by
  obtain ⟨_, _, _, _, _, _, _, heq⟩ := exists_writePhys_eq s p bs
  rw [heq]

@[simp] theorem writePhys_bnd (s : State) (p : Phys) (bs : List Byte) : (writePhys s p bs).bnd = s.bnd := by
  obtain ⟨_, _, _, _, _, _, _, heq⟩ := exists_writePhys_eq s p bs
  rw [heq]

@[simp] theorem putMbox_bnum (s : State) (f : PcieFn) (m : Mailbox) : (putMbox s f m).bnum = s.bnum := rfl

@[simp] theorem putMbox_bnd (s : State) (f : PcieFn) (m : Mailbox) : (putMbox s f m).bnd = s.bnd := rfl

@[simp] theorem respond_bnum (s : State) (f : PcieFn) (status value : Nat) : (respond s f status value).bnum = s.bnum :=
  (putMbox_bnum _ _ _).trans (writePhys_bnum s _ _)

@[simp] theorem respond_bnd (s : State) (f : PcieFn) (status value : Nat) : (respond s f status value).bnd = s.bnd :=
  (putMbox_bnd _ _ _).trans (writePhys_bnd s _ _)

/-- The end of a phase leaves BNUM and how far the boundary has come. -/
theorem advancePhase_boundary (s : State) (job : Nat) : (advancePhase s job).bnum = s.bnum ∧ (advancePhase s job).bnd = s.bnd := by
  unfold advancePhase
  split
  · exact ⟨rfl, rfl⟩
  split
  · exact ⟨rfl, rfl⟩
  · split_ifs <;> simp

theorem advancePhases_boundary (s : State) : (advancePhases s).bnum = s.bnum ∧ (advancePhases s).bnd = s.bnd := by
  refine List.foldlRecOn (motive := fun t : State => t.bnum = s.bnum ∧ t.bnd = s.bnd) s.jobs _ ⟨rfl, rfl⟩ fun t ht j _ => ?_
  obtain ⟨hbnum, hbnd⟩ := advancePhase_boundary t j.1
  exact ⟨hbnum.trans ht.1, hbnd.trans ht.2⟩

/-- The instant once its checkpoint is done, it is counted, and the phases that asked have ended. -/
def phasesEnded (s : State) : State := advancePhases { checkpointDone s with bnum := (checkpointDone s).bnum + 1, bnd := .idle }

/-- The state that the boundary keeps: both logs are clear, and jobs and elements count anew. -/
def boundaryState (s : State) : State :=
  let t := phasesEnded s
  let n := (checkpointDone s).bnum + 1
  { t with
    bndFull := false, undo := [], log := [], extJobs := [], rollbacks := 0
    fc := t.fc.begin (t.bndFull || (t.blob.fper ≠ 0 && n.toNat % t.blob.fper = 0)) n
    jobs := t.jobs.map fun j => (j.1, { j.2 with external := false })
    health := t.health.map fun h => (h.1, { h.2 with fails := 0 }) }

/-- Once every sail unit is saved the boundary is taken, and its state kept (R350). -/
theorem boundaryInstant_keeps (hbnd : s.bnd = .saving) (hall : allSaved s = true) :
    boundaryInstant s = settleBackstay { boundaryState s with snap := some (boundaryState s).toDev } :=
  if_neg (by simp [hbnd, hall])

theorem boundaryState_bnum (s : State) : (boundaryState s).bnum = (checkpointDone s).bnum + 1 := (advancePhases_boundary _).1

theorem boundaryState_bnd (s : State) : (boundaryState s).bnd = .idle := (advancePhases_boundary _).2

/-! ## Rollback (R354, R356, R358) -/

/-- An error in memory that no cache-mode line holds goes by the kept state, the rollbacks since the instant, and the errors that the restore meets. -/
def memoryError (s : State) (dpa : Nat) : State :=
  match s.snap with
  | none => fatal s 1 (BitVec.ofNat 64 dpa)
  | some d =>
    if 2 ≤ s.rollbacks then fatal s 2 (BitVec.ofNat 64 dpa)
    else
      match restoreError s (dpa / 4096) with
      | some a => fatal s 1 (BitVec.ofNat 64 a)
      | none => rollBack s d (dpa / 4096)

section
variable {d : Dev} {dpa : Nat}

theorem memoryError_unkept (hsnap : s.snap = none) : memoryError s dpa = fatal s 1 (BitVec.ofNat 64 dpa) := by
  simp only [memoryError, hsnap]

theorem memoryError_third (hsnap : s.snap = some d) (hmany : 2 ≤ s.rollbacks) : memoryError s dpa = fatal s 2 (BitVec.ofNat 64 dpa) := by
  simp only [memoryError, hsnap, if_pos hmany]

theorem memoryError_meets {a : Nat} (hsnap : s.snap = some d) (hfew : s.rollbacks < 2) (herr : restoreError s (dpa / 4096) = some a) :
    memoryError s dpa = fatal s 1 (BitVec.ofNat 64 a) := by
  simp only [memoryError, hsnap, if_neg (Nat.not_le.2 hfew), herr]

theorem memoryError_loads (hsnap : s.snap = some d) (hfew : s.rollbacks < 2) (hnone : restoreError s (dpa / 4096) = none) :
    memoryError s dpa = rollBack s d (dpa / 4096) := by
  simp only [memoryError, hsnap, if_neg (Nat.not_le.2 hfew), hnone]

variable (hrun : s.fwState = .running) (hlost : kget s.lost (dpa / 4096) = none)
include hrun hlost

/-- An error in a line of a stack in cache mode starts no rollback. -/
theorem rollback_line {st : Nat} (hreg : regionOf dpa = .tier st) (hmode : s.ctMode.getLsbD st = true) : rollback s dpa = lineError s := by
  simp [rollback, hrun, hlost, hreg, hmode]

theorem rollback_memory (hpeer : ∀ st, regionOf dpa = .tier st → s.ctMode.getLsbD st = false) (hmem : ∀ st, regionOf dpa ≠ .tierReserved st) :
    rollback s dpa = memoryError s dpa := by
  unfold rollback memoryError
  extract_lets here
  have hhere : here = true := by
    simp only [here]
    split
    · rw [hpeer _ ‹_›]
      rfl
    · rfl
  rw [if_neg (by simp [hrun, hlost]), if_neg (by simp [hhere])]
  cases hreg : regionOf dpa with
  | tierReserved st => exact absurd hreg (hmem st)
  | _ => cases s.snap <;> rfl

end

/-! ## Element replay (R360, R361) -/

/-- A failed check of an element is counted, in its health and among the replays. -/
def replayed (s : State) (die tile elem : Nat) : State :=
  { setHealth s die tile elem { healthOf s die tile elem with fails := (healthOf s die tile elem).fails + 1 } with
    counters := { s.counters with replays := s.counters.replays + 1 } }

/-- An element that is not retired is replayed, and its third failure moves it. -/
theorem elementReplay_counts {e : Site} {copy tile elem : Nat} (hsite : siteElem s e copy = some (tile, elem))
    (hin : (healthOf s e.tp.die tile elem).retired = false) :
    elementReplay s e copy = if (healthOf s e.tp.die tile elem).fails + 1 < 3 then replayed s e.tp.die tile elem
      else spareMove (replayed s e.tp.die tile elem) e.tp.die tile elem := by
  simp [elementReplay, hsite, hin, replayed]

/-! ## Fatal errors and the dump (R365, R366) -/

/-- What is left of a device that has met a fatal error: memory, the dump, and vector 0 raised. -/
def fatalState (s : State) (cause : Nat) (val : Word) : State :=
  let s1 : State := { s with toDev := { Dev.reset with toMemState := s.toMemState }, fwState := .fatal, dump := true }
  raiseMsix { s1 with mem := putBytes s1.mem dumpBase (dumpBytes s cause val) } .pf 0

theorem fatal_running (hrun : s.fwState = .running) (cause : Nat) (val : Word) : fatal s cause val = fatalState s cause val :=
  if_neg (not_not.2 hrun)

theorem length_dumpTable (off : Nat) (secs : List (Fin 8 × List Byte)) : (dumpTable off secs).length = 16 * secs.length := by
  induction secs generalizing off with
  | nil => rfl
  | cons x secs ih =>
    simp only [dumpTable, List.length_append, length_leBytes, ih, List.length_cons]
    omega

/-- The sections that are kept fit, with their entries of the table, into the bytes that there are. -/
theorem fitSections_fits (n : Nat) (secs : List (Fin 8 × List Byte)) :
    16 * (fitSections n secs).length + ((fitSections n secs).flatMap fun x => x.2).length ≤ n := by
  induction secs generalizing n with
  | nil => exact Nat.zero_le n
  | cons x secs ih =>
    obtain ⟨t, bs⟩ := x
    unfold fitSections
    split
    · exact Nat.zero_le n
    · have hrest := ih (n - 16 - (bs.take (n - 16)).length)
      have htake := List.length_take_le (n - 16) bs
      simp only [List.flatMap_cons, List.length_append, List.length_cons]
      omega

/-- The dump is a header of 48 bytes, its section table, and its sections. -/
theorem length_dumpBytes_le (s : State) (cause : Nat) (val : Word) : (dumpBytes s cause val).length ≤ 2 ^ 30 := by
  have hfits := fitSections_fits (2 ^ 30 - 0x30) (Config.dumpSections s.tb)
  simp only [dumpBytes, wordBytes, List.length_append, length_leBytes, length_dumpTable]
  omega

/-! ## The statement -/

/-- Settles O58: each event by the lemma on what it does, and an error in memory by the state that is kept and the rollbacks to it. -/
theorem boundariesAndRollback : Obligations.BoundariesAndRollback := by
  unfold Obligations.BoundariesAndRollback
  refine ⟨fun s hrun hbper hover => ?bper, fun s hrun hserve hbnd => ?start, fun s hbnd hall => ?instant, fun s b hb => ?checkpoint,
    fun s d dpa hrun hlost hpeer hmem => ?rollback, fun s dpa st hrun hlost hreg hmode => ?line, fun s dpa => ?scrub,
    fun s e copy tile elem hsite => ?replay, fun s hrun => ?fatal, length_dumpBytes_le, fun s die => ?limit, fun s die val hdie => ?ahalt⟩
  case bper => exact ends_of_done rfl (bperExpiry_wants hrun hbper hover)
  case start => exact ends_of_done rfl (boundaryStart_asks hrun hserve hbnd)
  case instant =>
    exact ⟨boundaryState s, ends_of_done rfl (boundaryInstant_keeps hbnd hall), boundaryState_bnum s, boundaryState_bnd s, rfl, rfl, rfl, rfl⟩
  case checkpoint => exact ends_of_done rfl (checkpointDone_ends hb)
  case rollback =>
    have hgoes := rollback_memory hrun hlost hpeer hmem
    exact ⟨fun hsnap hfew hnone => ends_of_done rfl (hgoes.trans (memoryError_loads hsnap hfew hnone)),
      fun a hsnap hfew herr => ends_of_done rfl (hgoes.trans (memoryError_meets hsnap hfew herr)),
      fun hsnap hmany => ends_of_done rfl (hgoes.trans (memoryError_third hsnap hmany)),
      fun hsnap => ends_of_done rfl (hgoes.trans (memoryError_unkept hsnap))⟩
  case line => exact ends_of_done rfl (rollback_line hrun hlost hreg hmode)
  case scrub => exact ends_of_done rfl rfl
  case replay =>
    intro h s1 hin
    have hcounts := elementReplay_counts hsite hin
    exact ⟨fun hfew => ends_of_done rfl (hcounts.trans (if_pos (Nat.succ_lt_succ hfew))),
      fun hmany => ends_of_done rfl (hcounts.trans (if_neg (Nat.not_lt.2 (Nat.succ_le_succ hmany))))⟩
  case fatal =>
    exact ⟨fun val => ⟨ends_of_done rfl (fatal_running hrun 3 val), ends_of_done rfl (fatal_running hrun 5 val)⟩,
      fun die val hdie => ends_of_done rfl ((if_pos hdie).trans (fatal_running hrun 4 val))⟩
  case limit => exact ⟨ends_of_done rfl rfl, ends_of_done rfl rfl⟩
  case ahalt => exact ends_of_done rfl (if_neg (Nat.not_le.2 hdie))

end Sys2Proof.Machine
end

section
/-! SUPPORT. Links, halyards, the device as a backstay and the streams that it serves (R186, R376 to R380, R383 to R385, R388, R389); the statement on them,
settled. -/

namespace Sys2Proof.Machine

open Sys2Proof.Safety

variable {s : State}

/-! ## Links of the package (R376 to R379) -/

section
variable {l : Nat}

/-- A link in service on which a flit failed its CRC: the flit and the `more` sent after it are resent (R377). -/
def Link.resent (x : Link) (streak more : Nat) : Link :=
  { x with crcerr := satAdd x.crcerr 1, replay := satAdd x.replay (1 + more), streak := streak }

/-- The fourth resend of one flit in succession retrains the link (R377). -/
theorem flitCrcFail_resends (hl : l < 16) (hup : (linkOf s l).state = 0) :
    let streak := if Config.freeNat s.freeCount % 2 = 0 then (linkOf s l).streak + 1 else 1
    let y := (linkOf s l).resent streak (Config.freeNat (s.freeCount + 1))
    flitCrcFail s l = putLink { s with freeCount := s.freeCount + 2 } l (if 4 ≤ streak then y.startSelf s l else y) :=
  if_neg (by simp [hl, hup])

/-- A link that loses training retrains (R377). -/
theorem trainingLoss_retrains (hl : l < 28) (hup : (linkOf s l).state = 0) : trainingLoss s l = putLink s l ((linkOf s l).startSelf s l) :=
  if_neg (by simp [hl, hup])

/-- A rate that a link of the package has is set, in place of one above the limit the limit (R376). -/
theorem setRate_sets {r : BitVec 3} (hl : l < 16) (hr : r.toNat < 5) :
    setRate s l r = putLink s l { linkOf s l with
      ctlRate := r, rqrate := BitVec.ofNat 8 (gtOf (limited s l r)), rateDue := (linkOf s l).rateDue || decide ((linkOf s l).ctlRate ≠ r) } :=
  if_neg (by simp [hl, hr])

/-- A rate that a link of the package has changes it where it is another (R376). -/
theorem rateChanges_iff {r : BitVec 3} (hl : l < 16) (hr : r.toNat < 5) : rateChanges s l r = true ↔ ¬ (linkOf s l).ctlRate = r := by
  simp [rateChanges, hl, hr]

/-- A write of the rate that the link has been given asks for no retrain, and any other does (R376). -/
theorem lnkctlRate_asks {r : BitVec 3} (hl : l < 16) (hr : r.toNat < 5) :
    lnkctlRate s l r = if (linkOf s l).ctlRate = r then setRate s l r else wantRetrain (setRate s l r) l := by
  simp only [lnkctlRate, rateChanges_iff hl hr, ite_not]

/-- A link once its retrain has ended in `y`, where the width dropped or not, and `more` flits were resent (R377 to R379). -/
def Link.retrained (x y : Link) (told : Bool) (more : Nat) : Link :=
  { y with outTold := x.outTold || told, rtd := true, retrn := satAdd y.retrn 1, replay := satAdd y.replay more,
           back := if x.back = .running then .over else x.back, since := none }

/-- A retrain ends: a drop in width degrades the link, and a link that is lost takes its routes or its streams with it (R376 to R380). -/
theorem retrainDone_ends {o : TrainOutcome} (hl : l < 28) (htrains : (linkOf s l).state = 1) :
    let y := if l < 16 then (linkOf s l).moduleDone o else (linkOf s l).halyardDone o
    let drops := decide (y.width.toNat < (linkOf s l).trainedFrom)
    let s1 := putLink { s with freeCount := s.freeCount + 1 } l ((linkOf s l).retrained y (drops && outWaits s l) (Config.freeNat s.freeCount))
    let s2 := if drops then degrade s1 l else s1
    retrainDone s l o = startWanted (if l < 16 then checkRoutes s2 else loseStreams s2) :=
  if_neg (by simp [hl, htrains])

end

/-! ## Halyards (R380, R384) -/

section
variable {port : Nat}

/-- A frame that fails its CRC is resent with the fewer than 64 that follow it (R380). -/
theorem frameCrcFail_resends (hport : port < 12) (hup : (linkOf s (16 + port)).state = 0) :
    frameCrcFail s port = putLink { s with freeCount := s.freeCount + 2 } (16 + port) { linkOf s (16 + port) with
      crcerr := satAdd (linkOf s (16 + port)).crcerr 1, replay := satAdd (linkOf s (16 + port)).replay (1 + Config.freeNat s.freeCount % 64),
      fecunc := satAdd (linkOf s (16 + port)).fecunc (Config.freeNat (s.freeCount + 1)) } :=
  if_neg (by simp [hport, hup])

/-- A port that has not trained for 100 µs is down (R380). -/
theorem halyardDown_ends {t : Word} (hport : port < 12) (htrains : (linkOf s (16 + port)).state = 1) (hsince : (linkOf s (16 + port)).since = some t)
    (hlate : 100000 ≤ (s.tb - t).toNat) :
    let s1 := putLink s (16 + port) { linkOf s (16 + port) with state := 2, width := 0, rate := 0, since := none }
    halyardDown s port = startWanted (loseStreams (if (linkOf s (16 + port)).width ≠ 0 then degrade s1 (16 + port) else s1)) :=
  if_neg (by simp [hport, htrains, hsince, hlate, -BitVec.toNat_sub])

variable (hport : port < 12) (hup : (linkOf s (16 + port)).state = 0) (hrun : s.fwState = .running)
include hport hup hrun

/-- Another device's read is answered with what it reaches (R380). -/
theorem remoteAccess_reads {dpa len : Nat} (hfree : outsideWaits s dpa len false = false) :
    remoteAccess s port (.read dpa len) = halSend s (.remoteData port (outsideRead s dpa len)) := by
  simp [remoteAccess, hport, hup, hrun, hfree]

/-- Another device's write to memory that it reaches is done (R380, R384). -/
theorem remoteAccess_writes {dpa : Nat} {bs : List Byte} (hfree : outsideWaits s dpa bs.length true = false) (hreach : outsideReach s dpa bs.length = true) :
    remoteAccess s port (.write dpa bs) = writePhys s (.dpa dpa) bs := by
  simp [remoteAccess, outsideWrite, hport, hup, hrun, hfree, hreach]

end

/-! ## What the backstay holds back -/

@[simp] theorem writePhys_held (s : State) (p : Phys) (bs : List Byte) : (writePhys s p bs).held = s.held := by
  obtain ⟨_, _, _, _, _, _, _, heq⟩ := exists_writePhys_eq s p bs
  rw [heq]

@[simp] theorem putPart_held (s : State) (p : Nat) (h : Part) : (putPart s p h).held = s.held := writePhys_held s _ _

@[simp] theorem backAck_held (s : State) (ws : List Word) (n : Nat) (poison : Bool) : (backAck s ws n poison).held = s.held := rfl

theorem retryHeld_of_empty (h : s.held = []) : retryHeld s = s := by
  simp only [retryHeld, h, List.foldl_nil]
  rw [← h]

/-- With nothing held back there is nothing to act on. -/
theorem settleBackstay_of_empty (h : s.held = []) : settleBackstay s = s := by
  simp only [settleBackstay, settleHeld, retryHeld_of_empty h, if_true]

theorem retryHeld_singleton {w : Waiting} (h : s.held = []) : retryHeld (holdBack s w) = retryOne s w := by
  have hclear : { holdBack s w with held := [] } = s := by rw [← h]; rfl
  simp only [retryHeld, hclear]
  simp only [holdBack, h, List.nil_append, List.foldl_cons, List.foldl_nil]

/-- One thing that is held back, and would be again, stays so. -/
theorem settleBackstay_holdBack {w : Waiting} (h : s.held = []) (hagain : retryOne s w = holdBack s w) : settleBackstay (holdBack s w) = holdBack s w := by
  simp only [settleBackstay, settleHeld, retryHeld_singleton h, hagain, if_true]

theorem holdBack_of_empty {w : Waiting} (h : s.held = []) : holdBack s w = { s with held := [w] } := by
  simp only [holdBack, h, List.nil_append]

/-! ## Partitions (R383, R388) -/

section
variable {gseq : BitVec 32} {p n : Nat} {h : Part} {ws : List Word}

theorem gseq_of_findPart (hp : findPart s gseq = some p) : (partOf s p).gseq = gseq := by
  have hmatch := List.find?_some hp
  simp only [Bool.and_eq_true, decide_eq_true_eq] at hmatch
  exact hmatch.2

/-- An entry with a free slot, which no full undo log keeps from memory, is stored and acknowledged. -/
theorem storeEntry_stores (hroom : h.lastn - h.trunc < s.blob.jlen) (hslot : slotHeld s (slotAddr s p n) = false) (hheader : headerHeld s p = false) :
    storeEntry s p h n ws = backAck (putPart (writePhys s (.dpa (slotAddr s p n)) (ws.flatMap wordBytes)) p { h with lastn := n }) ws n false :=
  if_neg (by simp [hroom, hslot, hheader])

/-- Storing an entry leaves what is held back. -/
theorem storeEntry_held (hroom : h.lastn - h.trunc < s.blob.jlen) (hslot : slotHeld s (slotAddr s p n) = false) (hheader : headerHeld s p = false) :
    (storeEntry s p h n ws).held = s.held := by
  simp [storeEntry_stores hroom hslot hheader]

/-- An entry that finds no free slot is held. -/
theorem storeEntry_full (hfull : s.blob.jlen ≤ h.lastn - h.trunc) :
    storeEntry s p h n ws = holdBack s { gseq := h.gseq, n := n, words := ws, kind := .entry } :=
  if_pos (by simp [hfull])

/-- The header of a partition that entry `n`, the first of a sequence, opens: what comes before it stands as stored and truncated (R383, log entry 102). -/
def openedPart (gseq : BitVec 32) (n : Nat) : Part := { gseq := gseq, v := true, lastn := n - 1, basen := n - 1, trunc := n - 1 }

/-- A partition that has been opened has every slot free. -/
theorem openedPart_room (hjlen : 0 < s.blob.jlen) : (openedPart gseq n).lastn - (openedPart gseq n).trunc < s.blob.jlen :=
  (Nat.sub_self (n - 1)).symm ▸ hjlen

theorem backEntry_opens (hnew : findPart s gseq = none) (hfree : ((List.range s.blob.npart).find? fun p => !(partOf s p).v) = some p) :
    backEntry s gseq n ws = storeEntry s p (openedPart gseq n) n ws := by
  simp only [backEntry, hnew, hfree, openedPart]

section
variable (hp : findPart s gseq = some p)
include hp

/-- What the backstay does with an entry of a sequence that it has a partition for goes by its number (R383). -/
theorem backEntry_found : backEntry s gseq n ws =
    if n ≤ (partOf s p).trunc ∨ n ≤ (partOf s p).basen then backAck s ws n false
    else if n ≤ (partOf s p).lastn then backAck s ws n (getBytes s.mem (slotAddr s p n + 8) 24 != (ws.drop 1).flatMap wordBytes)
    else if n = (partOf s p).lastn + 1 then storeEntry s p (partOf s p) n ws
    else holdBack s { gseq := gseq, n := n, words := ws, kind := .entry } := by
  simp only [backEntry, hp, Bool.or_eq_true, decide_eq_true_eq]

theorem backEntry_old (hold : n ≤ (partOf s p).trunc ∨ n ≤ (partOf s p).basen) : backEntry s gseq n ws = backAck s ws n false := by
  rw [backEntry_found hp, if_pos hold]

/-- An entry stored before is compared, all but the word that names its sender. -/
theorem backEntry_again (htrunc : (partOf s p).trunc < n) (hbasen : (partOf s p).basen < n) (hlast : n ≤ (partOf s p).lastn) :
    backEntry s gseq n ws = backAck s ws n (getBytes s.mem (slotAddr s p n + 8) 24 != (ws.drop 1).flatMap wordBytes) := by
  rw [backEntry_found hp, if_neg (by omega), if_pos hlast]

theorem backEntry_next (htrunc : (partOf s p).trunc < n) (hbasen : (partOf s p).basen < n) (hnext : n = (partOf s p).lastn + 1) :
    backEntry s gseq n ws = storeEntry s p (partOf s p) n ws := by
  rw [backEntry_found hp, if_neg (by omega), if_neg (by omega), if_pos hnext]

/-- An entry that comes early, or finds no free slot, is held. -/
theorem backEntry_holds (htrunc : (partOf s p).trunc < n) (hbasen : (partOf s p).basen < n)
    (hwait : (partOf s p).lastn + 1 < n ∨ n = (partOf s p).lastn + 1 ∧ s.blob.jlen ≤ (partOf s p).lastn - (partOf s p).trunc) :
    backEntry s gseq n ws = holdBack s { gseq := gseq, n := n, words := ws, kind := .entry } := by
  obtain hearly | ⟨hnext, hfull⟩ := hwait
  · rw [backEntry_found hp, if_neg (by omega), if_neg (by omega), if_neg (by omega)]
  · rw [backEntry_next hp htrunc hbasen hnext, storeEntry_full hfull, gseq_of_findPart hp]

variable (hheader : headerHeld s p = false)
include hheader

/-- The end record of a sequence whose last entry is the last stored frees the partition (R388). -/
theorem backEnd_frees (hall : n = (partOf s p).lastn) :
    backEnd s gseq n = putPart s p { partOf s p with v := false, trunc := max (partOf s p).trunc n } := by
  simp [backEnd, hp, hheader, hall]

/-- The entries above an end record are those of a new partition (R389). -/
theorem backEnd_splits (hmore : n < (partOf s p).lastn) :
    backEnd s gseq n = putPart s p { partOf s p with basen := max (partOf s p).basen n, trunc := max (partOf s p).trunc n } := by
  simp [backEnd, hp, hheader, hmore, Nat.le_of_lt hmore]

theorem backTrunc_raises : backTrunc s gseq n = putPart s p { partOf s p with trunc := max (partOf s p).trunc n } := by
  simp [backTrunc, hp, hheader]

end

/-! ## What the backstay receives, with nothing held back -/

variable {w0 w1 w2 w3 : Word} {t : State} (hheld : s.held = [])

/-- An entry that leaves nothing held back ends where it is acted on. -/
theorem entryReceive_of (hact : backEntry s (w1.setWidth 32) (w0.toNat % 2 ^ 40) [w0, w1, w2, w3] = t) (ht : t.held = []) :
    entryReceive s [w0, w1, w2, w3] = t :=
  (congrArg settleBackstay hact).trans (settleBackstay_of_empty ht)

include hheld

/-- An entry that is stored is acknowledged, and nothing more moves. -/
theorem entryReceive_stores (hact : backEntry s (w1.setWidth 32) (w0.toNat % 2 ^ 40) [w0, w1, w2, w3] = storeEntry s p h (w0.toNat % 2 ^ 40) [w0, w1, w2, w3])
    (hroom : h.lastn - h.trunc < s.blob.jlen) (hslot : slotHeld s (slotAddr s p (w0.toNat % 2 ^ 40)) = false) (hheader : headerHeld s p = false) :
    entryReceive s [w0, w1, w2, w3] =
      backAck (putPart (writePhys s (.dpa (slotAddr s p (w0.toNat % 2 ^ 40))) ([w0, w1, w2, w3].flatMap wordBytes)) p { h with lastn := w0.toNat % 2 ^ 40 })
        [w0, w1, w2, w3] (w0.toNat % 2 ^ 40) false :=
  (entryReceive_of hact ((storeEntry_held hroom hslot hheader).trans hheld)).trans (storeEntry_stores hroom hslot hheader)

/-- An entry that is held back is tried again once, and stays held. -/
theorem entryReceive_holds
    (hact : backEntry s (w1.setWidth 32) (w0.toNat % 2 ^ 40) [w0, w1, w2, w3] =
      holdBack s { gseq := w1.setWidth 32, n := w0.toNat % 2 ^ 40, words := [w0, w1, w2, w3], kind := .entry }) :
    entryReceive s [w0, w1, w2, w3] =
      { s with held := [{ gseq := w1.setWidth 32, n := w0.toNat % 2 ^ 40, words := [w0, w1, w2, w3], kind := .entry }] } :=
  calc entryReceive s [w0, w1, w2, w3]
    _ = settleBackstay (holdBack s _) := congrArg settleBackstay hact
    _ = holdBack s _ := settleBackstay_holdBack hheld hact
    _ = _ := holdBack_of_empty hheld

/-- An end record, or a truncation, that writes the partition's header ends there. -/
theorem endReceive_of {lastn : BitVec 40} (hact : backEnd s gseq lastn.toNat = putPart s p h) : endReceive s gseq lastn = putPart s p h :=
  (congrArg settleBackstay hact).trans (settleBackstay_of_empty ((putPart_held s p h).trans hheld))

theorem truncReceive_of {k : BitVec 40} (hact : backTrunc s gseq k.toNat = putPart s p h) : truncReceive s gseq k = putPart s p h :=
  (congrArg settleBackstay hact).trans (settleBackstay_of_empty ((putPart_held s p h).trans hheld))

end

/-! ## The sender's side (R186, R381, R385) -/

section
variable {die j : Nat}

/-- A bound stream takes the acknowledgement of its oldest entry. -/
theorem ackReceive_takes {e : JEntry} {rest : List JEntry} {m : BitVec 40} {poison : Bool} (hpend : (journalOf s die j).pend = e :: rest)
    (hm : m = (journalOf s die j).ackn + 1) (hbound : (journalOf s die j).state ≠ 0) (hremote : (journalOf s die j).state ≠ 3) :
    ackReceive s die j m poison = settleAcks (putJournal s die j { journalOf s die j with
      ackn := m, pend := rest,
      acks := (journalOf s die j).acks ++ [{ site := e.site, unit := e.unit, num := m.toNat, status := 0, poison := poison }] }) die j := by
  simp only [ackReceive, hpend]
  exact if_neg (by simpa [hm] using ⟨hbound, hremote⟩)

/-- What a stream lost for over 1,000,000 ticks had sent is poisoned (R385, log entry 155). -/
theorem lostExpiry_poisons (hlost : (journalOf s die j).state = 2) (hfirst : (journalOf s die j).expired = false)
    (hlate : 1000000 < (s.tb - (journalOf s die j).lostAt).toNat) :
    lostExpiry s die j = settleAcks (putJournal s die j { ackAll (journalOf s die j) 0 true with expired := true }) die j :=
  if_pos (by simp [hlost, hfirst, hlate, -BitVec.toNat_sub])

end

/-! ## The statement -/

/-- Settles O59: each event by the lemma on what it does; what the backstay receives, by what it does with it and that nothing more moves. -/
theorem linksAndBackstay : Obligations.LinksAndBackstay := by
  unfold Obligations.LinksAndBackstay
  refine ⟨fun s l => ⟨fun hl hup => ?crc, fun hl hup => ?loss, fun r hl hr => ?rate, fun hl => ?retrain, fun o hl htrains => ?done⟩,
    fun s port hport => ⟨fun hup => ?frame, fun t htrains hsince hlate => ?down,
      fun hup hrun => ⟨fun dpa len hfree => ?read, fun dpa bs hfree hreach => ?write⟩⟩,
    fun s w0 w1 w2 w3 p hp hheld => ⟨fun hnext htrunc hbasen hroom hslot hheader => ?store, fun hold => ?old, fun htrunc hbasen hlast => ?again,
      fun htrunc hbasen hwait => ?hold, fun lastn hheader => ⟨fun hall => ?frees, fun hmore => ?splits⟩, fun k hheader => ?trunc⟩,
    fun s w0 w1 w2 w3 p hnew hheld hfree hjlen hslot hheader => ?opens,
    fun s die j => ⟨fun e rest m poison hpend hm hbound hremote => ?ack, fun hlost hfirst hlate => ?expiry⟩⟩
  case crc => exact ends_of_done rfl (flitCrcFail_resends hl hup)
  case loss => exact ends_of_done rfl (trainingLoss_retrains hl hup)
  case rate => exact ends_of_done rfl (by rw [lnkctlRate_asks hl hr, setRate_sets hl hr])
  case retrain => exact ends_of_done rfl (if_pos hl)
  case done => exact ends_of_done rfl (retrainDone_ends hl htrains)
  case frame => exact ends_of_done rfl (frameCrcFail_resends hport hup)
  case down => exact ends_of_done rfl (halyardDown_ends hport htrains hsince hlate)
  case read => exact ends_of_done rfl (remoteAccess_reads hport hup hrun hfree)
  case write => exact ends_of_done rfl (remoteAccess_writes hport hup hrun hfree hreach)
  case store => exact ends_of_done rfl (entryReceive_stores hheld (backEntry_next hp htrunc hbasen hnext) hroom hslot hheader)
  case old => exact ends_of_done rfl (entryReceive_of (backEntry_old hp hold) hheld)
  case again => exact ends_of_done rfl (entryReceive_of (backEntry_again hp htrunc hbasen hlast) hheld)
  case hold => exact ends_of_done rfl (entryReceive_holds hheld (backEntry_holds hp htrunc hbasen hwait))
  case frees => exact ends_of_done rfl (endReceive_of hheld (backEnd_frees hp hheader hall))
  case splits => exact ends_of_done rfl (endReceive_of hheld (backEnd_splits hp hheader hmore))
  case trunc => exact ends_of_done rfl (truncReceive_of hheld (backTrunc_raises hp hheader))
  case opens =>
    exact ends_of_done rfl (entryReceive_stores (h := openedPart _ _) hheld (backEntry_opens hnew hfree) (openedPart_room hjlen) hslot hheader)
  case ack => exact ends_of_done rfl (ackReceive_takes hpend hm hbound hremote)
  case expiry => exact ends_of_done rfl (lostExpiry_poisons hlost hfirst hlate)

end Sys2Proof.Machine
end
